-- ==== Sys2Proof/Word.lean ====
section
/-! DEFINITION. The word types of the Scaranyx and their plainest arithmetic (spec/00_scope.md R4, spec/07_scalar_instructions.md R125). -/

namespace Sys2Proof

/-- A byte of memory. -/
abbrev Byte := BitVec 8

/-- A g register, an address or a system register: 64 bits. -/
abbrev Word := BitVec 64

/-- The two instruction streams of a core (R10). -/
inductive StreamId where
  | a
  | c
deriving DecidableEq, Repr

/-- The other stream of the same core. -/
def StreamId.other : StreamId → StreamId
  | .a => .c
  | .c => .a

@[simp] theorem StreamId.other_other (x : StreamId) : x.other.other = x := by cases x <;> rfl

/-- `w64(y)` of R125: the 64-bit pattern congruent to the integer `y` modulo 2^64. -/
abbrev w64 (y : Int) : Word := BitVec.ofInt 64 y

/-- All 64 bits set: the "all ones" that several instructions return. -/
abbrev allOnes64 : Word := 0xFFFFFFFFFFFFFFFF#64

/-- A truth value as a g register holds it (R126). -/
def boolWord (b : Bool) : Word := if b then 1 else 0

/-- `sdiff(a, b)` of R62: the integer d with −2^31 ≤ d < 2^31 and d ≡ a − b (mod 2^32). -/
def sdiff (a b : BitVec 32) : Int := (a - b).toInt

end Sys2Proof
end

