-- ==== Sys2Proof/Config.lean ====
section
/-! DEFINITION. What one implementation fixes: the limits of spec/01_device.md R10 to R13 and the free values.
A free value is opaque: no proof can see it, so a claim holds whatever it is. -/

namespace Sys2Proof.Config

/-- Scratchpad bytes of a core (R10, R138). -/
abbrev scratchBytes : Nat := 0x60000

/-- Entries of a queue (R90). -/
abbrev queueDepth : Nat := 16

/-- Jobs of a cluster's copy unit (R202). -/
abbrev copyJobs : Nat := 64

/-- Part-way instructions a stream may hold (R314). -/
abbrev partWayMax : Nat := 8

/-- Pending-fault records of a cluster (R160) and of the front end (R365). -/
abbrev faultRecords : Nat := 16

/-- Unread entries of the fault buffer (R160). -/
abbrev faultBuffer : Nat := 8

/-- Keys of a context's pin directory (R233). -/
abbrev pinKeys : Nat := 1024

/-- Stores of a core that may stand unacknowledged (R267). -/
abbrev unackMax : Nat := 65535

/-- Bytes of pooled memory: physical addresses 0 to 0x02CB_4177_FFFF (R153). -/
abbrev pooledBytes : Nat := 0x02CB41780000

/-- Lines that a cluster's atomic engine may hold (R11). -/
abbrev hotLines : Nat := 64

/-- Cycles after which the cluster atomic engine promotes a request (R269). -/
abbrev promoteCycles : Nat := 64

/-- Stale re-reads after which a queue stops (R27). -/
abbrev staleReads : Nat := 8

/-- Bytes of resident lines a slice may hold (R152). -/
abbrev residentBytes : Nat := 2 * 1024 * 1024

/-- FREE VALUE (log entry 6): which of the values within the bound of R213 the device answers for an inexact special function,
by function number, format tag and operand pattern. -/
opaque specialValue : Nat → Nat → Nat → Nat

/-- FREE VALUE (log entry 5): a byte that a peer device answers, by the name of the access and the byte's place. -/
opaque peerByte : Nat → Nat → Byte

/-- FREE VALUE (log entry 5): whether a peer device that answers admits an access (R354), by the name of the access. -/
opaque peerAdmits : Nat → Bool

/-- FREE VALUE (log entry 5): whether the words of a peer device's scratchpad stand as a synchronising access waits for them (R195),
by the name of the try. -/
opaque peerReady : Nat → Bool

/-- FREE VALUE (log entry 5): a byte of the body of a task record or of a front's records (R317), whose arrangement is private to the device,
by the name of the save and the byte's place. -/
opaque saveByte : Nat → Nat → Byte

/-- FREE VALUE (log entry 5): the bytes of body that a task record holds, by the name of the save; taken modulo what fits (R317). -/
opaque saveBytes : Nat → Nat

/-- Name of the holder of a group whose task is saved: no core has this number (R316). -/
abbrev savedHolder : Nat := 4096

end Sys2Proof.Config
end

