-- ==== Sys2Proof/Syntax.lean ====
section
/-! DEFINITION. The syntax: one constructor per row of spec/opcode_table.json.
The encoded rows carry the fields of their encoding (spec/06_encoding.md R102 to R121) as bit vectors of the field's width.
The rows without an encoding are what the host, the device's blocks and the outside do; they carry plain data.
Field names: d destination, a first source, b second source, n the gn register or a count, g the gg register, imm and off the immediates,
c a condition or shift count, k the mask register or the shadow number, tag a format tag, esz and sz sizes, w a width, rt the return bit,
sc a scope, f a format or flag field, u unsigned, pol the mask policy, p the promotion field, me and m the mask enable, la the lookahead, q a queue. -/

namespace Sys2Proof

/-- A cluster rectangle: columns x to x + w − 1 and rows y to y + h − 1 (R9). -/
structure Rect where
  x : Nat
  y : Nat
  w : Nat
  h : Nat
deriving DecidableEq, Repr

/-- Which waiting request of a core an event speaks of: an access without return by its place in the core's list,
or a long-latency atomic of the A-stream by its place among the incomplete instructions (R199, R269). -/
inductive ReqRef where
  | pending (idx : Nat)
  | op (idx : Nat)
deriving DecidableEq, Repr

/-- What a configuration image holds (R359). -/
structure ConfigImage where
  domNum    : BitVec 10
  retired   : List Nat
  links     : BitVec 16
  pwrLimit  : Nat
  retireMax : Nat
deriving DecidableEq, Repr

/-- What the outside supplies when a mailbox command ends (R361): whether the signature was good, the image the request held,
the firmware revision of a firmware image, and the bytes of a report. -/
structure MailboxReply where
  sigOk  : Bool
  image  : ConfigImage
  fwRev  : BitVec 8
  report : List Byte
deriving DecidableEq, Repr

/-- What power-on finds (R359, R360): the firmware signature, clusters failing self-test, any other failure,
whether the configuration image is good, the image on the board's flash, its firmware revision, the ports that train,
and the self-test record past its bitmap of failed clusters (R361). -/
structure BootInput where
  fwOk     : Bool
  fwRev    : BitVec 8
  failed   : List Nat
  otherBad : Bool
  record   : List Byte
  configOk : Bool
  config   : ConfigImage
  ports    : BitVec 2
deriving DecidableEq, Repr

/-- The operations of an atomic (R116). -/
inductive AtomicOp where
  | add | band | bor | bxor | smin | smax | swp | cas | radd
deriving DecidableEq, Repr

/-- What the host does with a line of its memory that it takes back (R274): it writes bytes there, or executes an atomic on 4 or 8 of them. -/
inductive HostUse where
  | write (data : List Byte)
  | atomic (op : AtomicOp) (w : BitVec 2) (v c : Word)
deriving DecidableEq, Repr

/-- What a peer device sends over a Ngucy link (R354): a read, a write or an atomic on this device's on-chip map. -/
inductive RemoteKind where
  | read (size : Nat)
  | write (data : List Byte)
  | atomic (op : AtomicOp) (w : BitVec 2) (v c : Word)
deriving DecidableEq, Repr

/-- A kind-2 access arriving from a peer device: its device, context, mode, and the 40-bit offset it names. -/
structure RemoteAccess where
  device : Nat
  ctx    : Nat
  sup    : Bool
  offset : Nat
  kind   : RemoteKind
deriving DecidableEq, Repr

/-- The instructions and events of the opcode table. -/
inductive Instr where
  /-- ADD (R126). -/
  | add (d : BitVec 5) (a : BitVec 5) (b : BitVec 5)
  /-- SUB (R126). -/
  | sub (d : BitVec 5) (a : BitVec 5) (b : BitVec 5)
  /-- MUL (R126). -/
  | mul (d : BitVec 5) (a : BitVec 5) (b : BitVec 5) (la : BitVec 4)
  /-- MULH (R126). -/
  | mulh (d : BitVec 5) (a : BitVec 5) (b : BitVec 5) (la : BitVec 4)
  /-- DIV (R127). -/
  | div (d : BitVec 5) (a : BitVec 5) (b : BitVec 5) (la : BitVec 4)
  /-- DIVU (R127). -/
  | divu (d : BitVec 5) (a : BitVec 5) (b : BitVec 5) (la : BitVec 4)
  /-- REM (R127). -/
  | rem (d : BitVec 5) (a : BitVec 5) (b : BitVec 5) (la : BitVec 4)
  /-- REMU (R127). -/
  | remu (d : BitVec 5) (a : BitVec 5) (b : BitVec 5) (la : BitVec 4)
  /-- AND (R126). -/
  | and (d : BitVec 5) (a : BitVec 5) (b : BitVec 5)
  /-- OR (R126). -/
  | or (d : BitVec 5) (a : BitVec 5) (b : BitVec 5)
  /-- XOR (R126). -/
  | xor (d : BitVec 5) (a : BitVec 5) (b : BitVec 5)
  /-- SHL (R126). -/
  | shl (d : BitVec 5) (a : BitVec 5) (b : BitVec 5)
  /-- SHR (R126). -/
  | shr (d : BitVec 5) (a : BitVec 5) (b : BitVec 5)
  /-- SAR (R126). -/
  | sar (d : BitVec 5) (a : BitVec 5) (b : BitVec 5)
  /-- SLT (R126). -/
  | slt (d : BitVec 5) (a : BitVec 5) (b : BitVec 5)
  /-- SLTU (R126). -/
  | sltu (d : BitVec 5) (a : BitVec 5) (b : BitVec 5)
  /-- MIN (R126). -/
  | min (d : BitVec 5) (a : BitVec 5) (b : BitVec 5)
  /-- MAX (R126). -/
  | max (d : BitVec 5) (a : BitVec 5) (b : BitVec 5)
  /-- CLZ (R126). -/
  | clz (d : BitVec 5) (a : BitVec 5)
  /-- CTZ (R126). -/
  | ctz (d : BitVec 5) (a : BitVec 5)
  /-- POPC (R126). -/
  | popc (d : BitVec 5) (a : BitVec 5)
  /-- GCD (R128). -/
  | gcd (d : BitVec 5) (a : BitVec 5) (b : BitVec 5) (la : BitVec 4)
  /-- ADDI (R129). -/
  | addi (d : BitVec 5) (a : BitVec 5) (imm : BitVec 15)
  /-- ANDI (R129). -/
  | andi (d : BitVec 5) (a : BitVec 5) (imm : BitVec 15)
  /-- ORI (R129). -/
  | ori (d : BitVec 5) (a : BitVec 5) (imm : BitVec 15)
  /-- XORI (R129). -/
  | xori (d : BitVec 5) (a : BitVec 5) (imm : BitVec 15)
  /-- SHLI (R130). -/
  | shli (d : BitVec 5) (a : BitVec 5) (c : BitVec 6)
  /-- SHRI (R130). -/
  | shri (d : BitVec 5) (a : BitVec 5) (c : BitVec 6)
  /-- SARI (R130). -/
  | sari (d : BitVec 5) (a : BitVec 5) (c : BitVec 6)
  /-- SLTI (R130). -/
  | slti (d : BitVec 5) (a : BitVec 5) (imm : BitVec 14)
  /-- SLTIU (R130). -/
  | sltiu (d : BitVec 5) (a : BitVec 5) (imm : BitVec 14)
  /-- LUI (R131). -/
  | lui (d : BitVec 5) (imm : BitVec 20)
  /-- ADPC (R131). -/
  | adpc (d : BitVec 5) (imm : BitVec 20)
  /-- B_CC (R132). -/
  | bcc (a : BitVec 5) (b : BitVec 5) (off : BitVec 12) (c : BitVec 3)
  /-- B (R133). -/
  | br (off : BitVec 25)
  /-- CALL (R133). -/
  | call (off : BitVec 25)
  /-- JR (R134). -/
  | jr (a : BitVec 5)
  /-- CALLR (R134). -/
  | callr (a : BitVec 5)
  /-- QPUT (R136). -/
  | qput (q : BitVec 5) (a : BitVec 5)
  /-- QGET (R137). -/
  | qget (q : BitVec 5) (d : BitVec 5)
  /-- SYSRD (R323). -/
  | sysrd (d : BitVec 5) (imm : BitVec 9)
  /-- SYSWR (R324). -/
  | syswr (a : BitVec 5) (imm : BitVec 9)
  /-- SVC (R327). -/
  | svc (imm : BitVec 9)
  /-- TRAP (R327). -/
  | trap (imm : BitVec 9)
  /-- SAFEPT (R330). -/
  | safept (imm : BitVec 9)
  /-- GTOL (R139). -/
  | gtol (d : BitVec 5) (a : BitVec 5)
  /-- LTOG (R139). -/
  | ltog (d : BitVec 5) (a : BitVec 5) (b : BitVec 5)
  /-- INAP (R139). -/
  | inap (d : BitVec 5) (a : BitVec 5)
  /-- TEAMA (R139). -/
  | teama (d : BitVec 5) (a : BitVec 5) (b : BitVec 5)
  /-- FENCE (R266). -/
  | fence (sc : BitVec 3)
  /-- FENCE_ACQ (R266). -/
  | fenceAcq (sc : BitVec 3)
  /-- FENCE_REL (R266). -/
  | fenceRel (sc : BitVec 3)
  /-- BAR (R280). -/
  | bar (a : BitVec 5) (n : BitVec 5) (sc : BitVec 3)
  /-- BAR_W (R280). -/
  | barW (a : BitVec 5) (n : BitVec 5) (sc : BitVec 3)
  /-- BARW (R281). -/
  | barw (a : BitVec 5) (g : BitVec 5) (sc : BitVec 3)
  /-- BARX (R280). -/
  | barx (a : BitVec 5) (n : BitVec 5) (sc : BitVec 3)
  /-- DSYNC (R283). -/
  | dsync (sc : BitVec 3)
  /-- GSYNC (R284). -/
  | gsync (sc : BitVec 3)
  /-- LD (R189). -/
  | ld (d : BitVec 5) (a : BitVec 5) (off : BitVec 9) (sz : BitVec 2) (la : BitVec 4)
  /-- LDZ (R189). -/
  | ldz (d : BitVec 5) (a : BitVec 5) (off : BitVec 9) (sz : BitVec 2) (la : BitVec 4)
  /-- ST (R190). -/
  | st (a : BitVec 5) (b : BitVec 5) (off : BitVec 13) (sz : BitVec 2)
  /-- LDQ (R191). -/
  | ldq (q : BitVec 3) (a : BitVec 5) (off : BitVec 9) (tag : BitVec 4) (la : BitVec 4)
  /-- STQ (R191). -/
  | stq (q : BitVec 3) (a : BitVec 5) (off : BitVec 9)
  /-- LDQS (R192). -/
  | ldqs (q : BitVec 3) (a : BitVec 5) (b : BitVec 5) (tag : BitVec 4) (esz : BitVec 3) (la : BitVec 4)
  /-- STQS (R192). -/
  | stqs (q : BitVec 3) (a : BitVec 5) (b : BitVec 5) (esz : BitVec 3)
  /-- LDQX (R192). -/
  | ldqx (q : BitVec 3) (a : BitVec 5) (b : BitVec 5) (tag : BitVec 4) (esz : BitVec 3) (la : BitVec 4)
  /-- STQX (R192). -/
  | stqx (q : BitVec 3) (a : BitVec 5) (b : BitVec 5) (esz : BitVec 3)
  /-- LDS (R195). -/
  | lds (d : BitVec 5) (a : BitVec 5) (off : BitVec 9) (la : BitVec 4)
  /-- STS (R195). -/
  | sts (a : BitVec 5) (b : BitVec 5) (off : BitVec 9)
  /-- LDSQ (R195). -/
  | ldsq (q : BitVec 3) (a : BitVec 5) (off : BitVec 5) (tag : BitVec 4) (la : BitVec 4)
  /-- STSQ (R195). -/
  | stsq (q : BitVec 3) (a : BitVec 5) (off : BitVec 5)
  /-- ATOMIC_ADD (R198). -/
  | atomicAdd (d : BitVec 5) (a : BitVec 5) (b : BitVec 5) (w : BitVec 1) (rt : BitVec 1) (sc : BitVec 3)
  /-- ATOMIC_AND (R198). -/
  | atomicAnd (d : BitVec 5) (a : BitVec 5) (b : BitVec 5) (w : BitVec 1) (rt : BitVec 1) (sc : BitVec 3)
  /-- ATOMIC_OR (R198). -/
  | atomicOr (d : BitVec 5) (a : BitVec 5) (b : BitVec 5) (w : BitVec 1) (rt : BitVec 1) (sc : BitVec 3)
  /-- ATOMIC_XOR (R198). -/
  | atomicXor (d : BitVec 5) (a : BitVec 5) (b : BitVec 5) (w : BitVec 1) (rt : BitVec 1) (sc : BitVec 3)
  /-- ATOMIC_MIN (R198). -/
  | atomicMin (d : BitVec 5) (a : BitVec 5) (b : BitVec 5) (w : BitVec 1) (rt : BitVec 1) (sc : BitVec 3)
  /-- ATOMIC_MAX (R198). -/
  | atomicMax (d : BitVec 5) (a : BitVec 5) (b : BitVec 5) (w : BitVec 1) (rt : BitVec 1) (sc : BitVec 3)
  /-- ATOMIC_SWP (R198). -/
  | atomicSwp (d : BitVec 5) (a : BitVec 5) (b : BitVec 5) (w : BitVec 1) (rt : BitVec 1) (sc : BitVec 3)
  /-- ATOMIC_CAS (R198). -/
  | atomicCas (d : BitVec 5) (a : BitVec 5) (b : BitVec 5) (w : BitVec 1) (rt : BitVec 1) (sc : BitVec 3)
  /-- RADD (R270). -/
  | radd (a : BitVec 5) (b : BitVec 5) (w : BitVec 1) (sc : BitVec 3)
  /-- TDEF (R200). -/
  | tdef (a : BitVec 5) (b : BitVec 5)
  /-- TSTAT (R200). -/
  | tstat (d : BitVec 5) (a : BitVec 5)
  /-- TWAIT (R200). -/
  | twait (a : BitVec 5)
  /-- TREL (R200). -/
  | trel (a : BitVec 5)
  /-- CPSET (R202). -/
  | cpset (a : BitVec 5) (k : BitVec 3)
  /-- CPGO (R202). -/
  | cpgo (d : BitVec 5)
  /-- CPWAIT (R202). -/
  | cpwait (a : BitVec 5)
  /-- CPPROBE (R202). -/
  | cpprobe (d : BitVec 5) (a : BitVec 5)
  /-- LVGET (R288). -/
  | lvget (d : BitVec 5) (a : BitVec 5)
  /-- LVNBR (R289). -/
  | lvnbr (d : BitVec 5) (a : BitVec 5)
  /-- LVREAD (R290). -/
  | lvread (d : BitVec 5) (a : BitVec 5) (b : BitVec 5) (la : BitVec 4)
  /-- LVSTEP (R294). -/
  | lvstep (a : BitVec 5)
  /-- LVTHAW (R332). -/
  | lvthaw (d : BitVec 5) (a : BitVec 5)
  /-- FADD (R246). -/
  | fadd (d : BitVec 5) (a : BitVec 5) (b : BitVec 5) (la : BitVec 4)
  /-- FSUB (R246). -/
  | fsub (d : BitVec 5) (a : BitVec 5) (b : BitVec 5) (la : BitVec 4)
  /-- FMUL (R246). -/
  | fmul (d : BitVec 5) (a : BitVec 5) (b : BitVec 5) (la : BitVec 4)
  /-- FDIV (R246). -/
  | fdiv (d : BitVec 5) (a : BitVec 5) (b : BitVec 5) (la : BitVec 4)
  /-- FSQRT (R246). -/
  | fsqrt (d : BitVec 5) (a : BitVec 5) (la : BitVec 4)
  /-- FMA (R246). -/
  | fma (d : BitVec 5) (a : BitVec 5) (b : BitVec 5) (la : BitVec 4)
  /-- FMIN (R247). -/
  | fmin (d : BitVec 5) (a : BitVec 5) (b : BitVec 5)
  /-- FMAX (R247). -/
  | fmax (d : BitVec 5) (a : BitVec 5) (b : BitVec 5)
  /-- FABS (R247). -/
  | fabs (d : BitVec 5) (a : BitVec 5)
  /-- FNEG (R247). -/
  | fneg (d : BitVec 5) (a : BitVec 5)
  /-- FEQ (R247). -/
  | feq (d : BitVec 5) (a : BitVec 5) (b : BitVec 5)
  /-- FLT (R247). -/
  | flt (d : BitVec 5) (a : BitVec 5) (b : BitVec 5)
  /-- FLE (R247). -/
  | fle (d : BitVec 5) (a : BitVec 5) (b : BitVec 5)
  /-- FCVT (R248). -/
  | fcvt (d : BitVec 5) (a : BitVec 5) (tag : BitVec 4) (la : BitVec 4)
  /-- F2G (R248). -/
  | f2g (d : BitVec 5) (a : BitVec 5) (la : BitVec 4)
  /-- G2F (R248). -/
  | g2f (d : BitVec 5) (a : BitVec 5) (tag : BitVec 4) (la : BitVec 4)
  /-- FMVG (R248). -/
  | fmvg (d : BitVec 5) (a : BitVec 5)
  /-- GMVF (R248). -/
  | gmvf (d : BitVec 5) (a : BitVec 5) (tag : BitVec 4)
  /-- FNUM (R250). -/
  | fnum (d : BitVec 5) (a : BitVec 5)
  /-- FDEN (R250). -/
  | fden (d : BitVec 5) (a : BitVec 5)
  /-- FMAKE (R251). -/
  | fmake (d : BitVec 5) (a : BitVec 5) (b : BitVec 5) (la : BitVec 4)
  /-- FMED (R252). -/
  | fmed (d : BitVec 5) (a : BitVec 5) (b : BitVec 5) (la : BitVec 4)
  /-- FRND (R253). -/
  | frnd (d : BitVec 5) (a : BitVec 5) (b : BitVec 5) (la : BitVec 4)
  /-- FNBR (R254). -/
  | fnbr (d : BitVec 5) (a : BitVec 5) (b : BitVec 5) (la : BitVec 4)
  /-- FLI (R249). -/
  | fli (d : BitVec 5) (imm : BitVec 20)
  /-- VADD (R207). -/
  | vadd (d : BitVec 5) (a : BitVec 5) (b : BitVec 5) (k : BitVec 2) (pol : BitVec 1) (me : BitVec 1)
  /-- VSUB (R207). -/
  | vsub (d : BitVec 5) (a : BitVec 5) (b : BitVec 5) (k : BitVec 2) (pol : BitVec 1) (me : BitVec 1)
  /-- VMUL (R207). -/
  | vmul (d : BitVec 5) (a : BitVec 5) (b : BitVec 5) (k : BitVec 2) (pol : BitVec 1) (me : BitVec 1)
  /-- VFMA (R207). -/
  | vfma (d : BitVec 5) (a : BitVec 5) (b : BitVec 5) (k : BitVec 2) (pol : BitVec 1) (me : BitVec 1)
  /-- VFMS (R207). -/
  | vfms (d : BitVec 5) (a : BitVec 5) (b : BitVec 5) (k : BitVec 2) (pol : BitVec 1) (me : BitVec 1)
  /-- VDIV (R207). -/
  | vdiv (d : BitVec 5) (a : BitVec 5) (b : BitVec 5) (k : BitVec 2) (pol : BitVec 1) (me : BitVec 1)
  /-- VMIN (R208). -/
  | vmin (d : BitVec 5) (a : BitVec 5) (b : BitVec 5) (k : BitVec 2) (pol : BitVec 1) (me : BitVec 1)
  /-- VMAX (R208). -/
  | vmax (d : BitVec 5) (a : BitVec 5) (b : BitVec 5) (k : BitVec 2) (pol : BitVec 1) (me : BitVec 1)
  /-- VAND (R209). -/
  | vand (d : BitVec 5) (a : BitVec 5) (b : BitVec 5) (k : BitVec 2) (pol : BitVec 1) (me : BitVec 1)
  /-- VOR (R209). -/
  | vor (d : BitVec 5) (a : BitVec 5) (b : BitVec 5) (k : BitVec 2) (pol : BitVec 1) (me : BitVec 1)
  /-- VXOR (R209). -/
  | vxor (d : BitVec 5) (a : BitVec 5) (b : BitVec 5) (k : BitVec 2) (pol : BitVec 1) (me : BitVec 1)
  /-- VSHL (R208). -/
  | vshl (d : BitVec 5) (a : BitVec 5) (b : BitVec 5) (k : BitVec 2) (pol : BitVec 1) (me : BitVec 1)
  /-- VSHR (R208). -/
  | vshr (d : BitVec 5) (a : BitVec 5) (b : BitVec 5) (k : BitVec 2) (pol : BitVec 1) (me : BitVec 1)
  /-- VSAR (R208). -/
  | vsar (d : BitVec 5) (a : BitVec 5) (b : BitVec 5) (k : BitVec 2) (pol : BitVec 1) (me : BitVec 1)
  /-- VCMP (R210). -/
  | vcmp (d : BitVec 5) (a : BitVec 5) (b : BitVec 5) (c : BitVec 4) (k : BitVec 2) (u : BitVec 1) (pol : BitVec 1) (me : BitVec 1)
  /-- VMOV (R211). -/
  | vmov (d : BitVec 5) (a : BitVec 5) (k : BitVec 2) (pol : BitVec 1) (me : BitVec 1)
  /-- VSEL (R211). -/
  | vsel (d : BitVec 5) (a : BitVec 5) (b : BitVec 5) (k : BitVec 2)
  /-- VPERM (R211). -/
  | vperm (d : BitVec 5) (a : BitVec 5) (b : BitVec 5) (k : BitVec 2) (pol : BitVec 1) (me : BitVec 1)
  /-- VSLIDE_UP (R211). -/
  | vslideUp (d : BitVec 5) (a : BitVec 5) (n : BitVec 5) (k : BitVec 2) (pol : BitVec 1) (me : BitVec 1)
  /-- VSLIDE_DOWN (R211). -/
  | vslideDown (d : BitVec 5) (a : BitVec 5) (n : BitVec 5) (k : BitVec 2) (pol : BitVec 1) (me : BitVec 1)
  /-- VSPLAT (R211). -/
  | vsplat (d : BitVec 5) (a : BitVec 5) (k : BitVec 2) (pol : BitVec 1) (me : BitVec 1)
  /-- VIDX (R211). -/
  | vidx (d : BitVec 5) (k : BitVec 2) (tag : BitVec 4) (pol : BitVec 1) (me : BitVec 1)
  /-- VCOMPRESS (R212). -/
  | vcompress (d : BitVec 5) (a : BitVec 5) (k : BitVec 2) (pol : BitVec 1)
  /-- VPOPM (R212). -/
  | vpopm (d : BitVec 5) (a : BitVec 5)
  /-- VRCP (R213). -/
  | vrcp (d : BitVec 5) (a : BitVec 5) (k : BitVec 2) (pol : BitVec 1) (me : BitVec 1) (la : BitVec 4)
  /-- VRSQ (R213). -/
  | vrsq (d : BitVec 5) (a : BitVec 5) (k : BitVec 2) (pol : BitVec 1) (me : BitVec 1) (la : BitVec 4)
  /-- VSQRT (R213). -/
  | vsqrt (d : BitVec 5) (a : BitVec 5) (k : BitVec 2) (pol : BitVec 1) (me : BitVec 1) (la : BitVec 4)
  /-- VEXP2 (R213). -/
  | vexp2 (d : BitVec 5) (a : BitVec 5) (k : BitVec 2) (pol : BitVec 1) (me : BitVec 1) (la : BitVec 4)
  /-- VLOG2 (R213). -/
  | vlog2 (d : BitVec 5) (a : BitVec 5) (k : BitVec 2) (pol : BitVec 1) (me : BitVec 1) (la : BitVec 4)
  /-- VTANH (R213). -/
  | vtanh (d : BitVec 5) (a : BitVec 5) (k : BitVec 2) (pol : BitVec 1) (me : BitVec 1) (la : BitVec 4)
  /-- VSIGM (R213). -/
  | vsigm (d : BitVec 5) (a : BitVec 5) (k : BitVec 2) (pol : BitVec 1) (me : BitVec 1) (la : BitVec 4)
  /-- VCVT (R215). -/
  | vcvt (d : BitVec 5) (a : BitVec 5) (k : BitVec 2) (tag : BitVec 4) (pol : BitVec 1) (me : BitVec 1) (la : BitVec 4)
  /-- VCVTS (R216). -/
  | vcvts (d : BitVec 5) (a : BitVec 5) (k : BitVec 2) (tag : BitVec 4) (pol : BitVec 1) (me : BitVec 1) (la : BitVec 4)
  /-- VPACK (R217). -/
  | vpack (d : BitVec 5) (a : BitVec 5) (tag : BitVec 4) (la : BitVec 4)
  /-- VUNPACK (R217). -/
  | vunpack (d : BitVec 5) (a : BitVec 5) (la : BitVec 4)
  /-- VREDADD (R218). -/
  | vredadd (d : BitVec 5) (a : BitVec 5) (k : BitVec 2) (f : BitVec 1) (pol : BitVec 1) (me : BitVec 1) (la : BitVec 4)
  /-- VREDMAX (R218). -/
  | vredmax (d : BitVec 5) (a : BitVec 5) (k : BitVec 2) (f : BitVec 1) (pol : BitVec 1) (me : BitVec 1) (la : BitVec 4)
  /-- VREDMIN (R218). -/
  | vredmin (d : BitVec 5) (a : BitVec 5) (k : BitVec 2) (f : BitVec 1) (pol : BitVec 1) (me : BitVec 1) (la : BitVec 4)
  /-- VREDQ (R219). -/
  | vredq (d : BitVec 5) (a : BitVec 5) (n : BitVec 4) (f : BitVec 1) (la : BitVec 4)
  /-- VRNG (R220). -/
  | vrng (d : BitVec 5) (a : BitVec 5) (k : BitVec 2) (tag : BitVec 4) (pol : BitVec 1) (me : BitVec 1)
  /-- VPIVOT (R256). -/
  | vpivot (d : BitVec 5) (a : BitVec 5) (b : BitVec 5) (k : BitVec 2) (me : BitVec 1)
  /-- VPIVOT_R (R256). -/
  | vpivotR (d : BitVec 5) (a : BitVec 5) (b : BitVec 5) (k : BitVec 2) (me : BitVec 1)
  /-- VELIM (R257). -/
  | velim (d : BitVec 5) (a : BitVec 5) (b : BitVec 5) (k : BitVec 2) (pol : BitVec 1) (me : BitVec 1)
  /-- VREG (R259). -/
  | vreg (d : BitVec 5) (a : BitVec 5) (b : BitVec 5)
  /-- MMAC_VV (R227). -/
  | mmacVv (d : BitVec 5) (a : BitVec 5) (b : BitVec 5) (f : BitVec 3) (p : BitVec 3) (la : BitVec 4)
  /-- MMAC_SV (R227). -/
  | mmacSv (d : BitVec 5) (a : BitVec 5) (b : BitVec 5) (f : BitVec 3) (p : BitVec 3) (la : BitVec 4)
  /-- MMAC_VS (R227). -/
  | mmacVs (d : BitVec 5) (a : BitVec 5) (b : BitVec 5) (f : BitVec 3) (p : BitVec 3) (la : BitVec 4)
  /-- MMAC_SS (R227). -/
  | mmacSs (d : BitVec 5) (a : BitVec 5) (b : BitVec 5) (f : BitVec 3) (p : BitVec 3) (la : BitVec 4)
  /-- MZERO (R230). -/
  | mzero (d : BitVec 5) (la : BitVec 4)
  /-- MLOAD (R230). -/
  | mload (d : BitVec 5) (a : BitVec 5) (la : BitVec 4)
  /-- MSTORE (R230). -/
  | mstore (d : BitVec 5) (a : BitVec 5) (la : BitVec 4)
  /-- MDRAIN (R231). -/
  | mdrain (d : BitVec 5) (a : BitVec 5) (b : BitVec 5) (la : BitVec 4)
  /-- MPIN (R236). -/
  | mpin (d : BitVec 5) (a : BitVec 5) (b : BitVec 5)
  /-- MFREE (R236). -/
  | mfree (d : BitVec 5)
  /-- MSPILL (R236). -/
  | mspill (d : BitVec 5) (la : BitVec 4)
  /-- MFILL (R236). -/
  | mfill (d : BitVec 5) (la : BitVec 4)
  /-- MOWN (R238). -/
  | mown (d : BitVec 5) (a : BitVec 5) (la : BitVec 4)
  /-- FWDELTA (R240). -/
  | fwdelta (d : BitVec 5) (a : BitVec 5) (b : BitVec 5) (f : BitVec 5) (la : BitVec 4)
  /-- FWCHUNK (R242). -/
  | fwchunk (d : BitVec 5) (n : BitVec 3) (la : BitVec 4)
  /-- FWREAD (R241). -/
  | fwread (d : BitVec 5) (a : BitVec 5) (la : BitVec 4)
  /-- VADD_H (R105). -/
  | vaddH (d : BitVec 5) (a : BitVec 5) (m : BitVec 1)
  /-- VSUB_H (R105). -/
  | vsubH (d : BitVec 5) (a : BitVec 5) (m : BitVec 1)
  /-- VMUL_H (R105). -/
  | vmulH (d : BitVec 5) (a : BitVec 5) (m : BitVec 1)
  /-- VMIN_H (R105). -/
  | vminH (d : BitVec 5) (a : BitVec 5) (m : BitVec 1)
  /-- VMAX_H (R105). -/
  | vmaxH (d : BitVec 5) (a : BitVec 5) (m : BitVec 1)
  /-- VAND_H (R105). -/
  | vandH (d : BitVec 5) (a : BitVec 5) (m : BitVec 1)
  /-- VOR_H (R105). -/
  | vorH (d : BitVec 5) (a : BitVec 5) (m : BitVec 1)
  /-- VXOR_H (R105). -/
  | vxorH (d : BitVec 5) (a : BitVec 5) (m : BitVec 1)
  /-- VMOV_H (R105). -/
  | vmovH (d : BitVec 5) (a : BitVec 5) (m : BitVec 1)
  /-- VNEG (R221). -/
  | vneg (d : BitVec 5) (a : BitVec 5) (m : BitVec 1)
  /-- VABS (R221). -/
  | vabs (d : BitVec 5) (a : BitVec 5) (m : BitVec 1)
  /-- VSEL_H (R105). -/
  | vselH (d : BitVec 5) (a : BitVec 5)
  /-- VRELU (R221). -/
  | vrelu (d : BitVec 5) (a : BitVec 5) (m : BitVec 1)
  /-- VRSUB (R221). -/
  | vrsub (d : BitVec 5) (a : BitVec 5) (m : BitVec 1)
  /-- VZERO (R221). -/
  | vzero (d : BitVec 5) (a : BitVec 5) (m : BitVec 1)
  /-- VSWAP (R105). -/
  | vswap (d : BitVec 5) (a : BitVec 5)
  /-- ILLEGAL_INSTRUCTION (R122). -/
  | illegalInstruction (word : BitVec 32)
  /-- FETCH_PROTECTION_FAULT (R82). -/
  | fetchProtectionFault (va : Word)
  /-- NOTIFY_WRITE (R26). -/
  | notifyWrite (ctx q : Nat) (v : BitVec 32) (relaxed : Bool)
  /-- SLOT_READ (R27). -/
  | slotRead (ctx q : Nat)
  /-- STALE_SLOT_REREAD (R27). -/
  | staleSlotReread (ctx q : Nat)
  /-- LAUNCH (R43). -/
  | launch (ctx q : Nat) (rect : Rect)
  /-- FRONT (R61). -/
  | front (ctx q : Nat) (rect : Rect)
  /-- MARKER (R32). -/
  | marker (ctx q : Nat)
  /-- QUEUE_ENABLE (R24). -/
  | queueEnable (ctx q : Nat)
  /-- QUEUE_DISABLE (R30). -/
  | queueDisable (ctx q : Nat)
  /-- QUEUE_ACK (R40). -/
  | queueAck (ctx q : Nat) (v : BitVec 32)
  /-- SEED_WRITE (R34). -/
  | seedWrite (ctx : Nat) (v : Word)
  /-- CONTEXT_SAVE (R316). -/
  | contextSave (pid : Nat)
  /-- TEAM_RESUME (R53). -/
  | teamResume (ctx q : Nat) (rect : Rect) (cidxs : BitVec 8)
  /-- COMMAND_COMPLETE (R333). -/
  | commandComplete (ctx q : Nat) (seq : BitVec 32)
  /-- LEVEL_DISPATCH (R69). -/
  | levelDispatch (cluster cidx : Nat)
  /-- COMMIT_ARRIVAL (R65). -/
  | commitArrival (cluster block : Nat)
  /-- STALL (R67). -/
  | stall (ctx q : Nat) (seq : BitVec 32)
  /-- LV_RECORD_STAGE (R80). -/
  | lvRecordStage (block : BitVec 16)
  /-- STREAM_DEADLOCK (R93). -/
  | streamDeadlock (pid : Nat)
  /-- LONG_OP_COMPLETE (R87). -/
  | longOpComplete (pid : Nat) (st : StreamId) (idx units : Nat)
  /-- STORE_REFUSAL (R363). -/
  | storeRefusal (pid idx : Nat)
  /-- STORE_ACK (R267). -/
  | storeAck (pid idx : Nat)
  /-- QUEUE_ENTRY_FILL (R92). -/
  | queueEntryFill (pid idx : Nat)
  /-- PAGE_FAULT_PARK (R159). -/
  | pageFaultPark (pid : Nat) (st : StreamId) (idx : Nat)
  /-- FB_HEAD_WRITE (R162). -/
  | fbHeadWrite (v : Word)
  /-- TT_INVAL (R158). -/
  | ttInval (v : Word)
  /-- COPY_JOB_COMPLETE (R203). -/
  | copyJobComplete (cluster idx units : Nat)
  /-- COPY_JOB_FAULT_END (R203). -/
  | copyJobFaultEnd (cluster idx : Nat)
  /-- BARRIER_RETURN (R281). -/
  | barrierReturn (pid : Nat)
  /-- HOME_SLICE_SERVE (R269). -/
  | homeSliceServe (pid : Nat) (req : ReqRef)
  /-- CLUSTER_ATOMIC_SERVE (R269). -/
  | clusterAtomicServe (pid : Nat) (req : ReqRef)
  /-- FULL_EMPTY_WAKE (R196). -/
  | fullEmptyWake (pid : Nat) (op : Option Nat)
  /-- TILE_READY_RESUME (R149). -/
  | tileReadyResume (pid : Nat) (st : StreamId)
  /-- GANG_MEET (R49). -/
  | gangMeet (pid : Nat)
  /-- DSYNC_COMPLETE (R283). -/
  | dsyncComplete (pid : Nat)
  /-- REMOTE_DSYNC_ARRIVAL (R283). -/
  | remoteDsyncArrival (ctx device : Nat)
  /-- GSYNC_COMPLETE (R284). -/
  | gsyncComplete (pid : Nat)
  /-- WAITP_RETURN (R285). -/
  | waitpReturn (pid : Nat)
  /-- PART_RESET (R352). -/
  | partReset (v : Word)
  /-- PURGE_COMPLETE (R358). -/
  | purgeComplete (n : Nat)
  /-- RECT_RETURN_TO_SERVICE (R338). -/
  | rectReturnToService (n : Nat)
  /-- IFT_PERIODIC (R342). -/
  | iftPeriodic (cluster : Nat)
  /-- IFT_NOW (R342). -/
  | iftNow (v : Word)
  /-- IFT_TEST_COMPLETE (R342). -/
  | iftTestComplete (cluster : Nat) (pass : Bool)
  /-- MAILBOX_RESPONSE (R361). -/
  | mailboxResponse (r : MailboxReply)
  /-- POWER_GOOD (R359). -/
  | powerGood (b : BootInput)
  /-- REMOTE_DOMAIN_ACCESS (R354). -/
  | remoteDomainAccess (acc : RemoteAccess)
  /-- REGISTER_WRITE (R5). -/
  | registerWrite (offset size : Nat) (v : Word)
  /-- DEVICE_RESET (R359): the device starts again as after power-good. -/
  | deviceReset (b : BootInput)
  /-- ATOMIC_PROMOTE (R269). -/
  | atomicPromote (pid : Nat) (req : ReqRef)
  /-- HOST_LINK_DOWN (R348). -/
  | hostLinkDown (port : Nat)
  /-- POWER_THROTTLE (R362). -/
  | powerThrottle (watts mhz : Nat)
  /-- NET_PACKET_PROMOTE (R357). -/
  | netPacketPromote (pid : Nat) (req : ReqRef)
  /-- REPLAY_DIVERGE (R346). -/
  | replayDiverge (ctx : Nat)
  /-- HOST_CXL_MEM_ACCESS (R348). -/
  | hostCxlMemAccess (pa : Nat) (data : List Byte)
  /-- HOST_COHERENCE_REQUEST (R274). -/
  | hostCoherenceRequest (pa : Nat) (use : HostUse)
  /-- NGUCY_LINK_DOWN (R354). -/
  | ngucyLinkDown (link : Nat)
  /-- FLIT_CRC_FAILURE (R354). -/
  | flitCrcFailure (link : Nat)
  /-- RET (R134). -/
  | ret
  /-- TRET (R328). -/
  | tret
  /-- EXIT (R329). -/
  | exit
  /-- NOP_INSTRUCTION (R330). -/
  | nop
  /-- WAITP (R285). -/
  | waitp
  /-- TRIG (R286). -/
  | trig
  /-- LVTAKE (R292). -/
  | lvtake
  /-- LVRET (R293). -/
  | lvret
  /-- LVCOMMIT (R295). -/
  | lvcommit
  /-- HRET (R232). -/
  | hret
  /-- LV_RECORD_APPLY (R80). -/
  | lvRecordApply
  /-- REPLAY_ALL (R163). -/
  | replayAll
  /-- TT_INVAL_DONE (R158). -/
  | ttInvalDone
  /-- GET_TEST (R361). -/
  | getTest
  /-- SET_CONFIG (R361). -/
  | setConfig
  /-- ATTEST (R361). -/
  | attest
  /-- GET_FAILREC (R361). -/
  | getFailrec
  /-- FW_UPDATE (R361). -/
  | fwUpdate
  /-- THERMAL_TRIP (R362). -/
  | thermalTrip
deriving DecidableEq, Repr

end Sys2Proof
end

