-- ==== Sys2Proof/Machine/State.lean ====
section
/-! DEFINITION. The state of the machine as plain data, and the machine right after reset.
Every piece of state of INVENTORY.md stands here under the name the spec gives it. -/

namespace Sys2Proof.Machine

/-- The architected faults of this part are traps, which are next states; a step stops only on what is named here. -/
inductive Fault where
  /-- Raised by nothing in this model: every access outside the address space traps (R140, R155). Safe. -/
  | none
deriving DecidableEq, Repr

/-- Why a step has no meaning. -/
inductive Refusal where
  /-- Raised by an arm of exec whose instruction has no meaning yet. Safe: the run stops. -/
  | notModelled (mnemonic : String)
deriving DecidableEq, Repr

/-- Memory as address and byte pairs, addresses strictly rising, no entry equal to the byte an unlisted address reads as. -/
abbrev Memory := List Host.Cell

/-- Mode of a stream (R309). -/
inductive Mode where
  | user | sup
deriving DecidableEq, Repr

/-- An f register: 64 bits and its format word (R94, R95). -/
structure FReg where
  bits : Word
  fmt  : BitVec 16
deriving DecidableEq, Repr

/-- A v register: 512 bits and its format word (R94, R95). -/
structure VReg where
  bits : BitVec 512
  fmt  : BitVec 16
deriving DecidableEq, Repr

/-- A register of one stream, as lookahead windows name them (R86). -/
inductive Reg where
  | g (n : Nat)
  | f (n : Nat)
  | v (n : Nat)
  | m (n : Nat)
deriving DecidableEq, Repr

/-- A queue entry: reserved until filled (R92). The id is the model's, so that a fill finds its entry. -/
structure QEntry where
  id     : Nat
  filled : Bool
  bits   : BitVec 512
  fmt    : BitVec 16
deriving DecidableEq, Repr

/-- The tag of an accumulator tile (R228). -/
inductive TileTag where
  | raw | fp32 | i32
deriving DecidableEq, Repr

/-- An accumulator tile: 16 × 16 elements, row-major (R226). -/
structure Tile where
  tag   : TileTag
  elems : Vector (BitVec 32) 256
deriving DecidableEq, Repr

/-- States of an AOT entry (R233). -/
inductive AotState where
  | free | owned | pinned | spilled
deriving DecidableEq, Repr

/-- An accumulator ownership entry (R233). -/
structure AotEntry where
  state  : AotState
  owner  : Nat
  first  : Nat
  count  : Nat
  held   : Bool
  tokens : BitVec 32
  key    : BitVec 32
  spill  : Word
deriving DecidableEq, Repr

/-- States of a tile-table entry (R148, R149). -/
inductive TileState where
  | empty | filling | ready | draining
deriving DecidableEq, Repr

/-- A tile-table entry (R148). `dests` counts the outstanding jobs that name the tile as destination (R149). -/
structure TileEntry where
  state    : TileState
  layout   : Nat
  jobs     : Nat
  dests    : Nat
  base     : Nat
  rows     : Nat
  pitch    : Nat
  rowBytes : Nat
deriving DecidableEq, Repr

/-- Statistics counts (R184, R334). -/
structure Counts where
  sat   : Nat
  flush : Nat
  nan   : Nat
  pivot : Nat
  qdisc : Nat
deriving DecidableEq, Repr

/-- A lookahead window (R87): the long instruction's address, the last position inside, its destination set,
and whether it is a joint instruction (whose tiles other joint instructions may name). -/
structure Win where
  pc    : Word
  last  : Nat
  dests : List Reg
  joint : Bool
deriving DecidableEq, Repr

/-- The unpacked fields of a matrix scratchpad operand (R225). -/
structure Pair where
  base   : Nat
  tid    : Nat
  lay    : Nat
  tpitch : Nat
  rpitch : Nat
  itag   : Bool
deriving DecidableEq, Repr

/-- A matrix operand as read at issue: register data, popped entries, a scratchpad pair, or not read (R222, R224). -/
inductive MOperand where
  | regs (data : List VReg)
  | entries (q : Nat) (es : List QEntry)
  | scratch (p : Pair)
  | unread
deriving DecidableEq, Repr

/-- A register write that an instruction delivers at its completion. `q` fills a reserved queue entry. -/
inductive RegWrite where
  | g (n : Nat) (v : Word)
  | f (n : Nat) (r : FReg)
  | v (n : Nat) (r : VReg)
  | q (entry : Nat) (bits : BitVec 512)
deriving DecidableEq, Repr

/-- Where the elements of a strided or indexed queue form lie (R192, R193). -/
inductive ElemPlan where
  | strided (base : Word) (stride : Int)
  | tiled (start : Int) (stride : Int) (tbase pitch rows mode : Nat)
  | indexed (base list : Word)
deriving DecidableEq, Repr

/-- Where a drain puts its rows (R231). -/
inductive DrainDst where
  | queue (q : Nat)
  | scratch (p : Pair)
deriving DecidableEq, Repr

/-- What an instruction that popped an entry not yet filled read at its issue (R92, R168): the g registers of its stream, the v registers,
QFX.SCALE and SEED. -/
structure Snap where
  g        : Vector Word 32
  v        : Vector VReg 24
  qfxScale : BitVec 6
  seed     : Word
deriving DecidableEq, Repr

/-- What an instruction that has issued still has to do, with the operands it read at issue (R125, R258, R313, R364). -/
inductive Work where
  /-- Deliver results computed at issue, with flags, counts and pivot flags. -/
  | deliver (ws : List RegWrite) (flags : BitVec 6) (counts : Counts) (pivots : Nat)
  /-- A scalar load (R189). -/
  | load (d : Nat) (addr : Word) (size : Nat) (sext : Bool)
  /-- A queue load into a reserved entry (R191). -/
  | loadq (entry : Nat) (addr : Word)
  /-- An element load into a reserved entry (R192): plan, element size, elements placed so far. -/
  | ldElems (entry : Nat) (plan : ElemPlan) (size : Nat) (acc : BitVec 512)
  /-- An element store of a popped entry (R192). -/
  | stElems (data : QEntry) (plan : ElemPlan) (size : Nat)
  /-- A vector instruction that waits for the data of entries it popped (R92): queue and entry in their order, the instruction's
  other operands, and the entry that it reserved for its result. -/
  | late (i : Instr) (es : List (Nat × QEntry)) (snap : Snap) (entry : Option Nat)
  /-- A qget that waits for its entry's data (R137). -/
  | qget (d : Nat) (e : QEntry)
  /-- A stq that waits for its entry's data (R92, R191). -/
  | storeq (e : QEntry) (addr : Word)
  /-- A synchronising load (R195). -/
  | lds (d : Nat) (addr : Word)
  /-- A synchronising queue load (R195). -/
  | ldsq (entry q : Nat) (fmt : BitVec 16) (addr : Word)
  /-- An atomic with return (R198): destination, operation, bytes, scope, address, operand, compare value. -/
  | atomic (d : Nat) (op : AtomicOp) (bytes : Nat) (sc : Nat) (addr : Word) (v c : Word)
  /-- A queue reduction (R219): destination kind and number, queue, entries. -/
  | vredq (toF : Bool) (d q n : Nat)
  /-- An elimination step (R257): destination, pivot row, factor, destination row so far, mask, policy. -/
  | velim (d : Nat) (row : VReg) (factor : FReg) (acc : VReg) (mask : Option (BitVec 512)) (free : Bool)
  /-- A multiply-accumulate (R227): format, p, tile, A, B. -/
  | mmac (fmt p d : Nat) (a b : MOperand)
  | mzero (d : Nat)
  | mload (d : Nat) (p : Pair)
  | mstore (d : Nat) (p : Pair)
  /-- A drain (R231): tile, destination, handler address when one is named. -/
  | mdrain (d : Nat) (dst : DrainDst) (handler : Option Word)
  | mspill (d : Nat)
  | mfill (d : Nat)
  /-- Ownership by key (R238): destination g register, key. -/
  | mown (gd : Nat) (key : BitVec 32)
  /-- Fast weights (R240): first tile, tiles, k, v, α and β. -/
  | fwdelta (d c : Nat) (k v : MOperand) (ab : Word)
  /-- R241: first tile, tiles, q operand, reserved q4 entry. -/
  | fwread (d c : Nat) (q : MOperand) (entry : Nat)
  /-- R242: first tile, tokens. -/
  | fwchunk (d n : Nat)
deriving DecidableEq, Repr

/-- Where an issued instruction stands (R89, R159, R364). -/
inductive OpStatus where
  /-- It may go on whenever the device moves it. -/
  | running
  /-- Waiting for the other members of its gang (R49). -/
  | gang
  /-- Parked on a page fault at this address (R159). -/
  | parked (va : Word)
  /-- A late trap was found and is not yet taken (R364). -/
  | trapped (cause : Nat) (val : Word)
deriving DecidableEq, Repr

/-- An instruction that has issued and not completed. -/
structure LongOp where
  id      : Nat
  pc      : Word
  word    : BitVec 32
  dests   : List Reg
  joint   : Bool
  part    : Bool
  prog    : Nat
  status  : OpStatus
  work    : Work
  tensor  : BitVec 32
  frm     : BitVec 3
  frmFsl  : BitVec 2
  mode    : Mode
  members : BitVec 8
  /-- Its place among its stream's memory accesses (R345), and the cycle at which it issued (R269). -/
  ordinal : Nat
  born    : Nat
  /-- An atomic with return that has been promoted at its engine (R269), or in the network (R357). -/
  promoted : Bool
  netPromoted : Bool
  /-- Flags and counts that a part-way instruction has gathered; it raises them when it completes (R168). -/
  flags : BitVec 6
  counts : Counts
  /-- The newest queue entry that its stream had popped when it issued, as a name; 0 for none (R223). -/
  seen : Nat
  /-- Its gang has met, and it has begun (R49). -/
  met  : Bool
  /-- The packet of an atomic with return has passed the boundary routers of its core's containment rectangle (R358). -/
  past : Bool
  /-- Words of the list of an indexed form that it has read ahead of their elements: element and offset (R187, R192). -/
  list : List (Nat × Word)
deriving DecidableEq, Repr

/-- Why the next instruction of a stream could not issue when it last tried. -/
inductive Wait where
  /-- A pop finds fewer than n entries (R92). -/
  | pop (q n : Nat)
  /-- A push finds no free entry (R92). -/
  | push (q : Nat)
  /-- A popped entry is reserved and not filled (R92). -/
  | fill
  /-- A member of a destination set is not complete (R87). -/
  | depend
  /-- A trap, or an instruction that waits for them, needs the issued instructions to complete (R89, R329). -/
  | drain
  /-- An access of the instruction, or its fetch, parked (R159). -/
  | parked (va : Word)
  /-- A full/empty bit is in the other state (R195). -/
  | fullEmpty
  /-- A named tile is filling or draining (R149). -/
  | tile (tid : Nat)
  /-- JOBS at 255: the instruction waits to issue (R149, R202). -/
  | jobs
  /-- A transfer id still outstanding (R202). -/
  | xfer
  /-- A barrier phase (R279 to R281). -/
  | barrier
  | dsync
  | gsync
  | waitp
  | cpwait
  /-- An access behind a fence or behind a synchronising load that waits (R266, R271): it waits to issue. -/
  | fence
  /-- The release half of another operation, at a scope (R271). -/
  | release (scope : Nat)
  /-- The other members of the gang (R49). -/
  | gang
  /-- A commit of a frozen block (R328). -/
  | frozen
  /-- A unit that cannot accept the instruction (R84): the store count, a running joint instruction. -/
  | unit
  /-- A ninth part-way instruction, until the oldest of the eight, which bears that name, completes (R314). -/
  | partway (oldest : Nat)
deriving DecidableEq, Repr

/-- How a stream stands stopped for pre-emption (R100, R310). -/
inductive Stop where
  /-- At SAFEPT, after it wrote SAFE.ID. -/
  | safept
  /-- At a wait, a park or a part-way stopping point. -/
  | wait
deriving DecidableEq, Repr

/-- A fence that has issued and still orders later accesses (R266, R277). -/
structure Fence where
  acq   : Bool
  rel   : Bool
  scope : Nat
  /-- What was issued before it bears a lower id. -/
  born  : Nat
  /-- Its address, and the mode that it issued in: while a store that its release half covers stands parked it is a blocking wait there (R277). -/
  pc    : Word
  mode  : Mode
deriving DecidableEq, Repr

/-- A drain whose handler runs in the C-stream (R231, R232): the drain's id and the instruction after it. -/
structure DrainCtx where
  op  : Nat
  ret : Word
deriving DecidableEq, Repr

/-- What a waiting instruction of user code leaves behind while a handler runs in its stream: `arrived`, `dsynced` and `gsynced` of the
stream (R280, R283, R284, R310). -/
structure Aside where
  arrived : Option (Word × BitVec 32 × Bool)
  dsynced : Option (Nat × BitVec 16)
  gsynced : Bool
deriving DecidableEq, Repr

/-- One instruction stream (R10, R82). -/
structure Stream where
  g       : Vector Word 32
  pc      : Word
  mode    : Mode
  exited  : Bool
  stopped : Option Stop
  wait    : Option Wait
  /-- The device's cycle at which that wait began (R346). -/
  waitFrom : Nat
  pos     : Nat
  wins    : List Win
  flight  : List LongOp
  fence   : List Fence
  safeId  : BitVec 9
  /-- What TRAP.PC or TRAP.SAVE held when the stream stopped, and the issue point kept with it (R314). -/
  resume  : Word × Word
  /-- Interpolation entry running (R77). -/
  interp  : Bool
  /-- Drain handler running (R232). -/
  drain   : Option DrainCtx
  /-- A bar.w that has arrived: its address, the generation it arrived in, and whether the stream has been stopped there since (R280). -/
  arrived : Option (Word × BitVec 32 × Bool)
  /-- A dsync that has arrived: level and generation at issue (R283). -/
  dsynced : Option (Nat × BitVec 16)
  /-- The gang has met at the gsync at which the A-stream stands (R284). -/
  gsynced : Bool
  /-- Memory accesses since the task began (R345). -/
  ordinal : Nat
  /-- The entry that a waiting stsq has popped, with its queue (R195). -/
  taken : Option (Nat × QEntry)
  /-- A pre-emption met at the SAFEPT whose trap was taken first: the stream stops once it resumes (R328). -/
  stopDue : Bool
  /-- The newest queue entry that the stream has popped, as a name; 0 for none (R223). -/
  seen    : Nat
  /-- The incomplete instruction that TRAP.PC or TRAP.SAVE named when the stream stopped, by its name (R314, R364). -/
  named   : Option Nat
  /-- The stream stopped at a wait of an instruction that is restarted whole (R314, R326). -/
  rewait  : Bool
  /-- The barrier word at whose engine an arrival of the stream's next instruction waits its turn (R269, R279). -/
  asking  : Option Word
  aside   : Aside
deriving DecidableEq, Repr

/-- What a waiting access without return does (R190, R191, R198). -/
inductive ReqKind where
  | store (data : List Byte)
  | atomic (op : AtomicOp) (bytes : Nat) (v c : Word)
deriving DecidableEq, Repr

/-- A store or atomic without return that is not yet acknowledged (R267). -/
structure Request where
  id          : Nat
  stream      : StreamId
  /-- The command whose task issued it. -/
  ctx         : Nat
  queue       : Nat
  seq         : BitVec 32
  kind        : ReqKind
  addr        : Word
  mode        : Mode
  /-- Location scope (R264). -/
  loc         : Nat
  /-- Scope the instruction names (R199). -/
  sc          : Nat
  born        : Nat
  promoted    : Bool
  netPromoted : Bool
  served      : Bool
  parked      : Bool
  ordinal     : Nat
  /-- Its packet has passed the boundary routers of its core's containment rectangle (R358). -/
  past        : Bool
  /-- The `since` of the task that issued it: no other task of the core bears it (R363). -/
  since       : Nat
  /-- Its kernel has NOREPLAY set (R159, R363). -/
  noReplay    : Bool
deriving DecidableEq, Repr

/-- A refusal found after its instruction retired (R363). -/
structure Deferred where
  cause : Nat
  addr  : Word
deriving DecidableEq, Repr

/-- A cached translation (R158): context, region base and bytes, level, and the leaf's entry. -/
structure TlbEntry where
  ctx   : Nat
  base  : Nat
  level : Nat
  entry : Word
deriving DecidableEq, Repr

/-- A scratchpad-map entry (R18). -/
structure SpRegion where
  offset : Nat
  length : Nat
  init   : Nat
  source : Nat
deriving DecidableEq, Repr

/-- A safe-point table entry (R20). -/
structure SafeEntry where
  ga : BitVec 32
  gc : BitVec 32
  f  : BitVec 32
  m  : BitVec 32
  v  : BitVec 32
deriving DecidableEq, Repr

/-- A kernel descriptor with its tables as read at acceptance (R17 to R21). -/
structure Kernel where
  noReplay : Bool
  noPre    : Bool
  aEntry   : Word
  cEntry   : Word
  nga      : Nat
  ngc      : Nat
  nf       : Nat
  nv       : Nat
  nm       : Nat
  spBytes  : Nat
  spMap    : List SpRegion
  saveMap  : List (Nat × Nat)
  safeTab  : List SafeEntry
  tensors  : List (BitVec 32)
  statArea : Word
deriving DecidableEq, Repr

/-- What a core runs (R41, R47, R67). -/
inductive TaskKind where
  | team
  | update (block : Nat)
  | stall (block : Nat)
deriving DecidableEq, Repr

/-- The task on a core. -/
structure Task where
  ctx       : Nat
  queue     : Nat
  seq       : BitVec 32
  kind      : TaskKind
  lid       : Nat
  size      : Nat
  clIndex   : Nat
  kernel    : Kernel
  wcounts   : List (BitVec 64)
  triggered : Bool
  /-- LVCOMMIT executed (R72). -/
  committed : Bool
  /-- L and S at dispatch (R70). -/
  level     : BitVec 32
  step      : BitVec 16
  /-- A topology change not yet reported by cause 0x15 (R56). -/
  topoDue   : Bool
  /-- Previous CORE.PID when cause 0x16 is due (R55). -/
  movedDue  : Option Nat
  nextJob   : Nat
  /-- The names that its core gives out from the task's start on are no lower (R149). -/
  since     : Nat
  /-- When the trap whose handler runs was taken, on the device's clock (R31). -/
  trapAt    : Nat
  /-- Both streams have executed EXIT: the task has exited, and what it issued is draining (R41, R333). -/
  left      : Bool
deriving DecidableEq, Repr

/-- The system registers of a core that its streams share (R48 to R55, R164 to R169, R255, R308, R326). -/
structure SysRegs where
  gangMask   : BitVec 8
  domMembers : BitVec 32
  domLevel   : BitVec 3
  domGen     : Vector (BitVec 16) 4
  evtMoved   : Bool
  evtTopo    : Bool
  evtTopoGen : BitVec 32
  fslm       : Bool
  frmFsl     : BitVec 2
  frm        : BitVec 3
  fflags     : BitVec 6
  qfxScale   : BitVec 6
  tensorId   : BitVec 32
  seed       : Word
  pivThr     : Word
  pivDelta   : Word
  pivCount   : BitVec 32
  cntIssA    : Word
  cntIssC    : Word
  cntLayout  : Word
  cntFeOver  : Word
  trapCause  : BitVec 8
  trapVal    : Word
  trapPc     : Word
  trapStream : BitVec 2
  trapVec    : Word
  trapSave   : Word
  preReq     : Bool
  lvBlock    : BitVec 16
  lvWord     : BitVec 4
  lvRefused  : Bool
  /-- LV.RSEL has selected a block in this task (R80). -/
  lvChosen   : Bool
  lvStaged   : Vector Word 16
  aotWord    : BitVec 2
  aotTile    : BitVec 5
deriving DecidableEq, Repr

/-- One core (R10). -/
structure Core where
  pid       : Nat
  task      : Option Task
  /-- The stream whose instruction is being issued. -/
  sel       : StreamId
  a         : Stream
  c         : Stream
  f         : Vector FReg 32
  v         : Vector VReg 24
  tiles     : Vector Tile 32
  aot       : Vector AotEntry 32
  queues    : Vector (List QEntry) 8
  spad      : Memory
  /-- Full scratchpad words, rising (R150). -/
  full      : List Nat
  tileTab   : Vector TileEntry 64
  shadows   : Vector Word 8
  sys       : SysRegs
  /-- The stream that runs a supervisor handler (R309). -/
  handler   : Option StreamId
  /-- The handler has issued an instruction: what had issued in user mode stands still until TRET (R89, R310). -/
  handlerOn : Bool
  pending   : List Request
  deferred  : List Deferred
  stats     : List (BitVec 32 × Counts)
  tlb       : List TlbEntry
  /-- Names of the next entry, instruction or request (the model's). -/
  nextId    : Nat
  /-- Context of the core's previous task (R145). -/
  lastCtx   : Nat
deriving DecidableEq, Repr

/-- How a copy job stands (R202). -/
inductive JobState where
  | queued | running
  | parked (va : Word) (write : Bool)
deriving DecidableEq, Repr

/-- A job of a copy unit with its shadows (R201 to R204). -/
structure Job where
  id      : Nat
  pid     : Nat
  ctx     : Nat
  queue   : Nat
  seq     : BitVec 32
  mode    : Mode
  noReplay : Bool
  shadows : Vector Word 8
  srcTile : Option TileEntry
  dstTile : Option TileEntry
  state   : JobState
  /-- Bytes done, row by row. -/
  next    : Nat
  /-- The device's cycle at which it was accepted or last moved (R346). -/
  moved   : Nat
  /-- What its A-stream issued before the cpgo bears a lower id (R203). -/
  born    : Nat
  /-- The place of the cpgo among its stream's memory accesses, and the logical id of its task (R345). -/
  ordinal : Nat
  lid     : Nat
  /-- It has written a line of host memory (R282). -/
  wroteHost : Bool
  /-- Bytes of its row that it has written since the last one from a poisoned source (R336). -/
  clean   : Nat
deriving DecidableEq, Repr

/-- A pending-fault record (R160): context, region base, level. -/
structure FaultRec where
  ctx   : Nat
  base  : Nat
  level : Nat
deriving DecidableEq, Repr

/-- A command that held a cluster since its last passing test (R343). -/
structure HeldBy where
  ctx   : Nat
  queue : Nat
  team  : Bool
  seq   : BitVec 32
deriving DecidableEq, Repr

/-- One cluster (R11). -/
structure Cluster where
  id       : Nat
  jobs     : List Job
  faults   : List FaultRec
  /-- The lines and words that the atomic engine has served, each with the cidx it served last there (R269). -/
  lastCidx : List ((Nat × Nat) × Nat)
  /-- The memory lines that the atomic engine holds, most recently used first: host memory or not, and the line's number (R11, R199). -/
  hot      : List (Nat × Nat)
  retired  : Bool
  /-- It is to be retired once the teams and fronts that hold it have been pre-empted (R56). -/
  failing  : Bool
  testing  : Bool
  testDue  : Bool
  /-- The commands that held the cluster since its last passing test, oldest first, each with its completion status,
  0xFF while it runs (R343). -/
  history  : List (HeldBy × BitVec 8)
deriving DecidableEq, Repr

/-- States of a block (R63, R64, R75, R78). -/
inductive BlockState where
  | idle | running | frozen | done
deriving DecidableEq, Repr

/-- A block record as the level unit holds it (R58, R63). `next` is LV.STEP.NEXT while a task runs. -/
structure Block where
  level   : BitVec 32
  step    : BitVec 16
  next    : BitVec 16
  hdepth  : Nat
  nnbr    : Nat
  rule    : Nat
  home    : Nat
  valid   : BitVec 4
  ua      : Word
  uc      : Word
  nbr     : Vector (BitVec 16) 8
  rlev    : Vector (BitVec 32) 4
  raddr   : Vector Word 4
  newSlot : Word
  state   : BlockState
  /-- The core whose update task runs the block. -/
  core    : Option Nat
deriving DecidableEq, Repr

/-- A rule-table entry (R59). -/
structure Rule where
  offs : Vector (BitVec 16) 8
  idx  : Vector (BitVec 8) 8
deriving DecidableEq, Repr

/-- A front (R23, R61, R70, R78, R81). `known` holds, per home index, the levels its unit last received (R65). -/
structure Front where
  target    : BitVec 32
  guarded   : Bool
  coreSet   : BitVec 8
  interp    : List (Word × Word)
  rules     : List Rule
  rulesUsed : List Nat
  blocks    : List Block
  known     : List (List (BitVec 32))
  frozen    : Bool
  stalled   : Bool
  /-- Cause and block id of the trap that first froze the front since it last ran (R79). -/
  freezer   : Option (Nat × Nat)
  abandons  : Nat
deriving DecidableEq, Repr

/-- The statuses of a completion record (R31). -/
inductive CmdStatus where
  | ok | error | cancelled | bad
deriving DecidableEq, Repr

/-- Where an accepted command stands (R31, R33, R37, R39, R315). -/
inductive CmdPhase where
  | accepted
  | placed
  /-- Placed, and a pre-emption pends (R315). -/
  | stopping
  /-- Saved; it competes for placement again (R33). -/
  | saved
  /-- Its tasks have ended or are being stopped, with this status (R39, R333). -/
  | ending (st : CmdStatus)
  | completed (st : CmdStatus)
deriving DecidableEq, Repr

/-- The kinds of command (R32). -/
inductive CmdOp where
  | nop | launch | front | marker
deriving DecidableEq, Repr

/-- A unit that can be poisoned (R336). -/
inductive PoisonUnit where
  | word (pid w : Nat)
  | line (hm : Bool) (pa : Nat)
  | reg (pid : Nat) (st : StreamId) (r : Reg)
  | entry (pid id : Nat)
  | tile (pid t : Nat)
  | block (ctx q : Nat) (seq : BitVec 32) (b : Nat)
deriving DecidableEq, Repr

/-- A saved task of a pre-empted command (R317): the core as the record keeps it, its engine-free state, and the poisoned units in it (R336). -/
structure SavedTask where
  lid    : Nat
  core   : Core
  poison : List PoisonUnit
deriving DecidableEq, Repr

/-- An accepted command (R25, R31 to R40). -/
structure Command where
  seq      : BitVec 32
  op       : CmdOp
  early    : Bool
  hostDone : Bool
  irq      : Bool
  preempt  : Bool
  args     : Word
  doneRec  : Word
  prods    : List (Nat × BitVec 32)
  count    : Nat
  seed     : Word
  ordMode  : Nat
  kernel   : Option Kernel
  /-- NTASK, RECTW, RECTH, GANG, DOM, PERCL (R22). -/
  ntask    : Nat
  rectW    : Nat
  rectH    : Nat
  gang     : BitVec 8
  dom      : Nat
  percl    : Nat
  front    : Option Front
  phase    : CmdPhase
  /-- Clusters by k, once placed (R45). -/
  clusters : List Nat
  /-- The rectangle's clusters, idle ones included (R43). -/
  held     : List Nat
  /-- The team map: the core of each logical id, none once it has exited (R47). -/
  teamMap  : List (Option Nat)
  /-- The core that each logical id last had, kept past its exit (R53). -/
  places   : List Nat
  /-- Quadrant of each cluster group at first placement (R51). -/
  quads    : List Nat
  /-- Tasks that have triggered or exited (R36). -/
  trigs    : List Nat
  /-- Cause and id of the first trap (R31), and when it was taken, on the device's clock. -/
  first    : Option (Nat × Nat)
  firstAt  : Nat
  wcounts  : List (BitVec 64)
  slot     : Option Nat
  placedAt : Nat
  saved    : List SavedTask
  /-- Dsync arrivals: level, instance, logical ids (R283). -/
  arrivals : List (Nat × Nat × List Nat)
  /-- Counts of tasks that have ended, per tensor (R333). -/
  stats    : List (BitVec 32 × Counts)
  /-- Whether the command was placed at any time (R333). -/
  wasPlaced : Bool
  accepted : Nat
  /-- An access of the front end for the command, or of a save of it, has parked (R316, R365). -/
  parked   : Bool
  /-- The clusters that wait for the command while what it pre-empted is saved (R33). -/
  claim    : List Nat
  /-- Devices of the set read when a level-4 command was accepted (R355). -/
  domSet   : List Nat
deriving DecidableEq, Repr

/-- A command queue (R24, R29, R352). -/
structure Queue where
  base     : Word
  log2     : Nat
  prio     : BitVec 2
  prePerm  : Bool
  msiv     : BitVec 11
  errSeq   : BitVec 32
  err      : BitVec 8
  /-- Errors that came while the queue was frozen, oldest first: they freeze it anew (R40). -/
  errs     : List (BitVec 32 × BitVec 8)
  wfail    : Bool
  under    : Bool
  frozen   : Bool
  qerr     : Bool
  en       : Bool
  /-- Running number of the next slot (R24). -/
  head     : BitVec 32
  notify   : BitVec 32
  /-- Stale re-reads of the current slot (R27); none while no stale slot is being re-read. -/
  stale    : Option Nat
  /-- The slot read parked (R365). -/
  parked   : Bool
  /-- A current slot that has been fetched, while the reads of its descriptor are parked (R24, R27, R365). -/
  fetched  : Option (List Byte)
  cmds     : List Command
  /-- Kept statuses behind the completion point (R35), newest last. -/
  kept     : List (BitVec 32 × CmdStatus)
deriving DecidableEq, Repr

/-- A key of the pin directory (R233): the group's core and first tile when it has them. -/
structure PinKey where
  key   : BitVec 32
  core  : Option Nat
  first : Nat
  count : Nat
  state : AotState
  held  : Option Nat
  tokens : BitVec 32
  spill : Word
deriving DecidableEq, Repr

/-- A context (R2, R351, R352). -/
structure Context where
  id       : Nat
  en       : Bool
  ttRoot   : Word
  seed     : Word
  saveBase : Word
  trapVec  : Word
  saveSlots : BitVec 16
  saveStride : BitVec 32
  part     : BitVec 4
  ordBase  : Word
  ordMode  : BitVec 2
  ordSize  : BitVec 32
  ordDiverged : Bool
  ordFull  : Bool
  ordHead  : BitVec 32
  /-- Log entries that a replay has consumed (R346). -/
  ordUsed  : List Nat
  domBase  : Word
  domValid : Bool
  pasid    : BitVec 20
  queues   : List (Nat × Queue)
  pins     : List PinKey
  /-- Devices whose level-4 arrivals have reached this device, once for each phase not yet complete (R283). -/
  remote   : List Nat
  /-- Devices of the set that was read last, at the acceptance of a level-4 command (R355). -/
  domSet   : List Nat
deriving DecidableEq, Repr

/-- A containment rectangle register (R338). -/
structure ContRect where
  y1     : BitVec 4
  y0     : BitVec 4
  x1     : BitVec 4
  x0     : BitVec 4
  purged : Bool
  killed : Bool
  valid  : Bool
deriving DecidableEq, Repr

/-- A failure record of the mailbox (R343): cluster, time, overflow, one entry per launch. -/
structure FailRecord where
  cluster  : Nat
  overflow : Bool
  cycle    : Word
  entries  : List (HeldBy × BitVec 8)
deriving DecidableEq, Repr

/-- The device-wide registers and blocks (R12, R161, R162, R337, R338, R342, R351, R352, R357, R361, R362). -/
structure Device where
  ready    : Bool
  safe     : Bool
  noFirmware : Bool
  linkRed  : Bool
  cfgHost  : Bool
  fwRev    : BitVec 8
  roCount  : BitVec 32
  resFail  : BitVec 32
  /-- Pages held as resident lines and pages demoted to cacheable: context, virtual base and bytes (R152). -/
  resident : List (Nat × Nat × Nat)
  demoted  : List (Nat × Nat × Nat)
  inval    : Option Word
  netAge   : BitVec 16
  fbHead   : BitVec 4
  fbTail   : BitVec 4
  fbDropped : BitVec 32
  fbFlag   : Bool
  fbSlots  : Vector (BitVec 128) 8
  feFaults : List FaultRec
  errCe    : Word
  errPoison : BitVec 32
  errDrop  : BitVec 32
  errLast  : Word
  errKill  : BitVec 8
  rects    : Vector ContRect 16
  iftPeriod : BitVec 32
  iftCluster : BitVec 8
  iftPass  : BitVec 32
  iftFail  : BitVec 24
  iftLast  : BitVec 8
  domNum   : BitVec 10
  pwrLimit : BitVec 16
  pwrAvg   : BitVec 16
  clockMhz : BitVec 12
  throttle : Bool
  trip     : Bool
  mbxCmd   : Word
  mbxBusy  : Bool
  mbxResult : BitVec 8
  mbxData  : Memory
  failRecs : List FailRecord
  pendingImage : Option ConfigImage
  /-- The firmware revision that FW-UPDATE has written to the board's flash, which every later reset uses (R361). -/
  pendingFw : Option (BitVec 8)
  /-- The configuration image and the firmware revision in force, kept for a device reset (R359). -/
  image    : Option ConfigImage
  selfTest : List Byte
  hostPorts : BitVec 2
  links    : BitVec 16
  /-- Peers that answer over the switch (R354). -/
  peers    : List Nat
  /-- The PASIDs whose translated requests the host refuses (R349). -/
  refused  : List (BitVec 20)
  /-- Stores and atomics of a killed rectangle that had passed its boundary routers and are still to be delivered, with their cores (R358). -/
  packets  : List (Nat × Request)
  cycle    : Word
  poison   : List PoisonUnit
  msix     : List Nat
  /-- Lines of host memory the device owns through CXL.cache (R274). -/
  owned    : List Nat
  /-- Context and queue the rotation served last, per priority (R33). -/
  rotation : List (Nat × Nat × Nat)
  /-- Counts acceptances and placements, for "most recently placed" (R33). -/
  clock    : Nat
deriving DecidableEq, Repr

/-- One move of the agenda (log entry 2): a stream issues its next instruction, an event of the table happens,
or the environment acts in a way that has no row. -/
inductive Turn where
  | stream (pid : Nat) (st : StreamId)
  | event (e : Instr)
  /-- Time passes (R326). -/
  | tick (n : Nat)
  /-- A TLB of the core's cluster caches the valid entry that translates the address (R158). -/
  | cache (pid : Nat) (va : Word)
  /-- A cached translation is dropped (R158). -/
  | evict (pid idx : Nat)
  /-- A single-bit error is corrected (R336). -/
  | corrected
  /-- A unit is hit by an uncorrectable error (R336). -/
  | poison (u : PoisonUnit)
  /-- A clean copy was dropped and fetched again (R336). -/
  | dropped (pa : Nat)
  /-- A peer device begins or ceases to answer over the switch (R354). -/
  | peer (device : Nat) (up : Bool)
  /-- The host begins or ceases to refuse the translated requests of a PASID (R349). -/
  | refusal (pasid : BitVec 20) (on : Bool)
  /-- The packet of a request passes the boundary routers of its core's rectangle (R358). -/
  | passes (pid : Nat) (req : ReqRef)
  /-- A packet that outlived its rectangle is delivered (R358). -/
  | deliver (idx : Nat)
deriving DecidableEq, Repr

/-- The machine. `core` is the core whose turn it is; the other cores that hold anything stand in `cores`. -/
structure State where
  core     : Core
  cores    : List Core
  clusters : List Cluster
  contexts : List Context
  pool     : Memory
  host     : Memory
  dev      : Device
  agenda   : List Turn
  /-- The model's own: the name of the next free value (log entry 5). -/
  free     : Nat
deriving DecidableEq, Repr

/-- Counts of nothing. -/
def Counts.zero : Counts := ⟨0, 0, 0, 0, 0⟩

/-- A stream with every register zero (R32). -/
def Stream.init : Stream :=
  { g := Vector.replicate 32 0, pc := 0, mode := .user, exited := false, stopped := none, wait := none, waitFrom := 0, pos := 0,
    wins := [], flight := [], fence := [], safeId := 0, resume := (0, 0), interp := false, drain := none,
    arrived := none, dsynced := none, gsynced := false, ordinal := 0, taken := none, stopDue := false,
    seen := 0, named := none, rewait := false, asking := none, aside := ⟨none, none, false⟩ }

/-- A raw tile (R228). -/
def Tile.zero : Tile := ⟨.raw, Vector.replicate 256 0⟩

/-- A FREE entry (R233). -/
def AotEntry.free : AotEntry := ⟨.free, 0, 0, 0, false, 0, 0, 0⟩

/-- An empty entry (R148). -/
def TileEntry.empty : TileEntry := ⟨.empty, 0, 0, 0, 0, 0, 0, 0⟩

/-- The shared system registers at zero. -/
def SysRegs.init : SysRegs :=
  { gangMask := 0, domMembers := 0, domLevel := 0, domGen := Vector.replicate 4 0, evtMoved := false, evtTopo := false,
    evtTopoGen := 0, fslm := false, frmFsl := 0, frm := 0, fflags := 0, qfxScale := 0, tensorId := 0, seed := 0,
    pivThr := 0, pivDelta := 0, pivCount := 0, cntIssA := 0, cntIssC := 0, cntLayout := 0, cntFeOver := 0,
    trapCause := 0, trapVal := 0, trapPc := 0, trapStream := 0, trapVec := 0, trapSave := 0, preReq := false,
    lvBlock := 0, lvWord := 0, lvRefused := false, lvChosen := false, lvStaged := Vector.replicate 16 0,
    aotWord := 0, aotTile := 0 }

/-- A core that runs no task, as device reset leaves it. -/
def Core.init (pid : Nat) : Core :=
  { pid := pid, task := none, sel := .a, a := .init, c := .init, f := Vector.replicate 32 ⟨0, 0⟩,
    v := Vector.replicate 24 ⟨0, 0⟩, tiles := Vector.replicate 32 .zero, aot := Vector.replicate 32 .free,
    queues := Vector.replicate 8 [], spad := [], full := [], tileTab := Vector.replicate 64 .empty,
    shadows := Vector.replicate 8 0, sys := .init, handler := none, handlerOn := false, pending := [], deferred := [], stats := [],
    tlb := [], nextId := 0, lastCtx := 0 }

/-- A cluster in service with nothing in it. -/
def Cluster.init (id : Nat) : Cluster := ⟨id, [], [], [], [], false, false, false, false, []⟩

/-- A queue as the host driver finds it after reset (R29, R352). -/
def Queue.init : Queue :=
  { base := 0, log2 := 4, prio := 0, prePerm := false, msiv := 0, errSeq := 0, err := 0, errs := [], wfail := false, under := false,
    frozen := false, qerr := false, en := false, head := 1, notify := 0, stale := none, parked := false, fetched := none,
    cmds := [], kept := [] }

/-- A context that the host driver has not created (R351). -/
def Context.init (id : Nat) : Context :=
  { id := id, en := false, ttRoot := 0, seed := 0, saveBase := 0, trapVec := 0, saveSlots := 1, saveStride := 0,
    part := 0, ordBase := 0, ordMode := 0, ordSize := 0, ordDiverged := false, ordFull := false, ordHead := 0, ordUsed := [],
    domBase := 0, domValid := false, pasid := 0, queues := [], pins := [], remote := [], domSet := [] }

/-- CR.n after device reset: rectangle 0 covers the grid, the others are not valid (R338). -/
def ContRect.reset (n : Nat) : ContRect :=
  if n = 0 then ⟨15, 0, 15, 0, false, false, true⟩ else ⟨0, 0, 0, 0, false, false, false⟩

/-- The device-wide registers after device reset (R162, R337, R338, R342, R352, R357). -/
def Device.init : Device :=
  { ready := false, safe := false, noFirmware := false, linkRed := false, cfgHost := false, fwRev := 0, roCount := 0,
    resFail := 0, resident := [], demoted := [], inval := none, netAge := 2048, fbHead := 0, fbTail := 0, fbDropped := 0,
    fbFlag := false, fbSlots := Vector.replicate 8 0, feFaults := [], errCe := 0, errPoison := 0, errDrop := 0,
    errLast := 0, errKill := 0,
    rects := Vector.ofFn (fun n => ContRect.reset n.val), iftPeriod := 0, iftCluster := 0, iftPass := 0, iftFail := 0,
    iftLast := 0, domNum := 0, pwrLimit := 1950, pwrAvg := 0, clockMhz := 4000, throttle := false, trip := false,
    mbxCmd := 0, mbxBusy := false, mbxResult := 0, mbxData := [], failRecs := [], pendingImage := none,
    pendingFw := none, image := none, selfTest := [], hostPorts := 0, links := 0xFFFF, peers := [], refused := [], packets := [],
    cycle := 0,
    poison := [], msix := [], owned := [], rotation := [], clock := 0 }

/-- The machine right after device reset: no context, no task, every register at its reset value.
Values that the spec gives no reset for are named in log entry 4; memory lists nothing (log entry 1). -/
def State.reset : State :=
  { core := Core.init 0, cores := [], clusters := [], contexts := [], pool := [], host := [], dev := Device.init,
    agenda := [], free := 0 }

end Sys2Proof.Machine
end

