-- ==== Sys2Proof/Machine/Numbers.lean ====
section
/-! DEFINITION. The number formats, exact to the bit (spec/09_number_formats.md R164 to R185).
Values are exact: a sign and a fraction of naturals. They are reduced to a format only by the named functions. -/

namespace Sys2Proof.Machine

/-! ### Flags and counts of one result -/

/-- Flags (R166) and statistics (R184) that one result raises. -/
structure Eff where
  flags : BitVec 6
  sat   : Nat
  flush : Nat
  nan   : Nat
deriving DecidableEq, Repr

namespace Eff

def none : Eff := ⟨0, 0, 0, 0⟩

/-- Both. -/
def join (x y : Eff) : Eff := ⟨x.flags ||| y.flags, x.sat + y.sat, x.flush + y.flush, x.nan + y.nan⟩

/-- Two roundings of one result element: its counters count it once (R184). -/
def onceWith (x y : Eff) : Eff := ⟨x.flags ||| y.flags, max x.sat y.sat, max x.flush y.flush, max x.nan y.nan⟩

def nx : Eff := ⟨1, 0, 0, 0⟩
def uf : Eff := ⟨2, 0, 0, 0⟩
def ov : Eff := ⟨4, 0, 0, 0⟩
def dz : Eff := ⟨8, 0, 0, 0⟩
def nv : Eff := ⟨16, 0, 0, 0⟩
/-- A saturated result: the flag and the count (R166, R175). -/
def satd : Eff := ⟨32, 1, 0, 0⟩
/-- A result flushed to zero (R171): the flags and the count. -/
def flushed : Eff := ⟨3, 0, 1, 0⟩
/-- A NaN or NaR result (R184). -/
def nanr : Eff := ⟨0, 0, 0, 1⟩

/-- An effect under a condition. -/
def onlyIf (b : Bool) (e : Eff) : Eff := if b then e else Eff.none

/-- The counts alone, as statistics hold them. -/
def counts (e : Eff) : Counts := ⟨e.sat, e.flush, e.nan, 0, 0⟩

end Eff

/-! ### Values -/

/-- The value of a pattern: a finite sign and magnitude, an infinity, a NaN, or a NaR with its code (R170, R176, R177). -/
inductive Val where
  | fin (neg : Bool) (num den : Nat)
  | inf (neg : Bool)
  | nan (sig : Bool)
  | nar (code : Nat)
deriving DecidableEq, Repr

/-- An exact result before its one rounding. -/
inductive Exact where
  | nan (nv : Bool)
  | nar (code : Nat) (nv : Bool)
  | inf (neg dz : Bool)
  | fin (neg : Bool) (num den : Nat)
deriving DecidableEq, Repr

/-- A signed fraction. -/
structure Q where
  num : Int
  den : Nat
deriving DecidableEq, Repr

namespace Q

def ofMag (neg : Bool) (n d : Nat) : Q := ⟨if neg then -(n : Int) else n, d⟩
def add (x y : Q) : Q := if x.den = y.den then ⟨x.num + y.num, x.den⟩ else ⟨x.num * y.den + y.num * x.den, x.den * y.den⟩
def neg (x : Q) : Q := ⟨-x.num, x.den⟩
def mul (x y : Q) : Q := ⟨x.num * y.num, x.den * y.den⟩
def isNeg (x : Q) : Bool := decide (x.num < 0)
def mag (x : Q) : Nat := x.num.natAbs
/-- x < y. -/
def lt (x y : Q) : Bool := decide (x.num * y.den < y.num * x.den)
def le (x y : Q) : Bool := decide (x.num * y.den ≤ y.num * x.den)
def abs (x : Q) : Q := ⟨x.num.natAbs, x.den⟩
def ofInt (i : Int) : Q := ⟨i, 1⟩
/-- x · 2^k. -/
def scale (x : Q) (k : Int) : Q := if 0 ≤ k then ⟨x.num * 2 ^ k.toNat, x.den⟩ else ⟨x.num, x.den * 2 ^ (-k).toNat⟩

end Q

/-- A finite value as a fraction. -/
def Val.q : Val → Q
  | .fin s n d => .ofMag s n d
  | _ => ⟨0, 1⟩

/-- An exact fraction as a result; an exact zero takes the given sign. -/
def Exact.ofQ (x : Q) (zeroNeg : Bool) : Exact :=
  if x.num = 0 then .fin zeroNeg 0 1 else .fin x.isNeg x.mag x.den

/-! ### IEEE formats -/

/-- Widths of an IEEE format (R170). -/
structure IeeeFmt where
  ebits : Nat
  fbits : Nat
deriving DecidableEq, Repr

namespace IeeeFmt

def fp64 : IeeeFmt := ⟨11, 52⟩
def fp32 : IeeeFmt := ⟨8, 23⟩
def fp16 : IeeeFmt := ⟨5, 10⟩
def bf16 : IeeeFmt := ⟨8, 7⟩

def bits (f : IeeeFmt) : Nat := 1 + f.ebits + f.fbits
def bias (f : IeeeFmt) : Nat := 2 ^ (f.ebits - 1) - 1
def expMax (f : IeeeFmt) : Nat := 2 ^ f.ebits - 1
def signBit (f : IeeeFmt) : Nat := 2 ^ (f.ebits + f.fbits)
/-- The canonical NaN (R170). -/
def qnan (f : IeeeFmt) : Nat := f.expMax * 2 ^ f.fbits + 2 ^ (f.fbits - 1)
def infPat (f : IeeeFmt) (neg : Bool) : Nat := (if neg then f.signBit else 0) + f.expMax * 2 ^ f.fbits
def maxPat (f : IeeeFmt) (neg : Bool) : Nat := (if neg then f.signBit else 0) + f.expMax * 2 ^ f.fbits - 1
def zeroPat (f : IeeeFmt) (neg : Bool) : Nat := if neg then f.signBit else 0

/-- The value that a pattern denotes (R170). -/
def decode (f : IeeeFmt) (p : Nat) : Val :=
  let neg := p / f.signBit % 2 == 1
  let e := p / 2 ^ f.fbits % 2 ^ f.ebits
  let m := p % 2 ^ f.fbits
  if e = f.expMax then (if m = 0 then .inf neg else .nan (decide (m < 2 ^ (f.fbits - 1))))
  else if e = 0 then .fin neg m (2 ^ (f.bias - 1 + f.fbits))
  else
    let sig := 2 ^ f.fbits + m
    let sh := f.bias + f.fbits
    if sh ≤ e then .fin neg (sig * 2 ^ (e - sh)) 1 else .fin neg sig (2 ^ (sh - e))

/-- A subnormal operand read as zero of its sign (R171). -/
def decodeFlush (f : IeeeFmt) (p : Nat) : Val :=
  if p / 2 ^ f.fbits % 2 ^ f.ebits = 0 then .fin (p / f.signBit % 2 == 1) 0 1 else f.decode p

end IeeeFmt

/-- floor(log2(n/d)) for n and d positive. -/
def floorLog2 (n d : Nat) : Int :=
  let e : Int := (Nat.log2 n : Int) - (Nat.log2 d : Int)
  if 0 ≤ e then (if d * 2 ^ e.toNat ≤ n then e else e - 1)
  else (if d ≤ n * 2 ^ (-e).toNat then e else e - 1)

/-- n/d cut at the quantum 2^q: the whole number of quanta, and how the rest compares with half a quantum
(0 nothing left, 1 below half, 2 half, 3 above half). `more` tells that the exact value lies a little above n/d. -/
def cutAt (n d : Nat) (q : Int) (more : Bool) : Nat × Nat :=
  let a := if q < 0 then n * 2 ^ (-q).toNat else n
  let b := if q < 0 then d else d * 2 ^ q.toNat
  let m := a / b
  let r := a % b
  let half := if 2 * r < b then (if r = 0 && !more then 0 else 1) else if 2 * r = b then (if more then 3 else 2) else 3
  (m, half)

/-- Whether a magnitude of `m` whole quanta with rest `half` rounds away from zero under an IEEE mode (R165). -/
def roundsUp (mode : Nat) (neg : Bool) (m half : Nat) : Bool :=
  match mode with
  | 0 => half == 3 || (half == 2 && m % 2 == 1)
  | 1 => false
  | 2 => neg && half != 0
  | 3 => !neg && half != 0
  | _ => decide (2 ≤ half)

/-- round*() of R170: a nonzero magnitude n/d into an IEEE format under a mode, with its flags. An inexact result that is tiny
after rounding sets UF, also where it is kept as the smallest normal by an operation that flushes (R171; log entry 89, DESIGN CHOICE). -/
def roundIeee (f : IeeeFmt) (mode : Nat) (neg : Bool) (n d : Nat) (more : Bool := false) : Nat × Eff :=
  let e := floorLog2 n d
  let p : Int := f.fbits
  let emin : Int := 1 - (f.bias : Int)
  let q := max (e - p) (emin - p)
  let (m, half) := cutAt n d q more
  let m1 := if roundsUp mode neg m half then m + 1 else m
  let inexact := half != 0
  let sgn := if neg then f.signBit else 0
  let (m2, q2) := if m1 = 2 ^ (f.fbits + 1) then (2 ^ f.fbits, q + 1) else (m1, q)
  let tiny := decide (e < emin) &&
    (let (u, h) := cutAt n d (e - p) more
     !(decide (e = emin - 1) && roundsUp mode neg u h && u + 1 == 2 ^ (f.fbits + 1)))
  if m2 < 2 ^ f.fbits then (sgn + m2, if inexact then Eff.nx.join (Eff.onlyIf tiny Eff.uf) else Eff.none)
  else
    let ef := q2 + p + f.bias
    if (f.expMax : Int) ≤ ef then
      let toInf := mode == 0 || mode == 4 || (mode == 2 && neg) || (mode == 3 && !neg)
      (if toInf then f.infPat neg else f.maxPat neg, Eff.ov.join Eff.nx)
    else (sgn + ef.toNat * 2 ^ f.fbits + (m2 - 2 ^ f.fbits),
      if inexact then Eff.nx.join (Eff.onlyIf tiny Eff.uf) else Eff.none)

/-- A pattern that stands below the smallest normal: subnormal or zero. -/
def IeeeFmt.small (f : IeeeFmt) (p : Nat) : Bool := p / 2 ^ f.fbits % 2 ^ f.ebits == 0

/-- An exact result delivered in an IEEE format; `flush` flushes what R171 flushes. NaN results are canonical (R170) and counted (R184). -/
def deliverIeee (f : IeeeFmt) (mode : Nat) (flush : Bool) (x : Exact) : Nat × Eff :=
  match x with
  | .nan nv => (f.qnan, Eff.nanr.join (Eff.onlyIf nv Eff.nv))
  | .nar _ nv => (f.qnan, Eff.nanr.join (Eff.onlyIf nv Eff.nv))
  | .inf neg dz => (f.infPat neg, Eff.onlyIf dz Eff.dz)
  | .fin neg n d =>
    if n = 0 then (f.zeroPat neg, Eff.none)
    else
      let (p, e) := roundIeee f mode neg n d
      if flush && f.small p then (f.zeroPat neg, Eff.flushed) else (p, e)

/-- Addition of IEEE values (R207): an exact zero of operands of opposite sign is −0 only under RDN. -/
def ieeeAdd (mode : Nat) (a b : Val) : Exact :=
  match a, b with
  | .nan s, .nan t => .nan (s || t)
  | .nan s, _ => .nan s
  | _, .nan t => .nan t
  | .inf s, .inf t => if s = t then .inf s false else .nan true
  | .inf s, _ => .inf s false
  | _, .inf t => .inf t false
  | .fin s n d, .fin t m e =>
    if n = 0 ∧ m = 0 then .fin (if s = t then s else mode == 2) 0 1
    else Exact.ofQ ((Q.ofMag s n d).add (Q.ofMag t m e)) (mode == 2)
  | _, _ => .nan true

/-- The sign of a value. -/
def Val.isNeg : Val → Bool
  | .fin s _ _ => s
  | .inf s => s
  | _ => false

/-- The negated value. -/
def Val.negate : Val → Val
  | .fin s n d => .fin (!s) n d
  | .inf s => .inf (!s)
  | v => v

def Val.isZero : Val → Bool
  | .fin _ 0 _ => true
  | _ => false

/-- Multiplication of IEEE values (R207). -/
def ieeeMul (a b : Val) : Exact :=
  match a, b with
  | .nan s, .nan t => .nan (s || t)
  | .nan s, _ => .nan s
  | _, .nan t => .nan t
  | .inf s, v => if v.isZero then .nan true else .inf (s != v.isNeg) false
  | v, .inf t => if v.isZero then .nan true else .inf (v.isNeg != t) false
  | .fin s n d, .fin t m e => if n = 0 ∨ m = 0 then .fin (s != t) 0 1 else .fin (s != t) (n * m) (d * e)
  | _, _ => .nan true

/-- Division of IEEE values (R207): a finite nonzero value by zero gives an infinity and DZ. -/
def ieeeDiv (a b : Val) : Exact :=
  match a, b with
  | .nan s, .nan t => .nan (s || t)
  | .nan s, _ => .nan s
  | _, .nan t => .nan t
  | .inf _, .inf _ => .nan true
  | .inf s, v => .inf (s != v.isNeg) false
  | v, .inf t => .fin (v.isNeg != t) 0 1
  | .fin s n d, .fin t m e =>
    if m = 0 then (if n = 0 then .nan true else .inf (s != t) true)
    else if n = 0 then .fin (s != t) 0 1 else .fin (s != t) (n * e) (d * m)
  | _, _ => .nan true

/-- a·b + c with one rounding (R207): the invalid product sets NV even beside a quiet NaN. -/
def ieeeFma (mode : Nat) (a b c : Val) : Exact :=
  match ieeeMul a b with
  | .nan nv => .nan (nv || (match c with
    | .nan t => t
    | _ => false))
  | .inf s _ =>
    match c with
    | .nan t => .nan t
    | .inf t => if s = t then .inf s false else .nan true
    | _ => .inf s false
  | .fin s n d => ieeeAdd mode (.fin s n d) c
  | .nar _ nv => .nan nv

/-- The integer square root, by Newton steps from above. -/
def isqrtGo (n : Nat) : Nat → Nat → Nat
  | 0, x => x
  | fuel + 1, x =>
    let y := (x + n / x) / 2
    if y < x then isqrtGo n fuel y else x

def isqrt (n : Nat) : Nat := if n = 0 then 0 else isqrtGo n 64 (2 ^ (Nat.log2 n / 2 + 1))

/-- √(n/d) with at least 72 significant bits: a fraction and whether the root lies above it. -/
def sqrtFrac (n d : Nat) : Nat × Nat × Bool :=
  let k := 144 + Nat.log2 d
  let x := n * 4 ^ k / d
  let r := isqrt x
  (r, 2 ^ k, !(r * r == x && n * 4 ^ k % d == 0))

/-- Square root in an IEEE format (R213, R246). -/
def ieeeSqrt (f : IeeeFmt) (mode : Nat) (flush : Bool) (a : Val) : Nat × Eff :=
  match a with
  | .nan s => deliverIeee f mode flush (.nan s)
  | .inf s => deliverIeee f mode flush (if s then .nan true else .inf false false)
  | .fin s n d =>
    if n = 0 then (f.zeroPat s, Eff.none)
    else if s then deliverIeee f mode flush (.nan true)
    else
      let (r, e, more) := sqrtFrac n d
      let (p, ef) := roundIeee f mode false r e more
      if flush && f.small p then (f.zeroPat false, Eff.flushed) else (p, ef)
  | .nar _ => deliverIeee f mode flush (.nan true)

/-- Order of two values that are numbers: −1, 0 or 1 as a below, equal or above b; −0 equals +0. -/
def Val.compare (a b : Val) : Int :=
  match a, b with
  | .inf s, .inf t => if s = t then 0 else if s then -1 else 1
  | .inf s, _ => if s then -1 else 1
  | _, .inf t => if t then 1 else -1
  | .fin s n d, .fin t m e =>
    let x := (Q.ofMag s n d).num * e
    let y := (Q.ofMag t m e).num * d
    if x < y then -1 else if x = y then 0 else 1
  | _, _ => 0

/-- The value is no number. -/
def Val.unordered : Val → Bool
  | .nan _ => true
  | .nar _ => true
  | _ => false

def Val.signalling : Val → Bool
  | .nan s => s
  | _ => false

/-! ### Integers and QFX -/

/-- round_int of R175: a signed fraction to an integer under an IEEE mode, and whether it changed. -/
def roundInt (mode : Nat) (x : Q) : Int × Bool :=
  let (m, half) := cutAt x.mag x.den 0 false
  let m1 := if roundsUp mode x.isNeg m half then m + 1 else m
  (if x.isNeg then -(m1 : Int) else m1, half != 0)

/-- qsat of R175: clamped to `w` bits; saturation raises SAT and counts. -/
def qsat (t : Int) (w : Nat) : Int × Eff :=
  let hi : Int := 2 ^ (w - 1) - 1
  let lo : Int := -(2 ^ (w - 1))
  if hi < t then (hi, Eff.satd) else if t < lo then (lo, Eff.satd) else (t, Eff.none)

/-- The two's complement pattern of `w` bits. -/
def intPat (t : Int) (w : Nat) : Nat := (t % (2 ^ w : Int)).toNat

/-- The signed value of a pattern of `w` bits. -/
def patInt (p w : Nat) : Int := if 2 ^ (w - 1) ≤ p % 2 ^ w then (p % 2 ^ w : Int) - 2 ^ w else (p % 2 ^ w : Int)

/-- The signed SCALE of a format word (R96). -/
def scaleOf (fmt : BitVec 16) : Int := patInt (fmt.toNat / 16) 6

/-- A format word from a tag and a scale; SCALE is zero for tags other than the QFX ones (R96). -/
def mkFmt (tag : Nat) (scale : Int) : BitVec 16 :=
  if tag = 11 ∨ tag = 12 then .ofNat 16 (tag + 16 * intPat scale 6) else .ofNat 16 tag

/-- The tag of a format word (R96). -/
def tagOf (fmt : BitVec 16) : Nat := fmt.toNat % 16

/-- The value of a QFX pattern (R175). -/
def qfxVal (p w : Nat) (scale : Int) : Q := (Q.ofInt (patInt p w)).scale (-scale)

/-- QFX multiply (R175): the product's pattern and its scale. -/
def qfxMul (mode : Nat) (w : Nat) (v1 v2 s1 s2 : Int) : Nat × Int × Eff :=
  let s := s1 + s2
  let t := min (max s (-32)) 31
  let (i, nx) := roundInt mode ((Q.ofInt (v1 * v2)).scale (t - s))
  let (r, e) := qsat i w
  (intPat r w, t, e.join (Eff.onlyIf nx Eff.nx))

/-! ### FSL -/

/-- Payload bits of an FSL width (R178). -/
def fslPayload (wide : Bool) : Nat := if wide then 57 else 26

/-- The value of an FSL word (R176). -/
def fslDecode (wide : Bool) (w : Nat) : Val :=
  let P := fslPayload wide
  let s := w / 2 ^ (if wide then 63 else 31) % 2 == 1
  let b := w / 2 ^ P % 2 ^ (if wide then 6 else 5)
  if b = 0 then
    let c := w % 2 ^ P
    if c = 1 then .inf s else if c ≤ 7 then .nar c else .nar 5
  else if P ≤ b then .nar 5
  else
    let n := w / 2 ^ (P - b) % 2 ^ b
    let d := w % 2 ^ (P - b)
    if d = 0 then .nar 5
    else if n = 0 then .fin false 0 1
    else
      let g := Nat.gcd n d
      .fin s (n / g) (d / g)

/-- Bits of a number, 0 for zero. -/
def bitlen (n : Nat) : Nat := if n = 0 then 0 else Nat.log2 n + 1

/-- The canonical word of a reduced fraction (R178). -/
def fslEncode (wide neg : Bool) (n d : Nat) : Nat :=
  let P := fslPayload wide
  let b := max 1 (bitlen n)
  (if neg && n != 0 then 2 ^ (if wide then 63 else 31) else 0) + b * 2 ^ P + n * 2 ^ (P - b) + d

/-- The word of a zero-denominator code (R177, R178). -/
def fslCode (wide neg : Bool) (c : Nat) : Nat :=
  if c = 1 then (if neg then 2 ^ (if wide then 63 else 31) else 0) + 1 else c

/-- A reduced n/d lies in F (R178), with the denominator bounded by D when D is not 0 (R253). -/
def inF (wide : Bool) (D n d : Nat) : Bool :=
  decide (max 1 (bitlen n) + bitlen d ≤ fslPayload wide) && (D == 0 || decide (d ≤ D))

/-- maxF and the denominator of minF (R178). -/
def fslMax (wide : Bool) : Nat := 2 ^ (fslPayload wide - 1) - 1

/-- The largest k below 2^`fuel` · 2 for which a test that fails from some k on still holds, added to `acc`. -/
def lastGood (ok : Nat → Bool) : Nat → Nat → Nat
  | 0, acc => if ok (acc + 1) then acc + 1 else acc
  | b + 1, acc => if ok (acc + 2 ^ (b + 1)) then lastGood ok b (acc + 2 ^ (b + 1)) else lastGood ok b acc

/-- Two neighbours: lo below and hi above, as fractions. -/
structure Bracket where
  ln : Nat
  ld : Nat
  hn : Nat
  hd : Nat
deriving DecidableEq, Repr

/-- Closes in on a target by mediants (R179): convergents and semiconvergents of its continued fraction, until the next leaves the set.
`below n d` tells that n/d lies on the lower side of the target. -/
def closeIn (ok : Nat → Nat → Bool) (below : Nat → Nat → Bool) : Nat → Bracket → Bracket
  | 0, b => b
  | fuel + 1, b =>
    let n := b.ln + b.hn
    let d := b.ld + b.hd
    if !ok n d then b
    else if below n d then
      let k := lastGood (fun k => ok (b.ln + k * b.hn) (b.ld + k * b.hd) && below (b.ln + k * b.hn) (b.ld + k * b.hd)) 60 0
      closeIn ok below fuel { b with ln := b.ln + k * b.hn, ld := b.ld + k * b.hd }
    else
      let k := lastGood (fun k => ok (k * b.ln + b.hn) (k * b.ld + b.hd) && !below (k * b.ln + b.hn) (k * b.ld + b.hd)) 60 0
      closeIn ok below fuel { b with hn := k * b.ln + b.hn, hd := k * b.ld + b.hd }

/-- The neighbours of a target in F or F_D. -/
def neighbours (wide : Bool) (D : Nat) (below : Nat → Nat → Bool) : Bracket :=
  closeIn (inF wide D) below 128 ⟨0, 1, 1, 0⟩

/-- Picks a neighbour by FRM.FSL (R179): `cmp n d` is −1, 0 or 1 as n/d lies below, at or above the magnitude. -/
def pickFsl (mode : Nat) (neg : Bool) (b : Bracket) (cmp : Nat → Nat → Int) : Nat × Nat :=
  let lo := (b.ln, b.ld)
  let hi := (b.hn, b.hd)
  let tie := if b.ld < b.hd then lo else if b.hd < b.ld then hi else lo
  match mode with
  | 0 =>
    -- the point halfway between lo and hi: the magnitude lies nearer hi when the midpoint is below it
    let c := cmp (b.ln * b.hd + b.hn * b.ld) (2 * b.ld * b.hd)
    if c < 0 then hi else if 0 < c then lo else tie
  | 1 =>
    let c := cmp (b.ln + b.hn) (b.ld + b.hd)
    if c < 0 then hi else if 0 < c then lo else tie
  | 2 => if neg then hi else lo
  | _ => if neg then lo else hi

/-- Compares n/d with a rational magnitude. -/
def cmpFrac (an ad n d : Nat) : Int := if n * ad < an * d then -1 else if n * ad = an * d then 0 else 1

/-- Compares n/d with the square root of a rational. -/
def cmpRoot (an ad n d : Nat) : Int := if n * n * ad < an * d * d then -1 else if n * n * ad = an * d * d then 0 else 1

/-- fsl_round of R179 for a nonzero magnitude given by a comparison: whether it lies in F (then it is n/d), above maxF, below minF. -/
def fslPick (wide : Bool) (mode : Nat) (neg : Bool) (cmp : Nat → Nat → Int) : Nat × Eff :=
  let mx := fslMax wide
  if cmp mx 1 < 0 then
    if mode ≤ 1 then (fslCode wide neg 1, Eff.nx.join Eff.ov)
    else (fslEncode wide neg mx 1, (Eff.nx.join Eff.ov).join Eff.satd)
  else if 0 < cmp 1 mx then (fslEncode wide false 0 1, Eff.flushed)
  else
    let (n, d) := pickFsl mode neg (neighbours wide 0 (fun n d => decide (cmp n d < 0))) cmp
    (fslEncode wide neg n d, Eff.nx)

/-- fsl_round of R179. -/
def fslRound (wide : Bool) (mode : Nat) (neg : Bool) (n d : Nat) : Nat × Eff :=
  if n = 0 then (fslEncode wide false 0 1, Eff.none)
  else
    let g := Nat.gcd n d
    let a := n / g
    let b := d / g
    if inF wide 0 a b then (fslEncode wide neg a b, Eff.none)
    else fslPick wide mode neg (cmpFrac a b)

/-- A rational result delivered (R177, R179). -/
def deliverFsl (wide : Bool) (mode : Nat) (x : Exact) : Nat × Eff :=
  match x with
  | .nar c nv => (fslCode wide false c, Eff.nanr.join (Eff.onlyIf nv Eff.nv))
  | .nan nv => (0, Eff.nanr.join (Eff.onlyIf nv Eff.nv))
  | .inf neg dz => (fslCode wide neg 1, Eff.onlyIf dz Eff.dz)
  | .fin neg n d => fslRound wide mode neg n d

/-- The first NaR of two operands, in their order (R177). -/
def firstNar (a b : Val) : Option Nat :=
  match a, b with
  | .nar c, _ => some c
  | _, .nar c => some c
  | _, _ => none

def fslAdd (a b : Val) : Exact :=
  match firstNar a b with
  | some c => .nar c false
  | none =>
    match a, b with
    | .inf s, .inf t => if s = t then .inf s false else .nar 3 true
    | .inf s, _ => .inf s false
    | _, .inf t => .inf t false
    | x, y => Exact.ofQ (x.q.add y.q) false

def fslMul (a b : Val) : Exact :=
  match firstNar a b with
  | some c => .nar c false
  | none =>
    match a, b with
    | .inf s, v => if v.isZero then .nar 4 true else .inf (s != v.isNeg) false
    | v, .inf t => if v.isZero then .nar 4 true else .inf (v.isNeg != t) false
    | x, y => Exact.ofQ (x.q.mul y.q) false

def fslDiv (a b : Val) : Exact :=
  match firstNar a b with
  | some c => .nar c false
  | none =>
    match a, b with
    | .inf _, .inf _ => .nar 2 true
    | .inf s, v => .inf (s != v.isNeg) false
    | _, .inf _ => .fin false 0 1
    | .fin s n d, .fin t m e =>
      if m = 0 then (if n = 0 then .nar 2 true else .inf s true)
      else if n = 0 then .fin false 0 1 else .fin (s != t) (n * e) (d * m)
    | _, _ => .nar 2 true

/-- a·b + c as one fraction (R246); a product that is an infinity or a NaR goes into the sum as that of the separate operation would (R177). -/
def fslFma (a b c : Val) : Exact :=
  match fslMul a b with
  | .nar k nv => .nar k nv
  | .inf s _ => fslAdd (.inf s) c
  | .fin s n d => fslAdd (.fin s n d) c
  | .nan nv => .nan nv

/-- Square root of a rational (R246). -/
def fslSqrt (wide : Bool) (mode : Nat) (a : Val) : Nat × Eff :=
  match a with
  | .nar c => deliverFsl wide mode (.nar c false)
  | .nan _ => deliverFsl wide mode (.nar 0 false)
  | .inf s => deliverFsl wide mode (if s then .nar 6 true else .inf false false)
  | .fin s n d =>
    if n = 0 then deliverFsl wide mode (.fin false 0 1)
    else if s then deliverFsl wide mode (.nar 6 true)
    else
      let rn := isqrt n
      let rd := isqrt d
      if rn * rn = n ∧ rd * rd = d then fslRound wide mode false rn rd
      else fslPick wide mode false (cmpRoot n d)

/-- A conversion into fsl (R180): a magnitude above maxF gives NaR(7) and sets OF in every mode. -/
def convFsl (wide : Bool) (mode : Nat) (v : Val) : Nat × Eff :=
  match v with
  | .nan sig => (fslCode wide false 0, Eff.nanr.join (Eff.onlyIf sig Eff.nv))
  | .nar c => (fslCode wide false c, Eff.nanr)
  | .inf s => (fslCode wide s 1, Eff.none)
  | .fin s n d =>
    if fslMax wide * d < n then (fslCode wide false 7, (Eff.ov.join Eff.nv).join (Eff.nx.join Eff.nanr))
    else fslRound wide mode s n d

/-! ### Values by tag -/

/-- Bits of a lane of a tag (R97); 0 for the tags without lanes of one width. -/
def laneBits (tag : Nat) : Nat :=
  match tag with
  | 1 => 8
  | 2 => 16
  | 3 => 32
  | 4 => 16
  | 5 => 16
  | 6 => 32
  | 7 => 64
  | 11 => 16
  | 12 => 32
  | 13 => 32
  | 14 => 64
  | 0 => 8
  | 15 => 1
  | _ => 0

/-- lanes(fw) of R97. -/
def lanesOf (tag : Nat) : Nat :=
  match tag with
  | 8 => 128
  | 9 => 80
  | 10 => 48
  | t => 512 / laneBits t

/-- The IEEE format of a tag. -/
def ieeeOf (tag : Nat) : Option IeeeFmt :=
  match tag with
  | 4 => some .bf16
  | 5 => some .fp16
  | 6 => some .fp32
  | 7 => some .fp64
  | _ => none

def isInt (tag : Nat) : Bool := tag == 1 || tag == 2 || tag == 3
def isIeee (tag : Nat) : Bool := tag == 4 || tag == 5 || tag == 6 || tag == 7
def isBe (tag : Nat) : Bool := tag == 8 || tag == 9 || tag == 10
def isQfx (tag : Nat) : Bool := tag == 11 || tag == 12
def isFsl (tag : Nat) : Bool := tag == 13 || tag == 14

/-- The value of a lane or an f register under its format word (R170, R175, R176). -/
def valueOf (fmt : BitVec 16) (p : Nat) : Val :=
  let t := tagOf fmt
  match ieeeOf t with
  | some f => f.decode p
  | none =>
    if isFsl t then fslDecode (t == 14) p
    else if isQfx t then
      let x := qfxVal p (laneBits t) (scaleOf fmt)
      .fin x.isNeg x.mag x.den
    else
      let i := patInt p (laneBits t)
      .fin (decide (i < 0)) i.natAbs 1

/-- The rounding state that an instruction reads at issue (R168): FRM.IEEE, FRM.FSL, QFX.SCALE. -/
structure Modes where
  ieee  : Nat
  fsl   : Nat
  scale : Int
deriving DecidableEq, Repr

/-- A value as a signed fraction when finite, with a side for the infinities. -/
def saturateTo (v : Val) (mode w : Nat) (k : Int) : Nat × Eff :=
  match v with
  | .fin s n d =>
    let (i, nx) := roundInt mode ((Q.ofMag s n d).scale k)
    let (r, e) := qsat i w
    (intPat r w, e.join (Eff.onlyIf nx Eff.nx))
  | .inf s =>
    (intPat (if s then -(2 ^ (w - 1)) else 2 ^ (w - 1) - 1) w, Eff.satd)
  | .nan _ => (0, Eff.nv.join Eff.nanr)
  | .nar _ => (0, Eff.nv.join Eff.nanr)

/-- A conversion into a tag by the target's rules (R175, R180, R215): the pattern and its effects. -/
def convertTo (md : Modes) (tag : Nat) (v : Val) : Nat × Eff :=
  match ieeeOf tag with
  | some f =>
    match v with
    | .nan s => deliverIeee f md.ieee false (.nan s)
    | .nar c => deliverIeee f md.ieee false (.nar c true)
    | .inf s => deliverIeee f md.ieee false (.inf s false)
    | .fin s n d => deliverIeee f md.ieee false (.fin s n d)
  | none =>
    if isFsl tag then convFsl (tag == 14) md.fsl v
    else if isQfx tag then saturateTo v md.ieee (laneBits tag) md.scale
    else saturateTo v md.ieee (laneBits tag) 0

/-! ### BE groups (R172 to R174) -/

/-- M of a BE tag (R172). -/
def beM (tag : Nat) : Nat := if tag = 8 then 2 else if tag = 9 then 4 else 7

/-- Bytes of a BE group (R172). -/
def beBytes (tag : Nat) : Nat := if tag = 8 then 8 else if tag = 9 then 12 else 18

/-- Groups of a v register (R173). -/
def beGroups (tag : Nat) : Nat := if tag = 8 then 8 else if tag = 9 then 5 else 3

/-- The value of element j of a group held as a number (R172). -/
def beElement (tag grp j : Nat) : Val :=
  let M := beM tag
  let E := grp % 256
  if E = 255 then .nan false
  else
    let mu := grp / 256 / 2 ^ (j / 2) % 2
    let el := grp / 65536 / 2 ^ ((1 + M) * j) % 2 ^ (1 + M)
    let m := el % 2 ^ M
    let s := el / 2 ^ M == 1
    if m = 0 then .fin false 0 1
    else
      let x := (Q.ofMag s m 1).scale ((E : Int) - 127 - mu - (M - 1 : Nat))
      .fin s x.mag x.den

/-- Bits of a register above its BE groups (R97). -/
def bePadMask (tag : Nat) : Nat := 2 ^ (8 * beBytes tag * beGroups tag) - 1

/-- rne_int of R174 on a magnitude. -/
def rneInt (x : Q) : Nat := (roundInt 0 x.abs).1.toNat

/-- The elements of a group, packed from element 0 on (R172). -/
def bePackElems (M : Nat) : List (Bool × Nat) → Nat → Nat
  | [], _ => 0
  | (s, m) :: rest, j => ((if s then 2 ^ M else 0) + m) * 2 ^ ((1 + M) * j) + bePackElems M rest (j + 1)

/-- be_quant of R174: `rnd j x` rounds the magnitude argument of element j to an integer. The elements of a NaN group that it forms are not counted under
NAN (R184; log entry 88, DESIGN CHOICE). -/
def beQuant (tag : Nat) (xs : List Val) (rnd : Nat → Q → Nat) : Nat × Eff :=
  let M := beM tag
  let isBad := fun (v : Val) => match v with
    | .fin _ _ _ => false
    | _ => true
  if xs.any isBad then (255, Eff.none)
  else
    let qs := xs.map Val.q
    let amax := qs.foldl (fun (acc : Q) x => if acc.lt x.abs then x.abs else acc) ⟨0, 1⟩
    if amax.num = 0 then (0, Eff.none)
    else
      let e := floorLog2 amax.mag amax.den
      let e0 := e + 127 + (if rneInt (amax.scale ((M : Int) - 1 - e)) = 2 ^ M then 1 else 0)
      let E := min (max e0 0) 254
      let uexp : Int := E - 127 - ((M : Int) - 1)
      let mu := fun (i : Nat) =>
        let a := ((qs[2 * i]?).getD ⟨0, 1⟩).abs
        let b := ((qs[2 * i + 1]?).getD ⟨0, 1⟩).abs
        let pm := if a.lt b then b else a
        if rneInt (pm.scale (1 - uexp)) ≤ 2 ^ M - 1 then 1 else 0
      let one := fun (x : Q) (j : Nat) =>
        let arg := x.abs.scale ((mu (j / 2) : Nat) - uexp)
        let t0 := rnd j arg
        let clamped := decide (2 ^ M - 1 < t0)
        let t := if clamped then 2 ^ M - 1 else t0
        let e1 := Eff.onlyIf (clamped && decide (254 < e0)) Eff.satd
        let e2 := Eff.onlyIf (t == 0 && x.num != 0 && decide (e0 < 0)) ⟨2, 0, 1, 0⟩
        let e3 := Eff.onlyIf ((t : Int) * arg.den != arg.num) Eff.nx
        ((decide (x.num < 0) && t != 0, t), (e1.join e2).join e3)
      let rs := qs.zipIdx.map (fun (x : Q × Nat) => one x.1 x.2)
      let muBits := (List.range 8).foldl (fun acc i => acc + mu i * 2 ^ i) 0
      (E.toNat + 256 * muBits + 65536 * bePackElems M (rs.map (·.1)) 0,
        rs.foldl (fun acc r => acc.join r.2) Eff.none)

/-! ### The counter-based generator (R181 to R183) -/

/-- Rotation of a 32-bit word. -/
def rotl32 (x k : Nat) : Nat := x * 2 ^ k % 2 ^ 32 + x / 2 ^ (32 - k)

/-- One round's rotation (R181). -/
def genRot (i : Nat) : Nat :=
  match i % 4 with
  | 0 => 13
  | 1 => 17
  | 2 => 9
  | _ => 23

/-- The rounds of G (R181), i from 12 − fuel on. -/
def genRounds : Nat → Nat → Nat → Nat → Nat → Nat → Nat → Nat
  | 0, k0, k1, x0, x1, x2, x3 => let _ := k0 + k1 + x1; x0 ^^^ rotl32 x2 16 ^^^ x3
  | fuel + 1, k0, k1, x0, x1, x2, x3 =>
    let i := 11 - fuel
    let x0 := (x0 + x1 + k0) % 2 ^ 32
    let x3 := rotl32 (x3 ^^^ x0) (genRot i)
    let x2 := (x2 + x3 + k1) % 2 ^ 32
    let x1 := rotl32 (x1 ^^^ x2) (genRot (i + 2))
    let x1 := x1 * 0x6C8E9CF5 % 2 ^ 32
    let k0 := (k0 + 0x8F1BBCDD) % 2 ^ 32
    let k1 := k1 ^^^ rotl32 k0 7
    genRounds fuel k0 k1 x0 x1 x2 x3

/-- G(key, ctr) of R181. -/
def gen (key ctr : Nat) : Nat :=
  genRounds 12 (key % 2 ^ 32) (key / 2 ^ 32 % 2 ^ 32) (ctr % 2 ^ 32) (ctr / 2 ^ 32 % 2 ^ 32) (ctr / 2 ^ 64 % 2 ^ 32)
    (ctr / 2 ^ 96 % 2 ^ 32)

/-- Whether sround picks the upper neighbour (R183): g < t · 2^32 with t = n/d. -/
def drawsUp (g n d : Nat) : Bool := decide (g * d < n * 2 ^ 32)

/-- sround on integers (R183, R216): a signed fraction to one of the integers around it. -/
def sroundInt (g : Nat) (x : Q) : Int × Bool :=
  let fl := x.num / (x.den : Int)
  let r := x.num % (x.den : Int)
  if r = 0 then (fl, false) else (if drawsUp g r.toNat x.den then fl + 1 else fl, true)

/-- sround into an IEEE format (R183); beyond the largest finite value it follows round-to-nearest. -/
def sroundIeee (f : IeeeFmt) (g : Nat) (neg : Bool) (n d : Nat) : Nat × Eff :=
  let e := floorLog2 n d
  let p : Int := f.fbits
  let q := max (e - p) (1 - (f.bias : Int) - p)
  let a := if q < 0 then n * 2 ^ (-q).toNat else n
  let b := if q < 0 then d else d * 2 ^ q.toNat
  let r := a % b
  if r = 0 ∨ (f.bias : Int) < e ∨ (e = f.bias ∧ a / b + 1 = 2 ^ (f.fbits + 1)) then roundIeee f 0 neg n d
  else
    let up := if neg then !drawsUp g (b - r) b else drawsUp g r b
    -- rounding away or toward zero is rounding under RUP or RTZ of the magnitude
    let (pat, ef) := roundIeee f (if up then 3 else 1) false n d
    (pat + (if neg then f.signBit else 0), ef)

/-- A conversion with sround in place of the target's rounding (R216). -/
def convertStochastic (md : Modes) (tag g : Nat) (v : Val) : Nat × Eff :=
  match v with
  | .fin s n d =>
    match ieeeOf tag with
    | some f => if n = 0 then (f.zeroPat s, Eff.none) else sroundIeee f g s n d
    | none =>
      let k := if isQfx tag then md.scale else 0
      let (i, nx) := sroundInt g ((Q.ofMag s n d).scale k)
      let (r, e) := qsat i (laneBits tag)
      (intPat r (laneBits tag), e.join (Eff.onlyIf nx Eff.nx))
  | v => convertTo md tag v

end Sys2Proof.Machine
end

