-- ==== Sys2Proof/WellFormed.lean ====
section
/-! DEFINITION. Which instructions spec/06_encoding.md and the family chapters admit as encodings (R91, R99, R103, R108 to R122).
The checks here look at the instruction alone. What depends on the running task (an update task's q3, NSAFE, the count of a group) is checked where the instruction issues. -/

namespace Sys2Proof

/-- Why an encoding is illegal (R122). -/
inductive IllFormed where
  /-- A condition the table does not list (R110, R119). -/
  | reservedCondition
  /-- me = 0 with a mask register or a policy (R99). -/
  | maskFields
  /-- A vector source number that the form does not grant (R91). -/
  | vectorSource
  /-- A vector destination number that the form does not grant (R91). -/
  | vectorDest
  /-- A queue number outside the form's range (R91, R108, R114, R115). -/
  | queueRange
  /-- A scope that the kind does not accept (R112, R113). -/
  | scope
  /-- A reserved element size (R114). -/
  | elementSize
  /-- An unused field that is not zero (R103, R116). -/
  | unusedField
  /-- A system register index that names no register (R112, R325). -/
  | systemRegister
  /-- A destination outside the range of a level instruction (R287). -/
  | destRange
  /-- A target tag that the form does not accept (R118, R119, R211, R215 to R217, R220). -/
  | targetTag
  /-- A mask on a form that moves whole groups (R217). -/
  | groupForm
  /-- A matrix input format that is reserved or not admitted by the major (R120). -/
  | inputFormat
  /-- p above the limit of the input format (R120). -/
  | promotion
  /-- A matrix operand number outside its kind (R120, R231). -/
  | matrixOperand
  /-- A lookahead where the form requires zero (R231). -/
  | lookahead
  /-- A halfword naming register 24 to 31 (R105). -/
  | halfRegister
  /-- The halfword 0x0000 (R105). -/
  | zeroHalfword
deriving DecidableEq, Repr

namespace WF

/-- A vector source: v0 to v23, or 24 to 27 for a queue (R91). -/
def vSrc (n : BitVec 5) : Bool := decide (n.toNat ≤ 27)

/-- A vector destination: v0 to v23, or 28 to 31 for a queue (R91). -/
def vDst (n : BitVec 5) : Bool := decide (n.toNat ≤ 23) || decide (28 ≤ n.toNat)

/-- A vector register and no queue. -/
def vReg (n : BitVec 5) : Bool := decide (n.toNat ≤ 23)

/-- The mask fields: with me = 0, mk and pol are 0 (R99). -/
def maskOk (me : BitVec 1) (k : BitVec 2) (pol : BitVec 1) : Bool := me == 1 || (k == 0 && pol == 0)

/-- A scope that names an instance (R113). -/
def scopeOk (sc : BitVec 3) : Bool := decide (sc.toNat ≤ 5)

/-- The BE tags (R97). -/
def beTag (t : BitVec 4) : Bool := t == 8 || t == 9 || t == 10

/-- The tags a value in an f register may carry as the target of a conversion (R97, R118). -/
def fTag (t : BitVec 4) : Bool := t == 6 || t == 7 || t == 12 || t == 13 || t == 14

/-- The targets of vcvt (R215). -/
def cvtTarget (t : BitVec 4) : Bool := !(t == 0 || t == 15 || beTag t)

/-- The targets of vcvts without a group (R216). -/
def cvtsTarget (t : BitVec 4) : Bool :=
  t == 1 || t == 2 || t == 3 || t == 4 || t == 5 || t == 6 || t == 11 || t == 12

/-- N of R217: registers in a BE form. -/
def groupCount (t : BitVec 4) : Nat := if t == 8 then 8 else if t == 9 then 5 else 3

/-- Registers a to a + N − 1 lie within v0 to v23 (R217). -/
def groupRegs (a : BitVec 5) (t : BitVec 4) : Bool := decide (a.toNat + groupCount t ≤ 24)

/-- A matrix v operand: an eight-register group or a queue (R120). -/
def mV (n : BitVec 5) : Bool := n == 0 || n == 8 || n == 16 || (decide (24 ≤ n.toNat) && decide (n.toNat ≤ 27))

/-- A matrix scratchpad operand: an even g register from 2 to 30 (R120). -/
def mS (n : BitVec 5) : Bool := decide (n.toNat % 2 = 0) && n != 0

/-- The largest legal p of an input format (R120). -/
def pLimit (f : BitVec 3) : Nat :=
  if f.toNat ≤ 1 then 4 else if f.toNat ≤ 3 then 5 else if f.toNat = 4 then 6 else 7

/-- The system registers of R325. -/
def sysRegKnown (i : Nat) : Bool :=
  decide (i ≤ 0x005) || i == 0x008 || i == 0x009 || (decide (0x010 ≤ i) && decide (i ≤ 0x015))
    || (decide (0x020 ≤ i) && decide (i ≤ 0x028)) || (decide (0x030 ≤ i) && decide (i ≤ 0x037))
    || (decide (0x040 ≤ i) && decide (i ≤ 0x042)) || i == 0x050 || i == 0x051
    || (decide (0x060 ≤ i) && decide (i ≤ 0x065)) || i == 0x080
    || (decide (0x100 ≤ i) && decide (i ≤ 0x102)) || (decide (0x110 ≤ i) && decide (i ≤ 0x113))

/-- The reason of the first failed check. -/
def firstOf : List (Bool × IllFormed) → Option IllFormed
  | [] => none
  | (true, r) :: _ => some r
  | (false, _) :: rest => firstOf rest

end WF

open WF

/-- The first check of the encoding that the instruction fails, if any. -/
def Instr.illFormed : Instr → Option IllFormed
  | .add _ _ _ => none
  | .sub _ _ _ => none
  | .mul _ _ _ _ => none
  | .mulh _ _ _ _ => none
  | .div _ _ _ _ => none
  | .divu _ _ _ _ => none
  | .rem _ _ _ _ => none
  | .remu _ _ _ _ => none
  | .and _ _ _ => none
  | .or _ _ _ => none
  | .xor _ _ _ => none
  | .shl _ _ _ => none
  | .shr _ _ _ => none
  | .sar _ _ _ => none
  | .slt _ _ _ => none
  | .sltu _ _ _ => none
  | .min _ _ _ => none
  | .max _ _ _ => none
  | .clz _ _ => none
  | .ctz _ _ => none
  | .popc _ _ => none
  | .gcd _ _ _ _ => none
  | .addi _ _ _ => none
  | .andi _ _ _ => none
  | .ori _ _ _ => none
  | .xori _ _ _ => none
  | .shli _ _ _ => none
  | .shri _ _ _ => none
  | .sari _ _ _ => none
  | .slti _ _ _ => none
  | .sltiu _ _ _ => none
  | .lui _ _ => none
  | .adpc _ _ => none
  | .bcc _ _ _ c => firstOf [(decide (6 ≤ c.toNat), .reservedCondition)]
  | .br _ => none
  | .call _ => none
  | .jr _ => none
  | .callr _ => none
  | .ret => none
  | .qput q _ => firstOf [(decide (3 < q.toNat), .queueRange)]
  | .qget q _ => firstOf [(!(4 ≤ q.toNat && q.toNat ≤ 7), .queueRange)]
  | .sysrd _ imm => firstOf [(!sysRegKnown imm.toNat, .systemRegister)]
  | .syswr _ imm => firstOf [(!sysRegKnown imm.toNat, .systemRegister)]
  | .svc _ => none
  | .trap _ => none
  | .tret => none
  | .exit => none
  | .nop => none
  | .safept _ => none
  | .gtol _ _ => none
  | .ltog _ _ _ => none
  | .inap _ _ => none
  | .teama _ _ _ => none
  | .fence sc => firstOf [(!scopeOk sc, .scope)]
  | .fenceAcq sc => firstOf [(!scopeOk sc, .scope)]
  | .fenceRel sc => firstOf [(!scopeOk sc, .scope)]
  | .bar _ _ sc => firstOf [(!scopeOk sc, .scope)]
  | .barW _ _ sc => firstOf [(!scopeOk sc, .scope)]
  | .barw _ _ sc => firstOf [(!scopeOk sc, .scope)]
  | .barx _ _ sc => firstOf [(!scopeOk sc, .scope)]
  | .dsync sc => firstOf [(!(sc == 1 || sc == 2 || sc == 3 || sc == 5), .scope)]
  | .gsync sc => firstOf [(!scopeOk sc, .scope)]
  | .waitp => none
  | .trig => none
  | .ld _ _ _ _ _ => none
  | .ldz _ _ _ _ _ => none
  | .st _ _ _ _ => none
  | .ldq q _ _ _ _ => firstOf [(decide (3 < q.toNat), .queueRange)]
  | .stq q _ _ => firstOf [(decide (q.toNat < 4), .queueRange)]
  | .ldqs q _ _ _ esz _ => firstOf [(decide (6 ≤ esz.toNat), .elementSize), (decide (3 < q.toNat), .queueRange)]
  | .stqs q _ _ esz => firstOf [(decide (6 ≤ esz.toNat), .elementSize), (decide (q.toNat < 4), .queueRange)]
  | .ldqx q _ _ _ esz _ => firstOf [(decide (6 ≤ esz.toNat), .elementSize), (decide (3 < q.toNat), .queueRange)]
  | .stqx q _ _ esz => firstOf [(decide (6 ≤ esz.toNat), .elementSize), (decide (q.toNat < 4), .queueRange)]
  | .lds _ _ _ _ => none
  | .sts _ _ _ => none
  | .ldsq q _ _ _ _ => firstOf [(decide (3 < q.toNat), .queueRange)]
  | .stsq q _ _ => firstOf [(decide (q.toNat < 4), .queueRange)]
  | .atomicAdd d _ _ _ rt sc => firstOf [(!scopeOk sc, .scope), (rt == 0 && d != 0, .unusedField)]
  | .atomicAnd d _ _ _ rt sc => firstOf [(!scopeOk sc, .scope), (rt == 0 && d != 0, .unusedField)]
  | .atomicOr d _ _ _ rt sc => firstOf [(!scopeOk sc, .scope), (rt == 0 && d != 0, .unusedField)]
  | .atomicXor d _ _ _ rt sc => firstOf [(!scopeOk sc, .scope), (rt == 0 && d != 0, .unusedField)]
  | .atomicMin d _ _ _ rt sc => firstOf [(!scopeOk sc, .scope), (rt == 0 && d != 0, .unusedField)]
  | .atomicMax d _ _ _ rt sc => firstOf [(!scopeOk sc, .scope), (rt == 0 && d != 0, .unusedField)]
  | .atomicSwp d _ _ _ rt sc => firstOf [(!scopeOk sc, .scope), (rt == 0 && d != 0, .unusedField)]
  | .atomicCas _ _ _ _ _ sc => firstOf [(!scopeOk sc, .scope)]
  | .radd _ _ _ sc => firstOf [(!scopeOk sc, .scope)]
  | .tdef _ _ => none
  | .tstat _ _ => none
  | .twait _ => none
  | .trel _ => none
  | .cpset _ _ => none
  | .cpgo _ => none
  | .cpwait _ => none
  | .cpprobe _ _ => none
  | .lvget d _ => firstOf [(d == 0 || d == 31, .destRange)]
  | .lvnbr d _ => firstOf [(d == 0 || d == 31, .destRange)]
  | .lvread d _ _ _ => firstOf [(d == 0 || decide (27 < d.toNat), .destRange)]
  | .lvtake => none
  | .lvret => none
  | .lvstep _ => none
  | .lvcommit => none
  | .lvthaw _ _ => none
  | .fadd _ _ _ _ => none
  | .fsub _ _ _ _ => none
  | .fmul _ _ _ _ => none
  | .fdiv _ _ _ _ => none
  | .fsqrt _ _ _ => none
  | .fma _ _ _ _ => none
  | .fmin _ _ _ => none
  | .fmax _ _ _ => none
  | .fabs _ _ => none
  | .fneg _ _ => none
  | .feq _ _ _ => none
  | .flt _ _ _ => none
  | .fle _ _ _ => none
  | .fcvt _ _ tag _ => firstOf [(!fTag tag, .targetTag)]
  | .f2g _ _ _ => none
  | .g2f _ _ tag _ => firstOf [(!(tag == 0 || fTag tag), .targetTag)]
  | .fmvg _ _ => none
  | .gmvf _ _ tag => firstOf [(!(tag == 0 || fTag tag), .targetTag)]
  | .fnum _ _ => none
  | .fden _ _ => none
  | .fmake _ _ _ _ => none
  | .fmed _ _ _ _ => none
  | .frnd _ _ _ _ => none
  | .fnbr _ _ _ _ => none
  | .fli _ _ => none
  | .vadd d a b k pol me => firstOf [(!maskOk me k pol, .maskFields), (!vSrc a || !vSrc b, .vectorSource), (!vDst d, .vectorDest)]
  | .vsub d a b k pol me => firstOf [(!maskOk me k pol, .maskFields), (!vSrc a || !vSrc b, .vectorSource), (!vDst d, .vectorDest)]
  | .vmul d a b k pol me => firstOf [(!maskOk me k pol, .maskFields), (!vSrc a || !vSrc b, .vectorSource), (!vDst d, .vectorDest)]
  | .vfma d a b k pol me => firstOf [(!maskOk me k pol, .maskFields), (!vReg a || !vReg b, .vectorSource), (!vReg d, .vectorDest)]
  | .vfms d a b k pol me => firstOf [(!maskOk me k pol, .maskFields), (!vReg a || !vReg b, .vectorSource), (!vReg d, .vectorDest)]
  | .vdiv d a b k pol me => firstOf [(!maskOk me k pol, .maskFields), (!vSrc a || !vSrc b, .vectorSource), (!vDst d, .vectorDest)]
  | .vmin d a b k pol me => firstOf [(!maskOk me k pol, .maskFields), (!vSrc a || !vSrc b, .vectorSource), (!vDst d, .vectorDest)]
  | .vmax d a b k pol me => firstOf [(!maskOk me k pol, .maskFields), (!vSrc a || !vSrc b, .vectorSource), (!vDst d, .vectorDest)]
  | .vand d a b k pol me => firstOf [(!maskOk me k pol, .maskFields), (!vSrc a || !vSrc b, .vectorSource), (!vDst d, .vectorDest)]
  | .vor d a b k pol me => firstOf [(!maskOk me k pol, .maskFields), (!vSrc a || !vSrc b, .vectorSource), (!vDst d, .vectorDest)]
  | .vxor d a b k pol me => firstOf [(!maskOk me k pol, .maskFields), (!vSrc a || !vSrc b, .vectorSource), (!vDst d, .vectorDest)]
  | .vshl d a b k pol me => firstOf [(!maskOk me k pol, .maskFields), (!vSrc a || !vSrc b, .vectorSource), (!vDst d, .vectorDest)]
  | .vshr d a b k pol me => firstOf [(!maskOk me k pol, .maskFields), (!vSrc a || !vSrc b, .vectorSource), (!vDst d, .vectorDest)]
  | .vsar d a b k pol me => firstOf [(!maskOk me k pol, .maskFields), (!vSrc a || !vSrc b, .vectorSource), (!vDst d, .vectorDest)]
  | .vcmp d a b c k _ pol me => firstOf [(decide (6 ≤ c.toNat), .reservedCondition), (!maskOk me k pol, .maskFields), (!vSrc a || !vSrc b, .vectorSource), (!vDst d, .vectorDest)]
  | .vmov d a k pol me => firstOf [(!maskOk me k pol, .maskFields), (!vSrc a, .vectorSource), (!vDst d, .vectorDest)]
  | .vsel d a b _ => firstOf [(!vSrc a || !vSrc b, .vectorSource), (!vDst d, .vectorDest)]
  | .vperm d a b k pol me => firstOf [(!maskOk me k pol, .maskFields), (!vSrc a || !vSrc b, .vectorSource), (!vDst d, .vectorDest)]
  | .vslideUp d a _ k pol me => firstOf [(!maskOk me k pol, .maskFields), (!vSrc a, .vectorSource), (!vDst d, .vectorDest)]
  | .vslideDown d a _ k pol me => firstOf [(!maskOk me k pol, .maskFields), (!vSrc a, .vectorSource), (!vDst d, .vectorDest)]
  | .vsplat d _ k pol me => firstOf [(!maskOk me k pol, .maskFields), (!vDst d, .vectorDest)]
  | .vidx d k tag pol me => firstOf [(!maskOk me k pol, .maskFields), (!(tag == 1 || tag == 2 || tag == 3), .targetTag), (!vDst d, .vectorDest)]
  | .vcompress d a _ _ => firstOf [(!vSrc a, .vectorSource), (!vDst d, .vectorDest)]
  | .vpopm _ a => firstOf [(!vSrc a, .vectorSource)]
  | .vrcp d a k pol me _ => firstOf [(!maskOk me k pol, .maskFields), (!vSrc a, .vectorSource), (!vDst d, .vectorDest)]
  | .vrsq d a k pol me _ => firstOf [(!maskOk me k pol, .maskFields), (!vSrc a, .vectorSource), (!vDst d, .vectorDest)]
  | .vsqrt d a k pol me _ => firstOf [(!maskOk me k pol, .maskFields), (!vSrc a, .vectorSource), (!vDst d, .vectorDest)]
  | .vexp2 d a k pol me _ => firstOf [(!maskOk me k pol, .maskFields), (!vSrc a, .vectorSource), (!vDst d, .vectorDest)]
  | .vlog2 d a k pol me _ => firstOf [(!maskOk me k pol, .maskFields), (!vSrc a, .vectorSource), (!vDst d, .vectorDest)]
  | .vtanh d a k pol me _ => firstOf [(!maskOk me k pol, .maskFields), (!vSrc a, .vectorSource), (!vDst d, .vectorDest)]
  | .vsigm d a k pol me _ => firstOf [(!maskOk me k pol, .maskFields), (!vSrc a, .vectorSource), (!vDst d, .vectorDest)]
  | .vcvt d a k tag pol me _ => firstOf [(!maskOk me k pol, .maskFields), (!cvtTarget tag, .targetTag), (!vSrc a, .vectorSource), (!vDst d, .vectorDest)]
  | .vcvts d a k tag pol me _ => firstOf [(!maskOk me k pol, .maskFields), (!(cvtsTarget tag || beTag tag), .targetTag), (beTag tag && me == 1, .groupForm), (if beTag tag then !groupRegs a tag else !vSrc a, .vectorSource), (if beTag tag then !vReg d else !vDst d, .vectorDest)]
  | .vpack d a tag _ => firstOf [(!beTag tag, .targetTag), (!groupRegs a tag, .vectorSource), (!vReg d, .vectorDest)]
  | .vunpack d a _ => firstOf [(!vReg a, .vectorSource), (!vReg d, .vectorDest)]
  | .vredadd d a k f pol me _ => firstOf [(!maskOk me k pol, .maskFields), (!vSrc a, .vectorSource), (f == 0 && !vReg d, .vectorDest)]
  | .vredmax d a k f pol me _ => firstOf [(!maskOk me k pol, .maskFields), (!vSrc a, .vectorSource), (f == 0 && !vReg d, .vectorDest)]
  | .vredmin d a k f pol me _ => firstOf [(!maskOk me k pol, .maskFields), (!vSrc a, .vectorSource), (f == 0 && !vReg d, .vectorDest)]
  | .vredq d a _ f _ => firstOf [(!(24 ≤ a.toNat && a.toNat ≤ 27), .queueRange), (f == 0 && !vReg d, .vectorDest)]
  | .vrng d _ k tag pol me => firstOf [(!maskOk me k pol, .maskFields), (!(tag == 3 || tag == 6), .targetTag), (!vDst d, .vectorDest)]
  | .vpivot _ a _ k me => firstOf [(!maskOk me k 0, .maskFields), (!vReg a, .vectorSource)]
  | .vpivotR _ a _ k me => firstOf [(!maskOk me k 0, .maskFields), (!vReg a, .vectorSource)]
  | .velim d a _ k pol me => firstOf [(!maskOk me k pol, .maskFields), (!vReg a, .vectorSource), (!vReg d, .vectorDest)]
  | .vreg d _ _ => firstOf [(!vReg d, .vectorDest)]
  | .mmacVv _ a b f p _ => firstOf [(decide (2 < f.toNat), .inputFormat), (decide (pLimit f < p.toNat), .promotion), (!mV a || !mV b, .matrixOperand)]
  | .mmacSv _ a b f p _ => firstOf [(decide (2 < f.toNat), .inputFormat), (decide (pLimit f < p.toNat), .promotion), (!mS a || !mV b, .matrixOperand)]
  | .mmacVs _ a b f p _ => firstOf [(decide (2 < f.toNat), .inputFormat), (decide (pLimit f < p.toNat), .promotion), (!mV a || !mS b, .matrixOperand)]
  | .mmacSs _ a b f p _ => firstOf [(decide (5 < f.toNat), .inputFormat), (decide (pLimit f < p.toNat), .promotion), (!mS a || !mS b, .matrixOperand)]
  | .mzero _ _ => none
  | .mload _ a _ => firstOf [(!mS a, .matrixOperand)]
  | .mstore _ a _ => firstOf [(!mS a, .matrixOperand)]
  | .mdrain _ a b la => firstOf [(!(mS b && decide (b.toNat ≤ 26) || decide (28 ≤ b.toNat)), .matrixOperand), (a != 0 && la != 0, .lookahead)]
  | .hret => none
  | .mpin _ _ _ => none
  | .mfree _ => none
  | .mspill _ _ => none
  | .mfill _ _ => none
  | .mown _ _ _ => none
  | .fwdelta _ a b _ _ => firstOf [(!vSrc a || !vSrc b, .vectorSource)]
  | .fwchunk _ _ _ => none
  | .fwread _ a _ => firstOf [(!vSrc a, .vectorSource)]
  | .vaddH d a m => firstOf [(!vReg d || !vReg a, .halfRegister), (m == 0 && d == 0 && a == 0, .zeroHalfword)]
  | .vsubH d a _ => firstOf [(!vReg d || !vReg a, .halfRegister)]
  | .vmulH d a _ => firstOf [(!vReg d || !vReg a, .halfRegister)]
  | .vminH d a _ => firstOf [(!vReg d || !vReg a, .halfRegister)]
  | .vmaxH d a _ => firstOf [(!vReg d || !vReg a, .halfRegister)]
  | .vandH d a _ => firstOf [(!vReg d || !vReg a, .halfRegister)]
  | .vorH d a _ => firstOf [(!vReg d || !vReg a, .halfRegister)]
  | .vxorH d a _ => firstOf [(!vReg d || !vReg a, .halfRegister)]
  | .vmovH d a _ => firstOf [(!vReg d || !vReg a, .halfRegister)]
  | .vneg d a _ => firstOf [(!vReg d || !vReg a, .halfRegister)]
  | .vabs d a _ => firstOf [(!vReg d || !vReg a, .halfRegister)]
  | .vselH d a => firstOf [(!vReg d || !vReg a, .halfRegister)]
  | .vrelu d a _ => firstOf [(!vReg d || !vReg a, .halfRegister)]
  | .vrsub d a _ => firstOf [(!vReg d || !vReg a, .halfRegister)]
  | .vzero d a _ => firstOf [(!vReg d || !vReg a, .halfRegister)]
  | .vswap d a => firstOf [(!vReg d || !vReg a, .halfRegister)]
  | .notifyWrite _ _ _ _ => none
  | .slotRead _ _ => none
  | .staleSlotReread _ _ => none
  | .launch _ _ _ => none
  | .front _ _ _ => none
  | .marker _ _ => none
  | .queueEnable _ _ => none
  | .queueDisable _ _ => none
  | .queueAck _ _ _ => none
  | .seedWrite _ _ => none
  | .contextSave _ => none
  | .teamResume _ _ _ _ => none
  | .commandComplete _ _ _ => none
  | .levelDispatch _ _ => none
  | .commitArrival _ _ => none
  | .stall _ _ _ => none
  | .lvRecordStage _ => none
  | .lvRecordApply => none
  | .streamDeadlock _ => none
  | .longOpComplete _ _ _ _ => none
  | .storeRefusal _ _ => none
  | .storeAck _ _ => none
  | .queueEntryFill _ _ => none
  | .pageFaultPark _ _ _ => none
  | .replayAll => none
  | .fbHeadWrite _ => none
  | .ttInval _ => none
  | .ttInvalDone => none
  | .copyJobComplete _ _ _ => none
  | .copyJobFaultEnd _ _ => none
  | .barrierReturn _ => none
  | .homeSliceServe _ _ => none
  | .clusterAtomicServe _ _ => none
  | .atomicPromote _ _ => none
  | .fullEmptyWake _ _ => none
  | .tileReadyResume _ _ => none
  | .gangMeet _ => none
  | .dsyncComplete _ => none
  | .remoteDsyncArrival _ _ => none
  | .gsyncComplete _ => none
  | .waitpReturn _ => none
  | .partReset _ => none
  | .purgeComplete _ => none
  | .rectReturnToService _ => none
  | .iftPeriodic _ => none
  | .iftNow _ => none
  | .iftTestComplete _ _ => none
  | .getTest => none
  | .setConfig => none
  | .attest => none
  | .getFailrec => none
  | .fwUpdate => none
  | .mailboxResponse _ => none
  | .powerGood _ => none
  | .hostLinkDown _ => none
  | .powerThrottle _ _ => none
  | .thermalTrip => none
  | .netPacketPromote _ _ => none
  | .replayDiverge _ => none
  | .hostCxlMemAccess _ _ => none
  | .remoteDomainAccess _ => none
  | .registerWrite _ _ _ => none
  | .illegalInstruction _ => none
  | .fetchProtectionFault _ => none
  | .hostCoherenceRequest _ _ => none
  | .ngucyLinkDown _ => none
  | .flitCrcFailure _ => none
  | .deviceReset _ => none

/-- An instruction whose encoding every chapter admits. -/
def Instr.wellFormed (i : Instr) : Bool := i.illFormed.isNone

end Sys2Proof
end

