-- ==== Sys2Proof/Decode.lean ====
section
/-! DEFINITION. The decoder and the encoder (spec/06_encoding.md R102 to R121, spec/05_fetch_and_issue.md R82).
A word is read as a natural number, one decoder per major opcode. The decoder matches the fixed bits of a table row;
values of fields that no table lists are left to `Instr.illFormed`, so that they trap with cause 0x01 and their own word (R122). -/

namespace Sys2Proof

namespace Dec

/-- Major 0 (R106; rows ADD, SUB, MUL, …). -/
def major0 (n : Nat) : Option Instr :=
  if n / 4194304 = 0 then some (.add (.ofNat 5 (n / 128)) (.ofNat 5 (n / 4096)) (.ofNat 5 (n / 131072))) else
  if n / 4194304 = 16 then some (.sub (.ofNat 5 (n / 128)) (.ofNat 5 (n / 4096)) (.ofNat 5 (n / 131072))) else
  if n / 67108864 = 2 then some (.mul (.ofNat 5 (n / 128)) (.ofNat 5 (n / 4096)) (.ofNat 5 (n / 131072)) (.ofNat 4 (n / 4194304))) else
  if n / 67108864 = 3 then some (.mulh (.ofNat 5 (n / 128)) (.ofNat 5 (n / 4096)) (.ofNat 5 (n / 131072)) (.ofNat 4 (n / 4194304))) else
  if n / 67108864 = 4 then some (.div (.ofNat 5 (n / 128)) (.ofNat 5 (n / 4096)) (.ofNat 5 (n / 131072)) (.ofNat 4 (n / 4194304))) else
  if n / 67108864 = 5 then some (.divu (.ofNat 5 (n / 128)) (.ofNat 5 (n / 4096)) (.ofNat 5 (n / 131072)) (.ofNat 4 (n / 4194304))) else
  if n / 67108864 = 6 then some (.rem (.ofNat 5 (n / 128)) (.ofNat 5 (n / 4096)) (.ofNat 5 (n / 131072)) (.ofNat 4 (n / 4194304))) else
  if n / 67108864 = 7 then some (.remu (.ofNat 5 (n / 128)) (.ofNat 5 (n / 4096)) (.ofNat 5 (n / 131072)) (.ofNat 4 (n / 4194304))) else
  if n / 4194304 = 128 then some (.and (.ofNat 5 (n / 128)) (.ofNat 5 (n / 4096)) (.ofNat 5 (n / 131072))) else
  if n / 4194304 = 144 then some (.or (.ofNat 5 (n / 128)) (.ofNat 5 (n / 4096)) (.ofNat 5 (n / 131072))) else
  if n / 4194304 = 160 then some (.xor (.ofNat 5 (n / 128)) (.ofNat 5 (n / 4096)) (.ofNat 5 (n / 131072))) else
  if n / 4194304 = 176 then some (.shl (.ofNat 5 (n / 128)) (.ofNat 5 (n / 4096)) (.ofNat 5 (n / 131072))) else
  if n / 4194304 = 192 then some (.shr (.ofNat 5 (n / 128)) (.ofNat 5 (n / 4096)) (.ofNat 5 (n / 131072))) else
  if n / 4194304 = 208 then some (.sar (.ofNat 5 (n / 128)) (.ofNat 5 (n / 4096)) (.ofNat 5 (n / 131072))) else
  if n / 4194304 = 224 then some (.slt (.ofNat 5 (n / 128)) (.ofNat 5 (n / 4096)) (.ofNat 5 (n / 131072))) else
  if n / 4194304 = 240 then some (.sltu (.ofNat 5 (n / 128)) (.ofNat 5 (n / 4096)) (.ofNat 5 (n / 131072))) else
  if n / 4194304 = 256 then some (.min (.ofNat 5 (n / 128)) (.ofNat 5 (n / 4096)) (.ofNat 5 (n / 131072))) else
  if n / 4194304 = 272 then some (.max (.ofNat 5 (n / 128)) (.ofNat 5 (n / 4096)) (.ofNat 5 (n / 131072))) else
  if n / 131072 = 9216 then some (.clz (.ofNat 5 (n / 128)) (.ofNat 5 (n / 4096))) else
  if n / 131072 = 9728 then some (.ctz (.ofNat 5 (n / 128)) (.ofNat 5 (n / 4096))) else
  if n / 131072 = 10240 then some (.popc (.ofNat 5 (n / 128)) (.ofNat 5 (n / 4096))) else
  if n / 67108864 = 21 then some (.gcd (.ofNat 5 (n / 128)) (.ofNat 5 (n / 4096)) (.ofNat 5 (n / 131072)) (.ofNat 4 (n / 4194304))) else
  none

/-- Major 1 (R106; rows ADDI). -/
def major1 (n : Nat) : Option Instr :=
  some (.addi (.ofNat 5 (n / 128)) (.ofNat 5 (n / 4096)) (.ofNat 15 (n / 131072)))

/-- Major 2 (R106; rows ANDI). -/
def major2 (n : Nat) : Option Instr :=
  some (.andi (.ofNat 5 (n / 128)) (.ofNat 5 (n / 4096)) (.ofNat 15 (n / 131072)))

/-- Major 3 (R106; rows ORI). -/
def major3 (n : Nat) : Option Instr :=
  some (.ori (.ofNat 5 (n / 128)) (.ofNat 5 (n / 4096)) (.ofNat 15 (n / 131072)))

/-- Major 4 (R106; rows XORI). -/
def major4 (n : Nat) : Option Instr :=
  some (.xori (.ofNat 5 (n / 128)) (.ofNat 5 (n / 4096)) (.ofNat 15 (n / 131072)))

/-- Major 5 (R106; rows SHLI, SHRI, SARI). -/
def major5 (n : Nat) : Option Instr :=
  if n / 8388608 = 0 then some (.shli (.ofNat 5 (n / 128)) (.ofNat 5 (n / 4096)) (.ofNat 6 (n / 131072))) else
  if n / 8388608 = 64 then some (.shri (.ofNat 5 (n / 128)) (.ofNat 5 (n / 4096)) (.ofNat 6 (n / 131072))) else
  if n / 8388608 = 128 then some (.sari (.ofNat 5 (n / 128)) (.ofNat 5 (n / 4096)) (.ofNat 6 (n / 131072))) else
  none

/-- Major 6 (R106; rows SLTI, SLTIU). -/
def major6 (n : Nat) : Option Instr :=
  if n / 2147483648 = 0 then some (.slti (.ofNat 5 (n / 128)) (.ofNat 5 (n / 4096)) (.ofNat 14 (n / 131072))) else
  if n / 2147483648 = 1 then some (.sltiu (.ofNat 5 (n / 128)) (.ofNat 5 (n / 4096)) (.ofNat 14 (n / 131072))) else
  none

/-- Major 7 (R106; rows LUI). -/
def major7 (n : Nat) : Option Instr :=
  some (.lui (.ofNat 5 (n / 128)) (.ofNat 20 (n / 4096)))

/-- Major 8 (R106; rows ADPC). -/
def major8 (n : Nat) : Option Instr :=
  some (.adpc (.ofNat 5 (n / 128)) (.ofNat 20 (n / 4096)))

/-- Major 9 (R106; rows B_CC). -/
def major9 (n : Nat) : Option Instr :=
  some (.bcc (.ofNat 5 (n / 128)) (.ofNat 5 (n / 4096)) (.ofNat 12 (n / 1048576)) (.ofNat 3 (n / 131072)))

/-- Major 10 (R106; rows B). -/
def major10 (n : Nat) : Option Instr :=
  some (.br (.ofNat 25 (n / 128)))

/-- Major 11 (R106; rows CALL). -/
def major11 (n : Nat) : Option Instr :=
  some (.call (.ofNat 25 (n / 128)))

/-- Major 12 (R106; rows JR, CALLR, RET, …). -/
def major12 (n : Nat) : Option Instr :=
  if n / 131072 = 0 ∧ n / 128 % 32 = 0 then some (.jr (.ofNat 5 (n / 4096))) else
  if n / 131072 = 512 ∧ n / 128 % 32 = 0 then some (.callr (.ofNat 5 (n / 4096))) else
  if n / 128 = 1048576 then some (.ret) else
  if n / 4194304 = 48 ∧ n / 128 % 32 = 0 then some (.qput (.ofNat 5 (n / 131072)) (.ofNat 5 (n / 4096))) else
  if n / 4194304 = 64 ∧ n / 4096 % 32 = 0 then some (.qget (.ofNat 5 (n / 131072)) (.ofNat 5 (n / 128))) else
  none

/-- Major 13 (R106; rows SYSRD, SYSWR, SVC, …). -/
def major13 (n : Nat) : Option Instr :=
  if n / 4096 % 2048 = 0 then some (.sysrd (.ofNat 5 (n / 128)) (.ofNat 9 (n / 8388608))) else
  if n / 131072 % 64 = 8 ∧ n / 128 % 32 = 0 then some (.syswr (.ofNat 5 (n / 4096)) (.ofNat 9 (n / 8388608))) else
  if n / 128 % 65536 = 16384 then some (.svc (.ofNat 9 (n / 8388608))) else
  if n / 128 % 65536 = 24576 then some (.trap (.ofNat 9 (n / 8388608))) else
  if n / 128 = 32768 then some (.tret) else
  if n / 128 = 40960 then some (.exit) else
  if n / 128 = 49152 then some (.nop) else
  if n / 128 % 65536 = 57344 then some (.safept (.ofNat 9 (n / 8388608))) else
  none

/-- Major 14 (R106; rows GTOL, LTOG, INAP, …). -/
def major14 (n : Nat) : Option Instr :=
  if n / 131072 = 0 then some (.gtol (.ofNat 5 (n / 128)) (.ofNat 5 (n / 4096))) else
  if n / 4194304 = 16 then some (.ltog (.ofNat 5 (n / 128)) (.ofNat 5 (n / 4096)) (.ofNat 5 (n / 131072))) else
  if n / 131072 = 1024 then some (.inap (.ofNat 5 (n / 128)) (.ofNat 5 (n / 4096))) else
  if n / 4194304 = 48 then some (.teama (.ofNat 5 (n / 128)) (.ofNat 5 (n / 4096)) (.ofNat 5 (n / 131072))) else
  none

/-- Major 15 (R106; rows FENCE, FENCE_ACQ, FENCE_REL, …). -/
def major15 (n : Nat) : Option Instr :=
  if n / 1048576 = 0 ∧ n / 128 % 1024 = 0 then some (.fence (.ofNat 3 (n / 131072))) else
  if n / 1048576 = 8 ∧ n / 128 % 1024 = 0 then some (.fenceAcq (.ofNat 3 (n / 131072))) else
  if n / 1048576 = 16 ∧ n / 128 % 1024 = 0 then some (.fenceRel (.ofNat 3 (n / 131072))) else
  if n / 1048576 = 1 then some (.bar (.ofNat 5 (n / 4096)) (.ofNat 5 (n / 128)) (.ofNat 3 (n / 131072))) else
  if n / 1048576 = 9 then some (.barW (.ofNat 5 (n / 4096)) (.ofNat 5 (n / 128)) (.ofNat 3 (n / 131072))) else
  if n / 1048576 = 2 then some (.barw (.ofNat 5 (n / 4096)) (.ofNat 5 (n / 128)) (.ofNat 3 (n / 131072))) else
  if n / 1048576 = 3 then some (.barx (.ofNat 5 (n / 4096)) (.ofNat 5 (n / 128)) (.ofNat 3 (n / 131072))) else
  if n / 1048576 = 4 ∧ n / 128 % 1024 = 0 then some (.dsync (.ofNat 3 (n / 131072))) else
  if n / 1048576 = 5 ∧ n / 128 % 1024 = 0 then some (.gsync (.ofNat 3 (n / 131072))) else
  if n / 128 = 49152 then some (.waitp) else
  if n / 128 = 57344 then some (.trig) else
  none

/-- Major 16 (R106; rows LD). -/
def major16 (n : Nat) : Option Instr :=
  some (.ld (.ofNat 5 (n / 128)) (.ofNat 5 (n / 4096)) (.ofNat 9 (n / 8388608)) (.ofNat 2 (n / 2097152)) (.ofNat 4 (n / 131072)))

/-- Major 17 (R106; rows LDZ). -/
def major17 (n : Nat) : Option Instr :=
  some (.ldz (.ofNat 5 (n / 128)) (.ofNat 5 (n / 4096)) (.ofNat 9 (n / 8388608)) (.ofNat 2 (n / 2097152)) (.ofNat 4 (n / 131072)))

/-- Major 18 (R106; rows ST). -/
def major18 (n : Nat) : Option Instr :=
  some (.st (.ofNat 5 (n / 4096)) (.ofNat 5 (n / 128)) (.ofNat 13 (n / 524288)) (.ofNat 2 (n / 131072)))

/-- Major 19 (R106; rows LDQ). -/
def major19 (n : Nat) : Option Instr :=
  some (.ldq (.ofNat 3 (n / 128)) (.ofNat 5 (n / 16384)) (.ofNat 9 (n / 8388608)) (.ofNat 4 (n / 1024)) (.ofNat 4 (n / 524288)))

/-- Major 20 (R106; rows STQ). -/
def major20 (n : Nat) : Option Instr :=
  if n / 524288 % 16 = 0 ∧ n / 1024 % 16 = 0 then some (.stq (.ofNat 3 (n / 128)) (.ofNat 5 (n / 16384)) (.ofNat 9 (n / 8388608))) else
  none

/-- Major 21 (R106; rows LDQS, STQS). -/
def major21 (n : Nat) : Option Instr :=
  if n / 2147483648 = 0 then some (.ldqs (.ofNat 3 (n / 128)) (.ofNat 5 (n / 16384)) (.ofNat 5 (n / 8388608)) (.ofNat 4 (n / 1024)) (.ofNat 3 (n / 268435456)) (.ofNat 4 (n / 524288))) else
  if n / 2147483648 = 1 ∧ n / 524288 % 16 = 0 ∧ n / 1024 % 16 = 0 then some (.stqs (.ofNat 3 (n / 128)) (.ofNat 5 (n / 16384)) (.ofNat 5 (n / 8388608)) (.ofNat 3 (n / 268435456))) else
  none

/-- Major 22 (R106; rows LDQX, STQX). -/
def major22 (n : Nat) : Option Instr :=
  if n / 2147483648 = 0 then some (.ldqx (.ofNat 3 (n / 128)) (.ofNat 5 (n / 16384)) (.ofNat 5 (n / 8388608)) (.ofNat 4 (n / 1024)) (.ofNat 3 (n / 268435456)) (.ofNat 4 (n / 524288))) else
  if n / 2147483648 = 1 ∧ n / 524288 % 16 = 0 ∧ n / 1024 % 16 = 0 then some (.stqx (.ofNat 3 (n / 128)) (.ofNat 5 (n / 16384)) (.ofNat 5 (n / 8388608)) (.ofNat 3 (n / 268435456))) else
  none

/-- Major 23 (R106; rows LDS, STS, LDSQ, …). -/
def major23 (n : Nat) : Option Instr :=
  if n / 2097152 % 4 = 0 then some (.lds (.ofNat 5 (n / 128)) (.ofNat 5 (n / 4096)) (.ofNat 9 (n / 8388608)) (.ofNat 4 (n / 131072))) else
  if n / 131072 % 64 = 16 then some (.sts (.ofNat 5 (n / 4096)) (.ofNat 5 (n / 128)) (.ofNat 9 (n / 8388608))) else
  if n / 2097152 % 4 = 2 ∧ n / 1024 % 4 = 0 then some (.ldsq (.ofNat 3 (n / 128)) (.ofNat 5 (n / 4096)) (.ofNat 5 (n / 8388608)) (.ofNat 4 (n / 268435456)) (.ofNat 4 (n / 131072))) else
  if n / 268435456 = 0 ∧ n / 131072 % 64 = 48 ∧ n / 1024 % 4 = 0 then some (.stsq (.ofNat 3 (n / 128)) (.ofNat 5 (n / 4096)) (.ofNat 5 (n / 8388608))) else
  none

/-- Major 24 (R106; rows ATOMIC_ADD, ATOMIC_AND, ATOMIC_OR, …). -/
def major24 (n : Nat) : Option Instr :=
  if n / 2147483648 = 0 ∧ n / 33554432 % 16 = 0 then some (.atomicAdd (.ofNat 5 (n / 128)) (.ofNat 5 (n / 4096)) (.ofNat 5 (n / 131072)) (.ofNat 1 (n / 1073741824)) (.ofNat 1 (n / 536870912)) (.ofNat 3 (n / 4194304))) else
  if n / 2147483648 = 0 ∧ n / 33554432 % 16 = 1 then some (.atomicAnd (.ofNat 5 (n / 128)) (.ofNat 5 (n / 4096)) (.ofNat 5 (n / 131072)) (.ofNat 1 (n / 1073741824)) (.ofNat 1 (n / 536870912)) (.ofNat 3 (n / 4194304))) else
  if n / 2147483648 = 0 ∧ n / 33554432 % 16 = 2 then some (.atomicOr (.ofNat 5 (n / 128)) (.ofNat 5 (n / 4096)) (.ofNat 5 (n / 131072)) (.ofNat 1 (n / 1073741824)) (.ofNat 1 (n / 536870912)) (.ofNat 3 (n / 4194304))) else
  if n / 2147483648 = 0 ∧ n / 33554432 % 16 = 3 then some (.atomicXor (.ofNat 5 (n / 128)) (.ofNat 5 (n / 4096)) (.ofNat 5 (n / 131072)) (.ofNat 1 (n / 1073741824)) (.ofNat 1 (n / 536870912)) (.ofNat 3 (n / 4194304))) else
  if n / 2147483648 = 0 ∧ n / 33554432 % 16 = 4 then some (.atomicMin (.ofNat 5 (n / 128)) (.ofNat 5 (n / 4096)) (.ofNat 5 (n / 131072)) (.ofNat 1 (n / 1073741824)) (.ofNat 1 (n / 536870912)) (.ofNat 3 (n / 4194304))) else
  if n / 2147483648 = 0 ∧ n / 33554432 % 16 = 5 then some (.atomicMax (.ofNat 5 (n / 128)) (.ofNat 5 (n / 4096)) (.ofNat 5 (n / 131072)) (.ofNat 1 (n / 1073741824)) (.ofNat 1 (n / 536870912)) (.ofNat 3 (n / 4194304))) else
  if n / 2147483648 = 0 ∧ n / 33554432 % 16 = 6 then some (.atomicSwp (.ofNat 5 (n / 128)) (.ofNat 5 (n / 4096)) (.ofNat 5 (n / 131072)) (.ofNat 1 (n / 1073741824)) (.ofNat 1 (n / 536870912)) (.ofNat 3 (n / 4194304))) else
  if n / 2147483648 = 0 ∧ n / 33554432 % 16 = 7 then some (.atomicCas (.ofNat 5 (n / 128)) (.ofNat 5 (n / 4096)) (.ofNat 5 (n / 131072)) (.ofNat 1 (n / 1073741824)) (.ofNat 1 (n / 536870912)) (.ofNat 3 (n / 4194304))) else
  if n / 2147483648 = 0 ∧ n / 33554432 % 32 = 8 ∧ n / 128 % 32 = 0 then some (.radd (.ofNat 5 (n / 4096)) (.ofNat 5 (n / 131072)) (.ofNat 1 (n / 1073741824)) (.ofNat 3 (n / 4194304))) else
  none

/-- Major 25 (R106; rows TDEF, TSTAT, TWAIT, …). -/
def major25 (n : Nat) : Option Instr :=
  if n / 4194304 = 0 ∧ n / 128 % 32 = 0 then some (.tdef (.ofNat 5 (n / 4096)) (.ofNat 5 (n / 131072))) else
  if n / 131072 = 512 then some (.tstat (.ofNat 5 (n / 128)) (.ofNat 5 (n / 4096))) else
  if n / 131072 = 1024 ∧ n / 128 % 32 = 0 then some (.twait (.ofNat 5 (n / 4096))) else
  if n / 131072 = 1536 ∧ n / 128 % 32 = 0 then some (.trel (.ofNat 5 (n / 4096))) else
  none

/-- Major 26 (R106; rows CPSET, CPGO, CPWAIT, …). -/
def major26 (n : Nat) : Option Instr :=
  if n / 67108864 = 0 ∧ n / 131072 % 64 = 0 ∧ n / 128 % 32 = 0 then some (.cpset (.ofNat 5 (n / 4096)) (.ofNat 3 (n / 8388608))) else
  if n / 4096 = 256 then some (.cpgo (.ofNat 5 (n / 128))) else
  if n / 131072 = 16 ∧ n / 128 % 32 = 0 then some (.cpwait (.ofNat 5 (n / 4096))) else
  if n / 131072 = 24 then some (.cpprobe (.ofNat 5 (n / 128)) (.ofNat 5 (n / 4096))) else
  none

/-- Major 27 (R106; rows LVGET, LVNBR, LVREAD, …). -/
def major27 (n : Nat) : Option Instr :=
  if n / 131072 = 0 then some (.lvget (.ofNat 5 (n / 128)) (.ofNat 5 (n / 4096))) else
  if n / 131072 = 512 then some (.lvnbr (.ofNat 5 (n / 128)) (.ofNat 5 (n / 4096))) else
  if n / 67108864 = 2 then some (.lvread (.ofNat 5 (n / 128)) (.ofNat 5 (n / 4096)) (.ofNat 5 (n / 131072)) (.ofNat 4 (n / 4194304))) else
  if n / 128 = 1572864 then some (.lvtake) else
  if n / 128 = 2097152 then some (.lvret) else
  if n / 131072 = 2560 ∧ n / 128 % 32 = 0 then some (.lvstep (.ofNat 5 (n / 4096))) else
  if n / 128 = 3145728 then some (.lvcommit) else
  if n / 131072 = 3584 then some (.lvthaw (.ofNat 5 (n / 128)) (.ofNat 5 (n / 4096))) else
  none

/-- Major 28 (R106; rows FADD, FSUB, FMUL, …). -/
def major28 (n : Nat) : Option Instr :=
  if n / 67108864 = 0 then some (.fadd (.ofNat 5 (n / 128)) (.ofNat 5 (n / 4096)) (.ofNat 5 (n / 131072)) (.ofNat 4 (n / 4194304))) else
  if n / 67108864 = 1 then some (.fsub (.ofNat 5 (n / 128)) (.ofNat 5 (n / 4096)) (.ofNat 5 (n / 131072)) (.ofNat 4 (n / 4194304))) else
  if n / 67108864 = 2 then some (.fmul (.ofNat 5 (n / 128)) (.ofNat 5 (n / 4096)) (.ofNat 5 (n / 131072)) (.ofNat 4 (n / 4194304))) else
  if n / 67108864 = 3 then some (.fdiv (.ofNat 5 (n / 128)) (.ofNat 5 (n / 4096)) (.ofNat 5 (n / 131072)) (.ofNat 4 (n / 4194304))) else
  if n / 67108864 = 4 ∧ n / 131072 % 32 = 0 then some (.fsqrt (.ofNat 5 (n / 128)) (.ofNat 5 (n / 4096)) (.ofNat 4 (n / 4194304))) else
  if n / 67108864 = 5 then some (.fma (.ofNat 5 (n / 128)) (.ofNat 5 (n / 4096)) (.ofNat 5 (n / 131072)) (.ofNat 4 (n / 4194304))) else
  if n / 4194304 = 96 then some (.fmin (.ofNat 5 (n / 128)) (.ofNat 5 (n / 4096)) (.ofNat 5 (n / 131072))) else
  if n / 4194304 = 112 then some (.fmax (.ofNat 5 (n / 128)) (.ofNat 5 (n / 4096)) (.ofNat 5 (n / 131072))) else
  if n / 131072 = 4096 then some (.fabs (.ofNat 5 (n / 128)) (.ofNat 5 (n / 4096))) else
  if n / 131072 = 4608 then some (.fneg (.ofNat 5 (n / 128)) (.ofNat 5 (n / 4096))) else
  if n / 4194304 = 160 then some (.feq (.ofNat 5 (n / 128)) (.ofNat 5 (n / 4096)) (.ofNat 5 (n / 131072))) else
  if n / 4194304 = 176 then some (.flt (.ofNat 5 (n / 128)) (.ofNat 5 (n / 4096)) (.ofNat 5 (n / 131072))) else
  if n / 4194304 = 192 then some (.fle (.ofNat 5 (n / 128)) (.ofNat 5 (n / 4096)) (.ofNat 5 (n / 131072))) else
  if n / 67108864 = 13 ∧ n / 2097152 % 2 = 0 then some (.fcvt (.ofNat 5 (n / 128)) (.ofNat 5 (n / 4096)) (.ofNat 4 (n / 131072)) (.ofNat 4 (n / 4194304))) else
  if n / 67108864 = 14 ∧ n / 131072 % 32 = 0 then some (.f2g (.ofNat 5 (n / 128)) (.ofNat 5 (n / 4096)) (.ofNat 4 (n / 4194304))) else
  if n / 67108864 = 15 ∧ n / 2097152 % 2 = 0 then some (.g2f (.ofNat 5 (n / 128)) (.ofNat 5 (n / 4096)) (.ofNat 4 (n / 131072)) (.ofNat 4 (n / 4194304))) else
  if n / 131072 = 8192 then some (.fmvg (.ofNat 5 (n / 128)) (.ofNat 5 (n / 4096))) else
  if n / 2097152 = 544 then some (.gmvf (.ofNat 5 (n / 128)) (.ofNat 5 (n / 4096)) (.ofNat 4 (n / 131072))) else
  none

/-- Major 29 (R106; rows FNUM, FDEN, FMAKE, …). -/
def major29 (n : Nat) : Option Instr :=
  if n / 131072 = 0 then some (.fnum (.ofNat 5 (n / 128)) (.ofNat 5 (n / 4096))) else
  if n / 131072 = 512 then some (.fden (.ofNat 5 (n / 128)) (.ofNat 5 (n / 4096))) else
  if n / 67108864 = 2 then some (.fmake (.ofNat 5 (n / 128)) (.ofNat 5 (n / 4096)) (.ofNat 5 (n / 131072)) (.ofNat 4 (n / 4194304))) else
  if n / 67108864 = 3 then some (.fmed (.ofNat 5 (n / 128)) (.ofNat 5 (n / 4096)) (.ofNat 5 (n / 131072)) (.ofNat 4 (n / 4194304))) else
  if n / 67108864 = 4 then some (.frnd (.ofNat 5 (n / 128)) (.ofNat 5 (n / 4096)) (.ofNat 5 (n / 131072)) (.ofNat 4 (n / 4194304))) else
  if n / 67108864 = 5 then some (.fnbr (.ofNat 5 (n / 128)) (.ofNat 5 (n / 4096)) (.ofNat 5 (n / 131072)) (.ofNat 4 (n / 4194304))) else
  none

/-- Major 30 (R106; rows FLI). -/
def major30 (n : Nat) : Option Instr :=
  some (.fli (.ofNat 5 (n / 128)) (.ofNat 20 (n / 4096)))

/-- Major 31 (R106; rows VADD, VSUB, VMUL, …). -/
def major31 (n : Nat) : Option Instr :=
  if n / 1073741824 = 0 ∧ n / 4194304 % 16 = 0 then some (.vadd (.ofNat 5 (n / 128)) (.ofNat 5 (n / 4096)) (.ofNat 5 (n / 131072)) (.ofNat 2 (n / 134217728)) (.ofNat 1 (n / 536870912)) (.ofNat 1 (n / 67108864))) else
  if n / 1073741824 = 0 ∧ n / 4194304 % 16 = 1 then some (.vsub (.ofNat 5 (n / 128)) (.ofNat 5 (n / 4096)) (.ofNat 5 (n / 131072)) (.ofNat 2 (n / 134217728)) (.ofNat 1 (n / 536870912)) (.ofNat 1 (n / 67108864))) else
  if n / 1073741824 = 0 ∧ n / 4194304 % 16 = 2 then some (.vmul (.ofNat 5 (n / 128)) (.ofNat 5 (n / 4096)) (.ofNat 5 (n / 131072)) (.ofNat 2 (n / 134217728)) (.ofNat 1 (n / 536870912)) (.ofNat 1 (n / 67108864))) else
  if n / 1073741824 = 0 ∧ n / 4194304 % 16 = 3 then some (.vfma (.ofNat 5 (n / 128)) (.ofNat 5 (n / 4096)) (.ofNat 5 (n / 131072)) (.ofNat 2 (n / 134217728)) (.ofNat 1 (n / 536870912)) (.ofNat 1 (n / 67108864))) else
  if n / 1073741824 = 0 ∧ n / 4194304 % 16 = 4 then some (.vfms (.ofNat 5 (n / 128)) (.ofNat 5 (n / 4096)) (.ofNat 5 (n / 131072)) (.ofNat 2 (n / 134217728)) (.ofNat 1 (n / 536870912)) (.ofNat 1 (n / 67108864))) else
  if n / 1073741824 = 0 ∧ n / 4194304 % 16 = 5 then some (.vdiv (.ofNat 5 (n / 128)) (.ofNat 5 (n / 4096)) (.ofNat 5 (n / 131072)) (.ofNat 2 (n / 134217728)) (.ofNat 1 (n / 536870912)) (.ofNat 1 (n / 67108864))) else
  if n / 1073741824 = 0 ∧ n / 4194304 % 16 = 6 then some (.vmin (.ofNat 5 (n / 128)) (.ofNat 5 (n / 4096)) (.ofNat 5 (n / 131072)) (.ofNat 2 (n / 134217728)) (.ofNat 1 (n / 536870912)) (.ofNat 1 (n / 67108864))) else
  if n / 1073741824 = 0 ∧ n / 4194304 % 16 = 7 then some (.vmax (.ofNat 5 (n / 128)) (.ofNat 5 (n / 4096)) (.ofNat 5 (n / 131072)) (.ofNat 2 (n / 134217728)) (.ofNat 1 (n / 536870912)) (.ofNat 1 (n / 67108864))) else
  if n / 1073741824 = 0 ∧ n / 4194304 % 16 = 8 then some (.vand (.ofNat 5 (n / 128)) (.ofNat 5 (n / 4096)) (.ofNat 5 (n / 131072)) (.ofNat 2 (n / 134217728)) (.ofNat 1 (n / 536870912)) (.ofNat 1 (n / 67108864))) else
  if n / 1073741824 = 0 ∧ n / 4194304 % 16 = 9 then some (.vor (.ofNat 5 (n / 128)) (.ofNat 5 (n / 4096)) (.ofNat 5 (n / 131072)) (.ofNat 2 (n / 134217728)) (.ofNat 1 (n / 536870912)) (.ofNat 1 (n / 67108864))) else
  if n / 1073741824 = 0 ∧ n / 4194304 % 16 = 10 then some (.vxor (.ofNat 5 (n / 128)) (.ofNat 5 (n / 4096)) (.ofNat 5 (n / 131072)) (.ofNat 2 (n / 134217728)) (.ofNat 1 (n / 536870912)) (.ofNat 1 (n / 67108864))) else
  if n / 1073741824 = 0 ∧ n / 4194304 % 16 = 11 then some (.vshl (.ofNat 5 (n / 128)) (.ofNat 5 (n / 4096)) (.ofNat 5 (n / 131072)) (.ofNat 2 (n / 134217728)) (.ofNat 1 (n / 536870912)) (.ofNat 1 (n / 67108864))) else
  if n / 1073741824 = 0 ∧ n / 4194304 % 16 = 12 then some (.vshr (.ofNat 5 (n / 128)) (.ofNat 5 (n / 4096)) (.ofNat 5 (n / 131072)) (.ofNat 2 (n / 134217728)) (.ofNat 1 (n / 536870912)) (.ofNat 1 (n / 67108864))) else
  if n / 1073741824 = 0 ∧ n / 4194304 % 16 = 13 then some (.vsar (.ofNat 5 (n / 128)) (.ofNat 5 (n / 4096)) (.ofNat 5 (n / 131072)) (.ofNat 2 (n / 134217728)) (.ofNat 1 (n / 536870912)) (.ofNat 1 (n / 67108864))) else
  none

/-- Major 32 (R106; rows VCMP). -/
def major32 (n : Nat) : Option Instr :=
  if n / 2147483648 = 0 then some (.vcmp (.ofNat 5 (n / 128)) (.ofNat 5 (n / 4096)) (.ofNat 5 (n / 131072)) (.ofNat 4 (n / 4194304)) (.ofNat 2 (n / 134217728)) (.ofNat 1 (n / 1073741824)) (.ofNat 1 (n / 536870912)) (.ofNat 1 (n / 67108864))) else
  none

/-- Major 33 (R106; rows VMOV, VSEL, VPERM, …). -/
def major33 (n : Nat) : Option Instr :=
  if n / 1073741824 = 0 ∧ n / 131072 % 512 = 0 then some (.vmov (.ofNat 5 (n / 128)) (.ofNat 5 (n / 4096)) (.ofNat 2 (n / 134217728)) (.ofNat 1 (n / 536870912)) (.ofNat 1 (n / 67108864))) else
  if n / 536870912 = 0 ∧ n / 4194304 % 32 = 17 then some (.vsel (.ofNat 5 (n / 128)) (.ofNat 5 (n / 4096)) (.ofNat 5 (n / 131072)) (.ofNat 2 (n / 134217728))) else
  if n / 1073741824 = 0 ∧ n / 4194304 % 16 = 2 then some (.vperm (.ofNat 5 (n / 128)) (.ofNat 5 (n / 4096)) (.ofNat 5 (n / 131072)) (.ofNat 2 (n / 134217728)) (.ofNat 1 (n / 536870912)) (.ofNat 1 (n / 67108864))) else
  if n / 1073741824 = 0 ∧ n / 4194304 % 16 = 3 then some (.vslideUp (.ofNat 5 (n / 128)) (.ofNat 5 (n / 4096)) (.ofNat 5 (n / 131072)) (.ofNat 2 (n / 134217728)) (.ofNat 1 (n / 536870912)) (.ofNat 1 (n / 67108864))) else
  if n / 1073741824 = 1 ∧ n / 4194304 % 16 = 3 then some (.vslideDown (.ofNat 5 (n / 128)) (.ofNat 5 (n / 4096)) (.ofNat 5 (n / 131072)) (.ofNat 2 (n / 134217728)) (.ofNat 1 (n / 536870912)) (.ofNat 1 (n / 67108864))) else
  if n / 1073741824 = 0 ∧ n / 131072 % 512 = 128 then some (.vsplat (.ofNat 5 (n / 128)) (.ofNat 5 (n / 4096)) (.ofNat 2 (n / 134217728)) (.ofNat 1 (n / 536870912)) (.ofNat 1 (n / 67108864))) else
  if n / 1073741824 = 0 ∧ n / 2097152 % 32 = 10 ∧ n / 4096 % 32 = 0 then some (.vidx (.ofNat 5 (n / 128)) (.ofNat 2 (n / 134217728)) (.ofNat 4 (n / 131072)) (.ofNat 1 (n / 536870912)) (.ofNat 1 (n / 67108864))) else
  if n / 1073741824 = 0 ∧ n / 131072 % 1024 = 704 then some (.vcompress (.ofNat 5 (n / 128)) (.ofNat 5 (n / 4096)) (.ofNat 2 (n / 134217728)) (.ofNat 1 (n / 536870912))) else
  if n / 131072 = 224 then some (.vpopm (.ofNat 5 (n / 128)) (.ofNat 5 (n / 4096))) else
  none

/-- Major 34 (R106; rows VRCP, VRSQ, VSQRT, …). -/
def major34 (n : Nat) : Option Instr :=
  if n / 536870912 = 0 ∧ n / 2097152 % 16 = 0 then some (.vrcp (.ofNat 5 (n / 128)) (.ofNat 5 (n / 4096)) (.ofNat 2 (n / 67108864)) (.ofNat 1 (n / 268435456)) (.ofNat 1 (n / 33554432)) (.ofNat 4 (n / 131072))) else
  if n / 536870912 = 0 ∧ n / 2097152 % 16 = 1 then some (.vrsq (.ofNat 5 (n / 128)) (.ofNat 5 (n / 4096)) (.ofNat 2 (n / 67108864)) (.ofNat 1 (n / 268435456)) (.ofNat 1 (n / 33554432)) (.ofNat 4 (n / 131072))) else
  if n / 536870912 = 0 ∧ n / 2097152 % 16 = 2 then some (.vsqrt (.ofNat 5 (n / 128)) (.ofNat 5 (n / 4096)) (.ofNat 2 (n / 67108864)) (.ofNat 1 (n / 268435456)) (.ofNat 1 (n / 33554432)) (.ofNat 4 (n / 131072))) else
  if n / 536870912 = 0 ∧ n / 2097152 % 16 = 3 then some (.vexp2 (.ofNat 5 (n / 128)) (.ofNat 5 (n / 4096)) (.ofNat 2 (n / 67108864)) (.ofNat 1 (n / 268435456)) (.ofNat 1 (n / 33554432)) (.ofNat 4 (n / 131072))) else
  if n / 536870912 = 0 ∧ n / 2097152 % 16 = 4 then some (.vlog2 (.ofNat 5 (n / 128)) (.ofNat 5 (n / 4096)) (.ofNat 2 (n / 67108864)) (.ofNat 1 (n / 268435456)) (.ofNat 1 (n / 33554432)) (.ofNat 4 (n / 131072))) else
  if n / 536870912 = 0 ∧ n / 2097152 % 16 = 5 then some (.vtanh (.ofNat 5 (n / 128)) (.ofNat 5 (n / 4096)) (.ofNat 2 (n / 67108864)) (.ofNat 1 (n / 268435456)) (.ofNat 1 (n / 33554432)) (.ofNat 4 (n / 131072))) else
  if n / 536870912 = 0 ∧ n / 2097152 % 16 = 6 then some (.vsigm (.ofNat 5 (n / 128)) (.ofNat 5 (n / 4096)) (.ofNat 2 (n / 67108864)) (.ofNat 1 (n / 268435456)) (.ofNat 1 (n / 33554432)) (.ofNat 4 (n / 131072))) else
  none

/-- Major 35 (R106; rows VCVT, VCVTS, VPACK, …). -/
def major35 (n : Nat) : Option Instr :=
  if n / 536870912 = 0 then some (.vcvt (.ofNat 5 (n / 128)) (.ofNat 5 (n / 4096)) (.ofNat 2 (n / 67108864)) (.ofNat 4 (n / 2097152)) (.ofNat 1 (n / 268435456)) (.ofNat 1 (n / 33554432)) (.ofNat 4 (n / 131072))) else
  if n / 536870912 = 1 then some (.vcvts (.ofNat 5 (n / 128)) (.ofNat 5 (n / 4096)) (.ofNat 2 (n / 67108864)) (.ofNat 4 (n / 2097152)) (.ofNat 1 (n / 268435456)) (.ofNat 1 (n / 33554432)) (.ofNat 4 (n / 131072))) else
  if n / 33554432 = 32 then some (.vpack (.ofNat 5 (n / 128)) (.ofNat 5 (n / 4096)) (.ofNat 4 (n / 2097152)) (.ofNat 4 (n / 131072))) else
  if n / 2097152 = 774 then some (.vunpack (.ofNat 5 (n / 128)) (.ofNat 5 (n / 4096)) (.ofNat 4 (n / 131072))) else
  none

/-- Major 36 (R106; rows VREDADD, VREDMAX, VREDMIN, …). -/
def major36 (n : Nat) : Option Instr :=
  if n / 1073741824 = 0 ∧ n / 2097152 % 16 = 0 then some (.vredadd (.ofNat 5 (n / 128)) (.ofNat 5 (n / 4096)) (.ofNat 2 (n / 67108864)) (.ofNat 1 (n / 536870912)) (.ofNat 1 (n / 268435456)) (.ofNat 1 (n / 33554432)) (.ofNat 4 (n / 131072))) else
  if n / 1073741824 = 0 ∧ n / 2097152 % 16 = 1 then some (.vredmax (.ofNat 5 (n / 128)) (.ofNat 5 (n / 4096)) (.ofNat 2 (n / 67108864)) (.ofNat 1 (n / 536870912)) (.ofNat 1 (n / 268435456)) (.ofNat 1 (n / 33554432)) (.ofNat 4 (n / 131072))) else
  if n / 1073741824 = 0 ∧ n / 2097152 % 16 = 2 then some (.vredmin (.ofNat 5 (n / 128)) (.ofNat 5 (n / 4096)) (.ofNat 2 (n / 67108864)) (.ofNat 1 (n / 536870912)) (.ofNat 1 (n / 268435456)) (.ofNat 1 (n / 33554432)) (.ofNat 4 (n / 131072))) else
  if n / 1073741824 = 0 ∧ n / 2097152 % 16 = 3 then some (.vredq (.ofNat 5 (n / 128)) (.ofNat 5 (n / 4096)) (.ofNat 4 (n / 33554432)) (.ofNat 1 (n / 536870912)) (.ofNat 4 (n / 131072))) else
  none

/-- Major 37 (R106; rows VRNG). -/
def major37 (n : Nat) : Option Instr :=
  if n / 1073741824 = 0 ∧ n / 2097152 % 32 = 0 then some (.vrng (.ofNat 5 (n / 128)) (.ofNat 5 (n / 4096)) (.ofNat 2 (n / 134217728)) (.ofNat 4 (n / 131072)) (.ofNat 1 (n / 536870912)) (.ofNat 1 (n / 67108864))) else
  none

/-- Major 38 (R106; rows VPIVOT, VPIVOT_R, VELIM, …). -/
def major38 (n : Nat) : Option Instr :=
  if n / 536870912 = 0 ∧ n / 4194304 % 16 = 0 then some (.vpivot (.ofNat 5 (n / 128)) (.ofNat 5 (n / 4096)) (.ofNat 5 (n / 131072)) (.ofNat 2 (n / 134217728)) (.ofNat 1 (n / 67108864))) else
  if n / 536870912 = 2 ∧ n / 4194304 % 16 = 0 then some (.vpivotR (.ofNat 5 (n / 128)) (.ofNat 5 (n / 4096)) (.ofNat 5 (n / 131072)) (.ofNat 2 (n / 134217728)) (.ofNat 1 (n / 67108864))) else
  if n / 1073741824 = 0 ∧ n / 4194304 % 16 = 1 then some (.velim (.ofNat 5 (n / 128)) (.ofNat 5 (n / 4096)) (.ofNat 5 (n / 131072)) (.ofNat 2 (n / 134217728)) (.ofNat 1 (n / 536870912)) (.ofNat 1 (n / 67108864))) else
  if n / 4194304 = 2 then some (.vreg (.ofNat 5 (n / 128)) (.ofNat 5 (n / 4096)) (.ofNat 5 (n / 131072))) else
  none

/-- Major 39 (R106; rows MMAC_VV). -/
def major39 (n : Nat) : Option Instr :=
  some (.mmacVv (.ofNat 5 (n / 128)) (.ofNat 5 (n / 4096)) (.ofNat 5 (n / 131072)) (.ofNat 3 (n / 536870912)) (.ofNat 3 (n / 67108864)) (.ofNat 4 (n / 4194304)))

/-- Major 40 (R106; rows MMAC_SV). -/
def major40 (n : Nat) : Option Instr :=
  some (.mmacSv (.ofNat 5 (n / 128)) (.ofNat 5 (n / 4096)) (.ofNat 5 (n / 131072)) (.ofNat 3 (n / 536870912)) (.ofNat 3 (n / 67108864)) (.ofNat 4 (n / 4194304)))

/-- Major 41 (R106; rows MMAC_VS). -/
def major41 (n : Nat) : Option Instr :=
  some (.mmacVs (.ofNat 5 (n / 128)) (.ofNat 5 (n / 4096)) (.ofNat 5 (n / 131072)) (.ofNat 3 (n / 536870912)) (.ofNat 3 (n / 67108864)) (.ofNat 4 (n / 4194304)))

/-- Major 42 (R106; rows MMAC_SS). -/
def major42 (n : Nat) : Option Instr :=
  some (.mmacSs (.ofNat 5 (n / 128)) (.ofNat 5 (n / 4096)) (.ofNat 5 (n / 131072)) (.ofNat 3 (n / 536870912)) (.ofNat 3 (n / 67108864)) (.ofNat 4 (n / 4194304)))

/-- Major 43 (R106; rows MZERO, MLOAD, MSTORE, …). -/
def major43 (n : Nat) : Option Instr :=
  if n / 67108864 = 0 ∧ n / 4096 % 1024 = 0 then some (.mzero (.ofNat 5 (n / 128)) (.ofNat 4 (n / 4194304))) else
  if n / 67108864 = 1 ∧ n / 131072 % 32 = 0 then some (.mload (.ofNat 5 (n / 128)) (.ofNat 5 (n / 4096)) (.ofNat 4 (n / 4194304))) else
  if n / 67108864 = 2 ∧ n / 131072 % 32 = 0 then some (.mstore (.ofNat 5 (n / 128)) (.ofNat 5 (n / 4096)) (.ofNat 4 (n / 4194304))) else
  if n / 67108864 = 3 then some (.mdrain (.ofNat 5 (n / 128)) (.ofNat 5 (n / 4096)) (.ofNat 5 (n / 131072)) (.ofNat 4 (n / 4194304))) else
  if n / 128 = 2097152 then some (.hret) else
  if n / 4194304 = 80 then some (.mpin (.ofNat 5 (n / 128)) (.ofNat 5 (n / 4096)) (.ofNat 5 (n / 131072))) else
  if n / 4096 = 98304 then some (.mfree (.ofNat 5 (n / 128))) else
  if n / 67108864 = 7 ∧ n / 4096 % 1024 = 0 then some (.mspill (.ofNat 5 (n / 128)) (.ofNat 4 (n / 4194304))) else
  if n / 67108864 = 8 ∧ n / 4096 % 1024 = 0 then some (.mfill (.ofNat 5 (n / 128)) (.ofNat 4 (n / 4194304))) else
  if n / 67108864 = 9 ∧ n / 131072 % 32 = 0 then some (.mown (.ofNat 5 (n / 128)) (.ofNat 5 (n / 4096)) (.ofNat 4 (n / 4194304))) else
  none

/-- Major 44 (R106; rows FWDELTA, FWCHUNK, FWREAD). -/
def major44 (n : Nat) : Option Instr :=
  if n / 2147483648 = 0 then some (.fwdelta (.ofNat 5 (n / 128)) (.ofNat 5 (n / 4096)) (.ofNat 5 (n / 131072)) (.ofNat 5 (n / 67108864)) (.ofNat 4 (n / 4194304))) else
  if n / 536870912 = 4 ∧ n / 4096 % 1024 = 0 then some (.fwchunk (.ofNat 5 (n / 128)) (.ofNat 3 (n / 67108864)) (.ofNat 4 (n / 4194304))) else
  if n / 67108864 = 40 ∧ n / 131072 % 32 = 0 then some (.fwread (.ofNat 5 (n / 128)) (.ofNat 5 (n / 4096)) (.ofNat 4 (n / 4194304))) else
  none

/-- The 16-bit format H (R105). -/
def half (n : Nat) : Option Instr :=
  if n % 32 = 0 then some (.vaddH (.ofNat 5 (n / 32)) (.ofNat 5 (n / 1024)) (.ofNat 1 (n / 32768))) else
  if n % 32 = 2 then some (.vsubH (.ofNat 5 (n / 32)) (.ofNat 5 (n / 1024)) (.ofNat 1 (n / 32768))) else
  if n % 32 = 4 then some (.vmulH (.ofNat 5 (n / 32)) (.ofNat 5 (n / 1024)) (.ofNat 1 (n / 32768))) else
  if n % 32 = 6 then some (.vminH (.ofNat 5 (n / 32)) (.ofNat 5 (n / 1024)) (.ofNat 1 (n / 32768))) else
  if n % 32 = 8 then some (.vmaxH (.ofNat 5 (n / 32)) (.ofNat 5 (n / 1024)) (.ofNat 1 (n / 32768))) else
  if n % 32 = 10 then some (.vandH (.ofNat 5 (n / 32)) (.ofNat 5 (n / 1024)) (.ofNat 1 (n / 32768))) else
  if n % 32 = 12 then some (.vorH (.ofNat 5 (n / 32)) (.ofNat 5 (n / 1024)) (.ofNat 1 (n / 32768))) else
  if n % 32 = 14 then some (.vxorH (.ofNat 5 (n / 32)) (.ofNat 5 (n / 1024)) (.ofNat 1 (n / 32768))) else
  if n % 32 = 16 then some (.vmovH (.ofNat 5 (n / 32)) (.ofNat 5 (n / 1024)) (.ofNat 1 (n / 32768))) else
  if n % 32 = 18 then some (.vneg (.ofNat 5 (n / 32)) (.ofNat 5 (n / 1024)) (.ofNat 1 (n / 32768))) else
  if n % 32 = 20 then some (.vabs (.ofNat 5 (n / 32)) (.ofNat 5 (n / 1024)) (.ofNat 1 (n / 32768))) else
  if n / 32768 = 0 ∧ n % 32 = 22 then some (.vselH (.ofNat 5 (n / 32)) (.ofNat 5 (n / 1024))) else
  if n % 32 = 24 then some (.vrelu (.ofNat 5 (n / 32)) (.ofNat 5 (n / 1024)) (.ofNat 1 (n / 32768))) else
  if n % 32 = 26 then some (.vrsub (.ofNat 5 (n / 32)) (.ofNat 5 (n / 1024)) (.ofNat 1 (n / 32768))) else
  if n % 32 = 28 then some (.vzero (.ofNat 5 (n / 32)) (.ofNat 5 (n / 1024)) (.ofNat 1 (n / 32768))) else
  if n / 32768 = 0 ∧ n % 32 = 30 then some (.vswap (.ofNat 5 (n / 32)) (.ofNat 5 (n / 1024))) else
  none

/-- A 32-bit word: the major opcode in bits [6:1] selects the family (R102, R106). -/
def word (n : Nat) : Option Instr :=
  match n / 2 % 64 with
  | 0 => major0 n
  | 1 => major1 n
  | 2 => major2 n
  | 3 => major3 n
  | 4 => major4 n
  | 5 => major5 n
  | 6 => major6 n
  | 7 => major7 n
  | 8 => major8 n
  | 9 => major9 n
  | 10 => major10 n
  | 11 => major11 n
  | 12 => major12 n
  | 13 => major13 n
  | 14 => major14 n
  | 15 => major15 n
  | 16 => major16 n
  | 17 => major17 n
  | 18 => major18 n
  | 19 => major19 n
  | 20 => major20 n
  | 21 => major21 n
  | 22 => major22 n
  | 23 => major23 n
  | 24 => major24 n
  | 25 => major25 n
  | 26 => major26 n
  | 27 => major27 n
  | 28 => major28 n
  | 29 => major29 n
  | 30 => major30 n
  | 31 => major31 n
  | 32 => major32 n
  | 33 => major33 n
  | 34 => major34 n
  | 35 => major35 n
  | 36 => major36 n
  | 37 => major37 n
  | 38 => major38 n
  | 39 => major39 n
  | 40 => major40 n
  | 41 => major41 n
  | 42 => major42 n
  | 43 => major43 n
  | 44 => major44 n
  | _ => none

end Dec

/-- Why a byte stream holds no instruction. -/
inductive DecodeReject where
  /-- Fewer bytes than the first halfword announces (R82). -/
  | truncated
  /-- A 32-bit word that no table row claims (R122). -/
  | noRow32 (word : BitVec 32)
  /-- A halfword that no table row claims (R105). -/
  | noRow16 (half : BitVec 16)
deriving DecidableEq, Repr

/-- What the decoder answers: an instruction with its length in bytes, or a rejection by name. -/
inductive DecodeResult where
  | ok (i : Instr) (len : Nat)
  | reject (r : DecodeReject)
deriving DecidableEq, Repr

/-- Decodes the instruction at the head of a byte stream, lowest address first (R4, R82). -/
def decode : List Byte → DecodeResult
  | b0 :: b1 :: rest =>
    let h := b0.toNat + 256 * b1.toNat
    if h % 2 = 0 then
      match Dec.half h with
      | some i => .ok i 2
      | none => .reject (.noRow16 (.ofNat 16 h))
    else
      match rest with
      | b2 :: b3 :: _ =>
        let w := h + 65536 * (b2.toNat + 256 * b3.toNat)
        match Dec.word w with
        | some i => .ok i 4
        | none => .reject (.noRow32 (.ofNat 32 w))
      | _ => .reject .truncated
  | _ => .reject .truncated

/-- The length of an encoded instruction in bits; 0 for an event of the table, which has no encoding. -/
def Instr.bits : Instr → Nat
  | .add _ _ _ => 32
  | .sub _ _ _ => 32
  | .mul _ _ _ _ => 32
  | .mulh _ _ _ _ => 32
  | .div _ _ _ _ => 32
  | .divu _ _ _ _ => 32
  | .rem _ _ _ _ => 32
  | .remu _ _ _ _ => 32
  | .and _ _ _ => 32
  | .or _ _ _ => 32
  | .xor _ _ _ => 32
  | .shl _ _ _ => 32
  | .shr _ _ _ => 32
  | .sar _ _ _ => 32
  | .slt _ _ _ => 32
  | .sltu _ _ _ => 32
  | .min _ _ _ => 32
  | .max _ _ _ => 32
  | .clz _ _ => 32
  | .ctz _ _ => 32
  | .popc _ _ => 32
  | .gcd _ _ _ _ => 32
  | .addi _ _ _ => 32
  | .andi _ _ _ => 32
  | .ori _ _ _ => 32
  | .xori _ _ _ => 32
  | .shli _ _ _ => 32
  | .shri _ _ _ => 32
  | .sari _ _ _ => 32
  | .slti _ _ _ => 32
  | .sltiu _ _ _ => 32
  | .lui _ _ => 32
  | .adpc _ _ => 32
  | .bcc _ _ _ _ => 32
  | .br _ => 32
  | .call _ => 32
  | .jr _ => 32
  | .callr _ => 32
  | .ret => 32
  | .qput _ _ => 32
  | .qget _ _ => 32
  | .sysrd _ _ => 32
  | .syswr _ _ => 32
  | .svc _ => 32
  | .trap _ => 32
  | .tret => 32
  | .exit => 32
  | .nop => 32
  | .safept _ => 32
  | .gtol _ _ => 32
  | .ltog _ _ _ => 32
  | .inap _ _ => 32
  | .teama _ _ _ => 32
  | .fence _ => 32
  | .fenceAcq _ => 32
  | .fenceRel _ => 32
  | .bar _ _ _ => 32
  | .barW _ _ _ => 32
  | .barw _ _ _ => 32
  | .barx _ _ _ => 32
  | .dsync _ => 32
  | .gsync _ => 32
  | .waitp => 32
  | .trig => 32
  | .ld _ _ _ _ _ => 32
  | .ldz _ _ _ _ _ => 32
  | .st _ _ _ _ => 32
  | .ldq _ _ _ _ _ => 32
  | .stq _ _ _ => 32
  | .ldqs _ _ _ _ _ _ => 32
  | .stqs _ _ _ _ => 32
  | .ldqx _ _ _ _ _ _ => 32
  | .stqx _ _ _ _ => 32
  | .lds _ _ _ _ => 32
  | .sts _ _ _ => 32
  | .ldsq _ _ _ _ _ => 32
  | .stsq _ _ _ => 32
  | .atomicAdd _ _ _ _ _ _ => 32
  | .atomicAnd _ _ _ _ _ _ => 32
  | .atomicOr _ _ _ _ _ _ => 32
  | .atomicXor _ _ _ _ _ _ => 32
  | .atomicMin _ _ _ _ _ _ => 32
  | .atomicMax _ _ _ _ _ _ => 32
  | .atomicSwp _ _ _ _ _ _ => 32
  | .atomicCas _ _ _ _ _ _ => 32
  | .radd _ _ _ _ => 32
  | .tdef _ _ => 32
  | .tstat _ _ => 32
  | .twait _ => 32
  | .trel _ => 32
  | .cpset _ _ => 32
  | .cpgo _ => 32
  | .cpwait _ => 32
  | .cpprobe _ _ => 32
  | .lvget _ _ => 32
  | .lvnbr _ _ => 32
  | .lvread _ _ _ _ => 32
  | .lvtake => 32
  | .lvret => 32
  | .lvstep _ => 32
  | .lvcommit => 32
  | .lvthaw _ _ => 32
  | .fadd _ _ _ _ => 32
  | .fsub _ _ _ _ => 32
  | .fmul _ _ _ _ => 32
  | .fdiv _ _ _ _ => 32
  | .fsqrt _ _ _ => 32
  | .fma _ _ _ _ => 32
  | .fmin _ _ _ => 32
  | .fmax _ _ _ => 32
  | .fabs _ _ => 32
  | .fneg _ _ => 32
  | .feq _ _ _ => 32
  | .flt _ _ _ => 32
  | .fle _ _ _ => 32
  | .fcvt _ _ _ _ => 32
  | .f2g _ _ _ => 32
  | .g2f _ _ _ _ => 32
  | .fmvg _ _ => 32
  | .gmvf _ _ _ => 32
  | .fnum _ _ => 32
  | .fden _ _ => 32
  | .fmake _ _ _ _ => 32
  | .fmed _ _ _ _ => 32
  | .frnd _ _ _ _ => 32
  | .fnbr _ _ _ _ => 32
  | .fli _ _ => 32
  | .vadd _ _ _ _ _ _ => 32
  | .vsub _ _ _ _ _ _ => 32
  | .vmul _ _ _ _ _ _ => 32
  | .vfma _ _ _ _ _ _ => 32
  | .vfms _ _ _ _ _ _ => 32
  | .vdiv _ _ _ _ _ _ => 32
  | .vmin _ _ _ _ _ _ => 32
  | .vmax _ _ _ _ _ _ => 32
  | .vand _ _ _ _ _ _ => 32
  | .vor _ _ _ _ _ _ => 32
  | .vxor _ _ _ _ _ _ => 32
  | .vshl _ _ _ _ _ _ => 32
  | .vshr _ _ _ _ _ _ => 32
  | .vsar _ _ _ _ _ _ => 32
  | .vcmp _ _ _ _ _ _ _ _ => 32
  | .vmov _ _ _ _ _ => 32
  | .vsel _ _ _ _ => 32
  | .vperm _ _ _ _ _ _ => 32
  | .vslideUp _ _ _ _ _ _ => 32
  | .vslideDown _ _ _ _ _ _ => 32
  | .vsplat _ _ _ _ _ => 32
  | .vidx _ _ _ _ _ => 32
  | .vcompress _ _ _ _ => 32
  | .vpopm _ _ => 32
  | .vrcp _ _ _ _ _ _ => 32
  | .vrsq _ _ _ _ _ _ => 32
  | .vsqrt _ _ _ _ _ _ => 32
  | .vexp2 _ _ _ _ _ _ => 32
  | .vlog2 _ _ _ _ _ _ => 32
  | .vtanh _ _ _ _ _ _ => 32
  | .vsigm _ _ _ _ _ _ => 32
  | .vcvt _ _ _ _ _ _ _ => 32
  | .vcvts _ _ _ _ _ _ _ => 32
  | .vpack _ _ _ _ => 32
  | .vunpack _ _ _ => 32
  | .vredadd _ _ _ _ _ _ _ => 32
  | .vredmax _ _ _ _ _ _ _ => 32
  | .vredmin _ _ _ _ _ _ _ => 32
  | .vredq _ _ _ _ _ => 32
  | .vrng _ _ _ _ _ _ => 32
  | .vpivot _ _ _ _ _ => 32
  | .vpivotR _ _ _ _ _ => 32
  | .velim _ _ _ _ _ _ => 32
  | .vreg _ _ _ => 32
  | .mmacVv _ _ _ _ _ _ => 32
  | .mmacSv _ _ _ _ _ _ => 32
  | .mmacVs _ _ _ _ _ _ => 32
  | .mmacSs _ _ _ _ _ _ => 32
  | .mzero _ _ => 32
  | .mload _ _ _ => 32
  | .mstore _ _ _ => 32
  | .mdrain _ _ _ _ => 32
  | .hret => 32
  | .mpin _ _ _ => 32
  | .mfree _ => 32
  | .mspill _ _ => 32
  | .mfill _ _ => 32
  | .mown _ _ _ => 32
  | .fwdelta _ _ _ _ _ => 32
  | .fwchunk _ _ _ => 32
  | .fwread _ _ _ => 32
  | .vaddH _ _ _ => 16
  | .vsubH _ _ _ => 16
  | .vmulH _ _ _ => 16
  | .vminH _ _ _ => 16
  | .vmaxH _ _ _ => 16
  | .vandH _ _ _ => 16
  | .vorH _ _ _ => 16
  | .vxorH _ _ _ => 16
  | .vmovH _ _ _ => 16
  | .vneg _ _ _ => 16
  | .vabs _ _ _ => 16
  | .vselH _ _ => 16
  | .vrelu _ _ _ => 16
  | .vrsub _ _ _ => 16
  | .vzero _ _ _ => 16
  | .vswap _ _ => 16
  | .notifyWrite _ _ _ _ => 0
  | .slotRead _ _ => 0
  | .staleSlotReread _ _ => 0
  | .launch _ _ _ => 0
  | .front _ _ _ => 0
  | .marker _ _ => 0
  | .queueEnable _ _ => 0
  | .queueDisable _ _ => 0
  | .queueAck _ _ _ => 0
  | .seedWrite _ _ => 0
  | .contextSave _ => 0
  | .teamResume _ _ _ _ => 0
  | .commandComplete _ _ _ => 0
  | .levelDispatch _ _ => 0
  | .commitArrival _ _ => 0
  | .stall _ _ _ => 0
  | .lvRecordStage _ => 0
  | .lvRecordApply => 0
  | .streamDeadlock _ => 0
  | .longOpComplete _ _ _ _ => 0
  | .storeRefusal _ _ => 0
  | .storeAck _ _ => 0
  | .queueEntryFill _ _ => 0
  | .pageFaultPark _ _ _ => 0
  | .replayAll => 0
  | .fbHeadWrite _ => 0
  | .ttInval _ => 0
  | .ttInvalDone => 0
  | .copyJobComplete _ _ _ => 0
  | .copyJobFaultEnd _ _ => 0
  | .barrierReturn _ => 0
  | .homeSliceServe _ _ => 0
  | .clusterAtomicServe _ _ => 0
  | .atomicPromote _ _ => 0
  | .fullEmptyWake _ _ => 0
  | .tileReadyResume _ _ => 0
  | .gangMeet _ => 0
  | .dsyncComplete _ => 0
  | .remoteDsyncArrival _ _ => 0
  | .gsyncComplete _ => 0
  | .waitpReturn _ => 0
  | .partReset _ => 0
  | .purgeComplete _ => 0
  | .rectReturnToService _ => 0
  | .iftPeriodic _ => 0
  | .iftNow _ => 0
  | .iftTestComplete _ _ => 0
  | .getTest => 0
  | .setConfig => 0
  | .attest => 0
  | .getFailrec => 0
  | .fwUpdate => 0
  | .mailboxResponse _ => 0
  | .powerGood _ => 0
  | .hostLinkDown _ => 0
  | .powerThrottle _ _ => 0
  | .thermalTrip => 0
  | .netPacketPromote _ _ => 0
  | .replayDiverge _ => 0
  | .hostCxlMemAccess _ _ => 0
  | .remoteDomainAccess _ => 0
  | .registerWrite _ _ _ => 0
  | .illegalInstruction _ => 0
  | .fetchProtectionFault _ => 0
  | .hostCoherenceRequest _ _ => 0
  | .ngucyLinkDown _ => 0
  | .flitCrcFailure _ => 0
  | .deviceReset _ => 0

/-- The instruction word as a number (R102 to R121); 0 for an event. -/
def Instr.encNat : Instr → Nat
  | .add d a b => 1 + d.toNat * 128 + a.toNat * 4096 + b.toNat * 131072
  | .sub d a b => 67108865 + d.toNat * 128 + a.toNat * 4096 + b.toNat * 131072
  | .mul d a b la => 134217729 + d.toNat * 128 + a.toNat * 4096 + b.toNat * 131072 + la.toNat * 4194304
  | .mulh d a b la => 201326593 + d.toNat * 128 + a.toNat * 4096 + b.toNat * 131072 + la.toNat * 4194304
  | .div d a b la => 268435457 + d.toNat * 128 + a.toNat * 4096 + b.toNat * 131072 + la.toNat * 4194304
  | .divu d a b la => 335544321 + d.toNat * 128 + a.toNat * 4096 + b.toNat * 131072 + la.toNat * 4194304
  | .rem d a b la => 402653185 + d.toNat * 128 + a.toNat * 4096 + b.toNat * 131072 + la.toNat * 4194304
  | .remu d a b la => 469762049 + d.toNat * 128 + a.toNat * 4096 + b.toNat * 131072 + la.toNat * 4194304
  | .and d a b => 536870913 + d.toNat * 128 + a.toNat * 4096 + b.toNat * 131072
  | .or d a b => 603979777 + d.toNat * 128 + a.toNat * 4096 + b.toNat * 131072
  | .xor d a b => 671088641 + d.toNat * 128 + a.toNat * 4096 + b.toNat * 131072
  | .shl d a b => 738197505 + d.toNat * 128 + a.toNat * 4096 + b.toNat * 131072
  | .shr d a b => 805306369 + d.toNat * 128 + a.toNat * 4096 + b.toNat * 131072
  | .sar d a b => 872415233 + d.toNat * 128 + a.toNat * 4096 + b.toNat * 131072
  | .slt d a b => 939524097 + d.toNat * 128 + a.toNat * 4096 + b.toNat * 131072
  | .sltu d a b => 1006632961 + d.toNat * 128 + a.toNat * 4096 + b.toNat * 131072
  | .min d a b => 1073741825 + d.toNat * 128 + a.toNat * 4096 + b.toNat * 131072
  | .max d a b => 1140850689 + d.toNat * 128 + a.toNat * 4096 + b.toNat * 131072
  | .clz d a => 1207959553 + d.toNat * 128 + a.toNat * 4096
  | .ctz d a => 1275068417 + d.toNat * 128 + a.toNat * 4096
  | .popc d a => 1342177281 + d.toNat * 128 + a.toNat * 4096
  | .gcd d a b la => 1409286145 + d.toNat * 128 + a.toNat * 4096 + b.toNat * 131072 + la.toNat * 4194304
  | .addi d a imm => 3 + d.toNat * 128 + a.toNat * 4096 + imm.toNat * 131072
  | .andi d a imm => 5 + d.toNat * 128 + a.toNat * 4096 + imm.toNat * 131072
  | .ori d a imm => 7 + d.toNat * 128 + a.toNat * 4096 + imm.toNat * 131072
  | .xori d a imm => 9 + d.toNat * 128 + a.toNat * 4096 + imm.toNat * 131072
  | .shli d a c => 11 + d.toNat * 128 + a.toNat * 4096 + c.toNat * 131072
  | .shri d a c => 536870923 + d.toNat * 128 + a.toNat * 4096 + c.toNat * 131072
  | .sari d a c => 1073741835 + d.toNat * 128 + a.toNat * 4096 + c.toNat * 131072
  | .slti d a imm => 13 + d.toNat * 128 + a.toNat * 4096 + imm.toNat * 131072
  | .sltiu d a imm => 2147483661 + d.toNat * 128 + a.toNat * 4096 + imm.toNat * 131072
  | .lui d imm => 15 + d.toNat * 128 + imm.toNat * 4096
  | .adpc d imm => 17 + d.toNat * 128 + imm.toNat * 4096
  | .bcc a b off c => 19 + a.toNat * 128 + b.toNat * 4096 + off.toNat * 1048576 + c.toNat * 131072
  | .br off => 21 + off.toNat * 128
  | .call off => 23 + off.toNat * 128
  | .jr a => 25 + a.toNat * 4096
  | .callr a => 67108889 + a.toNat * 4096
  | .ret => 134217753
  | .qput q a => 201326617 + q.toNat * 131072 + a.toNat * 4096
  | .qget q d => 268435481 + q.toNat * 131072 + d.toNat * 128
  | .sysrd d imm => 27 + d.toNat * 128 + imm.toNat * 8388608
  | .syswr a imm => 1048603 + a.toNat * 4096 + imm.toNat * 8388608
  | .svc imm => 2097179 + imm.toNat * 8388608
  | .trap imm => 3145755 + imm.toNat * 8388608
  | .tret => 4194331
  | .exit => 5242907
  | .nop => 6291483
  | .safept imm => 7340059 + imm.toNat * 8388608
  | .gtol d a => 29 + d.toNat * 128 + a.toNat * 4096
  | .ltog d a b => 67108893 + d.toNat * 128 + a.toNat * 4096 + b.toNat * 131072
  | .inap d a => 134217757 + d.toNat * 128 + a.toNat * 4096
  | .teama d a b => 201326621 + d.toNat * 128 + a.toNat * 4096 + b.toNat * 131072
  | .fence sc => 31 + sc.toNat * 131072
  | .fenceAcq sc => 8388639 + sc.toNat * 131072
  | .fenceRel sc => 16777247 + sc.toNat * 131072
  | .bar a n sc => 1048607 + a.toNat * 4096 + n.toNat * 128 + sc.toNat * 131072
  | .barW a n sc => 9437215 + a.toNat * 4096 + n.toNat * 128 + sc.toNat * 131072
  | .barw a g sc => 2097183 + a.toNat * 4096 + g.toNat * 128 + sc.toNat * 131072
  | .barx a n sc => 3145759 + a.toNat * 4096 + n.toNat * 128 + sc.toNat * 131072
  | .dsync sc => 4194335 + sc.toNat * 131072
  | .gsync sc => 5242911 + sc.toNat * 131072
  | .waitp => 6291487
  | .trig => 7340063
  | .ld d a off sz la => 33 + d.toNat * 128 + a.toNat * 4096 + off.toNat * 8388608 + sz.toNat * 2097152 + la.toNat * 131072
  | .ldz d a off sz la => 35 + d.toNat * 128 + a.toNat * 4096 + off.toNat * 8388608 + sz.toNat * 2097152 + la.toNat * 131072
  | .st a b off sz => 37 + a.toNat * 4096 + b.toNat * 128 + off.toNat * 524288 + sz.toNat * 131072
  | .ldq q a off tag la => 39 + q.toNat * 128 + a.toNat * 16384 + off.toNat * 8388608 + tag.toNat * 1024 + la.toNat * 524288
  | .stq q a off => 41 + q.toNat * 128 + a.toNat * 16384 + off.toNat * 8388608
  | .ldqs q a b tag esz la => 43 + q.toNat * 128 + a.toNat * 16384 + b.toNat * 8388608 + tag.toNat * 1024 + esz.toNat * 268435456 + la.toNat * 524288
  | .stqs q a b esz => 2147483691 + q.toNat * 128 + a.toNat * 16384 + b.toNat * 8388608 + esz.toNat * 268435456
  | .ldqx q a b tag esz la => 45 + q.toNat * 128 + a.toNat * 16384 + b.toNat * 8388608 + tag.toNat * 1024 + esz.toNat * 268435456 + la.toNat * 524288
  | .stqx q a b esz => 2147483693 + q.toNat * 128 + a.toNat * 16384 + b.toNat * 8388608 + esz.toNat * 268435456
  | .lds d a off la => 47 + d.toNat * 128 + a.toNat * 4096 + off.toNat * 8388608 + la.toNat * 131072
  | .sts a b off => 2097199 + a.toNat * 4096 + b.toNat * 128 + off.toNat * 8388608
  | .ldsq q a off tag la => 4194351 + q.toNat * 128 + a.toNat * 4096 + off.toNat * 8388608 + tag.toNat * 268435456 + la.toNat * 131072
  | .stsq q a off => 6291503 + q.toNat * 128 + a.toNat * 4096 + off.toNat * 8388608
  | .atomicAdd d a b w rt sc => 49 + d.toNat * 128 + a.toNat * 4096 + b.toNat * 131072 + w.toNat * 1073741824 + rt.toNat * 536870912 + sc.toNat * 4194304
  | .atomicAnd d a b w rt sc => 33554481 + d.toNat * 128 + a.toNat * 4096 + b.toNat * 131072 + w.toNat * 1073741824 + rt.toNat * 536870912 + sc.toNat * 4194304
  | .atomicOr d a b w rt sc => 67108913 + d.toNat * 128 + a.toNat * 4096 + b.toNat * 131072 + w.toNat * 1073741824 + rt.toNat * 536870912 + sc.toNat * 4194304
  | .atomicXor d a b w rt sc => 100663345 + d.toNat * 128 + a.toNat * 4096 + b.toNat * 131072 + w.toNat * 1073741824 + rt.toNat * 536870912 + sc.toNat * 4194304
  | .atomicMin d a b w rt sc => 134217777 + d.toNat * 128 + a.toNat * 4096 + b.toNat * 131072 + w.toNat * 1073741824 + rt.toNat * 536870912 + sc.toNat * 4194304
  | .atomicMax d a b w rt sc => 167772209 + d.toNat * 128 + a.toNat * 4096 + b.toNat * 131072 + w.toNat * 1073741824 + rt.toNat * 536870912 + sc.toNat * 4194304
  | .atomicSwp d a b w rt sc => 201326641 + d.toNat * 128 + a.toNat * 4096 + b.toNat * 131072 + w.toNat * 1073741824 + rt.toNat * 536870912 + sc.toNat * 4194304
  | .atomicCas d a b w rt sc => 234881073 + d.toNat * 128 + a.toNat * 4096 + b.toNat * 131072 + w.toNat * 1073741824 + rt.toNat * 536870912 + sc.toNat * 4194304
  | .radd a b w sc => 268435505 + a.toNat * 4096 + b.toNat * 131072 + w.toNat * 1073741824 + sc.toNat * 4194304
  | .tdef a b => 51 + a.toNat * 4096 + b.toNat * 131072
  | .tstat d a => 67108915 + d.toNat * 128 + a.toNat * 4096
  | .twait a => 134217779 + a.toNat * 4096
  | .trel a => 201326643 + a.toNat * 4096
  | .cpset a k => 53 + a.toNat * 4096 + k.toNat * 8388608
  | .cpgo d => 1048629 + d.toNat * 128
  | .cpwait a => 2097205 + a.toNat * 4096
  | .cpprobe d a => 3145781 + d.toNat * 128 + a.toNat * 4096
  | .lvget d a => 55 + d.toNat * 128 + a.toNat * 4096
  | .lvnbr d a => 67108919 + d.toNat * 128 + a.toNat * 4096
  | .lvread d a b la => 134217783 + d.toNat * 128 + a.toNat * 4096 + b.toNat * 131072 + la.toNat * 4194304
  | .lvtake => 201326647
  | .lvret => 268435511
  | .lvstep a => 335544375 + a.toNat * 4096
  | .lvcommit => 402653239
  | .lvthaw d a => 469762103 + d.toNat * 128 + a.toNat * 4096
  | .fadd d a b la => 57 + d.toNat * 128 + a.toNat * 4096 + b.toNat * 131072 + la.toNat * 4194304
  | .fsub d a b la => 67108921 + d.toNat * 128 + a.toNat * 4096 + b.toNat * 131072 + la.toNat * 4194304
  | .fmul d a b la => 134217785 + d.toNat * 128 + a.toNat * 4096 + b.toNat * 131072 + la.toNat * 4194304
  | .fdiv d a b la => 201326649 + d.toNat * 128 + a.toNat * 4096 + b.toNat * 131072 + la.toNat * 4194304
  | .fsqrt d a la => 268435513 + d.toNat * 128 + a.toNat * 4096 + la.toNat * 4194304
  | .fma d a b la => 335544377 + d.toNat * 128 + a.toNat * 4096 + b.toNat * 131072 + la.toNat * 4194304
  | .fmin d a b => 402653241 + d.toNat * 128 + a.toNat * 4096 + b.toNat * 131072
  | .fmax d a b => 469762105 + d.toNat * 128 + a.toNat * 4096 + b.toNat * 131072
  | .fabs d a => 536870969 + d.toNat * 128 + a.toNat * 4096
  | .fneg d a => 603979833 + d.toNat * 128 + a.toNat * 4096
  | .feq d a b => 671088697 + d.toNat * 128 + a.toNat * 4096 + b.toNat * 131072
  | .flt d a b => 738197561 + d.toNat * 128 + a.toNat * 4096 + b.toNat * 131072
  | .fle d a b => 805306425 + d.toNat * 128 + a.toNat * 4096 + b.toNat * 131072
  | .fcvt d a tag la => 872415289 + d.toNat * 128 + a.toNat * 4096 + tag.toNat * 131072 + la.toNat * 4194304
  | .f2g d a la => 939524153 + d.toNat * 128 + a.toNat * 4096 + la.toNat * 4194304
  | .g2f d a tag la => 1006633017 + d.toNat * 128 + a.toNat * 4096 + tag.toNat * 131072 + la.toNat * 4194304
  | .fmvg d a => 1073741881 + d.toNat * 128 + a.toNat * 4096
  | .gmvf d a tag => 1140850745 + d.toNat * 128 + a.toNat * 4096 + tag.toNat * 131072
  | .fnum d a => 59 + d.toNat * 128 + a.toNat * 4096
  | .fden d a => 67108923 + d.toNat * 128 + a.toNat * 4096
  | .fmake d a b la => 134217787 + d.toNat * 128 + a.toNat * 4096 + b.toNat * 131072 + la.toNat * 4194304
  | .fmed d a b la => 201326651 + d.toNat * 128 + a.toNat * 4096 + b.toNat * 131072 + la.toNat * 4194304
  | .frnd d a b la => 268435515 + d.toNat * 128 + a.toNat * 4096 + b.toNat * 131072 + la.toNat * 4194304
  | .fnbr d a b la => 335544379 + d.toNat * 128 + a.toNat * 4096 + b.toNat * 131072 + la.toNat * 4194304
  | .fli d imm => 61 + d.toNat * 128 + imm.toNat * 4096
  | .vadd d a b k pol me => 63 + d.toNat * 128 + a.toNat * 4096 + b.toNat * 131072 + k.toNat * 134217728 + pol.toNat * 536870912 + me.toNat * 67108864
  | .vsub d a b k pol me => 4194367 + d.toNat * 128 + a.toNat * 4096 + b.toNat * 131072 + k.toNat * 134217728 + pol.toNat * 536870912 + me.toNat * 67108864
  | .vmul d a b k pol me => 8388671 + d.toNat * 128 + a.toNat * 4096 + b.toNat * 131072 + k.toNat * 134217728 + pol.toNat * 536870912 + me.toNat * 67108864
  | .vfma d a b k pol me => 12582975 + d.toNat * 128 + a.toNat * 4096 + b.toNat * 131072 + k.toNat * 134217728 + pol.toNat * 536870912 + me.toNat * 67108864
  | .vfms d a b k pol me => 16777279 + d.toNat * 128 + a.toNat * 4096 + b.toNat * 131072 + k.toNat * 134217728 + pol.toNat * 536870912 + me.toNat * 67108864
  | .vdiv d a b k pol me => 20971583 + d.toNat * 128 + a.toNat * 4096 + b.toNat * 131072 + k.toNat * 134217728 + pol.toNat * 536870912 + me.toNat * 67108864
  | .vmin d a b k pol me => 25165887 + d.toNat * 128 + a.toNat * 4096 + b.toNat * 131072 + k.toNat * 134217728 + pol.toNat * 536870912 + me.toNat * 67108864
  | .vmax d a b k pol me => 29360191 + d.toNat * 128 + a.toNat * 4096 + b.toNat * 131072 + k.toNat * 134217728 + pol.toNat * 536870912 + me.toNat * 67108864
  | .vand d a b k pol me => 33554495 + d.toNat * 128 + a.toNat * 4096 + b.toNat * 131072 + k.toNat * 134217728 + pol.toNat * 536870912 + me.toNat * 67108864
  | .vor d a b k pol me => 37748799 + d.toNat * 128 + a.toNat * 4096 + b.toNat * 131072 + k.toNat * 134217728 + pol.toNat * 536870912 + me.toNat * 67108864
  | .vxor d a b k pol me => 41943103 + d.toNat * 128 + a.toNat * 4096 + b.toNat * 131072 + k.toNat * 134217728 + pol.toNat * 536870912 + me.toNat * 67108864
  | .vshl d a b k pol me => 46137407 + d.toNat * 128 + a.toNat * 4096 + b.toNat * 131072 + k.toNat * 134217728 + pol.toNat * 536870912 + me.toNat * 67108864
  | .vshr d a b k pol me => 50331711 + d.toNat * 128 + a.toNat * 4096 + b.toNat * 131072 + k.toNat * 134217728 + pol.toNat * 536870912 + me.toNat * 67108864
  | .vsar d a b k pol me => 54526015 + d.toNat * 128 + a.toNat * 4096 + b.toNat * 131072 + k.toNat * 134217728 + pol.toNat * 536870912 + me.toNat * 67108864
  | .vcmp d a b c k u pol me => 65 + d.toNat * 128 + a.toNat * 4096 + b.toNat * 131072 + c.toNat * 4194304 + k.toNat * 134217728 + u.toNat * 1073741824 + pol.toNat * 536870912 + me.toNat * 67108864
  | .vmov d a k pol me => 67 + d.toNat * 128 + a.toNat * 4096 + k.toNat * 134217728 + pol.toNat * 536870912 + me.toNat * 67108864
  | .vsel d a b k => 71303235 + d.toNat * 128 + a.toNat * 4096 + b.toNat * 131072 + k.toNat * 134217728
  | .vperm d a b k pol me => 8388675 + d.toNat * 128 + a.toNat * 4096 + b.toNat * 131072 + k.toNat * 134217728 + pol.toNat * 536870912 + me.toNat * 67108864
  | .vslideUp d a n k pol me => 12582979 + d.toNat * 128 + a.toNat * 4096 + n.toNat * 131072 + k.toNat * 134217728 + pol.toNat * 536870912 + me.toNat * 67108864
  | .vslideDown d a n k pol me => 1086324803 + d.toNat * 128 + a.toNat * 4096 + n.toNat * 131072 + k.toNat * 134217728 + pol.toNat * 536870912 + me.toNat * 67108864
  | .vsplat d a k pol me => 16777283 + d.toNat * 128 + a.toNat * 4096 + k.toNat * 134217728 + pol.toNat * 536870912 + me.toNat * 67108864
  | .vidx d k tag pol me => 20971587 + d.toNat * 128 + k.toNat * 134217728 + tag.toNat * 131072 + pol.toNat * 536870912 + me.toNat * 67108864
  | .vcompress d a k pol => 92274755 + d.toNat * 128 + a.toNat * 4096 + k.toNat * 134217728 + pol.toNat * 536870912
  | .vpopm d a => 29360195 + d.toNat * 128 + a.toNat * 4096
  | .vrcp d a k pol me la => 69 + d.toNat * 128 + a.toNat * 4096 + k.toNat * 67108864 + pol.toNat * 268435456 + me.toNat * 33554432 + la.toNat * 131072
  | .vrsq d a k pol me la => 2097221 + d.toNat * 128 + a.toNat * 4096 + k.toNat * 67108864 + pol.toNat * 268435456 + me.toNat * 33554432 + la.toNat * 131072
  | .vsqrt d a k pol me la => 4194373 + d.toNat * 128 + a.toNat * 4096 + k.toNat * 67108864 + pol.toNat * 268435456 + me.toNat * 33554432 + la.toNat * 131072
  | .vexp2 d a k pol me la => 6291525 + d.toNat * 128 + a.toNat * 4096 + k.toNat * 67108864 + pol.toNat * 268435456 + me.toNat * 33554432 + la.toNat * 131072
  | .vlog2 d a k pol me la => 8388677 + d.toNat * 128 + a.toNat * 4096 + k.toNat * 67108864 + pol.toNat * 268435456 + me.toNat * 33554432 + la.toNat * 131072
  | .vtanh d a k pol me la => 10485829 + d.toNat * 128 + a.toNat * 4096 + k.toNat * 67108864 + pol.toNat * 268435456 + me.toNat * 33554432 + la.toNat * 131072
  | .vsigm d a k pol me la => 12582981 + d.toNat * 128 + a.toNat * 4096 + k.toNat * 67108864 + pol.toNat * 268435456 + me.toNat * 33554432 + la.toNat * 131072
  | .vcvt d a k tag pol me la => 71 + d.toNat * 128 + a.toNat * 4096 + k.toNat * 67108864 + tag.toNat * 2097152 + pol.toNat * 268435456 + me.toNat * 33554432 + la.toNat * 131072
  | .vcvts d a k tag pol me la => 536870983 + d.toNat * 128 + a.toNat * 4096 + k.toNat * 67108864 + tag.toNat * 2097152 + pol.toNat * 268435456 + me.toNat * 33554432 + la.toNat * 131072
  | .vpack d a tag la => 1073741895 + d.toNat * 128 + a.toNat * 4096 + tag.toNat * 2097152 + la.toNat * 131072
  | .vunpack d a la => 1623195719 + d.toNat * 128 + a.toNat * 4096 + la.toNat * 131072
  | .vredadd d a k f pol me la => 73 + d.toNat * 128 + a.toNat * 4096 + k.toNat * 67108864 + f.toNat * 536870912 + pol.toNat * 268435456 + me.toNat * 33554432 + la.toNat * 131072
  | .vredmax d a k f pol me la => 2097225 + d.toNat * 128 + a.toNat * 4096 + k.toNat * 67108864 + f.toNat * 536870912 + pol.toNat * 268435456 + me.toNat * 33554432 + la.toNat * 131072
  | .vredmin d a k f pol me la => 4194377 + d.toNat * 128 + a.toNat * 4096 + k.toNat * 67108864 + f.toNat * 536870912 + pol.toNat * 268435456 + me.toNat * 33554432 + la.toNat * 131072
  | .vredq d a n f la => 6291529 + d.toNat * 128 + a.toNat * 4096 + n.toNat * 33554432 + f.toNat * 536870912 + la.toNat * 131072
  | .vrng d a k tag pol me => 75 + d.toNat * 128 + a.toNat * 4096 + k.toNat * 134217728 + tag.toNat * 131072 + pol.toNat * 536870912 + me.toNat * 67108864
  | .vpivot d a b k me => 77 + d.toNat * 128 + a.toNat * 4096 + b.toNat * 131072 + k.toNat * 134217728 + me.toNat * 67108864
  | .vpivotR d a b k me => 1073741901 + d.toNat * 128 + a.toNat * 4096 + b.toNat * 131072 + k.toNat * 134217728 + me.toNat * 67108864
  | .velim d a b k pol me => 4194381 + d.toNat * 128 + a.toNat * 4096 + b.toNat * 131072 + k.toNat * 134217728 + pol.toNat * 536870912 + me.toNat * 67108864
  | .vreg d a b => 8388685 + d.toNat * 128 + a.toNat * 4096 + b.toNat * 131072
  | .mmacVv d a b f p la => 79 + d.toNat * 128 + a.toNat * 4096 + b.toNat * 131072 + f.toNat * 536870912 + p.toNat * 67108864 + la.toNat * 4194304
  | .mmacSv d a b f p la => 81 + d.toNat * 128 + a.toNat * 4096 + b.toNat * 131072 + f.toNat * 536870912 + p.toNat * 67108864 + la.toNat * 4194304
  | .mmacVs d a b f p la => 83 + d.toNat * 128 + a.toNat * 4096 + b.toNat * 131072 + f.toNat * 536870912 + p.toNat * 67108864 + la.toNat * 4194304
  | .mmacSs d a b f p la => 85 + d.toNat * 128 + a.toNat * 4096 + b.toNat * 131072 + f.toNat * 536870912 + p.toNat * 67108864 + la.toNat * 4194304
  | .mzero d la => 87 + d.toNat * 128 + la.toNat * 4194304
  | .mload d a la => 67108951 + d.toNat * 128 + a.toNat * 4096 + la.toNat * 4194304
  | .mstore d a la => 134217815 + d.toNat * 128 + a.toNat * 4096 + la.toNat * 4194304
  | .mdrain d a b la => 201326679 + d.toNat * 128 + a.toNat * 4096 + b.toNat * 131072 + la.toNat * 4194304
  | .hret => 268435543
  | .mpin d a b => 335544407 + d.toNat * 128 + a.toNat * 4096 + b.toNat * 131072
  | .mfree d => 402653271 + d.toNat * 128
  | .mspill d la => 469762135 + d.toNat * 128 + la.toNat * 4194304
  | .mfill d la => 536870999 + d.toNat * 128 + la.toNat * 4194304
  | .mown d a la => 603979863 + d.toNat * 128 + a.toNat * 4096 + la.toNat * 4194304
  | .fwdelta d a b f la => 89 + d.toNat * 128 + a.toNat * 4096 + b.toNat * 131072 + f.toNat * 67108864 + la.toNat * 4194304
  | .fwchunk d n la => 2147483737 + d.toNat * 128 + n.toNat * 67108864 + la.toNat * 4194304
  | .fwread d a la => 2684354649 + d.toNat * 128 + a.toNat * 4096 + la.toNat * 4194304
  | .vaddH d a m => 0 + d.toNat * 32 + a.toNat * 1024 + m.toNat * 32768
  | .vsubH d a m => 2 + d.toNat * 32 + a.toNat * 1024 + m.toNat * 32768
  | .vmulH d a m => 4 + d.toNat * 32 + a.toNat * 1024 + m.toNat * 32768
  | .vminH d a m => 6 + d.toNat * 32 + a.toNat * 1024 + m.toNat * 32768
  | .vmaxH d a m => 8 + d.toNat * 32 + a.toNat * 1024 + m.toNat * 32768
  | .vandH d a m => 10 + d.toNat * 32 + a.toNat * 1024 + m.toNat * 32768
  | .vorH d a m => 12 + d.toNat * 32 + a.toNat * 1024 + m.toNat * 32768
  | .vxorH d a m => 14 + d.toNat * 32 + a.toNat * 1024 + m.toNat * 32768
  | .vmovH d a m => 16 + d.toNat * 32 + a.toNat * 1024 + m.toNat * 32768
  | .vneg d a m => 18 + d.toNat * 32 + a.toNat * 1024 + m.toNat * 32768
  | .vabs d a m => 20 + d.toNat * 32 + a.toNat * 1024 + m.toNat * 32768
  | .vselH d a => 22 + d.toNat * 32 + a.toNat * 1024
  | .vrelu d a m => 24 + d.toNat * 32 + a.toNat * 1024 + m.toNat * 32768
  | .vrsub d a m => 26 + d.toNat * 32 + a.toNat * 1024 + m.toNat * 32768
  | .vzero d a m => 28 + d.toNat * 32 + a.toNat * 1024 + m.toNat * 32768
  | .vswap d a => 30 + d.toNat * 32 + a.toNat * 1024
  | .notifyWrite _ _ _ _ => 0
  | .slotRead _ _ => 0
  | .staleSlotReread _ _ => 0
  | .launch _ _ _ => 0
  | .front _ _ _ => 0
  | .marker _ _ => 0
  | .queueEnable _ _ => 0
  | .queueDisable _ _ => 0
  | .queueAck _ _ _ => 0
  | .seedWrite _ _ => 0
  | .contextSave _ => 0
  | .teamResume _ _ _ _ => 0
  | .commandComplete _ _ _ => 0
  | .levelDispatch _ _ => 0
  | .commitArrival _ _ => 0
  | .stall _ _ _ => 0
  | .lvRecordStage _ => 0
  | .lvRecordApply => 0
  | .streamDeadlock _ => 0
  | .longOpComplete _ _ _ _ => 0
  | .storeRefusal _ _ => 0
  | .storeAck _ _ => 0
  | .queueEntryFill _ _ => 0
  | .pageFaultPark _ _ _ => 0
  | .replayAll => 0
  | .fbHeadWrite _ => 0
  | .ttInval _ => 0
  | .ttInvalDone => 0
  | .copyJobComplete _ _ _ => 0
  | .copyJobFaultEnd _ _ => 0
  | .barrierReturn _ => 0
  | .homeSliceServe _ _ => 0
  | .clusterAtomicServe _ _ => 0
  | .atomicPromote _ _ => 0
  | .fullEmptyWake _ _ => 0
  | .tileReadyResume _ _ => 0
  | .gangMeet _ => 0
  | .dsyncComplete _ => 0
  | .remoteDsyncArrival _ _ => 0
  | .gsyncComplete _ => 0
  | .waitpReturn _ => 0
  | .partReset _ => 0
  | .purgeComplete _ => 0
  | .rectReturnToService _ => 0
  | .iftPeriodic _ => 0
  | .iftNow _ => 0
  | .iftTestComplete _ _ => 0
  | .getTest => 0
  | .setConfig => 0
  | .attest => 0
  | .getFailrec => 0
  | .fwUpdate => 0
  | .mailboxResponse _ => 0
  | .powerGood _ => 0
  | .hostLinkDown _ => 0
  | .powerThrottle _ _ => 0
  | .thermalTrip => 0
  | .netPacketPromote _ _ => 0
  | .replayDiverge _ => 0
  | .hostCxlMemAccess _ _ => 0
  | .remoteDomainAccess _ => 0
  | .registerWrite _ _ _ => 0
  | .illegalInstruction _ => 0
  | .fetchProtectionFault _ => 0
  | .hostCoherenceRequest _ _ => 0
  | .ngucyLinkDown _ => 0
  | .flitCrcFailure _ => 0
  | .deviceReset _ => 0

/-- The instruction word, a halfword zero-extended (R122). -/
def encode (i : Instr) : BitVec 32 := .ofNat 32 i.encNat

/-- The bytes of a word as memory holds them, lowest address first (R4). -/
def wordBytes (w : Nat) : List Byte :=
  [.ofNat 8 w, .ofNat 8 (w / 256), .ofNat 8 (w / 65536), .ofNat 8 (w / 16777216)]

/-- The bytes of an instruction as memory holds them: two or four (R82). -/
def encodeBytes (i : Instr) : List Byte := (wordBytes i.encNat).take (i.bits / 8)

/-- The instruction this decoder reads from a table word of `nbits` bits, further bytes zero. -/
def decodeTableWord (nbits w : Nat) : Option Instr :=
  match decode (wordBytes (w % 2 ^ nbits)) with
  | .ok i _ => some i
  | .reject _ => none

end Sys2Proof
end

