-- ==== Sys2Proof/Machine/Memory.lean ====
section
/-! DEFINITION. Memory as a canonical list of cells, and little-endian bytes (spec/00_scope.md R4). -/

namespace Sys2Proof.Machine

/-- What an address that nothing has written reads as (log entry 1, DESIGN CHOICE: the spec gives power-on memory no contents). -/
def unlistedByte : Byte := 0

/-- The byte at an address. -/
def Memory.get (m : Memory) (a : Nat) : Byte :=
  match m with
  | [] => unlistedByte
  | (k, b) :: rest => if a = k then b else Memory.get rest a

/-- The memory without any cell at the address. -/
def Memory.erase (m : Memory) (a : Nat) : Memory :=
  match m with
  | [] => []
  | (k, b) :: rest => if a = k then Memory.erase rest a else (k, b) :: Memory.erase rest a

/-- The memory with a cell put in its place, replacing the one of the same address. -/
def Memory.insert (m : Memory) (a : Nat) (b : Byte) : Memory :=
  match m with
  | [] => [(a, b)]
  | (k, x) :: rest =>
    if a < k then (a, b) :: (k, x) :: rest
    else if a = k then (a, b) :: rest
    else (k, x) :: Memory.insert rest a b

/-- One byte written, the canonical form kept: a byte that an unlisted address reads as is not listed. -/
def Memory.set (m : Memory) (a : Nat) (b : Byte) : Memory :=
  if b = unlistedByte then Memory.erase m a else Memory.insert m a b

/-- `n` bytes from an address, lowest first. -/
def Memory.read (m : Memory) (a : Nat) : Nat → List Byte
  | 0 => []
  | n + 1 => Memory.get m a :: Memory.read m (a + 1) n

/-- Bytes written from an address on. -/
def Memory.write (m : Memory) (a : Nat) : List Byte → Memory
  | [] => m
  | b :: bs => Memory.write (Memory.set m a b) (a + 1) bs

/-- `n` bytes made to read as unwritten. -/
def Memory.clear (m : Memory) (a : Nat) : Nat → Memory
  | 0 => m
  | n + 1 => Memory.clear (Memory.erase m a) (a + 1) n

/-- Every address of the list lies above `lo`, the addresses rise, and no byte is the unlisted one. -/
def Memory.sortedFrom (lo : Nat) : Memory → Bool
  | [] => true
  | (k, b) :: rest => decide (lo ≤ k) && b != unlistedByte && Memory.sortedFrom (k + 1) rest

/-- The canonical form. -/
def Memory.wf (m : Memory) : Bool := Memory.sortedFrom 0 m

/-- The number that bytes hold, least significant first (R4). -/
def bytesNat : List Byte → Nat
  | [] => 0
  | b :: bs => b.toNat + 256 * bytesNat bs

/-- The `n` low bytes of a number, least significant first (R4). -/
def natBytes (v : Nat) : Nat → List Byte
  | 0 => []
  | n + 1 => .ofNat 8 v :: natBytes (v / 256) n

/-- A 64-bit word in memory. -/
def Memory.word (m : Memory) (a : Nat) : Word := .ofNat 64 (bytesNat (Memory.read m a 8))

/-- A number inserted in a rising list without repeats. -/
def insertNat (a : Nat) : List Nat → List Nat
  | [] => [a]
  | k :: rest => if a < k then a :: k :: rest else if a = k then k :: rest else k :: insertNat a rest

/-- An update at one place of a list. -/
def modifyAt {α : Type} (f : α → α) : Nat → List α → List α
  | _, [] => []
  | 0, x :: xs => f x :: xs
  | n + 1, x :: xs => x :: modifyAt f n xs

/-- The list without the element at one place. -/
def dropAt {α : Type} : Nat → List α → List α
  | _, [] => []
  | 0, _ :: xs => xs
  | n + 1, x :: xs => x :: dropAt n xs

/-- Bits [lo + w − 1 : lo] of a number. -/
def bitField (v lo w : Nat) : Nat := v / 2 ^ lo % 2 ^ w

end Sys2Proof.Machine
end

