-- ==== Sys2Proof/Machine/Parts.lean ====
section
/-! DEFINITION. The parts of the state and how they are read and written: registers, cores, contexts, queues, commands and fronts. -/

namespace Sys2Proof.Machine

/-- What a step answers. -/
abbrev Out := Host.Outcome State Fault Refusal

/-! ### Registers of one stream -/

/-- Reads a g register; g0 reads zero (R94). -/
def Stream.getG (st : Stream) (n : Nat) : Word := if n = 0 then 0 else st.g[n]?.getD 0

/-- Writes a g register; a write to g0 is discarded (R94). -/
def Stream.setG (st : Stream) (n : Nat) (v : Word) : Stream :=
  if n = 0 then st else { st with g := st.g.setIfInBounds n v }

/-- The stream of a core. -/
def Core.str (k : Core) : StreamId → Stream
  | .a => k.a
  | .c => k.c

/-- A core with one stream replaced. -/
def Core.setStr (k : Core) (x : StreamId) (st : Stream) : Core :=
  match x with
  | .a => { k with a := st }
  | .c => { k with c := st }

/-- A core with one stream changed. -/
def Core.updStr (k : Core) (x : StreamId) (f : Stream → Stream) : Core := k.setStr x (f (k.str x))

/-- The f register (R94). -/
def Core.getF (k : Core) (n : Nat) : FReg := k.f[n]?.getD ⟨0, 0⟩

def Core.setF (k : Core) (n : Nat) (r : FReg) : Core := { k with f := k.f.setIfInBounds n r }

/-- The v register (R94). -/
def Core.getV (k : Core) (n : Nat) : VReg := k.v[n]?.getD ⟨0, 0⟩

def Core.setV (k : Core) (n : Nat) (r : VReg) : Core := { k with v := k.v.setIfInBounds n r }

def Core.getTile (k : Core) (n : Nat) : Tile := k.tiles[n]?.getD .zero

def Core.setTile (k : Core) (n : Nat) (t : Tile) : Core := { k with tiles := k.tiles.setIfInBounds n t }

def Core.getAot (k : Core) (n : Nat) : AotEntry := k.aot[n]?.getD .free

def Core.setAot (k : Core) (n : Nat) (e : AotEntry) : Core := { k with aot := k.aot.setIfInBounds n e }

def Core.getEntry (k : Core) (n : Nat) : TileEntry := k.tileTab[n]?.getD .empty

def Core.setEntry (k : Core) (n : Nat) (e : TileEntry) : Core := { k with tileTab := k.tileTab.setIfInBounds n e }

def Core.getQueue (k : Core) (n : Nat) : List QEntry := k.queues[n]?.getD []

def Core.setQueue (k : Core) (n : Nat) (es : List QEntry) : Core := { k with queues := k.queues.setIfInBounds n es }

/-- cidx of the core in its cluster (R9). -/
def Core.cidx (k : Core) : Nat := k.pid % 8

/-- Cluster id of the core (R9). -/
def Core.cluster (k : Core) : Nat := k.pid / 8

/-- The full/empty bit of a scratchpad word (R150). -/
def Core.isFull (k : Core) (w : Nat) : Bool := k.full.contains w

def Core.setFull (k : Core) (w : Nat) (b : Bool) : Core :=
  { k with full := if b then insertNat w k.full else k.full.filter (fun x => x != w) }

/-! ### The machine's parts -/

/-- The core of a number; one that holds nothing is as reset leaves it. -/
def State.coreAt (s : State) (pid : Nat) : Core :=
  if s.core.pid = pid then s.core else (s.cores.find? (fun k => k.pid == pid)).getD (Core.init pid)

/-- A core put in a list that is rising by number. -/
def putCore (k : Core) : List Core → List Core
  | [] => [k]
  | x :: rest => if k.pid < x.pid then k :: x :: rest else if k.pid = x.pid then k :: rest else x :: putCore k rest

/-- The machine with one core replaced. -/
def State.setCore (s : State) (k : Core) : State :=
  if s.core.pid = k.pid then { s with core := k } else { s with cores := putCore k s.cores }

def State.updCore (s : State) (pid : Nat) (f : Core → Core) : State := s.setCore (f (s.coreAt pid))

/-- The machine with the given core as the one whose turn it is. -/
def State.select (s : State) (pid : Nat) : State :=
  if s.core.pid = pid then s
  else { s with core := s.coreAt pid, cores := putCore s.core (s.cores.filter (fun k => k.pid != pid)) }

/-- Every core that the machine lists. -/
def State.allCores (s : State) : List Core := s.core :: s.cores

/-- The stream whose instruction is being issued. -/
def State.cur (s : State) : Stream := s.core.str s.core.sel

def State.updCur (s : State) (f : Stream → Stream) : State := { s with core := s.core.updStr s.core.sel f }

/-- g register of the issuing stream. -/
def State.g (s : State) (n : BitVec 5) : Word := s.cur.getG n.toNat

def State.setG (s : State) (n : BitVec 5) (v : Word) : State := s.updCur (fun st => st.setG n.toNat v)

def State.setF (s : State) (n : Nat) (r : FReg) : State := { s with core := s.core.setF n r }

def State.setV (s : State) (n : Nat) (r : VReg) : State := { s with core := s.core.setV n r }

def State.setPc (s : State) (pc : Word) : State := s.updCur (fun st => { st with pc := pc })

def State.updSys (s : State) (f : SysRegs → SysRegs) : State := { s with core := { s.core with sys := f s.core.sys } }

def State.clusterAt (s : State) (id : Nat) : Cluster := (s.clusters.find? (fun c => c.id == id)).getD (Cluster.init id)

def putCluster (c : Cluster) : List Cluster → List Cluster
  | [] => [c]
  | x :: rest => if c.id < x.id then c :: x :: rest else if c.id = x.id then c :: rest else x :: putCluster c rest

def State.updCluster (s : State) (id : Nat) (f : Cluster → Cluster) : State :=
  { s with clusters := putCluster (f (s.clusterAt id)) s.clusters }

/-- In-service clusters of the device: CL.COUNT (R46, R56). -/
def State.clCount (s : State) : Nat := 256 - (s.clusters.filter (fun c => c.retired)).length

def State.ctxAt (s : State) (id : Nat) : Context := (s.contexts.find? (fun c => c.id == id)).getD (Context.init id)

def putCtx (c : Context) : List Context → List Context
  | [] => [c]
  | x :: rest => if c.id < x.id then c :: x :: rest else if c.id = x.id then c :: rest else x :: putCtx c rest

def State.updCtx (s : State) (id : Nat) (f : Context → Context) : State :=
  { s with contexts := putCtx (f (s.ctxAt id)) s.contexts }

def Context.queueAt (c : Context) (q : Nat) : Queue := ((c.queues.find? (fun x => x.1 == q)).map (·.2)).getD .init

def putQueue (q : Nat) (v : Queue) : List (Nat × Queue) → List (Nat × Queue)
  | [] => [(q, v)]
  | x :: rest => if q < x.1 then (q, v) :: x :: rest else if q = x.1 then (q, v) :: rest else x :: putQueue q v rest

def State.queueAt (s : State) (ctx q : Nat) : Queue := (s.ctxAt ctx).queueAt q

def State.updQueue (s : State) (ctx q : Nat) (f : Queue → Queue) : State :=
  s.updCtx ctx (fun c => { c with queues := putQueue q (f (c.queueAt q)) c.queues })

/-- The running number of the next slot to be accepted: one that has been fetched may still wait for its acceptance (R24, R365). -/
def Queue.nextSeq (x : Queue) : BitVec 32 := if x.fetched.isSome then x.head - 1 else x.head

/-- The live command of a running number. -/
def State.cmdAt (s : State) (ctx q : Nat) (seq : BitVec 32) : Option Command :=
  (s.queueAt ctx q).cmds.find? (fun c => c.seq == seq)

def State.updCmd (s : State) (ctx q : Nat) (seq : BitVec 32) (f : Command → Command) : State :=
  s.updQueue ctx q (fun x => { x with cmds := x.cmds.map (fun c => if c.seq == seq then f c else c) })

/-- The command of the task on the current core. -/
def State.taskCmd (s : State) : Option Command :=
  match s.core.task with
  | some t => s.cmdAt t.ctx t.queue t.seq
  | none => none

def State.updFront (s : State) (ctx q : Nat) (seq : BitVec 32) (f : Front → Front) : State :=
  s.updCmd ctx q seq (fun c => { c with front := c.front.map f })

/-- The front of an update or stall task, with the block it runs or describes. -/
def State.taskFront (s : State) : Option (Front × Nat) :=
  match s.core.task with
  | none => none
  | some t =>
    match t.kind, (s.cmdAt t.ctx t.queue t.seq).bind (·.front) with
    | .update b, some f => some (f, b)
    | .stall b, some f => some (f, b)
    | _, _ => none

def State.updTaskFront (s : State) (f : Front → Front) : State :=
  match s.core.task with
  | none => s
  | some t => s.updFront t.ctx t.queue t.seq f

/-- The kernel of the running task has NOREPLAY set (R17, R159). -/
def State.noReplay (s : State) : Bool :=
  match s.core.task with
  | some t => t.kernel.noReplay
  | none => false

/-- Whether the running task is an update task of a front (R69). -/
def State.isUpdate (s : State) : Bool :=
  match s.core.task with
  | some t => match t.kind with
    | .update _ => true
    | _ => false
  | none => false

/-- Whether the running task is the stall task of a front (R67). -/
def State.isStall (s : State) : Bool :=
  match s.core.task with
  | some t => match t.kind with
    | .stall _ => true
    | _ => false
  | none => false

def State.updTask (s : State) (f : Task → Task) : State := { s with core := { s.core with task := s.core.task.map f } }

def State.updDev (s : State) (f : Device → Device) : State := { s with dev := f s.dev }

/-- Raises a message-signalled interrupt (R31, R352). -/
def State.raiseMsi (s : State) (v : Nat) : State := { s with dev := { s.dev with msix := s.dev.msix ++ [v] } }

end Sys2Proof.Machine
end

