-- ==== Sys2Proof/Machine/Paging.lean ====
section
/-! DEFINITION. Generic addresses, the on-chip map, the translation tree and single accesses
(spec/07_scalar_instructions.md R138, spec/08_memory.md R140 to R159). -/

namespace Sys2Proof.Machine

/-! ### Generic addresses -/

/-- Kind, index and offset of a generic address (R138). -/
structure Aperture where
  kind  : Nat
  index : Nat
  off   : Nat
deriving DecidableEq, Repr

/-- Base of an aperture kind (R138). -/
def apBase : Nat → Nat
  | 2 => 0xFFE0000000000000
  | 3 => 0xFFF0000000000000
  | 4 => 0xFFF1000000000000
  | 5 => 0xFFF2000000000000
  | 6 => 0xFFF8000000000000
  | _ => 0

/-- Bits of the index field of a kind (R138). -/
def apIndexBits : Nat → Nat
  | 2 => 10
  | 4 => 3
  | 5 => 11
  | 6 => 11
  | _ => 0

/-- Place of the index field of a kind (R138). -/
def apShift : Nat → Nat
  | 2 => 40
  | 3 => 19
  | 4 => 20
  | 5 => 20
  | 6 => 24
  | _ => 56

/-- The limit on the offset of a kind (R138). -/
def apLimit : Nat → Nat
  | 1 => 2 ^ 56
  | 2 => 2 ^ 40
  | 3 => 0x60000
  | 4 => 0x60000
  | 5 => 0x60000
  | 6 => 2 ^ 24
  | _ => 0

/-- The address as a kind sees it, when it lies in that kind's aperture (R138). -/
def matchKind (a k : Nat) : Option Aperture :=
  let base := apBase k
  let sh := apShift k
  if base ≤ a then
    let r := a - base
    let ix := r / 2 ^ sh
    let off := r % 2 ^ sh
    if ix < 2 ^ apIndexBits k ∧ off < apLimit k then some ⟨k, ix, off⟩ else none
  else none

/-- The kind of an address (R138): kind 1 below 2^56, else the aperture whose base and limit it meets, else kind 0. -/
def aperture (addr : Word) : Aperture :=
  let a := addr.toNat
  if a < 2 ^ 56 then ⟨1, 0, a⟩
  else ((((matchKind a 2).or (matchKind a 3)).or (matchKind a 4)).or ((matchKind a 5).or (matchKind a 6))).getD ⟨0, 0, 0⟩

/-- The populated window of the on-chip map that holds an offset: its first and last byte (R141). -/
def windowOf (off : Nat) : Option (Nat × Nat) :=
  if off ≤ 0x05FFFF then some (0, 0x05FFFF)
  else if 0x800000 ≤ off ∧ off ≤ 0x807FFF then some (0x800000, 0x807FFF)
  else if 0xC00000 ≤ off ∧ off ≤ 0xC01FFF then some (0xC00000, 0xC01FFF)
  else if 0xE00000 ≤ off ∧ off ≤ 0xE003FF then some (0xE00000, 0xE003FF)
  else if 0xE01000 ≤ off ∧ off ≤ 0xE027FF then some (0xE01000, 0xE027FF)
  else none

/-- Who makes an access: the core it is issued from, its context and command, its mode, and whether an update task issues it. -/
structure Who where
  pid    : Nat
  ctx    : Nat
  queue  : Nat
  seq    : BitVec 32
  sup    : Bool
  update : Bool
deriving DecidableEq, Repr

/-- The issuing stream of the current core as an accessor. R140 bars update tasks from the team aperture: the model treats a stall task, which is
no team's either, in the same way (log entry 67, DESIGN CHOICE). -/
def State.who (s : State) : Who :=
  match s.core.task with
  | some t => ⟨s.core.pid, t.ctx, t.queue, t.seq, s.cur.mode == .sup, s.isUpdate || s.isStall⟩
  | none => ⟨s.core.pid, 0, 0, 0, s.cur.mode == .sup, false⟩

/-- TEAM.SIZE of the accessor's team (R46). -/
def State.teamSize (s : State) (w : Who) : Nat :=
  match s.cmdAt w.ctx w.queue w.seq with
  | some c => c.ntask
  | none => 0

/-- The offset of a kind-2 or kind-6 address in the on-chip map, and its core (R138, R140). -/
def Aperture.core (p : Aperture) : Nat × Nat :=
  if p.kind = 2 then (p.off / 2 ^ 24 % 2048, p.off % 2 ^ 24) else (p.index, p.off)

/-- The aperture and limit check of an access of `n` bytes (R140, R186 step 1): true when it passes. -/
def State.apertureOk (s : State) (w : Who) (addr : Word) (n : Nat) : Bool :=
  let p := aperture addr
  if p.kind = 0 then false
  else if apLimit p.kind < p.off + n then false
  else if p.kind = 5 then !w.update && decide (p.index < s.teamSize w)
  else if p.kind = 2 ∨ p.kind = 6 then
    (p.kind == 6 || decide (p.off < 2 ^ 35)) &&
    (match windowOf (p.core.2) with
      | some (_, last) => decide (p.core.2 + n ≤ last + 1)
      | none => false)
  else true

/-- An access to the register window is aligned and 8 bytes long (R142, R186 step 2). -/
def registerWindowOk (addr : Word) (n : Nat) : Bool :=
  let p := aperture addr
  if p.kind = 2 ∨ p.kind = 6 then
    let off := p.core.2
    if 0xC00000 ≤ off ∧ off ≤ 0xC01FFF then off % 8 == 0 && n == 8 else true
  else true

/-- A scratchpad target (R188). -/
def scratchTarget (addr : Word) : Bool :=
  let p := aperture addr
  p.kind == 3 || p.kind == 4 || p.kind == 5 || ((p.kind == 2 || p.kind == 6) && decide (p.core.2 ≤ 0x05FFFF))

/-! ### The translation tree -/

/-- The kinds of access, by the permission they need and the KIND a fault reports (R156, R161). -/
inductive Acc where
  | load | store | fetch | atomic | engRead | engWrite | feRead | feWrite
deriving DecidableEq, Repr

/-- KIND of a fault-buffer entry (R161). -/
def Acc.kindCode : Acc → Nat
  | .load => 0
  | .store => 1
  | .fetch => 2
  | .atomic => 3
  | .engRead => 4
  | .engWrite => 5
  | .feRead => 6
  | .feWrite => 6

/-- The leaf bits the access needs, as a mask over EX, WR and RD (R155, R156, R365). -/
def Acc.need : Acc → Nat
  | .load => 4
  | .store => 8
  | .fetch => 16
  | .atomic => 12
  | .engRead => 4
  | .engWrite => 8
  | .feRead => 4
  | .feWrite => 12

/-- Lowest address bit of the index of a table level (R154). -/
def levelShift : Nat → Nat
  | 0 => 16
  | 1 => 21
  | 2 => 29
  | 3 => 38
  | _ => 47

/-- Bits of the index of a table level (R154). -/
def levelBits : Nat → Nat
  | 0 => 5
  | 1 => 8
  | _ => 9

/-- The region that an entry of a level maps: its first byte (R160). -/
def regionBase (level va : Nat) : Nat := va / 2 ^ levelShift level * 2 ^ levelShift level

/-- An entry with V = 1 that breaks R155. -/
def malformed (level : Nat) (e : Nat) : Bool :=
  let leaf := bitField e 1 1
  let addr := bitField e 12 44
  let hm := bitField e 10 1
  bitField e 56 8 != 0 || bitField e 11 1 != 0
    || (leaf == 1 && decide (2 ≤ level)) || (leaf == 0 && level == 0)
    || (leaf == 0 && (bitField e 8 2 != 0 || bitField e 2 6 != 0))
    || (leaf == 1 && addr % 2 ^ (levelShift level - 12) != 0)
    || bitField e 8 2 == 3
    || (hm == 0 && decide (Config.pooledBytes ≤ addr * 4096))

/-- Where a walk ends: a leaf with its level, an invalid entry, or a refusal (R156). -/
inductive Walk where
  | leaf (level : Nat) (entry : Nat)
  | invalid (level : Nat)
  | refused
deriving DecidableEq, Repr

/-- Host memory can be reached: a host port is up (R348). -/
def State.hostUp (s : State) : Bool := s.dev.hostPorts != 0

/-- The host answers the context's translated requests (R349), over a port that is up (R348). -/
def State.hostServes (s : State) (ctx : Nat) : Bool := s.hostUp && !s.dev.refused.contains (s.ctxAt ctx).pasid

/-- A 64-bit word of physical memory; none when it lies in host memory and the host does not answer the context (R348, R349).
Pooled memory past its end reads as unlisted memory does (log entry 60, DESIGN CHOICE). -/
def State.physWord (s : State) (ctx : Nat) (hm : Bool) (pa : Nat) : Option Nat :=
  if hm then (if s.hostServes ctx then some (bytesNat (Memory.read s.host pa 8)) else none)
  else some (bytesNat (Memory.read s.pool pa 8))

/-- The walk from a table of a level down (R154 to R156). A TT.ROOT with HM = 0 that points past pooled memory finds entries with V = 0 there
and so ends as a page fault (log entry 60, DESIGN CHOICE). -/
def State.walk (s : State) (ctx va : Nat) : Nat → Bool → Nat → Walk
  | level, hm, table =>
    match s.physWord ctx hm (table + 8 * (va / 2 ^ levelShift level % 2 ^ levelBits level)) with
    | none => .refused
    | some e =>
      if e % 2 = 0 then .invalid level
      else if malformed level e then .refused
      else if bitField e 1 1 = 1 then .leaf level e
      else
        match level with
        | 0 => .refused
        | l + 1 => s.walk ctx va l (bitField e 10 1 == 1) (bitField e 12 44 * 4096)

/-- A cached translation of the address in the core's TLB (R158). -/
def State.tlbHit (s : State) (pid ctx va : Nat) : Option TlbEntry :=
  (s.coreAt pid).tlb.find? (fun t => t.ctx == ctx && t.base == regionBase t.level va)

/-- The leaf for a virtual address: a cached one, else the walk from TT.ROOT (R154, R158). -/
def State.leafFor (s : State) (w : Who) (va : Nat) : Walk :=
  match s.tlbHit w.pid w.ctx va with
  | some t => .leaf t.level t.entry.toNat
  | none =>
    let root := (s.ctxAt w.ctx).ttRoot.toNat
    s.walk w.ctx va 4 (root % 2 == 1) (bitField root 12 44 * 4096)

/-- Where an access lands. -/
inductive Chunk where
  | phys (hm : Bool) (pa len ord cache page level : Nat)
  | spad (pid off len : Nat)
  | win (pid off len : Nat)
  | peer (dev off len : Nat)
deriving DecidableEq, Repr

/-- What locating an access finds. -/
inductive Locate where
  | ok (cs : List Chunk)
  /-- Refused with cause 0x07. -/
  | deny
  /-- A page fault: level, region and first faulting address (R156). -/
  | fault (level base : Nat) (va : Word)
deriving DecidableEq, Repr

/-- One page's part of an access (R156). A 2 MiB page that begins inside pooled memory and runs past its end is no malformed entry by R155:
accesses past the end go on (log entry 60, DESIGN CHOICE). -/
def State.locatePage (s : State) (w : Who) (acc : Acc) (va len : Nat) : Locate :=
  match s.leafFor w va with
  | .refused => .deny
  | .invalid level => .fault level (regionBase level va) (.ofNat 64 va)
  | .leaf level e =>
    let hm := bitField e 10 1 == 1
    if (e / 4 % 8 * 4) &&& acc.need != acc.need then .deny
    else if bitField e 5 1 = 0 ∧ !w.sup then .deny
    else if hm && !s.hostServes w.ctx then .deny
    else
      let pa := bitField e 12 44 * 4096 + va % 2 ^ levelShift level
      .ok [.phys hm pa len (bitField e 6 2) (bitField e 8 2) (regionBase level va) level]

/-- Two parts of one access together: a refusal of either refuses the whole, otherwise the first fault parks it (R157). Which of the two wins
when one part is refused and the other meets a missing page the spec does not say (log entry 59, DESIGN CHOICE). -/
def Locate.both (x y : Locate) : Locate :=
  match x, y with
  | .ok xs, .ok ys => .ok (xs ++ ys)
  | .deny, _ => .deny
  | _, .deny => .deny
  | .fault l b v, _ => .fault l b v
  | _, .fault l b v => .fault l b v

/-- An access page by page, over `k` pages after the first (R157). -/
def State.locatePages (s : State) (w : Who) (acc : Acc) : Nat → Nat → Nat → Locate
  | 0, va, n => s.locatePage w acc va n
  | k + 1, va, n =>
    let first := 65536 - va % 65536
    if n ≤ first then s.locatePage w acc va n
    else (s.locatePage w acc va first).both (s.locatePages w acc k (va + first) (n - first))

/-- A kind-1 access: every 64 KiB page that it meets is translated (R154, R157). -/
def State.locateVirtual (s : State) (w : Who) (acc : Acc) (va n : Nat) : Locate := s.locatePages w acc (n / 65536 + 1) va n

/-- The core runs a task of the context, one that has not exited (R140, R47, R54). -/
def State.runsCtx (s : State) (pid ctx : Nat) : Bool :=
  match (s.coreAt pid).task with
  | some t => t.ctx == ctx && !t.left
  | none => false

/-- The core runs a task of the context's level-4 team (R140). -/
def State.runsLevel4 (s : State) (pid ctx : Nat) : Bool :=
  match (s.coreAt pid).task with
  | some t => t.ctx == ctx && !t.left && (match t.kind with
    | .team => (s.coreAt pid).sys.domLevel == 4
    | _ => false)
  | none => false

/-- An accumulator-window access reaches only tiles of the context (R143). -/
def State.tilesOwned (s : State) (pid ctx off n : Nat) : Bool :=
  if 0x800000 ≤ off ∧ off ≤ 0x807FFF then
    let k := s.coreAt pid
    let lo := (off - 0x800000) / 1024
    let hi := (off + n - 1 - 0x800000) / 1024
    let mine := fun t => (k.getAot t).state != .free && (k.getAot t).owner == ctx
    mine lo && mine hi
  else true

/-- A target on the on-chip map of a core (R140, R141). -/
def onChip (pid off n : Nat) : Chunk := if off ≤ 0x05FFFF then .spad pid off n else .win pid off n

/-- The devices that an accessor's kind-2 addresses may name (R140): the set read at the acceptance of its level-4 command, else the one that
the context's last level-4 command read (R355). -/
def State.domDevices (s : State) (w : Who) : List Nat :=
  match s.cmdAt w.ctx w.queue w.seq with
  | some c => if c.dom = 4 then c.domSet else (s.ctxAt w.ctx).domSet
  | none => (s.ctxAt w.ctx).domSet

/-- Where an access lands that has passed its aperture and alignment checks (R140, R186 step 4). -/
def State.locate (s : State) (w : Who) (acc : Acc) (addr : Word) (n : Nat) : Locate :=
  let p := aperture addr
  match p.kind with
  | 1 => s.locateVirtual w acc p.off n
  | 3 => .ok [.spad w.pid p.off n]
  | 4 =>
    let pid := w.pid / 8 * 8 + p.index
    if s.runsCtx pid w.ctx then .ok [.spad pid p.off n] else .deny
  | 5 =>
    match (s.cmdAt w.ctx w.queue w.seq).bind (fun c => (c.teamMap[p.index]?).getD none) with
    | some pid => .ok [.spad pid p.off n]
    | none => .deny
  | 2 =>
    let (pid, off) := p.core
    if !(s.domDevices w).contains p.index then .deny
    else if p.index = s.dev.domNum.toNat then
      if w.sup then
        (if s.runsCtx pid w.ctx && s.tilesOwned pid w.ctx off n then .ok [onChip pid off n] else .deny)
      else if off ≤ 0x05FFFF ∧ s.runsLevel4 pid w.ctx then .ok [onChip pid off n] else .deny
    else if !w.sup && decide (0x05FFFF < off) then .deny
    else if s.dev.links != 0 && s.dev.peers.contains p.index && Config.peerAdmits s.free then .ok [.peer p.index p.off n]
    else .deny
  | 6 =>
    let (pid, off) := p.core
    if w.sup && s.runsCtx pid w.ctx && s.tilesOwned pid w.ctx off n then .ok [onChip pid off n] else .deny
  | _ => .deny

/-- Location scope of an access (R264): by the place the target holds relative to the issuing core. -/
def State.locationScope (s : State) (w : Who) (addr : Word) : Nat :=
  let far := fun (pid : Nat) =>
    let quad := fun (p : Nat) => p / 8 / 128 * 2 + p / 8 % 16 / 8
    if pid = w.pid then 0 else if pid / 8 = w.pid / 8 then 1 else if quad pid = quad w.pid then 2 else 3
  let p := aperture addr
  match p.kind with
  | 2 => 5
  | 3 => 0
  | 4 => far (w.pid / 8 * 8 + p.index)
  | 5 =>
    match (s.cmdAt w.ctx w.queue w.seq).bind (fun c => (c.teamMap[p.index]?).getD none) with
    | some pid => far pid
    | none => 3
  | 6 => far p.core.1
  | _ =>
    match s.leafFor w p.off with
    | .leaf _ e => if bitField e 10 1 = 1 then 4 else 3
    | _ => 3

/-- Page kind of an access (R157, R265): 0 SO, 1 HT, 2 RC, 3 UO, the stronger of two pages; scratchpads and windows behave as RC. -/
def chunksOrd (cs : List Chunk) : Nat :=
  cs.foldl (fun acc c => match c with
    | .phys _ _ _ ord _ _ _ => min acc ord
    | _ => min acc 2) 3

/-! ### Reading and writing where an access has landed -/

/-- One byte of the accumulator window (R141). -/
def Core.tileByte (k : Core) (off : Nat) : Byte :=
  let o := off - 0x800000
  .ofNat 8 ((((k.getTile (o / 1024)).elems[o % 1024 / 4]?).getD 0).toNat / 256 ^ (o % 4))

/-- One byte of the accumulator window written; the tile keeps its tag. -/
def Core.setTileByte (k : Core) (off : Nat) (b : Byte) : Core :=
  let o := off - 0x800000
  let t := k.getTile (o / 1024)
  let e := ((t.elems[o % 1024 / 4]?).getD 0).toNat
  let sh := 256 ^ (o % 4)
  k.setTile (o / 1024)
    { t with elems := t.elems.setIfInBounds (o % 1024 / 4) (.ofNat 32 (e - e / sh % 256 * sh + b.toNat * sh)) }

/-- A slot of the register window (R142). -/
def Core.regSlot (k : Core) (off : Nat) : Word :=
  let o := off - 0xC00000
  if o < 0x100 then k.a.getG (o / 8)
  else if o < 0x200 then k.c.getG ((o - 0x100) / 8)
  else if o < 0x300 then (k.getF ((o - 0x200) / 8)).bits
  else if o < 0x400 then (k.getF ((o - 0x300) / 8)).fmt.zeroExtend 64
  else if 0x1000 ≤ o ∧ o < 0x1600 then
    ((k.getV ((o - 0x1000) / 64)).bits >>> ((o - 0x1000) % 64 * 8)).truncate 64
  else if 0x1800 ≤ o ∧ o < 0x18C0 then (k.getV ((o - 0x1800) / 8)).fmt.zeroExtend 64
  else 0

/-- A format word as a write leaves it: SCALE is zero with every tag other than qfx16 and qfx32, reserved bits read zero (R96, R142). -/
def cleanFmt (w : BitVec 16) : BitVec 16 :=
  if w.toNat % 16 = 11 ∨ w.toNat % 16 = 12 then .ofNat 16 (w.toNat % 1024) else .ofNat 16 (w.toNat % 16)

/-- 64 bits of a 512-bit value replaced. -/
def putWord512 (v : BitVec 512) (k : Nat) (w : Word) : BitVec 512 :=
  (v &&& ~~~((allOnes64.zeroExtend 512) <<< (64 * k))) ||| ((w.zeroExtend 512) <<< (64 * k))

/-- A slot of the register window written (R142). -/
def Core.setRegSlot (k : Core) (off : Nat) (v : Word) : Core :=
  let o := off - 0xC00000
  if o < 0x100 then { k with a := k.a.setG (o / 8) v }
  else if o < 0x200 then { k with c := k.c.setG ((o - 0x100) / 8) v }
  else if o < 0x300 then k.setF ((o - 0x200) / 8) { k.getF ((o - 0x200) / 8) with bits := v }
  else if o < 0x400 then k.setF ((o - 0x300) / 8) { k.getF ((o - 0x300) / 8) with fmt := cleanFmt (v.truncate 16) }
  else if 0x1000 ≤ o ∧ o < 0x1600 then
    let i := (o - 0x1000) / 64
    k.setV i { k.getV i with bits := putWord512 (k.getV i).bits ((o - 0x1000) % 64 / 8) v }
  else if 0x1800 ≤ o ∧ o < 0x18C0 then
    let i := (o - 0x1800) / 8
    k.setV i { k.getV i with fmt := cleanFmt (v.truncate 16) }
  else k

/-- The low 64 bits of a tile-table entry (R148). -/
def TileEntry.low (e : TileEntry) : Nat :=
  let st := match e.state with
    | .empty => 0
    | .filling => 1
    | .ready => 2
    | .draining => 3
  st + e.layout * 4 + e.jobs * 256 + e.base * 65536 + e.rows * 2 ^ 48

/-- A tile-table entry as 128 bits (R148). -/
def TileEntry.bits (e : TileEntry) : Nat := e.low + e.pitch * 2 ^ 64 + e.rowBytes * 2 ^ 80

/-- One byte of a core's on-chip map outside the scratchpad (R141). -/
def Core.winByte (k : Core) (off : Nat) : Byte :=
  if off ≤ 0x807FFF then k.tileByte off
  else if off ≤ 0xC01FFF then .ofNat 8 ((k.regSlot (off / 8 * 8)).toNat / 256 ^ (off % 8))
  else if off ≤ 0xE003FF then
    .ofNat 8 ((k.getEntry ((off - 0xE00000) / 16)).bits / 256 ^ ((off - 0xE00000) % 16))
  else
    let w := 8 * (off - 0xE01000)
    .ofNat 8 ((List.range 8).foldl (fun acc i => acc + (if k.isFull (w + i) then 2 ^ i else 0)) 0)

/-- Bytes of an on-chip window written: tile elements, registers, the full/empty view; the tile table ignores writes (R141, R148, R150). -/
def Core.setWinByte (k : Core) (off : Nat) (b : Byte) : Core :=
  if off ≤ 0x807FFF then k.setTileByte off b
  else if off ≤ 0xC01FFF then
    let sh := 256 ^ (off % 8)
    let v := (k.regSlot (off / 8 * 8)).toNat
    k.setRegSlot (off / 8 * 8) (.ofNat 64 (v - v / sh % 256 * sh + b.toNat * sh))
  else if off ≤ 0xE003FF then k
  else
    let w := 8 * (off - 0xE01000)
    (List.range 8).foldl (fun k i => k.setFull (w + i) (b.toNat.testBit i)) k

/-- Bytes of an on-chip window written from an offset on; the register window takes its 8 bytes at once (R142). -/
def Core.setWin (k : Core) (off : Nat) (bs : List Byte) : Core :=
  if 0xC00000 ≤ off ∧ off ≤ 0xC01FFF then k.setRegSlot off (.ofNat 64 (bytesNat bs))
  else (bs.zipIdx).foldl (fun (k : Core) (x : Byte × Nat) => k.setWinByte (off + x.2) x.1) k

/-- The bytes at a chunk (R4). A peer's answer is a free value (log entry 5). -/
def State.peek (s : State) : Chunk → List Byte
  | .phys hm pa len _ _ _ _ => if hm then Memory.read s.host pa len else Memory.read s.pool pa len
  | .spad pid off len => Memory.read (s.coreAt pid).spad off len
  | .win pid off len => (List.range len).map (fun i => (s.coreAt pid).winByte (off + i))
  | .peer _ _ len => (List.range len).map (fun i => Config.peerByte s.free i)

/-- The register whose data or format word a slot of the register window holds (R142, R336); g0 is no storage. -/
def slotUnit (pid off : Nat) : Option PoisonUnit :=
  let o := off - 0xC00000
  if o < 0x100 then (if o < 8 then none else some (.reg pid .a (.g (o / 8))))
  else if o < 0x200 then (if o < 0x108 then none else some (.reg pid .c (.g ((o - 0x100) / 8))))
  else if o < 0x300 then some (.reg pid .c (.f ((o - 0x200) / 8)))
  else if o < 0x400 then some (.reg pid .c (.f ((o - 0x300) / 8)))
  else if 0x1000 ≤ o ∧ o < 0x1600 then some (.reg pid .c (.v ((o - 0x1000) / 64)))
  else if 0x1800 ≤ o ∧ o < 0x18C0 then some (.reg pid .c (.v ((o - 0x1800) / 8)))
  else none

/-- The poisoned units that an access touches (R336). -/
def Chunk.units : Chunk → List PoisonUnit
  | .phys hm pa len _ _ _ _ => (List.range ((pa + len - 1) / 64 - pa / 64 + 1)).map (fun i => .line hm ((pa / 64 + i) * 64))
  | .spad pid off len => (List.range ((off + len - 1) / 8 - off / 8 + 1)).map (fun i => .word pid (off / 8 + i))
  | .win pid off len =>
    if off ≤ 0x807FFF then
      (List.range ((off - 0x800000 + len - 1) / 1024 - (off - 0x800000) / 1024 + 1)).map (fun i => .tile pid ((off - 0x800000) / 1024 + i))
    else if off ≤ 0xC01FFF then (slotUnit pid off).toList
    else []
  | .peer _ _ _ => []

/-- The units that a write covers whole, whose poison it clears (R336). -/
def Chunk.covers (c : Chunk) (u : PoisonUnit) : Bool :=
  match c, u with
  | .phys hm pa len _ _ _ _, .line h p => hm == h && decide (pa ≤ p) && decide (p + 64 ≤ pa + len)
  | .spad pid off len, .word q w => pid == q && decide (off ≤ 8 * w) && decide (8 * w + 8 ≤ off + len)
  | .win pid off len, .tile q t => pid == q && decide (off ≤ 0x800000 + 1024 * t) && decide (0x800000 + 1024 * t + 1024 ≤ off + len)
  | .win pid off _, .reg _ _ (.g _) => slotUnit pid off == some u
  | _, _ => false

/-- Bytes written at a chunk. -/
def State.poke (s : State) (c : Chunk) (bs : List Byte) : State :=
  let s1 := match c with
    | .phys hm pa _ _ _ _ _ =>
      if hm then { s with host := Memory.write s.host pa bs } else { s with pool := Memory.write s.pool pa bs }
    | .spad pid off _ => s.updCore pid (fun k => { k with spad := Memory.write k.spad off bs })
    | .win pid off _ => s.updCore pid (fun k => k.setWin off bs)
    | .peer _ _ _ => s
  if s1.dev.poison.isEmpty then s1
  else { s1 with dev := { s1.dev with poison := s1.dev.poison.filter (fun u => !c.covers u) } }

/-- Bytes written over the chunks of one access. -/
def State.pokeAll (s : State) : List Chunk → List Byte → State
  | [], _ => s
  | c :: cs, bs =>
    let len := match c with
      | .phys _ _ l _ _ _ _ => l
      | .spad _ _ l => l
      | .win _ _ l => l
      | .peer _ _ l => l
    (s.poke c (bs.take len)).pokeAll cs (bs.drop len)

/-- The bytes of one access. -/
def State.peekAll (s : State) (cs : List Chunk) : List Byte := cs.flatMap s.peek

/-- The first poisoned unit that an access touches (R336). -/
def State.poisoned (s : State) (cs : List Chunk) : Option PoisonUnit :=
  if s.dev.poison.isEmpty then none
  else (cs.flatMap Chunk.units).find? (fun u => s.dev.poison.contains u)

/-- A run of lines taken in ownership. -/
def ownLines (line : Nat) : Nat → List Nat → List Nat
  | 0, xs => xs
  | n + 1, xs => ownLines (line + 1) n (insertNat line xs)

/-- The home slice of the line that holds a physical address (R151). -/
def homeSlice (pa : Nat) : Nat :=
  bitField pa 6 8 ^^^ bitField pa 14 8 ^^^ bitField pa 22 8 ^^^ bitField pa 30 8 ^^^ bitField pa 38 8 ^^^ bitField pa 46 8

/-- The quadrant in which a slice lies (R151). -/
def sliceQuadrant (slice : Nat) : Nat := slice / 64

/-- What an access leaves beside its bytes: a first access to a resident page holds its lines or demotes the page (R152; a physical page that is
mapped resident twice, by two contexts or at two virtual addresses, counts twice: log entry 82, DESIGN CHOICE),
an HT access to host memory takes the line's ownership (R274), a peer's answer uses up a free value. -/
def State.touch (s : State) (ctx : Nat) (atomic : Bool) : List Chunk → State
  | [] => s
  | c :: cs =>
    let s1 := match c with
      | .phys hm pa len ord cache page level =>
        let bytes := 2 ^ levelShift level
        let key := (ctx, page, bytes)
        let s1 :=
          if cache = 2 ∧ !s.dev.resident.contains key ∧ !s.dev.demoted.contains key then
            if (s.dev.resident.map (fun (x : Nat × Nat × Nat) => x.2.2)).sum + bytes ≤ 256 * Config.residentBytes then
              { s with dev := { s.dev with resident := key :: s.dev.resident } }
            else { s with dev := { s.dev with demoted := key :: s.dev.demoted, resFail := s.dev.resFail + 1 } }
          else s
        if hm ∧ (atomic ∨ ord = 1) then { s1 with dev := { s1.dev with owned := ownLines (pa / 64) ((pa + len - 1) / 64 - pa / 64 + 1) s1.dev.owned } }
        else s1
      | .peer _ _ _ => { s with free := s.free + 1 }
      | _ => s
    s1.touch ctx atomic cs

/-- What an access of a core answers. -/
inductive Access where
  | ok (s : State) (bs : List Byte)
  | deny
  | fault (level base : Nat) (va : Word)
  | poison (u : PoisonUnit)

/-- Reads `n` bytes for an accessor (R140, R156, R336). -/
def State.readBytes (s : State) (w : Who) (acc : Acc) (addr : Word) (n : Nat) : Access :=
  match s.locate w acc addr n with
  | .deny => .deny
  | .fault l b v => .fault l b v
  | .ok cs =>
    match s.poisoned cs with
    | some u => .poison u
    | none => .ok (s.touch w.ctx false cs) (s.peekAll cs)

/-- Writes bytes for an accessor: all of them or none (R157). -/
def State.writeBytes (s : State) (w : Who) (acc : Acc) (addr : Word) (bs : List Byte) : Access :=
  match s.locate w acc addr bs.length with
  | .deny => .deny
  | .fault l b v => .fault l b v
  | .ok cs => .ok ((s.touch w.ctx false cs).pokeAll cs bs) []

end Sys2Proof.Machine
end

