-- ==== Sys2Proof/Machine/Order.lean ====
section
/-! DEFINITION. The accesses of one stream and the order it keeps among them (spec/10_memory_instructions.md R186 to R194,
spec/14_ordering.md R265, R268, R269); which incomplete instructions go on by themselves and which stand at a point where their stream
may stop (spec/05_fetch_and_issue.md R89, R92, R100, spec/20_interruption.md R310, R313 to R315). -/

namespace Sys2Proof.Machine

/-! ### Checks at issue (R186) -/

/-- Aperture, limit and alignment of one access, in this order: the cause and the address it reports. -/
def State.checkAddr (s : State) (w : Who) (addr : Word) (n align : Nat) : Option (Nat × Word) :=
  if !s.apertureOk w addr n then some (0x06, addr)
  else if !registerWindowOk addr n then some (0x05, addr)
  else if addr.toNat % align ≠ 0 then some (0x05, addr)
  else none

/-- A signed offset field in units of an access size (R104). -/
def offsetBy (base : Word) (off : Int) (size : Nat) : Word := base + w64 (off * size)

/-! ### The bytes that an access covers -/

/-- A run of bytes of one place: pooled memory 0, host memory 1, the on-chip map of a core, a peer. -/
structure Span where
  place : Nat
  lo    : Nat
  len   : Nat
deriving DecidableEq, Repr

def Chunk.span : Chunk → Span
  | .phys hm pa len _ _ _ _ => ⟨if hm then 1 else 0, pa, len⟩
  | .spad pid off len => ⟨2 + pid, off, len⟩
  | .win pid off len => ⟨2 + pid, off, len⟩
  | .peer d off len => ⟨4096 + d, off, len⟩

/-- The kind of an access whose page, or whose address, is not known yet. -/
def unknownKind : Nat := 4

/-- Where an access lies and its page kind (R157); one whose page is missing now lies in its virtual place, and its kind is not known. -/
def State.spans (s : State) (w : Who) (addr : Word) (n : Nat) : List Span × Nat :=
  match s.locate w .load addr n, s.locate w .store addr n with
  | .ok cs, _ => (cs.map Chunk.span, chunksOrd cs)
  | _, .ok cs => (cs.map Chunk.span, chunksOrd cs)
  | .fault _ _ _, _ => ([⟨8192, addr.toNat, n⟩], unknownKind)
  | _, _ => ([⟨8192, addr.toNat, n⟩], 3)

/-- The place of an access whose address is not known yet: it may share bytes with any other. -/
def anywhere : List Span × Nat := ([⟨16384, 0, 0⟩], unknownKind)

/-- A run of bytes may lie anywhere. -/
def Span.isOpen (x : Span) : Bool := x.place == 16384

/-- Two accesses share a byte. -/
def overlap (xs ys : List Span) : Bool :=
  xs.any (fun x => ys.any (fun y => x.isOpen || y.isOpen
    || (x.place == y.place && decide (x.lo < y.lo + y.len) && decide (y.lo < x.lo + x.len))))

/-- Two accesses touch one 64-byte line. -/
def sameLine (xs ys : List Span) : Bool :=
  xs.any (fun x => ys.any (fun y => x.isOpen || y.isOpen || (x.place == y.place && decide (x.lo / 64 ≤ (y.lo + y.len - 1) / 64)
    && decide (y.lo / 64 ≤ (x.lo + x.len - 1) / 64))))

/-! ### Elements (R146, R192, R193) -/

/-- The row offset of a column byte under a layout mode (R146). -/
def physOff (mode pitch r c : Nat) : Nat :=
  match mode with
  | 1 => r * pitch + (c + 8 * r) % pitch
  | 2 =>
    let g := c / 64
    if 64 * (g + 1) ≤ pitch then r * pitch + 64 * g + ((c / 8 % 8) ^^^ (r % 8)) * 8 + c % 8 else r * pitch + c
  | _ => r * pitch + c

/-- Own-scratchpad addresses (R138). -/
def spadAddr (off : Nat) : Word := .ofNat 64 (0xFFF0000000000000 + off)

/-- The address of element i, or the address at which the element traps with cause 0x06 (R193); an indexed form reads its list (R192). -/
inductive ElemAt where
  | addr (a : Word)
  | trap (cause : Nat) (a : Word)
  | list (a : Access) (at_ : Word)

def State.elemAt (s : State) (w : Who) (p : ElemPlan) (i : Nat) : ElemAt :=
  match p with
  | .strided base stride => .addr (base + w64 (i * stride))
  | .tiled start stride tbase pitch rows mode =>
    let a := start + i * stride
    if a < 0 ∨ (rows * pitch : Nat) ≤ a then .trap 0x06 (w64 (0xFFF0000000000000 + tbase + a))
    else .addr (spadAddr (tbase + physOff mode pitch (a.toNat / pitch) (a.toNat % pitch)))
  | .indexed base list =>
    let at_ := list + .ofNat 64 (4 * i)
    match s.checkAddr w at_ 4 4 with
    | some (c, v) => .trap c v
    | none =>
      match s.readBytes w .load at_ 4 with
      | .ok _ bs => .addr (base + w64 (patInt (bytesNat bs) 32))
      | a => .list a at_

/-- How one access uses its bytes: an atomic, a synchronising access and a barrier arrival do both (R195, R198, R269, R279). -/
inductive AccUse where
  | reads | writes | both
deriving DecidableEq, Repr

def AccUse.writing : AccUse → Bool
  | .reads => false
  | _ => true

/-- An access that an incomplete instruction may still make; `known` is whether its address is known. -/
structure Touch where
  use   : AccUse
  addr  : Word
  len   : Nat
  known : Bool

/-- Where such an access lies. -/
def State.touchSpans (s : State) (w : Who) (t : Touch) : List Span × Nat := if t.known then s.spans w t.addr t.len else anywhere

/-! ### Who makes an access -/

/-- The accessor that an incomplete instruction of a core acts for. -/
def Core.who (k : Core) (sup : Bool) : Who :=
  match k.task with
  | some t => ⟨k.pid, t.ctx, t.queue, t.seq, sup, match t.kind with
    | .team => false
    | _ => true⟩
  | none => ⟨k.pid, 0, 0, 0, sup, false⟩

def Core.opWho (k : Core) (op : LongOp) : Who := k.who (op.mode == .sup)

def Request.who (r : Request) (k : Core) : Who :=
  ⟨k.pid, r.ctx, r.queue, r.seq, r.mode == .sup, match k.task with
    | some t => (match t.kind with
      | .team => false
      | _ => true)
    | none => false⟩

/-- Bytes that a request covers. -/
def Request.bytes (r : Request) : Nat :=
  match r.kind with
  | .store data => data.length
  | .atomic _ n _ _ => n

/-- How a request uses its bytes. -/
def Request.use (r : Request) : AccUse :=
  match r.kind with
  | .store _ => .writes
  | .atomic .. => .both

/-! ### The accesses of an incomplete instruction -/

/-- Element `i` of a form whose addresses its registers give (R192, R193). -/
def State.fixedElem (s : State) (w : Who) (u : AccUse) (p : ElemPlan) (size i : Nat) : List Touch :=
  match p, s.elemAt w p i with
  | .indexed _ _, _ => []
  | _, .addr a => [⟨u, a, size, true⟩]
  | _, _ => []

/-- The accesses that an incomplete instruction may still make at addresses that its registers give. -/
def State.fixedTouches (s : State) (w : Who) (op : LongOp) : List Touch :=
  let elems := fun (u : AccUse) (p : ElemPlan) (size : Nat) =>
    ((List.range (64 / size)).drop op.prog).flatMap (fun i => s.fixedElem w u p size i)
  match op.work with
  | .load _ a n _ => [⟨.reads, a, n, true⟩]
  | .loadq _ a => [⟨.reads, a, 64, true⟩]
  | .storeq _ a => [⟨.writes, a, 64, true⟩]
  | .lds _ a => [⟨.both, a, 8, true⟩]
  | .ldsq _ _ _ a => [⟨.both, a, 64, true⟩]
  | .atomic _ _ n _ a _ _ => [⟨.both, a, n, true⟩]
  | .ldElems _ p n _ => elems .reads p n
  | .stElems _ p n => elems .writes p n
  | _ => []

/-- The word of an element that an indexed form has read from its list (R192). -/
def LongOp.offsetOf (op : LongOp) (i : Nat) : Option Word := (op.list.find? (fun e => e.1 == i)).map (·.2)

/-- The address that a word of the list gives its element (R192). -/
def listed (base off : Word) : Word := base + w64 (patInt off.toNat 32)

/-- Element `i` of a form that takes its addresses from a list (R192): its address is known once it has read the list's word (log entry 95). -/
def State.indexedElem (s : State) (k : Core) (op : LongOp) (u : AccUse) (base list : Word) (size i : Nat) : List Touch :=
  let at_ := list + .ofNat 64 (4 * i)
  match op.offsetOf i with
  | some v => [⟨u, listed base v, size, true⟩]
  | none => if (s.checkAddr (k.opWho op) at_ 4 4).isSome then [] else [⟨.reads, at_, 4, true⟩, ⟨u, 0, 0, false⟩]

/-- The address of element `i` of an incomplete instruction now: that of the list's word which it has read, else as `elemAt` gives it. -/
def State.elemNow (s : State) (w : Who) (op : LongOp) (p : ElemPlan) (i : Nat) : ElemAt :=
  match p, op.offsetOf i with
  | .indexed base _, some v => .addr (listed base v)
  | _, _ => s.elemAt w p i

/-- The accesses that an incomplete instruction of a core may still make. -/
def State.workAccesses (s : State) (k : Core) (op : LongOp) : List Touch :=
  let elems := fun (u : AccUse) (base list : Word) (size : Nat) =>
    ((List.range (64 / size)).drop op.prog).flatMap (fun i => s.indexedElem k op u base list size i)
  match op.work with
  | .ldElems _ (.indexed b l) n _ => elems .reads b l n
  | .stElems _ (.indexed b l) n => elems .writes b l n
  | _ => s.fixedTouches (k.opWho op) op

/-- Those that it makes next: of an element form, those of its next element as far as they are known. -/
def State.nextAccesses (s : State) (k : Core) (op : LongOp) : List Touch :=
  match op.work with
  | .ldElems _ (.indexed b l) n _ => (s.indexedElem k op .reads b l n op.prog).filter (·.known)
  | .stElems _ (.indexed b l) n => (s.indexedElem k op .writes b l n op.prog).filter (·.known)
  | .ldElems _ p n _ => s.fixedElem (k.opWho op) .reads p n op.prog
  | .stElems _ p n => s.fixedElem (k.opWho op) .writes p n op.prog
  | _ => s.fixedTouches (k.opWho op) op

/-- The same with where they lie. -/
def State.workPlaces (s : State) (k : Core) (op : LongOp) : List (AccUse × (List Span × Nat)) :=
  (s.workAccesses k op).map (fun a => (a.use, s.touchSpans (k.opWho op) a))

/-! ### Order within a stream (R187, R265, R268, R269) -/

/-- The kind by which a pair keeps its order (R157, R265): the stronger one. An older access whose page is not there yet may turn out to be of any
kind and counts as SO, a newer one as UO (log entry 71, DEDUCED). -/
def pairKind (older newer : Nat) : Nat :=
  min (if older = unknownKind then 0 else older) (if newer = unknownKind then 3 else newer)

/-- An older access keeps its place before a newer one of the same stream: shared bytes always (R187), SO every pair, HT every pair but a
store before a load of other bytes (R265), and stores and atomics of one line (R269). -/
def keepsOrder (older newer : AccUse) (xs ys : List Span × Nat) : Bool :=
  overlap xs.1 ys.1 || pairKind xs.2 ys.2 == 0 || (pairKind xs.2 ys.2 == 1 && !(older == .writes && newer == .reads))
    || (older.writing && newer.writing && sameLine xs.1 ys.1)

/-- What user code had issued and a handler's stream stopped in stands still until TRET, and orders nothing of the handler's (R89, R310). -/
def asleep (op : LongOp) (newer : Mode) : Bool := op.mode == .user && newer == .sup

/-- Whether an access of core `k` with an id and a mode must still wait for an older access of its own stream. -/
def State.orderBlocked (s : State) (k : Core) (x : StreamId) (id : Nat) (mode : Mode) (use : AccUse) (here : List Span × Nat) : Bool :=
  (k.str x).flight.any (fun op =>
    decide (op.id < id) && !asleep op mode && (s.workPlaces k op).any (fun a => keepsOrder a.1 use a.2 here))
  || k.pending.any (fun r =>
    decide (r.id < id) && r.stream == x && !r.served && keepsOrder r.use use (s.spans (r.who k) r.addr r.bytes) here)

/-! ### Matrix operands in scratchpad (R223, R225, R226) -/

/-- What a pair is used for. -/
inductive PairUse where
  | operand (rowBytes : Nat)
  | load | store | drain
deriving DecidableEq, Repr

/-- Bytes of a row: for a drain TPITCH holds RB. -/
def PairUse.rowBytes (u : PairUse) (p : Pair) : Nat :=
  match u with
  | .operand n => n
  | .drain => if p.tpitch = 0 then 64 else p.tpitch
  | _ => 64

/-- Bytes from row 0 to row 8. -/
def PairUse.half (u : PairUse) (p : Pair) : Nat :=
  match u with
  | .drain => 8 * p.rpitch
  | _ => if p.tpitch = 0 then 8 * p.rpitch else p.tpitch

/-- The scratchpad offset of byte c of row r (R146, R225). -/
def PairUse.at (u : PairUse) (p : Pair) (r c : Nat) : Nat :=
  p.base + (if r < 8 then 0 else u.half p) + physOff p.lay p.rpitch (r % 8) c

/-- Bytes of a row of an operand (R226). -/
def mmacRowBytes (f : Nat) : Nat :=
  match f with
  | 3 => 36
  | 4 => 48
  | 5 => 64
  | _ => 32

/-- The scratchpad bytes of a matrix operand, 4 at a time. -/
def PairUse.spans (pid : Nat) (u : PairUse) (p : Pair) : List Span :=
  (List.range 16).flatMap (fun r => (List.range (u.rowBytes p / 4)).map (fun i => (⟨2 + pid, u.at p r (4 * i), 4⟩ : Span)))

/-- The scratchpad bytes of an operand of mmac. -/
def MOperand.spans (pid rowBytes : Nat) : MOperand → List Span
  | .scratch p => (PairUse.operand rowBytes).spans pid p
  | _ => []

/-- The scratchpad bytes that a matrix instruction reads (R223). -/
def Work.tileReads (pid : Nat) : Work → List Span
  | .mmac f _ _ a b => a.spans pid (mmacRowBytes f) ++ b.spans pid (mmacRowBytes f)
  | .mload _ p => PairUse.load.spans pid p
  | _ => []

/-- The scratchpad bytes that it writes, those of a drain apart, which is an engine job on its tile (R223, R231). -/
def Work.tileWrites (pid : Nat) : Work → List Span
  | .mstore _ p => PairUse.store.spans pid p
  | _ => []

/-! ### Queue entries that instructions have popped (R92, R224) -/

/-- Entries of a matrix operand. -/
def MOperand.held : MOperand → List QEntry
  | .entries _ es => es
  | _ => []

/-- Every entry that an incomplete instruction has popped. -/
def Work.popped : Work → List QEntry
  | .mmac _ _ _ x y => x.held ++ y.held
  | .fwdelta _ _ x y _ => x.held ++ y.held
  | .fwread _ _ x _ => x.held
  | .late _ es _ _ => es.map (·.2)
  | .qget _ e => [e]
  | .storeq e _ => [e]
  | .stElems e _ _ => [e]
  | _ => []

/-- The entries of a matrix operand changed. -/
def MOperand.mapEntries (f : QEntry → QEntry) : MOperand → MOperand
  | .entries q es => .entries q (es.map f)
  | m => m

/-- The popped entries of an incomplete instruction changed. -/
def Work.mapEntries (f : QEntry → QEntry) : Work → Work
  | .mmac fmt p d x y => .mmac fmt p d (x.mapEntries f) (y.mapEntries f)
  | .fwdelta d c x y ab => .fwdelta d c (x.mapEntries f) (y.mapEntries f) ab
  | .fwread d c x en => .fwread d c (x.mapEntries f) en
  | .late i es snap entry => .late i (es.map (fun x => (x.1, f x.2))) snap entry
  | .qget d e => .qget d (f e)
  | .storeq e a => .storeq (f e) a
  | .stElems e p n => .stElems (f e) p n
  | w => w

/-- The entry that an instruction fills when it completes (R92). -/
def Work.entry : Work → Option Nat
  | .deliver ws _ _ _ => ws.findSome? (fun w => match w with
    | .q e _ => some e
    | _ => none)
  | .loadq e _ => some e
  | .ldElems e _ _ _ => some e
  | .ldsq e _ _ _ => some e
  | .fwread _ _ _ e => some e
  | .late _ _ _ e => e
  | _ => none

/-- The instruction fills a queue entry when it completes. -/
def Work.fills (w : Work) : Bool := w.entry.isSome

/-- A queue, or an instruction that popped it, still holds the entry of an id. -/
def Core.hasEntry (k : Core) (en : Nat) : Bool :=
  k.queues.toList.any (fun es => es.any (fun e => e.id == en))
    || (k.a.flight ++ k.c.flight).any (fun op => op.work.popped.any (fun e => e.id == en))
    || (k.a.taken.map (fun x => x.2.id == en)).getD false

/-! ### What goes on by itself (R89, R92, R313) -/

/-- A matrix, accumulator or fast-weight instruction (R222, R230, R236). -/
def Work.isMatrix : Work → Bool
  | .mmac .. => true
  | .mzero _ => true
  | .mload .. => true
  | .mstore .. => true
  | .mdrain .. => true
  | .mspill _ => true
  | .mfill _ => true
  | .mown .. => true
  | .fwdelta .. => true
  | .fwread .. => true
  | .fwchunk .. => true
  | _ => false

/-- Every popped entry of a matrix operand is filled (R224). -/
def MOperand.ready (m : MOperand) : Bool := m.held.all (fun e => e.filled)

/-- A cidx is that of the leader of a gang: the lowest that its MASK names (R222). -/
def leadsIn (cidx : Nat) (mask : BitVec 8) : Bool := (List.range cidx).all (fun i => !mask.getLsbD i)

/-- The core is the leader of the gang that GANG.MASK names (R222). -/
def Core.leads (k : Core) : Bool := leadsIn k.cidx k.sys.gangMask

/-- The oldest n entries of a queue are there and filled. -/
def Core.hasFilled (k : Core) (q n : Nat) : Bool :=
  decide (n ≤ (k.getQueue q).length) && ((k.getQueue q).take n).all (fun e => e.filled)

/-- A core can make the pops of a token of fwchunk and reserve its q4 entry (R242); `lead` is whether it leads the gang. -/
def Core.tokenReady (k : Core) (d : Nat) (lead : Bool) : Bool :=
  let c := (k.getAot d).count
  k.hasFilled 1 1 && decide ((k.getQueue 4).length < Config.queueDepth)
    && (!lead || (k.hasFilled 0 (c + 1) && k.hasFilled 2 c))

/-- An instruction takes entries of the queue while it executes (R219, R242). -/
def Work.claims (w : Work) (q : Nat) : Bool :=
  match w with
  | .vredq _ _ x _ => x == q
  | .fwchunk _ _ => decide (q ≤ 2)
  | _ => false

/-- An earlier instruction still takes entries of the queue: they leave in issue order (R90, R219, R242). -/
def Core.claimed (k : Core) (q : Nat) : Bool := k.c.flight.any (fun op => op.work.claims q)

/-- An instruction older than `id` still takes entries of the queue (R90). -/
def Core.claimedBefore (k : Core) (q id : Nat) : Bool := k.c.flight.any (fun op => decide (op.id < id) && op.work.claims q)

/-- A part-way instruction that a pending pre-emption stops between its units, whatever they need (R313). -/
def Work.stopsBetween : Work → Bool
  | .ldElems .. => true
  | .stElems .. => true
  | .velim .. => true
  | _ => false

/-- A part-way instruction that a trap of the other stream stops between its units (R258, R310, R313). -/
def Work.haltsBetween : Work → Bool
  | .velim .. => true
  | _ => false

/-- The task of a core has a trap of cause 0x16 due, or the handler of one that has been taken runs or is about to (R55). -/
def Core.moving (k : Core) : Bool :=
  (match k.task with
    | some t => t.movedDue.isSome
    | none => false) || (k.handler.isSome && k.sys.trapCause == 0x16)

/-- The instruction stands still whatever it could do: a handler has begun (R89, R310), it goes on only after a trap of cause 0x16 (R55, R316),
or its stream has stopped and it stops between its units (R313, R315). -/
def Core.freezes (k : Core) (op : LongOp) : Bool :=
  (k.handler.isSome && k.handlerOn && op.mode == .user)
    || (op.mode == .user && k.moving)
    || (op.work.stopsBetween && (match op.work with
      | .velim .. => k.c.stopped.isSome
      | _ => k.a.stopped.isSome))

/-- The instruction is running and finds what it needs in its own core, entries that it popped included. -/
def Core.selfMoves (k : Core) (op : LongOp) : Bool :=
  op.status == .running && !k.freezes op &&
  (match op.work with
    | .lds .. => false
    | .ldsq .. => false
    | .vredq _ _ q _ => k.hasFilled q 1 && !k.claimedBefore q op.id
    | .mmac _ _ _ a b => a.ready && b.ready
    | .fwdelta _ _ a b _ => a.ready && b.ready
    | .fwread _ _ a _ => a.ready
    | .fwchunk d _ => k.tokenReady d (leadsIn k.cidx op.members) && !(k.claimedBefore 0 op.id || k.claimedBefore 1 op.id || k.claimedBefore 2 op.id)
    | .mdrain _ (.queue q) h => h.isNone && decide ((k.getQueue q).length < Config.queueDepth)
    | .mdrain _ (.scratch _) h => h.isNone
    | w => w.popped.all (fun e => e.filled))

/-- The instruction finds what it needs, or waits for popped entries that others of its core are filling, as a source waits on a long-latency result
(R92): `fuel` bounds the entries that wait for one another. -/
def Core.fedBy (k : Core) : Nat → LongOp → Bool
  | 0, op => k.selfMoves op
  | fuel + 1, op => k.selfMoves op || (op.status == .running && !k.freezes op && !op.work.popped.isEmpty && op.work.popped.all (fun e =>
      e.filled || (k.a.flight ++ k.c.flight).any (fun o => o.work.entry == some e.id && k.fedBy fuel o)))

/-- The same for as many instructions as the core holds. -/
def Core.fed (k : Core) (op : LongOp) : Bool := k.fedBy (k.a.flight.length + k.c.flight.length) op

/-- The instruction has not completed and can go on by itself as far as its core says: it does not stand at a point where it may stop
(R89, R310, R313), and no older matrix instruction holds it back (R223). -/
def Core.moves (k : Core) (op : LongOp) : Bool :=
  k.fed op && !(op.work.isMatrix && k.c.flight.any (fun o => decide (o.id < op.id) && o.work.isMatrix && !k.fed o))

/-- The oldest matrix instruction of a core: they execute in issue order (R223). -/
def Core.matrixHead (k : Core) : Option LongOp := k.c.flight.find? (fun op => op.work.isMatrix)

/-- The writes that the other stream issued before it pushed an entry which the instruction's stream had popped, and that are not yet
performed (R223), each with whether it stands still as `moving` says. -/
def State.otherWrites (s : State) (k : Core) (x : StreamId) (op : LongOp) (moving : LongOp → Bool) : List (Bool × List Span) :=
  match x with
  | .a => (k.c.flight.filter (fun o => decide (o.id < op.seen))).map (fun o => (!moving o, o.work.tileWrites k.pid))
  | .c =>
    (k.a.flight.filter (fun o => decide (o.id < op.seen))).map (fun o => (!moving o,
      ((s.workPlaces k o).filter (fun a => a.1.writing)).flatMap (fun a => a.2.1)))
    ++ (k.pending.filter (fun r => r.stream == .a && !r.served && decide (r.id < op.seen))).map (fun r =>
      (r.parked, (s.spans (r.who k) r.addr r.bytes).1))

/-- A read must wait for such a write to its bytes (R223). -/
def State.unseen (s : State) (k : Core) (x : StreamId) (op : LongOp) (here : List Span) : Bool :=
  (s.otherWrites k x op k.moves).any (fun o => overlap o.2 here)

/-- One of them that stands still holds the instruction back. -/
def State.crossHeld (s : State) (k : Core) (x : StreamId) (op : LongOp) (moving : LongOp → Bool) : Bool :=
  let still := ((s.otherWrites k x op moving).filter (fun o => o.1)).flatMap (fun o => o.2)
  !still.isEmpty && overlap still (match x with
    | .a => ((s.workPlaces k op).filter (fun a => !a.1.writing)).flatMap (fun a => a.2.1)
    | .c => op.work.tileReads k.pid)

/-! ### Accesses that stand still (R187, R265) -/

/-- One access of a stream, by its place in issue order: whether it stands still by itself, what it may still touch, and what it touches next. -/
structure Pend where
  id     : Nat
  still  : Bool
  places : List (AccUse × (List Span × Nat))
  next   : List (AccUse × (List Span × Nat))

/-- A list of accesses rising by place. -/
def putPend (p : Pend) : List Pend → List Pend
  | [] => [p]
  | x :: rest => if p.id < x.id then p :: x :: rest else x :: putPend p rest

/-- The unfinished accesses of a stream in issue order, those that are asleep to a mode apart; `moving` says which instructions go on. -/
def State.pends (s : State) (k : Core) (moving : LongOp → Bool) (x : StreamId) (mode : Mode) : List Pend :=
  let ops := ((k.str x).flight.filter (fun op => !asleep op mode)).map (fun op =>
    (⟨op.id, !moving op, s.workPlaces k op,
      (s.nextAccesses k op).map (fun a => (a.use, s.touchSpans (k.opWho op) a))⟩ : Pend))
  let reqs := (k.pending.filter (fun r => r.stream == x && !r.served)).map (fun r =>
    let here := [(r.use, s.spans (r.who k) r.addr r.bytes)]
    (⟨r.id, r.parked, here, here⟩ : Pend))
  (ops ++ reqs).foldl (fun acc p => putPend p acc) []

/-- Those of the accesses that stand still, by themselves or behind one that does: `acc` holds the ones found so far. -/
def stalledOf : List Pend → List Pend → List Pend
  | [], acc => acc
  | p :: rest, acc =>
    let behind := acc.any (fun o => o.places.any (fun a => p.next.any (fun b => keepsOrder a.1 b.1 a.2 b.2)))
    stalledOf rest (if p.still || behind then p :: acc else acc)

/-- An access that stands still, as `moving` says, holds the instruction back: an older one of its stream (R187, R265), or one of the other stream
that a popped entry orders before it, or before an older matrix instruction (R223). -/
def State.heldBy (s : State) (k : Core) (moving : LongOp → Bool) (x : StreamId) (op : LongOp) : Bool :=
  (((k.str x).flight.any (fun o => decide (o.id < op.id) && !moving o) || k.pending.any (fun r => r.stream == x && r.parked))
    && (stalledOf (s.pends k moving x op.mode) []).any (fun p => p.id == op.id))
  || s.crossHeld k x op moving
  || (op.work.isMatrix && k.c.flight.any (fun o => decide (o.id < op.id) && o.work.isMatrix && s.crossHeld k .c o moving))

/-- The instruction waits for a popped entry whose filler stands still, by itself or behind an access that does (R89, R92). -/
def State.fillStopped (s : State) (k : Core) (moving : LongOp → Bool) (op : LongOp) : Bool :=
  op.work.popped.any (fun e => !e.filled && [StreamId.a, .c].any (fun x =>
    (k.str x).flight.any (fun o => o.work.entry == some e.id && (!moving o || s.heldBy k moving x o))))

/-! ### Gangs (R49, R222, R229, R239) -/

/-- The cores that a gang mask names in a cluster. -/
def gangCores (cluster : Nat) (mask : BitVec 8) : List Nat :=
  ((List.range 8).filter (fun i => mask.getLsbD i)).map (fun i => cluster * 8 + i)

/-- The joint instructions of a core that have begun under one MASK and not completed, oldest first. The members of a gang complete theirs
together, so that those of one gang stand at one place of these lists. -/
def Core.begun (k : Core) (mask : BitVec 8) : List LongOp :=
  k.c.flight.filter (fun op => op.joint && op.met && op.members == mask)

/-- The instruction of another member that executes together with a joint instruction of core `k`. -/
def State.partner (s : State) (k : Core) (op : LongOp) (p : Nat) : Option LongOp :=
  ((s.coreAt p).begun op.members)[(k.begun op.members).findIdx (fun o => o.id == op.id)]?

/-- The other members of the gang of an instruction that has begun, with what they bring; none for one that has lost it (R49). -/
def State.partners (s : State) (k : Core) (op : LongOp) : List (Core × Option LongOp) :=
  ((gangCores k.cluster op.members).filter (fun p => p != k.pid)).map (fun p => (s.coreAt p, s.partner k op p))

/-- A joint instruction that has begun waits for a member that stands still: `fuel` bounds the gangs that wait for one another (R222, R229, R243). -/
def State.gangStill (s : State) (k : Core) (op : LongOp) : Nat → Bool
  | 0 => false
  | fuel + 1 =>
    op.joint && op.met && (s.partners k op).any (fun y => match y.2 with
      | none => false
      | some o => !y.1.moves o || y.1.c.flight.any (fun z => z.work.isMatrix && decide (z.id ≤ o.id)
          && (s.crossHeld y.1 .c z y.1.moves || s.fillStopped y.1 y.1.moves z || (decide (z.id < o.id) && s.gangStill y.1 z fuel))))

/-- A matrix instruction, or an older one of its core, waits for a member of its gang that stands still. -/
def State.gangStopped (s : State) (k : Core) (op : LongOp) : Bool :=
  op.work.isMatrix && k.c.flight.any (fun o => decide (o.id ≤ op.id) && s.gangStill k o 8)

/-- First tile of a fast-weight instruction. -/
def Work.fastTile : Work → Option Nat
  | .fwdelta d _ _ _ _ => some d
  | .fwread d _ _ _ => some d
  | .fwchunk d _ => some d
  | _ => none

/-- Tiles of the group at the md of a fast-weight instruction; none where no group of the task's context starts there (R239). -/
def Core.fastCount (k : Core) (op : LongOp) : Option Nat :=
  op.work.fastTile.bind (fun d =>
    let e := k.getAot d
    if (e.state == .pinned || e.state == .spilled) && e.first == d && (k.task.map (fun t => t.ctx)) == some e.owner then some e.count else none)

/-- A member's instruction is the next matrix instruction of its core and runs. -/
def Core.atHead (k : Core) (op : LongOp) : Bool :=
  (k.matrixHead.map (fun o => o.id)) == some op.id && op.status == .running && !k.freezes op

/-- Group counts of the members differ, or an md starts no group: their fast-weight instructions trap whatever they still wait for (R239). -/
def State.fastBad (s : State) (k : Core) (op : LongOp) : Bool :=
  op.work.fastTile.isSome && op.met && k.atHead op
    && (s.partners k op).all (fun y => (y.2.map y.1.atHead).getD false)
    && ((k.fastCount op).isNone || (s.partners k op).any (fun y => y.2.bind y.1.fastCount != k.fastCount op))

/-- The instruction goes on as far as its core and its gang say. -/
def State.stirsAlone (s : State) (k : Core) (op : LongOp) : Bool := s.fastBad k op || (k.moves op && !s.gangStopped k op)

/-- The instructions of a core that stand still by themselves, or wait for an entry that one of those, or one held back behind one, is to fill, and the
matrix instructions behind them (R89, R92, R223): each round adds those that the ones found so far stop. -/
def State.standing (s : State) (k : Core) : Nat → List Nat
  | 0 => ((k.a.flight ++ k.c.flight).filter (fun op => !s.stirsAlone k op)).map (·.id)
  | n + 1 =>
    let found := s.standing k n
    let moving := fun (o : LongOp) => !found.contains o.id
    found ++ ((k.a.flight ++ k.c.flight).filter (fun op => moving op && !s.fastBad k op && (s.fillStopped k moving op
      || (op.work.isMatrix && k.c.flight.any (fun z => decide (z.id < op.id) && z.work.isMatrix && s.fillStopped k moving z))))).map (·.id)

/-- The instruction goes on as far as its core, its gang and what it popped say. -/
def State.stirs (s : State) (k : Core) (op : LongOp) : Bool :=
  s.stirsAlone k op && ((k.a.flight ++ k.c.flight).all (fun o => o.work.popped.all (fun e => e.filled))
    || !(s.standing k (k.a.flight.length + k.c.flight.length)).contains op.id)

/-- An access that stands still holds the instruction back. -/
def State.held (s : State) (k : Core) (x : StreamId) (op : LongOp) : Bool := s.heldBy k (s.stirs k) x op

/-- The instruction goes on by itself: nothing of its core, no other member of its gang and no older access of its stream holds it back. -/
def State.goesOn (s : State) (k : Core) (x : StreamId) (op : LongOp) : Bool := s.stirs k op && !s.held k x op

/-- Every issued instruction of a stream has completed or stopped (R89). -/
def State.quietOn (s : State) (k : Core) (x : StreamId) : Bool := (k.str x).flight.all (fun op => !s.goesOn k x op)

/-- The issuing stream's instructions have completed or stopped. -/
def State.quiet (s : State) : Bool := s.quietOn s.core s.core.sel

/-- The other stream of a trap stands stopped: velim may stop between its lanes (R258, R310, R313). -/
def State.halted (s : State) (x : StreamId) : Bool :=
  (s.core.str x).flight.all (fun op => op.work.haltsBetween || !s.goesOn s.core x op)

/-- A stream's instructions have completed, stopped, or may stop between their units for a pre-emption (R313, R315). -/
def State.preHalted (s : State) (x : StreamId) : Bool :=
  (s.core.str x).flight.all (fun op => op.work.stopsBetween || !s.goesOn s.core x op)

/-! ### Where a stream stands (R310, R314) -/

/-- The oldest incomplete part-way instruction (R314). -/
def Stream.oldestPart (st : Stream) : Option LongOp := st.flight.find? (fun op => op.part)

/-- The joint instruction at which the stream waits for its gang (R49). -/
def Stream.atGang (st : Stream) : Option LongOp := st.flight.find? (fun op => op.status == .gang)

/-- An incomplete instruction at which a stopped stream stands: part-way, parked, waiting for its gang, for full/empty bits or for a popped
entry, a fast-weight instruction that is to restart, or one with a trap not yet taken (R243, R310, R312, R314). -/
def LongOp.stands (op : LongOp) : Bool :=
  op.part || op.status != .running || (match op.work with
    | .lds .. => true
    | .ldsq .. => true
    | .late .. => true
    | .qget .. => true
    | .storeq .. => true
    | .fwdelta .. => true
    | .fwread .. => true
    | _ => false)

/-- The oldest of them. -/
def Stream.standing (st : Stream) : Option LongOp := st.flight.find? LongOp.stands

/-- The resume address of a stream stopped at an instruction boundary or at one of its incomplete instructions (R310, R314). -/
def Stream.resumePc (st : Stream) : Word :=
  match st.standing with
  | some op => op.pc
  | none => st.pc

/-- The oldest instruction with a late trap not yet taken (R364). -/
def Stream.lateTrap (st : Stream) : Option (LongOp × Nat × Word) :=
  st.flight.findSome? (fun op => match op.status with
    | .trapped c v => some (op, c, v)
    | _ => none)

/-- PROG of the stream (R308, R314). -/
def Stream.progIndex (st : Stream) : Nat :=
  match st.oldestPart with
  | some op => op.prog
  | none => 0

end Sys2Proof.Machine
end

