-- ==== Sys2Proof/Machine/Spill.lean ====
section
/-! DEFINITION. Fields of bytes, and the spill records of groups as they are read (spec/12_matrix_instructions.md R237, R238). -/

namespace Sys2Proof.Machine

/-- A field of bytes: `n` bytes from an offset. -/
def fieldAt (bs : List Byte) (off n : Nat) : Nat := bytesNat ((bs.drop off).take n)

/-! ### CRC-32C (R237) -/

/-- One bit of the reflected CRC-32C. -/
def crcBit (c : Nat) : Nat := if c % 2 = 1 then (c / 2) ^^^ 0x82F63B78 else c / 2

/-- One byte taken in. -/
def crcByte (c : Nat) (b : Byte) : Nat :=
  crcBit (crcBit (crcBit (crcBit (crcBit (crcBit (crcBit (crcBit (c ^^^ b.toNat))))))))

/-- CRC-32C: reflected, initial and final value all ones (R237). -/
def crc32c (bs : List Byte) : Nat := (bs.foldl crcByte 0xFFFFFFFF) ^^^ 0xFFFFFFFF

/-! ### Records read (R233, R237, R238) -/

/-- A tile from its bytes. -/
def tileOf (tag : TileTag) (bs : List Byte) : Tile :=
  ⟨tag, Vector.ofFn (fun i => .ofNat 32 (bytesNat ((bs.drop (4 * i.val)).take 4)))⟩

def Context.pin (c : Context) (key : BitVec 32) : Option PinKey := c.pins.find? (fun p => p.key == key)

def State.updPin (s : State) (ctx : Nat) (key : BitVec 32) (f : PinKey → PinKey) : State :=
  s.updCtx ctx (fun c => { c with pins := c.pins.map (fun p => if p.key = key then f p else p) })

/-- The accessor of a record: a user-mode access of the owning context (R237). -/
def recordWho (pid ctx : Nat) : Who := ⟨pid, ctx, 0, 0, false, false⟩

/-- A tile written whole is no longer poisoned (R336). -/
def State.cleanTile (pid : Nat) (s : State) (t : Nat) : State :=
  if s.dev.poison.isEmpty then s
  else { s with dev := { s.dev with poison := s.dev.poison.filter (fun u => u != .tile pid t) } }

/-- The bytes of a record go into a run of tiles of a core, which become PINNED (R238); none for a record that does not match. -/
def State.takeRecord (s : State) (pid first ctx : Nat) (p : PinKey) (held : Bool) (bs : List Byte) : Option State :=
  let f := fieldAt bs
  let data := bs.drop 64
  if f 0 4 ≠ 0x4B5A4650 ∨ f 4 4 ≠ p.key.toNat ∨ f 8 2 ≠ ctx ∨ f 12 1 ≠ p.count ∨ f 20 4 ≠ crc32c data then none
  else
    let tag : TileTag := if f 10 2 % 16 = 3 then .i32 else .fp32
    let tokens : BitVec 32 := .ofNat 32 (f 16 4)
    let e : AotEntry := ⟨.pinned, ctx, first, p.count, held, tokens, p.key, p.spill⟩
    let s1 := ((List.range p.count).map (fun t => first + t)).foldl (State.cleanTile pid) (s.updCore pid (fun k =>
      (List.range p.count).foldl (fun k t =>
        (k.setAot (first + t) e).setTile (first + t) (tileOf tag ((data.drop (1024 * t)).take 1024))) k))
    some (s1.updPin ctx p.key (fun p =>
      { p with core := some pid, first := first, state := .pinned, tokens := tokens, held := if held then some pid else p.held }))

end Sys2Proof.Machine
end

