-- ==== Sys2Proof/Machine/Ops.lean ====
section
/-! DEFINITION. Taking a trap and returning from one, ending a task, poison and containment, waiting and stopping,
and the order of checks at issue. -/

namespace Sys2Proof.Machine

/-! ### What a task has issued and not yet done (R264 to R267, R333, R363) -/

/-- The task of a core issued the request: no other task of the core bears its `since` (R363). -/
def Request.ofTask (r : Request) (k : Core) : Bool :=
  match k.task with
  | some t => t.ctx == r.ctx && t.queue == r.queue && t.seq == r.seq && t.since == r.since
  | none => false

/-- The task that issued the job still runs on its core: the job is no older than the task (R149). -/
def Job.ofTask (j : Job) (k : Core) : Bool :=
  match k.task with
  | some t => t.ctx == j.ctx && t.queue == j.queue && t.seq == j.seq && decide (t.since ≤ j.born)
  | none => false

/-- The access lies wholly in the scratchpad of its own core. -/
def State.ownSpad (s : State) (w : Who) (acc : Acc) (addr : Word) (n : Nat) : Option (List Chunk) :=
  match s.locate w acc addr n with
  | .ok cs => if cs.all (fun c => match c with
      | .spad pid _ _ => pid == w.pid
      | _ => false) then some cs else none
  | _ => none

/-- The instruction reads memory (R266): a load, or the list of an indexed store. -/
def Work.loads : Work → Bool
  | .load .. => true
  | .loadq .. => true
  | .ldElems .. => true
  | .lds .. => true
  | .ldsq .. => true
  | .stElems _ (.indexed _ _) _ => true
  | _ => false

/-- An atomic with return. -/
def Work.isAtomic : Work → Bool
  | .atomic .. => true
  | _ => false

/-- The loads that the stream issued before an id have completed (R266); what is asleep to the mode of the access that asks is left out. -/
def Stream.loadsDone (st : Stream) (mode : Mode) (born : Nat) : Bool :=
  st.flight.all (fun op => !op.work.loads || asleep op mode || decide (born ≤ op.id))

/-- The atomics that a stream issued before an id have been performed (R266). -/
def Core.atomicsDone (k : Core) (x : StreamId) (mode : Mode) (born : Nat) : Bool :=
  (k.str x).flight.all (fun op => !op.work.isAtomic || asleep op mode || decide (born ≤ op.id))
    && k.pending.all (fun r => !(r.stream == x && r.use == .both && !r.served && decide (r.id < born)))

/-- The location scope of a request (R264): by its page as it is now, when it lies in virtual memory, else as it was at issue. -/
def State.scopeNow (s : State) (k : Core) (r : Request) : Nat :=
  if (aperture r.addr).kind = 1 ∧ r.served = false then s.locationScope (r.who k) r.addr else r.loc

/-- The location scope of an access that an incomplete instruction may still make: any, where its address is not known. -/
def State.touchScope (s : State) (k : Core) (op : LongOp) (a : Touch) : Nat := if a.known then s.locationScope (k.opWho op) a.addr else 0

/-- The stores and atomics that a stream of a core issued before an id and whose location scope is at or below `scope` are acknowledged (R266,
R267), those that an incomplete instruction still makes included. -/
def State.storesDone (s : State) (k : Core) (x : StreamId) (mode : Mode) (scope born : Nat) : Bool :=
  k.pending.all (fun r => !(r.stream == x && decide (s.scopeNow k r ≤ scope) && decide (r.id < born)))
    && (k.str x).flight.all (fun op => decide (born ≤ op.id) || asleep op mode || (s.workAccesses k op).all (fun a =>
      !a.use.writing || (match op.work with
        | .lds .. => true
        | .ldsq .. => true
        | _ => decide (scope < s.touchScope k op a))))

/-- A release of the issuing stream at a scope holds: its loads are complete and its stores acknowledged (R266). -/
def State.released (s : State) (scope : Nat) : Bool :=
  s.cur.loadsDone s.cur.mode s.core.nextId && s.storesDone s.core s.core.sel s.cur.mode scope s.core.nextId

/-- A store or atomic that a stream of a core issued before an id, within a scope, stands parked on a fault (R277). -/
def State.parkedStore (s : State) (k : Core) (x : StreamId) (scope born : Nat) : Bool :=
  k.pending.any (fun r => r.stream == x && r.parked && decide (r.id < born) && decide (s.scopeNow k r ≤ scope))
    || (k.str x).flight.any (fun op => decide (op.id < born) && (match op.status with
      | .parked _ => true
      | _ => false) && (s.workAccesses k op).any (fun a => a.use.writing && decide (s.touchScope k op a ≤ scope)))

/-- A fence of user code that waits for a parked store: it is a blocking wait, restarted whole (R277). -/
def State.fenceParked (s : State) (k : Core) (x : StreamId) (f : Fence) : Bool :=
  f.rel && f.mode == .user && s.parkedStore k x f.scope f.born

/-- The oldest of them. -/
def State.parkedFence (s : State) (k : Core) (x : StreamId) : Option Fence := (k.str x).fence.find? (s.fenceParked k x)

/-- Where a stream stands: the address that it resumes at, and the name of the incomplete instruction, or of the fence, at which it stands (R277,
R310, R314). -/
def State.standAt (s : State) (k : Core) (x : StreamId) : Word × Option Nat :=
  let st := k.str x
  match st.standing, s.parkedFence k x with
  | some op, _ => (op.pc, some op.id)
  | none, some f => (f.pc, some f.born)
  | none, none => (st.pc, none)

/-- The fence no longer holds anything of a mode back (R266): an acquire half waits for loads and atomics, a release half for loads and for stores
and atomics at its scope. -/
def State.fenceOpen (s : State) (mode : Mode) (f : Fence) : Bool :=
  s.cur.loadsDone mode f.born && (!f.acq || s.core.atomicsDone s.core.sel mode f.born)
    && (!f.rel || s.storesDone s.core s.core.sel mode f.scope f.born)

/-- Stores that an incomplete instruction has still to make and that an executor acknowledges later (R267). -/
def State.storesLeft (s : State) (k : Core) (op : LongOp) : Nat :=
  match op.work with
  | .atomic .. => 0
  | .lds .. => 0
  | .ldsq .. => 0
  | _ => ((s.workAccesses k op).filter (fun a =>
      a.use.writing && !(a.known && (s.ownSpad (k.opWho op) .store a.addr a.len).isSome))).length

/-- Stores and atomics without return of a core that are not yet acknowledged, those of an earlier task of the core among them (R267): CNT.UNACK,
with the elements that an element store has still to make. -/
def State.unack (s : State) (k : Core) : Nat := k.pending.length + (k.a.flight.map (s.storesLeft k)).foldl (· + ·) 0

/-- Copy jobs of the task on a core that are not detached and not complete (R273, R286). -/
def State.openJobs (s : State) (k : Core) : Bool :=
  (s.clusterAt k.cluster).jobs.any (fun j => j.pid == k.pid && j.ofTask k && !(j.shadows[7].getLsbD 0))

/-- The instruction still writes memory: stores of a queue entry, an atomic, a tile or its rows to scratchpad (R267, R333). -/
def Work.writesMemory : Work → Bool
  | .stElems .. => true
  | .storeq .. => true
  | .atomic .. => true
  | .mstore .. => true
  | .mdrain _ (.scratch _) _ => true
  | _ => false

/-- Stores, atomics and engine work of the task of the current core have reached where they go (R333). -/
def State.drained (s : State) : Bool :=
  s.core.pending.all (fun r => !r.ofTask s.core) && !s.openJobs s.core && (s.core.a.flight ++ s.core.c.flight).all (fun op => !op.work.writesMemory)

/-- The release of an EXIT at DEVICE scope holds, engine work included (R36, R286): stores of a wider scope are none of it. -/
def State.exitReleased (s : State) : Bool :=
  let k := s.core
  [StreamId.a, StreamId.c].all (fun x => (k.str x).loadsDone .user k.nextId && s.storesDone k x .user 3 k.nextId)
    && !s.openJobs k && k.c.flight.all (fun op => match op.work with
      | .mdrain _ (.scratch _) _ => false
      | .mstore .. => false
      | _ => true)

/-! ### Jobs on a tile, and rows of a drain into scratchpad (R149, R225, R231) -/

/-- A job naming the tile is accepted (R149). -/
def TileEntry.accept (e : TileEntry) (dest : Bool) : TileEntry :=
  let st := if dest then TileState.filling else if e.dests = 0 then .draining else .filling
  { e with state := st, jobs := e.jobs + 1, dests := if dest then e.dests + 1 else e.dests }

/-- A job naming the tile completes (R149). -/
def TileEntry.release (e : TileEntry) (dest : Bool) : TileEntry :=
  let d := if dest then e.dests - 1 else e.dests
  let st := if e.jobs ≤ 1 then TileState.ready else if d = 0 then .draining else .filling
  { e with state := st, jobs := e.jobs - 1, dests := d }

/-- The format word of a tile's tag: fp32, or i32 (R231, R237). -/
def TileTag.fmt (g : TileTag) : BitVec 16 :=
  match g with
  | .i32 => mkFmt 3 0
  | _ => mkFmt 6 0

/-- Element (i, j); a raw tile reads as zeros (R228). -/
def Tile.at (t : Tile) (i j : Nat) : Nat := if t.tag = .raw then 0 else ((t.elems[16 * i + j]?).getD 0).toNat

def Tile.put (t : Tile) (i j v : Nat) : Tile := { t with elems := t.elems.setIfInBounds (16 * i + j) (.ofNat 32 v) }

/-- Row r of a tile as a v register with its format word (R231). -/
def Tile.row (t : Tile) (r : Nat) : VReg :=
  ⟨.ofNat 512 ((List.range 16).foldl (fun acc j => acc + t.at r j * 2 ^ (32 * j)) 0), t.tag.fmt⟩

/-- A write of an engine or a drain into a scratchpad: its words become full, and words already full are counted (R150), a
reducing job's too (R204; log entry 91, DESIGN CHOICE). -/
def Core.engineWrite (k : Core) (off : Nat) (bs : List Byte) : Core :=
  let words := List.range ((off + bs.length - 1) / 8 - off / 8 + 1)
  let k1 := words.foldl (fun k i =>
    let w := off / 8 + i
    if k.isFull w then { k with sys := { k.sys with cntFeOver := k.sys.cntFeOver + 1 } } else k.setFull w true) k
  { k1 with spad := Memory.write k1.spad off bs }

/-- A row of a drain to scratchpad, word by word (R225, R231). -/
def Core.drainRow (k : Core) (p : Pair) (r : Nat) (row : VReg) : Core :=
  let rb := PairUse.drain.rowBytes p
  (List.range (rb / 8)).foldl (fun k w =>
    k.engineWrite (PairUse.drain.at p r (8 * w)) (natBytes (row.bits.toNat / 2 ^ (64 * w)) 8)) k

/-- The words of a row of a drain to scratchpad. -/
def drainWords (p : Pair) (r : Nat) : List Nat := (List.range (PairUse.drain.rowBytes p / 8)).map (fun w => PairUse.drain.at p r (8 * w) / 8)

/-- Scratchpad words that have been written whole are no longer poisoned (R336). -/
def State.cleanWords (s : State) (words : List Nat) : State :=
  if s.dev.poison.isEmpty then s
  else { s with dev := { s.dev with poison := s.dev.poison.filter (fun u => !(words.map (PoisonUnit.word s.core.pid)).contains u) } }

/-- Units that a poisoned source leaves poisoned (R336). -/
def State.poisonUnits (s : State) (us : List PoisonUnit) : State :=
  { s with dev := { s.dev with poison := us.foldl (fun acc u => if acc.contains u then acc else acc ++ [u]) s.dev.poison } }

/-! ### Ending a task -/

/-- Counts added to the counts of one tensor. -/
def addCounts (id : BitVec 32) (c : Counts) : List (BitVec 32 × Counts) → List (BitVec 32 × Counts)
  | [] => [(id, c)]
  | (k, x) :: rest =>
    if k = id then (k, ⟨x.sat + c.sat, x.flush + c.flush, x.nan + c.nan, x.pivot + c.pivot, x.qdisc + c.qdisc⟩) :: rest
    else (k, x) :: addCounts id c rest

/-- Joint instructions of other cores of the cluster that wait for this core trap with cause 0x13 when its task ends (R49). -/
def failGang (cluster cidx : Nat) (k : Core) : Core :=
  if k.cluster = cluster ∧ k.cidx ≠ cidx then
    { k with c := { k.c with flight := k.c.flight.map (fun op =>
        if op.status = .gang ∧ op.members.getLsbD cidx = true then { op with status := .trapped 0x13 (op.word.zeroExtend 64) } else op) } }
  else k

/-- R234: a task's OWNED tiles become FREE and its groups are no longer held. -/
def Core.releaseTiles (k : Core) : Core :=
  { k with aot := k.aot.map (fun e => if e.state = .owned then .free else { e with held := false }) }

/-- A recorded region holds the whole of another (R160). -/
def FaultRec.covers (r x : FaultRec) : Bool := r.ctx == x.ctx && decide (x.level ≤ r.level) && regionBase r.level x.base == r.base

/-- A fault is reported (R160, R161): the first of its region in the cluster makes a record and an entry of the fault buffer,
later ones coalesce; with the buffer or the records full it is dropped. `base` is the region's first byte. -/
def State.recordFault (s : State) (ctx cluster cidx : Nat) (st : StreamId) (kind level base : Nat) (va : Word) : State :=
  let d := s.dev
  let c := s.clusterAt cluster
  let recs := if kind = 6 then d.feFaults else c.faults
  let rec0 : FaultRec := ⟨ctx, base, level⟩
  if recs.any (fun r => r.covers rec0) then s
  else if decide (Config.faultRecords ≤ recs.length) || (d.fbTail - d.fbHead).toNat == 8 then
    let s1 := { s with dev := { d with fbFlag := true, fbDropped := d.fbDropped + 1 } }
    if d.fbFlag then s1 else s1.raiseMsi 0
  else
    let place := if kind = 6 then 0
      else (if st = .c then 2 ^ 27 else 0) + cidx * 2 ^ 24 + cluster * 2 ^ 16
    let entry : BitVec 128 := .ofNat 128 (va.toNat + 2 ^ 64 * (ctx + place + kind * 2 ^ 28 + level * 2 ^ 32))
    let s1 := { s with dev := { d with
      fbSlots := d.fbSlots.setIfInBounds (d.fbTail.toNat % 8) entry
      fbTail := d.fbTail + 1
      feFaults := if kind = 6 then rec0 :: d.feFaults else d.feFaults } }
    let s2 := if kind = 6 then s1 else s1.updCluster cluster (fun c => { c with faults := rec0 :: c.faults })
    if d.fbTail = d.fbHead then s2.raiseMsi 0 else s2

/-- The tile of a drain that its killed task leaves: a SPILLED group is filled first (R238). The drain has no effect where its fill is refused, does
not match or meets a missing page, which is reported, or where it had trapped already (R364; log entry 97). -/
def State.drainTile (s : State) (op : LongOp) (d : Nat) : State × Bool :=
  let pid := s.core.pid
  let e := s.core.getAot d
  match op.status with
  | .trapped _ _ => (s, false)
  | _ =>
    if e.state ≠ .spilled then (s, true)
    else
      match (s.ctxAt e.owner).pin e.key with
      | none => (s, false)
      | some p =>
        match s.locate (recordWho pid e.owner) .engRead p.spill (64 + 1024 * p.count) with
        | .deny => (s, false)
        | .fault l b va => (s.recordFault e.owner s.core.cluster s.core.cidx .c 4 l b va, false)
        | .ok cs =>
          match (s.touch e.owner false cs).takeRecord pid e.first e.owner p e.held (s.peekAll cs) with
          | none => (s, false)
          | some s1 => (if (s.poisoned cs).isSome then s1.poisonUnits ((List.range p.count).map (fun t => PoisonUnit.tile pid (e.first + t))) else s1, true)

/-- A drain to scratchpad without a handler is an engine job on its tile: the rows that its killed task leaves are written all the same, and
poison goes with them (R231, R319, R336). -/
def State.finishDrain (s : State) (op : LongOp) : State :=
  match op.work with
  | .mdrain d (.scratch p) none =>
    match s.drainTile op d with
    | (s0, false) => s0
    | (s0, true) =>
      let rows := (List.range 16).drop op.prog
      let t := s0.core.getTile d
      let words := rows.flatMap (drainWords p)
      let s1 := { s0 with core := rows.foldl (fun k r => k.drainRow p r (t.row r)) s0.core }
      let s2 := { s1 with core := s1.core.setTile d .zero }
      if s0.dev.poison.contains (.tile s0.core.pid d) then s2.poisonUnits (words.map (PoisonUnit.word s0.core.pid)) else s2.cleanWords words
  | _ => s

/-- The end of a front (R75, R79), a pre-emption pending or not: every block done and no update task running completes it ok, also one in
which the supervisor killed an update task that was then thawed and run to its end (log entry 61, DESIGN CHOICE: R39 names the kill as an
error, R79 the thaw as its repair); frozen with no update or stall task left, it ends in error with the trap that first froze it. -/
def State.frontEnd (s : State) (ctx q : Nat) (seq : BitVec 32) : State :=
  let live := s.allCores.any (fun k => match k.task with
    | some t => t.ctx == ctx && t.queue == q && t.seq == seq
    | none => false)
  if live then s else
  s.updCmd ctx q seq (fun c =>
    match c.front with
    | some f =>
      if (c.phase = .placed ∨ c.phase = .stopping) ∧ c.saved.isEmpty = true then
        if f.blocks.all (fun b => b.state == .done) then { c with phase := .ending .ok }
        else if f.frozen then { c with phase := .ending .error, first := c.first.or f.freezer }
        else c
      else c
    | none => c)

/-- The block of an update task after the task has ended (R74, R75, R79). -/
def Block.taskEnd (b : Block) (committed : Bool) (target : BitVec 32) : Block :=
  let st := if b.state = .frozen then .frozen
    else if committed && decide (0 ≤ sdiff b.level target) then .done else .idle
  { b with state := st, core := none, next := b.step }

/-- The command of the task is being cancelled (R39). -/
def State.cancelling (s : State) : Bool :=
  match s.taskCmd with
  | some c => c.phase == .ending .cancelled
  | none => false

/-- Queue entries that stand in a core. -/
def Core.queued (k : Core) : Nat := ((List.range 8).map (fun q => (k.getQueue q).length)).foldl (· + ·) 0

/-- The task of the current core exits, or stops being one of its command's tasks (R41, R47, R49): it leaves the team map, the members of its
gang that wait trap, its queue entries are discarded, and counted when both streams had exited. The model counts them too for a task that
cancellation stopped (log entry 27, DESIGN CHOICE). R49 names a member that exits or is killed; the model lets the others trap also where
cancellation stopped the member (log entry 75, DESIGN CHOICE). -/
def State.leave (s : State) : State :=
  match s.core.task with
  | none => s
  | some t =>
    if t.left then s
    else
      let stats := if s.core.queued = 0 || !(s.core.a.exited && s.core.c.exited) then s.core.stats
        else addCounts s.core.sys.tensorId { Counts.zero with qdisc := s.core.queued } s.core.stats
      let k : Core := { s.core with task := some { t with left := true }, queues := Vector.replicate 8 [], stats := stats }
      let s1 : State := { s with core := k, cores := s.cores.map (failGang k.cluster k.cidx) }
      s1.updCmd t.ctx t.queue t.seq (fun c =>
        { c with teamMap := modifyAt (fun _ => none) t.lid c.teamMap })

/-- The first trap of a command (R31): the earliest taken of those that ended one of its tasks. -/
def Command.noteTrap (c : Command) (cause id at_ : Nat) : Command :=
  if c.first.isNone || decide (at_ < c.firstAt) then { c with first := some (cause, id), firstAt := at_ } else c

/-- The task of the current core is over, by exit or by a kill with a cause (R41, R74, R234, R319). A command with a killed task ends in error
once its other tasks have ended (R333). Only an exit, whose release holds by now, counts towards the trigger (R36, R286). Drains to scratchpad of a killed task run to completion (R319). -/
def State.endTask (s : State) (killed : Option Nat) : State :=
  match s.core.task with
  | none => s
  | some t =>
    let s0 := if killed.isSome then s.core.c.flight.foldl State.finishDrain s.leave else s.leave
    let byExit := killed.isNone && !s.cancelling
    let k : Core := { s0.core.releaseTiles with
      task := none, handler := none, handlerOn := false, queues := Vector.replicate 8 [], deferred := [], stats := [],
      lastCtx := t.ctx, a := { s0.core.a with exited := true, flight := [], wins := [], fence := [], wait := none, taken := none },
      c := { s0.core.c with exited := true, flight := [], wins := [], fence := [], wait := none, drain := none } }
    let s1 : State := { s0 with core := k }
    let s2 := s1.updCtx t.ctx (fun c =>
      { c with pins := c.pins.map (fun p => if p.held = some s.core.pid then { p with held := none } else p) })
    let s3 := s2.updCmd t.ctx t.queue t.seq (fun c =>
      { c with
        stats := s0.core.stats.foldl (fun acc x => addCounts x.1 x.2 acc) c.stats
        trigs := if byExit then insertNat t.lid c.trigs else c.trigs })
    match t.kind with
    | .team =>
      s3.updCmd t.ctx t.queue t.seq (fun c =>
        let c1 := match killed with
          | some cause => c.noteTrap cause t.lid t.trapAt
          | none => c
        let busy := s3.allCores.any (fun k => match k.task with
          | some y => y.ctx == t.ctx && y.queue == t.queue && y.seq == t.seq
          | none => false)
        if (c.phase = .placed ∨ c.phase = .stopping) ∧ c1.teamMap.all (fun x => x.isNone) ∧ c1.saved.isEmpty ∧ busy = false then
          { c1 with phase := .ending (if c1.first.isSome then .error else .ok) }
        else c1)
    | .update b =>
      (s3.updFront t.ctx t.queue t.seq (fun f =>
        { f with
          blocks := modifyAt (fun x => x.taskEnd t.committed f.target) b f.blocks
          abandons := if t.committed then f.abandons else f.abandons + 1 })).frontEnd t.ctx t.queue t.seq
    | .stall _ => s3.frontEnd t.ctx t.queue t.seq

/-- The task of the current core is killed and its command ends in error with the cause as that of its first trap (R312, R363): a team's once
its other tasks have ended, a front's at once, with the trap that first froze it when one had. -/
def State.killTask (s : State) (cause : Nat) : State :=
  match s.core.task with
  | some t =>
    match t.kind with
    | .team => s.endTask (some cause)
    | _ => (s.endTask (some cause)).updCmd t.ctx t.queue t.seq (fun c =>
        { c with phase := .ending .error, first := (c.first.or (c.front.bind (·.freezer))).or (some (cause, t.lid)) })
  | none => s

/-- The trap is noted with its task: which trap of a command was taken first (R31). -/
def State.stampTrap (s : State) : State :=
  { s.updTask (fun t => { t with trapAt := s.dev.clock }) with dev := { s.dev with clock := s.dev.clock + 1 } }

/-- The refusal for which a task of which both streams have exited is killed (R363). -/
def Core.fatal (k : Core) : Option Nat :=
  match k.deferred with
  | d :: _ => some d.cause
  | [] => (k.a.lateTrap.or k.c.lateTrap).map (fun x => x.2.1)

/-- The exit of a task has made its release at DEVICE scope: it counts towards the trigger, whatever becomes of wider stores (R36, R286). -/
def State.exitTrigger (s : State) : State :=
  match s.core.task with
  | some t =>
    if s.exitReleased && !s.cancelling then s.updCmd t.ctx t.queue t.seq (fun c => { c with trigs := insertNat t.lid c.trigs }) else s
  | none => s

/-- A task whose two streams have executed EXIT has exited (R41). Its core is free once its stores are acknowledged and its engine work is
done; a refusal found meanwhile kills it, as a trap taken when it is found, and it triggers nothing (R31, R286, R333, R363). -/
def State.settleEnd (s : State) : State :=
  if s.core.task.isSome && s.core.a.exited && s.core.c.exited then
    let s1 := s.leave
    match s1.core.fatal with
    | some cause => s1.stampTrap.killTask cause
    | none =>
      let s2 := s1.exitTrigger
      if s2.drained then s2.endTask none else s2
  else s

/-! ### Poison and containment (R336 to R340) -/

/-- The rectangle of a register contains a cluster (R338): x in the low and y in the high half of the cluster id. -/
def ContRect.holds (r : ContRect) (cluster : Nat) : Bool :=
  r.valid && decide (r.x0.toNat ≤ cluster % 16) && decide (cluster % 16 ≤ r.x1.toNat)
    && decide (r.y0.toNat ≤ cluster / 16) && decide (cluster / 16 ≤ r.y1.toNat)

/-- The containment rectangle of a cluster (R338). -/
def State.rectOf (s : State) (cluster : Nat) : Option Nat :=
  (List.range 16).find? (fun n => (s.dev.rects[n]?.getD (ContRect.reset 1)).holds cluster)

/-- The command holds work in the rectangle: a live task, or a front's records (R340). -/
def State.cmdIn (s : State) (r : ContRect) (ctx q : Nat) (c : Command) : Bool :=
  s.allCores.any (fun k => r.holds k.cluster && (match k.task with
    | some t => t.ctx == ctx && t.queue == q && t.seq == c.seq
    | none => false))
  || (c.front.isSome && (c.phase == .placed || c.phase == .stopping) && c.clusters.any r.holds)

/-- Stores and atomics of a core that have passed its rectangle's boundary routers and are not yet performed, those with return among them (R358). -/
def Core.packets (k : Core) : List Request :=
  k.pending.filter (fun x => x.past && !x.served && !x.parked) ++ k.a.flight.filterMap (fun op => match op.work with
    | .atomic _ o n sc addr v c =>
      if op.past && op.status == .running then
        some { id := op.id, stream := .a, ctx := (k.opWho op).ctx, queue := (k.opWho op).queue, seq := (k.opWho op).seq, kind := .atomic o n v c,
               addr := addr, mode := op.mode, loc := 0, sc := sc, born := op.born, promoted := false, netPromoted := false, served := false,
               parked := false, ordinal := op.ordinal, past := true, since := (k.task.map (fun t => t.since)).getD 0
               noReplay := (k.task.map (fun t => t.kernel.noReplay)).getD false }
      else none
    | _ => none)

/-- A kill of a containment rectangle (R340): its cores, jobs and records are gone, its commands complete in error with first cause 0x12,
and the accesses that parked for them are given up (R320). What had passed its boundary routers stays to be delivered (R358).
`who` is the consuming task: context, queue, running number, logical id (R333). -/
def State.killRect (s : State) (n : Nat) (cause : Nat) (who : Option (Nat × Nat × BitVec 32 × Nat)) : State :=
  let r := s.dev.rects[n]?.getD (ContRect.reset 1)
  if r.killed || !r.valid then s
  else
    let hitCmd := fun (ctx q : Nat) (c : Command) =>
      if s.cmdIn r ctx q c then
        let lid := match who with
          | some (x, y, z, l) => if x = ctx ∧ y = q ∧ z = c.seq then l else 0xFFFF
          | none => 0xFFFF
        { c with phase := .ending .error, first := some (cause, lid), parked := false, claim := [] }
      else c
    let hitPin := fun (p : PinKey) => match p.core with
      | some pid => !(r.holds (pid / 8) && p.state == .pinned)
      | none => true
    let drop := fun (k : Core) => if r.holds k.cluster then Core.init k.pid else k
    let away := s.allCores.flatMap (fun k => if r.holds k.cluster then k.packets.map (fun x => (k.pid, x)) else [])
    { s with
      core := drop s.core
      cores := s.cores.filter (fun k => !r.holds k.cluster)
      clusters := s.clusters.map (fun c => if r.holds c.id then { c with jobs := [] } else c)
      contexts := s.contexts.map (fun x =>
        { x with
          queues := x.queues.map (fun y => (y.1, { y.2 with cmds := y.2.cmds.map (hitCmd x.id y.1) }))
          pins := (x.pins.filter hitPin).map (fun p =>
            { p with
              held := p.held.filter (fun pid => !r.holds (pid / 8))
              core := p.core.filter (fun pid => !r.holds (pid / 8)) }) })
      dev := { s.dev with
        packets := s.dev.packets ++ away
        rects := s.dev.rects.setIfInBounds n { r with killed := true, purged := false }
        errKill := if s.dev.errKill = 255 then 255 else s.dev.errKill + 1
        msix := if s.dev.errKill = 255 then s.dev.msix else s.dev.msix ++ [1]
        poison := s.dev.poison.filter (fun u => match u with
          | .word pid _ => !r.holds (pid / 8)
          | .reg pid _ _ => !r.holds (pid / 8)
          | .entry pid _ => !r.holds (pid / 8)
          | .tile pid _ => !r.holds (pid / 8)
          | .block ctx q seq _ => match s.cmdAt ctx q seq with
            | some c => !s.cmdIn r ctx q c
            | none => true
          | .line _ _ => true) } }

/-- The address of a unit, in on-chip-map form for what lies in a core (R336). Queue entries and block records have no place in the map:
their address reads 0 (log entry 40). -/
def PoisonUnit.address (u : PoisonUnit) : Word :=
  let chip := fun (pid off : Nat) => BitVec.ofNat 64 (0xFFF8000000000000 + pid * 2 ^ 24 + off)
  match u with
  | .word pid w => chip pid (8 * w)
  | .line _ pa => .ofNat 64 pa
  | .reg pid st r =>
    match r with
    | .g n => chip pid ((match st with
      | .a => 0xC00000
      | .c => 0xC00100) + 8 * n)
    | .f n => chip pid (0xC00200 + 8 * n)
    | .v n => chip pid (0xC01000 + 64 * n)
    | .m n => chip pid (0x800000 + 1024 * n)
  | .tile pid t => chip pid (0x800000 + 1024 * t)
  | .entry _ _ => 0
  | .block _ _ _ _ => 0

/-- The trap registers as a trap of the selected stream leaves them (R308, R309). -/
def Core.trapRegs (k : Core) (cause : Nat) (val pc save : Word) : SysRegs :=
  { k.sys with
    trapCause := .ofNat 8 cause
    trapVal := val
    trapPc := pc
    trapStream := (if (k.str k.sel.other).exited then 2 else 0) + (if k.sel = .c then 1 else 0)
    trapSave := save }

/-- Poison consumed by the task of the current core: the trap registers are written, no handler runs, and the rectangle of its cluster is
killed (R320, R336). -/
def State.consumePoison (s : State) (val pc : Word) : State :=
  let s1 := { s with core := { s.core with sys := s.core.trapRegs 0x12 val pc (s.standAt s.core s.core.sel.other).1 } }
  match s1.rectOf s1.core.cluster with
  | some n => s1.killRect n 0x12 (s1.core.task.map (fun t => (t.ctx, t.queue, t.seq, t.lid)))
  | none => s1

/-! ### Taking a trap and returning from one -/

/-- A trap in an update task freezes its front, unless the cause is 0x10, 0x15 or 0x16 (R78). -/
def State.freeze (s : State) (cause : Nat) : State :=
  match s.core.task with
  | some t =>
    match t.kind with
    | .update b =>
      if cause = 0x10 ∨ cause = 0x15 ∨ cause = 0x16 then s
      else s.updTaskFront (fun f =>
        { f with
          frozen := true
          freezer := f.freezer.or (some (cause, b))
          blocks := modifyAt (fun x => { x with state := .frozen }) b f.blocks })
    | _ => s
  | none => s

/-- The entries that an A-stream's incomplete ldsq have reserved. -/
def Stream.syncEntries (st : Stream) : List Nat :=
  st.flight.filterMap (fun op => match op.work with
    | .ldsq en _ _ _ => if op.status == .running then some en else none
    | _ => none)

/-- A stopped A-stream's waiting synchronising accesses take nothing with them (R195): the entries of its ldsq that no one has popped are
withdrawn, and the entry that its stsq popped goes back. -/
def Core.withdraw (k : Core) : Core :=
  let k1 : Core := { k with
    queues := if k.a.syncEntries.isEmpty then k.queues
      else k.queues.map (fun es => es.filter (fun e => !k.a.syncEntries.contains e.id)) }
  match k1.a.taken with
  | some (q, e) => { k1.setQueue q (e :: k1.getQueue q) with a := { k1.a with taken := none } }
  | none => k1

/-- A withdrawn entry is reserved again, in the order of issue (R92, R195), when its queue has room. -/
def reserveAgain (en : Nat) (fmt : BitVec 16) (es : List QEntry) : List QEntry :=
  if decide (Config.queueDepth ≤ es.length) then es
  else es.takeWhile (fun e => decide (e.id < en)) ++ [⟨en, false, 0, fmt⟩] ++ es.dropWhile (fun e => decide (e.id < en))

/-- The A-stream's ldsq restart: entries that were withdrawn are reserved again (R195). -/
def Core.restartSync (k : Core) : Core :=
  k.a.flight.foldl (fun k op => match op.work with
    | .ldsq en q fmt _ => if k.hasEntry en then k else k.setQueue q (reserveAgain en fmt (k.getQueue q))
    | _ => k) k

/-- A stream that is stopped in a barrier instruction: the arrival of a bar.w stands, and it resumes as a barw (R280); one that has not arrived yet
takes nothing with it. -/
def Stream.heldArrival (st : Stream) : Stream :=
  { st with arrived := st.arrived.map (fun x => (x.1, x.2.1, true)), asking := none }

/-- Entries that a joint instruction popped go back to the front of their queue: it restarts whole or is abandoned (R49, R222). -/
def Core.unpop (k : Core) (m : MOperand) : Core :=
  match m with
  | .entries q es => k.setQueue q (es ++ k.getQueue q)
  | _ => k

/-- An entry that will never be filled leaves its queue. -/
def Core.dropEntry (k : Core) (id : Nat) : Core := { k with queues := k.queues.map (fun es => es.filter (fun e => e.id != id)) }

/-- What a joint instruction that has not begun took at its issue goes back (R49). -/
def Core.untake (k : Core) (op : LongOp) : Core :=
  match op.work with
  | .mmac _ _ _ x y => (k.unpop y).unpop x
  | .fwdelta _ _ x y _ => (k.unpop y).unpop x
  | .fwread _ _ x en => (k.unpop x).dropEntry en
  | _ => k

/-- A joint instruction that waits for its gang restarts whole (R49): its stream has not issued it. Nothing has issued behind it. -/
def Core.unissue (k : Core) : Core :=
  match k.c.atGang with
  | none => k
  | some op =>
    let k1 := k.untake op
    { k1 with c := { k1.c with flight := k1.c.flight.filter (fun o => o.id != op.id), pc := op.pc } }

/-- A blocking wait whose instruction is restarted whole once its stream resumes, and then counts as issued again (R100, R310, R326; log entry 93). -/
def Wait.restarts : Wait → Bool
  | .pop _ _ => true
  | .fill => true
  | .fullEmpty => true
  | .tile _ => true
  | .xfer => true
  | .barrier => true
  | .dsync => true
  | .gsync => true
  | .waitp => true
  | .cpwait => true
  | .frozen => true
  | _ => false

/-- A stream stands at such a wait, or stood there when it last stopped. A release half waits as a fence does: it is one while a store that it covers
stands parked (R271, R277). -/
def State.waitsWhole (s : State) (k : Core) (x : StreamId) : Bool :=
  let st := k.str x
  st.rewait || (match st.wait with
    | some (.release sc) => st.mode == .user && s.parkedStore k x sc k.nextId
    | some w => w.restarts
    | none => false)

/-- Where a trap finds the two streams: the addresses that TRAP.PC and TRAP.SAVE take, the issue point of the trapping stream, the names of the
incomplete instructions or fences that the two addresses name, and whether each stream stands at a wait that is restarted whole. -/
structure TrapAt where
  pc    : Word
  point : Word
  named : Option Nat
  whole : Bool
  save  : Word
  other : Option Nat
  otherWhole : Bool

/-- The registers and streams of a core as a trap of its selected stream leaves them (R309, R310): the issue point is kept with the stream (R314),
whose windows close (log entry 11). -/
def Core.enterHandler (k : Core) (cause : Nat) (val : Word) (at_ : TrapAt) : Core :=
  let k0 := k.unissue
  let point := if k.sel = .c ∧ k.c.atGang.isSome = true then k0.c.pc else at_.point
  let k1 := k0.updStr k.sel (fun st =>
    { st.heldArrival with
      mode := .sup, pc := k.sys.trapVec, resume := (at_.pc, point), named := at_.named, rewait := at_.whole
      wait := none, wins := [], aside := ⟨st.heldArrival.arrived, st.dsynced, st.gsynced⟩, arrived := none, dsynced := none, gsynced := false })
  let k2 := k1.updStr k.sel.other (fun st =>
    { st.heldArrival with resume := (at_.save, st.pc), named := at_.other, rewait := at_.otherWhole })
  { k2.withdraw with
    handler := some k.sel
    handlerOn := false
    sys := k.trapRegs cause val at_.pc at_.save }

/-- Before the handler's first instruction the other stream has stopped: TRAP.SAVE holds the address at which it stands now (R89, R310). -/
def State.beginHandler (s : State) : State :=
  let k := s.core
  if k.handlerOn then s
  else
    let o := s.standAt k k.sel.other
    { s with core := { k.updStr k.sel.other (fun st => { st with resume := (o.1, st.pc), named := o.2 }) with
        handlerOn := true
        sys := { k.sys with trapSave := o.1 } } }

/-- A trap met in supervisor mode (R312): the task is killed with the first trap's cause, and the front of an update task ends in error. -/
def State.doubleTrap (s : State) : State := s.killTask s.core.sys.trapCause.toNat

/-- Takes a trap in the selected stream (R309): one operation for every cause. Cause 0x12 runs no handler (R320).
In supervisor mode it is a double trap and the task is killed with the first trap's cause (R312). `named` is the incomplete instruction that `pc`
names, where it names one, and `waits` says that the stream stood at a wait there. -/
def State.takeTrap (s : State) (cause : Nat) (val pc issuePoint : Word) (named : Option Nat := none) (waits : Bool := false) : State :=
  let o := s.standAt s.core s.core.sel.other
  if cause = 0x12 then s.consumePoison val pc
  else if s.cur.mode = .sup then s.doubleTrap
  else ({ s with core := s.core.enterHandler cause val ⟨pc, issuePoint, named, waits && s.waitsWhole s.core s.core.sel, o.1, o.2,
    s.waitsWhole s.core s.core.sel.other⟩ }.freeze cause).stampTrap

/-- An entry is filled, wherever it stands: in its queue, or popped by an instruction that waits for it (R92). -/
def Core.fillEntry (k : Core) (id : Nat) (bits : BitVec 512) : Core :=
  let upd := fun (e : QEntry) => if e.id = id then { e with filled := true, bits := bits } else e
  let ops := fun (st : Stream) => st.flight.map (fun op => { op with work := op.work.mapEntries upd })
  { k with
    queues := k.queues.map (fun es => es.map upd)
    a := { k.a with flight := ops k.a, taken := k.a.taken.map (fun x => (x.1, upd x.2)) }
    c := { k.c with flight := ops k.c } }

/-- Abandons an instruction that took a late trap (R314, R364): a load form fills its entry with what it placed and zeros, what a joint one
popped goes back, the entry that a fwread reserved is withdrawn, and a drain to scratchpad is no longer a job on its tile. -/
def Core.abandon (k : Core) (op : LongOp) : Core :=
  match op.work with
  | .ldElems en _ _ acc => k.fillEntry en acc
  | .loadq en _ => k.fillEntry en 0
  | .ldsq en _ _ _ => k.fillEntry en 0
  | .mdrain _ (.scratch p) _ => k.setEntry p.tid ((k.getEntry p.tid).release true)
  | _ => k.untake op

/-- An instruction of user code is executed again from its start when its stream resumes: after a late trap, or in a wait of one that has issued
(R49, R195, R243, R364). -/
def LongOp.restarts (op : LongOp) : Bool :=
  op.mode == .user && match op.status with
  | .trapped _ _ => true
  | .running => (match op.work with
    | .lds .. => true
    | .ldsq .. => true
    | .fwdelta .. => true
    | .fwread .. => true
    | _ => false)
  | _ => false

/-- Instructions of a stream that issue again count once more (R326). -/
def Core.countAgain (k : Core) (x : StreamId) (n : Nat) : Core :=
  { k with sys := match x with
    | .a => { k.sys with cntIssA := k.sys.cntIssA + .ofNat 64 n }
    | .c => { k.sys with cntIssC := k.sys.cntIssC + .ofNat 64 n } }

/-- An instruction of the stream that took a late trap goes on (R364), an indexed form with its list read anew, a joint one that had begun with its gang. One that had not begun issues
again under the MASK that stands now (R48, R49). -/
def LongOp.rerun (mask : BitVec 8) (op : LongOp) : LongOp :=
  match op.status with
  | .trapped _ _ => if op.joint && !op.met then { op with status := .gang, members := mask } else { op with status := .running, list := [] }
  | _ => op

/-- A joint instruction that waits for its gang under a MASK that makes its core another's leader, or no leader any more, reads its operands
anew (R222): it issues again. `was` is the stream before its instructions were made to go on. -/
def Core.releads (k : Core) (was : Stream) : Core :=
  match k.c.atGang, was.flight.find? (fun op => op.joint && !op.met) with
  | some op, some old => if leadsIn k.cidx op.members = leadsIn k.cidx old.members then k.countAgain .c 1 else k.unissue
  | _, _ => k

/-- A stream resumes at the address a handler left for it (R309, R310, R314): unchanged, it goes on from its issue point, and what is restarted whole
or took a late trap runs again; changed, the issue point moves there and the instruction that the address had named is abandoned when it
would have started over: in the stream that trapped (`trapper`) also one that took a late trap. Part-way and parked instructions go on (log entry 19). -/
def Core.resumeStream (k : Core) (x : StreamId) (trapper : Bool) (addr : Word) : Core :=
  let st := k.str x
  let same := decide (addr = st.resume.1)
  let gone := if same then [] else st.flight.filter (fun op => some op.id == st.named && op.restarts && (trapper || op.status == .running))
  let k1 := (gone.foldl Core.abandon k).updStr x (fun y =>
    { y with
      mode := .user
      pc := if same then st.resume.2 else addr
      wait := none, rewait := false, named := none
      fence := if same then y.fence else y.fence.filter (fun f => some f.born != st.named)
      flight := y.flight.filter (fun op => !(gone.any (fun z => z.id == op.id))) })
  let again := (((k1.str x).flight.filter (fun op => op.restarts && (!op.joint || op.met))).length)
    + (if same && (st.rewait || st.fence.any (fun f => some f.born == st.named)) then 1 else 0)
  let k2 := (k1.countAgain x again).updStr x (fun y => { y with flight := y.flight.map (LongOp.rerun k.sys.gangMask) })
  if x = .c then k2.releads (k1.str x) else k2

/-- TRET (R309, R328): both streams resume in user mode at TRAP.PC and TRAP.SAVE; an exited stream stays exited (R310), and one whose SAFEPT
met a pre-emption behind its trap stops. What a wait of user code had left behind in the handler's stream stands again (R280, R283, R284). -/
def State.returnFromTrap (s : State) : State :=
  let x := s.core.sel
  let k0 := s.core.updStr x (fun st => { st with arrived := st.aside.arrived, dsynced := st.aside.dsynced, gsynced := st.aside.gsynced })
  let k1 := k0.resumeStream x true s.core.sys.trapPc
  let k2 := if (k1.str x.other).exited then k1 else k1.resumeStream x.other false s.core.sys.trapSave
  let stop := fun (st : Stream) => if st.stopDue && k2.sys.preReq && !st.exited then { st with stopped := some .safept, stopDue := false }
    else { st with stopDue := false }
  let k3 := { k2.restartSync with handler := none, handlerOn := false }
  { s with core := { k3 with a := stop k3.a, c := stop k3.c } }

/-! ### Waiting and stopping -/

/-- The selected stream stops for a pre-emption (R100); a synchronising access at which it waits has taken nothing (R195), and a joint instruction
that waits for its gang restarts whole (R49). `whole` is whether it stops at a wait that is restarted whole (R326). -/
def Core.stopHere (k : Core) (whole : Bool) : Core :=
  let k1 := if k.sel = .c then k.unissue else k
  let k2 := k1.updStr k.sel (fun st => { st.heldArrival with stopped := some .wait, rewait := whole })
  if k.sel = .a then k2.withdraw else k2

def State.stopHere (s : State) : State := { s with core := s.core.stopHere (s.waitsWhole s.core s.core.sel) }

/-- Waits that R100 lets a stream stop at, those that the trap chapter and the instructions call blocking. -/
def Wait.blocking : Wait → Bool
  | .pop _ _ => true
  | .fullEmpty => true
  | .tile _ => true
  | .xfer => true
  | .barrier => true
  | .dsync => true
  | .gsync => true
  | .waitp => true
  | .cpwait => true
  | .gang => true
  | .frozen => true
  | .parked _ => true
  | _ => false

/-- An access of the instruction has parked (R159). -/
def LongOp.parks (op : LongOp) : Bool :=
  match op.status with
  | .parked _ => true
  | _ => false

/-- An incomplete instruction stands at a blocking wait of R100 and R311: its gang, full/empty bits, or the pops that it makes while it executes; for
fwchunk the reservation of its q4 entry as well (log entry 86, DESIGN CHOICE). -/
def LongOp.blocks (op : LongOp) : Bool :=
  op.status == .gang || (op.status == .running && match op.work with
    | .lds .. => true
    | .ldsq .. => true
    | .vredq .. => true
    | .fwchunk .. => true
    | _ => false)

/-- The drain whose handler the stream runs (R231): it is no stopping point of its own. -/
def Stream.inDrain (st : Stream) (op : LongOp) : Bool := (st.drain.map (fun d => d.op == op.id)).getD false

/-- Inside a drain handler the stream may stop only at a blocking wait or a parked access (R231). -/
def State.drainMayStop (s : State) : Bool :=
  s.cur.drain.isNone || s.cur.flight.any (fun op => !s.cur.inDrain op && (op.blocks || op.parks) && !s.goesOn s.core s.core.sel op)

/-- The stream has reached a stopping point inside an incomplete instruction (R315): a parked access, a blocking wait of one that has issued, a part-way
instruction that stops there (R313), or a fence that waits for a parked store (R277). Inside a drain handler only a blocking wait is one (R231). -/
def State.standsStill (s : State) : Bool :=
  s.cur.flight.any (fun op => op.stands && !s.cur.inDrain op && (s.cur.drain.isNone || op.blocks || op.parks)
      && (op.work.stopsBetween || !s.goesOn s.core s.core.sel op))
    || (s.parkedFence s.core s.core.sel).isSome

/-- The stream stands at a point where it may be stopped (R100, R315): a blocking wait, a push blocked with the other stream
stopped or exited, a wait on instructions each of which stands at a stopping point of its own, or one behind a fence or a release of its own whose
store stands parked (R267, R277). -/
def State.stoppable (s : State) (w : Wait) : Bool :=
  let o := s.core.str s.core.sel.other
  match w with
  | .push _ => o.exited || o.stopped.isSome
  | .depend => s.preHalted s.core.sel && s.drainMayStop
  | .fill => s.preHalted .a && s.preHalted .c && s.drainMayStop
  | .unit => s.cur.flight.any (fun op => op.part) && s.preHalted s.core.sel && s.drainMayStop
  | .partway _ => s.preHalted s.core.sel && s.drainMayStop
  | .fence => s.standsStill
  | .release sc => s.parkedStore s.core s.core.sel sc s.core.nextId
  | w => w.blocking

/-- The wait is a blocking wait as cause 0x15 asks for one (R56, R311): the address of the waiting instruction, with its name where it has issued. It is
the next instruction, or the incomplete one on which it depends. A parked access, a blocked push and a wait for data are none. -/
def State.blockedAt (s : State) (w : Wait) : Option (Word × Option Nat) :=
  let inner := (s.cur.flight.find? (fun op => op.blocks && !s.goesOn s.core s.core.sel op)).map (fun op =>
    (op.pc, if op.status = .gang then none else some op.id))
  if !s.quiet then none
  else
    match w with
    | .parked _ => none
    | .push _ => none
    | .gang => s.cur.atGang.map (fun op => (op.pc, none))
    | .depend => inner
    | .fill => inner
    | .unit => inner
    | .partway _ => inner
    | .jobs => none
    | .fence => ((s.parkedFence s.core s.core.sel).map (fun f => (f.pc, some f.born))).or inner
    | _ => some (s.cur.pc, none)

/-- The issuing stream tried to issue and must wait (R84, R92): the wait is recorded, and if it may stop there a cancelled task stops (R39),
a due topology trap is taken (R56) and a pending pre-emption stops the stream (R100). -/
def State.waitAt (s : State) (w : Wait) : State :=
  let s1 := s.updCur (fun st =>
    { st with wait := some w, waitFrom := if st.wait = some w then st.waitFrom else s.dev.cycle.toNat })
  if s1.cur.mode = .sup then s1
  else if !s.stoppable w then s1
  else if s.cancelling then (s1.updCur (fun st => { st with exited := true })).settleEnd
  else
    match s.core.task with
    | some t =>
      match (if t.topoDue then s.blockedAt w else none) with
      | some (pc, named) => (s1.updTask (fun t => { t with topoDue := false })).takeTrap 0x15 (.ofNat 64 s.clCount) pc s.cur.pc named true
      | none => if s.core.sys.preReq then s1.stopHere else s1
    | none => s1

/-- A trap at the issue of an instruction (R89, R309): the stream's earlier instructions complete or stop first. -/
def State.trapAt (s : State) (cause : Nat) (val : Word) : State :=
  if s.quiet then s.takeTrap cause val s.cur.pc s.cur.pc
  else s.updCur (fun st => { st with wait := some .drain })

/-- The issuing stream's instruction, or its fetch, meets a missing page: it is reported and parks, or traps with cause 0x08 under NOREPLAY, where
the report comes with the trap (R159, R160). -/
def State.parkAt (s : State) (kind level base : Nat) (va : Word) : State :=
  let s1 := s.recordFault ((s.core.task.map (·.ctx)).getD 0) s.core.cluster s.core.cidx s.core.sel kind level base va
  if s.noReplay then (if s.quiet then s1.trapAt 0x08 va else s.trapAt 0x08 va) else s1.waitAt (.parked va)

/-! ### The order of checks at issue -/

/-- What an instruction does once R123's first checks have passed. -/
inductive Res where
  /-- It has issued; the state it leaves. -/
  | done (s : State)
  /-- It traps at its issue, with no effect (R123). -/
  | trap (cause : Nat) (val : Word)
  /-- It traps in the state given: it has completed (R327), or its trap changes more than its own core (R284). -/
  | after (s : State) (cause : Nat) (val : Word)
  /-- It cannot issue yet. -/
  | wait (w : Wait)
  /-- It cannot complete yet, and what it has done stands: an arrival (R280, R283). The state is the one before its issue. -/
  | hold (s : State) (w : Wait)
  /-- One of its accesses meets a page fault: kind and level of R161, region, address; it parks, or traps under NOREPLAY (R159). -/
  | park (kind level base : Nat) (va : Word)

/-- Streams that admit an instruction (R106, R107). -/
inductive Streams where
  | both | aOnly | cOnly
deriving DecidableEq, Repr

/-- How an instruction uses memory, as fences order it (R266): not at all, by loads alone, or with a store, an atomic or a synchronising access. -/
inductive MemUse where
  | none | load | store
deriving DecidableEq, Repr

/-- How an instruction issues: its streams, whether the running task makes it illegal (R76, R287), its privilege, the registers
it reads or writes (R87), whether it is a joint instruction, and its use of memory. -/
structure Form where
  instr   : Instr
  streams : Streams
  illegal : Bool := false
  priv    : Bool := false
  uses    : List Reg := []
  joint   : Bool := false
  mem     : MemUse := .none
  /-- Registers of `uses` that it writes whole without reading them, beside `Instr.fresh` (R336). -/
  whole   : List Reg := []

/-- Whether the selected stream admits the instruction (R107). -/
def Streams.admits (x : Streams) (st : StreamId) : Bool :=
  match x, st with
  | .both, _ => true
  | .aOnly, .a => true
  | .cOnly, .c => true
  | _, _ => false

/-- A register set meets another, tiles of joint instructions apart (R87). -/
def meets (uses dests : List Reg) (joint : Bool) : Bool :=
  uses.any (fun r => dests.contains r && !(joint && (match r with
    | .m _ => true
    | _ => false)))

/-- The open window that the instruction breaks, if any: the earliest (R87, R88). -/
def Stream.broken (st : Stream) (fm : Form) : Option Win :=
  st.wins.find? (fun w => decide (st.pos + 1 ≤ w.last) && meets fm.uses w.dests (fm.joint && w.joint))

/-- The instruction touches a destination of an incomplete instruction (R87). -/
def Stream.awaits (st : Stream) (fm : Form) : Bool :=
  st.flight.any (fun op => meets fm.uses op.dests (fm.joint && op.joint))

/-- A fence lets a later access of the given use be performed (R266): a release holds back stores, atomics and synchronising accesses,
an acquire and a full fence every access. One of user code at which the stream stopped, since a store of its is parked, starts over after TRET and
holds nothing of the handler's back (R277, R310). -/
def State.fenceLets (s : State) (u : MemUse) (f : Fence) : Bool :=
  (!f.acq && u == .load) || s.fenceOpen s.cur.mode f || (s.cur.mode == .sup && s.fenceParked s.core s.core.sel f)

/-- Every fence lets the access be performed, and no synchronising load is still waiting, those that a handler's stream stopped in apart (R195, R266,
R271). -/
def State.fencesLet (s : State) (u : MemUse) : Bool :=
  s.cur.fence.all (s.fenceLets u) && s.cur.flight.all (fun op => asleep op s.cur.mode || (match op.work with
    | .lds .. => false
    | .ldsq .. => false
    | _ => true))

/-- The length of the instruction in bytes, as an address step. -/
def Instr.step (i : Instr) : Word := .ofNat 64 (i.bits / 8)

/-- The issuing stream past the instruction: its address, its position, no recorded wait, windows that have closed dropped (R84, R87).
What a waiting instruction had left behind ends with the stream's next instruction (R280, R283, R284, R326). -/
def Stream.advance (st : Stream) (i : Instr) : Stream :=
  { st with pc := st.pc + Instr.step i, pos := st.pos + 1, wait := none, arrived := none, dsynced := none, gsynced := false, asking := none,
            rewait := if st.mode = .user then false else st.rewait,
            wins := st.wins.filter (fun w => decide (st.pos + 1 < w.last)) }

/-- The machine after the issue of an instruction and before its own effect: the stream has advanced, CNT.ISSA or CNT.ISSC counts it (R326);
a handler has begun (R89). -/
def State.advance (s : State) (i : Instr) : State :=
  let s0 := s.updCur (fun st => st.advance i)
  let s1 := if s.cur.mode = .sup then s0.beginHandler else s0
  match s.core.sel with
  | .a => s1.updSys (fun r => { r with cntIssA := r.cntIssA + 1 })
  | .c => s1.updSys (fun r => { r with cntIssC := r.cntIssC + 1 })

/-- The selected stream can act: it runs a task, has not exited or stopped, no handler runs on the other stream, a handler's instruction finds the
other stream stopped (R89, R309, R310), and a trap of cause 0x16 that is due comes first (R55, R316). -/
def State.canAct (s : State) : Bool :=
  s.core.task.isSome && !s.cur.exited && s.cur.stopped.isNone
    && (match s.core.handler with
      | none => true
      | some h => h == s.core.sel && s.cur.mode == .sup && (s.core.handlerOn || (s.quiet && s.halted h.other)))
    && (match s.core.task.bind (·.movedDue) with
      | some _ => s.core.sel == .a || s.core.a.exited
      | none => true)

/-- The selected stream can issue: it can act, has not parked and does not wait for its gang. -/
def State.canIssue (s : State) : Bool :=
  s.canAct && (match s.cur.wait with
    | some (.parked _) => false
    | _ => s.cur.atGang.isNone)

/-- A pre-emption is pending and the stream has reached a stopping point inside an incomplete instruction (R315). -/
def State.preStop (s : State) : Bool := s.core.sys.preReq && s.cur.mode == .user && s.standsStill

/-- The instruction at which a deferred trap is taken (R363): the joint one at which the stream waits, else the next. -/
def Stream.waitPc (st : Stream) : Word := (st.atGang.map (·.pc)).getD st.pc

/-- A joint instruction of a handler that its gang made trap: a double trap (R49, R312). -/
def LongOp.doubles (op : LongOp) : Bool :=
  op.mode == .sup && match op.status with
  | .trapped _ _ => true
  | _ => false

/-- A trap that is due before the stream's next instruction: cause 0x16 after a move (R55), the oldest late trap (R364),
the oldest deferred refusal, taken in the A-stream or in the C-stream once the A-stream has exited (R363); with none, a pending pre-emption stops
a stream that has reached a stopping point (R315). -/
def State.dueTrap (s : State) : Option State :=
  let st := s.cur
  if st.mode = .sup then (if st.flight.any LongOp.doubles then some s.doubleTrap else none)
  else
    let front := s.core.sel == .a || s.core.a.exited
    match s.core.task with
    | none => none
    | some t =>
      match t.movedDue with
      | some old =>
        if front then
          some ((s.updTask (fun t => { t with movedDue := none })).takeTrap 0x16 (.ofNat 64 old) (s.standAt s.core s.core.sel).1 st.pc
            (s.standAt s.core s.core.sel).2 true)
        else none
      | none =>
        match st.lateTrap with
        | some (op, c, v) =>
          if s.quiet then some (s.takeTrap c v op.pc st.pc (some op.id) true)
          else some (s.updCur (fun st => { st with wait := some .drain }))
        | none =>
          match s.core.deferred with
          | d :: _ =>
            if front then
              if s.quiet then
                some ({ s with core := { s.core with deferred := [] } }.takeTrap d.cause d.addr st.waitPc st.pc none true)
              else some (s.updCur (fun st => { st with wait := some .drain }))
            else none
          | [] => if s.preStop && !s.cancelling then some s.stopHere else none

/-- The v register that a masked instruction writes whole (R99, R336): under keep its write is partial, whatever its mask holds (log entry 62). -/
def wholeV (d : BitVec 5) (pol me : BitVec 1) : List Reg := if me = 0 ∨ pol = 1 then [.v d.toNat] else []

/-- The registers that an instruction writes whole without reading them (R336): its destination register, where the old content does not count. -/
def Instr.fresh : Instr → List Reg
  | .add d _ _ => [.g d.toNat]
  | .sub d _ _ => [.g d.toNat]
  | .mul d _ _ _ => [.g d.toNat]
  | .mulh d _ _ _ => [.g d.toNat]
  | .div d _ _ _ => [.g d.toNat]
  | .divu d _ _ _ => [.g d.toNat]
  | .rem d _ _ _ => [.g d.toNat]
  | .remu d _ _ _ => [.g d.toNat]
  | .and d _ _ => [.g d.toNat]
  | .or d _ _ => [.g d.toNat]
  | .xor d _ _ => [.g d.toNat]
  | .shl d _ _ => [.g d.toNat]
  | .shr d _ _ => [.g d.toNat]
  | .sar d _ _ => [.g d.toNat]
  | .slt d _ _ => [.g d.toNat]
  | .sltu d _ _ => [.g d.toNat]
  | .min d _ _ => [.g d.toNat]
  | .max d _ _ => [.g d.toNat]
  | .clz d _ => [.g d.toNat]
  | .ctz d _ => [.g d.toNat]
  | .popc d _ => [.g d.toNat]
  | .gcd d _ _ _ => [.g d.toNat]
  | .addi d _ _ => [.g d.toNat]
  | .andi d _ _ => [.g d.toNat]
  | .ori d _ _ => [.g d.toNat]
  | .xori d _ _ => [.g d.toNat]
  | .shli d _ _ => [.g d.toNat]
  | .shri d _ _ => [.g d.toNat]
  | .sari d _ _ => [.g d.toNat]
  | .slti d _ _ => [.g d.toNat]
  | .sltiu d _ _ => [.g d.toNat]
  | .lui d _ => [.g d.toNat]
  | .adpc d _ => [.g d.toNat]
  | .gtol d _ => [.g d.toNat]
  | .ltog d _ _ => [.g d.toNat]
  | .inap d _ => [.g d.toNat]
  | .teama d _ _ => [.g d.toNat]
  | .ld d _ _ _ _ => [.g d.toNat]
  | .ldz d _ _ _ _ => [.g d.toNat]
  | .lds d _ _ _ => [.g d.toNat]
  | .tstat d _ => [.g d.toNat]
  | .cpgo d => [.g d.toNat]
  | .cpprobe d _ => [.g d.toNat]
  | .lvthaw d _ => [.g d.toNat]
  | .sysrd d _ => [.g d.toNat]
  | .feq d _ _ => [.g d.toNat]
  | .flt d _ _ => [.g d.toNat]
  | .fle d _ _ => [.g d.toNat]
  | .f2g d _ _ => [.g d.toNat]
  | .fmvg d _ => [.g d.toNat]
  | .qget _ d => [.g d.toNat]
  | .lvget d _ => [.g d.toNat, .g (d.toNat + 1)]
  | .lvnbr d _ => [.g d.toNat, .g (d.toNat + 1)]
  | .atomicAdd d _ _ _ rt _ => if rt = 1 then [.g d.toNat] else []
  | .atomicAnd d _ _ _ rt _ => if rt = 1 then [.g d.toNat] else []
  | .atomicOr d _ _ _ rt _ => if rt = 1 then [.g d.toNat] else []
  | .atomicXor d _ _ _ rt _ => if rt = 1 then [.g d.toNat] else []
  | .atomicMin d _ _ _ rt _ => if rt = 1 then [.g d.toNat] else []
  | .atomicMax d _ _ _ rt _ => if rt = 1 then [.g d.toNat] else []
  | .atomicSwp d _ _ _ rt _ => if rt = 1 then [.g d.toNat] else []
  | .fadd d _ _ _ => [.f d.toNat]
  | .fsub d _ _ _ => [.f d.toNat]
  | .fmul d _ _ _ => [.f d.toNat]
  | .fdiv d _ _ _ => [.f d.toNat]
  | .fsqrt d _ _ => [.f d.toNat]
  | .fmin d _ _ => [.f d.toNat]
  | .fmax d _ _ => [.f d.toNat]
  | .fabs d _ => [.f d.toNat]
  | .fneg d _ => [.f d.toNat]
  | .fcvt d _ _ _ => [.f d.toNat]
  | .g2f d _ _ _ => [.f d.toNat]
  | .gmvf d _ _ => [.f d.toNat]
  | .fnum d _ => [.f d.toNat]
  | .fden d _ => [.f d.toNat]
  | .fmake d _ _ _ => [.f d.toNat]
  | .fmed d _ _ _ => [.f d.toNat]
  | .frnd d _ _ _ => [.f d.toNat]
  | .fnbr d _ _ _ => [.f d.toNat]
  | .fli d _ => [.f d.toNat]
  | .vadd d _ _ _ pol me => wholeV d pol me
  | .vsub d _ _ _ pol me => wholeV d pol me
  | .vmul d _ _ _ pol me => wholeV d pol me
  | .vdiv d _ _ _ pol me => wholeV d pol me
  | .vmin d _ _ _ pol me => wholeV d pol me
  | .vmax d _ _ _ pol me => wholeV d pol me
  | .vand d _ _ _ pol me => wholeV d pol me
  | .vor d _ _ _ pol me => wholeV d pol me
  | .vxor d _ _ _ pol me => wholeV d pol me
  | .vshl d _ _ _ pol me => wholeV d pol me
  | .vshr d _ _ _ pol me => wholeV d pol me
  | .vsar d _ _ _ pol me => wholeV d pol me
  | .vcmp d _ _ _ _ _ pol me => wholeV d pol me
  | .vmov d _ _ pol me => wholeV d pol me
  | .vperm d _ _ _ pol me => wholeV d pol me
  | .vslideUp d _ _ _ pol me => wholeV d pol me
  | .vslideDown d _ _ _ pol me => wholeV d pol me
  | .vsplat d _ _ pol me => wholeV d pol me
  | .vidx d _ _ pol me => wholeV d pol me
  | .vrcp d _ _ pol me _ => wholeV d pol me
  | .vrsq d _ _ pol me _ => wholeV d pol me
  | .vsqrt d _ _ pol me _ => wholeV d pol me
  | .vexp2 d _ _ pol me _ => wholeV d pol me
  | .vlog2 d _ _ pol me _ => wholeV d pol me
  | .vtanh d _ _ pol me _ => wholeV d pol me
  | .vsigm d _ _ pol me _ => wholeV d pol me
  | .vcvt d _ _ _ pol me _ => wholeV d pol me
  | .vcvts d _ _ _ pol me _ => wholeV d pol me
  | .vrng d _ _ _ pol me => wholeV d pol me
  | .vpivot d _ _ _ _ => [.f d.toNat]
  | .vpivotR d _ _ _ _ => [.f d.toNat]
  | .vpack d _ _ _ => [.v d.toNat]
  | .vsel d _ _ _ => [.v d.toNat]
  | .vcompress d _ _ pol => wholeV d pol 1
  | .vredadd d _ _ f pol _ _ => if f = 1 then [.f d.toNat] else wholeV d pol 1
  | .vredmax d _ _ f pol _ _ => if f = 1 then [.f d.toNat] else wholeV d pol 1
  | .vredmin d _ _ f pol _ _ => if f = 1 then [.f d.toNat] else wholeV d pol 1
  | .vzero d _ m => if m = 0 then [.v d.toNat] else []
  | .vmovH d _ m => if m = 0 then [.v d.toNat] else []
  | .mown d _ _ => [.g d.toNat]
  | .vpopm d _ => [.g d.toNat]
  | .call _ => [.g 31]
  | .callr _ => [.g 31]
  | .vneg d _ m => if m = 0 then [.v d.toNat] else []
  | .vabs d _ m => if m = 0 then [.v d.toNat] else []
  | .vrelu d _ m => if m = 0 then [.v d.toNat] else []
  | _ => []

/-- The registers that an instruction only writes: beside those above, the v register that it writes in part (R99, R212, R218, R336), and what a
call of an interpolation entry or of a drain handler passes (R231, R290, R292). -/
def Instr.outs (i : Instr) : List Reg :=
  match i with
  | .lvread d _ _ _ => .g 31 :: (List.range 4).map (fun n => .g (d.toNat + n))
  | .lvtake => [.f 0, .g 31]
  | .mdrain _ _ _ _ => [.v 23, .g 31]
  | .vadd d _ _ _ _ _ => [.v d.toNat]
  | .vsub d _ _ _ _ _ => [.v d.toNat]
  | .vmul d _ _ _ _ _ => [.v d.toNat]
  | .vdiv d _ _ _ _ _ => [.v d.toNat]
  | .vmin d _ _ _ _ _ => [.v d.toNat]
  | .vmax d _ _ _ _ _ => [.v d.toNat]
  | .vand d _ _ _ _ _ => [.v d.toNat]
  | .vor d _ _ _ _ _ => [.v d.toNat]
  | .vxor d _ _ _ _ _ => [.v d.toNat]
  | .vshl d _ _ _ _ _ => [.v d.toNat]
  | .vshr d _ _ _ _ _ => [.v d.toNat]
  | .vsar d _ _ _ _ _ => [.v d.toNat]
  | .vcmp d _ _ _ _ _ _ _ => [.v d.toNat]
  | .vmov d _ _ _ _ => [.v d.toNat]
  | .vperm d _ _ _ _ _ => [.v d.toNat]
  | .vslideUp d _ _ _ _ _ => [.v d.toNat]
  | .vslideDown d _ _ _ _ _ => [.v d.toNat]
  | .vsplat d _ _ _ _ => [.v d.toNat]
  | .vidx d _ _ _ _ => [.v d.toNat]
  | .vrcp d _ _ _ _ _ => [.v d.toNat]
  | .vrsq d _ _ _ _ _ => [.v d.toNat]
  | .vsqrt d _ _ _ _ _ => [.v d.toNat]
  | .vexp2 d _ _ _ _ _ => [.v d.toNat]
  | .vlog2 d _ _ _ _ _ => [.v d.toNat]
  | .vtanh d _ _ _ _ _ => [.v d.toNat]
  | .vsigm d _ _ _ _ _ => [.v d.toNat]
  | .vcvt d _ _ _ _ _ _ => [.v d.toNat]
  | .vcvts d _ _ _ _ _ _ => [.v d.toNat]
  | .vrng d _ _ _ _ _ => [.v d.toNat]
  | .vcompress d _ _ _ => [.v d.toNat]
  | .vmovH d _ _ => [.v d.toNat]
  | .vneg d _ _ => [.v d.toNat]
  | .vabs d _ _ => [.v d.toNat]
  | .vrelu d _ _ => [.v d.toNat]
  | .vzero d _ _ => [.v d.toNat]
  | .vredadd d _ _ f _ _ _ => [if f = 1 then .f d.toNat else .v d.toNat]
  | .vredmax d _ _ f _ _ _ => [if f = 1 then .f d.toNat else .v d.toNat]
  | .vredmin d _ _ f _ _ _ => [if f = 1 then .f d.toNat else .v d.toNat]
  | _ => Instr.fresh i

/-- The poisoned register that the instruction would take in (R336): one it names otherwise than as a destination. -/
def State.poisonedUse (s : State) (fm : Form) : Option PoisonUnit :=
  let regs := (Instr.outs fm.instr ++ fm.whole).foldl List.erase fm.uses
  s.dev.poison.find? (fun u => match u with
    | .reg pid st r => pid == s.core.pid && regs.contains r && (match r with
      | .g _ => st == s.core.sel
      | _ => true)
    | _ => false)

/-- The names of the entries that a core's queues hold. -/
def Core.entryIds (k : Core) : List Nat := k.queues.toList.flatMap (fun q => q.map (fun e => e.id))

/-- The instruction popped a poisoned entry (R336). -/
def State.poppedPoison (s t : State) : Bool :=
  s.dev.poison.any (fun u => match u with
    | .entry pid id => pid == s.core.pid && s.core.entryIds.contains id && !t.core.entryIds.contains id
    | _ => false)

/-- A register written whole is no longer poisoned (R336). -/
def State.cleanRegs (s : State) (rs : List Reg) : State :=
  if s.dev.poison.isEmpty then s
  else
    { s with dev := { s.dev with poison := s.dev.poison.filter (fun u => match u with
      | .reg pid st r => !(pid == s.core.pid && rs.contains r && (match r with
        | .g _ => st == s.core.sel
        | _ => true))
      | _ => true) } }

/-- The machine past an instruction and before the instruction's own effect: fences that hold nothing back any more are forgotten (R266),
and the issuing stream has advanced (R84). -/
def State.issued (s : State) (i : Instr) : State :=
  (s.updCur (fun st => { st with fence := st.fence.filter (fun f => !s.fenceOpen .user f) })).advance i

/-- A stream that can act but not issue stands at its gang, where a due trap, a cancellation or a pre-emption meets it (R39, R49, R56, R100), or
at a parked access, where it may stop (R159). -/
def State.standHere (s : State) : State :=
  match s.cur.wait with
  | some (.parked va) => s.waitAt (.parked va)
  | _ => s.waitAt .gang

/-- Issues an instruction: the traps that are due, the checks of R123 in their order, the waits of R87 and R266,
and then what the instruction does in the state past it. R123 gives cause 0x12 no place: the model takes that of a poisoned source register
after 0x03 and the waits and before the checks of the instruction itself, 0x04 among them, and that of a popped poisoned entry after those
(log entry 62, DESIGN CHOICE). -/
def issue (fm : Form) (s : State) (k : State → Res) : Out :=
  if !s.canAct then .next s
  else
    match s.dueTrap with
    | some t => .next t
    | none =>
      if !s.canIssue then .next s.standHere
      else
      let word := (encode fm.instr).zeroExtend 64
      if !fm.instr.wellFormed || !fm.streams.admits s.core.sel || fm.illegal then .next (s.trapAt 0x01 word)
      else if fm.priv && s.cur.mode == .user then .next (s.trapAt 0x02 word)
      else
        match s.cur.broken fm with
        | some w => .next (s.trapAt 0x03 w.pc)
        | none =>
          if s.cur.awaits fm then .next (s.waitAt .depend)
          else if fm.mem != .none && !s.fencesLet fm.mem then .next (s.waitAt .fence)
          else if (s.poisonedUse fm).isSome then .next (s.trapAt 0x12 (((s.poisonedUse fm).map PoisonUnit.address).getD 0))
          else
            match k (s.issued fm.instr) with
            | .done t =>
              if s.dev.poison.isEmpty then .next t
              else if s.poppedPoison t then .next (s.trapAt 0x12 0)
              else .next (t.cleanRegs (Instr.fresh fm.instr ++ fm.whole))
            | .trap c v => .next (s.trapAt c v)
            | .after t c v => .next (t.takeTrap c v t.cur.pc t.cur.pc)
            | .wait w => .next (s.waitAt w)
            | .hold t w => .next (t.waitAt w)
            | .park kind level base va =>
              .next (s.parkAt kind level base va)

/-- A long-latency instruction enters the stream's list, and its window opens (R85 to R87). -/
def State.launchOp (s : State) (i : Instr) (pc : Word) (la : Nat) (dests : List Reg) (work : Work)
    (joint : Bool := false) (part : Bool := false) (status : OpStatus := .running) : State :=
  let op : LongOp :=
    { id := s.core.nextId, pc := pc, word := encode i, dests := dests, joint := joint, part := part, prog := 0,
      status := status, work := work, tensor := s.core.sys.tensorId, frm := s.core.sys.frm, frmFsl := s.core.sys.frmFsl,
      mode := s.cur.mode, members := s.core.sys.gangMask, ordinal := s.cur.ordinal - 1, born := s.dev.cycle.toNat,
      promoted := false, netPromoted := false, flags := 0, counts := Counts.zero, seen := s.cur.seen, met := joint && status == .running,
      past := false, list := [] }
  let s1 := s.updCur (fun st =>
    { st with
      flight := st.flight ++ [op]
      wins := if la = 0 || dests.isEmpty then st.wins else st.wins ++ [⟨pc, st.pos + la, dests, joint⟩] })
  { s1 with core := { s1.core with nextId := s1.core.nextId + 1 } }

/-- The part-way instruction that a further one waits for (R314): the oldest while there are eight, and until it completes; `was` is the wait of the
stream when it last tried. -/
def Stream.partBlock (st : Stream) (was : Option Wait) : Option Nat :=
  match (match was with
    | some (.partway id) => st.flight.find? (fun (op : LongOp) => op.part && op.id == id)
    | _ => none) with
  | some op => some op.id
  | none => if Config.partWayMax ≤ (st.flight.filter (fun op => op.part)).length then st.oldestPart.map (·.id) else none

/-- A further part-way instruction goes on by `k`, or waits (R314). -/
def State.partRoom (s : State) (was : Option Wait) (k : Res) : Res :=
  match s.cur.partBlock was with
  | some id => .wait (.partway id)
  | none => k

end Sys2Proof.Machine
end

