-- ==== Sys2Proof/Machine/Flags.lean ====
section
/-! DEFINITION. Flags, statistics and rounding state (spec/09_number_formats.md R164 to R168, R184). -/

namespace Sys2Proof.Machine

/-- The modes an instruction reads at its issue (R168). -/
def State.modes (s : State) : Modes :=
  ⟨s.core.sys.frm.toNat, s.core.sys.frmFsl.toNat, s.core.sys.qfxScale.toInt⟩

/-- Nothing is counted. -/
def Counts.isZero (c : Counts) : Bool := c == Counts.zero

/-- Flags ORed into FFLAGS and counts added under a tensor, as a completing instruction does it (R168, R184). -/
def Core.raise (k : Core) (tensor : BitVec 32) (flags : BitVec 6) (c : Counts) : Core :=
  { k with
    sys := { k.sys with fflags := k.sys.fflags ||| flags }
    stats := if c.isZero then k.stats else addCounts tensor c k.stats }

/-- Pivot flags add to the count register, modulo 2^32, and to the statistics (R255, R256). -/
def Core.raisePivots (k : Core) (tensor : BitVec 32) (n : Nat) : Core :=
  if n = 0 then k
  else
    { k with
      sys := { k.sys with pivCount := k.sys.pivCount + .ofNat 32 n }
      stats := addCounts tensor { Counts.zero with pivot := n } k.stats }

/-- A short instruction of the issuing stream completes with the effects of its result. -/
def State.raise (s : State) (e : Eff) : State :=
  { s with core := s.core.raise s.core.sys.tensorId e.flags e.counts }

end Sys2Proof.Machine
end

