-- ==== Sys2Proof/Machine/Operands.lean ====
section
/-! DEFINITION. The operand forms of the C-stream and of the queues: sources that pop, destinations that push, masks and lanes
(spec/05_fetch_and_issue.md R90 to R99), and the one shape of a vector instruction (spec/11_vector_instructions.md R205). -/

namespace Sys2Proof.Machine

/-! ### Queues -/

/-- A vector source as read at issue, with the queue and the entry that it popped (R91, R92). -/
structure Src where
  reg   : VReg
  entry : Option (Nat × QEntry)
deriving DecidableEq, Repr

/-- The data of the source is there (R92). -/
def Src.ready (x : Src) : Bool := x.entry.all (fun e => e.2.filled)

/-- Reading the sources of an instruction: they are there, or a queue holds too few entries. -/
inductive Took where
  | ok (s : State) (xs : List Src)
  | wait (w : Wait)

/-- A stream has popped entries (R223). -/
def Core.saw (k : Core) (x : StreamId) (es : List QEntry) : Core :=
  k.updStr x (fun st => { st with seen := (es.map (fun e => e.id)).foldl max st.seen })

/-- Takes the oldest entry of a queue (R90, R92). -/
def State.popQ (s : State) (q : Nat) : Option (State × QEntry) :=
  match s.core.getQueue q with
  | [] => none
  | e :: rest => some ({ s with core := (s.core.setQueue q rest).saw s.core.sel [e] }, e)

/-- An earlier instruction still pushes entries to the queue: they enter in issue order (R90, R231, R242).
A drain with a handler pushes between its handler's instructions. -/
def Core.pushClaimed (k : Core) (q : Nat) : Bool :=
  k.c.flight.any (fun op => match op.work with
    | .mdrain _ (.queue x) h => x == q && h.isNone
    | .fwchunk _ _ => q == 4
    | _ => false)

/-- Reads vector sources in their order; a number 24 to 27 pops one entry of q0 to q3 (R91). -/
def State.takeV (s : State) : List (BitVec 5) → Took
  | [] => .ok s []
  | n :: ns =>
    if n.toNat < 24 then
      match s.takeV ns with
      | .ok s1 xs => .ok s1 (⟨s.core.getV n.toNat, none⟩ :: xs)
      | .wait w => .wait w
    else if s.core.claimed (n.toNat - 24) then .wait .depend
    else
      match s.popQ (n.toNat - 24) with
      | none => .wait (.pop (n.toNat - 24) 1)
      | some (s1, e) =>
        match s1.takeV ns with
        | .ok s2 xs => .ok s2 (⟨⟨e.bits, e.fmt⟩, some (n.toNat - 24, e)⟩ :: xs)
        | .wait w => .wait w

/-- A vector source pops q3 while an update task runs, which is illegal (R76). -/
def State.popsQ3 (s : State) (srcs : List (BitVec 5)) : Bool := s.isUpdate && srcs.contains 27

/-- The queue has a free entry, reserved ones counted (R92). -/
def State.hasRoom (s : State) (q : Nat) : Bool := decide ((s.core.getQueue q).length < Config.queueDepth)

/-- Puts an entry at the end of a queue (R90, R92): filled, or reserved under the id that this call uses up. -/
def State.pushQ (s : State) (q : Nat) (filled : Bool) (bits : BitVec 512) (fmt : BitVec 16) : State :=
  { s with core :=
    { s.core.setQueue q (s.core.getQueue q ++ [⟨s.core.nextId, filled, bits, fmt⟩]) with nextId := s.core.nextId + 1 } }

/-- Writes a vector destination: a register, or an entry pushed to q4 to q7 (R91). -/
def State.putV (s : State) (d : BitVec 5) (r : VReg) : State :=
  if d.toNat < 24 then s.setV d.toNat r else s.pushQ (d.toNat - 24) true r.bits r.fmt

/-- The destination can be written: a register, or a queue with a free entry (R92). -/
def State.canPut (s : State) (d : BitVec 5) : Bool := decide (d.toNat < 24) || s.hasRoom (d.toNat - 24)

/-- A vector register as windows name it; a queue number names no register (R86). -/
def vRegs (n : BitVec 5) : List Reg := if n.toNat < 24 then [.v n.toNat] else []

/-- A g register as windows name it; g0 is never a destination (R86). -/
def gRegs (n : BitVec 5) : List Reg := if n = 0 then [] else [.g n.toNat]

/-- The format word of an entry that a queue load or gmvf tags (R95). -/
def State.loadFmt (s : State) (tag : BitVec 4) : BitVec 16 := mkFmt tag.toNat s.core.sys.qfxScale.toInt

/-! ### Tag mismatches -/

/-- TRAP.VAL of cause 0x04 (R98): the word, the second source's format word and the first's. -/
def tagVal (i : Instr) (f1 f2 : BitVec 16) : Word :=
  (encode i).zeroExtend 64 <<< 32 ||| f2.zeroExtend 64 <<< 16 ||| f1.zeroExtend 64

/-- R98 over the sources that an instruction names. -/
def tagValOf (i : Instr) (fs : List (BitVec 16)) : Word := tagVal i (fs[0]?.getD 0) (fs[1]?.getD 0)

/-! ### Masks and lanes -/

/-- A mask as an encoding gives it (R99). -/
structure MaskSel where
  on   : Bool
  reg  : Nat
  free : Bool
deriving DecidableEq, Repr

/-- The mask of formats V and W. -/
def MaskSel.of (me : BitVec 1) (k : BitVec 2) (pol : BitVec 1) : MaskSel := ⟨me == 1, k.toNat, pol == 1⟩

/-- The mask of format H: v0 with keep (R105). -/
def MaskSel.half (m : BitVec 1) : MaskSel := ⟨m == 1, 0, false⟩

def MaskSel.none : MaskSel := ⟨false, 0, false⟩

/-- The mask register as windows name it. -/
def MaskSel.regs (k : MaskSel) : List Reg := if k.on then [.v k.reg] else []

/-- Where lane i of a tag lies: lowest bit and width (R97, R172, R173). -/
def laneAt (tag i : Nat) : Nat × Nat :=
  if isBe tag then (8 * beBytes tag * (i / 16) + 16 + (1 + beM tag) * (i % 16), 1 + beM tag)
  else (laneBits tag * i, laneBits tag)

/-- Lane i of 512 bits. -/
def laneOf (tag bits i : Nat) : Nat := bitField bits (laneAt tag i).1 (laneAt tag i).2

/-- A field of a number replaced. -/
def setField (bits lo w v : Nat) : Nat := bits - bitField bits lo w * 2 ^ lo + v % 2 ^ w * 2 ^ lo

/-- The lanes of an instruction put together: lane i is `f i`. -/
def buildLanes (tag : Nat) (f : Nat → Nat) : Nat :=
  (List.range (lanesOf tag)).foldl (fun acc i => acc + f i % 2 ^ (laneAt tag i).2 * 2 ^ (laneAt tag i).1) 0

/-- The padding of a BE register reads zero in a result (R97). -/
def clearPad (tag bits : Nat) : Nat := if isBe tag then bits % 2 ^ (8 * beBytes tag * beGroups tag) else bits

/-- R99 over `n` lanes: masked-off lanes of a result keep the old bits, or become all ones under free. -/
def maskLanes (tag n full old mask : Nat) (free : Bool) : Nat :=
  (List.range n).foldl (fun acc i =>
    if mask.testBit i then acc
    else
      let (lo, w) := laneAt tag i
      setField acc lo w (if free then 2 ^ w - 1 else bitField old lo w)) full

/-- The active lanes under a mask value. -/
def MaskSel.active (k : MaskSel) (mask i : Nat) : Bool := !k.on || mask.testBit i

/-! ### The shape of a vector instruction -/

/-- A vector result before its mask: its lanes, all 512 bits, and the effect of each lane. -/
structure VOut where
  n    : Nat
  bits : Nat
  eff  : Nat → Eff

/-- Lane by lane results. -/
def VOut.lanes (tag : Nat) (f : Nat → Nat × Eff) : VOut :=
  ⟨lanesOf tag, buildLanes tag (fun i => (f i).1), fun i => (f i).2⟩

/-- A result without flags or counts. -/
def VOut.plain (tag bits : Nat) : VOut := ⟨lanesOf tag, bits, fun _ => Eff.none⟩

/-- The effects of the active lanes together (R99, R168). -/
def VOut.total (o : VOut) (active : Nat → Bool) : Eff :=
  (List.range o.n).foldl (fun acc i => if active i then acc.join (o.eff i) else acc) Eff.none

/-- How a vector instruction names its operands. -/
structure VecForm where
  instr : Instr
  /-- The lookahead of a long-latency form (R205). -/
  la    : Option (BitVec 4) := none
  /-- Vector sources in their order. -/
  srcs  : List (BitVec 5)
  dst   : BitVec 5
  mask  : MaskSel := MaskSel.none
  /-- Registers other than the vector operands and the mask. -/
  extra : List Reg := []

/-- The registers that a vector instruction reads or writes (R87). -/
def VecForm.uses (v : VecForm) : List Reg := v.srcs.flatMap vRegs ++ vRegs v.dst ++ v.mask.regs ++ v.extra

/-- The result of a vector instruction under its mask, with its effects; a pushed entry takes keep as free (R92, R99). R99 masks lanes alone: on a BE
tag the bytes of a group that are no lane's, its shared exponent and micro-exponents, are those of the new result whatever the mask (log
entry 78, DESIGN CHOICE). -/
def VecForm.result (v : VecForm) (k : Core) (fmt : BitVec 16) (o : VOut) : VReg × Eff :=
  let mask := (k.getV v.mask.reg).bits.toNat
  let full := clearPad (tagOf fmt) o.bits
  let bits := if v.mask.on then
      maskLanes (tagOf fmt) o.n full (k.getV v.dst.toNat).bits.toNat mask (v.mask.free || decide (24 ≤ v.dst.toNat))
    else full
  (⟨.ofNat 512 bits, fmt⟩, o.total (v.mask.active mask))

/-- A vector result is delivered: at once by a short form, later by a long one, whose queue entry is reserved now (R85, R92, R205). -/
def State.finishV (s : State) (v : VecForm) (pc : Word) (r : VReg) (e : Eff) : State :=
  match v.la with
  | none => (s.putV v.dst r).raise e
  | some la =>
    if v.dst.toNat < 24 then
      s.launchOp v.instr pc la.toNat [.v v.dst.toNat] (.deliver [.v v.dst.toNat r] e.flags e.counts 0)
    else
      (s.pushQ (v.dst.toNat - 24) false 0 r.fmt).launchOp v.instr pc la.toNat []
        (.deliver [.q s.core.nextId r.bits] e.flags e.counts 0)

/-- What the issuing stream's instruction reads at its issue beside the entries that it pops (R168). -/
def State.snap (s : State) : Snap := ⟨s.cur.g, s.core.v, s.core.sys.qfxScale, s.core.sys.seed⟩

/-- A vector instruction that popped an entry not yet filled has issued and waits for the data (R92): its destination, or the entry that it pushes,
is taken now. `was` is the state at its issue. -/
def State.launchLate (s was : State) (i : Instr) (la : Option (BitVec 4)) (dests : List Reg) (push : Option (Nat × BitVec 16)) (xs : List Src) : State :=
  let es := xs.filterMap Src.entry
  match push with
  | none => s.launchOp i was.cur.pc ((la.map (·.toNat)).getD 0) dests (.late i es was.snap none)
  | some (q, fmt) =>
    (s.pushQ q false 0 fmt).launchOp i was.cur.pc ((la.map (·.toNat)).getD 0) dests (.late i es was.snap (some s.core.nextId))

/-- A vector instruction (R205): sources in order, room for a push, the tag checks, then the result under the mask, at once or once the data of
what it popped is there (R92). `tags` gives the format word of the result when the tags are accepted. -/
def execVec (v : VecForm) (tags : List (BitVec 16) → Option (BitVec 16))
    (run : State → BitVec 16 → List VReg → VOut) (s : State) : Out :=
  issue { instr := v.instr, streams := .cOnly, illegal := s.popsQ3 v.srcs, uses := v.uses } s fun s1 =>
    match s1.takeV v.srcs with
    | .wait w => .wait w
    | .ok s2 xs =>
      if decide (24 ≤ v.dst.toNat) && s.core.pushClaimed (v.dst.toNat - 24) then .wait .depend
      else if !s.canPut v.dst then .wait (.push (v.dst.toNat - 24))
      else
        match tags (xs.map (·.reg.fmt)) with
        | none => .trap 0x04 (tagValOf v.instr (xs.map (·.reg.fmt)))
        | some fmt =>
          if xs.all Src.ready then
            let (r, e) := v.result s.core fmt (run s fmt (xs.map (·.reg)))
            .done (s2.finishV v s.cur.pc r e)
          else
            .done (s2.launchLate s v.instr v.la (vRegs v.dst) (if v.dst.toNat < 24 then none else some (v.dst.toNat - 24, fmt)) xs)

end Sys2Proof.Machine
end

