-- ==== Sys2Proof/Machine/Scalar.lean ====
section
/-! DEFINITION. Scalar, address and control instructions (spec/07_scalar_instructions.md R125 to R139). -/

namespace Sys2Proof.Machine

/-- A short instruction of either stream that writes one g register from the machine it finds (R125). -/
def shortG (i : Instr) (d : BitVec 5) (reads : List (BitVec 5)) (f : State → Word) (s : State) : Out :=
  issue { instr := i, streams := .both, uses := gRegs d ++ reads.flatMap gRegs } s fun s1 => .done (s1.setG d (f s1))

/-- A long-latency instruction whose result was computed from what it read at issue (R85, R125). -/
def State.launchG (s : State) (i : Instr) (pc : Word) (d : BitVec 5) (la : BitVec 4) (v : Word) : State :=
  s.launchOp i pc la.toNat (gRegs d) (.deliver [.g d.toNat v] 0 Counts.zero 0)

/-- A long-latency integer instruction of two sources. -/
def longG (i : Instr) (d a b : BitVec 5) (la : BitVec 4) (f : Word → Word → Word) (s : State) : Out :=
  issue { instr := i, streams := .both, uses := gRegs d ++ gRegs a ++ gRegs b } s fun s1 =>
    .done (s1.launchG i s.cur.pc d la (f (s1.g a) (s1.g b)))

/-- The division functions trap on a zero divisor (R127). -/
def longDiv (i : Instr) (d a b : BitVec 5) (la : BitVec 4) (f : Word → Word → Word) (s : State) : Out :=
  issue { instr := i, streams := .both, uses := gRegs d ++ gRegs a ++ gRegs b } s fun s1 =>
    if s1.g b = 0 then .trap 0x0F (s1.g a) else .done (s1.launchG i s.cur.pc d la (f (s1.g a) (s1.g b)))

/-! ### Integer operations (R126 to R128) -/

/-- R126: the high 64 bits of the signed product. -/
def mulHigh (x y : Word) : Word := w64 (x.toInt * y.toInt / 2 ^ 64)

/-- R126: shifts by the low six bits of the count. -/
def shiftLeft (x : Word) (c : Nat) : Word := .ofNat 64 (x.toNat * 2 ^ (c % 64))
def shiftRight (x : Word) (c : Nat) : Word := .ofNat 64 (x.toNat / 2 ^ (c % 64))
def shiftArith (x : Word) (c : Nat) : Word := w64 (x.toInt / 2 ^ (c % 64))

/-- One bits among the low `n` bits of a number. -/
def onesBelow (x : Nat) : Nat → Nat
  | 0 => 0
  | n + 1 => (if x.testBit n then 1 else 0) + onesBelow x n

/-- Bits from bit n − 1 down until the first one bit. -/
def leadingZeros (x : Nat) : Nat → Nat
  | 0 => 0
  | n + 1 => if x.testBit n then 0 else 1 + leadingZeros x n

/-- Bits from bit 0 up until the first one bit, at most n. -/
def trailingZeros (x : Nat) : Nat → Nat
  | 0 => 0
  | n + 1 => if x % 2 = 1 then 0 else 1 + trailingZeros (x / 2) n

/-- add (R126). -/
def execAdd (d a b : BitVec 5) (s : State) : Out := shortG (.add d a b) d [a, b] (fun s => s.g a + s.g b) s

/-- sub (R126). -/
def execSub (d a b : BitVec 5) (s : State) : Out := shortG (.sub d a b) d [a, b] (fun s => s.g a - s.g b) s

/-- mul (R126). -/
def execMul (d a b : BitVec 5) (la : BitVec 4) (s : State) : Out := longG (.mul d a b la) d a b la (fun x y => x * y) s

/-- mulh (R126). -/
def execMulh (d a b : BitVec 5) (la : BitVec 4) (s : State) : Out := longG (.mulh d a b la) d a b la mulHigh s

/-- div (R127). -/
def execDiv (d a b : BitVec 5) (la : BitVec 4) (s : State) : Out :=
  longDiv (.div d a b la) d a b la (fun x y => w64 (x.toInt.tdiv y.toInt)) s

/-- divu (R127). -/
def execDivu (d a b : BitVec 5) (la : BitVec 4) (s : State) : Out :=
  longDiv (.divu d a b la) d a b la (fun x y => .ofNat 64 (x.toNat / y.toNat)) s

/-- rem (R127). -/
def execRem (d a b : BitVec 5) (la : BitVec 4) (s : State) : Out :=
  longDiv (.rem d a b la) d a b la (fun x y => w64 (x.toInt - y.toInt * x.toInt.tdiv y.toInt)) s

/-- remu (R127). -/
def execRemu (d a b : BitVec 5) (la : BitVec 4) (s : State) : Out :=
  longDiv (.remu d a b la) d a b la (fun x y => .ofNat 64 (x.toNat % y.toNat)) s

/-- and (R126). -/
def execAnd (d a b : BitVec 5) (s : State) : Out := shortG (.and d a b) d [a, b] (fun s => s.g a &&& s.g b) s

/-- or (R126). -/
def execOr (d a b : BitVec 5) (s : State) : Out := shortG (.or d a b) d [a, b] (fun s => s.g a ||| s.g b) s

/-- xor (R126). -/
def execXor (d a b : BitVec 5) (s : State) : Out := shortG (.xor d a b) d [a, b] (fun s => s.g a ^^^ s.g b) s

/-- shl (R126). -/
def execShl (d a b : BitVec 5) (s : State) : Out :=
  shortG (.shl d a b) d [a, b] (fun s => shiftLeft (s.g a) (s.g b).toNat) s

/-- shr (R126). -/
def execShr (d a b : BitVec 5) (s : State) : Out :=
  shortG (.shr d a b) d [a, b] (fun s => shiftRight (s.g a) (s.g b).toNat) s

/-- sar (R126). -/
def execSar (d a b : BitVec 5) (s : State) : Out :=
  shortG (.sar d a b) d [a, b] (fun s => shiftArith (s.g a) (s.g b).toNat) s

/-- slt (R126). -/
def execSlt (d a b : BitVec 5) (s : State) : Out :=
  shortG (.slt d a b) d [a, b] (fun s => boolWord (decide ((s.g a).toInt < (s.g b).toInt))) s

/-- sltu (R126). -/
def execSltu (d a b : BitVec 5) (s : State) : Out :=
  shortG (.sltu d a b) d [a, b] (fun s => boolWord (decide ((s.g a).toNat < (s.g b).toNat))) s

/-- min (R126). -/
def execMin (d a b : BitVec 5) (s : State) : Out :=
  shortG (.min d a b) d [a, b] (fun s => if (s.g a).toInt ≤ (s.g b).toInt then s.g a else s.g b) s

/-- max (R126). -/
def execMax (d a b : BitVec 5) (s : State) : Out :=
  shortG (.max d a b) d [a, b] (fun s => if (s.g b).toInt ≤ (s.g a).toInt then s.g a else s.g b) s

/-- clz (R126). -/
def execClz (d a : BitVec 5) (s : State) : Out :=
  shortG (.clz d a) d [a] (fun s => .ofNat 64 (leadingZeros (s.g a).toNat 64)) s

/-- ctz (R126). -/
def execCtz (d a : BitVec 5) (s : State) : Out :=
  shortG (.ctz d a) d [a] (fun s => .ofNat 64 (trailingZeros (s.g a).toNat 64)) s

/-- popc (R126). -/
def execPopc (d a : BitVec 5) (s : State) : Out :=
  shortG (.popc d a) d [a] (fun s => .ofNat 64 (onesBelow (s.g a).toNat 64)) s

/-- gcd (R128). -/
def execGcd (d a b : BitVec 5) (la : BitVec 4) (s : State) : Out :=
  longG (.gcd d a b la) d a b la (fun x y => .ofNat 64 (Nat.gcd x.toNat y.toNat)) s

/-! ### Immediate forms (R129 to R131) -/

/-- addi (R129). -/
def execAddi (d a : BitVec 5) (imm : BitVec 15) (s : State) : Out :=
  shortG (.addi d a imm) d [a] (fun s => s.g a + imm.signExtend 64) s

/-- andi (R129). -/
def execAndi (d a : BitVec 5) (imm : BitVec 15) (s : State) : Out :=
  shortG (.andi d a imm) d [a] (fun s => s.g a &&& imm.signExtend 64) s

/-- ori (R129). -/
def execOri (d a : BitVec 5) (imm : BitVec 15) (s : State) : Out :=
  shortG (.ori d a imm) d [a] (fun s => s.g a ||| imm.signExtend 64) s

/-- xori (R129). -/
def execXori (d a : BitVec 5) (imm : BitVec 15) (s : State) : Out :=
  shortG (.xori d a imm) d [a] (fun s => s.g a ^^^ imm.signExtend 64) s

/-- shli (R130). -/
def execShli (d a : BitVec 5) (c : BitVec 6) (s : State) : Out :=
  shortG (.shli d a c) d [a] (fun s => shiftLeft (s.g a) c.toNat) s

/-- shri (R130). -/
def execShri (d a : BitVec 5) (c : BitVec 6) (s : State) : Out :=
  shortG (.shri d a c) d [a] (fun s => shiftRight (s.g a) c.toNat) s

/-- sari (R130). -/
def execSari (d a : BitVec 5) (c : BitVec 6) (s : State) : Out :=
  shortG (.sari d a c) d [a] (fun s => shiftArith (s.g a) c.toNat) s

/-- slti (R130). -/
def execSlti (d a : BitVec 5) (imm : BitVec 14) (s : State) : Out :=
  shortG (.slti d a imm) d [a] (fun s => boolWord (decide ((s.g a).toInt < imm.toInt))) s

/-- sltiu (R130). -/
def execSltiu (d a : BitVec 5) (imm : BitVec 14) (s : State) : Out :=
  shortG (.sltiu d a imm) d [a] (fun s => boolWord (decide ((s.g a).toNat < (imm.signExtend 64 : Word).toNat))) s

/-- The constant of format U (R131). -/
def upperImm (imm : BitVec 20) : Word := ((imm.zeroExtend 32) <<< 12).signExtend 64

/-- lui (R131). -/
def execLui (d : BitVec 5) (imm : BitVec 20) (s : State) : Out := shortG (.lui d imm) d [] (fun _ => upperImm imm) s

/-- adpc (R131): relative to its own address. -/
def execAdpc (d : BitVec 5) (imm : BitVec 20) (s : State) : Out :=
  shortG (.adpc d imm) d [] (fun _ => s.cur.pc + upperImm imm) s

/-! ### Control (R132 to R135) -/

/-- The conditions of R110 on 64 bits; 6 and 7 are reserved. -/
def branchTaken (c : BitVec 3) (x y : Word) : Bool :=
  match c.toNat with
  | 0 => x == y
  | 1 => x != y
  | 2 => decide (x.toInt < y.toInt)
  | 3 => decide (y.toInt ≤ x.toInt)
  | 4 => decide (x.toNat < y.toNat)
  | 5 => decide (y.toNat ≤ x.toNat)
  | _ => false

/-- The link register (R133). -/
def linkReg : BitVec 5 := 31

/-- b.cc (R132). -/
def execBcc (a b : BitVec 5) (off : BitVec 12) (c : BitVec 3) (s : State) : Out :=
  issue { instr := .bcc a b off c, streams := .both, uses := gRegs a ++ gRegs b } s fun s1 =>
    .done (if branchTaken c (s1.g a) (s1.g b) then s1.setPc (s.cur.pc + 2 * off.signExtend 64) else s1)

/-- b (R133). -/
def execBr (off : BitVec 25) (s : State) : Out :=
  issue { instr := .br off, streams := .both } s fun s1 => .done (s1.setPc (s.cur.pc + 2 * off.signExtend 64))

/-- call (R133). -/
def execCall (off : BitVec 25) (s : State) : Out :=
  issue { instr := .call off, streams := .both, uses := gRegs linkReg } s fun s1 =>
    .done ((s1.setG linkReg (s.cur.pc + 4)).setPc (s.cur.pc + 2 * off.signExtend 64))

/-- An odd target traps at the jump (R82, R134). -/
def jumpTo (t : Word) (s : State) : Res := if t.toNat % 2 = 1 then .trap 0x05 t else .done (s.setPc t)

/-- jr (R134). -/
def execJr (a : BitVec 5) (s : State) : Out :=
  issue { instr := .jr a, streams := .both, uses := gRegs a } s fun s1 => jumpTo (s1.g a) s1

/-- callr (R134): reads its source before it writes the link. -/
def execCallr (a : BitVec 5) (s : State) : Out :=
  issue { instr := .callr a, streams := .both, uses := gRegs a ++ gRegs linkReg } s fun s1 =>
    jumpTo (s1.g a) (s1.setG linkReg (s.cur.pc + 4))

/-- ret (R134). An interpolation entry returns with lvret instead (R293). -/
def execRet (s : State) : Out :=
  issue { instr := .ret, streams := .both, uses := gRegs linkReg } s fun s1 => jumpTo (s1.g linkReg) s1

/-! ### A scalar through a queue (R136, R137) -/

/-- qput (R136): q3 is illegal in an update task. -/
def execQput (q a : BitVec 5) (s : State) : Out :=
  issue { instr := .qput q a, streams := .aOnly, illegal := s.isUpdate && q == 3, uses := gRegs a } s fun s1 =>
    if s.hasRoom q.toNat then .done (s1.pushQ q.toNat true ((s1.g a).zeroExtend 512) 0) else .wait (.push q.toNat)

/-- qget (R137): an entry not yet filled is waited for by whatever reads gd (R92). -/
def execQget (q d : BitVec 5) (s : State) : Out :=
  issue { instr := .qget q d, streams := .aOnly, uses := gRegs d } s fun s1 =>
    match s1.popQ q.toNat with
    | none => .wait (.pop q.toNat 1)
    | some (s2, e) => 
      if e.filled then .done (s2.setG d (e.bits.truncate 64))
      else .done (s2.launchOp (.qget q d) s.cur.pc 0 (gRegs d) (.qget d.toNat e))

/-! ### Generic addresses (R138, R139) -/

/-- The descriptor of an address (R138). -/
def Aperture.descriptor (p : Aperture) : Word := .ofNat 64 (p.kind + p.index * 65536)

/-- gtol (R139). -/
def execGtol (d a : BitVec 5) (s : State) : Out :=
  issue { instr := .gtol d a, streams := .aOnly, uses := gRegs d ++ gRegs a } s fun s1 =>
    let p := aperture (s1.g a)
    if p.kind = 0 then .trap 0x06 (s1.g a) else .done (s1.setG d (.ofNat 64 p.off))

/-- TEAM.SIZE of the running task (R46). -/
def State.taskSize (s : State) : Nat :=
  match s.core.task with
  | some t => t.size
  | none => 0

/-- The address that ltog builds, or the operand it traps on (R139). -/
def buildAddress (size : Nat) (off desc : Word) : Except Word Word :=
  let k := desc.toNat % 16
  let ix := desc.toNat / 65536 % 2048
  if k = 0 ∨ 7 ≤ k ∨ desc.toNat / 2 ^ 27 ≠ 0 ∨ desc.toNat / 16 % 4096 ≠ 0 then .error desc
  else if 2 ^ apIndexBits k ≤ ix ∨ (k = 5 ∧ size ≤ ix) then .error desc
  else if apLimit k ≤ off.toNat then .error off
  else .ok (.ofNat 64 (apBase k + ix * 2 ^ apShift k + off.toNat))

/-- ltog (R139). -/
def execLtog (d a b : BitVec 5) (s : State) : Out :=
  issue { instr := .ltog d a b, streams := .aOnly, uses := gRegs d ++ gRegs a ++ gRegs b } s fun s1 =>
    match buildAddress s1.taskSize (s1.g a) (s1.g b) with
    | .ok v => .done (s1.setG d v)
    | .error v => .trap 0x06 v

/-- inap (R139). -/
def execInap (d a : BitVec 5) (s : State) : Out :=
  issue { instr := .inap d a, streams := .aOnly, uses := gRegs d ++ gRegs a } s fun s1 =>
    .done (s1.setG d (aperture (s1.g a)).descriptor)

/-- teama (R139). -/
def execTeama (d a b : BitVec 5) (s : State) : Out :=
  issue { instr := .teama d a b, streams := .aOnly, uses := gRegs d ++ gRegs a ++ gRegs b } s fun s1 =>
    if s1.isUpdate then .trap 0x06 (s1.g a)
    else if s1.taskSize ≤ (s1.g a).toNat then .trap 0x06 (s1.g a)
    else if 0x60000 ≤ (s1.g b).toNat then .trap 0x06 (s1.g b)
    else .done (s1.setG d (0xFFF2000000000000 + s1.g a * 0x100000 + s1.g b))

end Sys2Proof.Machine
end

