-- ==== Sys2Proof/Machine/Vector.lean ====
section
/-! DEFINITION. The short vector instructions (spec/11_vector_instructions.md R205 to R212, R220, R221): majors 31, 32, 33 and 37 and
the halfword forms. -/

namespace Sys2Proof.Machine

/-! ### Tag rules -/

/-- The tags of vadd (R206). -/
def arithTag (t : Nat) : Bool := isInt t || isIeee t || isQfx t

/-- Tags that move and permute forms without BE accept (R211). -/
def noBe (t : Nat) : Bool := !isBe t

/-- Equal accepted tags, and equal scales of QFX where the form asks for them; the result takes the first format word (R98, R205). -/
def pairFmt (accept : Nat → Bool) (scales : Bool) : List (BitVec 16) → Option (BitVec 16)
  | f :: g :: _ =>
    if accept (tagOf f) && tagOf g == tagOf f && (!scales || !isQfx (tagOf f) || scaleOf f == scaleOf g) then some f
    else none
  | _ => none

/-- One accepted source. -/
def oneFmt (accept : Nat → Bool) : List (BitVec 16) → Option (BitVec 16)
  | f :: _ => if accept (tagOf f) then some f else none
  | _ => none

/-- Three equal accepted tags (R206: vfma, vfms). -/
def tripleFmt (accept : Nat → Bool) : List (BitVec 16) → Option (BitVec 16)
  | f :: g :: h :: _ => if accept (tagOf f) && tagOf g == tagOf f && tagOf h == tagOf f then some f else none
  | _ => none

/-- The product's format word (R175): for QFX the scales add up, within −32 to 31. -/
def mulFmt (fs : List (BitVec 16)) : Option (BitVec 16) :=
  match pairFmt arithTag false fs, fs with
  | some f, _ :: g :: _ => some (if isQfx (tagOf f) then mkFmt (tagOf f) (min (max (scaleOf f + scaleOf g) (-32)) 31) else f)
  | _, _ => none

/-! ### Lanes -/

/-- The first, second and third source as numbers. -/
def srcBits (xs : List VReg) (k : Nat) : Nat := ((xs[k]?).getD ⟨0, 0⟩).bits.toNat

def srcFmt (xs : List VReg) (k : Nat) : BitVec 16 := ((xs[k]?).getD ⟨0, 0⟩).fmt

/-- Vector fp16 and bf16 arithmetic flushes (R171). -/
def flushes (tag : Nat) : Bool := tag == 4 || tag == 5

/-- An IEEE operand of majors 31 and 32 (R171). -/
def vecVal (f : IeeeFmt) (tag p : Nat) : Val := if flushes tag then f.decodeFlush p else f.decode p

/-- Addition or subtraction of one lane (R175, R207). -/
def addLane (md : Modes) (fmt : BitVec 16) (sub : Bool) (a b : Nat) : Nat × Eff :=
  let t := tagOf fmt
  let w := laneBits t
  match ieeeOf t with
  | some f =>
    let y := vecVal f t b
    deliverIeee f md.ieee (flushes t) (ieeeAdd md.ieee (vecVal f t a) (if sub then y.negate else y))
  | none =>
    let r := if sub then patInt a w - patInt b w else patInt a w + patInt b w
    if isQfx t then
      let (v, e) := qsat r w
      (intPat v w, e)
    else (intPat r w, Eff.none)

/-- Multiplication of one lane (R175, R207). -/
def mulLane (md : Modes) (f1 f2 : BitVec 16) (a b : Nat) : Nat × Eff :=
  let t := tagOf f1
  let w := laneBits t
  match ieeeOf t with
  | some f => deliverIeee f md.ieee (flushes t) (ieeeMul (vecVal f t a) (vecVal f t b))
  | none =>
    if isQfx t then
      let (r, _, e) := qfxMul md.ieee w (patInt a w) (patInt b w) (scaleOf f1) (scaleOf f2)
      (r, e)
    else (intPat (patInt a w * patInt b w) w, Eff.none)

/-- Division of one lane (R207). -/
def divLane (md : Modes) (t a b : Nat) : Nat × Eff :=
  match ieeeOf t with
  | some f => deliverIeee f md.ieee (flushes t) (ieeeDiv (vecVal f t a) (vecVal f t b))
  | none => (0, Eff.none)

/-- a·b ± c of one lane with one rounding (R207). -/
def fmaLane (md : Modes) (t : Nat) (sub : Bool) (a b c : Nat) : Nat × Eff :=
  match ieeeOf t with
  | some f =>
    let z := vecVal f t c
    deliverIeee f md.ieee (flushes t) (ieeeFma md.ieee (vecVal f t a) (vecVal f t b) (if sub then z.negate else z))
  | none => (0, Eff.none)

/-- x stands below y in R208's order, where −0 is less than +0. -/
def Val.below (x y : Val) : Bool :=
  let c := x.compare y
  decide (c < 0) || (c == 0 && x.isNeg && !y.isNeg)

/-- Minimum or maximum of two IEEE patterns whose values were read as `x` and `y` (R208, R247): a NaN loses to a number. -/
def ieeePick (f : IeeeFmt) (big : Bool) (x y : Val) (a b : Nat) : Nat × Eff :=
  let nv := Eff.onlyIf (x.signalling || y.signalling) Eff.nv
  if x.unordered && y.unordered then (f.qnan, Eff.nanr.join nv)
  else if x.unordered then (b, nv)
  else if y.unordered then (a, nv)
  else if big then (if x.below y then b else a, nv)
  else (if y.below x then b else a, nv)

/-- A pattern as the flushing forms return it (R171). -/
def flushPat (f : IeeeFmt) (t p : Nat) : Nat := if flushes t && f.small p then f.zeroPat (p / f.signBit % 2 == 1) else p

/-- Minimum or maximum of one lane (R208). -/
def pickLane (fmt : BitVec 16) (big : Bool) (a b : Nat) : Nat × Eff :=
  let t := tagOf fmt
  match ieeeOf t with
  | some f => ieeePick f big (vecVal f t a) (vecVal f t b) (flushPat f t a) (flushPat f t b)
  | none =>
    let w := laneBits t
    let less := decide (patInt a w < patInt b w)
    (if less == big then b else a, Eff.none)

/-- Magnitude of one lane (R221). R221 gives vabs no flag: a signalling NaN raises no NV here (log entry 77, DESIGN CHOICE; R166 names signalling
operands without an exception for vabs). -/
def absLane (fmt : BitVec 16) (a : Nat) : Nat × Eff :=
  let t := tagOf fmt
  let w := laneBits t
  match ieeeOf t with
  | some f => if (f.decode a).unordered then (f.qnan, Eff.nanr) else (flushPat f t a % f.signBit, Eff.none)
  | none =>
    let m : Int := (patInt a w).natAbs
    if isQfx t then
      let (v, e) := qsat m w
      (intPat v w, e)
    else (intPat m w, Eff.none)

/-- The shifts of R208: 0 left, 1 logical right, 2 arithmetic right, by the whole unsigned count. -/
def shiftLane (w kind a c : Nat) : Nat :=
  if kind = 2 then intPat (patInt a w / 2 ^ min c w) w
  else if w ≤ c then 0
  else if kind = 0 then a * 2 ^ c % 2 ^ w
  else a / 2 ^ c

/-- A two-source result lane by lane in the tag of its first source. -/
def lanewise2 (f : BitVec 16 → BitVec 16 → Nat → Nat → Nat × Eff) (_ : State) (_ : BitVec 16) (xs : List VReg) : VOut :=
  let t := tagOf (srcFmt xs 0)
  VOut.lanes t (fun i => f (srcFmt xs 0) (srcFmt xs 1) (laneOf t (srcBits xs 0) i) (laneOf t (srcBits xs 1) i))

/-- The canonical zero of a tag in every lane (R221). -/
def zeroOf (tag : Nat) : Nat :=
  if tag = 13 then buildLanes 13 (fun _ => fslEncode false false 0 1)
  else if tag = 14 then buildLanes 14 (fun _ => fslEncode true false 0 1)
  else 0

/-! ### Major 31 and its halfword forms -/

/-- vadd or vsub of two sources into a destination. -/
def vectorAdd (v : VecForm) (sub : Bool) (s : State) : Out :=
  execVec v (pairFmt arithTag true) (lanewise2 (fun f _ a b => addLane s.modes f sub a b)) s

def vectorMul (v : VecForm) (s : State) : Out :=
  execVec v mulFmt (lanewise2 (fun f g a b => mulLane s.modes f g a b)) s

def vectorPick (v : VecForm) (big : Bool) (s : State) : Out :=
  execVec v (pairFmt arithTag true) (lanewise2 (fun f _ a b => pickLane f big a b)) s

/-- Bitwise over all 512 bits, format word of the first source (R209). -/
def vectorBits (v : VecForm) (f : Nat → Nat → Nat) (s : State) : Out :=
  execVec v (oneFmt (fun _ => true)) (fun _ fmt xs => VOut.plain (tagOf fmt) (f (srcBits xs 0) (srcBits xs 1))) s

def vectorFma (v : VecForm) (sub : Bool) (s : State) : Out :=
  execVec v (tripleFmt isIeee) (fun _ fmt xs =>
    let t := tagOf fmt
    VOut.lanes t (fun i =>
      fmaLane s.modes t sub (laneOf t (srcBits xs 0) i) (laneOf t (srcBits xs 1) i) (laneOf t (srcBits xs 2) i))) s

def vectorShift (v : VecForm) (kind : Nat) (s : State) : Out :=
  execVec v (pairFmt isInt false) (lanewise2 (fun f _ a c => (shiftLane (laneBits (tagOf f)) kind a c, Eff.none))) s

/-- A three-register form V instruction under its mask. -/
def formV (i : Instr) (d a b : BitVec 5) (k : BitVec 2) (pol me : BitVec 1) : VecForm :=
  { instr := i, srcs := [a, b], dst := d, mask := .of me k pol }

/-- vadd (R206, R207). -/
def execVadd (d a b : BitVec 5) (k : BitVec 2) (pol me : BitVec 1) (s : State) : Out :=
  vectorAdd (formV (.vadd d a b k pol me) d a b k pol me) false s

/-- vsub (R206, R207). -/
def execVsub (d a b : BitVec 5) (k : BitVec 2) (pol me : BitVec 1) (s : State) : Out :=
  vectorAdd (formV (.vsub d a b k pol me) d a b k pol me) true s

/-- vmul (R206, R207). -/
def execVmul (d a b : BitVec 5) (k : BitVec 2) (pol me : BitVec 1) (s : State) : Out :=
  vectorMul (formV (.vmul d a b k pol me) d a b k pol me) s

/-- vfma (R206, R207): vd is the third source. -/
def execVfma (d a b : BitVec 5) (k : BitVec 2) (pol me : BitVec 1) (s : State) : Out :=
  vectorFma { formV (.vfma d a b k pol me) d a b k pol me with srcs := [a, b, d] } false s

/-- vfms (R206, R207). -/
def execVfms (d a b : BitVec 5) (k : BitVec 2) (pol me : BitVec 1) (s : State) : Out :=
  vectorFma { formV (.vfms d a b k pol me) d a b k pol me with srcs := [a, b, d] } true s

/-- vdiv (R206, R207). -/
def execVdiv (d a b : BitVec 5) (k : BitVec 2) (pol me : BitVec 1) (s : State) : Out :=
  execVec (formV (.vdiv d a b k pol me) d a b k pol me) (pairFmt isIeee false)
    (lanewise2 (fun f _ x y => divLane s.modes (tagOf f) x y)) s

/-- vmin (R208). -/
def execVmin (d a b : BitVec 5) (k : BitVec 2) (pol me : BitVec 1) (s : State) : Out :=
  vectorPick (formV (.vmin d a b k pol me) d a b k pol me) false s

/-- vmax (R208). -/
def execVmax (d a b : BitVec 5) (k : BitVec 2) (pol me : BitVec 1) (s : State) : Out :=
  vectorPick (formV (.vmax d a b k pol me) d a b k pol me) true s

/-- vand (R209). -/
def execVand (d a b : BitVec 5) (k : BitVec 2) (pol me : BitVec 1) (s : State) : Out :=
  vectorBits (formV (.vand d a b k pol me) d a b k pol me) (fun x y => x &&& y) s

/-- vor (R209). -/
def execVor (d a b : BitVec 5) (k : BitVec 2) (pol me : BitVec 1) (s : State) : Out :=
  vectorBits (formV (.vor d a b k pol me) d a b k pol me) (fun x y => x ||| y) s

/-- vxor (R209). -/
def execVxor (d a b : BitVec 5) (k : BitVec 2) (pol me : BitVec 1) (s : State) : Out :=
  vectorBits (formV (.vxor d a b k pol me) d a b k pol me) (fun x y => x ^^^ y) s

/-- vshl (R208). -/
def execVshl (d a b : BitVec 5) (k : BitVec 2) (pol me : BitVec 1) (s : State) : Out :=
  vectorShift (formV (.vshl d a b k pol me) d a b k pol me) 0 s

/-- vshr (R208). -/
def execVshr (d a b : BitVec 5) (k : BitVec 2) (pol me : BitVec 1) (s : State) : Out :=
  vectorShift (formV (.vshr d a b k pol me) d a b k pol me) 1 s

/-- vsar (R208). -/
def execVsar (d a b : BitVec 5) (k : BitVec 2) (pol me : BitVec 1) (s : State) : Out :=
  vectorShift (formV (.vsar d a b k pol me) d a b k pol me) 2 s

/-! ### Comparison (R210) -/

/-- The condition applied to an order: −1, 0 or 1; none when unordered. -/
def condHolds (c : Nat) : Option Int → Bool
  | none => c == 1
  | some o =>
    match c with
    | 0 => o == 0
    | 1 => o != 0
    | 2 => decide (o < 0)
    | 3 => decide (o ≤ 0)
    | 4 => decide (0 < o)
    | _ => decide (0 ≤ o)

/-- One lane of vcmp: the bit and its flags (R171, R210). -/
def cmpLane (fmt : BitVec 16) (unsigned : Bool) (c a b : Nat) : Nat × Eff :=
  let t := tagOf fmt
  let w := laneBits t
  let bit := fun (o : Option Int) => if condHolds c o then 1 else 0
  if isInt t || isQfx t then
    let x : Int := if unsigned then (a : Int) else patInt a w
    let y : Int := if unsigned then (b : Int) else patInt b w
    (bit (some (if x < y then -1 else if x = y then 0 else 1)), Eff.none)
  else
    let (x, y) := match ieeeOf t with
      | some f => (vecVal f t a, vecVal f t b)
      | none => (valueOf fmt a, valueOf fmt b)
    if x.unordered || y.unordered then
      (bit none, Eff.onlyIf (decide (2 ≤ c) || x.signalling || y.signalling) Eff.nv)
    else (bit (some (x.compare y)), Eff.none)

/-- The tags of vcmp; the unsigned forms take integers only (R210). -/
def cmpTag (unsigned : Bool) (t : Nat) : Bool := isInt t || (!unsigned && (isIeee t || isQfx t || isFsl t))

/-- vcmp (R210): the result is a mask, bits from the lanes of vs1 upward are zero. -/
def execVcmp (d a b : BitVec 5) (c : BitVec 4) (k : BitVec 2) (u pol me : BitVec 1) (s : State) : Out :=
  execVec (formV (.vcmp d a b c k u pol me) d a b k pol me)
    (fun fs => (pairFmt (cmpTag (u == 1)) true fs).map (fun _ => mkFmt 15 0))
    (fun _ _ xs =>
      let t := tagOf (srcFmt xs 0)
      let r := fun i => cmpLane (srcFmt xs 0) (u == 1) c.toNat (laneOf t (srcBits xs 0) i) (laneOf t (srcBits xs 1) i)
      ⟨lanesOf t, (List.range (lanesOf t)).foldl (fun acc i => acc + (r i).1 * 2 ^ i) 0, fun i => (r i).2⟩) s

/-! ### Move and permute (R211, R212) -/

def vectorMove (v : VecForm) (s : State) : Out :=
  execVec v (oneFmt (fun _ => true)) (fun _ fmt xs => VOut.plain (tagOf fmt) (srcBits xs 0)) s

/-- Lane i of the second source where the selector's bit is 1, else of the first (R211). -/
def vectorSelect (v : VecForm) (sel : Nat) (s : State) : Out :=
  execVec v (pairFmt noBe false) (fun s fmt xs =>
    let t := tagOf fmt
    let m := (s.core.getV sel).bits.toNat
    VOut.lanes t (fun i => (laneOf t (srcBits xs (if m.testBit i then 1 else 0)) i, Eff.none))) s

/-- vmov (R211). -/
def execVmov (d a : BitVec 5) (k : BitVec 2) (pol me : BitVec 1) (s : State) : Out :=
  vectorMove { instr := .vmov d a k pol me, srcs := [a], dst := d, mask := .of me k pol } s

/-- vsel (R211): the mask register selects and masks nothing. -/
def execVsel (d a b : BitVec 5) (k : BitVec 2) (s : State) : Out :=
  vectorSelect { instr := .vsel d a b k, srcs := [a, b], dst := d, extra := [.v k.toNat] } k.toNat s

/-- The tag rule of vperm: any tag but BE, indexes in an integer tag (R211). -/
def permFmt : List (BitVec 16) → Option (BitVec 16)
  | f :: g :: _ => if noBe (tagOf f) && isInt (tagOf g) then some f else none
  | _ => none

/-- vperm (R211). -/
def execVperm (d a b : BitVec 5) (k : BitVec 2) (pol me : BitVec 1) (s : State) : Out :=
  execVec (formV (.vperm d a b k pol me) d a b k pol me) permFmt (fun _ fmt xs =>
    let t := tagOf fmt
    let u := tagOf (srcFmt xs 1)
    VOut.lanes t (fun i =>
      let ix := if i < lanesOf u then laneOf u (srcBits xs 1) i else 0
      (laneOf t (srcBits xs 0) (ix % lanesOf t), Eff.none))) s

/-- A slide of one register by n lanes (R211). -/
def slideOut (up : Bool) (n : Nat) (_ : State) (fmt : BitVec 16) (xs : List VReg) : VOut :=
  let t := tagOf fmt
  VOut.lanes t (fun i =>
    (if up then (if n ≤ i then laneOf t (srcBits xs 0) (i - n) else 0)
     else if i + n < lanesOf t then laneOf t (srcBits xs 0) (i + n) else 0, Eff.none))

/-- vslide.up (R211). -/
def execVslideUp (d a n : BitVec 5) (k : BitVec 2) (pol me : BitVec 1) (s : State) : Out :=
  execVec { instr := .vslideUp d a n k pol me, srcs := [a], dst := d, mask := .of me k pol } (oneFmt noBe)
    (slideOut true n.toNat) s

/-- vslide.down (R211). -/
def execVslideDown (d a n : BitVec 5) (k : BitVec 2) (pol me : BitVec 1) (s : State) : Out :=
  execVec { instr := .vslideDown d a n k pol me, srcs := [a], dst := d, mask := .of me k pol } (oneFmt noBe)
    (slideOut false n.toNat) s

/-- The tags that an f register may hold (R97). -/
def fRegTag (t : Nat) : Bool := t == 0 || t == 6 || t == 7 || t == 12 || t == 13 || t == 14

/-- An f register's value in every lane; for raw its 64 bits in every 8-byte group (R211). -/
def splatBits (r : FReg) : Nat :=
  if tagOf r.fmt = 0 then buildLanes 7 (fun _ => r.bits.toNat) else buildLanes (tagOf r.fmt) (fun _ => r.bits.toNat)

/-- vsplat (R211). -/
def execVsplat (d a : BitVec 5) (k : BitVec 2) (pol me : BitVec 1) (s : State) : Out :=
  issue { instr := .vsplat d a k pol me, streams := .cOnly, uses := .f a.toNat :: vRegs d ++ (MaskSel.of me k pol).regs } s
    fun s1 =>
      let r := s1.core.getF a.toNat
      if decide (24 ≤ d.toNat) && s1.core.pushClaimed (d.toNat - 24) then .wait .depend
      else if !s1.canPut d then .wait (.push (d.toNat - 24))
      else if !fRegTag (tagOf r.fmt) then .trap 0x04 (tagVal (.vsplat d a k pol me) r.fmt 0)
      else
        let v : VecForm := { instr := .vsplat d a k pol me, srcs := [], dst := d, mask := .of me k pol }
        let (x, _) := v.result s1.core r.fmt (VOut.plain (tagOf r.fmt) (splatBits r))
        .done (s1.putV d x)

/-- vidx (R211). -/
def execVidx (d : BitVec 5) (k : BitVec 2) (tag : BitVec 4) (pol me : BitVec 1) (s : State) : Out :=
  execVec { instr := .vidx d k tag pol me, srcs := [], dst := d, mask := .of me k pol }
    (fun _ => some (mkFmt tag.toNat 0)) (fun _ fmt _ => VOut.lanes (tagOf fmt) (fun i => (i, Eff.none))) s

/-- The lanes that a mask keeps, packed from lane 0 on, and their number (R212). -/
def compressLanes (tag bits mask : Nat) : Nat × Nat :=
  (List.range (lanesOf tag)).foldl (fun (acc : Nat × Nat) i =>
    if mask.testBit i then (acc.1 + laneOf tag bits i * 2 ^ (laneAt tag acc.2).1, acc.2 + 1) else acc) (0, 0)

/-- vcompress (R212): lanes above the packed ones stay, or become all ones under free or in a pushed entry. -/
def execVcompress (d a : BitVec 5) (k : BitVec 2) (pol : BitVec 1) (s : State) : Out :=
  execVec { instr := .vcompress d a k pol, srcs := [a], dst := d, extra := [.v k.toNat] } (oneFmt noBe) (fun s fmt xs =>
    let t := tagOf fmt
    let (full, n) := compressLanes t (srcBits xs 0) (s.core.getV k.toNat).bits.toNat
    VOut.plain t (maskLanes t (lanesOf t) full (s.core.getV d.toNat).bits.toNat (2 ^ n - 1)
      (pol == 1 || decide (24 ≤ d.toNat)))) s

/-- vpopm (R212): counts the one bits of a register or entry of any tag. -/
def execVpopm (d a : BitVec 5) (s : State) : Out :=
  issue { instr := .vpopm d a, streams := .cOnly, illegal := s.popsQ3 [a], uses := gRegs d ++ vRegs a } s fun s1 =>
    match s1.takeV [a] with
    | .wait w => .wait w
    | .ok s2 xs =>
      if !xs.all Src.ready then .done (s2.launchLate s (.vpopm d a) none (gRegs d) none xs)
      else
        let bits := ((xs[0]?).map (fun x => x.reg.bits.toNat)).getD 0
        .done (s2.setG d (.ofNat 64 ((List.range 512).foldl (fun acc i => if bits.testBit i then acc + 1 else acc) 0)))

/-! ### The generator (R182, R220) -/

/-- The write count that the command latched for a tensor; 0 for an id that its table does not hold (R182). -/
def Task.writeCount (t : Task) (id : BitVec 32) : Nat :=
  (((t.kernel.tensors.zip t.wcounts).find? (fun x => x.1 == id)).map (fun x => x.2.toNat)).getD 0

/-- G(key, ctr) with the key and the write count of R182. -/
def State.genWord (s : State) (c0 c1 : Nat) : Nat :=
  let id := s.core.sys.tensorId
  let w := match s.core.task with
    | some t => t.writeCount id
    | none => 0
  gen (s.core.sys.seed.toNat ^^^ (id.toNat * 2 ^ 32)) (c0 % 2 ^ 32 + c1 * 2 ^ 32 + w * 2 ^ 64)

/-- vrng (R220). -/
def execVrng (d a : BitVec 5) (k : BitVec 2) (tag : BitVec 4) (pol me : BitVec 1) (s : State) : Out :=
  execVec { instr := .vrng d a k tag pol me, srcs := [], dst := d, mask := .of me k pol, extra := gRegs a }
    (fun _ => some (mkFmt tag.toNat 0)) (fun s fmt _ =>
      let g := (s.g a).toNat
      VOut.lanes (tagOf fmt) (fun i =>
        let x := s.genWord (g % 2 ^ 32 + i) (g / 2 ^ 32)
        (if tag = 3 then x else if x / 256 = 0 then 0 else (roundIeee .fp32 0 false (x / 256) (2 ^ 24)).1, Eff.none))) s

/-! ### The halfword forms (R105, R221) -/

/-- A halfword form with vd as first source. -/
def formH (i : Instr) (d a : BitVec 5) (m : BitVec 1) : VecForm := { instr := i, srcs := [d, a], dst := d, mask := .half m }

/-- A halfword form of one source. -/
def formH1 (i : Instr) (d a : BitVec 5) (m : BitVec 1) : VecForm := { instr := i, srcs := [a], dst := d, mask := .half m }

/-- A one-source result lane by lane. -/
def lanewise1 (f : BitVec 16 → Nat → Nat × Eff) (_ : State) (_ : BitVec 16) (xs : List VReg) : VOut :=
  let t := tagOf (srcFmt xs 0)
  VOut.lanes t (fun i => f (srcFmt xs 0) (laneOf t (srcBits xs 0) i))

/-- vadd vd, vd, vs (R105). -/
def execVaddH (d a : BitVec 5) (m : BitVec 1) (s : State) : Out := vectorAdd (formH (.vaddH d a m) d a m) false s

/-- vsub vd, vd, vs (R105). -/
def execVsubH (d a : BitVec 5) (m : BitVec 1) (s : State) : Out := vectorAdd (formH (.vsubH d a m) d a m) true s

/-- vmul vd, vd, vs (R105). -/
def execVmulH (d a : BitVec 5) (m : BitVec 1) (s : State) : Out := vectorMul (formH (.vmulH d a m) d a m) s

/-- vmin vd, vd, vs (R105). -/
def execVminH (d a : BitVec 5) (m : BitVec 1) (s : State) : Out := vectorPick (formH (.vminH d a m) d a m) false s

/-- vmax vd, vd, vs (R105). -/
def execVmaxH (d a : BitVec 5) (m : BitVec 1) (s : State) : Out := vectorPick (formH (.vmaxH d a m) d a m) true s

/-- vand vd, vd, vs (R105). -/
def execVandH (d a : BitVec 5) (m : BitVec 1) (s : State) : Out :=
  vectorBits (formH (.vandH d a m) d a m) (fun x y => x &&& y) s

/-- vor vd, vd, vs (R105). -/
def execVorH (d a : BitVec 5) (m : BitVec 1) (s : State) : Out :=
  vectorBits (formH (.vorH d a m) d a m) (fun x y => x ||| y) s

/-- vxor vd, vd, vs (R105). -/
def execVxorH (d a : BitVec 5) (m : BitVec 1) (s : State) : Out :=
  vectorBits (formH (.vxorH d a m) d a m) (fun x y => x ^^^ y) s

/-- vmov vd, vs (R105). -/
def execVmovH (d a : BitVec 5) (m : BitVec 1) (s : State) : Out := vectorMove (formH1 (.vmovH d a m) d a m) s

/-- One lane of vneg (R221): +0 − vs by R207, where vneg of +0 gives +0 in every rounding mode. -/
def negLane (md : Modes) (fmt : BitVec 16) (a : Nat) : Nat × Eff :=
  let zero := match ieeeOf (tagOf fmt) with
    | some f => (vecVal f (tagOf fmt) a).isZero && !(vecVal f (tagOf fmt) a).isNeg
    | none => false
  if zero then (0, Eff.none) else addLane md fmt true 0 a

/-- vneg (R221). -/
def execVneg (d a : BitVec 5) (m : BitVec 1) (s : State) : Out :=
  execVec (formH1 (.vneg d a m) d a m) (oneFmt arithTag) (lanewise1 (fun f x => negLane s.modes f x)) s

/-- vabs (R221). -/
def execVabs (d a : BitVec 5) (m : BitVec 1) (s : State) : Out :=
  execVec (formH1 (.vabs d a m) d a m) (oneFmt arithTag) (lanewise1 absLane) s

/-- vsel vd, vd, vs by v0 (R105). -/
def execVselH (d a : BitVec 5) (s : State) : Out :=
  vectorSelect { instr := .vselH d a, srcs := [d, a], dst := d, extra := [.v 0] } 0 s

/-- vrelu (R221): vmax of vs and zero. -/
def execVrelu (d a : BitVec 5) (m : BitVec 1) (s : State) : Out :=
  execVec (formH1 (.vrelu d a m) d a m) (oneFmt arithTag) (lanewise1 (fun f x => pickLane f true x 0)) s

/-- vrsub (R221): vs − vd. -/
def execVrsub (d a : BitVec 5) (m : BitVec 1) (s : State) : Out :=
  vectorAdd { formH (.vrsub d a m) d a m with srcs := [a, d] } true s

/-- vzero (R221): the canonical zero in the format word of vs. -/
def execVzero (d a : BitVec 5) (m : BitVec 1) (s : State) : Out :=
  execVec (formH1 (.vzero d a m) d a m) (oneFmt (fun _ => true)) (fun _ fmt _ => VOut.plain (tagOf fmt) (zeroOf (tagOf fmt))) s

/-- vswap (R105): both registers exchange contents and format words in one step. -/
def execVswap (d a : BitVec 5) (s : State) : Out :=
  issue { instr := .vswap d a, streams := .cOnly, uses := vRegs d ++ vRegs a } s fun s1 =>
    .done ((s1.setV d.toNat (s1.core.getV a.toNat)).setV a.toNat (s1.core.getV d.toNat))

end Sys2Proof.Machine
end

