-- ==== Sys2Proof/Machine/VectorLong.lean ====
section
/-! DEFINITION. The long-latency vector instructions (spec/11_vector_instructions.md R213 to R219): special functions, converts,
BE packing and reductions. -/

namespace Sys2Proof.Machine

/-! ### Special functions (R213, R214) -/

/-- ln 2 and log2 e as multiples of 2^-64. -/
def ln2Fixed : Nat := 0xB17217F7D1CF79AC
def log2eFixed : Nat := 0x171547652B82FE177

/-- The Taylor sum of e^y for y in units of 2^-64, from term k on. -/
def expTaylor (y : Nat) : Nat → Nat → Nat → Nat
  | 0, _, _ => 0
  | fuel + 1, k, term => term + expTaylor y fuel (k + 1) (term * y / 2 ^ 64 / (k + 1))

/-- 2^x for x in units of 2^-64, as a fraction; x is held within ±4,096. -/
def exp2Fixed (x : Int) : Q :=
  let x := min (max x (-(4096 * 2 ^ 64))) (4096 * 2 ^ 64)
  let i := x / 2 ^ 64
  let f := (x % 2 ^ 64).toNat
  (Q.ofInt (expTaylor (f * ln2Fixed / 2 ^ 64) 32 0 (2 ^ 64) : Nat)).scale (i - 64)

/-- A fraction in units of 2^-64, rounded down. -/
def Q.fixed (x : Q) : Int := x.num * 2 ^ 64 / (x.den : Int)

/-- The fraction bits of log2 of m in [1, 2) held in units of 2^-128, by repeated squaring. -/
def log2Bits : Nat → Nat → Nat
  | 0, _ => 0
  | fuel + 1, m =>
    let q := m * m / 2 ^ 128
    if 2 ^ 129 ≤ q then 2 ^ fuel + log2Bits fuel (q / 2) else log2Bits fuel q

/-- log2 of a positive fraction, within 2^-48. -/
def log2Q (n d : Nat) : Q :=
  let e := floorLog2 n d
  let m := if 0 ≤ e then n * 2 ^ 128 / (d * 2 ^ e.toNat) else n * 2 ^ (-e).toNat * 2 ^ 128 / d
  (Q.ofInt e).add ⟨log2Bits 48 m, 2 ^ 48⟩

/-- e^x as a fraction. -/
def expQ (x : Q) : Q := exp2Fixed (x.num * log2eFixed / (x.den : Int))

/-- The value of a special function at a finite nonzero argument, closer than its bound by far (R213):
0 vrcp, 1 vrsq, 3 vexp2, 4 vlog2, 5 vtanh, 6 vsigm. -/
def specialReal (fn : Nat) (x : Q) : Q :=
  match fn with
  | 0 => if x.isNeg then ⟨-(x.den : Int), x.mag⟩ else ⟨x.den, x.mag⟩
  | 1 =>
    let (r, e, _) := sqrtFrac x.den x.mag
    ⟨r, e⟩
  | 3 => exp2Fixed x.fixed
  | 4 => log2Q x.mag x.den
  | 5 =>
    if x.abs.lt ⟨1, 4096⟩ then x.add (((x.mul x).mul x).mul ⟨-1, 3⟩)
    else
      let t := expQ ((x.abs.mul ⟨-2, 1⟩))
      let r : Q := (Q.ofInt 1).add t.neg
      let s := (Q.ofInt 1).add t
      let v : Q := ⟨r.num * s.den, r.den * s.num.toNat⟩
      if x.isNeg then v.neg else v
  | _ =>
    let s := (Q.ofInt 1).add (expQ x.neg)
    ⟨s.den, s.num.toNat⟩

/-- The exact value where it may be representable (R213): a reciprocal, the reciprocal of a rational root, 2 to an integer,
the logarithm of a power of two. -/
def specialExact (fn : Nat) (x : Q) : Option Q :=
  let g := Nat.gcd x.mag x.den
  let n := x.mag / g
  let d := x.den / g
  match fn with
  | 0 => some (specialReal 0 x)
  | 1 =>
    let rn := isqrt n
    let rd := isqrt d
    if rn * rn = n ∧ rd * rd = d then some ⟨rd, rn⟩ else none
  | 3 => if d = 1 then some ((Q.ofInt 1).scale (min (max (if x.isNeg then -(n : Int) else n) (-4096)) 4096)) else none
  | 4 => if n = 2 ^ Nat.log2 n ∧ d = 2 ^ Nat.log2 d then some (Q.ofInt ((Nat.log2 n : Int) - Nat.log2 d)) else none
  | _ => none

/-- The value the device returns before it is rounded (R213): off the exact one by no more than the bound, relative for vrcp, vrsq
and vexp2, absolute for the others; how far is a free value (log entry 6), in steps
finer than any value of the tags. -/
def specialNear (fn : Nat) (x : Q) (free : Nat) : Q :=
  let dev : Q := ⟨(free % (2 ^ 150 + 1) : Nat) - (2 ^ 149 : Int), 2 ^ 161⟩
  if fn = 0 ∨ fn = 1 ∨ fn = 3 then x.mul ((Q.ofInt 1).add dev) else x.add dev

/-- The magnitude lies beyond the tag's largest finite value. -/
def pastFinite (f : IeeeFmt) (x : Q) : Bool := (f.decode (f.maxPat false)).q.lt x.abs

/-- A value rounded into the tag, flushed when it comes out subnormal (R171, R214). The exact result lies within the finite range, and so does
what stands for it: the largest finite value is the nearest to one beyond it. -/
def specialRound (f : IeeeFmt) (mode : Nat) (x : Q) : Nat × Eff :=
  if x.num = 0 then (0, Eff.flushed)
  else if pastFinite f x then (f.maxPat x.isNeg, Eff.nx)
  else
    let (p, e) := roundIeee f mode x.isNeg x.mag x.den
    if f.small p then (f.zeroPat x.isNeg, Eff.flushed) else (p, e.join Eff.nx)

/-- One lane of a special function at a finite nonzero argument. -/
def specialFinite (fn : Nat) (f : IeeeFmt) (tag p : Nat) (x : Q) : Nat × Eff :=
  let v := specialReal fn x
  let (p0, e0) := if v.num = 0 then (0, Eff.none) else roundIeee f 0 v.isNeg v.mag v.den
  if pastFinite f v then (f.infPat v.isNeg, Eff.ov.join Eff.nx)
  else
    match specialExact fn x with
    | some q =>
      if q.num = 0 then (0, Eff.none)
      else
        let (r, e) := roundIeee f 0 q.isNeg q.mag q.den
        if f.small r then (f.zeroPat q.isNeg, Eff.flushed)
        else if e.flags = 0 then (r, Eff.none)
        else
          let free := Config.specialValue fn tag p
          specialRound f (if free % 2 = 0 then 2 else 3) (specialNear fn v (free / 2))
    | none =>
      if f.small p0 then (f.zeroPat v.isNeg, Eff.flushed.join e0)
      else
        let free := Config.specialValue fn tag p
        specialRound f (if free % 2 = 0 then 2 else 3) (specialNear fn v (free / 2))

/-- One lane of major 34 (R213, R214). -/
def specialLane (fn : Nat) (md : Modes) (tag p : Nat) : Nat × Eff :=
  match ieeeOf tag with
  | none => (0, Eff.none)
  | some f =>
    let v := f.decode p
    if fn = 2 then ieeeSqrt f md.ieee true v
    else
      let one := (f.bias * 2 ^ f.fbits, Eff.none)
      let bad := deliverIeee f 0 false (.nan true)
      match v with
      | .nan s => deliverIeee f 0 false (.nan s)
      | .nar _ => bad
      | .inf neg =>
        match fn with
        | 0 => (f.zeroPat neg, Eff.none)
        | 1 => if neg then bad else (0, Eff.none)
        | 3 => if neg then (0, Eff.none) else (f.infPat false, Eff.none)
        | 4 => if neg then bad else (f.infPat false, Eff.none)
        | 5 => (one.1 + f.zeroPat neg, Eff.none)
        | _ => if neg then (0, Eff.none) else one
      | .fin neg n d =>
        if n = 0 then
          match fn with
          | 0 => (f.infPat neg, Eff.dz)
          | 1 => (f.infPat neg, Eff.dz)
          | 3 => one
          | 4 => (f.infPat true, Eff.dz)
          | 5 => (f.zeroPat neg, Eff.none)
          | _ => ((f.bias - 1) * 2 ^ f.fbits, Eff.none)
        else if neg && (fn == 1 || fn == 4) then bad
        else specialFinite fn f tag p (Q.ofMag neg n d)

/-- The tags of the special functions (R213). -/
def specialTag (t : Nat) : Bool := t == 4 || t == 5 || t == 6

/-- A special function of one source under its mask. -/
def vectorSpecial (i : Instr) (fn : Nat) (d a : BitVec 5) (k : BitVec 2) (pol me : BitVec 1) (la : BitVec 4) (s : State) : Out :=
  execVec { instr := i, la := some la, srcs := [a], dst := d, mask := .of me k pol } (oneFmt specialTag)
    (lanewise1 (fun f x => specialLane fn s.modes (tagOf f) x)) s

/-- vrcp (R213). -/
def execVrcp (d a : BitVec 5) (k : BitVec 2) (pol me : BitVec 1) (la : BitVec 4) (s : State) : Out :=
  vectorSpecial (.vrcp d a k pol me la) 0 d a k pol me la s

/-- vrsq (R213). -/
def execVrsq (d a : BitVec 5) (k : BitVec 2) (pol me : BitVec 1) (la : BitVec 4) (s : State) : Out :=
  vectorSpecial (.vrsq d a k pol me la) 1 d a k pol me la s

/-- vsqrt (R213). -/
def execVsqrt (d a : BitVec 5) (k : BitVec 2) (pol me : BitVec 1) (la : BitVec 4) (s : State) : Out :=
  vectorSpecial (.vsqrt d a k pol me la) 2 d a k pol me la s

/-- vexp2 (R213). -/
def execVexp2 (d a : BitVec 5) (k : BitVec 2) (pol me : BitVec 1) (la : BitVec 4) (s : State) : Out :=
  vectorSpecial (.vexp2 d a k pol me la) 3 d a k pol me la s

/-- vlog2 (R213). -/
def execVlog2 (d a : BitVec 5) (k : BitVec 2) (pol me : BitVec 1) (la : BitVec 4) (s : State) : Out :=
  vectorSpecial (.vlog2 d a k pol me la) 4 d a k pol me la s

/-- vtanh (R213). -/
def execVtanh (d a : BitVec 5) (k : BitVec 2) (pol me : BitVec 1) (la : BitVec 4) (s : State) : Out :=
  vectorSpecial (.vtanh d a k pol me la) 5 d a k pol me la s

/-- vsigm (R213). -/
def execVsigm (d a : BitVec 5) (k : BitVec 2) (pol me : BitVec 1) (la : BitVec 4) (s : State) : Out :=
  vectorSpecial (.vsigm d a k pol me la) 6 d a k pol me la s

/-! ### Converts and BE packing (R215 to R217) -/

/-- The source tags of vcvt (R215). -/
def cvtTag (t : Nat) : Bool := isInt t || isIeee t || isQfx t || isFsl t

/-- The lanes of a conversion: lane i converts lane i of the source; lanes beyond the source's are zero bits (R215), also for fsl32, where those read as
NaR and R215 does not say whether the canonical zero is meant (log entry 79, DESIGN CHOICE). -/
def convertLanes (tag : Nat) (conv : Nat → Val → Nat × Eff) (xs : List VReg) : VOut :=
  let sf := srcFmt xs 0
  let t := tagOf sf
  VOut.lanes tag (fun i => if i < lanesOf t then conv i (valueOf sf (laneOf t (srcBits xs 0) i)) else (0, Eff.none))

/-- The format word of a conversion's result (R95, R215). -/
def cvtFmt (md : Modes) (tag : BitVec 4) (fs : List (BitVec 16)) : Option (BitVec 16) :=
  (oneFmt cvtTag fs).map (fun _ => mkFmt tag.toNat md.scale)

/-- vcvt (R215). -/
def execVcvt (d a : BitVec 5) (k : BitVec 2) (tag : BitVec 4) (pol me : BitVec 1) (la : BitVec 4) (s : State) : Out :=
  execVec { instr := .vcvt d a k tag pol me la, la := some la, srcs := [a], dst := d, mask := .of me k pol }
    (cvtFmt s.modes tag) (fun _ _ xs => convertLanes tag.toNat (fun _ v => convertTo s.modes tag.toNat v) xs) s

/-- The registers of a BE group operation from one on (R217). -/
def groupSrcs (a : BitVec 5) (tag : BitVec 4) : List (BitVec 5) :=
  (List.range (beGroups tag.toNat)).map (fun i => a + .ofNat 5 i)

/-- Every source holds fp32 (R217). -/
def packFmt (tag : BitVec 4) (fs : List (BitVec 16)) : Option (BitVec 16) :=
  if fs.all (fun f => tagOf f == 6) then some (mkFmt tag.toNat 0) else none

/-- The groups of a pack: group g is be_quant of the 16 lanes of source g, with a rounding per group and element (R174, R217). -/
def packGroups (tag : Nat) (rnd : Nat → Nat → Q → Nat) (xs : List VReg) : VOut :=
  let one := fun g =>
    beQuant tag ((List.range 16).map (fun i => IeeeFmt.fp32.decode (laneOf 6 (srcBits xs g) i))) (rnd g)
  ⟨beGroups tag, (List.range (beGroups tag)).foldl (fun acc g => acc + (one g).1 * 2 ^ (8 * beBytes tag * g)) 0,
    fun g => (one g).2⟩

/-- vcvts (R216, R217): lane or element numbers and g28 make the generator's coordinates. -/
def execVcvts (d a : BitVec 5) (k : BitVec 2) (tag : BitVec 4) (pol me : BitVec 1) (la : BitVec 4) (s : State) : Out :=
  let i : Instr := .vcvts d a k tag pol me la
  let g := (s.core.c.getG 28).toNat
  let draw := fun n => s.genWord (g % 2 ^ 32 + n) (g / 2 ^ 32)
  if isBe tag.toNat then
    execVec { instr := i, la := some la, srcs := groupSrcs a tag, dst := d, extra := [.g 28] } (packFmt tag)
      (fun _ _ xs => packGroups tag.toNat (fun gr j x => (sroundInt (draw (16 * gr + j)) x).1.toNat) xs) s
  else
    execVec { instr := i, la := some la, srcs := [a], dst := d, mask := .of me k pol, extra := [.g 28] }
      (cvtFmt s.modes tag)
      (fun _ _ xs => convertLanes tag.toNat (fun n v => convertStochastic s.modes tag.toNat (draw n) v) xs) s

/-- vpack (R217). -/
def execVpack (d a : BitVec 5) (tag : BitVec 4) (la : BitVec 4) (s : State) : Out :=
  execVec { instr := .vpack d a tag la, la := some la, srcs := groupSrcs a tag, dst := d } (packFmt tag)
    (fun _ _ xs => packGroups tag.toNat (fun _ _ x => rneInt x) xs) s

/-- An element of a BE group as fp32 (R172): exact, or the canonical NaN, which is counted. -/
def unpackElem (tag grp j : Nat) : Nat × Eff := deliverIeee .fp32 0 false (match beElement tag grp j with
  | .fin s n d => .fin s n d
  | _ => .nan false)

/-- vunpack (R217): register vd + g takes the elements of group g. How many they are is known once no incomplete instruction writes vs1 any more (R84,
R205). A vs1 that is no BE group names vd to vd + 2 before it traps (log entry 98, DESIGN CHOICE). -/
def execVunpack (d a : BitVec 5) (la : BitVec 4) (s : State) : Out :=
  let i : Instr := .vunpack d a la
  let src := s.core.getV a.toNat
  let t := tagOf src.fmt
  let coming := s.cur.awaits { instr := i, streams := .cOnly, uses := vRegs a }
  let regs := if coming then [] else (List.range (beGroups t)).map (fun g => d.toNat + g)
  issue { instr := i, streams := .cOnly, illegal := !coming && isBe t && decide (24 < d.toNat + beGroups t),
          uses := vRegs a ++ regs.map Reg.v, whole := regs.map Reg.v } s fun s1 =>
    if !isBe t then .trap 0x04 (tagVal i src.fmt 0)
    else
      let grp := fun g => bitField src.bits.toNat (8 * beBytes t * g) (8 * beBytes t)
      let out := fun g => VOut.lanes 6 (fun j => unpackElem t (grp g) j)
      let ws := (List.range (beGroups t)).map (fun g => RegWrite.v (d.toNat + g) ⟨.ofNat 512 (out g).bits, mkFmt 6 0⟩)
      let e := (List.range (beGroups t)).foldl (fun acc g => acc.join ((out g).total (fun _ => true))) Eff.none
      .done (s1.launchOp i s.cur.pc la.toNat (regs.map Reg.v) (.deliver ws e.flags e.counts 0))

/-! ### Reductions (R218, R219) -/

/-- The result tag of a source tag (R218); none when it is not accepted. -/
def redTag (t : Nat) : Option Nat :=
  if t = 4 ∨ t = 5 ∨ t = 6 then some 6
  else if t = 7 then some 7
  else if isQfx t then some 12
  else if isFsl t then some t
  else if isInt t then some 3
  else none

/-- The exact sum of IEEE values with one rounding (R218): NaN, opposed infinities, and the sign of a zero sum. -/
def redSumIeee (mode : Nat) (vs : List Val) : Exact :=
  let isInf := fun (neg : Bool) (v : Val) => v == .inf neg
  let up := vs.any (isInf false)
  let down := vs.any (isInf true)
  if vs.any Val.unordered then .nan (vs.any Val.signalling || (up && down))
  else if up && down then .nan true
  else if up then .inf false false
  else if down then .inf true false
  else
    let sum := vs.foldl (fun (acc : Q) v => acc.add v.q) ⟨0, 1⟩
    let allNeg := !vs.isEmpty && vs.all (fun v => v.isZero && v.isNeg)
    let allPos := vs.all (fun v => v.isZero && !v.isNeg)
    Exact.ofQ sum (allNeg || (mode == 2 && !allPos))

/-- The exact sum of rational values (R177, R218). -/
def redSumFsl (vs : List Val) : Exact :=
  match vs.findSome? (fun v => match v with
    | .nar c => some c
    | _ => none) with
  | some c => .nar c false
  | none => vs.foldl (fun (acc : Exact) v => match acc with
    | .inf s _ => fslAdd (.inf s) v
    | .fin s n d => fslAdd (.fin s n d) v
    | x => x) (.fin false 0 1)

/-- vredadd of values and, for integer and QFX lanes, of their integers, into a result tag. -/
def redAdd (md : Modes) (rtag : Nat) (vs : List Val) (is : List Int) : Nat × Eff :=
  match ieeeOf rtag with
  | some f => deliverIeee f md.ieee false (redSumIeee md.ieee vs)
  | none =>
    if isFsl rtag then deliverFsl (rtag == 14) md.fsl (redSumFsl vs)
    else
      let (r, e) := qsat is.sum 32
      (intPat r 32, e)

/-- vredmax or vredmin of values (R208, R218). -/
def redPick (rtag : Nat) (big : Bool) (vs : List Val) (is : List Int) : Nat × Eff :=
  let better := fun (x y : Val) => if big then (if x.below y then y else x) else (if y.below x then y else x)
  match ieeeOf rtag with
  | some f =>
    let nv := Eff.onlyIf (vs.any Val.signalling) Eff.nv
    match vs.filter (fun v => !v.unordered) with
    | [] => if vs.isEmpty then (f.infPat big, Eff.none) else (f.qnan, Eff.nanr.join nv)
    | x :: rest =>
      match rest.foldl better x with
      | .fin s n d => ((deliverIeee f 0 false (.fin s n d)).1, nv)
      | v => (f.infPat v.isNeg, nv)
  | none =>
    if isFsl rtag then
      match vs.findSome? (fun v => match v with
        | .nar c => some c
        | _ => none) with
      | some c => deliverFsl (rtag == 14) 0 (.nar c false)
      | none =>
        match vs.foldl better (.inf big) with
        | .fin s n d => deliverFsl (rtag == 14) 0 (.fin s n d)
        | v => deliverFsl (rtag == 14) 0 (.inf v.isNeg false)
    else
      let r : Int := if big then is.foldl max (-(2 ^ 31)) else is.foldl min (2 ^ 31 - 1)
      (intPat r 32, Eff.none)

/-- The values and the integers of the active lanes of a source. -/
def activeLanes (r : VReg) (active : Nat → Bool) : List Val × List Int :=
  let t := tagOf r.fmt
  let ls := ((List.range (lanesOf t)).filter active).map (fun i => laneOf t r.bits.toNat i)
  (ls.map (valueOf r.fmt), ls.map (fun p => patInt p (laneBits t)))

/-- A reduction's write: an f register, or lane 0 of a v register whose other lanes are kept or set (R218). -/
def redWrite (k : Core) (toF : Bool) (d : BitVec 5) (fmt : BitVec 16) (p : Nat) (free : Bool) : RegWrite :=
  let w := laneBits (tagOf fmt)
  if toF then .f d.toNat ⟨.ofNat 64 p, fmt⟩
  else
    let old := (k.getV d.toNat).bits.toNat
    let base := if free then (2 ^ 512 - 1) / 2 ^ w * 2 ^ w else old / 2 ^ w * 2 ^ w
    .v d.toNat ⟨.ofNat 512 (base + p % 2 ^ w), fmt⟩

/-- The register of a reduction's destination (R86, R218). -/
def redDest (toF : Bool) (d : BitVec 5) : Reg := if toF then .f d.toNat else .v d.toNat

/-- vredadd, vredmax or vredmin (R218). -/
def vectorReduce (i : Instr) (d a : BitVec 5) (k : BitVec 2) (f pol me : BitVec 1) (la : BitVec 4)
    (run : Modes → Nat → List Val → List Int → Nat × Eff) (s : State) : Out :=
  let toF := f == 1
  let m := MaskSel.of me k pol
  issue { instr := i, streams := .cOnly, illegal := s.popsQ3 [a], uses := vRegs a ++ [redDest toF d] ++ m.regs } s fun s1 =>
    match s1.takeV [a] with
    | .wait w => .wait w
    | .ok s2 xs =>
      match xs with
      | [] => .done s2
      | x :: _ =>
        let t := tagOf x.reg.fmt
        match redTag t with
        | none => .trap 0x04 (tagVal i x.reg.fmt 0)
        | some rt =>
          if toF && rt == 3 then .trap 0x04 (tagVal i x.reg.fmt 0)
          else if !x.ready then .done (s2.launchLate s i (some la) [redDest toF d] none xs)
          else
            let mask := (s1.core.getV m.reg).bits.toNat
            let (vs, is) := activeLanes x.reg (m.active mask)
            let (p, e) := run s1.modes rt vs is
            let fmt := mkFmt rt (scaleOf x.reg.fmt)
            .done (s2.launchOp i s.cur.pc la.toNat [redDest toF d]
              (.deliver [redWrite s1.core toF d fmt p m.free] e.flags e.counts 0))

/-- vredadd (R218). -/
def execVredadd (d a : BitVec 5) (k : BitVec 2) (f pol me : BitVec 1) (la : BitVec 4) (s : State) : Out :=
  vectorReduce (.vredadd d a k f pol me la) d a k f pol me la redAdd s

/-- vredmax (R218). -/
def execVredmax (d a : BitVec 5) (k : BitVec 2) (f pol me : BitVec 1) (la : BitVec 4) (s : State) : Out :=
  vectorReduce (.vredmax d a k f pol me la) d a k f pol me la (fun _ rt => redPick rt true) s

/-- vredmin (R218). -/
def execVredmin (d a : BitVec 5) (k : BitVec 2) (f pol me : BitVec 1) (la : BitVec 4) (s : State) : Out :=
  vectorReduce (.vredmin d a k f pol me la) d a k f pol me la (fun _ rt => redPick rt false) s

/-- The destination of vredq holds a result tag (R219). -/
def redqTag (toF : Bool) (t : Nat) : Bool := t == 6 || t == 7 || t == 12 || t == 13 || t == 14 || (t == 3 && !toF)

/-- The format word of a reduction destination. -/
def redFmt (k : Core) (toF : Bool) (d : BitVec 5) : BitVec 16 := if toF then (k.getF d.toNat).fmt else (k.getV d.toNat).fmt

/-- vredq (R219): the destination is checked at issue; the entries are summed one by one while it executes. -/
def execVredq (d a : BitVec 5) (n : BitVec 4) (f : BitVec 1) (la : BitVec 4) (s : State) : Out :=
  let i : Instr := .vredq d a n f la
  let toF := f == 1
  issue { instr := i, streams := .cOnly, illegal := s.popsQ3 [a], uses := [redDest toF d] } s fun s1 =>
    if !redqTag toF (tagOf (redFmt s1.core toF d)) then .trap 0x04 (tagVal i (redFmt s1.core toF d) 0)
    else
      s1.partRoom s.cur.wait <|
      .done (s1.launchOp i s.cur.pc la.toNat [redDest toF d] (.vredq toF d.toNat (a.toNat - 24) (n.toNat + 1))
        (part := true))

/-- One entry summed into the destination of a vredq (R219): the new pattern and its effects, or a mismatch. -/
def redqEntry (md : Modes) (dfmt : BitVec 16) (old : Nat) (e : VReg) : Option (Nat × Eff) :=
  let rt := tagOf dfmt
  if redTag (tagOf e.fmt) != some rt || (isQfx rt && scaleOf e.fmt != scaleOf dfmt) then none
  else
    let (vs, is) := activeLanes e (fun _ => true)
    some (redAdd md rt (valueOf dfmt old :: vs) (patInt old 32 :: is))

end Sys2Proof.Machine
end

