-- ==== Sys2Proof/Machine/Float.lean ====
section
/-! DEFINITION. Scalar float, constant and rational instructions (spec/13_rational_and_solver_instructions.md R244 to R254). -/

namespace Sys2Proof.Machine

/-- The pattern that an f register holds under its tag (R97). -/
def FReg.pat (r : FReg) : Nat := r.bits.toNat % 2 ^ laneBits (tagOf r.fmt)

/-- The value of an f register. -/
def FReg.val (r : FReg) : Val := valueOf r.fmt r.pat

/-- A result in an f register; a 32-bit value stands in the low half (R97, R244). -/
def fResult (fmt : BitVec 16) (p : Nat) : FReg := ⟨.ofNat 64 p, fmt⟩

/-- The tags of the f arithmetic without and with qfx32 (R245). -/
def realTag (t : Nat) : Bool := t == 6 || t == 7 || t == 13 || t == 14
def fNumTag (t : Nat) : Bool := realTag t || t == 12

/-- The two sources of an f instruction: fs1, fs2, and the register fd as it is read by fma. -/
structure FArgs where
  x : FReg
  y : FReg
  z : FReg

/-- A long-latency f instruction of one or two f sources into an f register: the tag check, then the result (R244). -/
def longF (i : Instr) (d a b : BitVec 5) (two : Bool) (la : BitVec 4) (ok : FArgs → Option (BitVec 16))
    (run : Modes → FArgs → Nat × Eff) (s : State) : Out :=
  issue { instr := i, streams := .cOnly, uses := .f d.toNat :: .f a.toNat :: (if two then [.f b.toNat] else []) } s fun s1 =>
    let k := s1.core
    let x : FArgs := ⟨k.getF a.toNat, k.getF b.toNat, k.getF d.toNat⟩
    match ok x with
    | none => .trap 0x04 (tagVal i x.x.fmt (if two then x.y.fmt else 0))
    | some fmt =>
      let (p, e) := run s1.modes x
      .done (s1.launchOp i s.cur.pc la.toNat [.f d.toNat] (.deliver [.f d.toNat (fResult fmt p)] e.flags e.counts 0))

/-- A short f instruction into an f register. -/
def shortF (i : Instr) (d a b : BitVec 5) (two : Bool) (ok : FArgs → Option (BitVec 16)) (run : FArgs → Nat × Eff)
    (s : State) : Out :=
  issue { instr := i, streams := .cOnly, uses := .f d.toNat :: .f a.toNat :: (if two then [.f b.toNat] else []) } s fun s1 =>
    let k := s1.core
    let x : FArgs := ⟨k.getF a.toNat, k.getF b.toNat, k.getF d.toNat⟩
    match ok x with
    | none => .trap 0x04 (tagVal i x.x.fmt (if two then x.y.fmt else 0))
    | some fmt =>
      let (p, e) := run x
      .done ((s1.setF d.toNat (fResult fmt p)).raise e)

/-- Equal accepted tags; scales too where asked (R245). -/
def okPair (accept : Nat → Bool) (scales : Bool) (x : FArgs) : Option (BitVec 16) := pairFmt accept scales [x.x.fmt, x.y.fmt]

/-- One accepted tag. -/
def okOne (accept : Nat → Bool) (x : FArgs) : Option (BitVec 16) := oneFmt accept [x.x.fmt]

/-- Both operands under one pair of rules: IEEE and fsl. -/
def realOp (md : Modes) (t : Nat) (ieee fsl : Val → Val → Exact) (x y : Val) : Nat × Eff :=
  match ieeeOf t with
  | some f => deliverIeee f md.ieee false (ieee x y)
  | none => deliverFsl (t == 14) md.fsl (fsl x y)

/-- Addition or subtraction on f (R246). -/
def fAddSub (sub : Bool) (md : Modes) (x : FArgs) : Nat × Eff :=
  let t := tagOf x.x.fmt
  if t = 12 then addLane md x.x.fmt sub x.x.pat x.y.pat
  else
    let y := if sub then x.y.val.negate else x.y.val
    realOp md t (ieeeAdd md.ieee) fslAdd x.x.val y

/-- fadd (R246). -/
def execFadd (d a b : BitVec 5) (la : BitVec 4) (s : State) : Out :=
  longF (.fadd d a b la) d a b true la (okPair fNumTag true) (fAddSub false) s

/-- fsub (R246). -/
def execFsub (d a b : BitVec 5) (la : BitVec 4) (s : State) : Out :=
  longF (.fsub d a b la) d a b true la (okPair fNumTag true) (fAddSub true) s

/-- The product's format word on f (R175, R245). -/
def okMul (x : FArgs) : Option (BitVec 16) :=
  match okPair fNumTag false x with
  | some f => some (if tagOf f = 12 then mkFmt 12 (min (max (scaleOf f + scaleOf x.y.fmt) (-32)) 31) else f)
  | none => none

/-- fmul (R246). -/
def execFmul (d a b : BitVec 5) (la : BitVec 4) (s : State) : Out :=
  longF (.fmul d a b la) d a b true la okMul (fun md x =>
    let t := tagOf x.x.fmt
    if t = 12 then mulLane md x.x.fmt x.y.fmt x.x.pat x.y.pat else realOp md t ieeeMul fslMul x.x.val x.y.val) s

/-- fdiv (R246). -/
def execFdiv (d a b : BitVec 5) (la : BitVec 4) (s : State) : Out :=
  longF (.fdiv d a b la) d a b true la (okPair realTag false)
    (fun md x => realOp md (tagOf x.x.fmt) ieeeDiv fslDiv x.x.val x.y.val) s

/-- fsqrt (R246). -/
def execFsqrt (d a : BitVec 5) (la : BitVec 4) (s : State) : Out :=
  longF (.fsqrt d a la) d a 0 false la (okOne realTag) (fun md x =>
    let t := tagOf x.x.fmt
    match ieeeOf t with
    | some f => ieeeSqrt f md.ieee false x.x.val
    | none => fslSqrt (t == 14) md.fsl x.x.val) s

/-- fma (R246): fd ← fs1·fs2 + fd with one rounding. -/
def execFma (d a b : BitVec 5) (la : BitVec 4) (s : State) : Out :=
  longF (.fma d a b la) d a b true la (fun x => tripleFmt realTag [x.x.fmt, x.y.fmt, x.z.fmt]) (fun md x =>
    let t := tagOf x.x.fmt
    match ieeeOf t with
    | some f => deliverIeee f md.ieee false (ieeeFma md.ieee x.x.val x.y.val x.z.val)
    | none => deliverFsl (t == 14) md.fsl (fslFma x.x.val x.y.val x.z.val)) s

/-! ### Minimum, maximum, magnitude, sign, comparison (R247) -/

/-- A value of an fsl tag in canonical form. -/
def fslCanon (wide : Bool) (v : Val) : Nat × Eff :=
  match v with
  | .fin s n d => deliverFsl wide 0 (.fin s n d)
  | .inf s => deliverFsl wide 0 (.inf s false)
  | .nar c => deliverFsl wide 0 (.nar c false)
  | .nan _ => deliverFsl wide 0 (.nar 0 false)

/-- fmin or fmax: whether fs2 is taken rather than fs1, for values that are ordered. -/
def fPick (big : Bool) (x : FArgs) : Nat × Eff :=
  let t := tagOf x.x.fmt
  let v := x.x.val
  let w := x.y.val
  match ieeeOf t with
  | some f => ieeePick f big v w x.x.pat x.y.pat
  | none =>
    let second := if big then decide (v.compare w < 0) else decide (0 < v.compare w)
    if isFsl t then
      match firstNar v w with
      | some c => fslCanon (t == 14) (.nar c)
      | none => fslCanon (t == 14) (if second then w else v)
    else (if second then x.y.pat else x.x.pat, Eff.none)

/-- The format word of fmin and fmax: a qfx32 result keeps its operand's own (R247). -/
def okPick (big : Bool) (x : FArgs) : Option (BitVec 16) :=
  match okPair fNumTag false x with
  | none => none
  | some f =>
    if tagOf f = 12 then
      let c := x.x.val.compare x.y.val
      some (if (if big then decide (c < 0) else decide (0 < c)) then x.y.fmt else f)
    else some f

/-- fmin (R247). -/
def execFmin (d a b : BitVec 5) (s : State) : Out := shortF (.fmin d a b) d a b true (okPick false) (fPick false) s

/-- fmax (R247). -/
def execFmax (d a b : BitVec 5) (s : State) : Out := shortF (.fmax d a b) d a b true (okPick true) (fPick true) s

/-- fabs or fneg (R247). -/
def fSign (neg : Bool) (x : FArgs) : Nat × Eff :=
  let t := tagOf x.x.fmt
  let p := x.x.pat
  match ieeeOf t with
  | some f =>
    if x.x.val.unordered then (f.qnan, Eff.nanr)
    else if neg then (if p / f.signBit % 2 = 1 then p - f.signBit else p + f.signBit, Eff.none)
    else (p % f.signBit, Eff.none)
  | none =>
    if isFsl t then
      match x.x.val with
      | .fin s n d => fslCanon (t == 14) (.fin (if neg then !s else false) n d)
      | .inf s => fslCanon (t == 14) (.inf (if neg then !s else false))
      | v => fslCanon (t == 14) v
    else
      let (r, e) := qsat (if neg then -(patInt p 32) else (patInt p 32).natAbs) 32
      (intPat r 32, e)

/-- fabs (R247). -/
def execFabs (d a : BitVec 5) (s : State) : Out := shortF (.fabs d a) d a 0 false (okOne fNumTag) (fSign false) s

/-- fneg (R247). -/
def execFneg (d a : BitVec 5) (s : State) : Out := shortF (.fneg d a) d a 0 false (okOne fNumTag) (fSign true) s

/-- A comparison into a g register (R247): an unordered pair gives 0 and sets NV, for feq only when a NaN is signalling. -/
def fCompare (i : Instr) (d a b : BitVec 5) (c : Nat) (s : State) : Out :=
  issue { instr := i, streams := .cOnly, uses := gRegs d ++ [.f a.toNat, .f b.toNat] } s fun s1 =>
    let x := s1.core.getF a.toNat
    let y := s1.core.getF b.toNat
    match pairFmt fNumTag false [x.fmt, y.fmt] with
    | none => .trap 0x04 (tagVal i x.fmt y.fmt)
    | some _ =>
      if x.val.unordered || y.val.unordered then
        .done ((s1.setG d 0).raise (Eff.onlyIf (c != 0 || x.val.signalling || y.val.signalling) Eff.nv))
      else .done (s1.setG d (boolWord (condHolds c (some (x.val.compare y.val)))))

/-- feq (R247). -/
def execFeq (d a b : BitVec 5) (s : State) : Out := fCompare (.feq d a b) d a b 0 s

/-- flt (R247). -/
def execFlt (d a b : BitVec 5) (s : State) : Out := fCompare (.flt d a b) d a b 2 s

/-- fle (R247). -/
def execFle (d a b : BitVec 5) (s : State) : Out := fCompare (.fle d a b) d a b 3 s

/-! ### Conversions and moves (R248) -/

/-- fcvt (R248). -/
def execFcvt (d a : BitVec 5) (tag : BitVec 4) (la : BitVec 4) (s : State) : Out :=
  longF (.fcvt d a tag la) d a 0 false la (fun x => (okOne fNumTag x).map (fun _ => s.loadFmt tag))
    (fun md x => convertTo md tag.toNat x.x.val) s

/-- f2g (R248). -/
def execF2g (d a : BitVec 5) (la : BitVec 4) (s : State) : Out :=
  issue { instr := .f2g d a la, streams := .cOnly, uses := gRegs d ++ [.f a.toNat] } s fun s1 =>
    let x := s1.core.getF a.toNat
    if !fNumTag (tagOf x.fmt) then .trap 0x04 (tagVal (.f2g d a la) x.fmt 0)
    else
      let (p, e) := saturateTo x.val s1.modes.ieee 64 0
      .done (s1.launchOp (.f2g d a la) s.cur.pc la.toNat (gRegs d) (.deliver [.g d.toNat (.ofNat 64 p)] e.flags e.counts 0))

/-- The value of a signed integer. -/
def intVal (i : Int) : Val := .fin (decide (i < 0)) i.natAbs 1

/-- g2f (R248); tag 0 takes fsl64 under STAT.FSLM and fp64 otherwise (R118). -/
def execG2f (d a : BitVec 5) (tag : BitVec 4) (la : BitVec 4) (s : State) : Out :=
  issue { instr := .g2f d a tag la, streams := .cOnly, uses := .f d.toNat :: gRegs a } s fun s1 =>
    let t : BitVec 4 := if tag = 0 then (if s1.core.sys.fslm then 14 else 7) else tag
    let (p, e) := convertTo s1.modes t.toNat (intVal (s1.g a).toInt)
    .done (s1.launchOp (.g2f d a tag la) s.cur.pc la.toNat [.f d.toNat]
      (.deliver [.f d.toNat (fResult (s1.loadFmt t) p)] e.flags e.counts 0))

/-- fmvg (R248). -/
def execFmvg (d a : BitVec 5) (s : State) : Out :=
  issue { instr := .fmvg d a, streams := .cOnly, uses := gRegs d ++ [.f a.toNat] } s fun s1 =>
    .done (s1.setG d (s1.core.getF a.toNat).bits)

/-- gmvf (R248): a 32-bit tag takes the low half. -/
def execGmvf (d a : BitVec 5) (tag : BitVec 4) (s : State) : Out :=
  issue { instr := .gmvf d a tag, streams := .cOnly, uses := .f d.toNat :: gRegs a } s fun s1 =>
    let v := s1.g a
    let half := tag == 6 || tag == 12 || tag == 13
    .done (s1.setF d.toNat ⟨if half then .ofNat 64 (v.toNat % 2 ^ 32) else v, s1.loadFmt tag⟩)

/-- The register that fli loads (R249), with its effects. -/
def fliValue (fslm : Bool) (imm : BitVec 20) : FReg × Eff :=
  if fslm then
    let n : Int := patInt (imm.toNat / 1024) 10
    let d := imm.toNat % 1024
    let fmt := mkFmt 13 0
    if d = 0 then
      if n = 0 then
        let (p, e) := deliverFsl false 0 (.nar 2 true)
        (fResult fmt p, e)
      else (fResult fmt (fslCode false (decide (n < 0)) 1), Eff.none)
    else (fResult fmt (fslRound false 0 (decide (n < 0)) n.natAbs d).1, Eff.none)
  else (fResult (mkFmt 6 0) (imm.toNat * 4096), Eff.none)

/-- fli (R249). -/
def execFli (d : BitVec 5) (imm : BitVec 20) (s : State) : Out :=
  issue { instr := .fli d imm, streams := .cOnly, uses := [.f d.toNat] } s fun s1 =>
    let (r, e) := fliValue s1.core.sys.fslm imm
    .done ((s1.setF d.toNat r).raise e)

/-! ### Rational instructions (R250 to R254) -/

/-- A short rational instruction that takes a value apart. -/
def fPart (i : Instr) (d a : BitVec 5) (f : Val → Word) (s : State) : Out :=
  issue { instr := i, streams := .cOnly, uses := gRegs d ++ [.f a.toNat] } s fun s1 =>
    let x := s1.core.getF a.toNat
    if !isFsl (tagOf x.fmt) then .trap 0x04 (tagVal i x.fmt 0) else .done (s1.setG d (f x.val))

/-- fnum (R250). -/
def execFnum (d a : BitVec 5) (s : State) : Out :=
  fPart (.fnum d a) d a (fun v => match v with
    | .fin neg n _ => w64 (if neg then -(n : Int) else n)
    | .inf neg => if neg then allOnes64 else 1
    | .nar c => .ofNat 64 c
    | .nan _ => 0) s

/-- fden (R250). -/
def execFden (d a : BitVec 5) (s : State) : Out :=
  fPart (.fden d a) d a (fun v => match v with
    | .fin _ _ m => .ofNat 64 m
    | .inf _ => 0
    | _ => allOnes64) s

/-- The fraction that fmake forms (R251). -/
def fmakeValue (mode : Nat) (n d : Int) : Nat × Eff :=
  if d = 0 then
    if n = 0 then deliverFsl true mode (.nar 2 true) else (fslCode true (decide (n < 0)) 1, Eff.dz)
  else fslRound true mode ((decide (n < 0)) != (decide (d < 0))) n.natAbs d.natAbs

/-- fmake (R251). -/
def execFmake (d a b : BitVec 5) (la : BitVec 4) (s : State) : Out :=
  issue { instr := .fmake d a b la, streams := .cOnly, uses := .f d.toNat :: gRegs a ++ gRegs b } s fun s1 =>
    let (p, e) := fmakeValue s1.modes.fsl (s1.g a).toInt (s1.g b).toInt
    .done (s1.launchOp (.fmake d a b la) s.cur.pc la.toNat [.f d.toNat]
      (.deliver [.f d.toNat (fResult (mkFmt 14 0) p)] e.flags e.counts 0))

/-- A rational value as a signed numerator over a denominator, infinities as ±1/0 (R252). -/
def Val.ratio : Val → Int × Nat
  | .fin neg n d => (if neg then -(n : Int) else n, d)
  | .inf neg => (if neg then -1 else 1, 0)
  | _ => (0, 1)

/-- The mediant (R252). -/
def mediant (wide : Bool) (mode : Nat) (x y : Val) : Nat × Eff :=
  match firstNar x y with
  | some c => deliverFsl wide mode (.nar c false)
  | none =>
    let n := x.ratio.1 + y.ratio.1
    let d := x.ratio.2 + y.ratio.2
    if d = 0 then
      if n = 0 then deliverFsl wide mode (.nar 3 true) else deliverFsl wide mode (.inf (decide (n < 0)) false)
    else fslRound wide mode (decide (n < 0)) n.natAbs d

/-- fmed (R252). -/
def execFmed (d a b : BitVec 5) (la : BitVec 4) (s : State) : Out :=
  longF (.fmed d a b la) d a b true la (okPair isFsl false)
    (fun md x => mediant (tagOf x.x.fmt == 14) md.fsl x.x.val x.y.val) s

/-- Rounding to a bounded denominator (R253). -/
def roundDen (wide : Bool) (mode D : Nat) (v : Val) : Nat × Eff :=
  match v with
  | .fin neg n d =>
    if inF wide D n d then fslCanon wide (.fin neg n d)
    else
      let (pn, pd) := pickFsl mode neg (neighbours wide D (fun a b => decide (a * d < n * b))) (cmpFrac n d)
      (fslEncode wide (neg && pn != 0) pn pd,
        if pn = 0 then Eff.nx.join ⟨2, 0, 1, 0⟩ else Eff.nx)
  | v => fslCanon wide v

/-- An f instruction of one fsl source and a g register. -/
def fRational (i : Instr) (d a b : BitVec 5) (la : BitVec 4) (run : Modes → Bool → Val → Word → Nat × Eff) (s : State) : Out :=
  issue { instr := i, streams := .cOnly, uses := .f d.toNat :: .f a.toNat :: gRegs b } s fun s1 =>
    let x := s1.core.getF a.toNat
    if !isFsl (tagOf x.fmt) then .trap 0x04 (tagVal i x.fmt 0)
    else
      let (p, e) := run s1.modes (tagOf x.fmt == 14) x.val (s1.g b)
      .done (s1.launchOp i s.cur.pc la.toNat [.f d.toNat] (.deliver [.f d.toNat (fResult x.fmt p)] e.flags e.counts 0))

/-- frnd (R253). -/
def execFrnd (d a b : BitVec 5) (la : BitVec 4) (s : State) : Out :=
  fRational (.frnd d a b la) d a b la (fun md wide v g => roundDen wide md.fsl g.toNat v) s

/-- The next element of F above a magnitude, 1/0 above maxF; with `strict` false the next below, which is 0 below minF. -/
def stepMag (wide up : Bool) (n d : Nat) : Nat × Nat :=
  if up then
    let b := neighbours wide 0 (fun a c => decide (a * d ≤ n * c))
    (b.hn, b.hd)
  else
    let b := neighbours wide 0 (fun a c => decide (a * d < n * c))
    (b.ln, b.ld)

/-- A magnitude with its sign, 1/0 as an infinity. -/
def fslMag (wide neg : Bool) (p : Nat × Nat) : Nat × Eff :=
  if p.2 = 0 then fslCanon wide (.inf neg) else fslCanon wide (.fin neg p.1 p.2)

/-- The neighbour of a value (R254): up for k > 0, down for k < 0. -/
def stepFsl (wide : Bool) (k : Int) (v : Val) : Nat × Eff :=
  if k = 0 then fslCanon wide v
  else
    let up := decide (0 < k)
    match v with
    | .fin neg n d =>
      if n = 0 then fslMag wide (!up) (1, fslMax wide)
      else fslMag wide neg (stepMag wide (up != neg) n d)
    | .inf neg => if up != neg then fslCanon wide (.inf neg) else fslCanon wide (.fin neg (fslMax wide) 1)
    | v => fslCanon wide v

/-- fnbr (R254). -/
def execFnbr (d a b : BitVec 5) (la : BitVec 4) (s : State) : Out :=
  fRational (.fnbr d a b la) d a b la (fun _ wide v g => stepFsl wide g.toInt v) s

end Sys2Proof.Machine
end

