-- ==== Sys2Proof/Machine/Fetch.lean ====
section
/-! DEFINITION. Fetching an instruction (spec/05_fetch_and_issue.md R82), and placing one where a step fetches it. -/

namespace Sys2Proof.Machine

/-- What the fetch at the program counter finds. -/
inductive Fetched where
  | instr (i : Instr)
  /-- A word or halfword that no instruction claims (R122). -/
  | reject (word : BitVec 32)
  /-- The fetch itself traps: cause and value (R82, R140). -/
  | trap (cause : Nat) (val : Word)
  /-- The fetch meets a missing page (R82, R159). -/
  | fault (level base : Nat) (va : Word)
deriving DecidableEq, Repr

/-- One halfword of the instruction stream: its bytes, or why the fetch stops. R83 orders no fetch with stores: what a launch has written into its
own code the model's fetch finds as soon as the store has been performed (log entry 66, DESIGN CHOICE: a part may fetch an older copy until the
launch has completed). -/
def State.fetchHalf (s : State) (pc : Word) : Except Fetched (List Byte) :=
  if !s.apertureOk s.who pc 2 then .error (.trap 0x06 pc)
  else
    match s.locate s.who .fetch pc 2 with
    | .deny => .error (.trap 0x07 pc)
    | .fault l b v => .error (.fault l b v)
    | .ok cs =>
      match s.poisoned cs with
      | some _ => .error (.trap 0x12 pc)
      | none => .ok (s.peekAll cs)

/-- The instruction at the program counter of the issuing stream (R82). -/
def State.fetch (s : State) : Fetched :=
  match s.fetchHalf s.cur.pc with
  | .error f => f
  | .ok lo =>
    if bytesNat lo % 2 = 0 then
      match decode lo with
      | .ok i _ => .instr i
      | .reject _ => .reject (.ofNat 32 (bytesNat lo))
    else
      match s.fetchHalf (s.cur.pc + 2) with
      | .error f => f
      | .ok hi =>
        match decode (lo ++ hi) with
        | .ok i _ => .instr i
        | .reject _ => .reject (.ofNat 32 (bytesNat (lo ++ hi)))

end Sys2Proof.Machine
end

