-- ==== Sys2Proof/Machine/Access.lean ====
section
/-! DEFINITION. Accesses as instructions make them: what atomics and stores do where they are performed, and stores at issue
(spec/10_memory_instructions.md R190, R198, R363; spec/14_ordering.md R261 to R270). -/

namespace Sys2Proof.Machine

/-! ### Atomics (R198) -/

/-- The value that an atomic writes: none when a cas fails. -/
def atomicResult (op : AtomicOp) (n m v c : Nat) : Option Nat :=
  let w := 8 * n
  match op with
  | .add => some ((m + v) % 2 ^ w)
  | .radd => some ((m + v) % 2 ^ w)
  | .band => some (m &&& v)
  | .bor => some (m ||| v)
  | .bxor => some (m ^^^ v)
  | .smin => some (if patInt m w ≤ patInt v w then m else v)
  | .smax => some (if patInt v w ≤ patInt m w then m else v)
  | .swp => some v
  | .cas => if m = c then some v else none

/-- What performing an access answers, besides the machine it leaves. -/
inductive Served where
  | ok (s : State) (old : Word)
  | refused (cause : Nat)
  | fault (level base : Nat) (va : Word)

/-- Performs an atomic at its executor in one step (R198). -/
def State.doAtomic (s : State) (w : Who) (op : AtomicOp) (n : Nat) (addr v c : Word) : Served :=
  match s.locate w .atomic addr n with
  | .deny => .refused 0x07
  | .fault l b va => .fault l b va
  | .ok cs =>
    match s.poisoned cs with
    | some _ => .refused 0x12
    | none =>
      let m := bytesNat (s.peekAll cs)
      let s1 := s.touch w.ctx true cs
      let s2 := match atomicResult op n m (v.toNat % 2 ^ (8 * n)) (c.toNat % 2 ^ (8 * n)) with
        | some r => s1.pokeAll cs (natBytes r n)
        | none => s1
      .ok s2 (w64 (patInt m (8 * n)))

/-- Performs a store or an atomic without return (R190, R198): all of its bytes or none (R157, R363). -/
def State.doRequest (s : State) (k : Core) (r : Request) : Served :=
  match r.kind with
  | .atomic op n v c => s.doAtomic (r.who k) op n r.addr v c
  | .store data =>
    match s.writeBytes (r.who k) .store r.addr data with
    | .ok s1 _ => .ok s1 0
    | .deny => .refused 0x07
    | .fault l b va => .fault l b va
    | .poison _ => .refused 0x12

/-- A try at a word, or an access, whose outcome a peer device decides: the next one is decided anew (R195, R341, R354; log entry 5). -/
def State.tried (s : State) : State := { s with free := s.free + 1 }

/-- An access of an instruction is refused at its issue. -/
def State.denyAt (s : State) (addr : Word) : Res := if s.quiet then .after s.tried 0x07 addr else .trap 0x07 addr

/-! ### Stores at issue (R190, R267) -/

/-- One more store without return may issue, of `n` elements (R267). -/
def State.storeRoom (s : State) (n : Nat) : Bool := decide (s.unack s.core + n ≤ Config.unackMax)

/-- The request of a store or atomic without return that issues now. -/
def State.request (s : State) (addr : Word) (kind : ReqKind) (sc : Nat) : Request :=
  let w := s.who
  { id := s.core.nextId, stream := s.core.sel, ctx := w.ctx, queue := w.queue, seq := w.seq, kind := kind, addr := addr,
    mode := s.cur.mode, loc := s.locationScope w addr, sc := sc, born := s.dev.cycle.toNat, promoted := false,
    netPromoted := false, served := false, parked := false, ordinal := s.cur.ordinal, past := false,
    since := (s.core.task.map (fun t => t.since)).getD 0, noReplay := s.noReplay }

/-- A store of the issuing stream: to its own scratchpad it is done and acknowledged at once; any other becomes a request that is
served and acknowledged later (R187, R267). -/
def State.issueStore (s : State) (addr : Word) (kind : ReqKind) (sc : Nat) : Res :=
  let w := s.who
  let id := s.core.nextId
  let s1 := s.updCur (fun st => { st with ordinal := st.ordinal + 1 })
  let later := Res.done { s1 with core := { s1.core with pending := s1.core.pending ++ [s.request addr kind sc], nextId := id + 1 } }
  match kind with
  | .atomic _ _ _ _ => if s.storeRoom 1 then later else .wait .unit
  | .store data =>
    match s.ownSpad w .store addr data.length with
    | none => if s.storeRoom 1 then later else .wait .unit
    | some cs =>
      if s.orderBlocked s.core s.core.sel id s.cur.mode .writes (cs.map Chunk.span, chunksOrd cs) then .wait .depend
      else .done (s1.pokeAll cs data)

/-- Counts an access of the issuing stream (R345). -/
def State.countAccess (s : State) : State := s.updCur (fun st => { st with ordinal := st.ordinal + 1 })

end Sys2Proof.Machine
end

