-- ==== Sys2Proof/Machine/Ephemeris.lean ====
section
/-! DEFINITION. The order log of a context (spec/24_retirement.md R344 to R346): what an executor appends in record mode and obeys in replay. -/

namespace Sys2Proof.Machine

/-- A request as an executor sees it: who issued it, its stream, the logical id or block id of its task, its ordinal. -/
structure Served0 where
  who  : Who
  st   : StreamId
  lid  : Nat
  ord  : Nat

/-- The kinds of an entry (R345). -/
inductive LogKind where
  | engine | home | fullEmpty
deriving DecidableEq, Repr

def LogKind.code : LogKind → Nat
  | .engine => 1
  | .home => 2
  | .fullEmpty => 3

/-- The locations at which a chunk is served (R345): virtual line addresses, or scratchpad words in team-aperture form. -/
def State.chunkPlaces (s : State) (addr : Word) (c : Chunk) : List Word :=
  match c with
  | .spad pid off len =>
    let lid := (((s.coreAt pid).task).map (·.lid)).getD 0
    (List.range ((off + len - 1) / 8 - off / 8 + 1)).map (fun i => .ofNat 64 (0xFFF2000000000000 + lid * 2 ^ 20 + (off / 8 + i) * 8))
  | c =>
    (List.range ((addr.toNat + c.span.len - 1) / 64 - addr.toNat / 64 + 1)).map (fun i => .ofNat 64 ((addr.toNat / 64 + i) * 64))

/-- The locations of an access, each once (R345). -/
def State.logPlaces (s : State) (addr : Word) : List Chunk → List Word
  | [] => []
  | c :: cs =>
    let here := s.chunkPlaces addr c
    here ++ (s.logPlaces (addr + .ofNat 64 c.span.len) cs).filter (fun x => !here.contains x)

/-- The 32 bytes of an entry (R345). -/
def logBytes (k : LogKind) (r : Served0) (place : Word) : List Byte :=
  natBytes k.code 1 ++ natBytes (r.who.queue % 64 + (match r.st with
    | .a => 0
    | .c => 128)) 1 ++ natBytes r.lid 2 ++ natBytes r.who.seq.toNat 4 ++ natBytes place.toNat 8 ++ natBytes r.ord 8
    ++ List.replicate 8 0

/-- The mode that the command latched (R344): 0 off, 1 record, 2 replay. -/
def State.logMode (s : State) (w : Who) : Nat :=
  match s.cmdAt w.ctx w.queue w.seq with
  | some c => c.ordMode
  | none => 0

/-- The accessor of the log: the executor writes and reads it for the context. -/
def logWho (w : Who) : Who := ⟨w.pid, w.ctx, w.queue, w.seq, true, false⟩

/-- The bytes of entry i of the log, none when they cannot be read. -/
def State.logEntry (s : State) (w : Who) (i : Nat) : Option (List Byte) :=
  match s.readBytes (logWho w) .feRead ((s.ctxAt w.ctx).ordBase + .ofNat 64 (32 * i)) 32 with
  | .ok _ bs => some bs
  | _ => none

/-- The next entry of a location that a replay has not consumed (R346). -/
def State.logNext (s : State) (w : Who) (place : Word) : Option (Nat × List Byte) :=
  let c := s.ctxAt w.ctx
  (List.range c.ordSize.toNat).findSome? (fun i =>
    if c.ordUsed.contains i then none
    else
      match s.logEntry w i with
      | some bs => if bytesNat ((bs.drop 8).take 8) = place.toNat ∧ bytesNat (bs.take 1) ≠ 0 then some (i, bs) else none
      | none => none)

/-- An entry names a request at a location. The cluster whose engine served it, or the home slice, is no part of the name: a replay may run on other
clusters (R346). -/
def logNames (bs : List Byte) (k : LogKind) (r : Served0) (place : Word) : Bool :=
  (bytesNat (bs.take 1) == 3) == (k == .fullEmpty) && bs.drop 1 == (logBytes k r place).drop 1

/-- A replay lets the request be served at one location (R346): it is the one that the log lists next there, or the log holds no more of them. -/
def State.logLetsAt (s : State) (k : LogKind) (r : Served0) (place : Word) : Bool :=
  match s.logNext r.who place with
  | some (_, bs) => logNames bs k r place
  | none => true

/-- A replay lets the request be served (R346), at each of its locations, or it has diverged. -/
def State.logLets (s : State) (k : LogKind) (r : Served0) (addr : Word) (cs : List Chunk) : Bool :=
  if s.logMode r.who ≠ 2 ∨ (s.ctxAt r.who.ctx).ordDiverged then true
  else (s.logPlaces addr cs).all (s.logLetsAt k r)

/-- Entries of the log up to one have been read: what a read takes besides, ownership of a host line among it (R274). -/
def State.readEntries (s : State) (w : Who) (n : Nat) : State :=
  (List.range n).foldl (fun s i => match s.readBytes (logWho w) .feRead ((s.ctxAt w.ctx).ordBase + .ofNat 64 (32 * i)) 32 with
    | .ok s1 _ => s1
    | _ => s) s

/-- An executor has served a request at one location whose order is open: recorded, or consumed from the log (R345, R346).
An entry whose bytes cannot be written is counted all the same (log entry 42). -/
def State.logServedAt (s : State) (k : LogKind) (r : Served0) (place : Word) : State :=
  let c := s.ctxAt r.who.ctx
  if s.logMode r.who = 1 then
    if c.ordSize ≤ c.ordHead then s.updCtx r.who.ctx (fun c => { c with ordFull := true })
    else
      let at_ := c.ordBase + .ofNat 64 (32 * c.ordHead.toNat)
      let s1 := match s.writeBytes (logWho r.who) .feWrite at_ (logBytes k r place) with
        | .ok s1 _ => s1
        | _ => s
      s1.updCtx r.who.ctx (fun c =>
        { c with ordHead := c.ordHead + 1, ordFull := c.ordFull || c.ordHead + 1 == c.ordSize })
  else if s.logMode r.who = 2 ∧ !c.ordDiverged then
    match s.logNext r.who place with
    | some (i, _) => (s.readEntries r.who (i + 1)).updCtx r.who.ctx (fun c =>
        { c with ordHead := c.ordHead + 1, ordUsed := insertNat i c.ordUsed })
    | none => s.updCtx r.who.ctx (fun c => { c with ordDiverged := true })
  else s

/-- An executor has served a request whose order is open, at each of its locations (R345): a request of 64 bytes to scratchpad is served at eight words. -/
def State.logServed (s : State) (k : LogKind) (r : Served0) (addr : Word) (cs : List Chunk) : State :=
  if s.logMode r.who = 0 then s else (s.logPlaces addr cs).foldl (fun x place => x.logServedAt k r place) s

/-- A request of a core's task. -/
def Core.served0 (k : Core) (w : Who) (st : StreamId) (ord : Nat) : Served0 := ⟨w, st, (k.task.map (·.lid)).getD 0, ord⟩

/-- A request of the issuing stream that is now its next access. -/
def State.nowServed (s : State) : Served0 := s.core.served0 s.who s.core.sel s.cur.ordinal

end Sys2Proof.Machine
end

