-- ==== Sys2Proof/Machine/Serve.lean ====
section
/-! DEFINITION. Serving stores and atomics at their executors, and how an incomplete instruction or a retired access ends in a trap
(spec/10_memory_instructions.md R198, R199, R363, spec/14_ordering.md R261, R267 to R270, spec/03 and 05 R159, R364). -/

namespace Sys2Proof.Machine

/-! ### Events of one core -/

/-- An event of a core runs with that core selected; the core whose turn it was is then selected again. -/
def State.onCore (s : State) (pid : Nat) (f : State → State) : State := (f (s.select pid)).select s.core.pid

/-- The selected core with one of its streams as the one concerned. -/
def State.onStream (s : State) (x : StreamId) : State := { s with core := { s.core with sel := x } }

/-- An incomplete instruction of a stream changed. -/
def Core.setOp (k : Core) (x : StreamId) (id : Nat) (f : LongOp → LongOp) : Core :=
  k.updStr x (fun st => { st with flight := st.flight.map (fun o => if o.id = id then f o else o) })

/-- An instruction has completed: it leaves the stream's list, and what waited for it may go on (R87). -/
def Core.dropOp (k : Core) (x : StreamId) (id : Nat) : Core :=
  k.updStr x (fun st => { st with flight := st.flight.filter (fun o => o.id != id) })

def State.updThis (s : State) (f : Core → Core) : State := { s with core := f s.core }

/-- A late trap is found (R364); one of a handler's own instruction is a double trap (R312), poison kills its rectangle (R336). -/
def State.opTrap (s : State) (x : StreamId) (op : LongOp) (cause : Nat) (val : Word) : State :=
  if cause = 0x12 then (s.onStream x).consumePoison val op.pc
  else
    let s1 := if cause = 0x07 then s.tried else s
    if op.mode = .sup ∧ (s.core.str x).mode = .sup then s1.doubleTrap
    else s1.updThis (fun k => k.setOp x op.id (fun o => { o with status := .trapped cause val }))

/-- An access of an incomplete instruction meets a missing page of a context: it parks, or traps under NOREPLAY (R159, R160). -/
def State.opFault (s : State) (x : StreamId) (op : LongOp) (ctx pid kind level base : Nat) (va : Word) : State :=
  let s1 := s.recordFault ctx (pid / 8) (pid % 8) x kind level base va
  if s.noReplay then s1.opTrap x op 0x08 va
  else s1.updThis (fun k => k.setOp x op.id (fun o => { o with status := .parked va }))

/-- A retired access is refused (R363): the trap is kept for the stream's next user-mode instruction, so that one of user code found while a
handler runs waits for its TRET (log entry 63, DESIGN CHOICE); an access that a handler made is a double trap (R312). -/
def State.refuse (s : State) (sup : Bool) (cause : Nat) (addr : Word) : State :=
  if cause = 0x12 then s.consumePoison addr s.cur.pc
  else if sup && s.core.handler.isSome then (if cause = 0x07 then s.tried else s).doubleTrap
  else if s.core.task.isSome then (if cause = 0x07 then s.tried else s).updThis (fun k => { k with deferred := k.deferred ++ [⟨cause, addr⟩] })
  else s

/-! ### Requests -/

/-- A waiting store or atomic, whatever list of its core holds it. -/
structure Ask where
  ref      : ReqRef
  id       : Nat
  pid      : Nat
  st       : StreamId
  who      : Who
  addr     : Word
  kind     : ReqKind
  sc       : Nat
  born     : Nat
  promoted : Bool
  ordinal  : Nat
  /-- It is neither served nor parked, and may go on. -/
  ready    : Bool
  /-- The task that issued it still runs on the core. -/
  mine     : Bool
  /-- The kernel of that task has NOREPLAY set (R159, R363). -/
  noReplay : Bool

def ReqKind.isAtomic : ReqKind → Bool
  | .atomic .. => true
  | _ => false

def ReqKind.len : ReqKind → Nat
  | .store data => data.length
  | .atomic _ n _ _ => n

/-- An access without return of a core. -/
def Core.askOf (k : Core) (r : Request) (i : Nat) : Ask :=
  { ref := .pending i, id := r.id, pid := k.pid, st := r.stream, who := r.who k, addr := r.addr, kind := r.kind, sc := r.sc, born := r.born,
    promoted := r.promoted, ordinal := r.ordinal, ready := !r.served && !r.parked, mine := r.ofTask k, noReplay := r.noReplay }

/-- An atomic with return of the A-stream. -/
def Core.askOfOp (k : Core) (op : LongOp) (i : Nat) : Option Ask :=
  match op.work with
  | .atomic _ o n sc addr v c =>
    some { ref := .op i, id := op.id, pid := k.pid, st := .a, who := k.opWho op, addr := addr, kind := .atomic o n v c, sc := sc,
           born := op.born, promoted := op.promoted, ordinal := op.ordinal, ready := k.moves op, mine := true,
           noReplay := (k.task.map (fun t => t.kernel.noReplay)).getD false }
  | _ => none

/-- Everything that a core has waiting. -/
def Core.asks (k : Core) : List Ask :=
  k.pending.zipIdx.map (fun x => k.askOf x.1 x.2) ++ k.a.flight.zipIdx.filterMap (fun x => k.askOfOp x.1 x.2)

/-- The request that an event names. -/
def State.ask (s : State) (pid : Nat) (ref : ReqRef) : Option Ask := (s.coreAt pid).asks.find? (fun a => a.ref == ref)

def Ask.acc (a : Ask) : Acc := if a.kind.isAtomic then .atomic else .store

/-- Where the request lands now. -/
def State.askAt (s : State) (a : Ask) : Locate := s.locate a.who a.acc a.addr a.kind.len

/-- The executor of a request (R199, R261): a home slice by its number (R151), or the atomic engine of a cluster. -/
inductive Executor where
  | home (slice : Nat)
  | engine (cluster : Nat)
  /-- The core that holds a scratchpad or window takes an ordinary store as it arrives; a peer device serves its own. -/
  | direct
deriving DecidableEq, Repr

/-- The executor that the table of R199 gives. -/
def executor (pid sc : Nat) (kind : ReqKind) (cs : List Chunk) : Executor :=
  match cs with
  | .phys _ pa _ _ _ _ _ :: _ =>
    match kind with
    | .atomic .radd _ _ _ => .home (homeSlice pa)
    | .atomic _ _ _ _ => if sc ≤ 1 then .engine (pid / 8) else .home (homeSlice pa)
    | .store _ => .home (homeSlice pa)
  | .spad p _ _ :: _ => if kind.isAtomic then .engine (p / 8) else .direct
  | _ => .direct

/-- The line or word at which requests meet (R269). -/
def placeOf (cs : List Chunk) : Nat × Nat :=
  match cs with
  | .phys hm pa _ _ _ _ _ :: _ => (if hm then 1 else 0, pa / 64)
  | .spad pid off _ :: _ => (2 + pid, off / 8)
  | .win pid off _ :: _ => (2 + pid, off / 8)
  | .peer d off _ :: _ => (4096 + d, off / 8)
  | [] => (8192, 0)

/-- The executor of a request now (R199, R261): a line that the engine of the issuing core's cluster holds takes that cluster's stores there. -/
def State.executorNow (s : State) (pid sc : Nat) (kind : ReqKind) (cs : List Chunk) : Executor :=
  match executor pid sc kind cs with
  | .home n => if !kind.isAtomic && (s.clusterAt (pid / 8)).hot.contains (placeOf cs) then .engine (pid / 8) else .home n
  | e => e

/-- The kind of entry that serving at an executor logs (R345). -/
def Executor.log : Executor → Option LogKind
  | .home _ => some .home
  | .engine _ => some .engine
  | .direct => none

/-- An older access of the same stream must be performed first (R187, R265, R269). -/
def State.askBlocked (s : State) (a : Ask) : Bool :=
  s.orderBlocked (s.coreAt a.pid) a.st a.id (if a.who.sup then .sup else .user) (if a.kind.isAtomic then .both else .writes) (s.spans a.who a.addr a.kind.len)

/-- A replay holds the request back until its turn (R346). -/
def State.askHeld (s : State) (a : Ask) (cs : List Chunk) : Bool :=
  match (s.executorNow a.pid a.sc a.kind cs).log with
  | some k => !s.logLets k ((s.coreAt a.pid).served0 a.who a.st a.ordinal) a.addr cs
  | none => false

/-- The core that an engine served last at a place (R269). -/
def Cluster.lastAt (c : Cluster) (place : Nat × Nat) : Option Nat := (c.lastCidx.find? (fun x => x.1 == place)).map (·.2)

/-- An engine has served a core at a place. -/
def Cluster.served (c : Cluster) (place : Nat × Nat) (cidx : Nat) : Cluster :=
  { c with lastCidx := (place, cidx) :: c.lastCidx.filter (fun x => x.1 != place) }

/-- A core's place in an engine's order (R269): promoted requests by arrival, the others by rotation from the core after the one served last;
where none has been served yet, in any order. -/
def rankOf (promoted : Bool) (born pid : Nat) (last : Option Nat) : Nat :=
  if promoted then born * 4096 + pid
  else
    match last with
    | some n => 2 ^ 128 + (pid % 8 + 15 - n) % 8 * 4096 + pid
    | none => 2 ^ 128

def Ask.rank (a : Ask) (last : Option Nat) : Nat := rankOf a.promoted a.born a.pid last

/-- The requests that wait at an executor for one place and may be served (R269). -/
def State.atExecutor (s : State) (e : Executor) (place : Nat × Nat) : List Ask :=
  (s.allCores.flatMap Core.asks).filter (fun a => a.ready && !s.askBlocked a && (match s.askAt a with
    | .ok cs => s.executorNow a.pid a.sc a.kind cs == e && placeOf cs == place && !s.askHeld a cs
    | _ => false))

/-! ### Arrivals at a barrier word (R269, R278, R279) -/

/-- A barrier word from its fields (R278). -/
def barWord (gen pend bytes : Nat) : Nat := gen % 2 ^ 32 + pend % 2 ^ 16 * 2 ^ 32 + bytes % 2 ^ 16 * 2 ^ 48

def barGen (w : Nat) : Nat := bitField w 0 32
def barPend (w : Nat) : Nat := bitField w 32 16
def barBytes (w : Nat) : Nat := bitField w 48 16

/-- The ranks of the barrier arrivals of A-streams other than that of core `self` that wait at an engine for a word and could be served (R269,
R279): one that has waited 64 cycles is promoted. -/
def State.barRanks (s : State) (e : Executor) (place : Nat × Nat) (last : Option Nat) (self : Option Nat) : List Nat :=
  s.allCores.filterMap (fun k =>
    match k.a.asking with
    | none => none
    | some addr =>
      let w := k.who (k.a.mode == .sup)
      match s.locate w .atomic addr 8 with
      | .ok cs =>
        if self != some k.pid && k.a.wait == some .barrier && executor k.pid 0 (.atomic .add 8 0 0) cs == e && placeOf cs == place
            && barPend (bytesNat (s.peekAll cs)) != 0xFFFF && s.logLets .engine (k.served0 w .a k.a.ordinal) addr cs
            && !s.orderBlocked k .a k.nextId k.a.mode .both (s.spans w addr 8) then
          some (rankOf (decide (Config.promoteCycles ≤ s.dev.cycle.toNat - k.a.waitFrom)) k.a.waitFrom k.pid last)
        else none
      | _ => none)

/-- A request's turn has come at an executor (R269): by rotation at an engine, where barrier arrivals wait too; at a home slice requests are served
as they arrive, but for promoted ones, which go ahead of those that arrived after them. `self` is the core whose own barrier arrival it is. -/
def State.turnFor (s : State) (e : Executor) (place : Nat × Nat) (pid born : Nat) (promoted : Bool) (self : Option Nat := none) : Bool :=
  match e with
  | .engine c =>
    let last := (s.clusterAt c).lastAt place
    let mine := rankOf promoted born pid last
    (s.atExecutor e place).all (fun b => decide (mine ≤ b.rank last)) && (s.barRanks e place last self).all (fun r => decide (mine ≤ r))
  | .home _ => (s.atExecutor e place).all (fun b => !b.promoted || decide (rankOf promoted born pid none ≤ b.rank none))
  | .direct => true

/-- An engine has served a core at a place (R269). -/
def State.servedAt (s : State) (e : Executor) (place : Nat × Nat) (pid : Nat) : State :=
  match e with
  | .engine c => s.updCluster c (fun x => x.served place (pid % 8))
  | _ => s

/-- It is the request's turn at its executor, and a replay lets it. -/
def State.turnOf (s : State) (a : Ask) (cs : List Chunk) : Bool :=
  !s.askHeld a cs && s.turnFor (s.executorNow a.pid a.sc a.kind cs) (placeOf cs) a.pid a.born a.promoted

/-! ### Serving (R198, R261, R363) -/

/-- The request has been performed: a store or atomic without return is served, an atomic with return delivers and completes. `loc` is its location
scope as it was performed (R264). -/
def Core.askDone (k : Core) (a : Ask) (old : Word) (loc : Nat) : Core :=
  match a.ref with
  | .pending i => { k with pending := modifyAt (fun r => { r with served := true, loc := loc }) i k.pending }
  | .op i =>
    match k.a.flight[i]? with
    | some op =>
      match op.work with
      | .atomic d .. => { k with a := k.a.setG d old }.dropOp .a op.id
      | _ => k
    | none => k

/-- A refusal of a request whose task is over: only poison still concerns its rectangle (R320, R336, R363). -/
def State.refuseDead (s : State) (cause : Nat) : State :=
  if cause = 0x12 then
    match s.rectOf s.core.cluster with
    | some n => s.killRect n 0x12 none
    | none => s
  else if cause = 0x07 then s.tried
  else s

/-- The request is refused (R198, R363, R364): the trap is that of the task that issued it. -/
def State.askRefused (s : State) (a : Ask) (cause : Nat) : State :=
  match a.ref with
  | .pending i =>
    let s1 := (s.updThis (fun k => { k with pending := dropAt i k.pending })).onStream a.st
    if a.mine then s1.refuse a.who.sup cause a.addr else s1.refuseDead cause
  | .op i =>
    match s.core.a.flight[i]? with
    | some op => s.opTrap .a op cause a.addr
    | none => s

/-- The request meets a missing page (R159, R363). -/
def State.askFault (s : State) (a : Ask) (level base : Nat) (va : Word) : State :=
  match a.ref with
  | .pending i =>
    let s1 := s.recordFault a.who.ctx s.core.cluster s.core.cidx a.st a.acc.kindCode level base va
    if a.noReplay then s1.askRefused a 0x08
    else s1.updThis (fun k => { k with pending := modifyAt (fun r => { r with parked := true }) i k.pending })
  | .op i =>
    match s.core.a.flight[i]? with
    | some op => s.opFault .a op a.who.ctx s.core.pid a.acc.kindCode level base va
    | none => s

/-- An engine that has performed an atomic on a memory line holds the line exclusively, at most 64 of them (R11, R199): the one used longest ago
gives way (log entry 64). -/
def Cluster.hold (c : Cluster) (cs : List Chunk) : Cluster :=
  match cs with
  | .phys .. :: _ => { c with hot := (placeOf cs :: c.hot.filter (fun x => x != placeOf cs)).take Config.hotLines }
  | _ => c

/-- Performs a request of the selected core at its executor: all of its bytes or none (R157, R198). -/
def State.perform (s : State) (a : Ask) (cs : List Chunk) : State :=
  let how := match a.kind with
    | .atomic op n v c => s.doAtomic a.who op n a.addr v c
    | .store data => Served.ok ((s.touch a.who.ctx false cs).pokeAll cs data) 0
  match how with
  | .ok s1 old =>
    let e := s.executorNow a.pid a.sc a.kind cs
    let s2 := match e.log with
      | some k => s1.logServed k (s.core.served0 a.who a.st a.ordinal) a.addr cs
      | none => s1
    let s3 := match e with
      | .engine c => (s2.servedAt e (placeOf cs) a.pid).updCluster c (fun x => x.hold cs)
      | _ => s2
    let loc := match a.ref with
      | .pending i => ((s.core.pending[i]?).map (s.scopeNow s.core)).getD 0
      | .op _ => 0
    s3.updThis (fun k => k.askDone a old loc)
  | .refused c => s.askRefused a c
  | .fault l b va => s.askFault a l b va

/-- The request that an engine serves next at a place (R269). -/
def State.firstAt (s : State) (cluster : Nat) (place : Nat × Nat) : Option Ask :=
  let last := (s.clusterAt cluster).lastAt place
  let asks := s.atExecutor (.engine cluster) place
  asks.find? (fun a => asks.all (fun b => decide (a.rank last ≤ b.rank last)))

/-- An engine performs the requests that wait there on a line, in its order (R199). -/
def State.drainLine (s : State) (cluster : Nat) (place : Nat × Nat) : Nat → State
  | 0 => s
  | n + 1 =>
    match s.firstAt cluster place with
    | none => s
    | some a =>
      match s.askAt a with
      | .ok cs => (s.onCore a.pid (fun s1 => s1.perform a cs)).drainLine cluster place n
      | _ => s

/-- An engine gives up a line once what waits there is done (R199): the model takes every request that the engine could serve as pending there
(log entry 64, DESIGN CHOICE). -/
def State.giveUp (s : State) (cluster : Nat) (place : Nat × Nat) : State :=
  (s.drainLine cluster place (s.atExecutor (.engine cluster) place).length).updCluster cluster
    (fun x => { x with hot := x.hot.filter (fun y => y != place) })

/-- The memory lines that an access meets. -/
def Chunk.lines : Chunk → List (Nat × Nat)
  | .phys hm pa len _ _ _ _ => (List.range ((pa + len - 1) / 64 - pa / 64 + 1)).map (fun i => (if hm then 1 else 0, pa / 64 + i))
  | _ => []

/-- An access from outside a cluster recalls the lines that the cluster's engine holds (R199); `by_` is the cluster whose own hold stands. -/
def State.recall (s : State) (by_ : Option Nat) (cs : List Chunk) : State :=
  let held := s.clusters.flatMap (fun c =>
    if by_ = some c.id ∨ c.hot = [] then [] else (c.hot.filter (fun x => cs.any (fun y => y.lines.contains x))).map (fun x => (c.id, x)))
  held.foldl (fun s x => s.giveUp x.1 x.2) s

/-- The same for an access of the device that is still to be located. -/
def State.recallAt (s : State) (by_ : Option Nat) (w : Who) (acc : Acc) (addr : Word) (n : Nat) : State :=
  match s.locate w acc addr n with
  | .ok cs => s.recall by_ cs
  | _ => s

/-- The cluster whose engine keeps its hold while a request is served: the one that executes it, and for an ordinary store that of its core. -/
def keeper (pid : Nat) (kind : ReqKind) (e : Executor) : Option Nat :=
  match e with
  | .engine c => some c
  | _ => if kind.isAtomic then none else some (pid / 8)

/-- An executor takes the request, if it is one of the executors that `here` admits and the request's turn has come: held lines are recalled first. -/
def State.serve (s : State) (a : Ask) (here : Executor → Bool) : State :=
  if !a.ready || s.askBlocked a then s
  else
    match s.askAt a with
    | .ok cs =>
      let e := s.executorNow a.pid a.sc a.kind cs
      if here e && s.turnOf a cs then
        let s1 := s.recall (keeper a.pid a.kind e) cs
        match s1.core.asks.find? (fun b => b.id == a.id && b.ready) with
        | some b => s1.perform b cs
        | none => s1
      else s
    | .deny => s.askRefused a 0x07
    | .fault l b va => s.askFault a l b va

/-- An event about a request: nothing happens when the core has no such request. -/
def State.onAsk (s : State) (pid : Nat) (ref : ReqRef) (f : Ask → State → State) : State :=
  s.onCore pid fun s1 =>
    match s1.ask pid ref with
    | some a => (f a s1).settleEnd
    | none => s1

/-- A served request of the selected core is acknowledged (R267). -/
def State.ackId (s : State) (id : Nat) : State :=
  s.updThis (fun k => { k with pending := k.pending.filter (fun r => !(r.id == id && r.served)) })

/-! ### The events of stores and atomics -/

/-- HOME_SLICE_SERVE (R269, R270): a home slice, or the core that holds a scratchpad, takes the next request of a place. -/
def execHomeSliceServe (pid : Nat) (req : ReqRef) (s : State) : Out :=
  .next (s.onAsk pid req (fun a s1 => s1.serve a (fun e => match e with
    | .engine _ => false
    | _ => true)))

/-- CLUSTER_ATOMIC_SERVE (R269). -/
def execClusterAtomicServe (pid : Nat) (req : ReqRef) (s : State) : Out :=
  .next (s.onAsk pid req (fun a s1 => s1.serve a (fun e => match e with
    | .engine _ => true
    | _ => false)))

/-- A request is marked as promoted. -/
def Core.promote (k : Core) (a : Ask) (net : Bool) : Core :=
  match a.ref with
  | .pending i => { k with pending := modifyAt (fun r =>
      if net then { r with netPromoted := true } else { r with promoted := true }) i k.pending }
  | .op _ => k.setOp .a a.id (fun o => if net then { o with netPromoted := true } else { o with promoted := true })

/-- Cycles since a request was made. -/
def State.age (s : State) (a : Ask) : Nat := s.dev.cycle.toNat - a.born

/-- ATOMIC_PROMOTE (R269): after 64 cycles at a cluster engine; a request held back at a home slice has no fixed age. -/
def execAtomicPromote (pid : Nat) (req : ReqRef) (s : State) : Out :=
  .next (s.onAsk pid req (fun a s1 =>
    match s1.askAt a with
    | .ok cs =>
      match executor a.pid a.sc a.kind cs with
      | .engine _ => if a.ready && decide (Config.promoteCycles ≤ s1.age a) then s1.updThis (fun k => k.promote a false) else s1
      | _ => if a.ready then s1.updThis (fun k => k.promote a false) else s1
    | _ => s1))

/-- NET_PACKET_PROMOTE (R357): a packet older than NET.AGE goes ahead of others in the network; no access's effect depends on it. -/
def execNetPacketPromote (pid : Nat) (req : ReqRef) (s : State) : Out :=
  .next (s.onAsk pid req (fun a s1 =>
    if a.ready && decide (s1.dev.netAge.toNat ≤ s1.age a) then s1.updThis (fun k => k.promote a true) else s1))

/-- STORE_ACK (R267): the executor's acknowledgement; a plain store that no one has served yet is performed first. -/
def execStoreAck (pid idx : Nat) (s : State) : Out :=
  .next (s.onAsk pid (.pending idx) (fun a s1 =>
    (s1.serve a (fun _ => !a.kind.isAtomic)).ackId a.id))

/-- STORE_REFUSAL (R363, R341): the refusal of an access that has retired. -/
def execStoreRefusal (pid idx : Nat) (s : State) : Out :=
  .next (s.onAsk pid (.pending idx) (fun a s1 =>
    match s1.askAt a with
    | .deny => if a.ready && !s1.askBlocked a then s1.askRefused a 0x07 else s1
    | _ => s1))

end Sys2Proof.Machine
end

