-- ==== Sys2Proof/Machine/MemInstr.lean ====
section
/-! DEFINITION. Loads, stores, queue and element forms, synchronising accesses and atomics, as they issue
(spec/10_memory_instructions.md R186 to R199, R363). -/

namespace Sys2Proof.Machine

/-- An A-stream instruction that uses memory. -/
def memForm (i : Instr) (u : MemUse) (uses : List Reg) : Form := { instr := i, streams := .aOnly, uses := uses, mem := u }

/-! ### Scalar loads and stores (R189, R190) -/

/-- Bytes of an access size field (R111). -/
def sizeOf2 (sz : BitVec 2) : Nat := 2 ^ sz.toNat

def scalarLoad (i : Instr) (sext : Bool) (d a : BitVec 5) (off : BitVec 9) (sz : BitVec 2) (la : BitVec 4) (s : State) : Out :=
  issue (memForm i .load (gRegs d ++ gRegs a)) s fun s1 =>
    let n := sizeOf2 sz
    let addr := offsetBy (s1.g a) off.toInt n
    match s1.checkAddr s1.who addr n n with
    | some (c, v) => .trap c v
    | none => .done (s1.countAccess.launchOp i s.cur.pc la.toNat (gRegs d) (.load d.toNat addr n sext))

/-- ld (R189). -/
def execLd (d a : BitVec 5) (off : BitVec 9) (sz : BitVec 2) (la : BitVec 4) (s : State) : Out :=
  scalarLoad (.ld d a off sz la) true d a off sz la s

/-- ldz (R189). -/
def execLdz (d a : BitVec 5) (off : BitVec 9) (sz : BitVec 2) (la : BitVec 4) (s : State) : Out :=
  scalarLoad (.ldz d a off sz la) false d a off sz la s

/-- st (R190): rs1 is `a`, the data register `b`. -/
def execSt (a b : BitVec 5) (off : BitVec 13) (sz : BitVec 2) (s : State) : Out :=
  issue (memForm (.st a b off sz) .store (gRegs a ++ gRegs b)) s fun s1 =>
    let n := sizeOf2 sz
    let addr := offsetBy (s1.g a) off.toInt n
    match s1.checkAddr s1.who addr n n with
    | some (c, v) => .trap c v
    | none => s1.issueStore addr (.store (natBytes (s1.g b).toNat n)) 0

/-! ### Queue loads and stores (R191) -/

/-- The queue field as a number. -/
def queueNo (q : BitVec 3) : Nat := q.toNat

/-- q3 in an update task (R76). -/
def State.q3Closed (s : State) (q : BitVec 3) : Bool := s.isUpdate && q == 3

/-- ldq (R191). -/
def execLdq (q : BitVec 3) (a : BitVec 5) (off : BitVec 9) (tag la : BitVec 4) (s : State) : Out :=
  let i : Instr := .ldq q a off tag la
  issue { memForm i .load (gRegs a) with illegal := s.q3Closed q } s fun s1 =>
    let addr := offsetBy (s1.g a) off.toInt 64
    if !s1.hasRoom (queueNo q) then .wait (.push (queueNo q))
    else
      match s1.checkAddr s1.who addr 64 64 with
      | some (c, v) => .trap c v
      | none =>
        .done ((s1.countAccess.pushQ (queueNo q) false 0 (s1.loadFmt tag)).launchOp i s.cur.pc la.toNat []
          (.loadq s1.core.nextId addr))

/-- Stores that the instruction issued last has to make and that an executor acknowledges later (R267). -/
def State.lastStores (s : State) : Nat := ((s.cur.flight.getLast?).map (s.storesLeft s.core)).getD 0

/-- stq (R191): with an entry that is not yet filled it has issued and waits for the data (R92). -/
def execStq (q : BitVec 3) (a : BitVec 5) (off : BitVec 9) (s : State) : Out :=
  issue (memForm (.stq q a off) .store (gRegs a)) s fun s1 =>
    match s1.popQ (queueNo q) with
    | none => .wait (.pop (queueNo q) 1)
    | some (s2, e) =>
      let addr := offsetBy (s1.g a) off.toInt 64
      match s1.checkAddr s1.who addr 64 64 with
      | some (c, v) => .trap c v
      | none =>
        if e.filled then s2.issueStore addr (.store (natBytes e.bits.toNat 64)) 0
        else
          let t := s2.countAccess.launchOp (.stq q a off) s.cur.pc 0 [] (.storeq e addr)
          if s2.storeRoom t.lastStores then .done t else .wait .unit

/-! ### Element forms (R192 to R194) -/

/-- Bytes of an element size field (R114). -/
def elemSize (esz : BitVec 3) : Nat := 2 ^ esz.toNat

/-- An issuing check's outcome: the plan of an element form, a trap, or a wait for its tile. -/
inductive Planned where
  | ok (s : State) (p : ElemPlan)
  | trap (cause : Nat) (val : Word)
  | wait (w : Wait)

/-- The plan of a strided form from gs1 and gs2 (R192, R193); a mode other than the tile's is counted (R147). With TILED
a gs1 that is no kind-3 address traps with cause 0x06 and that address (log entry 92, DESIGN CHOICE). -/
def State.planStrided (s : State) (i : Instr) (base sel : Word) : Planned :=
  let word := (encode i).zeroExtend 64
  let stride := patInt sel.toNat 32
  let mode := bitField sel.toNat 32 2
  let tid := bitField sel.toNat 34 6
  if bitField sel.toNat 41 23 ≠ 0 ∨ mode = 3 then .trap 0x01 word
  else if sel.getLsbD 40 then
    if (aperture base).kind ≠ 3 then .trap 0x06 base
    else
      let e := s.core.getEntry tid
      match e.state with
      | .empty => .trap 0x0B (.ofNat 64 tid)
      | .ready =>
        let s1 := if mode = e.layout then s else s.updSys (fun r => { r with cntLayout := r.cntLayout + 1 })
        .ok s1 (.tiled (((aperture base).off : Int) - e.base) stride e.base e.pitch e.rows mode)
      | _ => .wait (.tile tid)
  else .ok s (.strided base stride)

/-- The plan of an indexed form: the list is aligned to 4 bytes (R192). -/
def State.planIndexed (s : State) (base list : Word) : Planned :=
  match s.checkAddr s.who list 4 4 with
  | some (c, v) => .trap c v
  | none => .ok s (.indexed base list)

/-- An element load: reserves its entry, then goes on element by element (R192, R194). -/
def elemLoad (i : Instr) (q : BitVec 3) (a b : BitVec 5) (tag : BitVec 4) (esz : BitVec 3) (la : BitVec 4)
    (plan : State → Planned) (s : State) : Out :=
  issue { memForm i .load (gRegs a ++ gRegs b) with illegal := s.q3Closed q } s fun s1 =>
    if !s1.hasRoom (queueNo q) then .wait (.push (queueNo q))
    else
      s1.partRoom s.cur.wait <|
      match plan s1 with
      | .trap c v => .trap c v
      | .wait w => .wait w
      | .ok s2 p =>
        .done ((s2.countAccess.pushQ (queueNo q) false 0 (s1.loadFmt tag)).launchOp i s.cur.pc la.toNat []
          (.ldElems s1.core.nextId p (elemSize esz) 0) (part := true))

/-- An element store: pops its entry, then goes on element by element once the entry's data is there (R92, R192, R194). -/
def elemStore (i : Instr) (q : BitVec 3) (a b : BitVec 5) (esz : BitVec 3) (plan : State → Planned) (s : State) : Out :=
  issue (memForm i .store (gRegs a ++ gRegs b)) s fun s1 =>
    match s1.popQ (queueNo q) with
    | none => .wait (.pop (queueNo q) 1)
    | some (s2, e) =>
      s1.partRoom s.cur.wait <|
        match plan s2 with
        | .trap c v => .trap c v
        | .wait w => .wait w
        | .ok s3 p =>
          let t := s3.countAccess.launchOp i s.cur.pc 0 [] (.stElems e p (elemSize esz)) (part := true)
          if s3.storeRoom t.lastStores then .done t else .wait .unit

/-- ldqs (R192, R193). -/
def execLdqs (q : BitVec 3) (a b : BitVec 5) (tag : BitVec 4) (esz : BitVec 3) (la : BitVec 4) (s : State) : Out :=
  let i : Instr := .ldqs q a b tag esz la
  elemLoad i q a b tag esz la (fun s => s.planStrided i (s.g a) (s.g b)) s

/-- stqs (R192, R193). -/
def execStqs (q : BitVec 3) (a b : BitVec 5) (esz : BitVec 3) (s : State) : Out :=
  let i : Instr := .stqs q a b esz
  elemStore i q a b esz (fun s => s.planStrided i (s.g a) (s.g b)) s

/-- ldqx (R192). -/
def execLdqx (q : BitVec 3) (a b : BitVec 5) (tag : BitVec 4) (esz : BitVec 3) (la : BitVec 4) (s : State) : Out :=
  elemLoad (.ldqx q a b tag esz la) q a b tag esz la (fun s => s.planIndexed (s.g a) (s.g b)) s

/-- stqx (R192). -/
def execStqx (q : BitVec 3) (a b : BitVec 5) (esz : BitVec 3) (s : State) : Out :=
  elemStore (.stqx q a b esz) q a b esz (fun s => s.planIndexed (s.g a) (s.g b)) s

/-! ### Synchronising accesses (R195) -/

/-- A synchronising access requires a scratchpad target (R188). -/
def State.checkSync (s : State) (addr : Word) (n : Nat) : Option (Nat × Word) :=
  if !s.apertureOk s.who addr n || !scratchTarget addr then some (0x06, addr) else s.checkAddr s.who addr n n

/-- lds (R195). -/
def execLds (d a : BitVec 5) (off : BitVec 9) (la : BitVec 4) (s : State) : Out :=
  let i : Instr := .lds d a off la
  issue (memForm i .store (gRegs d ++ gRegs a)) s fun s1 =>
    let addr := offsetBy (s1.g a) off.toInt 8
    match s1.checkSync addr 8 with
    | some (c, v) => .trap c v
    | none => .done (s1.countAccess.launchOp i s.cur.pc la.toNat (gRegs d) (.lds d.toNat addr))

/-- ldsq (R195): its entry is reserved at issue, withdrawn while its stream stands stopped, and reserved again when it restarts. -/
def execLdsq (q : BitVec 3) (a off : BitVec 5) (tag la : BitVec 4) (s : State) : Out :=
  let i : Instr := .ldsq q a off tag la
  issue { memForm i .store (gRegs a) with illegal := s.q3Closed q } s fun s1 =>
    let addr := offsetBy (s1.g a) off.toInt 64
    if !s1.hasRoom (queueNo q) then .wait (.push (queueNo q))
    else
      match s1.checkSync addr 64 with
      | some (c, v) => .trap c v
      | none =>
        .done ((s1.countAccess.pushQ (queueNo q) false 0 (s1.loadFmt tag)).launchOp i s.cur.pc la.toNat []
          (.ldsq s1.core.nextId (queueNo q) (s1.loadFmt tag) addr))

/-- The scratchpad words of an access: core, first word, words. -/
def spadWords (cs : List Chunk) : Option (Nat × Nat × Nat) :=
  match cs with
  | [.spad pid off len] => some (pid, off / 8, len / 8)
  | _ => none

/-- The full/empty bits of a run of words all read as `b` (R195). -/
def State.bitsAre (s : State) (pid w n : Nat) (b : Bool) : Bool :=
  (List.range n).all (fun i => (s.coreAt pid).isFull (w + i) == b)

/-- The full/empty bits of a run of words set. -/
def State.setBits (s : State) (pid w n : Nat) (b : Bool) : State :=
  s.updCore pid (fun k => (List.range n).foldl (fun k i => k.setFull (w + i) b) k)

/-- A synchronising load may try for its words: its stream has not stopped, and nothing holds it (R195). -/
def Core.mayTry (k : Core) (op : LongOp) : Bool :=
  op.status == .running && !k.freezes op && !(op.mode == .user && (k.handler.isSome || k.a.stopped.isSome))

/-- The words of a synchronising load stand as it needs them, or it ends otherwise. -/
def State.syncReady (s : State) (op : LongOp) : Bool :=
  let ready := fun (a : Word) (n : Nat) => match s.locate (s.core.opWho op) .load a n with
    | .ok cs => (match spadWords cs with
      | some (pid, w, len) => s.bitsAre pid w len true
      | none => true)
    | _ => true
  s.core.mayTry op && (match op.work with
    | .lds _ a => ready a 8
    | .ldsq _ _ _ a => ready a 64
    | _ => false)

/-- A word of a peer device's scratchpad: whether it stands as the access needs it is the peer's to say, anew at each try (R195, R354; log entry 5). -/
def peerChunk (cs : List Chunk) : Bool :=
  match cs with
  | [.peer _ _ _] => true
  | _ => false

/-- A synchronising store acts in one step with its bits, after a release at DOMAIN scope (R195, R271). `before` is the state at its issue,
to which a wait returns. -/
def State.syncStore (s : State) (before : State) (addr : Word) (data : List Byte) : Res :=
  let older := s.orderBlocked s.core s.core.sel s.core.nextId s.cur.mode .both (s.spans s.who addr data.length)
  match s.locate s.who .store addr data.length with
  | .deny => before.denyAt addr
  | .fault l b va => .park 1 l b va
  | .ok cs =>
    if !before.released 5 then .hold before (.release 5)
    else if older then .hold before .depend
    else if peerChunk cs then
      (if Config.peerReady s.free then .done ((s.touch s.who.ctx false cs).pokeAll cs data) else .hold before.tried .fullEmpty)
    else
      match spadWords cs with
      | none => .trap 0x06 addr
      | some (pid, w, n) =>
        if !s.bitsAre pid w n false || !s.logLets .fullEmpty before.nowServed addr cs then .hold before .fullEmpty
        else
          .done ((((s.touch s.who.ctx false cs).pokeAll cs data).setBits pid w n true).logServed .fullEmpty before.nowServed addr cs)

/-- sts (R195). -/
def execSts (a b : BitVec 5) (off : BitVec 9) (s : State) : Out :=
  issue (memForm (.sts a b off) .store (gRegs a ++ gRegs b)) s fun s1 =>
    let addr := offsetBy (s1.g a) off.toInt 8
    match s1.checkSync addr 8 with
    | some (c, v) => .trap c v
    | none => s1.countAccess.syncStore s addr (natBytes (s1.g b).toNat 8)

/-- The entry of a stsq: the one that it popped when it began to wait, else the oldest (R92, R195). -/
def State.takeSync (s : State) (q : Nat) : Option (State × QEntry) :=
  match s.core.a.taken with
  | some (_, e) => some ({ s with core := { s.core with a := { s.core.a with taken := none } } }, e)
  | none => s.popQ q

/-- The stream keeps the entry that it popped while it waits. -/
def State.keepTaken (s : State) (q : Nat) (e : QEntry) : State :=
  match s.core.a.taken with
  | some _ => s
  | none =>
    match s.popQ q with
    | some (s1, _) => { s1 with core := { s1.core with a := { s1.core.a with taken := some (q, e) } } }
    | none => s

/-- stsq (R195): pops its entry at issue, and keeps it while it waits. -/
def execStsq (q : BitVec 3) (a off : BitVec 5) (s : State) : Out :=
  issue (memForm (.stsq q a off) .store (gRegs a)) s fun s1 =>
    match s1.takeSync (queueNo q) with
    | none => .wait (.pop (queueNo q) 1)
    | some (s2, e) =>
      let addr := offsetBy (s1.g a) off.toInt 64
      match s1.checkSync addr 64 with
      | some (c, v) => .trap c v
      | none =>
        if s.dev.poison.contains (.entry s.core.pid e.id) then .trap 0x12 0
        else if e.filled then s2.countAccess.syncStore (s.keepTaken (queueNo q) e) addr (natBytes e.bits.toNat 64)
        else .hold (s.keepTaken (queueNo q) e) .fill

/-! ### Atomics (R198, R199) -/

/-- The checks of an atomic: kinds 2 and 6 only inside the scratchpad window (R188). -/
def State.checkAtomic (s : State) (addr : Word) (n : Nat) : Option (Nat × Word) :=
  let p := aperture addr
  if !s.apertureOk s.who addr n || ((p.kind == 2 || p.kind == 6) && !scratchTarget addr) then some (0x06, addr)
  else s.checkAddr s.who addr n n

/-- An atomic: with return it is long-latency and completes when it is served, without return it retires at once (R198). -/
def atomicOp (i : Instr) (op : AtomicOp) (d a b : BitVec 5) (w rt : BitVec 1) (sc : BitVec 3) (s : State) : Out :=
  issue (memForm i .store (gRegs d ++ gRegs a ++ gRegs b)) s fun s1 =>
    let n := if w = 1 then 8 else 4
    let addr := s1.g a
    match s1.checkAtomic addr n with
    | some (c, v) => .trap c v
    | none =>
      if rt = 1 then
        .done (s1.countAccess.launchOp i s.cur.pc 0 (gRegs d) (.atomic d.toNat op n sc.toNat addr (s1.g b) (s1.g d)))
      else s1.issueStore addr (.atomic op n (s1.g b) (s1.g d)) sc.toNat

/-- add (R198). -/
def execAtomicAdd (d a b : BitVec 5) (w rt : BitVec 1) (sc : BitVec 3) (s : State) : Out :=
  atomicOp (.atomicAdd d a b w rt sc) .add d a b w rt sc s

/-- and (R198). -/
def execAtomicAnd (d a b : BitVec 5) (w rt : BitVec 1) (sc : BitVec 3) (s : State) : Out :=
  atomicOp (.atomicAnd d a b w rt sc) .band d a b w rt sc s

/-- or (R198). -/
def execAtomicOr (d a b : BitVec 5) (w rt : BitVec 1) (sc : BitVec 3) (s : State) : Out :=
  atomicOp (.atomicOr d a b w rt sc) .bor d a b w rt sc s

/-- xor (R198). -/
def execAtomicXor (d a b : BitVec 5) (w rt : BitVec 1) (sc : BitVec 3) (s : State) : Out :=
  atomicOp (.atomicXor d a b w rt sc) .bxor d a b w rt sc s

/-- min (R198). -/
def execAtomicMin (d a b : BitVec 5) (w rt : BitVec 1) (sc : BitVec 3) (s : State) : Out :=
  atomicOp (.atomicMin d a b w rt sc) .smin d a b w rt sc s

/-- max (R198). -/
def execAtomicMax (d a b : BitVec 5) (w rt : BitVec 1) (sc : BitVec 3) (s : State) : Out :=
  atomicOp (.atomicMax d a b w rt sc) .smax d a b w rt sc s

/-- swp (R198). -/
def execAtomicSwp (d a b : BitVec 5) (w rt : BitVec 1) (sc : BitVec 3) (s : State) : Out :=
  atomicOp (.atomicSwp d a b w rt sc) .swp d a b w rt sc s

/-- cas (R198). -/
def execAtomicCas (d a b : BitVec 5) (w rt : BitVec 1) (sc : BitVec 3) (s : State) : Out :=
  atomicOp (.atomicCas d a b w rt sc) .cas d a b w rt sc s

/-- radd (R198, R270). -/
def execRadd (a b : BitVec 5) (w : BitVec 1) (sc : BitVec 3) (s : State) : Out :=
  atomicOp (.radd a b w sc) .radd 0 a b w 0 sc s

end Sys2Proof.Machine
end

