-- ==== Sys2Proof/Machine/TileCopy.lean ====
section
/-! DEFINITION. The tile table and the copy instructions (spec/08_memory.md R146 to R149, spec/10_memory_instructions.md R200 to R202). -/

namespace Sys2Proof.Machine

/-! ### The tile table (R149, R200) -/

def TileEntry.busy (e : TileEntry) : Bool := e.state == .filling || e.state == .draining

/-- The fields of tdef, or none when they break R148 (R200). -/
def tdefEntry (a b : Nat) : Option TileEntry :=
  let base := bitField a 16 19
  let lay := bitField a 2 2
  let rowBytes := bitField b 32 16
  let pitch := bitField b 16 16
  let rows := bitField b 0 16
  if bitField a 35 29 ≠ 0 ∨ bitField a 14 2 ≠ 0 ∨ bitField a 4 4 ≠ 0 ∨ bitField a 0 2 ≠ 0 ∨ bitField b 48 16 ≠ 0 then none
  else if rows = 0 ∨ pitch = 0 ∨ pitch % 8 ≠ 0 ∨ rowBytes = 0 ∨ pitch < rowBytes ∨ base % 64 ≠ 0 ∨ lay = 3 then none
  else if Config.scratchBytes < base + rows * pitch then none
  else some ⟨.ready, lay, 0, 0, base, rows, pitch, rowBytes⟩

/-- tdef (R200): the checks of the fields, then the wait for a busy tile. -/
def execTdef (a b : BitVec 5) (s : State) : Out :=
  issue { instr := .tdef a b, streams := .aOnly, uses := gRegs a ++ gRegs b } s fun s1 =>
    match tdefEntry (s1.g a).toNat (s1.g b).toNat with
    | none => .trap 0x0B (s1.g a)
    | some e =>
      let tid := bitField (s1.g a).toNat 8 6
      if (s1.core.getEntry tid).busy then .wait (.tile tid) else .done { s1 with core := s1.core.setEntry tid e }

/-- The tile id in a g register (R200). -/
def tileId (v : Word) : Nat := v.toNat % 64

/-- tstat (R200). -/
def execTstat (d a : BitVec 5) (s : State) : Out :=
  issue { instr := .tstat d a, streams := .aOnly, uses := gRegs d ++ gRegs a } s fun s1 =>
    .done (s1.setG d (.ofNat 64 (s1.core.getEntry (tileId (s1.g a))).low))

/-- A wait on a tile, and what follows once it is ready (R200). -/
def tileWait (i : Instr) (a : BitVec 5) (after : State → Nat → State) (s : State) : Out :=
  issue { instr := i, streams := .aOnly, uses := gRegs a } s fun s1 =>
    let tid := tileId (s1.g a)
    match (s1.core.getEntry tid).state with
    | .empty => .trap 0x0B (.ofNat 64 tid)
    | .ready => .done (after s1 tid)
    | _ => .wait (.tile tid)

/-- twait (R200). -/
def execTwait (a : BitVec 5) (s : State) : Out := tileWait (.twait a) a (fun s _ => s) s

/-- trel (R149, R200). -/
def execTrel (a : BitVec 5) (s : State) : Out :=
  tileWait (.trel a) a (fun s tid =>
    { s with core := s.core.setEntry tid { s.core.getEntry tid with state := .empty } }) s

/-! ### Copies (R201, R202) -/

/-- cpset (R202). -/
def execCpset (a : BitVec 5) (k : BitVec 3) (s : State) : Out :=
  issue { instr := .cpset a k, streams := .aOnly, uses := gRegs a } s fun s1 =>
    .done { s1 with core := { s1.core with shadows := s1.core.shadows.setIfInBounds k.toNat (s1.g a) } }

/-- The fields of the eight shadows (R201). -/
structure CopyReq where
  src     : Word
  dst     : Word
  rows    : Nat
  rowLen  : Nat
  sStride : Word
  dStride : Word
  done    : Nat
  flags   : Nat
deriving DecidableEq, Repr

def copyReq (sh : Vector Word 8) : CopyReq :=
  ⟨sh[0], sh[1], sh[2].toNat, sh[3].toNat, sh[4], sh[5], sh[6].toNat, sh[7].toNat⟩

namespace CopyReq

def kind (c : CopyReq) : Nat := c.done % 8
def ste (c : CopyReq) : Bool := bitField c.flags 5 1 == 1
def stid (c : CopyReq) : Nat := bitField c.flags 8 6
def dtid (c : CopyReq) : Nat := bitField c.done 8 6
def red (c : CopyReq) : Nat := bitField c.flags 6 2
def slay (c : CopyReq) : Nat := bitField c.flags 3 2
def dlay (c : CopyReq) : Nat := bitField c.flags 1 2
def detached (c : CopyReq) : Bool := c.flags % 2 == 1
/-- The barrier word of a DONE kind 1. -/
def barrier (c : CopyReq) : Word := .ofNat 64 (c.done / 8 * 8)
/-- ⌈ROWS·ROWLEN / 64⌉ (R203). -/
def units (c : CopyReq) : Nat := (c.rows * c.rowLen + 63) / 64

/-- Step 1 of R202: the k of the first failed check of the fields. -/
def badField (c : CopyReq) : Option Nat :=
  if c.rows = 0 ∨ 65536 ≤ c.rows then some 2
  else if c.rowLen = 0 ∨ 2 ^ 24 ≤ c.rowLen then some 3
  else if 3 < c.kind ∨ (c.kind = 0 ∧ c.done ≠ 0)
      ∨ (c.kind = 2 ∧ (bitField c.done 3 5 ≠ 0 ∨ bitField c.done 14 50 ≠ 0))
      ∨ (c.kind = 3 ∧ (bitField c.done 3 5 ≠ 0 ∨ bitField c.done 14 18 ≠ 0)) then some 6
  else if bitField c.flags 14 50 ≠ 0 ∨ c.red = 3 ∨ c.slay = 3 ∨ c.dlay = 3 then some 7
  else if (c.slay ≠ 0 ∧ !c.ste) ∨ (c.dlay ≠ 0 ∧ c.kind ≠ 2) then some 7
  else if c.ste ∧ 65536 ≤ c.src.toNat then some 0
  else if c.ste ∧ c.sStride ≠ 0 then some 4
  else if c.kind = 2 ∧ 65536 ≤ c.dst.toNat then some 1
  else if c.kind = 2 ∧ c.dStride ≠ 0 then some 5
  else none

/-- The rows of one side that fail the aperture check: the first address (R140). -/
def badRows (s : State) (base stride : Word) (rows len : Nat) : Option Word :=
  ((List.range rows).find? (fun r => !s.apertureOk s.who (base + stride * .ofNat 64 r) len)).map
    (fun r => base + stride * .ofNat 64 r)

/-- An address of a register window (R142). -/
def regWindow (a : Word) : Bool :=
  let p := aperture a
  (p.kind == 2 || p.kind == 6) && decide (0xC00000 ≤ p.core.2) && decide (p.core.2 ≤ 0xC01FFF)

/-- The rows of one side that lie in a register window (R142). -/
def regRows (base stride : Word) (rows : Nat) : List Word :=
  ((List.range rows).map (fun r => base + stride * .ofNat 64 r)).filter regWindow

/-- A side with a row in a register window, whose rows are then whole 8-byte words (R142, R202): the address that breaks that. R202 names the check for
a destination alone: the model makes it for a source too, and of the stride also where there is one row (log entry 76, DESIGN CHOICE). -/
def badWindow (base stride : Word) (rows len : Nat) : Option Word :=
  match regRows base stride rows with
  | [] => none
  | x :: xs =>
    if base.toNat % 8 ≠ 0 ∨ stride.toNat % 8 ≠ 0 ∨ len % 8 ≠ 0 then some (((x :: xs).find? (fun a => a.toNat % 8 != 0)).getD x) else none

/-- The address at which a side of a reducing job breaks its alignment to 4 (R186, R204): the first row's that does, else the side's own
(log entry 96, DESIGN CHOICE). -/
def badElement (base stride : Word) (rows : Nat) : Word :=
  (((List.range rows).map (fun r => base + stride * .ofNat 64 r)).find? (fun a => a.toNat % 4 != 0)).getD base

/-- Step 2 of R202: apertures, then alignment; the cause and the address. A reducing job takes no row of a register window as its destination
(R204). -/
def badAddress (c : CopyReq) (s : State) : Option (Nat × Word) :=
  let srcBad := if c.ste then none else badRows s c.src c.sStride c.rows c.rowLen
  let dstBad := if c.kind = 2 then none else badRows s c.dst c.dStride c.rows c.rowLen
  let srcWin := if c.ste then none else badWindow c.src c.sStride c.rows c.rowLen
  let dstWin := if c.kind = 2 then none else badWindow c.dst c.dStride c.rows c.rowLen
  let into := if c.kind = 2 then none else (regRows c.dst c.dStride c.rows)[0]?
  match srcBad, dstBad with
  | some a, _ => some (0x06, a)
  | none, some a => some (0x06, a)
  | none, none =>
    if c.kind = 1 ∧ (!s.apertureOk s.who c.barrier 8 || !scratchTarget c.barrier) then some (0x06, c.barrier)
    else if c.red ≠ 0 ∧ into.isSome then some (0x06, into.getD c.dst)
    else if (srcWin.or dstWin).isSome then some (0x05, (srcWin.or dstWin).getD c.dst)
    else if c.red ≠ 0 ∧ (c.src.toNat % 4 ≠ 0 ∨ c.sStride.toNat % 4 ≠ 0 ∨ c.rowLen % 4 ≠ 0) then
      some (0x05, badElement c.src c.sStride c.rows)
    else if c.red ≠ 0 ∧ (c.dst.toNat % 4 ≠ 0 ∨ c.dStride.toNat % 4 ≠ 0) then some (0x05, badElement c.dst c.dStride c.rows)
    else none

/-- Step 3 of R202: a range outside a named tile, as the k that it reports. -/
def badTile (c : CopyReq) (k : Core) : Option Nat :=
  let se := k.getEntry c.stid
  let de := k.getEntry c.dtid
  if c.ste ∧ se.rowBytes < c.src.toNat + c.rowLen then some 3
  else if c.ste ∧ se.rows < c.rows then some 2
  else if c.kind = 2 ∧ de.rowBytes < c.dst.toNat + c.rowLen then some 3
  else if c.kind = 2 ∧ de.rows < c.rows then some 2
  else none

end CopyReq

/-- The transfer id after one (R202). -/
def nextXfer (n : Nat) : Nat := if n = 0xFFFE then 0 else n + 1

/-- The outstanding non-detached job of the running task with a transfer id (R202). -/
def State.xferJob (s : State) (id : Nat) : Option Job :=
  (s.clusterAt s.core.cluster).jobs.find? (fun j =>
    j.pid == s.core.pid && j.ofTask s.core && j.id == id && !(copyReq j.shadows).detached)

/-- A job enters the cluster's copy unit (R202). -/
def State.acceptJob (s : State) (c : CopyReq) (d : BitVec 5) (id born : Nat) : State :=
  let k := s.core
  let se := if c.ste then some (k.getEntry c.stid) else none
  let de := if c.kind = 2 then some (k.getEntry c.dtid) else none
  let moded := (if c.ste ∧ c.slay ≠ (k.getEntry c.stid).layout then 1 else 0)
    + (if c.kind = 2 ∧ c.dlay ≠ (k.getEntry c.dtid).layout then 1 else 0)
  let k1 := if c.ste then k.setEntry c.stid ((k.getEntry c.stid).accept false) else k
  let k2 := if c.kind = 2 then k1.setEntry c.dtid ((k1.getEntry c.dtid).accept true) else k1
  let w := s.who
  let job : Job :=
    { id := id, pid := k.pid, ctx := w.ctx, queue := w.queue, seq := w.seq, mode := s.cur.mode, noReplay := s.noReplay,
      shadows := k.shadows, srcTile := se, dstTile := de, state := .queued, next := 0, moved := s.dev.cycle.toNat, born := born, ordinal := s.cur.ordinal,
      lid := (k.task.map (·.lid)).getD 0, wroteHost := false, clean := 0 }
  let s1 := ({ s with core := k2 }.updSys (fun r => { r with cntLayout := r.cntLayout + BitVec.ofNat 64 moded })).updTask
    (fun t => { t with nextJob := nextXfer id })
  (s1.updCluster k.cluster (fun x => { x with jobs := x.jobs ++ [job] })).setG d (.ofNat 64 id)

/-- cpgo (R202, R204). -/
def execCpgo (d : BitVec 5) (s : State) : Out :=
  let i : Instr := .cpgo d
  issue { instr := i, streams := .aOnly, uses := gRegs d } s fun s1 =>
    let c := copyReq s1.core.shadows
    let word := fun (k : Nat) => (encode i).zeroExtend 64 + BitVec.ofNat 64 (k * 2 ^ 32)
    match c.badField with
    | some k => .trap 0x01 (word k)
    | none =>
      match c.badAddress s1 with
      | some (cause, v) => .trap cause v
      | none =>
        if c.ste && (s1.core.getEntry c.stid).state == .empty then .trap 0x0B (.ofNat 64 c.stid)
        else if c.kind == 2 && (s1.core.getEntry c.dtid).state == .empty then .trap 0x0B (.ofNat 64 c.dtid)
        else
          match c.badTile s1.core with
          | some k => .trap 0x01 (word k)
          | none =>
            let id := (s1.core.task.map (·.nextJob)).getD 0
            if (c.ste && decide (255 ≤ (s1.core.getEntry c.stid).jobs))
                || (c.kind == 2 && decide (255 ≤ (s1.core.getEntry c.dtid).jobs)) then .wait .jobs
            else if Config.copyJobs ≤ (s1.clusterAt s1.core.cluster).jobs.length then .done (s1.setG d allOnes64)
            else if (s1.xferJob id).isSome then .wait .xfer
            else .done (s1.acceptJob c d id s1.core.nextId).countAccess

/-- cpwait (R202): a blocking wait. -/
def execCpwait (a : BitVec 5) (s : State) : Out :=
  issue { instr := .cpwait a, streams := .aOnly, uses := gRegs a } s fun s1 =>
    if (s1.xferJob ((s1.g a).toNat % 65536)).isSome then .wait .cpwait else .done s1

/-- The status of a job (R202): its state, and the rows completed. -/
def Job.status (j : Job) : Word :=
  let st := match j.state with
    | .queued => 1
    | .running => 2
    | .parked _ _ => 3
  .ofNat 64 (st + j.next / (copyReq j.shadows).rowLen % 65536 * 2 ^ 32)

/-- cpprobe (R202). -/
def execCpprobe (d a : BitVec 5) (s : State) : Out :=
  issue { instr := .cpprobe d a, streams := .aOnly, uses := gRegs d ++ gRegs a } s fun s1 =>
    .done (s1.setG d (((s1.xferJob ((s1.g a).toNat % 65536)).map Job.status).getD 0))

end Sys2Proof.Machine
end

