-- ==== Sys2Proof/Machine/Sync.lean ====
section
/-! DEFINITION. Fences, barriers, domains, gangs and launch triggers
(spec/15_sync_instructions.md R276 to R286, spec/14_ordering.md R266, R271, spec/02_describing_and_launching.md R35 to R38). -/

namespace Sys2Proof.Machine

/-! ### Fences (R266, R277) -/

/-- A fence enters the issuing stream's list, under a name of its own. -/
def State.pushFence (s : State) (acq rel : Bool) (sc : Nat) (pc : Word) : State :=
  let s1 := s.updCur (fun st => { st with fence := st.fence ++ [⟨acq, rel, sc, s.core.nextId, pc, st.mode⟩] })
  { s1 with core := { s1.core with nextId := s1.core.nextId + 1 } }

/-- The acquire half of an operation that has taken effect (R271). -/
def State.acquire (s : State) (sc : Nat) : State := s.pushFence true false sc s.cur.pc

/-- A fence issues, and orders the accesses that follow it; later instructions that use no memory issue past it. While a store that its release
half covers stands parked, it is a blocking wait that is restarted whole (R277; log entry 65). -/
def fenceOp (i : Instr) (acq rel : Bool) (sc : BitVec 3) (s : State) : Out :=
  issue { instr := i, streams := .aOnly } s fun s1 => .done (s1.pushFence acq rel sc.toNat s.cur.pc)

/-- fence (R266). -/
def execFence (sc : BitVec 3) (s : State) : Out := fenceOp (.fence sc) true true sc s

/-- fence.acq (R266). -/
def execFenceAcq (sc : BitVec 3) (s : State) : Out := fenceOp (.fenceAcq sc) true false sc s

/-- fence.rel (R266). -/
def execFenceRel (sc : BitVec 3) (s : State) : Out := fenceOp (.fenceRel sc) false true sc s

/-! ### Barrier words (R278 to R282) -/

/-- check() of R279. -/
def barCheck (w : Nat) : Nat := if barPend w = 0xFFFF ∧ barBytes w = 0 then barWord (barGen w + 1) 0 0 else w

/-- arrive(N, units) of R279; none while the arrivals of the phase are complete. -/
def barArrive (n units w : Nat) : Option Nat :=
  if barPend w = 0xFFFF then none
  else
    let p := barPend w + 1
    some (barCheck (barWord (barGen w) (if n ≤ p then 0xFFFF else p) (barBytes w + units)))

/-- engine_arrive(units) of R279. -/
def barEngine (units w : Nat) : Nat := barCheck (barWord (barGen w) (barPend w) (barBytes w + 65536 - units % 65536))

/-- The chunks of a barrier word, or how the instruction ends (R186, R188, R341); `before` is the state at its issue. -/
def State.barrierAt (s before : State) (addr : Word) : Except Res (List Chunk) :=
  match s.locate s.who .atomic addr 8 with
  | .deny => .error (before.denyAt addr)
  | .fault l b va => .error (.park 3 l b va)
  | .ok cs => .ok cs

/-- The engine that holds a barrier word (R199, R278). -/
def barrierEngine (pid : Nat) (cs : List Chunk) : Executor := executor pid 0 (.atomic .add 8 0 0) cs

/-- A barrier instruction of the issuing stream may act on the word: older accesses of its stream that it may not pass are done (R187, R265,
R269). -/
def State.barrierFree (s : State) (use : AccUse) (addr : Word) : Bool :=
  !s.orderBlocked s.core s.core.sel s.core.nextId s.cur.mode use (s.spans s.who addr 8)

/-- An arrival may be served: a replay lets it (R346), and its turn at the engine has come, among the requests and the other arrivals that wait
there; one that waits is promoted after 64 cycles (R269). -/
def State.barrierTurn (s : State) (addr : Word) (cs : List Chunk) : Bool :=
  let since := if s.cur.asking = some addr then s.cur.waitFrom else s.dev.cycle.toNat
  s.logLets .engine s.nowServed addr cs
    && s.turnFor (barrierEngine s.core.pid cs) (placeOf cs) s.core.pid since (decide (Config.promoteCycles ≤ s.dev.cycle.toNat - since))
      (some s.core.pid)

/-- A wait on a word: a peer device's word is read anew at each try (R354; log entry 5). -/
def State.waitOn (s : State) (cs : List Chunk) (w : Wait) : Res := .hold (if peerChunk cs then s.tried else s) w

/-- An arrival waits at the engine that holds the word (R269, R279). -/
def State.askOn (s : State) (addr : Word) (cs : List Chunk) : Res :=
  (s.updCur (fun st => { st with asking := some addr })).waitOn cs .barrier

/-- The word of a barrier is in the phase that a waiting instruction waits for (R280, R281): `gen` has completed. -/
def phasePassed (w : Nat) (gen : BitVec 32) : Bool := decide (0 < sdiff (.ofNat 32 (barGen w)) gen)

/-- The arrival of a barrier instruction that has passed its checks (R279, R280): `units` of expected bytes, and whether the instruction then
waits for the phase. `s` is the state at its issue, `s1` the one past it. -/
def barrierGo (s s1 : State) (addr : Word) (cs : List Chunk) (need units : Nat) (sc : Nat) (waits : Bool) : Res :=
  let w := bytesNat (s.peekAll cs)
  if !s.released sc then .wait (.release sc)
  else if !s.barrierFree .both addr then .wait .barrier
  else if !s.barrierTurn addr cs then s.askOn addr cs
  else
    match s.poisoned cs, barArrive need units w with
    | some u, _ => .trap 0x12 u.address
    | none, none => s.askOn addr cs
    | none, some w1 =>
      let arrive := fun (x : State) =>
        (((x.countAccess.touch s.who.ctx true cs).pokeAll cs (natBytes w1 8)).servedAt (barrierEngine s.core.pid cs) (placeOf cs) s.core.pid).logServed
          .engine s.nowServed addr cs
      if waits && barGen w1 == barGen w then
        .hold ((arrive s).updCur (fun st => { st with arrived := some (s.cur.pc, .ofNat 32 (barGen w), false), asking := none })) .barrier
      else .done (if waits then (arrive s1).acquire sc else arrive s1)

/-- The rest of a bar.w that has arrived (R280): it waits until GEN differs, or, once its stream has been stopped there, as a barw does. -/
def barrierRest (s s1 : State) (addr : Word) (cs : List Chunk) (gen : BitVec 32) (stopped : Bool) (sc : Nat) : Res :=
  let w := bytesNat (s.peekAll cs)
  if !s.barrierFree .reads addr then .wait .barrier
  else
    match s.poisoned cs with
    | some u => .trap 0x12 u.address
    | none =>
      if (if stopped then phasePassed w gen else barGen w != gen.toNat) then .done ((if peerChunk cs then s1.tried else s1).acquire sc)
      else s.waitOn cs .barrier

/-- bar, bar.w or barx (R280): the checks of the address, then N. -/
def barrierArrive (i : Instr) (a n : BitVec 5) (sc : BitVec 3) (units : Word → Nat) (waits : Bool) (s : State) : Out :=
  issue (memForm i .store (gRegs a ++ gRegs n)) s fun s1 =>
    let addr := s1.g a
    let gn := s1.g n
    let need := gn.toNat % 65536
    match s1.checkSync addr 8 with
    | some (c, v) => .trap c v
    | none =>
      match s1.barrierAt s addr with
      | .error r => r
      | .ok cs =>
        match (if waits then s.cur.arrived else none) with
        | some (pc, gen, stopped) =>
          if pc = s.cur.pc then barrierRest s s1 addr cs gen stopped sc.toNat
          else if need = 0 ∨ need = 0xFFFF then .trap 0x01 gn
          else barrierGo s s1 addr cs need (units gn) sc.toNat waits
        | none =>
          if need = 0 ∨ need = 0xFFFF then .trap 0x01 gn
          else barrierGo s s1 addr cs need (units gn) sc.toNat waits

/-- bar (R280). -/
def execBar (a n : BitVec 5) (sc : BitVec 3) (s : State) : Out :=
  barrierArrive (.bar a n sc) a n sc (fun _ => 0) false s

/-- bar.w (R280). -/
def execBarW (a n : BitVec 5) (sc : BitVec 3) (s : State) : Out :=
  barrierArrive (.barW a n sc) a n sc (fun _ => 0) true s

/-- barx (R280). -/
def execBarx (a n : BitVec 5) (sc : BitVec 3) (s : State) : Out :=
  barrierArrive (.barx a n sc) a n sc (fun gn => bitField gn.toNat 16 16) false s

/-- barw (R281): waits until the generation named has completed. -/
def execBarw (a g : BitVec 5) (sc : BitVec 3) (s : State) : Out :=
  issue (memForm (.barw a g sc) .store (gRegs a ++ gRegs g)) s fun s1 =>
    let addr := s1.g a
    match s1.checkSync addr 8 with
    | some (c, v) => .trap c v
    | none =>
      match s1.barrierAt s addr with
      | .error r => r
      | .ok cs =>
        if !s.barrierFree .reads addr then .wait .barrier
        else
          match s.poisoned cs with
          | some u => .trap 0x12 u.address
          | none =>
            if phasePassed (bytesNat (s.peekAll cs)) ((s1.g g).truncate 32) then
              .done ((if peerChunk cs then s1.tried else s1).countAccess.acquire sc.toNat)
            else s.waitOn cs .barrier

/-! ### Domains (R51, R52, R283) -/

/-- The domain level that a dsync scope names (R283). -/
def domLevelOf (sc : BitVec 3) : Nat :=
  match sc.toNat with
  | 1 => 1
  | 2 => 2
  | 3 => 3
  | _ => 4

/-- Which instance of a level a logical id belongs to (R51): its cluster group, its first quadrant, or the team. -/
def Command.instanceKey (c : Command) (level lid : Nat) : Nat :=
  let k := lid / c.percl
  if level = 1 then k else if level = 2 then c.quads[k]?.getD 0 else 0

/-- Arrivals recorded for an instance. -/
def Command.arrived (c : Command) (level key : Nat) : List Nat :=
  ((c.arrivals.find? (fun a => a.1 == level && a.2.1 == key)).map (fun a => a.2.2)).getD []

/-- An arrival recorded; a task that has arrived does not arrive again (R283). -/
def Command.arrive (c : Command) (level key lid : Nat) : Command :=
  { c with arrivals := (level, key, insertNat lid (c.arrived level key)) ::
      c.arrivals.filter (fun a => !(a.1 == level && a.2.1 == key)) }

/-- The device is in a set that the context has registered for a level-4 command (R355). -/
def State.inDomain (s : State) (ctx device : Nat) : Bool :=
  device != s.dev.domNum.toNat && ((s.ctxAt ctx).domSet.contains device
    || (s.ctxAt ctx).queues.any (fun y => y.2.cmds.any (fun c => c.dom == 4 && c.domSet.contains device)))

/-- Every task of the instance on this device has arrived, and for level 4 every other device of the set (R283). -/
def State.dsyncFull (s : State) (ctx : Nat) (c : Command) (level key : Nat) : Bool :=
  let here := (List.range c.ntask).filter (fun l => c.instanceKey level l == key)
  let x := s.ctxAt ctx
  here.all (fun l => (c.arrived level key).contains l)
    && (level != 4 || c.domSet.all (fun d => d == s.dev.domNum.toNat || x.remote.contains d))

/-- GENj increments in a core of the instance. -/
def Core.bumpGen (k : Core) (level : Nat) : Core :=
  let g := k.sys.domGen
  { k with sys := { k.sys with domGen := g.setIfInBounds (level - 1) ((g[level - 1]?).getD 0 + 1) } }

/-- A phase of an instance completes: GENj increments in every member at one instant (R283). A device's arrival for a later phase that has
reached this device stays. -/
def State.dsyncComplete (s : State) (ctx q : Nat) (c : Command) (level key : Nat) : State :=
  let member := fun (k : Core) => match k.task with
    | some t => t.ctx == ctx && t.queue == q && t.seq == c.seq && c.instanceKey level t.lid == key
    | none => false
  let go := fun (k : Core) => if member k then k.bumpGen level else k
  let s1 := { s with core := go s.core, cores := s.cores.map go }
  let s2 := s1.updCmd ctx q c.seq (fun c =>
    { c with
      arrivals := c.arrivals.filter (fun a => !(a.1 == level && a.2.1 == key))
      saved := c.saved.map (fun t => if c.instanceKey level t.lid = key then { t with core := t.core.bumpGen level } else t) })
  if level = 4 then s2.updCtx ctx (fun x => { x with remote := c.domSet.foldl List.erase x.remote }) else s2

/-- Completes the phase if all have arrived. -/
def State.dsyncTry (s : State) (ctx q : Nat) (seq : BitVec 32) (level key : Nat) : State :=
  match s.cmdAt ctx q seq with
  | some c => if s.dsyncFull ctx c level key then s.dsyncComplete ctx q c level key else s
  | none => s

/-- GENj of the current core. -/
def State.genOf (s : State) (level : Nat) : BitVec 16 := (s.core.sys.domGen[level - 1]?).getD 0

/-- dsync (R283). One that has arrived at its level, and restarts, does not arrive again. -/
def execDsync (sc : BitVec 3) (s : State) : Out :=
  let level := domLevelOf sc
  issue { instr := .dsync sc, streams := .aOnly, illegal := decide (s.core.sys.domLevel.toNat < level) } s fun s1 =>
    let back := s1.acquire sc.toNat
    match s.cur.dsynced.filter (fun x => x.1 == level), s1.core.task with
    | some (_, gen), _ => if s1.genOf level = gen then .wait .dsync else .done back
    | none, some t =>
      if !s.released sc.toNat then .wait (.release sc.toNat)
      else
        match s.cmdAt t.ctx t.queue t.seq with
        | none => .done back
        | some c =>
          let key := c.instanceKey level t.lid
          let gen := s.genOf level
          let go := fun (x : State) => (x.updCmd t.ctx t.queue t.seq (fun c => c.arrive level key t.lid)).dsyncTry
            t.ctx t.queue t.seq level key
          let held := (go s).updCur (fun st => { st with dsynced := some (level, gen) })
          if held.genOf level = gen then .hold held .dsync else .done (go back)
    | none, none => .done back

/-! ### Gangs (R48, R49, R284) -/

/-- Two cores run tasks of one team that have not exited (R49). -/
def sameTeam (j k : Core) : Bool :=
  match j.task, k.task with
  | some t, some u => !t.left && !u.left && t.ctx == u.ctx && t.queue == u.queue && t.seq == u.seq && (match t.kind, u.kind with
    | .team, .team => true
    | _, _ => false)
  | _, _ => false

/-- The members that a core's mask names, the core itself included when it does (R49): none when the mask breaks R49 by itself. -/
def State.gangOf (s : State) (k : Core) : Option (List Nat) :=
  let pids := gangCores k.cluster k.sys.gangMask
  if k.sys.gangMask.getLsbD k.cidx && pids.all (fun p => p == k.pid || sameTeam k (s.coreAt p)) then some pids else none

/-- The A-stream of a core stands at a gsync whose gang has not met (R284), in user code or in its own handler. -/
def Core.atGsync (k : Core) : Bool :=
  k.a.wait == some .gsync && !k.a.gsynced && k.a.stopped.isNone && (k.handler.isNone || (k.handler == some .a && k.a.mode == .sup)) && !k.a.exited

/-- The word of the instruction at which the A-stream of a core stands. -/
def State.wordOfA (s : State) (pid : Nat) : Word :=
  let s1 := s.select pid
  match { s1 with core := { s1.core with sel := .a } }.fetch with
  | .instr i => (encode i).zeroExtend 64
  | _ => 0

/-- Members that wait at a gsync trap with cause 0x13 at it (R284): in a handler that is a double trap (R312). -/
def State.failGsync (s : State) (pids : List Nat) : State :=
  pids.foldl (fun s p =>
    if (s.coreAt p).atGsync then
      let w := s.wordOfA p
      if (s.coreAt p).a.mode = .sup then s.onCore p State.doubleTrap
      else s.updCore p (fun k => { k with deferred := k.deferred ++ [⟨0x13, w⟩] })
    else s) s

/-- gsync (R284). -/
def execGsync (sc : BitVec 3) (s : State) : Out :=
  let i : Instr := .gsync sc
  let word := (encode i).zeroExtend 64
  issue { instr := i, streams := .aOnly } s fun s1 =>
    let back := s1.acquire sc.toNat
    if s.cur.gsynced then .done back
    else if !s.released sc.toNat then .wait (.release sc.toNat)
    else if s.isUpdate || s.isStall then .done back
    else
      let others := (gangCores s.core.cluster s.core.sys.gangMask).filter (fun p => p != s.core.pid)
      let fail : Res := if s.quiet then .after (s.failGsync others) 0x13 word else .wait .drain
      match s.gangOf s.core with
      | none => fail
      | some _ =>
        if !others.all (fun p => (s.coreAt p).atGsync) then .wait .gsync
        else if others.all (fun p => (s.coreAt p).sys.gangMask == s.core.sys.gangMask) then
          .done (others.foldl (fun x p => x.updCore p (fun k => { k with a := { k.a with gsynced := true } })) back)
        else fail

/-! ### Producers and triggers (R35 to R38, R285, R286) -/

/-- How a producer stands (R35, R36). -/
inductive ProdState where
  /-- Not yet triggered. -/
  | waiting
  | triggered
  | ok
  /-- It ended in error or was cancelled, or no command can be accepted under its number (R30, R35). -/
  | failed
deriving DecidableEq, Repr

/-- The completion point of a queue (R35): the lowest running number whose command has not completed. -/
def Queue.point (x : Queue) : BitVec 32 :=
  ((x.cmds.find? (fun c => match c.phase with
    | .completed _ => false
    | _ => true)).map (·.seq)).getD x.nextSeq

/-- A producer resolved (R35, R36). One named before a restart of its queue bears the number that its commands then stand under (log entry 85, DESIGN
CHOICE). -/
def Queue.producer (x : Queue) (seq : BitVec 32) : ProdState :=
  let status := fun (st : CmdStatus) => if st = .ok then ProdState.ok else .failed
  match x.cmds.find? (fun c => c.seq == seq) with
  | some c =>
    match c.phase with
    | .completed st => status st
    | _ => if c.op = .launch ∧ c.wasPlaced ∧ c.ntask ≤ c.trigs.length then .triggered else .waiting
  | none =>
    match x.kept.find? (fun k => k.1 == seq) with
    | some (_, st) => status st
    | none => if sdiff seq x.point < 0 then .ok else if x.en then .waiting else .failed

/-- How each producer of a command stands. -/
def State.producers (s : State) (ctx : Nat) (c : Command) : List ProdState :=
  c.prods.map (fun p => (s.queueAt ctx p.1).producer p.2)

/-- Every producer is triggered and the dependence count is zero (R36, R285). -/
def State.allTriggered (s : State) (ctx : Nat) (c : Command) : Bool :=
  c.count == 0 && (s.producers ctx c).all (fun p => p == .triggered || p == .ok)

/-- waitp (R285). -/
def execWaitp (s : State) : Out :=
  issue { instr := .waitp, streams := .aOnly } s fun s1 =>
    let back := s1.acquire 3
    match s.core.task, s.taskCmd with
    | some t, some c =>
      if s.isUpdate || s.isStall || !c.early then .done back
      else if s.allTriggered t.ctx c then .done back
      else .wait .waitp
    | _, _ => .done back

/-- Engine work that the running task issued and that is not complete: copy jobs without the detached flag, and drains to scratchpad
(R38, R231, R260, R273). -/
def State.ownJobs (s : State) : Bool :=
  s.core.c.flight.any (fun op => match op.work with
    | .mdrain _ (.scratch _) _ => true
    | _ => false) || s.openJobs s.core

/-- The release of TRIG and LVCOMMIT: at DEVICE scope, engine work included (R73, R286). -/
def State.releasedAll (s : State) : Bool := s.released 3 && !s.ownJobs

/-- trig (R286). -/
def execTrig (s : State) : Out :=
  issue { instr := .trig, streams := .aOnly } s fun s1 =>
    if !s.releasedAll then .wait (.release 3)
    else
      match s.core.task with
      | some t =>
        match t.kind with
        | .team =>
          .done ((s1.updTask (fun t => { t with triggered := true })).updCmd t.ctx t.queue t.seq
            (fun c => { c with trigs := insertNat t.lid c.trigs }))
        | _ => .done s1
      | none => .done s1

end Sys2Proof.Machine
end

