-- ==== Sys2Proof/Machine/Level.lean ====
section
/-! DEFINITION. The level instructions of update tasks and the thaw of a block
(spec/04_time_levels.md R62 to R79, spec/15_sync_instructions.md R287 to R295, spec/21_system_instructions.md R332). -/

namespace Sys2Proof.Machine

/-! ### Block records -/

/-- A block that no front has. -/
def Block.empty : Block :=
  { level := 0, step := 0, next := 0, hdepth := 2, nnbr := 0, rule := 0, home := 0, valid := 0, ua := 0, uc := 0,
    nbr := Vector.replicate 8 0, rlev := Vector.replicate 4 0, raddr := Vector.replicate 4 0, newSlot := 0,
    state := .idle, core := none }

/-- The block of an id. -/
def Front.block (f : Front) (b : Nat) : Block := f.blocks[b]?.getD .empty

def Front.setBlock (f : Front) (b : Nat) (g : Block → Block) : Front := { f with blocks := modifyAt g b f.blocks }

/-- Ring entry i when it is valid: its level and slot address (R63). -/
def Block.entry (b : Block) (i : Nat) : Option (BitVec 32 × Word) :=
  if decide (i < b.hdepth) && b.valid.getLsbD i then some ((b.rlev[i]?).getD 0, (b.raddr[i]?).getD 0) else none

/-- The valid entries, newest first. -/
def Block.ring (b : Block) : List (BitVec 32 × Word) := (List.range 4).filterMap b.entry

/-- The rule entry of a block (R59). -/
def Front.rule (f : Front) (b : Block) : Rule := f.rules[b.rule]?.getD ⟨Vector.replicate 8 0, Vector.replicate 8 0xFF⟩

/-- The level of a block as a home unit last received it (R65). -/
def Front.knownAt (f : Front) (home b : Nat) : BitVec 32 := ((f.known[home]?.getD [])[b]?).getD 0

def Front.learn (f : Front) (home b : Nat) (l : BitVec 32) : Front :=
  { f with known := modifyAt (modifyAt (fun _ => l) b) home f.known }

/-- The lowest of the levels under serial comparison (R62, R68). -/
def lowestLevel : List (BitVec 32) → BitVec 32
  | [] => 0
  | l :: ls => ls.foldl (fun m x => if sdiff x m < 0 then x else m) l

def highestLevel : List (BitVec 32) → BitVec 32
  | [] => 0
  | l :: ls => ls.foldl (fun m x => if 0 < sdiff x m then x else m) l

/-- The spread of the front if block b stood `up` above its level (R68): apogee less perigee, as integers from its level. -/
def Front.spreadWith (f : Front) (b : Nat) (up : Int) : Int :=
  let base := (f.block b).level
  let ds := up :: (f.blocks.zipIdx.filterMap (fun x => if x.2 = b then none else some (sdiff x.1.level base)))
  ds.foldl max up - ds.foldl min up

/-- The spread of the front if block b stood at a level (R68, R80): apogee less perigee, as integers from the lowest of the other blocks. -/
def Front.spreadAt (f : Front) (b : Nat) (l : BitVec 32) : Int :=
  let others := f.blocks.zipIdx.filterMap (fun x => if x.2 = b then none else some x.1.level)
  let base := match others with
    | [] => l
    | _ => lowestLevel others
  let ds := others.map (fun x => sdiff x base)
  ds.foldl max (sdiff l base) - ds.foldl min (sdiff l base)

/-- A commit rotates the ring and advances the level (R63, R72): entries above H − 1 are no part of it. -/
def Block.commit (b : Block) (step : BitVec 16) : Block :=
  let l := b.level + step.zeroExtend 32
  { b with
    level := l
    step := b.next
    valid := ((b.valid <<< 1) ||| 1) &&& (BitVec.ofNat 4 (2 ^ b.hdepth - 1))
    rlev := Vector.ofFn (fun (i : Fin 4) => if i.val = 0 then l else if i.val < b.hdepth then (b.rlev[i.val - 1]?).getD 0 else b.rlev[i])
    raddr := Vector.ofFn (fun (i : Fin 4) =>
      if i.val = 0 then b.newSlot else if i.val < b.hdepth then (b.raddr[i.val - 1]?).getD 0 else b.raddr[i]) }

/-- The record of a block is poisoned (R336). -/
def State.blockPoisoned (s : State) (b : Nat) : Bool :=
  match s.core.task with
  | some t => s.dev.poison.contains (.block t.ctx t.queue t.seq b)
  | none => false

/-! ### Reading the history and the neighbours -/

/-- TRAP.VAL of cause 0x0C (R291). -/
def levelVal (x reason j : Nat) : Word := .ofNat 64 (x % 2 ^ 32 * 2 ^ 32 + reason * 256 + j % 256)

/-- lvget (R288). -/
def execLvget (d a : BitVec 5) (s : State) : Out :=
  issue { instr := .lvget d a, streams := .aOnly, illegal := !s.isUpdate, uses := gRegs d ++ gRegs (d + 1) ++ gRegs a } s fun s1 =>
    match s1.taskFront with
    | none => .trap 0x01 ((encode (.lvget d a)).zeroExtend 64)
    | some (f, b) =>
      let i := (s1.g a).toNat
      if s1.blockPoisoned b then .trap 0x12 0
      else
        match (f.block b).entry i with
        | some (l, addr) => .done ((s1.setG d addr).setG (d + 1) (l.zeroExtend 64))
        | none => .trap 0x0C (levelVal 0 3 i)

/-- lvnbr (R289). -/
def execLvnbr (d a : BitVec 5) (s : State) : Out :=
  issue { instr := .lvnbr d a, streams := .aOnly, illegal := !s.isUpdate, uses := gRegs d ++ gRegs (d + 1) ++ gRegs a } s fun s1 =>
    match s1.taskFront with
    | none => .trap 0x01 ((encode (.lvnbr d a)).zeroExtend 64)
    | some (f, b) =>
      let j := (s1.g a).toNat
      let me := f.block b
      if s1.blockPoisoned b then .trap 0x12 0
      else if me.nnbr ≤ j then .trap 0x0C (levelVal 0 3 j)
      else
        let n := (me.nbr[j]?).getD 0
        .done ((s1.setG d (n.zeroExtend 64)).setG (d + 1) ((f.knownAt me.home n.toNat).zeroExtend 64))

/-- What lvread finds (R290). -/
inductive LvFound where
  | trap (reason : Nat)
  | exact (slot : Word)
  /-- Interpolation index, the slots of the lower and the higher level, x less the lower, the higher less the lower. -/
  | between (index : Nat) (lo hi : Word) (num den : Nat)
deriving DecidableEq, Repr

/-- Neighbours in the ring that bracket a level: newer entry, older entry. -/
def bracketIn (x : BitVec 32) : List (BitVec 32 × Word) → Option ((BitVec 32 × Word) × (BitVec 32 × Word))
  | hi :: lo :: rest => if sdiff lo.1 x < 0 ∧ sdiff x hi.1 < 0 then some (hi, lo) else bracketIn x (lo :: rest)
  | _ => none

/-- The lookup of lvread: block b, neighbour slot j, level x (R290). -/
def Front.lookup (f : Front) (b j : Nat) (x : BitVec 32) : LvFound :=
  let me := f.block b
  if me.nnbr ≤ j then .trap 3
  else
    let ring := (f.block ((me.nbr[j]?).getD 0).toNat).ring
    match ring.find? (fun e => e.1 == x) with
    | some e => .exact e.2
    | none =>
      match bracketIn x ring with
      | none => .trap 1
      | some (hi, lo) =>
        let ix := ((f.rule me).idx[j]?).getD 0xFF
        if ix = 0xFF then .trap 2
        else .between ix.toNat lo.2 hi.2 (sdiff x lo.1).toNat (sdiff hi.1 lo.1).toNat

/-- The entry that lvread pushes (R76). -/
def lvEntry (f : LvFound) : BitVec 512 :=
  match f with
  | .between ix _ _ num den => .ofNat 512 (ix + num * 2 ^ 32 + den * 2 ^ 64)
  | _ => 0xFFFFFFFF

/-- What lvread would find at the issuing stream's operands. -/
def State.lvLookup (s : State) (a b : BitVec 5) : LvFound :=
  match s.taskFront with
  | none => .trap 3
  | some (f, blk) => f.lookup blk (s.g a).toNat ((s.g b).truncate 32)

/-- lvread (R290). Its destination set is the one of the case taken (R86); a bracketed case completes as it calls the A-entry (R87), which traps as
a jump where that entry is odd, before it waits or pushes (R82; log entry 87, DESIGN CHOICE). -/
def execLvread (d a b : BitVec 5) (la : BitVec 4) (s : State) : Out :=
  let i : Instr := .lvread d a b la
  let found := s.lvLookup a b
  let more := match found with
    | .between .. => gRegs (d + 1) ++ gRegs (d + 2) ++ gRegs (d + 3) ++ gRegs linkReg
    | _ => []
  issue { instr := i, streams := .aOnly, illegal := !s.isUpdate || s.cur.interp,
          uses := gRegs d ++ gRegs a ++ gRegs b ++ more } s fun s1 =>
    if (match s.taskFront with
        | some (f, blk) => s.blockPoisoned blk
          || (decide ((s.g a).toNat < (f.block blk).nnbr) && s.blockPoisoned (((f.block blk).nbr[(s.g a).toNat]?).getD 0).toNat)
        | none => false) then .trap 0x12 0
    else
      match found with
      | .trap r => .trap 0x0C (levelVal (s.g b).toNat r (s.g a).toNat)
      | .exact slot =>
        if !s1.hasRoom 3 then .wait (.push 3)
        else
          .done ((((s1.pushQ 3 true (lvEntry found) (mkFmt 3 0)).acquire 3).launchOp i s.cur.pc la.toNat (gRegs d)
            (.deliver [.g d.toNat slot] 0 Counts.zero 0)).cleanRegs (gRegs d))
      | .between ix lo hi num den =>
        let entry := ((s.taskFront.map (fun x => (x.1.interp[ix]?.getD (0, 0)).1))).getD 0
        if entry.toNat % 2 = 1 then .trap 0x05 entry
        else if !s1.hasRoom 3 then .wait (.push 3)
        else
          let s2 := (s1.pushQ 3 true (lvEntry found) (mkFmt 3 0)).acquire 3
          let s3 := (((s2.setG d lo).setG (d + 1) hi).setG (d + 2) (.ofNat 64 num)).setG (d + 3) (.ofNat 64 den)
          jumpTo entry (((s3.setG linkReg (s.cur.pc + 4)).updCur (fun st => { st with interp := true })).cleanRegs (gRegs d ++ more))

/-- The registers that lvtake writes for the entry it will pop: none for a marker (R292). -/
def State.lvTakeUses (s : State) : List Reg :=
  match s.core.getQueue 3 with
  | e :: _ => if e.bits.truncate 32 = (0xFFFFFFFF : BitVec 32) then [] else .f 0 :: gRegs linkReg
  | [] => []

/-- lvtake (R292), illegal in a drain handler (R232). The call of an odd C-entry traps as a jump, and pops nothing (R82; log entry 87, DESIGN CHOICE). -/
def execLvtake (s : State) : Out :=
  issue { instr := .lvtake, streams := .cOnly, illegal := !s.isUpdate || s.cur.interp || s.cur.drain.isSome, uses := s.lvTakeUses } s fun s1 =>
    match s1.popQ 3 with
    | none => .wait (.pop 3 1)
    | some (s2, e) =>
      if !e.filled then .wait .fill
      else
        let lane := fun i => bitField e.bits.toNat (32 * i) 32
        if lane 0 = 0xFFFFFFFF then .done s2
        else
          let q := (deliverIeee .fp32 0 false (.fin false (lane 1) (lane 2))).1
          let entry := ((s.taskFront.map (fun x => (x.1.interp[lane 0]?.getD (0, 0)).2))).getD 0
          jumpTo entry ((((s2.setF 0 ⟨.ofNat 64 q, mkFmt 6 0⟩).setG linkReg (s.cur.pc + 4)).updCur
            (fun st => { st with interp := true })).cleanRegs (.f 0 :: gRegs linkReg))

/-- lvret (R293), illegal in a drain handler (R232). -/
def execLvret (s : State) : Out :=
  issue { instr := .lvret, streams := .both, illegal := !s.isUpdate || !s.cur.interp || s.cur.drain.isSome, uses := gRegs linkReg } s fun s1 =>
    jumpTo (s1.g linkReg) (s1.updCur (fun st => { st with interp := false }))

/-! ### Advancing the block -/

/-- lvstep (R294): after the commit, the record already holds NEXT. -/
def execLvstep (a : BitVec 5) (s : State) : Out :=
  issue { instr := .lvstep a, streams := .aOnly, illegal := !s.isUpdate, uses := gRegs a } s fun s1 =>
    let v := (s1.g a).toNat
    if v = 0 ∨ 65536 ≤ v then .trap 0x01 (s1.g a)
    else
      let done := (s1.core.task.map (·.committed)).getD false
      match s1.taskFront with
      | none => .done s1
      | some (_, b) =>
        .done (s1.updTaskFront (fun f => f.setBlock b (fun x =>
          { x with next := .ofNat 16 v, step := if done then .ofNat 16 v else x.step })))

/-- lvcommit (R72, R295): the release, the wait of a frozen block (R328), the spread check (R68), then the commit in one step. -/
def execLvcommit (s : State) : Out :=
  issue { instr := .lvcommit, streams := .aOnly,
          illegal := !s.isUpdate || (s.core.task.map (·.committed)).getD false } s fun s1 =>
    match s1.taskFront, s1.core.task with
    | some (f, b), some t =>
      let me := f.block b
      if !s.releasedAll then .wait (.release 3)
      else if me.state = .frozen then .wait .frozen
      else if s1.blockPoisoned b then .trap 0x12 0
      else if 2 ^ 31 ≤ f.spreadWith b t.step.toNat then .trap 0x0D ((me.level + t.step.zeroExtend 32).zeroExtend 64)
      else
        .done ((s1.updTaskFront (fun f =>
          (f.setBlock b (fun x => x.commit t.step)).learn me.home b (me.level + t.step.zeroExtend 32))).updTask
            (fun t => { t with committed := true }))
    | _, _ => .done s1

/-! ### Thawing (R79, R332) -/

/-- The front with block b thawed, and what gd takes (R332). Blocks that an applied record put at TARGET become done (R80). -/
def Front.thaw (f : Front) (b : Nat) : Front × Word :=
  let atTarget := fun (x : Block) => decide (0 ≤ sdiff x.level f.target)
  let f1 := f.setBlock b (fun x =>
    if x.state = .frozen then
      { x with state := if x.core.isSome then .running else if atTarget x then .done else .idle }
    else x)
  if f1.blocks.any (fun x => x.state == .frozen) then (f1, 1)
  else
    ({ f1 with
      frozen := false
      stalled := false
      freezer := none
      blocks := f1.blocks.map (fun x => if x.state == .idle && atTarget x then { x with state := .done } else x) }, 0)

/-- lvthaw (R332). -/
def execLvthaw (d a : BitVec 5) (s : State) : Out :=
  issue { instr := .lvthaw d a, streams := .both, priv := true,
          illegal := s.cur.mode == .sup && !s.isUpdate && !s.isStall, uses := gRegs d ++ gRegs a } s fun s1 =>
    match s1.taskFront with
    | none => .done s1
    | some (f, _) =>
      let b := (s1.g a).toNat % 65536
      if f.blocks.length ≤ b then .done (s1.setG d allOnes64)
      else .done ((s1.updTaskFront (fun f => (f.thaw b).1)).setG d (f.thaw b).2)

end Sys2Proof.Machine
end

