-- ==== Sys2Proof/Machine/Records.lean ====
section
/-! DEFINITION. Block records and rule entries as memory and registers hold them, and the checks made on them
(spec/04_time_levels.md R58 to R60, R80). -/

namespace Sys2Proof.Machine

/-- 64-bit word k of bytes. -/
def wordAt (bs : List Byte) (k : Nat) : Nat := bytesNat ((bs.drop (8 * k)).take 8)

/-- The words of a block's record as it now stands (R58, R80). -/
def Block.words (b : Block) : Vector Word 16 :=
  let half := fun (v : Vector (BitVec 16) 8) (k : Nat) =>
    (List.range 4).foldl (fun acc i => acc + ((v[4 * k + i]?).getD 0).toNat * 2 ^ (16 * i)) 0
  let lev := fun (k : Nat) => ((b.rlev[2 * k]?).getD 0).toNat + ((b.rlev[2 * k + 1]?).getD 0).toNat * 2 ^ 32
  #v[ .ofNat 64 (b.level.toNat + b.step.toNat * 2 ^ 32 + b.hdepth * 2 ^ 48 + b.nnbr * 2 ^ 56),
      .ofNat 64 (b.rule + b.home * 2 ^ 16 + b.valid.toNat * 2 ^ 32),
      b.ua, b.uc, .ofNat 64 (half b.nbr 0), .ofNat 64 (half b.nbr 1), .ofNat 64 (lev 0), .ofNat 64 (lev 1),
      b.raddr[0], b.raddr[1], b.raddr[2], b.raddr[3], 0, 0, 0, 0 ]

/-- A record read as a block that is idle (R58). -/
def blockOf (w : Vector Word 16) : Block :=
  let f := fun (k lo n : Nat) => bitField ((w[k]?).getD 0).toNat lo n
  { level := .ofNat 32 (f 0 0 32), step := .ofNat 16 (f 0 32 16), next := .ofNat 16 (f 0 32 16),
    hdepth := f 0 48 8, nnbr := f 0 56 8, rule := f 1 0 16, home := f 1 16 8, valid := .ofNat 4 (f 1 32 4),
    ua := w[2], uc := w[3],
    nbr := Vector.ofFn (fun i => .ofNat 16 (f (4 + i.val / 4) (16 * (i.val % 4)) 16)),
    rlev := Vector.ofFn (fun i => .ofNat 32 (f (6 + i.val / 2) (32 * (i.val % 2)) 32)),
    raddr := #v[w[8], w[9], w[10], w[11]], newSlot := 0, state := .idle, core := none }

/-- The reserved fields of a record are zero (R58). -/
def recordReserved (w : Vector Word 16) : Bool :=
  let f := fun (k lo n : Nat) => bitField ((w[k]?).getD 0).toNat lo n
  f 1 24 8 == 0 && f 1 36 28 == 0 && w[12] == 0 && w[13] == 0 && w[14] == 0 && w[15] == 0

/-- Levels strictly decrease along a list (R60). -/
def levelsFall : List (BitVec 32) → Bool
  | a :: b :: rest => decide (sdiff b a < 0) && levelsFall (b :: rest)
  | _ => true

/-- The slots in use of a block against its rule entry: interpolation indices (R59), and offsets under GUARDED (R60). -/
def Block.slotsOk (b : Block) (r : Rule) (ninterp : Nat) (guarded : Bool) : Bool :=
  (List.range b.nnbr).all (fun j =>
    let ix := ((r.idx[j]?).getD 0xFF).toNat
    (ix == 0xFF || decide (ix < ninterp)) && !(guarded && decide (0 < ((r.offs[j]?).getD 0).toInt)))

/-- The checks of R60 that concern one block, its record's reserved fields apart. -/
def Block.wellFormed (b : Block) (nblock : Nat) (target : BitVec 32) : Bool :=
  let addrs := (List.range b.hdepth).map (fun i => (b.raddr[i]?).getD 0)
  b.step != 0 && decide (2 ≤ b.hdepth) && decide (b.hdepth ≤ 4) && decide (b.nnbr ≤ 8)
    && b.ua.toNat % 2 == 0 && b.uc.toNat % 2 == 0
    && b.valid.getLsbD 0 && decide (b.valid.toNat < 2 ^ b.hdepth)
    && (List.range b.nnbr).all (fun j => decide (((b.nbr[j]?).getD 0).toNat < nblock))
    && b.rlev[0] == b.level
    && addrs.all (fun a => a != 0) && addrs.eraseDups.length == addrs.length
    && levelsFall (b.ring.map (·.1))
    && decide (0 ≤ sdiff target b.level)

/-- A staged record may replace the record of block b (R80). -/
def Front.applyOk (f : Front) (b : Nat) (w : Vector Word 16) : Bool :=
  let old := f.block b
  let new := blockOf w
  decide (b < f.blocks.length) && f.frozen
    && (old.state == .idle || (old.state == .frozen && old.core.isNone))
    && new.home == old.home && recordReserved w && f.rulesUsed.contains new.rule
    && new.wellFormed f.blocks.length f.target
    && new.slotsOk (f.rule new) f.interp.length f.guarded
    && decide (f.spreadAt b new.level < 2 ^ 31)

/-- The record of block b replaced by a staged copy (R80). -/
def Front.apply (f : Front) (b : Nat) (w : Vector Word 16) : Front :=
  let old := f.block b
  let new := { blockOf w with state := old.state, core := old.core, newSlot := old.newSlot }
  (f.setBlock b (fun _ => new)).learn old.home b new.level

/-- LV.RSEL and LV.RDATA serve the handler of an update task and the stall task (R80). -/
def State.editsLevels (s : State) : Bool := s.cur.mode == .sup && (s.isUpdate || s.isStall)

/-- A copy of a block's record is staged; an id at or above NBLOCK stages all ones (R80). -/
def State.stageRecord (s : State) (b : BitVec 16) : State :=
  let w := match s.taskFront with
    | some (f, _) => if b.toNat < f.blocks.length then (f.block b.toNat).words else Vector.replicate 16 allOnes64
    | none => Vector.replicate 16 allOnes64
  s.updSys (fun r => { r with lvBlock := b, lvChosen := true, lvStaged := w })

/-- APPLY of LV.RSEL (R80). -/
def State.applyRecord (s : State) : State :=
  let b := s.core.sys.lvBlock.toNat
  let w := s.core.sys.lvStaged
  match s.taskFront with
  | some (f, _) =>
    if f.applyOk b w then
      (s.updTaskFront (fun f => f.apply b w)).updSys (fun r => { r with lvRefused := false })
    else s.updSys (fun r => { r with lvRefused := true })
  | none => s.updSys (fun r => { r with lvRefused := true })

end Sys2Proof.Machine
end

