-- ==== Sys2Proof/Machine/Frontend.lean ====
section
/-! DEFINITION. The command front end: its accesses, descriptors and tables, and the acceptance of commands
(spec/02_describing_and_launching.md R17 to R36, R365, spec/04_time_levels.md R58 to R61). -/

namespace Sys2Proof.Machine

/-! ### Accesses of the front end (R365) -/

/-- Why an access of the front end does not end well: a refusal, or a missing page. -/
inductive FeFail where
  | bad
  | fault (level base : Nat) (va : Word)
deriving DecidableEq, Repr

/-- The front end as an accessor: a user-mode access of the context, from no core. -/
def feWho (ctx : Nat) : Who := ⟨2048, ctx, 0, 0, false, false⟩

/-- Reads of the front end in their order, with what they leave in the machine, or how they fail. -/
abbrev Fe (α : Type) := ExceptT FeFail (StateM State) α

/-- The reads made on a machine: their outcome, and the machine after them. -/
def feRun {α : Type} (m : Fe α) (s : State) : Except FeFail α × State := m.run.run s

/-- What an access from outside the clusters does before it takes effect: engines give up the lines they hold (R199), a first access to a
resident page holds or demotes it (R152), and an ownership is taken where the page or the access asks for one (R153, R274). -/
def State.reach (s : State) (ctx : Nat) (atomic : Bool) (cs : List Chunk) : State := (s.recall none cs).touch ctx atomic cs

/-- Where a read of the front end lands, through the context's translation tree. -/
def State.feSource (s : State) (ctx : Nat) (addr : Word) (n : Nat) : Except FeFail (List Chunk) :=
  if (aperture addr).kind ≠ 1 ∨ 2 ^ 56 < addr.toNat + n then .error .bad
  else
    match s.locate (feWho ctx) .feRead addr n with
    | .ok cs => .ok cs
    | .deny => .error .bad
    | .fault l b va => .error (.fault l b va)

/-- Bytes that the front end reads, with what the read leaves. -/
def State.feRead (s : State) (ctx : Nat) (addr : Word) (n : Nat) : Except FeFail (List Byte) × State :=
  match s.feSource ctx addr n with
  | .ok cs => (.ok ((s.reach ctx false cs).peekAll cs), s.reach ctx false cs)
  | .error e => (.error e, s)

/-- The same read among others. -/
def feRead (ctx : Nat) (addr : Word) (n : Nat) : Fe (List Byte) := ExceptT.mk (fun s => s.feRead ctx addr n)

/-- Where the front end writes. -/
def State.fePlace (s : State) (ctx : Nat) (addr : Word) (n : Nat) : Except FeFail (List Chunk) :=
  if (aperture addr).kind ≠ 1 ∨ 2 ^ 56 < addr.toNat + n then .error .bad
  else
    match s.locate (feWho ctx) .feWrite addr n with
    | .ok cs => .ok cs
    | .deny => .error .bad
    | .fault l b va => .error (.fault l b va)

/-- The front end writes the bytes that it computes from those that stand there: `atomic` where it adds to them (R333, R365). -/
def State.fePut (s : State) (ctx : Nat) (atomic : Bool) (cs : List Chunk) (f : List Byte → List Byte) : State :=
  (s.reach ctx atomic cs).pokeAll cs (f ((s.reach ctx atomic cs).peekAll cs))

/-- The front end's fault is reported with KIND 6 (R161, R365). -/
def State.feFault (s : State) (ctx level base : Nat) (va : Word) : State := s.recordFault ctx 0 0 .a 6 level base va

/-- `n` entries of a table, `size` bytes each. -/
def feTable (ctx : Nat) (addr : Word) (size : Nat) : Nat → Fe (List (List Byte))
  | 0 => pure []
  | n + 1 => do
    let bs ← feRead ctx addr size
    let rest ← feTable ctx (addr + .ofNat 64 size) size n
    pure (bs :: rest)

/-- A check at acceptance. -/
def need (b : Bool) : Fe Unit := if b then pure () else throw .bad

/-- Bytes that are all zero. -/
def zeros (bs : List Byte) (off n : Nat) : Bool := fieldAt bs off n == 0

/-! ### Kernel descriptors (R17 to R21) -/

/-- A scratchpad-map entry (R18). -/
def spEntry (bs : List Byte) : SpRegion := ⟨fieldAt bs 0 4, fieldAt bs 4 4, fieldAt bs 8 1, fieldAt bs 9 7 * 256⟩

def SpRegion.ok (r : SpRegion) (spBytes : Nat) : Bool :=
  r.offset % 64 == 0 && r.length % 64 == 0 && decide (r.init ≤ 2) && decide (r.offset + r.length ≤ spBytes)

/-- A save-map entry (R19). -/
def saveOk (e : Nat × Nat) (spBytes : Nat) : Bool := e.1 % 64 == 0 && e.2 % 64 == 0 && decide (e.1 + e.2 ≤ spBytes)

/-- A safe-point entry (R20). -/
def safeEntry (bs : List Byte) : SafeEntry :=
  let f := fun (o : Nat) => BitVec.ofNat 32 (fieldAt bs o 4)
  ⟨f 0, f 4, f 8, f 12, f 16⟩

/-- No bit of a mask at or above a count. -/
def below (m : BitVec 32) (n : Nat) : Bool := decide (m.toNat < 2 ^ n)

def SafeEntry.ok (e : SafeEntry) (nga ngc nf nm nv : Nat) : Bool :=
  decide (e.ga.toNat / 2 * 2 < 2 ^ nga) && decide (e.gc.toNat / 2 * 2 < 2 ^ ngc) && below e.f nf && below e.m nm && below e.v nv

/-- Reads and checks a kernel descriptor with its tables. -/
def readKernel (ctx : Nat) (addr : Word) : Fe Kernel := do
  need (addr.toNat % 64 == 0)
  let d ← feRead ctx addr 128
  let f := fieldAt d
  let word := fun (o : Nat) => BitVec.ofNat 64 (f o 8)
  need (f 0 4 == 0x4B440001 && decide (f 4 4 < 4) && f 8 8 % 2 == 0 && f 16 8 % 2 == 0)
  need (decide (1 ≤ f 24 1) && decide (f 24 1 ≤ 32) && decide (1 ≤ f 25 1) && decide (f 25 1 ≤ 32)
    && decide (f 26 1 ≤ 32) && decide (f 27 1 ≤ 24) && decide (f 28 1 ≤ 32))
  need (zeros d 29 3 && zeros d 0x29 7 && zeros d 0x58 40)
  need (f 0x20 4 % 64 == 0 && decide (f 0x20 4 ≤ Config.scratchBytes))
  need (decide (f 0x24 2 ≤ 512) && decide (f 0x26 1 ≤ 64) && decide (f 0x27 1 ≤ 16) && decide (f 0x28 1 ≤ 16))
  need (f 0x50 8 % 64 == 0)
  let sp ← feTable ctx (word 0x30) 16 (f 0x27 1)
  let sv ← feTable ctx (word 0x38) 8 (f 0x28 1)
  let st ← feTable ctx (word 0x40) 24 (f 0x24 2)
  let tn ← feTable ctx (word 0x48) 4 (f 0x26 1)
  let spMap := sp.map spEntry
  let saveMap := sv.map (fun e => (fieldAt e 0 4, fieldAt e 4 4))
  let safeTab := st.map safeEntry
  let tensors := tn.map (fun e => BitVec.ofNat 32 (fieldAt e 0 4))
  need (spMap.all (fun r => r.ok (f 0x20 4)) && saveMap.all (fun e => saveOk e (f 0x20 4)))
  need (safeTab.all (fun e => e.ok (f 24 1) (f 25 1) (f 26 1) (f 28 1) (f 27 1)) && st.all (fun e => zeros e 0x14 4))
  need (tensors.eraseDups.length == tensors.length)
  pure { noReplay := f 4 4 % 2 == 1, noPre := f 4 4 / 2 % 2 == 1, aEntry := word 8, cEntry := word 16,
         nga := f 24 1, ngc := f 25 1, nf := f 26 1, nv := f 27 1, nm := f 28 1, spBytes := f 0x20 4, spMap := spMap,
         saveMap := saveMap, safeTab := safeTab, tensors := tensors, statArea := word 0x50 }

/-! ### Team and front descriptors (R22, R23, R58 to R60) -/

/-- What a command's descriptor gives it. -/
structure Work0 where
  kernel : Option Kernel
  ntask  : Nat
  rectW  : Nat
  rectH  : Nat
  gang   : BitVec 8
  dom    : Nat
  percl  : Nat
  front  : Option Front

/-- A command that names no descriptor. -/
def Work0.none : Work0 := ⟨Option.none, 0, 0, 0, 0, 0, 1, Option.none⟩

/-- Reads and checks a team descriptor (R22). -/
def readTeam (ctx : Nat) (addr : Word) : Fe Work0 := do
  need (addr.toNat % 64 == 0)
  let d ← feRead ctx addr 64
  let f := fieldAt d
  need (f 0 4 == 0x54440001 && decide (1 ≤ f 4 2) && decide (f 4 2 ≤ 2048) && decide (f 6 1 ≤ 16) && decide (f 7 1 ≤ 16))
  need (decide (1 ≤ f 10 1) && decide (f 10 1 ≤ 8) && decide (f 8 1 < 2 ^ f 10 1) && decide (1 ≤ f 9 1) && decide (f 9 1 ≤ 4))
  need (zeros d 11 5 && zeros d 0x18 40)
  need (f 6 1 == 0 || f 7 1 == 0 || decide (f 4 2 ≤ f 6 1 * f 7 1 * f 10 1))
  let k ← readKernel ctx (.ofNat 64 (f 0x10 8))
  pure { kernel := some k, ntask := f 4 2, rectW := f 6 1, rectH := f 7 1, gang := .ofNat 8 (f 8 1), dom := f 9 1, percl := f 10 1,
         front := Option.none }

/-- The words of a record. -/
def recordWords (bs : List Byte) : Vector Word 16 := Vector.ofFn (fun i => .ofNat 64 (wordAt bs i.val))

/-- A rule-table entry (R59). -/
def ruleOf (bs : List Byte) : Rule :=
  ⟨Vector.ofFn (fun i => .ofNat 16 (fieldAt bs (2 * i.val) 2)), Vector.ofFn (fun i => .ofNat 8 (fieldAt bs (16 + i.val) 1))⟩

/-- The rule entries that the blocks name; the others are not read. -/
def readRules (ctx : Nat) (addr : Word) (used : List Nat) : Nat → Fe (List Rule)
  | 0 => pure []
  | n + 1 => do
    let rest ← readRules ctx addr used n
    if used.contains n then
      let bs ← feRead ctx (addr + .ofNat 64 (32 * n)) 32
      need (zeros bs 24 8)
      pure (rest ++ [ruleOf bs])
    else pure (rest ++ [⟨Vector.replicate 8 0, Vector.replicate 8 0xFF⟩])

/-- Home indices in use: the largest and one. -/
def homesOf (bs : List Block) : Nat := (bs.map (fun b => b.home + 1)).foldl max 0

/-- Reads and checks a front descriptor with its records, rules and entry pairs (R23, R58 to R60). -/
def readFront (ctx : Nat) (addr : Word) : Fe Work0 := do
  need (addr.toNat % 64 == 0)
  let d ← feRead ctx addr 64
  let f := fieldAt d
  let word := fun (o : Nat) => BitVec.ofNat 64 (f o 8)
  need (f 0 4 == 0x46440001 && decide (1 ≤ f 4 4) && decide (f 4 4 ≤ 65536) && decide (f 12 1 < 2) && f 13 1 != 0 && decide (f 14 2 ≤ 255))
  need (zeros d 0x30 16 && f 0x10 8 % 64 == 0)
  let k ← readKernel ctx (word 0x28)
  let recs ← feTable ctx (word 0x10) 128 (f 4 4)
  let ws := recs.map recordWords
  let blocks := ws.map blockOf
  let used := (blocks.map (fun b => b.rule)).eraseDups
  let rules ← readRules ctx (word 0x18) used ((used.foldl max 0) + 1)
  let pairs ← feTable ctx (word 0x20) 16 (f 14 2)
  let target : BitVec 32 := .ofNat 32 (f 8 4)
  let guarded := f 12 1 % 2 == 1
  let homes := homesOf blocks
  need (ws.all recordReserved && blocks.all (fun b => b.wellFormed blocks.length target))
  need (blocks.all (fun b => b.slotsOk (rules[b.rule]?.getD ⟨Vector.replicate 8 0, Vector.replicate 8 0xFF⟩) (f 14 2) guarded))
  need ((List.range homes).all (fun h => decide ((blocks.filter (fun b => b.home == h)).length ≤ 256)))
  let levels := blocks.map (fun b => b.level)
  pure { Work0.none with
    kernel := some k
    front := some
      { target := target, guarded := guarded, coreSet := .ofNat 8 (f 13 1),
        interp := pairs.map (fun p => (.ofNat 64 (fieldAt p 0 8), .ofNat 64 (fieldAt p 8 8))),
        rules := rules, rulesUsed := used,
        blocks := blocks.map (fun b => { b with state := if b.level = target then .done else .idle }),
        known := List.replicate homes levels, frozen := false, stalled := false, freezer := Option.none, abandons := 0 } }

/-! ### Command slots (R25) -/

/-- The fields of a slot. -/
structure Slot where
  seq    : BitVec 32
  op     : Nat
  flags  : Nat
  extra  : Nat
  nprod  : Nat
  spare  : Nat
  desc   : Word
  args   : Word
  done   : Word
  prods  : List Nat

def slotOf (bs : List Byte) : Slot :=
  let w := wordAt bs 0
  { seq := .ofNat 32 (w % 2 ^ 32), op := bitField w 32 8, flags := bitField w 40 8, extra := bitField w 48 8, nprod := bitField w 56 3,
    spare := bitField w 59 5, desc := .ofNat 64 (wordAt bs 1), args := .ofNat 64 (wordAt bs 2), done := .ofNat 64 (wordAt bs 3),
    prods := (List.range 4).map (fun i => wordAt bs (4 + i)) }

/-- The producers that the slot names. -/
def Slot.named (x : Slot) : List (Nat × BitVec 32) := (x.prods.take x.nprod).map (fun p => (bitField p 32 6, .ofNat 32 (p % 2 ^ 32)))

/-- The kind of a command. -/
def opOf (n : Nat) : CmdOp :=
  match n with
  | 0 => .nop
  | 1 => .launch
  | 2 => .front
  | _ => .marker

/-- The checks of R25 and R35 on the slot's own fields, with R365's alignment of DONEREC. R365 says that DONEREC is a kind-1 address and names
only a misaligned one as making a bad command: the model takes an address of another kind as a bad command too (log entry 68, DESIGN CHOICE). -/
def Slot.ok (x : Slot) (q : Nat) : Bool :=
  decide (x.op ≤ 3) && decide (x.flags < 16) && decide (x.nprod ≤ 4) && x.spare == 0
    && (x.prods.all (fun p => bitField p 38 26 == 0))
    && (x.flags % 2 == 0 || x.op == 1)
    && (x.flags / 2 % 2 == 0 || (x.done.toNat % 16 == 0 && (aperture x.done).kind == 1))
    && (x.named.all (fun p => p.1 != q || decide (sdiff p.2 x.seq < 0)))

/-- The descriptor of a command. -/
def readWork (ctx : Nat) (x : Slot) : Fe Work0 :=
  match opOf x.op with
  | .launch => readTeam ctx x.desc
  | .front => readFront ctx x.desc
  | _ => pure Work0.none

/-- A slot's command, with what its descriptor gave it (R31, R34, R344). -/
def Slot.command (x : Slot) (c : Context) (w : Work0) (set : List Nat) (phase : CmdPhase) (clock : Nat) : Command :=
  { seq := x.seq, op := opOf x.op, early := x.flags % 2 == 1, hostDone := x.flags / 2 % 2 == 1, irq := x.flags / 4 % 2 == 1,
    preempt := x.flags / 8 % 2 == 1, args := x.args, doneRec := x.done, prods := x.named, count := x.extra, seed := c.seed,
    ordMode := c.ordMode.toNat, kernel := w.kernel, ntask := w.ntask, rectW := w.rectW, rectH := w.rectH, gang := w.gang, dom := w.dom,
    percl := w.percl, front := w.front, phase := phase, clusters := [], held := [], teamMap := [], places := [], quads := [],
    trigs := [], first := none, firstAt := 0, wcounts := [], slot := none, placedAt := 0, saved := [], arrivals := [], stats := [],
    wasPlaced := false, accepted := clock, parked := false, claim := [], domSet := set }

/-! ### Notifying and reading slots (R26 to R28) -/

/-- The queue fetches slots: enabled and not stopped by a queue error (R29, R30). -/
def Queue.live (x : Queue) : Bool := x.en && !x.qerr

/-- NOTIFY_WRITE (R26, R28). -/
def execNotifyWrite (ctx q : Nat) (v : BitVec 32) (relaxed : Bool) (s : State) : Out :=
  let s1 := if relaxed then { s with dev := { s.dev with roCount := s.dev.roCount + 1 } } else s
  let x := s1.queueAt ctx q
  if !(s1.ctxAt ctx).en || !x.live || decide (sdiff v x.notify ≤ 0) then .next s1
  else if (2 ^ x.log2 : Int) ≤ sdiff v x.head then .next (s1.updQueue ctx q (fun x => { x with qerr := true, err := 2 }))
  else .next (s1.updQueue ctx q (fun x => { x with notify := v }))

/-- A slot is waiting to be read (R26), or one that has been read waits for its acceptance (R365); with both host ports down the device fetches
nothing (R348). A stopped queue accepts no slot either that it had read before it stopped (log entry 83, DESIGN CHOICE). -/
def State.slotDue (s : State) (ctx q : Nat) : Bool :=
  let x := s.queueAt ctx q
  s.dev.ready && s.hostUp && (s.ctxAt ctx).en && x.live && !x.parked && (x.fetched.isSome || decide (0 ≤ sdiff x.notify x.head))

/-- A stale read (R27): the slot is read again, up to 8 times. -/
def Queue.staleRead (x : Queue) : Queue :=
  match x.stale with
  | none => { x with stale := some 0 }
  | some n => if Config.staleReads ≤ n + 1 then { x with qerr := true, err := 1, stale := none } else { x with stale := some (n + 1) }

/-- The producer stands in a disabled queue and is not behind that queue's completion point (R35). -/
def Queue.closedTo (x : Queue) (seq : BitVec 32) : Bool := !x.en && decide (0 ≤ sdiff seq x.point)

/-- The phase in which a well-formed command is accepted (R32, R35): a producer that has failed, or one of a disabled queue that is not behind
its completion point, cancels it. -/
def State.firstPhase (s : State) (ctx : Nat) (c : Command) : CmdPhase :=
  if (s.producers ctx c).any (fun p => p == .failed) || c.prods.any (fun p => (s.queueAt ctx p.1).closedTo p.2) then .ending .cancelled
  else if c.op = .nop then .ending .ok
  else .accepted

/-- The registered set of a context as memory holds it: one bit per device (R352, R355). -/
def readSet (ctx : Nat) : Fe (List Nat) := do
  let s ← get
  need (s.ctxAt ctx).domValid
  let bs ← feRead ctx (s.ctxAt ctx).domBase 128
  let set := (List.range 1024).filter (fun d => ((bs[d / 8]?).getD 0).toNat.testBit (d % 8))
  need (set.contains s.dev.domNum.toNat)
  pure set

/-- What the acceptance of a slot reads: the descriptor with its tables, and the device set of a level-4 launch (R355). -/
def readAll (ctx : Nat) (x : Slot) : Fe (Work0 × Option (List Nat)) := do
  let w ← readWork ctx x
  if w.dom = 4 then
    let set ← readSet ctx
    pure (w, some set)
  else pure (w, none)

/-- A current slot has been fetched: the head moves on (R24), and the slot's fields are those of this read (R27). -/
def Queue.take (x : Queue) (bs : List Byte) : Queue := { x with head := x.head + 1, stale := none, fetched := some bs }

/-- A command enters its queue; its place in time is kept (R33). -/
def State.enterCmd (s : State) (ctx q : Nat) (cmd : Command) : State :=
  let s1 := s.updQueue ctx q (fun y => { y with fetched := none, cmds := y.cmds ++ [cmd] })
  { s1 with dev := { s1.dev with clock := s1.dev.clock + 1 } }

/-- A fetched slot is accepted, or its command is a bad one, or a read of its descriptor parks (R25, R31, R355, R365). -/
def State.acceptSlot (s : State) (ctx q : Nat) (x : Slot) : State :=
  let c := s.ctxAt ctx
  let bad := x.command c Work0.none [] (.ending .bad) s.dev.clock
  if !x.ok q then s.enterCmd ctx q bad
  else
    match feRun (readAll ctx x) s with
    | (.error .bad, s0) => s0.enterCmd ctx q bad
    | (.error (.fault l b va), s0) => (s0.feFault ctx l b va).updQueue ctx q (fun y => { y with parked := true })
    | (.ok (w, set), s0) =>
      let cmd := x.command c w (set.getD []) .accepted s.dev.clock
      let s1 := match set with
        | some ds => s0.updCtx ctx (fun c => { c with domSet := ds })
        | none => s0
      s1.enterCmd ctx q { cmd with phase := s1.firstPhase ctx cmd }

end Sys2Proof.Machine
end

