-- ==== Sys2Proof/Machine/System.lean ====
section
/-! DEFINITION. The system and trap instructions of major 13 and every system register
(spec/21_system_instructions.md R322 to R331, with the layouts of the chapters that R325 names). -/

namespace Sys2Proof.Machine

/-! ### Replay (R163) -/

def LongOp.retry (op : LongOp) : LongOp :=
  match op.status with
  | .parked _ => { op with status := .running }
  | _ => op

def Stream.retry (st : Stream) : Stream :=
  { st with
    flight := st.flight.map LongOp.retry
    wait := match st.wait with
      | some (.parked _) => none
      | w => w }

/-- Every parked access of a core retries. -/
def Core.retry (k : Core) : Core :=
  { k with a := k.a.retry, c := k.c.retry, pending := k.pending.map (fun r => { r with parked := false }) }

def Job.retry (j : Job) : Job :=
  match j.state with
  | .parked _ _ => { j with state := .running }
  | _ => j

/-- A replay-all (R163): every pending-fault record is cleared, and every parked access retries. -/
def State.replayAll (s : State) : State :=
  { s with
    core := s.core.retry
    cores := s.cores.map Core.retry
    clusters := s.clusters.map (fun c => { c with faults := [], jobs := c.jobs.map Job.retry })
    contexts := s.contexts.map (fun c =>
      { c with queues := c.queues.map (fun x =>
          (x.1, { x.2 with parked := false, cmds := x.2.cmds.map (fun y => { y with parked := false }) })) })
    dev := { s.dev with feFaults := [] } }

/-- A write of FB.HEAD (R162): ignored when it would move backwards or past TAIL. -/
def State.writeFbHead (s : State) (v : BitVec 4) : State :=
  if (v - s.dev.fbHead).toNat ≤ (s.dev.fbTail - s.dev.fbHead).toNat then { s with dev := { s.dev with fbHead := v } } else s

/-! ### Reading (R323, R325) -/

/-- Registers that are not accessible in user mode (R325). -/
def sysPriv (i : Nat) : Bool :=
  (decide (0x020 ≤ i) && decide (i ≤ 0x025)) || i == 0x027 || i == 0x036 || i == 0x037 || i == 0x050 || i == 0x051
    || (decide (0x060 ≤ i) && decide (i ≤ 0x065))

def w64nat (v : Nat) : Word := .ofNat 64 v

/-- AOT.DATA of an entry (R233). -/
def AotEntry.word (e : AotEntry) (w : Nat) : Word :=
  match w with
  | 0 =>
    let st := match e.state with
      | .free => 0
      | .owned => 1
      | .pinned => 2
      | .spilled => 3
    w64nat (st + (if e.held then 4 else 0) + e.count % 64 * 2 ^ 8 + e.first % 32 * 2 ^ 16 + e.owner % 65536 * 2 ^ 32)
  | 1 => w64nat (e.key.toNat + e.tokens.toNat * 2 ^ 32)
  | 2 => e.spill
  | _ => 0

/-- LV.FRONT (R70). -/
def State.lvFront (s : State) (f : Front) : Word :=
  match s.core.task with
  | some t => w64nat (t.seq.toNat + t.queue % 64 * 2 ^ 32 + (if f.guarded then 2 ^ 48 else 0) + (if f.frozen then 2 ^ 49 else 0)
      + (if f.stalled then 2 ^ 50 else 0))
  | none => 0

/-- A register of the level engine; zero outside update and stall tasks (R70, R80). -/
def State.readLevelReg (s : State) (i : Nat) : Word :=
  match s.taskFront, s.core.task with
  | some (f, b), some t =>
    let me := f.block b
    let r := s.core.sys
    match i with
    | 0x030 => w64nat b
    | 0x031 => t.level.zeroExtend 64
    | 0x032 => w64nat (t.step.toNat + me.next.toNat * 65536)
    | 0x033 => s.lvFront f
    | 0x034 => (lowestLevel (f.known[me.home]?.getD [])).zeroExtend 64
    | 0x035 => (highestLevel (f.known[me.home]?.getD [])).zeroExtend 64
    | 0x036 => if s.editsLevels then
        w64nat (r.lvBlock.toNat + r.lvWord.toNat * 65536 + (if r.lvRefused then 2 ^ 31 else 0)) else 0
    | _ => if s.editsLevels then (r.lvStaged[r.lvWord.toNat]?).getD 0 else 0
  | _, _ => 0

/-- A counter (R326, R267). -/
def State.readCounter (s : State) (i : Nat) : Word :=
  let r := s.core.sys
  match i with
  | 0x100 => s.dev.cycle
  | 0x101 => r.cntIssA
  | 0x102 => r.cntIssC
  | 0x110 => w64nat ((s.taskFront.map (fun x => x.1.abandons)).getD 0)
  | 0x111 => r.cntLayout
  | 0x112 => r.cntFeOver
  | _ => w64nat (s.unack s.core % 65536)

/-- A task's place and domain registers (R46, R48, R50, R52). -/
def State.readPlace (s : State) (i : Nat) : Word :=
  let r := s.core.sys
  let t := fun (f : Task → Nat) => w64nat ((s.core.task.map f).getD 0)
  match i with
  | 0x000 => t (·.lid)
  | 0x001 => w64nat s.core.pid
  | 0x002 => t (·.size)
  | 0x003 => r.gangMask.zeroExtend 64
  | 0x004 => w64nat s.clCount
  | 0x005 => t (·.clIndex)
  | 0x008 => w64nat (r.domLevel.toNat + r.domMembers.toNat * 65536)
  | _ => w64nat (r.domGen[0].toNat + r.domGen[1].toNat * 2 ^ 16 + r.domGen[2].toNat * 2 ^ 32 + r.domGen[3].toNat * 2 ^ 48)

/-- A register of the numeric state (R164 to R169, R255). -/
def State.readNumeric (s : State) (i : Nat) : Word :=
  let r := s.core.sys
  match i with
  | 0x010 => boolWord r.fslm
  | 0x011 => w64nat (r.frm.toNat + r.frmFsl.toNat * 64)
  | 0x012 => r.fflags.zeroExtend 64
  | 0x013 => r.qfxScale.zeroExtend 64
  | 0x014 => r.tensorId.zeroExtend 64
  | 0x015 => r.seed
  | 0x040 => r.pivThr
  | 0x041 => r.pivDelta
  | _ => r.pivCount.zeroExtend 64

/-- A trap register (R308). -/
def State.readTrap (s : State) (i : Nat) : Word :=
  let r := s.core.sys
  match i with
  | 0x020 => r.trapCause.zeroExtend 64
  | 0x021 => r.trapVal
  | 0x022 => r.trapPc
  | 0x023 => r.trapStream.zeroExtend 64
  | 0x024 => r.trapVec
  | 0x025 => r.trapSave
  | 0x026 => w64nat (s.cur.progIndex % 2 ^ 32)
  | 0x027 => boolWord r.preReq
  | _ => s.cur.safeId.zeroExtend 64

/-- A fault-buffer register (R161, R162); FB.REPLAY is write-only. -/
def State.readFault (s : State) (i : Nat) : Word :=
  let d := s.dev
  let slot := (d.fbSlots[d.fbHead.toNat % 8]?).getD 0
  match i with
  | 0x060 => d.fbHead.zeroExtend 64
  | 0x061 => d.fbTail.zeroExtend 64
  | 0x062 => w64nat ((if d.fbFlag then 1 else 0) + d.fbDropped.toNat * 2 ^ 32)
  | 0x063 => 0
  | 0x064 => slot.truncate 64
  | _ => (slot >>> 64).truncate 64

/-- EVT (R55). -/
def State.readEvt (s : State) : Word :=
  let r := s.core.sys
  w64nat ((if r.evtMoved then 1 else 0) + (if r.evtTopo then 2 else 0) + r.evtTopoGen.toNat * 2 ^ 32)

/-- The value of a system register as the issuing stream reads it (R323, R325). -/
def State.readSys (s : State) (i : Nat) : Word :=
  if i ≤ 0x009 then s.readPlace i
  else if i ≤ 0x015 then s.readNumeric i
  else if i ≤ 0x028 then s.readTrap i
  else if i ≤ 0x037 then s.readLevelReg i
  else if i ≤ 0x042 then s.readNumeric i
  else if i = 0x050 then w64nat (s.core.sys.aotTile.toNat + s.core.sys.aotWord.toNat * 64)
  else if i = 0x051 then (s.core.getAot s.core.sys.aotTile.toNat).word s.core.sys.aotWord.toNat
  else if i ≤ 0x065 then s.readFault i
  else if i = 0x080 then s.readEvt
  else s.readCounter i

/-- A handler finds TRAP.SAVE as its own beginning leaves it (R89, R310). -/
def State.begun (s : State) : State :=
  if s.cur.mode = .sup then s.beginHandler else s

/-- sysrd (R323): the counts of issues do not yet count it (log entry 36). -/
def execSysrd (d : BitVec 5) (imm : BitVec 9) (s : State) : Out :=
  issue { instr := .sysrd d imm, streams := .both, priv := sysPriv imm.toNat, uses := gRegs d } s fun s1 =>
    .done (s1.setG d (s.begun.readSys imm.toNat))

/-! ### Writing (R324, R325) -/

/-- syswr of a numeric register. -/
def SysRegs.writeNumeric (r : SysRegs) (i : Nat) (v : Word) : SysRegs :=
  match i with
  | 0x010 => { r with fslm := v.getLsbD 0 }
  | 0x011 => { r with frm := v.truncate 3, frmFsl := (v >>> 6).truncate 2 }
  | 0x012 => { r with fflags := v.truncate 6 }
  | 0x013 => { r with qfxScale := v.truncate 6 }
  | 0x014 => { r with tensorId := v.truncate 32 }
  | 0x040 => { r with pivThr := v }
  | 0x041 => { r with pivDelta := v }
  | 0x042 => { r with pivCount := v.truncate 32 }
  | _ => r

/-- An address register whose bit 0 is ignored (R324). -/
def evenWord (v : Word) : Word := .ofNat 64 (v.toNat / 2 * 2)

/-- syswr of LV.RSEL (R80): the selection, the staging it causes, then APPLY. -/
def State.writeRsel (s : State) (v : Word) : State :=
  let b : BitVec 16 := v.truncate 16
  let s1 := if b ≠ s.core.sys.lvBlock ∨ !s.core.sys.lvChosen then s.stageRecord b else s
  let s2 := s1.updSys (fun r => { r with lvWord := (v >>> 16).truncate 4 })
  if v.getLsbD 20 then s2.applyRecord else s2

/-- The registers that have an effect of their own when supervisor software writes them (R324). -/
def State.writeSup (s : State) (i : Nat) (v : Word) : State :=
  match i with
  | 0x015 => match s.core.task with
    | some t => s.updCtx t.ctx (fun c => { c with seed := v })
    | none => s
  | 0x022 => s.updSys (fun r => { r with trapPc := evenWord v })
  | 0x024 => s.updSys (fun r => { r with trapVec := evenWord v })
  | 0x025 => s.updSys (fun r => { r with trapSave := evenWord v })
  | 0x036 => if s.editsLevels then s.writeRsel v else s
  | 0x037 => if s.editsLevels then
      s.updSys (fun r => { r with lvStaged := r.lvStaged.setIfInBounds r.lvWord.toNat v }) else s
  | 0x050 => s.updSys (fun r => { r with aotWord := (v >>> 6).truncate 2, aotTile := v.truncate 5 })
  | 0x060 => s.writeFbHead (v.truncate 4)
  | 0x062 => if v.getLsbD 0 then { s with dev := { s.dev with fbFlag := false } } else s
  | 0x063 => if v.getLsbD 0 then s.replayAll else s
  | 0x101 => s.updSys (fun r => { r with cntIssA := v + boolWord (s.core.sel == .a) })
  | 0x102 => s.updSys (fun r => { r with cntIssC := v + boolWord (s.core.sel == .c) })
  | 0x111 => s.updSys (fun r => { r with cntLayout := v })
  | 0x112 => s.updSys (fun r => { r with cntFeOver := v })
  | _ => s

/-- A joint instruction of the core is executing (R48), also one that waits for its gang or has parked: one that has trapped, or that a handler finds
stopped, is not. -/
def Core.jointRunning (k : Core) : Bool :=
  k.c.flight.any (fun op => op.joint && (op.status == .running || op.status == .gang || op.parks) && !k.freezes op)

/-- What a write of a system register does (R324). -/
def State.writeSys (s : State) (i : Nat) (v : Word) : State :=
  if i = 0x003 then s.updSys (fun r => { r with gangMask := v.truncate 8 })
  else if i = 0x080 then
    s.updSys (fun r => { r with evtMoved := r.evtMoved && !v.getLsbD 0, evtTopo := r.evtTopo && !v.getLsbD 1 })
  else if (0x010 ≤ i ∧ i ≤ 0x014) ∨ (0x040 ≤ i ∧ i ≤ 0x042) then s.updSys (fun r => r.writeNumeric i v)
  else if s.cur.mode = .sup then s.writeSup i v
  else s

/-- syswr (R324): reserved rounding modes trap (R165), a gang mask waits for the core's joint instruction (R48),
a replay-all for what fence.rel.sys waits for (R331). -/
def execSyswr (a : BitVec 5) (imm : BitVec 9) (s : State) : Out :=
  let i : Instr := .syswr a imm
  issue { instr := i, streams := .both, priv := sysPriv imm.toNat, uses := gRegs a } s fun s1 =>
    let v := s1.g a
    if imm = 0x011 ∧ 5 ≤ v.toNat % 8 then .trap 0x01 ((encode i).zeroExtend 64)
    else if imm = 0x003 ∧ s1.core.jointRunning then .wait .unit
    else if imm = 0x063 ∧ v.getLsbD 0 ∧ !s.released 4 then .wait (.release 4)
    else .done (s1.writeSys imm.toNat v)

/-! ### Traps, ends and safe points (R327 to R330) -/

/-- An instruction that completes and then traps (R327). -/
def callSup (i : Instr) (cause : Nat) (code : BitVec 9) (s : State) : Out :=
  issue { instr := i, streams := .both } s fun s1 =>
    if s.quiet then .after s1 cause (code.zeroExtend 64) else .wait .drain

/-- svc (R327). -/
def execSvc (imm : BitVec 9) (s : State) : Out := callSup (.svc imm) 0x10 imm s

/-- trap (R327). -/
def execTrap (imm : BitVec 9) (s : State) : Out := callSup (.trap imm) 0x11 imm s

/-- A handler ends its task (R319); a stall task ends (R67). -/
def State.endFromHandler (s : State) : State := s.endTask (some s.core.sys.trapCause.toNat)

/-- tret (R328): in a stall task it acts as exit. -/
def execTret (s : State) : Out :=
  issue { instr := .tret, streams := .both, priv := true } s fun s1 =>
    if s.isStall then .done s1.endFromHandler else .done s1.returnFromTrap

/-- A synchronising load of the issuing stream can complete: its words are full, and nothing that stands still holds it back (R195, R329). -/
def State.syncDue (s : State) : Bool :=
  s.cur.flight.any (fun op => s.syncReady op && !s.held s.core s.core.sel op)

/-- exit (R329): in user mode it waits until the stream's long instructions have completed or stopped; in supervisor mode it kills the task. -/
def execExit (s : State) : Out :=
  issue { instr := .exit, streams := .both,
          illegal := s.cur.mode == .user && (s.cur.interp || s.cur.drain.isSome) } s fun s1 =>
    if s.cur.mode = .sup then .done s1.endFromHandler
    else if !s.quiet || s.syncDue then .wait .depend
    else .done (s1.updCur (fun st => { st with exited := true })).settleEnd

/-- nop (R330). -/
def execNop (s : State) : Out := issue { instr := .nop, streams := .both } s fun s1 => .done s1

/-- NSAFE of the running kernel (R17). -/
def State.nsafe (s : State) : Nat :=
  match s.core.task with
  | some t => t.kernel.safeTab.length
  | none => 0

/-- safept (R330): SAFE.ID; then, in user mode, a cancelled task stops (R39), a topology change traps (R56), a pending pre-emption stops the
stream at the next instruction (R100); one that meets the trap stops it once the trap's handler has returned (R328). -/
def execSafept (imm : BitVec 9) (s : State) : Out :=
  issue { instr := .safept imm, streams := .both, illegal := decide (s.nsafe ≤ imm.toNat) } s fun s1 =>
    let s2 := s1.updCur (fun st => { st with safeId := imm })
    if s.cur.mode = .sup then .done s2
    else if s.cancelling then .done (s2.updCur (fun st => { st with exited := true })).settleEnd
    else if (s.core.task.map (·.topoDue)).getD false then
      let s3 := s2.updCur (fun st => { st with stopDue := s.core.sys.preReq })
      if s.quiet then .after (s3.updTask (fun t => { t with topoDue := false })) 0x15 (w64nat s.clCount) else .wait .drain
    else if s.core.sys.preReq then .done (s2.updCur (fun st => { st with stopped := some .safept }))
    else .done s2

end Sys2Proof.Machine
end

