-- ==== Sys2Proof/Machine/Groups.lean ====
section
/-! DEFINITION. Accumulator tiles, their ownership, groups and spill records
(spec/12_matrix_instructions.md R226, R228, R233 to R238). -/

namespace Sys2Proof.Machine

/-! ### Tiles -/

/-- A raw tile takes a tag: it reads as zeros in every instruction (R228). -/
def Tile.withTag (t : Tile) (g : TileTag) : Tile := if t.tag = .raw then ⟨g, Vector.replicate 256 0⟩ else t

/-- The 1,024 bytes of a tile, row-major; a raw tile reads as zeros (R228, R237). -/
def Tile.bytes (t : Tile) : List Byte :=
  if t.tag = .raw then List.replicate 1024 0 else t.elems.toList.flatMap (fun e => natBytes e.toNat 4)

/-- A run of AOT entries changed. -/
def Core.mapAot (k : Core) (first n : Nat) (f : AotEntry → AotEntry) : Core :=
  (List.range n).foldl (fun k t => k.setAot (first + t) (f (k.getAot (first + t)))) k

/-- A run of tiles made FREE. -/
def Core.freeTiles (k : Core) (first n : Nat) : Core :=
  (List.range n).foldl (fun k t => (k.setAot (first + t) .free).setTile (first + t) .zero) k

/-! ### Spilling and filling (R237, R238) -/

/-- How a spill, a fill or a lookup of a group ends. A fault names the group's context and the core that holds the tiles (R237). -/
inductive GroupRes where
  | ok (s : State) (v : Word)
  | trap (s : State) (cause : Nat) (val : Word)
  | fault (s : State) (ctx pid kind level base : Nat) (va : Word)
  /-- A replay holds the group's record back until its turn (R346): the record's address and length. -/
  | held (addr : Word) (n : Nat)

/-- The tag of a group's tiles: raw ones count for nothing (R236). -/
def groupTag (k : Core) (first n : Nat) : TileTag :=
  ((List.range n).findSome? (fun t => match (k.getTile (first + t)).tag with
    | .raw => none
    | g => some g)).getD .fp32

/-- The record of a group (R237). -/
def spillRecord (k : Core) (first : Nat) : List Byte :=
  let e := k.getAot first
  let data := (List.range e.count).flatMap (fun t => (k.getTile (first + t)).bytes)
  natBytes 0x4B5A4650 4 ++ natBytes e.key.toNat 4 ++ natBytes e.owner 2 ++ natBytes ((groupTag k first e.count).fmt).toNat 2
    ++ natBytes e.count 1 ++ natBytes first 1 ++ natBytes 0 2 ++ natBytes e.tokens.toNat 4 ++ natBytes (crc32c data) 4
    ++ List.replicate 40 0 ++ data

/-- The request of a spill or a fill that an instruction of the current core makes, as the home slices of the record see it (R238, R345). -/
def State.groupServed (s : State) : Served0 := s.core.served0 (s.core.who (s.core.c.mode == .sup)) .c s.core.c.ordinal

/-- A replay lets such a record be read or written (R346). -/
def State.recordLets (s : State) (own : Bool) (addr : Word) (cs : List Chunk) : Bool := !own || s.logLets .home s.groupServed addr cs

/-- It has been read or written (R345): one access of the C-stream. -/
def State.recordServed (s : State) (own : Bool) (addr : Word) (cs : List Chunk) : State :=
  if own then
    let s1 := s.logServed .home s.groupServed addr cs
    { s1 with core := { s1.core with c := { s1.core.c with ordinal := s1.core.c.ordinal + 1 } } }
  else s

/-- Lines of a record into which poisoned tiles of its group have been written (R336). -/
def State.badLines (s : State) (pid first : Nat) : List PoisonUnit :=
  if s.dev.poison.isEmpty then []
  else
    let e := (s.coreAt pid).getAot first
    ((List.range e.count).filter (fun t => s.dev.poison.contains (.tile pid (first + t)))).flatMap (fun t =>
      match s.locate (recordWho pid e.owner) .engWrite (e.spill + .ofNat 64 (64 + 1024 * t)) 1024 with
      | .ok cs => cs.flatMap Chunk.units
      | _ => [])

/-- Writes a PINNED group out; it is SPILLED once its record is complete (R237). `own` is whether an instruction of the current core causes it,
whose access the order log then names; a save, a placement and a resumption are no accesses of a stream (log entry 42). -/
def State.spillGroup (s : State) (pid first : Nat) (own : Bool) : GroupRes :=
  let k := s.coreAt pid
  let e := k.getAot first
  let w := recordWho pid e.owner
  let bytes := spillRecord k first
  match s.locate w .engWrite e.spill bytes.length with
  | .deny => .trap s 0x07 e.spill
  | .fault l b va => .fault s e.owner pid 5 l b va
  | .ok cs =>
    if !s.recordLets own e.spill cs then .held e.spill bytes.length
    else
      let s1 := ((((s.recall none cs).touch e.owner false cs).pokeAll cs bytes).poisonUnits (s.badLines pid first)).recordServed own e.spill cs
      let s2 := s1.updCore pid (fun k => k.mapAot first e.count (fun x => { x with state := .spilled }))
      .ok (s2.updPin e.owner e.key (fun p => { p with state := .spilled, tokens := e.tokens })) 0

/-- Reads a record into a run of tiles of a core: they become PINNED (R238). -/
def State.fillGroup (s : State) (pid first : Nat) (ctx : Nat) (p : PinKey) (held own : Bool) : GroupRes :=
  match s.locate (recordWho pid ctx) .engRead p.spill (64 + 1024 * p.count) with
  | .deny => .trap s 0x07 p.spill
  | .fault l b va => .fault s ctx pid 4 l b va
  | .ok cs =>
    if !s.recordLets own p.spill cs then .held p.spill (64 + 1024 * p.count) else
    let s0 := s.recall none cs
    if (s0.poisoned cs).isSome then .trap s 0x12 p.spill else
    match ((s0.touch ctx false cs).recordServed own p.spill cs).takeRecord pid first ctx p held (s0.peekAll cs) with
    | some s1 => .ok s1 0
    | none => .trap s 0x0A p.spill

/-- Fills the SPILLED group that stands on a core, for an instruction of the current core. -/
def State.fillHere (s : State) (pid first : Nat) : GroupRes :=
  let e := (s.coreAt pid).getAot first
  match (s.ctxAt e.owner).pin e.key with
  | some p => s.fillGroup pid first e.owner p e.held true
  | none => .trap s 0x0A e.spill

/-! ### Ownership (R235) -/

/-- TRAP.VAL of cause 0x09 (R235). -/
def tileVal (key : BitVec 32) (reason tile : Nat) : Word := .ofNat 64 (tile % 256 + reason * 256 + key.toNat * 2 ^ 32)

/-- The context of the running task. -/
def State.taskCtx (s : State) : Nat := (s.core.task.map (·.ctx)).getD 0

/-- A tile belongs to another context. -/
def State.tileForeign (s : State) (t : Nat) : Bool :=
  let e := s.core.getAot t
  e.state != .free && e.owner != s.taskCtx

/-- A FREE tile becomes OWNED by the running context, raw (R235). -/
def State.claimTile (s : State) (t : Nat) : State :=
  if (s.core.getAot t).state = .free then
    { s with core := (s.core.setAot t { AotEntry.free with state := .owned, owner := s.taskCtx, first := t }).setTile t .zero }
  else s

/-- The check of a tile at the issue of an instruction that uses it (R235): a fill is left for later (R364). -/
def State.checkTile (s : State) (t : Nat) : GroupRes :=
  if s.tileForeign t then .trap s 0x09 (tileVal 0 1 t) else .ok (s.claimTile t) 0

/-- The tile is made ready for use (R235): a SPILLED one is filled first. -/
def State.useTile (s : State) (t : Nat) : GroupRes :=
  let e := s.core.getAot t
  if s.tileForeign t then .trap s 0x09 (tileVal 0 1 t)
  else if e.state = .spilled then s.fillHere s.core.pid e.first
  else .ok (s.claimTile t) 0

/-- md is the first tile of a group of the context (R236); the reason it is not. -/
def State.groupFault (s : State) (md : Nat) : Option Nat :=
  let e := s.core.getAot md
  if s.tileForeign md then some 1
  else if (e.state == .pinned || e.state == .spilled) && e.first == md then none
  else some 2

/-- Tiles of the group that stands at md, for a destination set (R86, R236). -/
def State.groupRegs (s : State) (md : Nat) : List Reg :=
  match s.groupFault md with
  | none => (List.range (s.core.getAot md).count).map (fun t => Reg.m (md + t))
  | some _ => [.m md]

/-! ### Taking a group by its key (R238) -/

/-- A group loses its entries on a core; the directory then records it as SPILLED on no core (R234). -/
def State.clearGroup (s : State) (pid : Nat) (e : AotEntry) : State :=
  (s.updCore pid (fun k => k.freeTiles e.first e.count)).updPin e.owner e.key
    (fun p => if p.core = some pid then { p with core := none, state := .spilled } else p)

/-- Spills what stands PINNED in the groups that meet a run of tiles, and clears their entries (R234, R238). A placement goes on past a spill that is
refused, and the record stays as memory holds it (`lax`; log entry 45). -/
def State.evictRun (s : State) (pid first : Nat) (own lax : Bool) : Nat → GroupRes
  | 0 => .ok s 0
  | n + 1 =>
    let e := (s.coreAt pid).getAot first
    match e.state with
    | .pinned =>
      match s.spillGroup pid e.first own with
      | .ok s1 _ => (s1.clearGroup pid e).evictRun pid (first + 1) own lax n
      | .trap s1 c v => if lax then (s.clearGroup pid e).evictRun pid (first + 1) own lax n else .trap s1 c v
      | r => r
    | .spilled => (s.clearGroup pid e).evictRun pid (first + 1) own lax n
    | _ => s.evictRun pid (first + 1) own lax n

/-- The highest run of `c` FREE tiles at or above NM, from a start downwards (R238). -/
def freeRun (k : Core) (c nm : Nat) : Nat → Option Nat
  | 0 => none
  | f + 1 =>
    if f < nm then none
    else if (List.range c).all (fun t => (k.getAot (f + t)).state == .free) then some f
    else freeRun k c nm f

/-- The run that takes a group of `c` tiles on a core: its first tile and whether groups there are spilled first (R238). -/
def groupRun (k : Core) (c nm : Nat) : Option (Nat × Bool) :=
  match freeRun k c nm (33 - c) with
  | some f => some (f, false)
  | none =>
    if nm ≤ 32 - c ∧ (List.range c).all (fun t => !(k.getAot (32 - c + t)).held) then some (32 - c, true) else none

/-- The group of a key stands on the core that its directory entry names: it is held there from now on. -/
def State.holdGroup (s : State) (pid first : Nat) (ctx : Nat) (key : BitVec 32) : State :=
  let c := ((s.coreAt pid).getAot first).count
  (s.updCore pid (fun k => k.mapAot first c (fun e => { e with held := true }))).updPin ctx key
    (fun p => { p with held := some pid })

/-- mown's lookup (R238): the value that gd takes. -/
def State.ownGroup (s : State) (key : BitVec 32) : GroupRes :=
  let pid := s.core.pid
  let ctx := s.taskCtx
  let nm := (s.core.task.map (·.kernel.nm)).getD 0
  match (s.ctxAt ctx).pin key with
  | none => .ok s allOnes64
  | some p =>
    if (match p.held with
        | some h => h != pid
        | none => false) then .ok s allOnes64
    else if p.core = some pid then
      match p.state with
      | .spilled =>
        match s.fillGroup pid p.first ctx p true true with
        | .ok s1 _ => .ok (s1.holdGroup pid p.first ctx key) (.ofNat 64 p.first)
        | r => r
      | _ => .ok (s.holdGroup pid p.first ctx key) (.ofNat 64 p.first)
    else
      match groupRun s.core p.count nm with
      | none => .ok s allOnes64
      | some (run, evict) =>
        match (if evict then s.evictRun pid run true false p.count else .ok s 0) with
        | .trap s1 c v => .trap s1 c v
        | .fault s1 z a b c d e => .fault s1 z a b c d e
        | .held a n => .held a n
        | .ok s1 _ =>
          let away := match p.core with
            | none => GroupRes.ok s1 0
            | some old =>
              let done := fun (x : State) => (x.updCore old (fun k => k.freeTiles p.first p.count)).updPin ctx key
                (fun p => { p with core := none, state := .spilled })
              if p.state = AotState.pinned then
                match s1.spillGroup old p.first true with
                | .ok s2 _ => .ok (done s2) 0
                | r => r
              else .ok (done s1) 0
          match away with
          | .trap s2 c v => .trap s2 c v
          | .fault s2 z a b c d e => .fault s2 z a b c d e
          | .held a n => .held a n
          | .ok s2 _ =>
            match s2.fillGroup pid run ctx p true true with
            | .ok s3 _ => .ok s3 (.ofNat 64 run)
            | r => r

/-! ### Preparing tiles at placement (R234) -/

/-- Every tile below NM is prepared for a task of a context: groups that have a tile there are spilled and cleared, then the tiles are OWNED and raw;
the others are left as they are. -/
def State.prepareTiles (s : State) (pid nm ctx : Nat) : GroupRes :=
  match s.evictRun pid 0 false true nm with
  | .ok s1 _ =>
    .ok (s1.updCore pid (fun k => (List.range nm).foldl (fun k t =>
      (k.setAot t { AotEntry.free with state := .owned, owner := ctx, first := t }).setTile t .zero) k)) 0
  | r => r

end Sys2Proof.Machine
end

