-- ==== Sys2Proof/Machine/Matrix.lean ====
section
/-! DEFINITION. The matrix, accumulator and fast-weight instructions as they issue
(spec/12_matrix_instructions.md R222 to R243, spec/06_encoding.md R120, R121). -/

namespace Sys2Proof.Machine

/-! ### Scratchpad operands (R225) -/

/-- The fields of a pair. -/
def pairOf (lo hi : Word) : Pair :=
  let h := hi.toNat
  ⟨lo.toNat % 2 ^ 19, bitField h 36 6, bitField h 32 4, bitField h 16 16, bitField h 0 16, bitField h 42 1 == 1⟩

/-- A pair as an instruction reads it: its two registers and its use. -/
structure PairRead where
  lo  : Word
  hi  : Word
  use : PairUse

def PairRead.pair (x : PairRead) : Pair := pairOf x.lo x.hi

/-- A field out of its range (R225): the register at fault. -/
def PairRead.badField (x : PairRead) : Option Word :=
  let p := x.pair
  if 2 ^ 19 ≤ x.lo.toNat then some x.lo
  else if 2 ^ 43 ≤ x.hi.toNat ∨ 2 < p.lay ∨ (p.itag ∧ x.use ≠ .load) ∨ 64 < x.use.rowBytes p ∨ p.rpitch < x.use.rowBytes p then
    some x.hi
  else none

/-- A byte at or above 0x6_0000 (R225). -/
def PairRead.badBound (x : PairRead) : Option Word :=
  let p := x.pair
  if (List.range 16).any (fun r => (List.range (x.use.rowBytes p)).any (fun c => decide (Config.scratchBytes ≤ x.use.at p r c)))
  then some x.lo else none

/-- BASE, RPITCH, TPITCH or RB that is no multiple of 8 (R225). -/
def PairRead.badAlign (x : PairRead) : Option Word :=
  let p := x.pair
  if p.base % 8 ≠ 0 then some x.lo
  else if p.rpitch % 8 ≠ 0 ∨ p.tpitch % 8 ≠ 0 then some x.hi
  else none

/-- The checks of the pairs of one instruction, each stage over every pair: 0x01, 0x06, 0x05, 0x0B (R225). -/
def checkPairs (k : Core) (xs : List PairRead) : Option (Nat × Word) :=
  match xs.findSome? PairRead.badField with
  | some v => some (0x01, v)
  | none =>
    match xs.findSome? PairRead.badBound with
    | some v => some (0x06, v)
    | none =>
      match xs.findSome? PairRead.badAlign with
      | some v => some (0x05, v)
      | none =>
        match xs.find? (fun x => (k.getEntry x.pair.tid).state == .empty) with
        | some x => some (0x0B, .ofNat 64 x.pair.tid)
        | none => none

/-- A named tile that is filling or draining holds the instruction back, but for a drain (R149, R225). -/
def busyTile (k : Core) (xs : List PairRead) : Option Nat :=
  (xs.find? (fun x => x.use != .drain && (k.getEntry x.pair.tid).busy)).map (fun x => x.pair.tid)

/-- Modes other than the tile's are counted (R147). -/
def State.countLayouts (s : State) (xs : List PairRead) : State :=
  let n := (xs.filter (fun x => x.pair.lay != (s.core.getEntry x.pair.tid).layout)).length
  s.updSys (fun r => { r with cntLayout := r.cntLayout + BitVec.ofNat 64 n })

/-- The pair that a register number starts. -/
def State.readPair (s : State) (n : BitVec 5) (u : PairUse) : PairRead := ⟨s.g n, s.g (n + 1), u⟩

/-- The registers of a pair. -/
def pairRegs (n : BitVec 5) : List Reg := gRegs n ++ gRegs (n + 1)

/-! ### v operands -/

/-- Reading a v operand: registers, or entries popped oldest first (R224). -/
inductive TookMat where
  | ok (s : State) (m : MOperand) (fmts : List (BitVec 16))
  | wait (w : Wait)

/-- `count` registers from n, or `count` entries of a queue. -/
def State.takeMat (s : State) (n : BitVec 5) (count : Nat) : TookMat :=
  if n.toNat < 24 then
    let rs := (List.range count).map (fun i => s.core.getV (n.toNat + i))
    .ok s (.regs rs) (rs.map (·.fmt))
  else
    let q := n.toNat - 24
    if s.core.claimed q then .wait .depend
    else if (s.core.getQueue q).length < count then .wait (.pop q count)
    else
      let es := (s.core.getQueue q).take count
      .ok { s with core := (s.core.setQueue q ((s.core.getQueue q).drop count)).saw s.core.sel es } (.entries q es) (es.map (·.fmt))

/-- Registers that a v operand names. -/
def matRegs (n : BitVec 5) (count : Nat) : List Reg :=
  if n.toNat < 24 then (List.range count).map (fun i => Reg.v (n.toNat + i)) else []

/-- The format word that TRAP.VAL of cause 0x04 shows for a group of registers or entries: the first one of another tag, else the first (log entry 22). -/
def shownFmt (tag : Nat) (fs : List (BitVec 16)) : BitVec 16 := (fs.find? (fun f => tagOf f != tag)).getD (fs.headD 0)

/-! ### Joint instructions (R49, R222) -/

/-- A joint instruction, an instruction of majors 39 to 44: only outside a drain handler (R232). -/
def State.matForm (s : State) (i : Instr) (uses : List Reg) (joint : Bool) (pops : List (BitVec 5)) : Form :=
  { instr := i, streams := .cOnly, illegal := s.cur.drain.isSome || s.popsQ3 pops, uses := uses, joint := joint }

/-- Where a joint instruction stands after its issue: a gang of one has met (R49). -/
def State.gangStatus (s : State) : OpStatus :=
  if s.core.sys.gangMask = BitVec.ofNat 8 (2 ^ s.core.cidx) then .running else .gang

/-- The tile's tag once the joint instructions in flight have set it (R228); that of a SPILLED tile is not known before its fill, and reads as raw. -/
def State.tileTag (s : State) (d : Nat) : TileTag :=
  if (s.core.getAot d).state == .free || (s.core.getAot d).state == .spilled || s.tileForeign d then .raw
  else
    match (s.core.getTile d).tag with
    | .raw => (s.core.c.flight.findSome? (fun op => match op.work with
        | .mmac f _ x _ _ => if x = d then some (if f = 2 then TileTag.i32 else .fp32) else none
        | _ => none)).getD .raw
    | g => g

/-- The tag that an input format names (R120). -/
def mmacTag (f : Nat) : Nat :=
  match f with
  | 0 => 4
  | 1 => 5
  | 2 => 1
  | 3 => 10
  | 4 => 9
  | _ => 8

/-- i8 on an fp32 tile is an illegal encoding (R120, R228), once no earlier instruction is about to change the tile's tag. -/
def State.mmacIllegal (s : State) (d f : Nat) : Bool :=
  f == 2 && s.tileTag d == .fp32 && !s.cur.flight.any (fun op => !op.joint && op.dests.contains (.m d))

/-- A tile tag and an input format that do not go together: the cause (R228). -/
def TileTag.clash (g : TileTag) (f : Nat) : Option Nat :=
  match g with
  | .fp32 => if f = 2 then some 0x01 else none
  | .i32 => if f = 2 then none else some 0x04
  | .raw => none

/-- A group operation at issue. -/
def GroupRes.issue (r : GroupRes) (k : State → Res) : Res :=
  match r with
  | .ok s _ => k s
  | .trap _ c v => .trap c v
  | .fault _ _ _ kind l b va => .park kind l b va
  | .held _ _ => .wait .unit

/-- The tile is poisoned (R336); a fill will write a SPILLED one anew. -/
def State.tilePoisoned (s : State) (t : Nat) : Bool :=
  (s.core.getAot t).state != .spilled && s.dev.poison.contains (.tile s.core.pid t)

/-- An older matrix instruction has not completed: what reads or writes tiles at once waits for it (R223). -/
def State.matrixBusy (s : State) : Bool := s.cur.flight.any (fun op => op.work.isMatrix)

/-- mmac (R224 to R228). `sc` says which of sa and sb are scratchpad pairs; a core that does not lead reads no sa (R222).
The checks of its pairs, and the wait for a busy tile, come before the ownership trap of R235 (log entry 94, DESIGN CHOICE). -/
def mmacOp (i : Instr) (scA scB : Bool) (d a b : BitVec 5) (f p : BitVec 3) (la : BitVec 4) (s : State) : Out :=
  let lead := s.core.leads
  let row := mmacRowBytes f.toNat
  let tag := mmacTag f.toNat
  let aUses := if !lead then [] else if scA then pairRegs a else matRegs a 8
  let bUses := if scB then pairRegs b else matRegs b 8
  let pops := (if lead && !scA then [a] else []) ++ (if scB then [] else [b])
  let fm := s.matForm i (.m d.toNat :: (aUses ++ bUses)) true pops
  issue { fm with illegal := fm.illegal || s.mmacIllegal d.toNat f.toNat } s fun s1 =>
    let pairs := (if lead && scA then [s1.readPair a (.operand row)] else [])
      ++ (if scB then [s1.readPair b (.operand row)] else [])
    let tookA := if !lead then TookMat.ok s1 .unread []
      else if scA then .ok s1 (.scratch (s1.readPair a (.operand row)).pair) [] else s1.takeMat a 8
    match tookA with
    | .wait w => .wait w
    | .ok s2 ma fa =>
      match (if scB then TookMat.ok s2 (.scratch (s1.readPair b (.operand row)).pair) [] else s2.takeMat b 8) with
      | .wait w => .wait w
      | .ok s3 mb fb =>
        let val := tagVal i (shownFmt tag fa) (shownFmt tag fb)
        if ((s3.tileTag d.toNat).clash f.toNat).isSome || (fa ++ fb).any (fun x => tagOf x != tag) then .trap 0x04 val
        else
          match checkPairs s3.core pairs with
          | some (c, v) => .trap c v
          | none =>
            match busyTile s3.core pairs with
            | some t => .wait (.tile t)
            | none =>
              s3.partRoom s.cur.wait <|
                (s3.checkTile d.toNat).issue fun s4 =>
                  if s4.tilePoisoned d.toNat then .trap 0x12 (PoisonUnit.tile s4.core.pid d.toNat).address
                  else
                    .done ((s4.countLayouts pairs).launchOp i s.cur.pc la.toNat [.m d.toNat]
                      (.mmac f.toNat p.toNat d.toNat ma mb) (joint := true) (part := true) (status := s.gangStatus))

/-- mmac with two v operands (R227). -/
def execMmacVv (d a b : BitVec 5) (f p : BitVec 3) (la : BitVec 4) (s : State) : Out :=
  mmacOp (.mmacVv d a b f p la) false false d a b f p la s

/-- mmac with sa in scratchpad (R227). -/
def execMmacSv (d a b : BitVec 5) (f p : BitVec 3) (la : BitVec 4) (s : State) : Out :=
  mmacOp (.mmacSv d a b f p la) true false d a b f p la s

/-- mmac with sb in scratchpad (R227). -/
def execMmacVs (d a b : BitVec 5) (f p : BitVec 3) (la : BitVec 4) (s : State) : Out :=
  mmacOp (.mmacVs d a b f p la) false true d a b f p la s

/-- mmac with both operands in scratchpad (R227). -/
def execMmacSs (d a b : BitVec 5) (f p : BitVec 3) (la : BitVec 4) (s : State) : Out :=
  mmacOp (.mmacSs d a b f p la) true true d a b f p la s

/-! ### Moving tiles (R230 to R232) -/

/-- mzero (R230). -/
def execMzero (d : BitVec 5) (la : BitVec 4) (s : State) : Out :=
  let i : Instr := .mzero d la
  issue (s.matForm i [.m d.toNat] false []) s fun s1 =>
    (s1.checkTile d.toNat).issue fun s2 => .done (s2.launchOp i s.cur.pc la.toNat [.m d.toNat] (.mzero d.toNat))

/-- mload or mstore: the checks and waits of R225, then the tile (R230); mstore writes no register (R86). -/
def tileMove (i : Instr) (u : PairUse) (d a : BitVec 5) (la : BitVec 4) (work : Pair → Work) (s : State) : Out :=
  issue (s.matForm i (.m d.toNat :: pairRegs a) false []) s fun s1 =>
    let x := s1.readPair a u
    match checkPairs s1.core [x] with
    | some (c, v) => .trap c v
    | none =>
      match busyTile s1.core [x] with
      | some t => .wait (.tile t)
      | none =>
        (s1.checkTile d.toNat).issue fun s2 =>
          if u == .store && s2.tilePoisoned d.toNat then .trap 0x12 (PoisonUnit.tile s2.core.pid d.toNat).address
          else .done ((s2.countLayouts [x]).launchOp i s.cur.pc la.toNat (if u == .store then [] else [.m d.toNat]) (work x.pair))

/-- mload (R230). -/
def execMload (d a : BitVec 5) (la : BitVec 4) (s : State) : Out :=
  tileMove (.mload d a la) .load d a la (fun p => .mload d.toNat p) s

/-- mstore (R230). -/
def execMstore (d a : BitVec 5) (la : BitVec 4) (s : State) : Out :=
  tileMove (.mstore d a la) .store d a la (fun p => .mstore d.toNat p) s

/-- The drain handler is called for a row (R231): the row in v23, its index in g31. -/
def State.callDrain (s : State) (op d r : Nat) (handler ret : Word) : State :=
  (((s.setV 23 ((s.core.getTile d).row r)).setG linkReg (.ofNat 64 r)).updCur
    (fun st => { st with pc := handler, drain := some ⟨op, ret⟩ })).cleanRegs [.v 23, .g 31]

/-- mdrain (R231): a drain without a handler goes on by itself; one with a handler calls it for row 0 now, its tile filled first and the older
matrix instructions done (R223). -/
def execMdrain (d a b : BitVec 5) (la : BitVec 4) (s : State) : Out :=
  let i : Instr := .mdrain d a b la
  let toQueue := decide (28 ≤ b.toNat)
  let handled := a != 0
  let uses := .m d.toNat :: ((if toQueue then [] else pairRegs b) ++ (if handled then .v 23 :: gRegs linkReg ++ gRegs a else []))
  issue (s.matForm i uses false []) s fun s1 =>
    let x := s1.readPair b .drain
    let pairs := if toQueue then [] else [x]
    match checkPairs s1.core pairs with
    | some (c, v) => .trap c v
    | none =>
      if handled ∧ (s1.g a).toNat % 2 = 1 then .trap 0x05 (s1.g a)
      else if !toQueue && decide (255 ≤ (s1.core.getEntry x.pair.tid).jobs) then .wait .jobs
      else
        s1.partRoom s.cur.wait <|
        if handled && s1.matrixBusy then .wait .depend
        else
        (if handled then s1.useTile d.toNat else s1.checkTile d.toNat).issue fun s2 =>
          if s2.tilePoisoned d.toNat then .trap 0x12 (PoisonUnit.tile s2.core.pid d.toNat).address
          else
            let s3 := s2.countLayouts pairs
            let s4 := if toQueue then s3
              else { s3 with core := s3.core.setEntry x.pair.tid ((s3.core.getEntry x.pair.tid).accept true) }
            let dst := if toQueue then DrainDst.queue (b.toNat - 24) else .scratch x.pair
            let handler := if handled then some (s1.g a) else none
            let s5 := s4.launchOp i s.cur.pc la.toNat (if handled then [] else [.m d.toNat]) (.mdrain d.toNat dst handler)
              (part := true)
            match handler with
            | some h => .done (s5.callDrain s4.core.nextId d.toNat 0 h s1.cur.pc)
            | none => .done s5

/-- A row has left the tile: it is zero, and the progress counts it; after the last the tile is raw and the job on its tile ends (R231). -/
def State.rowLeft (s : State) (id d r : Nat) (dst : DrainDst) : State :=
  let t := s.core.getTile d
  let t1 := (List.range 16).foldl (fun t j => t.put r j 0) t
  let last := decide (15 ≤ r)
  let k := s.core.setTile d (if last then .zero else t1)
  let k1 := match dst with
    | .scratch p => if last then k.setEntry p.tid ((k.getEntry p.tid).release true) else k
    | .queue _ => k
  { s with core := { k1 with c := { k1.c with
      flight := if last then k1.c.flight.filter (fun op => op.id != id)
        else k1.c.flight.map (fun op => if op.id = id then { op with prog := r + 1 } else op)
      drain := if last then none else k1.c.drain } } }

/-- Puts one row where a drain puts its rows; none while the queue is full. -/
def State.putRow (s : State) (dst : DrainDst) (r : Nat) (row : VReg) : Option State :=
  match dst with
  | .queue q => if s.hasRoom q then some (s.pushQ q true row.bits row.fmt) else none
  | .scratch p => some (({ s with core := s.core.drainRow p r row }).cleanWords (drainWords p r))

/-- hret (R232): waits for the handler's long instructions, then the drain takes v23 and goes on. -/
def execHret (s : State) : Out :=
  issue { instr := .hret, streams := .cOnly, illegal := s.cur.drain.isNone } s fun s1 =>
    match s.cur.drain with
    | none => .wait .unit
    | some ctx =>
      match s.cur.flight.find? (fun op => op.id == ctx.op) with
      | none => .done ((s1.setPc ctx.ret).updCur (fun st => { st with drain := none }))
      | some op =>
        if s.cur.flight.any (fun x => decide (ctx.op < x.id)) then .wait .depend
        else
          match op.work with
          | .mdrain d dst handler =>
            match s1.putRow dst op.prog (s1.core.getV 23) with
            | none => .wait (.push (match dst with
              | .queue q => q
              | .scratch _ => 0))
            | some s2 =>
              let s3 := s2.rowLeft op.id d op.prog dst
              if op.prog = 15 then .done (s3.setPc ctx.ret)
              else .done (s3.callDrain op.id d (op.prog + 1) (handler.getD 0) ctx.ret)
          | _ => .done ((s1.setPc ctx.ret).updCur (fun st => { st with drain := none }))

/-! ### Groups (R236, R238) -/

/-- mpin (R236), with its checks in their order: short, so it waits for the older instructions that use tiles (R223). -/
def execMpin (d a b : BitVec 5) (s : State) : Out :=
  let i : Instr := .mpin d a b
  let md := d.toNat
  let c := (s.g b).toNat % 64
  issue (s.matForm i (gRegs a ++ gRegs b ++ (List.range c).map (fun t => Reg.m (md + t))) false []) s fun s1 =>
    let key : BitVec 32 := (s1.g a).truncate 32
    let spill : Word := .ofNat 64 ((s1.g b).toNat / 64 % 2 ^ 50 * 64)
    let tiles := (List.range c).map (fun t => md + t)
    let bad := tiles.find? (fun t => !((s1.core.getAot t).state == .free
      || ((s1.core.getAot t).state == .owned && (s1.core.getAot t).owner == s1.taskCtx)))
    let dir := (s1.ctxAt s1.taskCtx).pins
    let tags := (tiles.filter (fun t => (s1.core.getAot t).state != .free)).map (fun t => (s1.core.getTile t).tag)
    if 2 ^ 32 ≤ (s1.g a).toNat ∨ 2 ^ 56 ≤ (s1.g b).toNat then .trap 0x01 ((encode i).zeroExtend 64)
    else if s.matrixBusy then .wait .depend
    else if c = 0 ∨ 32 < c ∨ 32 < md + c then .trap 0x09 (tileVal key 6 md)
    else
      match bad with
      | some t => .trap 0x09 (tileVal key 1 t)
      | none =>
        if dir.any (fun p => p.key == key) then .trap 0x09 (tileVal key 3 md)
        else if Config.pinKeys ≤ dir.length then .trap 0x09 (tileVal key 4 md)
        else if tags.contains .fp32 && tags.contains .i32 then .trap 0x04 (tagVal i 0 0)
        else
          let tag : TileTag := if tags.contains .i32 then .i32 else .fp32
          let e : AotEntry := ⟨.pinned, s1.taskCtx, md, c, true, 0, key, spill⟩
          let k := tiles.foldl (fun (k : Core) t =>
            let old := if (k.getAot t).state = .free then Tile.zero else k.getTile t
            (k.setAot t e).setTile t (old.withTag tag)) s1.core
          .done ({ s1 with core := k }.updCtx s1.taskCtx (fun x =>
            { x with pins := ⟨key, some s1.core.pid, md, c, .pinned, some s1.core.pid, 0, spill⟩ :: x.pins }))

/-- mfree (R236): short, so it waits for the older instructions that use tiles (R223). -/
def execMfree (d : BitVec 5) (s : State) : Out :=
  let md := d.toNat
  issue (s.matForm (.mfree d) (s.groupRegs md) false []) s fun s1 =>
    if s.matrixBusy then .wait .depend
    else
    match s1.groupFault md with
    | some r => .trap 0x09 (tileVal 0 r md)
    | none =>
      let e := s1.core.getAot md
      let k := (List.range e.count).foldl (fun (k : Core) t =>
        let k1 := k.setAot (md + t) { AotEntry.free with state := .owned, owner := e.owner, first := md + t }
        if e.state = .spilled then k1.setTile (md + t) .zero else k1) s1.core
      .done ({ s1 with core := k }.updCtx e.owner (fun x => { x with pins := x.pins.filter (fun p => p.key != e.key) }))

/-- mspill or mfill: md is the first tile of a group of the context (R236). -/
def groupMove (i : Instr) (d : BitVec 5) (la : BitVec 4) (work : Work) (s : State) : Out :=
  issue (s.matForm i (s.groupRegs d.toNat) false []) s fun s1 =>
    match s1.groupFault d.toNat with
    | some r => .trap 0x09 (tileVal 0 r d.toNat)
    | none => .done (s1.launchOp i s.cur.pc la.toNat (s.groupRegs d.toNat) work)

/-- mspill (R236, R237). -/
def execMspill (d : BitVec 5) (la : BitVec 4) (s : State) : Out := groupMove (.mspill d la) d la (.mspill d.toNat) s

/-- mfill (R236, R238). -/
def execMfill (d : BitVec 5) (la : BitVec 4) (s : State) : Out := groupMove (.mfill d la) d la (.mfill d.toNat) s

/-- mown (R238). -/
def execMown (d a : BitVec 5) (la : BitVec 4) (s : State) : Out :=
  let i : Instr := .mown d a la
  issue (s.matForm i (gRegs d ++ gRegs a) false []) s fun s1 =>
    if 2 ^ 32 ≤ (s1.g a).toNat then .trap 0x01 ((encode i).zeroExtend 64)
    else .done (s1.launchOp i s.cur.pc la.toNat (gRegs d) (.mown d.toNat ((s1.g a).truncate 32)))

/-! ### Fast weights (R239 to R242) -/

/-- Tiles of the group at md, one when none stands there. -/
def State.groupCount (s : State) (md : Nat) : Nat :=
  match s.groupFault md with
  | none => (s.core.getAot md).count
  | some _ => 1

/-- The group that a fast-weight instruction names (R235, R239): a foreign tile traps at issue, and PINNED tiles hold fp32; a SPILLED group is filled
later (R364), and whether md starts a group at all is found when the gang meets. -/
def fastGroup (s : State) (md : Nat) (val : Word) (k : State → Res) : Res :=
  if s.tileForeign md then .trap 0x09 (tileVal 0 1 md)
  else
    match s.groupFault md with
    | some _ => k s
    | none =>
      let tiles := (List.range (s.core.getAot md).count).map (fun t => md + t)
      if tiles.any (fun t => (s.core.getAot t).state == .pinned && s.tileTag t != .fp32) then .trap 0x04 val
      else
        match tiles.find? s.tilePoisoned with
        | some t => .trap 0x12 (PoisonUnit.tile s.core.pid t).address
        | none => k s

/-- fwdelta (R240): k, α and β are the leader's. -/
def execFwdelta (d a b f : BitVec 5) (la : BitVec 4) (s : State) : Out :=
  let i : Instr := .fwdelta d a b f la
  let lead := s.core.leads
  let c := s.groupCount d.toNat
  let pops := (if lead then [a] else []) ++ [b]
  let uses := s.groupRegs d.toNat ++ (if lead then .f f.toNat :: matRegs a c else []) ++ vRegs b
  let fm := s.matForm i uses true pops
  issue { fm with illegal := fm.illegal || (lead && decide (a.toNat < 24) && decide (24 < a.toNat + c)) } s fun s1 =>
    match (if lead then s1.takeMat a c else .ok s1 .unread []) with
    | .wait w => .wait w
    | .ok s2 mk fk =>
      match s2.takeMat b 1 with
      | .wait w => .wait w
      | .ok s3 mv fv =>
        let val := tagVal i (shownFmt 6 fk) (shownFmt 6 fv)
        if (fk ++ fv).any (fun x => tagOf x != 6) then .trap 0x04 val
        else
          fastGroup s3 d.toNat val fun s4 =>
            .done (s4.launchOp i s.cur.pc la.toNat (s.groupRegs d.toNat)
              (.fwdelta d.toNat c mk mv (if lead then (s1.core.getF f.toNat).bits else 0)) (joint := true)
              (status := s.gangStatus))

/-- fwread (R241): its q4 entry is reserved at issue. -/
def execFwread (d a : BitVec 5) (la : BitVec 4) (s : State) : Out :=
  let i : Instr := .fwread d a la
  let lead := s.core.leads
  let c := s.groupCount d.toNat
  let pops := if lead then [a] else []
  let uses := s.groupRegs d.toNat ++ (if lead then matRegs a c else [])
  let fm := s.matForm i uses true pops
  issue { fm with illegal := fm.illegal || (lead && decide (a.toNat < 24) && decide (24 < a.toNat + c)) } s fun s1 =>
    match (if lead then s1.takeMat a c else .ok s1 .unread []) with
    | .wait w => .wait w
    | .ok s2 mq fq =>
      let val := tagVal i (shownFmt 6 fq) 0
      if fq.any (fun x => tagOf x != 6) then .trap 0x04 val
      else if s2.core.pushClaimed 4 then .wait .depend
      else if !s2.hasRoom 4 then .wait (.push 4)
      else
        fastGroup s2 d.toNat val fun s3 =>
          .done ((s3.pushQ 4 false 0 (mkFmt 6 0)).launchOp i s.cur.pc la.toNat [] (.fwread d.toNat c mq s3.core.nextId)
            (joint := true) (status := s.gangStatus))

/-- fwchunk (R242): its tokens are popped while it executes. -/
def execFwchunk (d : BitVec 5) (n : BitVec 3) (la : BitVec 4) (s : State) : Out :=
  let i : Instr := .fwchunk d n la
  issue (s.matForm i (s.groupRegs d.toNat) true []) s fun s1 =>
    s1.partRoom s.cur.wait <|
      fastGroup s1 d.toNat (tagVal i 0 0) fun s2 =>
        .done (s2.launchOp i s.cur.pc la.toNat (s.groupRegs d.toNat) (.fwchunk d.toNat (n.toNat + 1)) (joint := true)
          (part := true) (status := s.gangStatus))

end Sys2Proof.Machine
end

