-- ==== Sys2Proof/Machine/Jobs.lean ====
section
/-! DEFINITION. The copy units: how a job goes on, completes and ends
(spec/10_memory_instructions.md R203, R204, R363, spec/15_sync_instructions.md R279, R282, spec/02_describing_and_launching.md R36). -/

namespace Sys2Proof.Machine

/-! ### Where a job stands -/

/-- The accessor of a job: the mode of its cpgo. -/
def Job.who (j : Job) : Who := ⟨j.pid, j.ctx, j.queue, j.seq, j.mode == .sup, false⟩

def Job.req (j : Job) : CopyReq := copyReq j.shadows

/-- Row and column of the next byte. -/
def Job.place (j : Job) : Nat × Nat := (j.next / j.req.rowLen, j.next % j.req.rowLen)

/-- The address of a byte of the source (R201, R203). -/
def Job.srcAt (j : Job) (r c : Nat) : Word :=
  match j.srcTile with
  | some e => spadAddr (e.base + physOff j.req.slay e.pitch r (j.req.src.toNat + c))
  | none => j.req.src + j.req.sStride * .ofNat 64 r + .ofNat 64 c

/-- The address of a byte of the destination. -/
def Job.dstAt (j : Job) (r c : Nat) : Word :=
  match j.dstTile with
  | some e => spadAddr (e.base + physOff j.req.dlay e.pitch r (j.req.dst.toNat + c))
  | none => j.req.dst + j.req.dStride * .ofNat 64 r + .ofNat 64 c

/-- Bytes that the job moves in all. -/
def Job.total (j : Job) : Nat := j.req.rows * j.req.rowLen

/-- Bytes of the next piece: up to the end of the destination's 8 bytes, of the row, or one element of a reducing job. -/
def Job.piece (j : Job) : Nat :=
  let (r, c) := j.place
  if j.req.red ≠ 0 then 4 else min (j.req.rowLen - c) (8 - (j.dstAt r c).toNat % 8)

/-- What reading or writing a piece meets. -/
inductive PieceAt where
  | ok (cs : List Chunk)
  | deny (a : Word)
  | fault (write : Bool) (level base : Nat) (va : Word)

/-- The source bytes of a piece, each at its own place (R146, R201). -/
def State.srcChunks (s : State) (j : Job) (r : Nat) : List Nat → PieceAt
  | [] => .ok []
  | c :: cs =>
    let a := j.srcAt r c
    match s.locate j.who .engRead a 1 with
    | .deny => .deny a
    | .fault l b va => .fault false l b va
    | .ok xs =>
      match s.srcChunks j r cs with
      | .ok ys => .ok (xs ++ ys)
      | e => e

/-- The destination of a piece; a reducing job also reads it (R204). -/
def State.dstChunks (s : State) (j : Job) (r c n : Nat) : PieceAt :=
  let a := j.dstAt r c
  match s.locate j.who (if j.req.red = 0 then .engWrite else .atomic) a n with
  | .deny => .deny a
  | .fault l b va => .fault true l b va
  | .ok xs => .ok xs

/-- A store or atomic that the job's A-stream issued before the cpgo has yet to reach the piece's source (R203): an element whose address is not
known yet may be one. -/
def State.srcWaits (s : State) (j : Job) (cs : List Chunk) : Bool :=
  let k := s.coreAt j.pid
  let here := cs.map Chunk.span
  k.pending.any (fun r => r.stream == .a && decide (r.id < j.born) && !r.served
      && overlap (s.spans (r.who k) r.addr r.bytes).1 here)
    || k.a.flight.any (fun op => decide (op.id < j.born) && (match op.work with
        | .lds .. => false
        | .ldsq .. => false
        | _ => true) && (s.workPlaces k op).any (fun a => a.1.writing && overlap a.2.1 here))

/-! ### Writing a piece -/

/-- An element added by a collective engine (R204). -/
def reduceElem (red d v : Nat) : Nat :=
  if red = 1 then (d + v) % 2 ^ 32
  else (deliverIeee .fp32 0 false (ieeeAdd 0 (IeeeFmt.fp32.decode d) (IeeeFmt.fp32.decode v))).1

/-- Bytes written by an engine: scratchpad words become full (R150). -/
def State.enginePoke (s : State) (c : Chunk) (bs : List Byte) : State :=
  match c with
  | .spad pid off _ =>
    (s.updCore pid (fun k => k.engineWrite off bs)).poke c bs
  | _ => s.poke c bs

def State.enginePokeAll (s : State) : List Chunk → List Byte → State
  | [], _ => s
  | c :: cs, bs =>
    let n := c.span.len
    (s.enginePoke c (bs.take n)).enginePokeAll cs (bs.drop n)

/-- A line of host memory is among the chunks. -/
def touchesHost (cs : List Chunk) : Bool :=
  cs.any (fun c => match c with
    | .phys hm _ _ _ _ _ _ => hm
    | _ => false)

/-- The job changed where its unit keeps it. -/
def State.updJob (s : State) (cluster idx : Nat) (f : Job → Job) : State :=
  s.updCluster cluster (fun c => { c with jobs := modifyAt f idx c.jobs })

/-- The kind of log entry that a job's access makes where it is served (R144, R204, R261, R345). -/
def State.jobLog (s : State) (j : Job) (red : Bool) (cs : List Chunk) : Option LogKind :=
  (s.executorNow j.pid 3 (if red then .atomic .radd 4 0 0 else .store []) cs).log

/-- The request of a job as its executor sees it. -/
def Job.served0 (j : Job) : Served0 := ⟨j.who, .a, j.lid, j.ordinal⟩

/-- A replay holds an access of a job back until its turn (R346). -/
def State.jobHeld (s : State) (j : Job) (red : Bool) (addr : Word) (cs : List Chunk) : Bool :=
  match s.jobLog j red cs with
  | some k => !s.logLets k j.served0 addr cs
  | none => false

/-- An access of a job has been served where its order is open. -/
def State.jobServed (s : State) (j : Job) (red : Bool) (addr : Word) (cs : List Chunk) : State :=
  match s.jobLog j red cs with
  | some k => s.logServed k j.served0 addr cs
  | none => s

/-- The reads of a piece, one for each line of its source: the address of the first byte there and that byte's place. -/
def Job.reads (j : Job) (r c : Nat) : Nat → List Chunk → List (Word × List Chunk)
  | _, [] => []
  | i, x :: xs =>
    let a := j.srcAt r (c + i)
    let rest := j.reads r c (i + 1) xs
    (a, [x]) :: rest.filter (fun y => y.1.toNat / 64 != a.toNat / 64)

/-- A replay holds a piece back: its reads or its write. -/
def State.pieceHeld (s : State) (j : Job) (src dst : List Chunk) : Bool :=
  let (r, c) := j.place
  (j.reads r c 0 src).any (fun x => s.jobHeld j false x.1 x.2) || s.jobHeld j (j.req.red != 0) (j.dstAt r c) dst

/-- The executor that takes a job's access. -/
def State.pieceExecutor (s : State) (j : Job) (dst : List Chunk) : Executor :=
  s.executorNow j.pid 3 (if j.req.red = 0 then .store [] else .atomic .radd 4 0 0) dst

/-- A piece arrives at its executor, and nothing that waits there goes before it (R269). -/
def State.pieceTurn (s : State) (j : Job) (dst : List Chunk) : Bool :=
  s.turnFor (s.pieceExecutor j dst) (placeOf dst) j.pid s.dev.cycle.toNat false

/-- The memory line that a piece completes, all of it written from sources that are not poisoned (R336). -/
def lineDone (clean n : Nat) (dst : List Chunk) : List PoisonUnit :=
  match dst with
  | [.phys hm pa _ _ _ _ _] => if (pa + n) % 64 = 0 ∧ 64 ≤ clean then [.line hm (pa + n - 64)] else []
  | _ => []

/-- A piece is moved or added (R203, R204). -/
def State.movePiece (s : State) (cluster idx : Nat) (j : Job) (src dst : List Chunk) (n : Nat) : State :=
  let data := s.peekAll src
  let bs := if j.req.red = 0 then data
    else natBytes (reduceElem j.req.red (bytesNat (s.peekAll dst)) (bytesNat data)) 4
  let bad := (s.poisoned src).isSome
  let (r, c) := j.place
  let clean := if bad || j.req.red != 0 then 0 else if c = 0 then n else j.clean + n
  let s1 := ((s.touch j.ctx false src).touch j.ctx (j.req.red != 0) dst).enginePokeAll dst bs
  let s2 := if bad then s1.poisonUnits (dst.flatMap Chunk.units)
    else s1.updDev (fun d => { d with poison := d.poison.filter (fun u => !(lineDone clean n dst).contains u) })
  let s3 := (j.reads r c 0 src).foldl (fun x y => x.jobServed j false y.1 y.2) s2
  ((s3.jobServed j (j.req.red != 0) (j.dstAt r c) dst).servedAt (s.pieceExecutor j dst) (placeOf dst) j.pid).updJob cluster idx (fun x =>
    { x with next := x.next + n, moved := s.dev.cycle.toNat, state := .running, wroteHost := x.wroteHost || touchesHost dst, clean := clean })

/-! ### The end of a job -/

/-- The command's dependence count decrements (R36). -/
def State.decrement (s : State) (ctx q : Nat) (seq : BitVec 32) : State :=
  let x := s.queueAt ctx q
  let under := fun (s : State) => s.updQueue ctx q (fun x => { x with under := true })
  match x.cmds.find? (fun c => c.seq == seq) with
  | some c =>
    match c.phase with
    | .completed _ => s
    | _ => if c.count = 0 then under s else s.updCmd ctx q seq (fun c => { c with count := c.count - 1 })
  | none => if 0 ≤ sdiff seq x.nextSeq then under s else s

/-- The job names its tiles no longer (R149). -/
def Core.endTiles (k : Core) (j : Job) : Core :=
  let k1 := if j.req.ste then k.setEntry j.req.stid ((k.getEntry j.req.stid).release false) else k
  if j.req.kind = 2 then k1.setEntry j.req.dtid ((k1.getEntry j.req.dtid).release true) else k1

/-- The job leaves its unit; its tiles are released when its core still runs its task, whose tile table it is. -/
def State.dropJob (s : State) (cluster idx : Nat) (j : Job) : State :=
  let s1 := s.updCluster cluster (fun c => { c with jobs := dropAt idx c.jobs })
  if j.ofTask (s1.coreAt j.pid) then s1.updCore j.pid (fun k => k.endTiles j) else s1

/-- The job ends with its refused or missing page (R203): the trap is deferred to its task (R363). -/
def State.failJob (s : State) (cluster idx : Nat) (j : Job) (cause : Nat) (addr : Word) : State :=
  (s.dropJob cluster idx j).onCore j.pid (fun s1 =>
    if j.ofTask s1.core then ((s1.onStream .a).refuse (j.mode == .sup) cause addr).settleEnd else if cause = 0x07 then s1.tried else s1)

/-- The completion target acts (R203): a barrier arrival, a tile, a dependence counter. An arrival at a poisoned word is an engine's, no core
instruction's: it completes, and the word stays poisoned (R336). -/
def State.finishJob (s : State) (cluster idx : Nat) (j : Job) : State :=
  let c := j.req
  let back := fun (s : State) => s.onCore j.pid State.settleEnd
  match c.kind with
  | 1 =>
    match s.locate j.who .atomic c.barrier 8 with
    | .ok cs =>
      let w := bytesNat (s.peekAll cs)
      let s0 := (if peerChunk cs then s.tried else s).pokeAll cs (natBytes (barEngine c.units w) 8)
      let s1 := if (s.poisoned cs).isSome then s0.poisonUnits (cs.flatMap Chunk.units) else s0
      back (((s1.logServed .engine j.served0 c.barrier cs).servedAt (barrierEngine j.pid cs) (placeOf cs) j.pid).dropJob cluster idx j)
    | .deny => s.failJob cluster idx j 0x07 c.barrier
    | .fault _ _ _ => s
  | 3 => back ((s.decrement j.ctx (bitField c.done 8 6) (.ofNat 32 (bitField c.done 32 32))).dropJob cluster idx j)
  | _ => back (s.dropJob cluster idx j)

/-- A job parks at a missing page, or ends there under NOREPLAY (R159, R161, R203). -/
def State.parkJob (s : State) (cluster idx : Nat) (j : Job) (write : Bool) (level base : Nat) (va : Word) : State :=
  let s1 := s.recordFault j.ctx cluster (j.pid % 8) .a (if write then 5 else 4) level base va
  if j.noReplay then s1.failJob cluster idx j 0x08 va
  else s1.updJob cluster idx (fun x => { x with state := .parked va write })

/-- What the next piece of a job meets: source, then destination. -/
def State.nextPiece (s : State) (j : Job) : Except PieceAt (List Chunk × List Chunk × Nat) :=
  let (r, c) := j.place
  let n := j.piece
  match s.srcChunks j r ((List.range n).map (fun i => c + i)) with
  | .ok src =>
    match s.dstChunks j r c n with
    | .ok dst => .ok (src, dst, n)
    | e => .error e
  | e => .error e

def JobState.isParked : JobState → Bool
  | .parked _ _ => true
  | _ => false

/-- The job at one place of a unit. -/
def State.jobAt (s : State) (cluster idx : Nat) : Option Job := (s.clusterAt cluster).jobs[idx]?

/-- A job goes on by up to `n` pieces, and completes after its last. -/
def State.jobOn (s : State) (cluster idx : Nat) : Nat → State
  | 0 => s
  | n + 1 =>
    match s.jobAt cluster idx with
    | none => s
    | some j =>
      if j.state.isParked then s
      else if j.total ≤ j.next then
        (match j.req.kind, s.locate j.who .atomic j.req.barrier 8 with
          | 1, .ok cs =>
            if s.logLets .engine j.served0 j.req.barrier cs && s.turnFor (barrierEngine j.pid cs) (placeOf cs) j.pid s.dev.cycle.toNat false then
              s.finishJob cluster idx j
            else s
          | _, _ => s.finishJob cluster idx j)
      else
        match s.nextPiece j with
        | .ok (src, dst, len) =>
          if s.srcWaits j src || s.pieceHeld j src dst || !s.pieceTurn j dst then s
          else
            let s1 := s.recall (if j.req.red = 0 then some cluster else none) (src ++ dst)
            if (s1.jobAt cluster idx).isNone then s1 else (s1.movePiece cluster idx j src dst len).jobOn cluster idx n
        | .error (.deny a) => s.failJob cluster idx j 0x07 a
        | .error (.fault w l b va) => s.parkJob cluster idx j w l b va
        | .error (.ok _) => s

/-- COPY_JOB_COMPLETE (R203, R204): a job moves up to `units` pieces; the move after the last one completes it. -/
def execCopyJobComplete (cluster idx units : Nat) (s : State) : Out := .next (s.jobOn cluster idx units)

/-- COPY_JOB_FAULT_END (R203): a job ends at an element that a protection fault, or a missing page under NOREPLAY, refuses. -/
def execCopyJobFaultEnd (cluster idx : Nat) (s : State) : Out :=
  match s.jobAt cluster idx with
  | none => .next s
  | some j =>
    if j.state.isParked || decide (j.total ≤ j.next) then .next s
    else
      match s.nextPiece j with
      | .error (.deny a) => .next (s.failJob cluster idx j 0x07 a)
      | .error (.fault w l b va) => if j.noReplay then .next (s.parkJob cluster idx j w l b va) else .next s
      | _ => .next s

end Sys2Proof.Machine
end

