-- ==== Sys2Proof/Machine/Completion.lean ====
section
/-! DEFINITION. The end of a command and the queue events (spec/24_retirement.md R333 to R335,
spec/02_describing_and_launching.md R27 to R40). -/

namespace Sys2Proof.Machine

/-! ### What is left of a command -/

/-- The core runs a task of the command. -/
def Core.runs (k : Core) (ctx q : Nat) (seq : BitVec 32) : Bool :=
  match k.task with
  | some t => t.ctx == ctx && t.queue == q && t.seq == seq
  | none => false

/-- Cores that run a task of the command. -/
def State.tasksOf (s : State) (ctx q : Nat) (seq : BitVec 32) : List Nat :=
  (s.allCores.filter (fun k => k.runs ctx q seq)).map (fun k => k.pid)

/-- Every store, atomic and non-detached engine job of the command's tasks is done, those on their way out of a killed rectangle among them (R273, R333
step 2, R358). -/
def State.cmdDrained (s : State) (ctx q : Nat) (seq : BitVec 32) : Bool :=
  s.allCores.all (fun k => k.pending.all (fun r => !(r.ctx == ctx && r.queue == q && r.seq == seq)))
    && s.clusters.all (fun c => c.jobs.all (fun j => !(j.ctx == ctx && j.queue == q && j.seq == seq && !j.req.detached)))
    && s.dev.packets.all (fun x => !(x.2.ctx == ctx && x.2.queue == q && x.2.seq == seq))

/-- A stream of a cancelled task that cannot issue stands at a point where it is stopped for good: stopped for a pre-emption, parked,
or waiting for its gang (R39, R49, R100). -/
def Stream.idleStop (st : Stream) : Bool :=
  st.stopped.isSome || st.atGang.isSome || (match st.wait with
    | some (.parked _) => true
    | _ => false)

/-- The streams of a cancelled task that stand at such a point stop (R39). A running handler is not stopped (R312). -/
def State.stopCancelled (s : State) (pid : Nat) : State :=
  s.onCore pid fun s1 =>
    if s1.core.handler.isSome then s1
    else
      let stop := fun (k : Core) (x : StreamId) =>
        if (k.str x).mode == .user && (k.str x).idleStop then k.updStr x (fun st => { st with exited := true }) else k
      { s1 with core := stop (stop s1.core .a) .c }.settleEnd

/-- Groups of a saved task are no longer held (R233). -/
def State.dropSaved (s : State) (ctx : Nat) (saved : List SavedTask) : State :=
  let keys := saved.flatMap (fun t => (t.core.aot.toList.filter (fun e => e.held && e.owner == ctx)).map (fun e => e.key))
  if keys.isEmpty then s
  else s.updCtx ctx (fun c =>
    { c with pins := c.pins.map (fun p => if keys.contains p.key && p.held == some Config.savedHolder then { p with held := none } else p) })

/-- The command ends as cancelled unless it has already ended otherwise (R39); what its placement or its save had parked for is given up. -/
def Command.cancel (c : Command) : Command :=
  match c.phase with
  | .completed _ => c
  | .ending .error => c
  | .ending .bad => c
  | .ending _ => { c with phase := .ending .cancelled }
  | _ => { c with phase := .ending .cancelled, parked := false, claim := [] }

/-- The error token of a command spreads to every command that names it as a producer (R39). -/
def State.spreadToken (s : State) (ctx q : Nat) (seq : BitVec 32) : State :=
  s.updCtx ctx (fun c => { c with queues := c.queues.map (fun x =>
    (x.1, { x.2 with cmds := x.2.cmds.map (fun y => if y.prods.contains (q, seq) then y.cancel else y) })) })

/-! ### Statistics and completion records (R31, R333 to R335) -/

/-- A 32-bit field of a record that saturates (R334). -/
def satField (old add : Nat) : Nat := min (old + add) 0xFFFFFFFF

/-- A statistics record after one command's adds (R333, R334). -/
def statRecord (bs : List Byte) (c : Counts) (ok : Bool) : List Byte :=
  let f := fieldAt bs
  natBytes (f 0 8 + (if ok then 1 else 0)) 8 ++ natBytes (satField (f 8 4) c.sat) 4 ++ natBytes (satField (f 12 4) c.flush) 4
    ++ natBytes (satField (f 16 4) c.nan) 4 ++ natBytes (satField (f 20 4) c.pivot) 4 ++ natBytes (satField (f 24 4) c.qdisc) 4
    ++ natBytes (satField (f 28 4) 1) 4

/-- The first missing page among accesses of the front end. -/
def firstFault (xs : List (Except FeFail (List Chunk))) : Option (Nat × Nat × Word) :=
  xs.findSome? (fun x => match x with
    | .error (.fault l b va) => some (l, b, va)
    | _ => none)

/-- Sets Q.STATUS.WFAIL (R365). -/
def State.wfail (s : State) (ctx q : Nat) : State := s.updQueue ctx (q % 64) (fun x => { x with wfail := true })

/-- Adds the command's counts to one record, or skips it (R335, R365). -/
def State.addRecord (s : State) (ctx q : Nat) (place : Except FeFail (List Chunk)) (c : Counts) (ok : Bool) : State :=
  match place with
  | .ok cs => s.fePut ctx true cs (fun bs => statRecord bs c ok)
  | .error _ => s.wfail ctx q

/-- Step 3 of R333, done once: the kernel's tensors are let go when the counts have been added. -/
def State.addStats (s : State) (ctx q : Nat) (c : Command) (st : CmdStatus) : Except (Nat × Nat × Word) State :=
  match c.kernel with
  | none => .ok s
  | some k =>
    let done := fun (x : State) => x.updCmd ctx q c.seq (fun y => { y with kernel := y.kernel.map (fun k => { k with tensors := [] }) })
    if !c.wasPlaced then .ok (done s)
    else
      let places := (k.tensors.zipIdx).map (fun t =>
        (s.fePlace ctx (k.statArea + .ofNat 64 (64 * t.2)) 32, ((c.stats.find? (fun x => x.1 == t.1)).map (·.2)).getD Counts.zero))
      match firstFault (places.map (·.1)) with
      | some f => .error f
      | none => .ok (done (places.foldl (fun x p => x.addRecord ctx q p.1 p.2 (st == .ok)) s))

/-- Byte 4 of a completion record (R31). -/
def CmdStatus.code (st : CmdStatus) : Nat :=
  match st with
  | .ok => 0
  | .error => 1
  | .cancelled => 2
  | .bad => 3

/-- The completion record (R31). -/
def Command.record (c : Command) (st : CmdStatus) (cycle : Word) : List Byte :=
  let first := if st = .error then c.first.getD (0, 0xFFFF) else (0, 0xFFFF)
  natBytes c.seq.toNat 4 ++ natBytes st.code 1 ++ natBytes first.1 1 ++ natBytes first.2 2 ++ natBytes cycle.toNat 8

/-- Step 4 of R333. A record whose address is not aligned is skipped (log entry 43). -/
def State.writeDone (s : State) (ctx q : Nat) (c : Command) (st : CmdStatus) : Except (Nat × Nat × Word) State :=
  if !c.hostDone then .ok s
  else if c.doneRec.toNat % 16 ≠ 0 then .ok (s.wfail ctx q)
  else
    match s.fePlace ctx c.doneRec 16 with
    | .ok cs => .ok (s.fePut ctx false cs (fun _ => c.record st s.dev.cycle))
    | .error .bad => .ok (s.wfail ctx q)
    | .error (.fault l b va) => .error (l, b, va)

/-! ### Freezing and the completion point (R35, R40) -/

/-- Q.STATUS.ERR of a command that did not end ok (R29). -/
def CmdStatus.err (st : CmdStatus) : BitVec 8 :=
  match st with
  | .bad => 3
  | .error => 4
  | .cancelled => 5
  | .ok => 0

/-- The queue freezes, or keeps the error for after the acknowledgement; a disabled queue does not freeze (R30, R40). The spec does not say what ERR
shows when a queue error and a freeze both occur: in the model the later of the two overwrites ERR (log entry 74, DESIGN CHOICE). -/
def Queue.freeze (x : Queue) (seq : BitVec 32) (st : CmdStatus) : Queue :=
  if st = .ok ∨ !x.en then x
  else if x.frozen then { x with errs := x.errs ++ [(seq, st.err)] }
  else { x with frozen := true, err := st.err, errSeq := seq }

/-- Commands behind the completion point leave the queue, and their statuses are kept, one per slot (R35). -/
def Queue.settle (x : Queue) : Queue :=
  let isDone := fun (c : Command) => match c.phase with
    | .completed _ => true
    | _ => false
  let past := (x.cmds.takeWhile isDone).map (fun c => (c.seq, match c.phase with
    | .completed st => st
    | _ => CmdStatus.ok))
  let kept := x.kept ++ past
  { x with cmds := x.cmds.dropWhile isDone, kept := kept.drop (kept.length - 2 ^ x.log2) }

/-- The status that the clusters' histories show for a command (R343). -/
def Cluster.noteEnd (c : Cluster) (ctx q : Nat) (seq : BitVec 32) (st : CmdStatus) : Cluster :=
  { c with history := c.history.map (fun h =>
      if h.1.ctx = ctx ∧ h.1.queue = q ∧ h.1.seq = seq ∧ h.2 = 0xFF then (h.1, .ofNat 8 st.code) else h) }

/-! ### Clusters that are retired (R56) -/

/-- The clusters that commands hold. -/
def State.heldClusters (s : State) : List Nat :=
  s.contexts.flatMap (fun x => x.queues.flatMap (fun y => y.2.cmds.flatMap (fun c => c.held)))

/-- A topology change reaches a task (R55, R56). -/
def Core.topo (k : Core) : Core :=
  match k.task with
  | none => k
  | some t => { k with task := some { t with topoDue := true }, sys := { k.sys with evtTopo := true, evtTopoGen := k.sys.evtTopoGen + 1 } }

/-- A command after a retirement: its saved tasks have seen it, and a position that it waits for and that has lost a cluster is given up. -/
def Command.topo (c : Command) (cluster : Nat) : Command :=
  { c with
    saved := c.saved.map (fun t => { t with core := t.core.topo })
    claim := if c.claim.contains cluster then [] else c.claim }

/-- A cluster that nothing holds is retired (R56): CL.COUNT falls and TOPO is set in every task, saved ones too. -/
def State.retire (s : State) (cluster : Nat) : State :=
  let s1 := s.updCluster cluster (fun c => { c with retired := true, failing := false })
  { s1 with
    core := s1.core.topo
    cores := s1.cores.map Core.topo
    contexts := s1.contexts.map (fun x => { x with queues := x.queues.map (fun y => (y.1, { y.2 with
      cmds := y.2.cmds.map (fun c => c.topo cluster) })) }) }

/-- The clusters that are to be retired and that no team or front holds any more are retired (R56). -/
def State.settleFailing (s : State) : State :=
  ((s.clusters.filter (fun c => c.failing && !s.heldClusters.contains c.id)).map (·.id)).foldl State.retire s

/-- Steps 5 and 6 of R333 and what follows from them: the interrupt, the clusters and the save slot freed, the freeze and the token. -/
def State.retireCmd (s : State) (ctx q : Nat) (c : Command) (st : CmdStatus) : State :=
  let s1 := if c.irq then s.raiseMsi (max 2 (s.queueAt ctx q).msiv.toNat) else s
  let s2 := s1.dropSaved ctx c.saved
  let s3 := s2.updCmd ctx q c.seq (fun y =>
    { y with phase := .completed st, clusters := [], held := [], claim := [], slot := none, teamMap := [], saved := [] })
  let s4 := s3.updQueue ctx q (fun x => (x.freeze c.seq st).settle)
  let s5 := State.settleFailing { s4 with clusters := s4.clusters.map (fun k => k.noteEnd ctx q c.seq st) }
  if st = .ok then s5 else s5.spreadToken ctx q c.seq

/-- A never-placed cancelled command completes after those of its queue before it (R30). -/
def Queue.inOrder (x : Queue) (c : Command) : Bool :=
  let waits := fun (y : Command) => !y.wasPlaced && y.phase == .ending .cancelled
  !waits c || ((x.cmds.takeWhile (fun y => y.seq != c.seq)).all (fun y => !waits y))

/-- COMMAND_COMPLETE: what R333 lists, in its order. A missing page holds the completion (R365). -/
def State.completeCmd (s : State) (ctx q : Nat) (seq : BitVec 32) : State :=
  match s.cmdAt ctx q seq with
  | none => s
  | some c0 =>
    match c0.phase with
    | .ending st =>
      let s0 := if st = .cancelled then (s.tasksOf ctx q seq).foldl State.stopCancelled s else s
      if c0.parked || !(s0.tasksOf ctx q seq).isEmpty || !s0.cmdDrained ctx q seq || !(s0.queueAt ctx q).inOrder c0 then s0
      else
        match s0.cmdAt ctx q seq with
        | none => s0
        | some c =>
          let park := fun (x : State) (f : Nat × Nat × Word) =>
            (x.feFault ctx f.1 f.2.1 f.2.2).updCmd ctx q seq (fun y => { y with parked := true })
          match s0.addStats ctx q c st with
          | .error f => park s0 f
          | .ok s1 =>
            match s1.writeDone ctx q c st with
            | .error f => park s1 f
            | .ok s2 => s2.retireCmd ctx q c st
    | _ => s

/-- COMMAND_COMPLETE (R333). -/
def execCommandComplete (ctx q : Nat) (seq : BitVec 32) (s : State) : Out := .next (s.completeCmd ctx q seq)

/-! ### Slots (R27, R31, R32) -/

/-- A fetched slot is accepted; a command that ends at its acceptance completes there (R25, R31, R32). -/
def State.acceptFetched (s : State) (ctx q : Nat) (bs : List Byte) : State :=
  (s.acceptSlot ctx q (slotOf bs)).completeCmd ctx q (slotOf bs).seq

/-- The address of the slot at a queue's head (R24). -/
def Queue.headAddr (x : Queue) : Word := x.base + .ofNat 64 (64 * (x.head.toNat % 2 ^ x.log2))

/-- One read of the slot at the head (R24, R27, R365), or the acceptance of one that has been read and whose descriptor's reads had parked. -/
def State.readSlot (s : State) (ctx q : Nat) : State :=
  let x := s.queueAt ctx q
  match x.fetched with
  | some bs => s.acceptFetched ctx q bs
  | none =>
    match s.feRead ctx x.headAddr 64 with
    | (.error .bad, s1) => s1.updQueue ctx q Queue.staleRead
    | (.error (.fault l b va), s1) => (s1.feFault ctx l b va).updQueue ctx q (fun y => { y with parked := true })
    | (.ok bs, s1) =>
      if (slotOf bs).seq = x.head then (s1.updQueue ctx q (fun y => y.take bs)).acceptFetched ctx q bs
      else s1.updQueue ctx q Queue.staleRead

/-- SLOT_READ (R27). -/
def execSlotRead (ctx q : Nat) (s : State) : Out :=
  if s.slotDue ctx q && (s.queueAt ctx q).stale.isNone then .next (s.readSlot ctx q) else .next s

/-- STALE_SLOT_REREAD (R27). -/
def execStaleSlotReread (ctx q : Nat) (s : State) : Out :=
  if s.slotDue ctx q && (s.queueAt ctx q).stale.isSome then .next (s.readSlot ctx q) else .next s

/-! ### The head of a queue (R32, R33, R37) -/

/-- The command of a queue that competes for placement: the first that is not placed, or that a pre-emption has saved (R33). R33 does not say when
a pre-empted command begins to hold back what follows it in its queue: in the model it does once it is saved, and not while it is still being
stopped (log entry 73, DESIGN CHOICE). -/
def Queue.headCmd (x : Queue) : Option Command := x.cmds.find? (fun c => c.phase == .accepted || c.phase == .saved)

/-- Every producer has completed ok and the dependence count is zero (R37). -/
def State.prodsOk (s : State) (ctx : Nat) (c : Command) : Bool :=
  c.count == 0 && (s.producers ctx c).all (fun p => p == .ok)

/-- The command may be placed as far as its queue, its producers and its count go (R37, R40). A saved command is placed already:
neither a freeze nor a disable holds it (log entry 44). -/
def State.cmdReady (s : State) (ctx q : Nat) (c : Command) : Bool :=
  let x := s.queueAt ctx q
  !c.parked && (c.phase == .saved || (x.en && !x.frozen && (c.early || s.prodsOk ctx c)))

/-- MARKER (R32): the head of its queue completes ok. -/
def execMarker (ctx q : Nat) (s : State) : Out :=
  match (s.queueAt ctx q).headCmd with
  | some c =>
    if c.op = .marker ∧ s.cmdReady ctx q c = true then
      .next ((s.updCmd ctx q c.seq (fun y => { y with phase := .ending .ok })).completeCmd ctx q c.seq)
    else .next s
  | none => .next s

/-! ### Queue control (R24, R29, R30, R34, R40) -/

/-- A queue number moved in whatever speaks of the command's tasks. -/
def Core.rekey (k : Core) (ctx q q' : Nat) : Core :=
  { k with
    task := k.task.map (fun t => if t.ctx = ctx ∧ t.queue = q then { t with queue := q' } else t)
    pending := k.pending.map (fun r => if r.ctx = ctx ∧ r.queue = q then { r with queue := q' } else r) }

/-- A command after the restart of a queue: the producers that it names there stand under the number that the queue's commands have been given, or, when the
queue held none, have completed ok (R35; log entry 85, DESIGN CHOICE). -/
def Command.renameProds (c : Command) (q : Nat) (other : Option Nat) : Command :=
  { c with prods := c.prods.filterMap (fun p => if p.1 = q then other.map (fun n => (n, p.2)) else some p) }

/-- The same for every command of a context. -/
def State.renameProds (s : State) (ctx q : Nat) (other : Option Nat) : State :=
  s.updCtx ctx (fun c => { c with queues := c.queues.map (fun x => (x.1, { x.2 with cmds := x.2.cmds.map (fun y => y.renameProds q other) })) })

/-- The commands that a queue holds from before its restart stand under a number of their own, so that running numbers can start again (R30). -/
def State.setAside (s : State) (ctx q : Nat) : State :=
  let x := s.queueAt ctx q
  if x.cmds.isEmpty then s.renameProds ctx q none
  else
    let used := (s.ctxAt ctx).queues.map (·.1)
    let q' := ((List.range (used.length + 1)).map (fun j => q + 64 * (j + 1))).find? (fun n => !used.contains n) |>.getD (q + 64)
    let cmds := x.cmds.map (fun c => { c with saved := c.saved.map (fun t => { t with core := t.core.rekey ctx q q' }) })
    let s1 := s.updQueue ctx q' (fun _ => { x with en := false, cmds := cmds })
    let s2 := (s1.updQueue ctx q (fun y => { y with cmds := [] })).renameProds ctx q (some q')
    { s2 with
      core := s2.core.rekey ctx q q'
      cores := s2.cores.map (fun k => k.rekey ctx q q')
      clusters := s2.clusters.map (fun c =>
        { c with
          jobs := c.jobs.map (fun j => if j.ctx = ctx ∧ j.queue = q then { j with queue := q' } else j)
          history := c.history.map (fun h => if h.1.ctx = ctx ∧ h.1.queue = q ∧ h.2 = 0xFF then ({ h.1 with queue := q' }, h.2) else h) })
      dev := { s2.dev with poison := s2.dev.poison.map (fun u => match u with
        | .block c n sq b => if c = ctx ∧ n = q then .block c q' sq b else u
        | u => u) } }

/-- Setting EN clears the fields of Q.STATUS and restarts the running numbers at 1 (R24, R29, R30). -/
def Queue.restart (x : Queue) : Queue :=
  { x with
    en := true, errSeq := 0, err := 0, errs := [], wfail := false, under := false, frozen := false, qerr := false,
    head := 1, notify := 0, stale := none, parked := false, fetched := none, cmds := [], kept := [] }

/-- A number that can name a context (R351). -/
def ctxId (n : Nat) : Bool := decide (1 ≤ n) && decide (n ≤ 4095)

/-- QUEUE_ENABLE (R24): a write of Q.STATUS with EN 1. The safe state ignores it (R360). -/
def execQueueEnable (ctx q : Nat) (s : State) : Out :=
  if s.dev.safe || !ctxId ctx || 64 ≤ q || (s.queueAt ctx q).en then .next s
  else .next ((s.setAside ctx q).updQueue ctx q Queue.restart)

/-- The command names a producer of the queue that had not been accepted (R30). -/
def Command.namesAhead (c : Command) (q : Nat) (head : BitVec 32) : Bool :=
  c.prods.any (fun p => p.1 == q && decide (0 ≤ sdiff p.2 head))

/-- QUEUE_DISABLE (R30): a slot that has been fetched and not accepted is never accepted. -/
def execQueueDisable (ctx q : Nat) (s : State) : Out :=
  let x := s.queueAt ctx q
  if s.dev.safe || 64 ≤ q || !x.en then .next s
  else
    let s1 := s.updQueue ctx q (fun y =>
      { y with
        en := false, stale := none, parked := false, head := y.nextSeq, fetched := none
        cmds := y.cmds.map (fun c => if c.phase = .accepted then c.cancel else c) })
    let s2 := s1.updCtx ctx (fun c => { c with queues := c.queues.map (fun y =>
      (y.1, { y.2 with cmds := y.2.cmds.map (fun c => if c.namesAhead q x.nextSeq then c.cancel else c) })) })
    let gone := x.cmds.filter (fun c => c.phase == .accepted)
    .next (gone.foldl (fun t c => t.completeCmd ctx q c.seq) s2)

/-- The acknowledged queue takes up the next error that it kept (R40). -/
def Queue.ack (x : Queue) : Queue :=
  match x.errs with
  | [] => { x with frozen := false }
  | (seq, err) :: rest => { x with errSeq := seq, err := err, errs := rest }

/-- QUEUE_ACK (R40). It acts while the queue is disabled as well (log entry 84, DESIGN CHOICE). -/
def execQueueAck (ctx q : Nat) (v : BitVec 32) (s : State) : Out :=
  let x := s.queueAt ctx q
  if x.frozen && x.errSeq == v then .next (s.updQueue ctx q Queue.ack) else .next s

/-- SEED_WRITE (R34). -/
def execSeedWrite (ctx : Nat) (v : Word) (s : State) : Out :=
  if ctxId ctx then .next (s.updCtx ctx (fun c => { c with seed := v })) else .next s

end Sys2Proof.Machine
end

