-- ==== Sys2Proof/Machine/LatePop.lean ====
section
/-! DEFINITION. The result of a vector instruction that popped entries before their data was there (spec/05_fetch_and_issue.md R92): once the data
has arrived, the instruction's own meaning computes it from what it read at its issue. -/

namespace Sys2Proof.Machine

/-- The meaning of a vector instruction that may pop (R91, R92). -/
def execPop (i : Instr) (s : State) : Out :=
  match i with
  | .vadd d a b k pol me => execVadd d a b k pol me s
  | .vsub d a b k pol me => execVsub d a b k pol me s
  | .vmul d a b k pol me => execVmul d a b k pol me s
  | .vdiv d a b k pol me => execVdiv d a b k pol me s
  | .vmin d a b k pol me => execVmin d a b k pol me s
  | .vmax d a b k pol me => execVmax d a b k pol me s
  | .vand d a b k pol me => execVand d a b k pol me s
  | .vor d a b k pol me => execVor d a b k pol me s
  | .vxor d a b k pol me => execVxor d a b k pol me s
  | .vshl d a b k pol me => execVshl d a b k pol me s
  | .vshr d a b k pol me => execVshr d a b k pol me s
  | .vsar d a b k pol me => execVsar d a b k pol me s
  | .vcmp d a b c k u pol me => execVcmp d a b c k u pol me s
  | .vmov d a k pol me => execVmov d a k pol me s
  | .vsel d a b k => execVsel d a b k s
  | .vperm d a b k pol me => execVperm d a b k pol me s
  | .vslideUp d a n k pol me => execVslideUp d a n k pol me s
  | .vslideDown d a n k pol me => execVslideDown d a n k pol me s
  | .vcompress d a k pol => execVcompress d a k pol s
  | .vpopm d a => execVpopm d a s
  | .vrcp d a k pol me la => execVrcp d a k pol me la s
  | .vrsq d a k pol me la => execVrsq d a k pol me la s
  | .vsqrt d a k pol me la => execVsqrt d a k pol me la s
  | .vexp2 d a k pol me la => execVexp2 d a k pol me la s
  | .vlog2 d a k pol me la => execVlog2 d a k pol me la s
  | .vtanh d a k pol me la => execVtanh d a k pol me la s
  | .vsigm d a k pol me la => execVsigm d a k pol me la s
  | .vcvt d a k tag pol me la => execVcvt d a k tag pol me la s
  | .vcvts d a k tag pol me la => execVcvts d a k tag pol me la s
  | .vpack d a tag la => execVpack d a tag la s
  | .vredadd d a k f pol me la => execVredadd d a k f pol me la s
  | .vredmax d a k f pol me la => execVredmax d a k f pol me la s
  | .vredmin d a k f pol me la => execVredmin d a k f pol me la s
  | _ => .next s

/-- Entries put back in their queues, oldest first. -/
def backInQueues (es : List (Nat × QEntry)) : Vector (List QEntry) 8 :=
  Vector.ofFn (fun q => (es.filter (fun x => x.1 == q.val)).map (·.2))

/-- The state in which the instruction finds what it read at its issue, its entries filled, and nothing else to wait for. -/
def State.beforePop (s : State) (k : Core) (op : LongOp) (es : List (Nat × QEntry)) (snap : Snap) : State :=
  { s with
    core := { k with
      sel := .c
      task := k.task.map (fun t => { t with movedDue := none, topoDue := false })
      c := { Stream.init with g := snap.g, pc := op.pc }
      v := snap.v
      queues := backInQueues es
      handler := none
      handlerOn := false
      deferred := []
      stats := []
      sys := { k.sys with
        frm := op.frm, frmFsl := op.frmFsl, tensorId := op.tensor, qfxScale := snap.qfxScale, seed := snap.seed, fflags := 0, preReq := false } }
    dev := { s.dev with poison := [] } }

/-- The destination of an instruction as its meaning left it. -/
def Core.wrote (k : Core) (r : Reg) : RegWrite :=
  match r with
  | .g n => .g n (k.c.getG n)
  | .f n => .f n (k.getF n)
  | .v n => .v n (k.getV n)
  | .m _ => .g 0 0

/-- The data of the entry that an instruction has pushed to one of q4 to q7 that were empty. -/
def Core.pushed (k : Core) : BitVec 512 := (((List.range 4).flatMap (fun q => k.getQueue (q + 4)))[0]?.map (·.bits)).getD 0

/-- Deliveries of a long form, with its push named by the entry that it reserved at issue. -/
def fillAs (entry : Option Nat) (w : RegWrite) : RegWrite :=
  match w, entry with
  | .q _ bits, some en => .q en bits
  | w, _ => w

/-- What a vector instruction delivers once the data of its entries is there: its writes, flags and counts (R92, R168). -/
def State.popResult (s : State) (k : Core) (op : LongOp) (i : Instr) (es : List (Nat × QEntry)) (snap : Snap) (entry : Option Nat) :
    List RegWrite × BitVec 6 × Counts :=
  match execPop i (s.beforePop k op es snap) with
  | .next t =>
    match t.core.c.flight with
    | o :: _ =>
      match o.work with
      | .deliver ws flags counts _ => (ws.map (fillAs entry), flags, counts)
      | _ => ([], 0, Counts.zero)
    | [] =>
      let ws := match entry with
        | some en => [RegWrite.q en t.core.pushed]
        | none => op.dests.map t.core.wrote
      (ws, t.core.sys.fflags, (t.core.stats[0]?.map (·.2)).getD Counts.zero)
  | _ => ([], 0, Counts.zero)

end Sys2Proof.Machine
end

