-- ==== Sys2Proof/Machine/Solver.lean ====
section
/-! DEFINITION. The solver instructions (spec/13_rational_and_solver_instructions.md R255 to R259). -/

namespace Sys2Proof.Machine

/-- The tags of the solver instructions. -/
def solverTag (t : Nat) : Bool := t == 6 || t == 7 || t == 12 || t == 13

/-- PIV.THR or PIV.DELTA as read against a tag (R255): fp64, or fsl64 against fsl32; a NaN or NaR is taken as 0. -/
def pivReg (tag : Nat) (w : Word) : Val :=
  let v := if tag = 13 then fslDecode true w.toNat else IeeeFmt.fp64.decode w.toNat
  if v.unordered then .fin false 0 1 else v

/-- The magnitude of a value. -/
def Val.magnitude : Val → Val
  | .fin _ n d => .fin false n d
  | .inf _ => .inf false
  | v => v

/-- The lane that vpivot chooses (R256): the largest magnitude, the lowest on a tie, a NaN or NaR at once. -/
def pivotLane (fmt : BitVec 16) (bits : Nat) (active : Nat → Bool) : List Nat → Option (Nat × Val) → Option (Nat × Val)
  | [], best => best
  | i :: rest, best =>
    if active i then
      let v := valueOf fmt (laneOf (tagOf fmt) bits i)
      if v.unordered then some (i, v)
      else
        match best with
        | none => pivotLane fmt bits active rest (some (i, v))
        | some (j, w) =>
          pivotLane fmt bits active rest (if v.magnitude.compare w.magnitude > 0 then some (i, v) else some (j, w))
    else pivotLane fmt bits active rest best

/-- The regularised pivot: the sign of p, the magnitude of DELTA in the tag of the row (R256). -/
def regularised (md : Modes) (fmt : BitVec 16) (neg : Bool) (delta : Val) : Nat × Eff :=
  let t := tagOf fmt
  let (c, e) := convertTo { md with scale := scaleOf fmt } t delta
  match ieeeOf t with
  | some f => (c % f.signBit + (if neg then f.signBit else 0), e)
  | none =>
    if isFsl t then
      match fslDecode (t == 14) c with
      | .fin _ n d => (fslEncode (t == 14) neg n d, e)
      | .inf _ => (fslCode (t == 14) neg 1, e)
      | _ => (c, e)
    else
      let m : Int := (patInt c 32).natAbs
      (intPat (qsat (if neg then -m else m) 32).1 32, e)

/-- The chosen lane as fd receives it (R170, R177, R178, R256): a NaN canonical, a rational value in canonical form. A NaN or NaR counts;
a signalling NaN raises no NV (R166, R259; log entry 90, DESIGN CHOICE). -/
def pivotValue (fmt : BitVec 16) (p : Nat) (v : Val) : Nat × Eff :=
  let t := tagOf fmt
  match ieeeOf t with
  | some f => if v.unordered then (f.qnan, Eff.nanr) else (p, Eff.none)
  | none => if isFsl t then fslCanon (t == 14) v else (p, Eff.none)

/-- vpivot or vpivot.r (R256). -/
def vectorPivot (i : Instr) (regularise : Bool) (d a b : BitVec 5) (k : BitVec 2) (me : BitVec 1) (s : State) : Out :=
  let m := MaskSel.of me k 0
  issue { instr := i, streams := .cOnly, uses := .f d.toNat :: gRegs b ++ vRegs a ++ m.regs } s fun s1 =>
    let x := s1.core.getV a.toNat
    let t := tagOf x.fmt
    if !solverTag t then .trap 0x04 (tagVal i x.fmt 0)
    else
      let mask := (s1.core.getV m.reg).bits.toNat
      let start := (s1.g b).toNat
      let lanes := (List.range (lanesOf t)).filter (fun i => decide (start ≤ i))
      let dests := .f d.toNat :: gRegs b
      let md := s1.modes
      let put := fun (p : Nat) (ix : Word) (e : Eff) (pivots : Nat) =>
        Res.done (s1.launchOp i s.cur.pc 0 dests
          (.deliver [.f d.toNat (fResult x.fmt p), .g b.toNat ix] e.flags e.counts pivots))
      match pivotLane x.fmt x.bits.toNat (m.active mask) lanes none with
      | none => put (zeroOf t % 2 ^ laneBits t) allOnes64 Eff.none 0
      | some (best, v) =>
        let (p, e0) := pivotValue x.fmt (laneOf t x.bits.toNat best) v
        if v.unordered then put p (.ofNat 64 best) e0 0
        else if v.magnitude.compare (pivReg t s1.core.sys.pivThr) ≤ 0 then
          if regularise then
            let neg := v.isNeg && !v.isZero
            let (r, e) := regularised md x.fmt neg (pivReg t s1.core.sys.pivDelta)
            put r (.ofNat 64 best) e 1
          else put p (.ofNat 64 best) e0 1
        else put p (.ofNat 64 best) e0 0

/-- vpivot (R256). -/
def execVpivot (d a b : BitVec 5) (k : BitVec 2) (me : BitVec 1) (s : State) : Out :=
  vectorPivot (.vpivot d a b k me) false d a b k me s

/-- vpivot.r (R256). -/
def execVpivotR (d a b : BitVec 5) (k : BitVec 2) (me : BitVec 1) (s : State) : Out :=
  vectorPivot (.vpivotR d a b k me) true d a b k me s

/-- One lane of velim (R257): a − f·q under the rules of its tag. -/
def elimLane (md : Modes) (fmt : BitVec 16) (f : FReg) (a q : Nat) : Nat × Eff :=
  let t := tagOf fmt
  match ieeeOf t with
  | some g => deliverIeee g md.ieee false (ieeeFma md.ieee (g.decode f.pat).negate (g.decode q) (g.decode a))
  | none =>
    if isFsl t then
      let (p, e) := deliverFsl (t == 14) md.fsl (fslMul f.val (valueOf fmt q))
      let (r, e2) := deliverFsl (t == 14) md.fsl (fslAdd (valueOf fmt a) (fslDecode (t == 14) p).negate)
      (r, e.onceWith e2)
    else
      let x := (Q.ofInt (patInt a 32)).add ((Q.ofInt (-(patInt f.pat 32 * patInt q 32))).scale (-(scaleOf f.fmt)))
      let (i, nx) := roundInt md.ieee x
      let (r, e) := qsat i 32
      (intPat r 32, e.join (Eff.onlyIf nx Eff.nx))

/-- velim (R257, R258): operands are kept from issue, lanes are done in increasing order. -/
def execVelim (d a b : BitVec 5) (k : BitVec 2) (pol me : BitVec 1) (s : State) : Out :=
  let i : Instr := .velim d a b k pol me
  let m := MaskSel.of me k pol
  issue { instr := i, streams := .cOnly, uses := .f b.toNat :: vRegs d ++ vRegs a ++ m.regs } s fun s1 =>
    let row := s1.core.getV a.toNat
    let f := s1.core.getF b.toNat
    let old := s1.core.getV d.toNat
    let t := tagOf row.fmt
    if !solverTag t || tagOf f.fmt != t || tagOf old.fmt != t || (t == 12 && scaleOf old.fmt != scaleOf row.fmt) then
      .trap 0x04 (tagVal i row.fmt f.fmt)
    else
      s1.partRoom s.cur.wait <|
      let mask := if m.on then some (s1.core.getV m.reg).bits else none
      .done (s1.launchOp i s.cur.pc 0 (vRegs d) (.velim d.toNat row f old mask m.free) (part := true))

/-- One lane of vreg with one rounding (R259). -/
def regLane (md : Modes) (fmt : BitVec 16) (f : FReg) (a : Nat) : Nat × Eff :=
  let t := tagOf fmt
  match ieeeOf t with
  | some g => deliverIeee g md.ieee false (ieeeAdd md.ieee (g.decode a) (g.decode f.pat))
  | none =>
    if isFsl t then deliverFsl (t == 14) md.fsl (fslAdd (valueOf fmt a) f.val)
    else
      let x := (Q.ofInt (patInt a 32)).add ((Q.ofInt (patInt f.pat 32)).scale (scaleOf fmt - scaleOf f.fmt))
      let (i, nx) := roundInt md.ieee x
      let (r, e) := qsat i 32
      (intPat r 32, e.join (Eff.onlyIf nx Eff.nx))

/-- vreg (R259). -/
def execVreg (d a b : BitVec 5) (s : State) : Out :=
  let i : Instr := .vreg d a b
  issue { instr := i, streams := .cOnly, uses := .f b.toNat :: vRegs d ++ gRegs a } s fun s1 =>
    let x := s1.core.getV d.toNat
    let f := s1.core.getF b.toNat
    let t := tagOf x.fmt
    if !solverTag t || tagOf f.fmt != t then .trap 0x04 (tagVal i x.fmt f.fmt)
    else
      let l := (s1.g a).toNat
      if l < lanesOf t then
        let w := laneBits t
        let (p, e) := regLane s1.modes x.fmt f (laneOf t x.bits.toNat l)
        .done (s1.launchOp i s.cur.pc 0 (vRegs d)
          (.deliver [.v d.toNat { x with bits := .ofNat 512 (setField x.bits.toNat (w * l) w p) }] e.flags e.counts 0))
      else .done (s1.launchOp i s.cur.pc 0 (vRegs d) (.deliver [] 0 Counts.zero 0))

end Sys2Proof.Machine
end

