-- ==== Sys2Proof/Machine/Complete.lean ====
section
/-! DEFINITION. How instructions that have issued go on and complete: results computed at issue or once popped entries are filled, loads, element
forms, synchronising loads, queue reductions and eliminations (spec/05_fetch_and_issue.md R87, R92, R364, spec/10_memory_instructions.md R189 to
R195, spec/11_vector_instructions.md R219, spec/13_rational_and_solver_instructions.md R257, R258). -/

namespace Sys2Proof.Machine

/-- What one move of an incomplete instruction leads to. -/
inductive Moved where
  /-- It cannot go on now. -/
  | still
  | on (s : State)
  /-- An access meets a missing page (R159): the context whose access it is, the core that R161 names, kind, level, region and address. -/
  | fault (ctx pid kind level base : Nat) (va : Word)
  /-- The first use of a tile by another member's instruction meets one (R159, R238): that member's core and its instruction. -/
  | memberFault (p : Nat) (op : LongOp) (ctx pid kind level base : Nat) (va : Word)

/-! ### Delivering (R87, R92, R168) -/

/-- The format word of an entry that was reserved under an id. -/
def Core.entryFmt (k : Core) (id : Nat) : BitVec 16 :=
  (((k.queues.toList.flatMap (fun q => q) ++ (k.a.flight ++ k.c.flight).flatMap (fun op => op.work.popped)
      ++ (k.a.taken.map (fun x => x.2)).toList).find? (fun e => e.id == id)).map (fun e => e.fmt)).getD 0

/-- A queue load fills its entry; the padding of a BE entry is written as zero (R191). -/
def Core.fillLoad (k : Core) (id bits : Nat) : Core := k.fillEntry id (.ofNat 512 (clearPad (tagOf (k.entryFmt id)) bits))

/-- One register or entry takes its result. -/
def Core.deliver (k : Core) (x : StreamId) : RegWrite → Core
  | .g n v => k.updStr x (fun st => st.setG n v)
  | .f n r => k.setF n r
  | .v n r => k.setV n r
  | .q entry bits => k.fillEntry entry bits

/-- Results are written, with their flags, counts and pivot flags, and the instruction completes. -/
def Core.deliverAll (k : Core) (x : StreamId) (op : LongOp) (ws : List RegWrite) (flags : BitVec 6) (c : Counts) (pivots : Nat) : Core :=
  (((ws.foldl (fun k w => k.deliver x w) k).raise op.tensor flags c).raisePivots op.tensor pivots).dropOp x op.id

def Counts.add (x y : Counts) : Counts := ⟨x.sat + y.sat, x.flush + y.flush, x.nan + y.nan, x.pivot + y.pivot, x.qdisc + y.qdisc⟩

/-- A part-way instruction gathers the flags and counts of what it has done (R168). -/
def LongOp.gather (op : LongOp) (e : Eff) : LongOp := { op with flags := op.flags ||| e.flags, counts := op.counts.add e.counts }

/-- A part-way instruction has done its last part: it completes, and raises what it has gathered (R168). -/
def Core.completeOp (k : Core) (x : StreamId) (op : LongOp) (e : Eff) : Core :=
  (k.raise op.tensor (op.flags ||| e.flags) (op.counts.add e.counts)).dropOp x op.id

/-- A part-way instruction has done one more part, its `n`-th or its last. -/
def Core.onePart (k : Core) (x : StreamId) (op : LongOp) (n : Nat) (e : Eff) (work : Work) : Core :=
  if n ≤ op.prog + 1 then k.completeOp x op e
  else k.setOp x op.id (fun o => { o.gather e with prog := op.prog + 1, work := work })

/-- Poison met by an incomplete instruction (R320, R336). -/
def State.opPoison (s : State) (x : StreamId) (op : LongOp) (at_ : Word) : State := (s.onStream x).consumePoison at_ op.pc

/-! ### Loads -/

/-- Lines that other clusters' engines hold are recalled before an access (R199); the instruction goes on if it is still there. -/
def State.recalled (s : State) (x : StreamId) (op : LongOp) (cs : List Chunk) (k : State → Moved) : Moved :=
  let s1 := s.recall (some s.core.cluster) cs
  if (s1.core.str x).flight.any (fun o => o.id == op.id) then k s1 else .on s1

/-- The kind of log entry that an ordinary access makes where it is served (R144, R261, R345). -/
def State.accessLog (s : State) (cs : List Chunk) : Option LogKind := (s.executorNow s.core.pid 3 (.store []) cs).log

/-- A replay lets an access of an incomplete instruction be served (R346). -/
def State.accessLets (s : State) (x : StreamId) (op : LongOp) (addr : Word) (cs : List Chunk) : Bool :=
  match s.accessLog cs with
  | some k => s.logLets k (s.core.served0 (s.core.opWho op) x op.ordinal) addr cs
  | none => true

/-- The access has been served where its order is open (R345). -/
def State.accessServed (s : State) (x : StreamId) (op : LongOp) (addr : Word) (cs : List Chunk) : State :=
  match s.accessLog cs with
  | some k => s.logServed k (s.core.served0 (s.core.opWho op) x op.ordinal) addr cs
  | none => s

/-- The bytes of one load of an incomplete instruction, once older accesses of its stream (R187, R189), what an entry that it had popped orders
before it (R223) and a replay (R346) allow it. -/
def State.loadMove (s : State) (x : StreamId) (op : LongOp) (addr : Word) (n : Nat) (use : State → List Byte → Moved) : Moved :=
  let w := s.core.opWho op
  let here := s.spans w addr n
  if s.orderBlocked s.core x op.id op.mode .reads here || s.unseen s.core x op here.1 then .still
  else
    match s.locate w .load addr n with
    | .deny => .on (s.opTrap x op 0x07 addr)
    | .fault l b va => .fault w.ctx s.core.pid 0 l b va
    | .ok cs =>
      if !s.accessLets x op addr cs then .still
      else
        s.recalled x op cs fun s1 =>
          match s1.poisoned cs with
          | some u => .on (s1.opPoison x op u.address)
          | none => use ((s1.touch w.ctx false cs).accessServed x op addr cs) (s1.peekAll cs)

/-- The value of a scalar load (R189). -/
def loadValue (sext : Bool) (n : Nat) (bs : List Byte) : Word :=
  if sext then w64 (patInt (bytesNat bs) (8 * n)) else .ofNat 64 (bytesNat bs)

/-- The next element's place, its traps, and what it then does (R192 to R194); an indexed form takes the element's offset as it has read it ahead, or
loads it from its list first. -/
def State.elemMove (s : State) (x : StreamId) (op : LongOp) (plan : ElemPlan) (size : Nat) (go : State → Word → Moved) : Moved :=
  let w := s.core.opWho op
  let checked := fun (s1 : State) (a : Word) =>
    match s1.checkAddr w a size size with
    | some (c, v) => Moved.on (s1.opTrap x op c v)
    | none => go s1 a
  match plan with
  | .indexed base list =>
    match op.offsetOf op.prog with
    | some v => checked s (listed base v)
    | none =>
      let at_ := list + .ofNat 64 (4 * op.prog)
      match s.checkAddr w at_ 4 4 with
      | some (c, v) => .on (s.opTrap x op c v)
      | none => s.loadMove x op at_ 4 (fun s1 bs => checked s1 (listed base (.ofNat 64 (bytesNat bs))))
  | p =>
    match s.elemAt w p op.prog with
    | .addr a => checked s a
    | .trap c a => .on (s.opTrap x op c a)
    | .list _ a => .on (s.opTrap x op 0x07 a)

/-- A word of the list that can be read now: its chunks and the offset (R187, R192, R265). Ahead of its element it is read where its page leaves the order
free; one that would trap, park, consume poison or recall a line is read at its element. -/
def State.listWord (s : State) (x : StreamId) (op : LongOp) (list : Word) (i : Nat) : Option (List Chunk × Word) :=
  let w := s.core.opWho op
  let at_ := list + .ofNat 64 (4 * i)
  let here := s.spans w at_ 4
  if (s.checkAddr w at_ 4 4).isSome || s.orderBlocked s.core x op.id op.mode .reads here || s.unseen s.core x op here.1
      || (i != op.prog && decide (here.2 < 2)) then none
  else
    match s.locate w .load at_ 4 with
    | .ok cs =>
      let elsewhere := s.clusters.any (fun c => c.id != s.core.cluster && c.hot.any (fun l => cs.any (fun y => y.lines.contains l)))
      if peerChunk cs || (s.poisoned cs).isSome || elsewhere || !s.accessLets x op at_ cs then none
      else some (cs, .ofNat 64 (bytesNat (s.peekAll cs)))
    | _ => none

/-- An indexed form reads the words of its list one after another, up to one that it cannot read yet or that an element which it stores may still
change (R187, R192); `got` holds those that it has (log entry 95). -/
def State.readList (s : State) (x : StreamId) (op : LongOp) (base list : Word) (size : Nat) (stores : Bool) :
    List Nat → List (Nat × Word) → State × List (Nat × Word)
  | [], got => (s, got)
  | i :: rest, got =>
    let w := s.core.opWho op
    let at_ := list + .ofNat 64 (4 * i)
    if got.any (fun e => e.1 == i) then s.readList x op base list size stores rest got
    else if stores && got.any (fun e => decide (op.prog ≤ e.1) && overlap (s.spans w (listed base e.2) size).1 (s.spans w at_ 4).1) then (s, got)
    else
      match s.listWord x op list i with
      | none => (s, got)
      | some (cs, v) => ((s.touch w.ctx false cs).accessServed x op at_ cs).readList x op base list size stores rest (got ++ [(i, v)])

/-- The instruction with the words of its list that it can read now, when it is an indexed form that runs. -/
def State.takeList (s : State) (x : StreamId) (op : LongOp) : State × LongOp :=
  let read := fun (base list : Word) (size : Nat) (stores : Bool) =>
    if op.status != .running || s.core.freezes op then (s, op)
    else
      match s.readList x op base list size stores ((List.range (64 / size)).drop op.prog) op.list with
      | (s1, got) => (s1.updThis (fun k => k.setOp x op.id (fun o => { o with list := got })), { op with list := got })
  match op.work with
  | .ldElems _ (.indexed b l) n _ => read b l n false
  | .stElems _ (.indexed b l) n => read b l n true
  | _ => (s, op)

/-- Element `i` of an element load (R192). -/
def State.ldElem (s : State) (x : StreamId) (op : LongOp) (entry : Nat) (plan : ElemPlan) (size : Nat) (acc : BitVec 512) : Moved :=
  s.elemMove x op plan size fun s0 a =>
    s0.loadMove x op a size fun s1 bs =>
      let acc1 := acc.toNat + bytesNat bs * 2 ^ (8 * size * op.prog)
      if 64 / size ≤ op.prog + 1 then .on (s1.updThis (fun k => (k.fillLoad entry acc1).dropOp x op.id))
      else .on (s1.updThis (fun k => k.setOp x op.id (fun o =>
        { o with prog := op.prog + 1, born := s1.dev.cycle.toNat, work := .ldElems entry plan size (.ofNat 512 acc1) })))

/-- Element `i` of an element store (R192): it arrives at its executor as it is performed, once nothing that waits there goes before it (R269). -/
def State.stElem (s : State) (x : StreamId) (op : LongOp) (data : QEntry) (plan : ElemPlan) (size : Nat) : Moved :=
  s.elemMove x op plan size fun s0 a =>
    let w := s0.core.opWho op
    let bs := (natBytes data.bits.toNat 64 |>.drop (size * op.prog)).take size
    if s0.orderBlocked s0.core x op.id op.mode .writes (s0.spans w a size) then .still
    else
      match s0.locate w .store a size with
      | .deny => .on (s0.opTrap x op 0x07 a)
      | .fault l b va => .fault w.ctx s0.core.pid 1 l b va
      | .ok cs =>
        let e := s0.executorNow s0.core.pid 3 (.store []) cs
        if !s0.accessLets x op a cs || !s0.turnFor e (placeOf cs) s0.core.pid s0.dev.cycle.toNat false then .still
        else
          s0.recalled x op cs fun s1 =>
            .on (((((s1.touch w.ctx false cs).pokeAll cs bs).accessServed x op a cs).servedAt e (placeOf cs) s0.core.pid).updThis (fun k =>
              (k.onePart x op (64 / size) Eff.none (.stElems data plan size)).setOp x op.id (fun o => { o with born := s1.dev.cycle.toNat })))

/-- A stq whose entry has been filled (R92, R191): its store is made as one that issues now, under the place that it took at its issue. -/
def State.storeMove (s : State) (x : StreamId) (op : LongOp) (e : QEntry) (addr : Word) : Moved :=
  let w := s.core.opWho op
  let bs := natBytes e.bits.toNat 64
  match s.ownSpad w .store addr 64 with
  | some cs =>
    if s.orderBlocked s.core x op.id op.mode .writes (cs.map Chunk.span, chunksOrd cs) then .still
    else .on ((s.pokeAll cs bs).updThis (fun k => k.dropOp x op.id))
  | none =>
    let r : Request :=
      { id := op.id, stream := x, ctx := w.ctx, queue := w.queue, seq := w.seq, kind := .store bs, addr := addr, mode := op.mode,
        loc := s.locationScope w addr, sc := 0, born := op.born, promoted := false, netPromoted := false, served := false, parked := false,
        ordinal := op.ordinal, past := false, since := (s.core.task.map (fun t => t.since)).getD 0, noReplay := s.noReplay }
    .on (s.updThis (fun k => { k.dropOp x op.id with pending := k.pending ++ [r] }))

/-! ### Synchronising loads (R195, R196) -/

/-- The acquire half of an operation of a stream that has taken effect (R271). -/
def State.acquireOn (s : State) (x : StreamId) (sc : Nat) : State :=
  s.updThis (fun k => { k.updStr x (fun st => { st with fence := st.fence ++ [⟨true, false, sc, k.nextId, st.pc, st.mode⟩] }) with nextId := k.nextId + 1 })

/-- A synchronising load takes its words once all are full: data and bits in one step, and it acts as an acquire at DOMAIN scope (R271). -/
def State.syncLoad (s : State) (x : StreamId) (op : LongOp) (addr : Word) (n : Nat) (use : Core → List Byte → Core) : Moved :=
  let w := s.core.opWho op
  let who := s.core.served0 w x op.ordinal
  let here := s.spans w addr n
  let done := fun (s1 : State) (bs : List Byte) =>
    Moved.on ((s1.updThis (fun k => (use k bs).dropOp x op.id)).acquireOn x 5)
  match s.locate w .load addr n with
  | .deny => .on (s.opTrap x op 0x07 addr)
  | .fault l b va => .fault w.ctx s.core.pid 0 l b va
  | .ok cs =>
    if s.orderBlocked s.core x op.id op.mode .both here || s.unseen s.core x op here.1 then .still
    else if peerChunk cs then
      (if Config.peerReady s.free then done (s.tried.touch w.ctx false cs) (s.tried.peekAll cs) else .on s.tried)
    else
      match spadWords cs with
      | none => .on (s.opTrap x op 0x07 addr)
      | some (pid, wd, ws) =>
        if !s.bitsAre pid wd ws true || !s.logLets .fullEmpty who addr cs then .still
        else
          match s.poisoned cs with
          | some u => .on (s.opPoison x op u.address)
          | none => done ((s.setBits pid wd ws false).logServed .fullEmpty who addr cs) (s.peekAll cs)

/-! ### Queue reductions and eliminations -/

/-- The modes that an instruction read at its issue (R168). -/
def LongOp.modes (op : LongOp) (scale : Int) : Modes := ⟨op.frm.toNat, op.frmFsl.toNat, scale⟩

/-- The next entry of a queue reduction (R219); entries leave in issue order (R90). Each partial sum counts as a result element: one NAN for every entry
after which the destination is a NaN (log entry 80, DESIGN CHOICE). -/
def State.redqMove (s : State) (x : StreamId) (op : LongOp) (toF : Bool) (d q n : Nat) : Moved :=
  match s.core.getQueue q with
  | [] => .still
  | e :: rest =>
    if !e.filled || s.core.claimedBefore q op.id then .still
    else
      let fmt := redFmt s.core toF (.ofNat 5 d)
      let w := laneBits (tagOf fmt)
      let old := if toF then (s.core.getF d).bits.toNat % 2 ^ w else (s.core.getV d).bits.toNat % 2 ^ w
      match redqEntry (op.modes (scaleOf fmt)) fmt old ⟨e.bits, e.fmt⟩ with
      | none => .on (s.opTrap x op 0x04 (op.word.zeroExtend 64 <<< 32 ||| e.fmt.zeroExtend 64))
      | some (p, eff) =>
        if s.dev.poison.contains (.entry s.core.pid e.id) then .on (s.opPoison x op 0)
        else
          .on (s.updThis (fun k =>
            let k1 := (k.setQueue q rest).saw x [e]
            let k2 := if toF then k1.setF d { k1.getF d with bits := .ofNat 64 p }
              else
                let old := (k1.getV d).bits.toNat
                k1.setV d { k1.getV d with bits := .ofNat 512 (old / 2 ^ w * 2 ^ w + p % 2 ^ w) }
            k2.onePart x op n eff op.work))

/-- The next lane of an elimination (R257, R258). -/
def State.elimMove (s : State) (x : StreamId) (op : LongOp) (d : Nat) (row : VReg) (factor : FReg) (acc : VReg)
    (mask : Option (BitVec 512)) (free : Bool) : Moved :=
  let t := tagOf row.fmt
  let i := op.prog
  let (lo, w) := laneAt t i
  let active := match mask with
    | none => true
    | some m => m.getLsbD i
  let (p, e) := if active then elimLane (op.modes (scaleOf row.fmt)) row.fmt factor (laneOf t acc.bits.toNat i) (laneOf t row.bits.toNat i)
    else (if free then 2 ^ w - 1 else bitField acc.bits.toNat lo w, Eff.none)
  let acc1 : VReg := { acc with bits := .ofNat 512 (setField acc.bits.toNat lo w p) }
  .on (s.updThis (fun k => (k.setV d acc1).onePart x op (lanesOf t) e (.velim d row factor acc1 mask free)))

/-! ### One move of the instructions that are not matrix instructions -/

/-- An atomic with return is served where LONG_OP_COMPLETE names it too, when its turn has come (R198, R269). -/
def State.atomicMove (s : State) (op : LongOp) : Moved :=
  match s.core.asks.find? (fun a => a.id == op.id) with
  | some a => .on (s.serve a (fun _ => true))
  | none => .still

/-- An entry that the instruction popped is poisoned (R336). -/
def State.popPoisoned (s : State) (op : LongOp) : Bool :=
  !s.dev.poison.isEmpty && op.work.popped.any (fun e => s.dev.poison.contains (.entry s.core.pid e.id))

/-- One move of an incomplete instruction of the selected core. -/
def State.plainMove (s : State) (x : StreamId) (op : LongOp) : Moved :=
  match op.work with
  | .deliver ws flags c pivots => .on (s.updThis (fun k => k.deliverAll x op ws flags c pivots))
  | .late i es snap entry =>
    let (ws, flags, c) := s.popResult s.core op i es snap entry
    .on (s.updThis (fun k => k.deliverAll x op ws flags c 0))
  | .qget d e => .on (s.updThis (fun k => k.deliverAll x op [.g d (e.bits.truncate 64)] 0 Counts.zero 0))
  | .storeq e addr => s.storeMove x op e addr
  | .load d addr n sext =>
    s.loadMove x op addr n (fun s1 bs => .on (s1.updThis (fun k => (k.updStr x (fun st => st.setG d (loadValue sext n bs))).dropOp x op.id)))
  | .loadq entry addr =>
    s.loadMove x op addr 64 (fun s1 bs => .on (s1.updThis (fun k => (k.fillLoad entry (bytesNat bs)).dropOp x op.id)))
  | .ldElems entry plan size acc => s.ldElem x op entry plan size acc
  | .stElems data plan size => s.stElem x op data plan size
  | .lds d addr => s.syncLoad x op addr 8 (fun k bs => k.updStr x (fun st => st.setG d (.ofNat 64 (bytesNat bs))))
  | .ldsq entry q fmt addr =>
    if s.core.hasEntry entry then s.syncLoad x op addr 64 (fun k bs => k.fillLoad entry (bytesNat bs))
    else if !s.hasRoom q then .still
    else .on (s.updThis (fun k => k.setQueue q (reserveAgain entry fmt (k.getQueue q))))
  | .atomic .. => s.atomicMove op
  | .vredq toF d q n => s.redqMove x op toF d q n
  | .velim d row f acc mask free => s.elimMove x op d row f acc mask free
  | _ => .still

end Sys2Proof.Machine
end

