-- ==== Sys2Proof/Machine/MatrixWork.lean ====
section
/-! DEFINITION. How matrix, accumulator and fast-weight instructions execute
(spec/12_matrix_instructions.md R222 to R243). Those of one C-stream execute in issue order (R223; log entry 31). -/

namespace Sys2Proof.Machine

/-! ### Operands as values -/

/-- K of an input format (R120). -/
def mmacK (f : Nat) : Nat :=
  match f with
  | 2 => 32
  | 3 => 32
  | 4 => 64
  | 5 => 128
  | _ => 16

/-- The pattern of row r of an operand (R226): half of a register or entry, or the row's bytes in scratchpad. -/
def Core.operandRow (k : Core) (rowBytes : Nat) (m : MOperand) (r : Nat) : Nat :=
  match m with
  | .regs rs => ((rs[r / 2]?).map (fun x => x.bits.toNat)).getD 0 / 2 ^ (256 * (r % 2)) % 2 ^ 256
  | .entries _ es => ((es[r / 2]?).map (fun x => x.bits.toNat)).getD 0 / 2 ^ (256 * (r % 2)) % 2 ^ 256
  | .scratch p => bytesNat ((List.range rowBytes).map (fun c => Memory.get k.spad ((PairUse.operand rowBytes).at p r c)))
  | .unread => 0

/-- The K elements of a row as numbers: integers for i8 are taken as values too. -/
def rowValues (f row : Nat) : List Val :=
  (List.range (mmacK f)).map (fun i =>
    match f with
    | 0 => IeeeFmt.bf16.decode (bitField row (16 * i) 16)
    | 1 => IeeeFmt.fp16.decode (bitField row (16 * i) 16)
    | 2 => let v := patInt (bitField row (8 * i) 8) 8
           .fin (decide (v < 0)) v.natAbs 1
    | _ => let t := mmacTag f
           beElement t (bitField row (8 * beBytes t * (i / 16)) (8 * beBytes t)) (i % 16))

/-- The scratchpad words of an operand, for their poison (R336). -/
def Core.operandWords (k : Core) (rowBytes : Nat) (m : MOperand) : List PoisonUnit :=
  match m with
  | .scratch p => ((List.range 16).flatMap (fun r => (List.range rowBytes).map (fun c =>
      (PairUse.operand rowBytes).at p r c / 8))).eraseDups.map (PoisonUnit.word k.pid)
  | _ => []

/-! ### Sums with one rounding (R227, R240) -/

/-- An exact product as a value. -/
def Exact.val : Exact → Val
  | .fin s n d => .fin s n d
  | .inf s _ => .inf s
  | _ => .nan false

/-- rne32 of the exact sum of addends and products: a NaN that the sum creates sets NV, one that comes in does not. -/
def sumProducts (adds : List Val) (ps : List (Val × Val)) : Nat × Eff :=
  let quiet := fun (v : Val) => if v.unordered then Val.nan false else v
  let made := ps.any (fun x => !x.1.unordered && !x.2.unordered && (ieeeMul x.1 x.2).val.unordered)
  let vs := adds.map quiet ++ ps.map (fun x => (ieeeMul x.1 x.2).val)
  let (p, e) := deliverIeee .fp32 0 false (redSumIeee 0 vs)
  (p, if made then e.join Eff.nv else e)

/-- An effect whose NaN count is left out: it is counted once per element (R227). -/
def Eff.uncounted (e : Eff) : Eff := { e with nan := 0 }

/-- One NaN counted for a NaN pattern of fp32. -/
def nanOnce (p : Nat) : Eff := Eff.onlyIf (IeeeFmt.fp32.decode p).unordered Eff.nanr

/-! ### mmac (R227) -/

/-- One promotion group of a floating element. -/
def groupFloat (c : Nat) (ps : List (Val × Val)) : Nat × Eff := sumProducts [IeeeFmt.fp32.decode c] ps

/-- One promotion group of an integer element. -/
def groupInt (c : Nat) (ps : List (Val × Val)) : Nat × Eff :=
  let (c1, e) := qsat (patInt c 32 + (ps.map (fun y => y.1.q.num * y.2.q.num)).sum) 32
  (intPat c1 32, e)

/-- Promotion groups of a format: K/P (R227). -/
def mmacGroups (f p : Nat) : Nat := mmacK f / 2 ^ p

/-- Promotion group `g` of one element: its new value and its effects; a NaN is counted once, after the last group (R227). -/
def mmacElem (f p g : Nat) (a b : List Val) (c : Nat) : Nat × Eff :=
  let ps := ((a.drop (g * 2 ^ p)).take (2 ^ p)).zip ((b.drop (g * 2 ^ p)).take (2 ^ p))
  if f = 2 then groupInt c ps
  else
    let (c1, e) := groupFloat c ps
    (c1, if mmacGroups f p ≤ g + 1 then e.uncounted.join (nanOnce c1) else e.uncounted)

/-- A tile after promotion group `g` of an mmac, and the group's effects. -/
def mmacTileStep (f p g : Nat) (t : Tile) (a b : List (List Val)) : Tile × Eff :=
  let t0 := t.withTag (if f = 2 then .i32 else .fp32)
  (List.range 256).foldl (fun (acc : Tile × Eff) ij =>
    let i := ij / 16
    let j := ij % 16
    let (c, e) := mmacElem f p g ((a[i]?).getD []) ((b[j]?).getD []) (t0.at i j)
    (acc.1.put i j c, acc.2.join e)) (t0, Eff.none)

/-! ### Order and gangs (R49, R222, R223) -/

/-- The joint instructions of a gang that execute together: one of each member, each the next matrix instruction of its core. -/
def State.gangHeads (s : State) (op : LongOp) : Option (List (Nat × LongOp)) :=
  (gangCores s.core.cluster op.members).mapM (fun p =>
    let k := s.coreAt p
    match (if p = s.core.pid then some op else s.partner s.core op p) with
    | some o => if k.atHead o then some (p, o) else none
    | none => none)

/-- A member has no joint instruction of the gang any more: its task ended, or a handler abandoned it (R49). -/
def State.gangLost (s : State) (op : LongOp) : Bool := (s.partners s.core op).any (fun y => y.2.isNone)

/-- Tiles of the members are claimed or filled before they are used (R235, R238). -/
def State.useTiles (s : State) : List Nat → GroupRes
  | [] => .ok s 0
  | t :: ts =>
    match s.useTile t with
    | .ok s1 _ => s1.useTiles ts
    | r => r

/-- A member's instruction traps late. -/
def State.memberTrap (s : State) (p : Nat) (cause : Nat) (val : Word) : State :=
  s.onCore p (fun s1 =>
    match s1.core.matrixHead with
    | some op => s1.opTrap .c op cause val
    | none => s1)

/-- The tiles that a joint instruction names on its core. -/
def Core.jointTiles (k : Core) (op : LongOp) : List Nat :=
  match op.work with
  | .mmac _ _ d _ _ => [d]
  | .fwdelta d _ _ _ _ => (List.range (k.getAot d).count).map (fun t => d + t)
  | .fwread d _ _ _ => (List.range (k.getAot d).count).map (fun t => d + t)
  | .fwchunk d _ => (List.range (k.getAot d).count).map (fun t => d + t)
  | _ => []

/-- Format words of an operand. -/
def MOperand.fmts : MOperand → List (BitVec 16)
  | .regs rs => rs.map (fun r => r.fmt)
  | .entries _ es => es.map (fun e => e.fmt)
  | _ => []

/-- TRAP.VAL of cause 0x04 found late (R98): the word and the format words that the instruction shows. -/
def LongOp.tagVal (op : LongOp) (tag : Nat) (x y : MOperand) : Word :=
  op.word.zeroExtend 64 <<< (32 : Nat) ||| (shownFmt tag y.fmts).zeroExtend 64 <<< (16 : Nat) ||| (shownFmt tag x.fmts).zeroExtend 64

/-- A tile that a fill has brought does not go with its instruction (R228, R239, R364). -/
def Core.lateTag (k : Core) (op : LongOp) : Option (Nat × Word) :=
  match op.work with
  | .mmac f _ d a b =>
    ((k.getTile d).tag.clash f).map (fun c => (c, if c = 0x01 then op.word.zeroExtend 64 else op.tagVal (mmacTag f) a b))
  | w =>
    if (k.jointTiles op).any (fun t => (k.getTile t).tag != .fp32) then
      some (0x04, match w with
        | .fwdelta _ _ x y _ => op.tagVal 6 x y
        | .fwread _ _ x _ => op.tagVal 6 x .unread
        | _ => op.tagVal 6 .unread .unread)
    else none

/-- The core that holds a tile as poisoned (R336). -/
def State.badTile (s : State) (ts : List Nat) : Option PoisonUnit :=
  (ts.map (PoisonUnit.tile s.core.pid)).find? (fun u => s.dev.poison.contains u)

/-- Every member's tiles are made ready and go with its instruction, or the first trap or fault stops the gang. -/
def State.readyTiles (s : State) : List (Nat × LongOp) → Moved
  | [] => .on s
  | (p, op) :: rest =>
    let s1 := s.select p
    match s1.useTiles (s1.core.jointTiles op) with
    | .trap s2 c v => .on ((s2.select s.core.pid).memberTrap p c v)
    | .fault _ ctx pid kind l b va => .memberFault p op ctx pid kind l b va
    | .held _ _ => .still
    | .ok s2 _ =>
      match s2.core.lateTag op with
      | some (c, v) => .on ((s2.select s.core.pid).memberTrap p c v)
      | none =>
        match s2.badTile (s2.core.jointTiles op) with
        | some u => .on ((s2.select s.core.pid).memberTrap p 0x12 u.address)
        | none => (s2.select s.core.pid).readyTiles rest

/-- A member waits for what its A-stream wrote before it pushed an entry that the member's C-stream had popped (R223). -/
def State.gangUnseen (s : State) (heads : List (Nat × LongOp)) : Bool :=
  heads.any (fun h => s.unseen (s.coreAt h.1) .c h.2 (h.2.work.tileReads h.1))

/-! ### Multiply-accumulate of a gang -/

/-- Promotion groups of a multiply-accumulate. -/
def Work.groups : Work → Nat
  | .mmac f p _ _ _ => mmacGroups f p
  | _ => 0

/-- One member's part of the next promotion group of an mmac. Members whose p differ each do their own groups, and the gang completes together
when every one has done its last (log entry 24, DESIGN CHOICE). -/
def Core.mmacMember (k : Core) (op : LongOp) (a : List (List Val)) (last : Bool) : Core :=
  match op.work with
  | .mmac f p d _ b =>
    let rows := (List.range 16).map (fun r => rowValues f (k.operandRow (mmacRowBytes f) b r))
    let (t, e) := if op.prog < mmacGroups f p then mmacTileStep f p op.prog (k.getTile d) a rows else (k.getTile d, Eff.none)
    let k1 := k.setTile d t
    if last then k1.completeOp .c op e
    else k1.setOp .c op.id (fun o => { o.gather e with prog := min (op.prog + 1) (mmacGroups f p) })
  | _ => k

/-- The whole gang executes the next promotion group of an mmac (R222, R227, R229): A is the leader's. -/
def State.mmacGang (s : State) (heads : List (Nat × LongOp)) : State :=
  match heads with
  | [] => s
  | (lead, lop) :: _ =>
    match lop.work with
    | .mmac f _ _ a _ =>
      let k := s.coreAt lead
      let rows := (List.range 16).map (fun r => rowValues f (k.operandRow (mmacRowBytes f) a r))
      let taken := k.operandWords (mmacRowBytes f) a ++ heads.flatMap (fun h => match h.2.work with
        | .mmac f _ _ _ b => (s.coreAt h.1).operandWords (mmacRowBytes f) b
        | _ => [])
      match taken.find? (fun u => s.dev.poison.contains u) with
      | some u => s.opPoison .c lop u.address
      | none =>
        let last := heads.all (fun h => decide (h.2.work.groups ≤ h.2.prog + 1))
        heads.foldl (fun x h => x.updCore h.1 (fun k => k.mmacMember h.2 rows last)) s
    | _ => s

/-! ### Fast weights (R239 to R242) -/

/-- 16 fp32 lanes of a register or entry. -/
def lanes32 (bits : Nat) : List Nat := (List.range 16).map (fun i => bitField bits (32 * i) 32)

/-- The fp32 patterns of an operand, 16 a register or entry. -/
def MOperand.patterns : MOperand → List Nat
  | .regs rs => rs.flatMap (fun r => lanes32 r.bits.toNat)
  | .entries _ es => es.flatMap (fun e => lanes32 e.bits.toNat)
  | _ => []

/-- rne32 values of patterns. -/
def f32 (p : Nat) : Val := IeeeFmt.fp32.decode p

/-- Row i of S over a group of tiles: column 16t + j is element (i, j) of tile t (R239). -/
def Core.groupRow (k : Core) (d c i : Nat) : List Nat :=
  (List.range c).flatMap (fun t => (List.range 16).map (fun j => (k.getTile (d + t)).at i j))

/-- One row under the update of R240: its new elements and the effects. -/
def deltaRow (srow ks : List Nat) (v alpha beta : Nat) : List Nat × Eff :=
  let (u, e1) := sumProducts [] ((srow.map f32).zip (ks.map f32))
  let (w, e2) := sumProducts [] [(f32 alpha, f32 u)]
  let (e, e3) := sumProducts [f32 v, (f32 w).negate] []
  let (b, e4) := sumProducts [] [(f32 beta, f32 e)]
  let out := (srow.zip ks).map (fun x => sumProducts [] [(f32 alpha, f32 x.1), (f32 b, f32 x.2)])
  let before := ((e1.join e2).join (e3.join e4)).uncounted
  (out.map (·.1), out.foldl (fun acc x => acc.join x.2) before)

/-- The update of R240 on one member's tiles. -/
def Core.deltaTiles (k : Core) (d c : Nat) (ks vs : List Nat) (ab : Word) : Core × Eff :=
  let alpha := ab.toNat % 2 ^ 32
  let beta := ab.toNat / 2 ^ 32
  let rows := (List.range 16).map (fun i => deltaRow (k.groupRow d c i) ks ((vs[i]?).getD 0) alpha beta)
  let k1 := (List.range c).foldl (fun (k : Core) t =>
    let tile := (List.range 256).foldl (fun (x : Tile) ij =>
      x.put (ij / 16) (ij % 16) ((((rows[ij / 16]?).getD ([], Eff.none)).1[16 * t + ij % 16]?).getD 0))
      ((k.getTile (d + t)).withTag .fp32)
    k.setTile (d + t) tile) k
  (k1.mapAot d c (fun e => { e with tokens := e.tokens + 1 }), rows.foldl (fun acc r => acc.join r.2) Eff.none)

/-- S · q of R241 on one member: 16 fp32 lanes. -/
def Core.readTiles (k : Core) (d c : Nat) (qs : List Nat) : BitVec 512 × Eff :=
  let os := (List.range 16).map (fun i => sumProducts [] (((k.groupRow d c i).map f32).zip (qs.map f32)))
  (.ofNat 512 ((os.zipIdx).foldl (fun acc x => acc + x.1.1 * 2 ^ (32 * x.2)) 0), os.foldl (fun acc x => acc.join x.2) Eff.none)

/-- Every member traps late with cause 0x09, reason 5 (R239). -/
def State.fastTrap (s : State) (heads : List (Nat × LongOp)) : State :=
  heads.foldl (fun x h =>
    let d := h.2.work.fastTile.getD 0
    x.memberTrap h.1 0x09 (tileVal ((x.coreAt h.1).getAot d).key 5 d)) s

/-- fwdelta of the whole gang (R240). -/
def State.deltaGang (s : State) (heads : List (Nat × LongOp)) : State :=
  match heads with
  | [] => s
  | (_, lop) :: _ =>
    match lop.work with
    | .fwdelta _ _ ks _ ab =>
      heads.foldl (fun x h => x.updCore h.1 (fun k =>
        match h.2.work with
        | .fwdelta d _ _ v _ =>
          let (k1, e) := k.deltaTiles d (k.getAot d).count ks.patterns v.patterns ab
          (k1.raise h.2.tensor e.flags e.counts).dropOp .c h.2.id
        | _ => k)) s
    | _ => s

/-- fwread of the whole gang (R241). -/
def State.readGang (s : State) (heads : List (Nat × LongOp)) : State :=
  match heads with
  | [] => s
  | (_, lop) :: _ =>
    match lop.work with
    | .fwread _ _ qs _ =>
      heads.foldl (fun x h => x.updCore h.1 (fun k =>
        match h.2.work with
        | .fwread d _ _ entry =>
          let (o, e) := k.readTiles d (k.getAot d).count qs.patterns
          ((k.fillEntry entry o).raise h.2.tensor e.flags e.counts).dropOp .c h.2.id
        | _ => k)) s
    | _ => s

/-- The entries that a member pops for a token (R242). -/
def Core.tokenEntries (k : Core) (c : Nat) (lead : Bool) : List QEntry :=
  (if lead then (k.getQueue 0).take (c + 1) ++ (k.getQueue 2).take c else []) ++ (k.getQueue 1).take 1

/-- The pops of a token. -/
def Core.popToken (k : Core) (c : Nat) (lead : Bool) : Core :=
  let k1 := (k.setQueue 1 ((k.getQueue 1).drop 1)).saw .c (k.tokenEntries c lead)
  if lead then (k1.setQueue 0 ((k1.getQueue 0).drop (c + 1))).setQueue 2 ((k1.getQueue 2).drop c) else k1

/-- One member's part of a token: update, read, push (R242). The gang takes as many tokens as its leader's instruction names, which supplies
them (log entry 24, DESIGN CHOICE where members' n differ). -/
def Core.tokenMember (k : Core) (op : LongOp) (n : Nat) (ks qs : List Nat) (ab : Word) (lead : Bool) : Core :=
  match op.work with
  | .fwchunk d _ =>
    let c := (k.getAot d).count
    let vs := ((k.getQueue 1).head?.map (fun e => lanes32 e.bits.toNat)).getD []
    let (k1, e1) := (k.popToken c lead).deltaTiles d c ks vs ab
    let (o, e2) := k1.readTiles d c qs
    let k2 := { k1.setQueue 4 (k1.getQueue 4 ++ [⟨k1.nextId, true, o, mkFmt 6 0⟩]) with nextId := k1.nextId + 1 }
    k2.onePart .c op n (e1.join e2) op.work
  | _ => k

/-- The next token of fwchunk on the whole gang (R242, R243): an entry of another tag than fp32 traps its member (R239). -/
def State.tokenGang (s : State) (heads : List (Nat × LongOp)) : State :=
  match heads with
  | [] => s
  | (lead, lop) :: _ =>
    let kl := s.coreAt lead
    let c := (lop.work.fastTile.map (fun d => (kl.getAot d).count)).getD 0
    let entries := fun (p : Nat) => (s.coreAt p).tokenEntries c (p == lead)
    let bad : List (Nat × LongOp × BitVec 16) := heads.filterMap (fun h =>
      ((entries h.1).find? (fun e => tagOf e.fmt != 6)).map (fun e => (h.1, h.2, e.fmt)))
    let poisoned := heads.find? (fun h => (entries h.1).any (fun e => s.dev.poison.contains (.entry h.1 e.id)))
    if !bad.isEmpty then
      bad.foldl (fun x b => x.memberTrap b.1 0x04 (((b.2.1.word.zeroExtend 64 : Word) <<< (32 : Nat)) ||| (b.2.2.zeroExtend 64 : Word))) s
    else
    match poisoned with
    | some h => s.memberTrap h.1 0x12 0
    | none =>
      let q0 := kl.getQueue 0
      let ks := (q0.take c).flatMap (fun e => lanes32 e.bits.toNat)
      let ab : Word := ((q0[c]?).map (fun e => e.bits.truncate 64)).getD 0
      let qs := ((kl.getQueue 2).take c).flatMap (fun e => lanes32 e.bits.toNat)
      let n := match lop.work with
        | .fwchunk _ n => n
        | _ => 0
      heads.foldl (fun x h => x.updCore h.1 (fun k => k.tokenMember h.2 n ks qs ab (h.1 == lead))) s

/-- The next move of a joint instruction: the whole gang takes it together (R222). Group counts that differ, or an md that starts no group, trap
whatever the members still wait for (R239). -/
def State.gangMove (s : State) (op : LongOp) : Moved :=
  if s.gangLost op then .on (s.opTrap .c op 0x13 (op.word.zeroExtend 64))
  else
    match s.gangHeads op with
    | none => .still
    | some heads =>
      if s.fastBad s.core op then .on (s.fastTrap heads)
      else if !heads.all (fun h => (s.coreAt h.1).selfMoves h.2) || s.gangUnseen heads then .still
      else
        match s.readyTiles heads with
        | .on s1 =>
          if (s1.gangHeads op).isNone then .on s1
          else
            match op.work with
            | .mmac .. => .on (s1.mmacGang heads)
            | .fwdelta .. => .on (s1.deltaGang heads)
            | .fwread .. => .on (s1.readGang heads)
            | .fwchunk .. => .on (s1.tokenGang heads)
            | _ => .still
        | m => m

/-! ### The instructions that are not joint (R230, R231, R236) -/

/-- What a group operation means for its instruction. -/
def GroupRes.moved (r : GroupRes) (op : LongOp) (done : State → Word → State) : Moved :=
  match r with
  | .ok s v => .on (done s v)
  | .trap s c v => .on (s.opTrap .c op c v)
  | .fault _ ctx pid kind l b va => .fault ctx pid kind l b va
  | .held _ _ => .still

/-- The instruction has completed. -/
def State.finishOp (s : State) (op : LongOp) : State := s.updThis (fun k => k.dropOp .c op.id)

/-- Row r of a tile taken from scratchpad (R230). -/
def Core.loadTile (k : Core) (p : Pair) : Tile :=
  ⟨if p.itag then .i32 else .fp32, Vector.ofFn (fun (x : Fin 256) =>
    .ofNat 32 (bytesNat ((List.range 4).map (fun b => Memory.get k.spad (PairUse.load.at p (x.val / 16) (4 * (x.val % 16) + b))))))⟩

/-- The words that a tile move touches. -/
def pairWords (pid : Nat) (u : PairUse) (p : Pair) : List PoisonUnit :=
  ((List.range 16).flatMap (fun r => (List.range 8).map (fun w => u.at p r (8 * w) / 8))).map (PoisonUnit.word pid)

/-- A tile written to scratchpad, 8 bytes at a time (R230). -/
def State.storeTile (s : State) (p : Pair) (t : Tile) : State :=
  (List.range 128).foldl (fun x rw =>
    let r := rw / 8
    let w := rw % 8
    x.poke (.spad x.core.pid (PairUse.store.at p r (8 * w)) 8) (natBytes (t.at r (2 * w)) 4 ++ natBytes (t.at r (2 * w + 1)) 4)) s

/-- The next row of a drain without a handler (R231). -/
def State.drainMove (s : State) (op : LongOp) (d : Nat) (dst : DrainDst) : Moved :=
  match s.putRow dst op.prog ((s.core.getTile d).row op.prog) with
  | none => .still
  | some s1 => .on (s1.rowLeft op.id d op.prog dst)

/-- A tile is made ready for an instruction that is not joint, and what it then does; `reads` is whether its content counts (R235, R336). -/
def State.onTile (s : State) (op : LongOp) (d : Nat) (reads : Bool) (k : State → Moved) : Moved :=
  match s.useTile d with
  | .trap s1 c v => .on (s1.opTrap .c op c v)
  | .fault _ ctx pid kind l b va => .fault ctx pid kind l b va
  | .held _ _ => .still
  | .ok s1 _ =>
    match (if reads then s1.badTile [d] else none) with
    | some u => .on (s1.opPoison .c op u.address)
    | none => k s1

/-- One move of a matrix, accumulator or fast-weight instruction. -/
def State.matrixMove (s : State) (op : LongOp) : Moved :=
  if (s.core.matrixHead.map (fun o => o.id)) != some op.id then .still
  else
    match op.work with
    | .mzero d => s.onTile op d false fun s1 => .on ((State.cleanTile s1.core.pid (s1.updThis (fun k => k.setTile d .zero)) d).finishOp op)
    | .mload d p =>
      if s.unseen s.core .c op (op.work.tileReads s.core.pid) then .still
      else
        s.onTile op d false fun s1 =>
          match (pairWords s1.core.pid .load p).find? (fun u => s1.dev.poison.contains u) with
          | some u => .on (s1.opPoison .c op u.address)
          | none => .on ((State.cleanTile s1.core.pid (s1.updThis (fun k => k.setTile d (k.loadTile p))) d).finishOp op)
    | .mstore d p => s.onTile op d true fun s1 => .on ((s1.storeTile p (s1.core.getTile d)).finishOp op)
    | .mdrain d dst h => if h.isSome then .still else s.onTile op d true fun s1 => s1.drainMove op d dst
    | .mspill d =>
      if (s.core.getAot d).state = .pinned then (s.spillGroup s.core.pid d true).moved op (fun s1 _ => s1.finishOp op)
      else .on (s.finishOp op)
    | .mfill d =>
      if (s.core.getAot d).state = .spilled then (s.fillHere s.core.pid d).moved op (fun s1 _ => s1.finishOp op)
      else .on (s.finishOp op)
    | .mown gd key =>
      (s.ownGroup key).moved op (fun s1 v => (s1.updThis (fun k => k.updStr .c (fun st => st.setG gd v))).finishOp op)
    | _ => s.gangMove op

/-! ### One move, and the events -/

/-- One move of an incomplete instruction of the selected core. -/
def State.opMove (s : State) (x : StreamId) (op : LongOp) : Moved :=
  if !(s.core.selfMoves op || s.fastBad s.core op || (match op.work with
      | .lds .. => s.core.mayTry op
      | .ldsq .. => s.core.mayTry op
      | _ => false)) then .still
  else if s.popPoisoned op then .on (s.opPoison x op 0)
  else if op.work.isMatrix then s.matrixMove op
  else s.plainMove x op

/-- An instruction makes up to `n` moves: elements, rows, tokens, entries or lanes of a part-way one (R313), the whole of any other. -/
def State.goOn (s : State) (x : StreamId) (id : Nat) : Nat → State
  | 0 => s
  | n + 1 =>
    match (s.core.str x).flight.find? (fun o => o.id == id) with
    | none => s
    | some op0 =>
      let (s0, op) := s.takeList x op0
      match s0.opMove x op with
      | .still => s0
      | .on s1 => s1.goOn x id n
      | .fault ctx pid kind l b va => s0.opFault x op ctx pid kind l b va
      | .memberFault p o ctx pid kind l b va => s0.onCore p (fun s1 => s1.opFault .c o ctx pid kind l b va)

/-- An incomplete instruction by its place in its stream. -/
def State.opAt (s : State) (x : StreamId) (idx : Nat) : Option LongOp := (s.core.str x).flight[idx]?

/-- LONG_OP_COMPLETE (R87, R364): an incomplete instruction goes on by `units` moves, and completes when it has made its last. -/
def execLongOpComplete (pid : Nat) (st : StreamId) (idx units : Nat) (s : State) : Out :=
  .next (s.onCore pid fun s1 =>
    match s1.opAt st idx with
    | some op => (s1.goOn st op.id units).settleEnd
    | none => s1)

/-- PAGE_FAULT_PARK (R159, R160): the next access of an incomplete instruction meets a missing page. Past the incomplete instructions,
the index counts the stores and atomics without return. -/
def execPageFaultPark (pid : Nat) (st : StreamId) (idx : Nat) (s : State) : Out :=
  .next (s.onCore pid fun s1 =>
    match s1.opAt st idx with
    | some op =>
      match op.work with
      | .atomic .. =>
        match s1.core.asks.find? (fun a => a.id == op.id) with
        | some a => (match s1.askAt a with
          | .fault l b va => if a.ready && !s1.askBlocked a then s1.askFault a l b va else s1
          | _ => s1)
        | none => s1
      | _ =>
        let (s0, o0) := s1.takeList st op
        match s0.opMove st o0 with
        | .fault ctx pid kind l b va => s0.opFault st o0 ctx pid kind l b va
        | .memberFault p o ctx pid kind l b va => s0.onCore p (fun s2 => s2.opFault .c o ctx pid kind l b va)
        | _ => s1
    | none =>
      match s1.ask pid (.pending (idx - (s1.core.str st).flight.length)) with
      | some a => (match s1.askAt a with
        | .fault l b va => if a.ready && !s1.askBlocked a then (s1.askFault a l b va).settleEnd else s1
        | _ => s1)
      | none => s1)

/-- QUEUE_ENTRY_FILL (R92): the idx-th incomplete instruction that reserved an entry, the A-stream's first, goes on until it has filled it. -/
def execQueueEntryFill (pid idx : Nat) (s : State) : Out :=
  .next (s.onCore pid fun s1 =>
    let from_ := fun (x : StreamId) => ((s1.core.str x).flight.filter (fun op => op.work.fills)).map (fun op => (x, op.id))
    match (from_ .a ++ from_ .c)[idx]? with
    | some (x, id) => s1.goOn x id 64
    | none => s1)

/-! ### Gangs meet (R49, R222) -/

/-- The function by which members are compared (R49, R121): the major, and fn of a matrix form, or bit 31 of a fast-weight form, with bits 30 and
29 when it is 1. -/
def jointFunction (word : BitVec 32) : Nat :=
  let major := bitField word.toNat 1 6
  if major = 44 then major + 64 * bitField word.toNat 31 1 + (if bitField word.toNat 31 1 = 1 then 128 * bitField word.toNat 29 2 else 0)
  else major + 64 * bitField word.toNat 29 3

/-- The joint instruction with which a core waits for its gang; none while its stream is stopped, another handler runs, or a trap of cause 0x16
comes first (R49, R55, R310). -/
def Core.brings (k : Core) : Option LongOp :=
  if k.c.stopped.isSome then none
  else k.c.atGang.filter (fun op => op.mode == .sup || (k.handler.isNone && !k.moving))

/-- Every core that the mask names runs a task of the team, the own core among them (R49). -/
def State.gangRight (s : State) (k : Core) (op : LongOp) : Bool :=
  op.members.getLsbD k.cidx && (gangCores k.cluster op.members).all (fun p => p == k.pid || sameTeam k (s.coreAt p))

/-- How a gang stands for an instruction that waits for it. -/
inductive GangMeet where
  | wait | meet | fail
deriving DecidableEq, Repr

/-- The members' instructions as they compare (R49): all there, of one MASK and one function. -/
def State.gangAgrees (s : State) (k : Core) (op : LongOp) : Bool :=
  s.gangRight k op && (gangCores k.cluster op.members).all (fun p =>
    ((s.coreAt p).brings.map (fun o => (o.members, jointFunction o.word))) == some (op.members, jointFunction op.word))

/-- The gang meets once every core that the mask names has issued a joint instruction (R49). A core whose instruction meets another gang, all of
whose members are there and agree, brings none. A mask that leaves out its own core, or names a core that runs no task of the team, can never meet:
its mismatch is found at once (log entry 72, DESIGN CHOICE). -/
def State.gangStands (s : State) (k : Core) (op : LongOp) : GangMeet :=
  if !s.gangRight k op then .fail
  else if s.gangAgrees k op then .meet
  else if (gangCores k.cluster op.members).all (fun p => match (s.coreAt p).brings with
      | some o => o.members == op.members || !s.gangAgrees (s.coreAt p) o
      | none => false) then .fail
  else .wait

/-- A gang mismatch (R49): every member that waits at a joint instruction traps with cause 0x13, each with its own word. Cores that run no task of
the team are no members. -/
def State.gangFail (s : State) (own : Core) (pids : List Nat) : State :=
  (pids.filter (fun p => p == own.pid || sameTeam own (s.coreAt p))).foldl (fun x p =>
    match (x.coreAt p).brings with
    | some op => x.onCore p (fun s1 => s1.opTrap .c op 0x13 (op.word.zeroExtend 64))
    | none => x) s

/-- GANG_MEET (R49): every core that the mask names has issued a joint instruction; the members check each other and begin. -/
def execGangMeet (pid : Nat) (s : State) : Out :=
  let k := s.coreAt pid
  match k.brings with
  | none => .next s
  | some op =>
    let pids := gangCores k.cluster op.members
    match s.gangStands k op with
    | .wait => .next s
    | .fail => .next (s.gangFail k (if pids.contains pid then pids else pid :: pids))
    | .meet =>
      .next (pids.foldl (fun x p => x.updCore p (fun k =>
        match k.brings with
        | some o => k.setOp .c o.id (fun o => { o with status := .running, met := true })
        | none => k)) s)

end Sys2Proof.Machine
end

