-- ==== Sys2Proof/Machine/Placement.lean ====
section
/-! DEFINITION. Rectangles, the choice of what is placed, task start, launches and fronts
(spec/03_placement.md R41 to R52, spec/02_describing_and_launching.md R18, R32, R33, spec/04_time_levels.md R61,
spec/20_interruption.md R315, R317). -/

namespace Sys2Proof.Machine

/-! ### Rectangles (R44, R45, R61, R338, R339) -/

/-- Every cluster of a rectangle, row-major. -/
def rectCells (r : Rect) : List Nat :=
  (List.range r.h).flatMap (fun j => (List.range r.w).map (fun i => (r.y + j) * 16 + r.x + i))

/-- The in-service clusters of a rectangle, in the order of R45. -/
def State.serving (s : State) (r : Rect) : List Nat := (rectCells r).filter (fun c => !(s.clusterAt c).retired)

/-- The clusters that wait for commands while what these pre-empted is saved (R33). -/
def State.claimed (s : State) : List Nat :=
  s.contexts.flatMap (fun x => x.queues.flatMap (fun y => y.2.cmds.flatMap (fun c => if s.cmdReady x.id y.1 c then c.claim else [])))

/-- A cluster that no command holds, and that is neither being tested nor to be retired (R44, R56, R342). -/
def State.clusterIdle (s : State) (c : Nat) : Bool :=
  !s.heldClusters.contains c && !(s.clusterAt c).testing && !(s.clusterAt c).failing

/-- A cluster that no command holds or waits for. -/
def State.clusterFree (s : State) (c : Nat) : Bool := s.clusterIdle c && !s.claimed.contains c

/-- A cluster that the command could take: what waits for another command is not free for it (R33). -/
def State.freeFor (s : State) (d : Command) (c : Nat) : Bool := s.clusterIdle c && (d.claim.contains c || !s.claimed.contains c)

/-- The containment rectangle of a context (R339). -/
def State.partOf (s : State) (ctx : Nat) : ContRect := s.dev.rects[(s.ctxAt ctx).part.toNat]?.getD (ContRect.reset 1)

/-- The containment rectangle as a rectangle. -/
def ContRect.rect (p : ContRect) : Rect :=
  ⟨p.x0.toNat, p.y0.toNat, p.x1.toNat + 1 - p.x0.toNat, p.y1.toNat + 1 - p.y0.toNat⟩

/-- One rectangle lies inside another. -/
def rectInside (r p : Rect) : Bool :=
  decide (0 < r.w) && decide (0 < r.h) && decide (p.x ≤ r.x) && decide (r.x + r.w ≤ p.x + p.w)
    && decide (p.y ≤ r.y) && decide (r.y + r.h ≤ p.y + p.h)

/-- Cluster groups of a command: of a team, or of a front's home indices (R45, R61). -/
def Command.groups (c : Command) : Nat :=
  match c.front with
  | some f => homesOf f.blocks
  | none => (c.ntask + c.percl - 1) / c.percl

/-- The shape is fixed by the descriptor, at first placement (R44, R53). -/
def Command.fixedShape (c : Command) : Bool := c.phase == .accepted && c.front.isNone && c.rectW != 0 && c.rectH != 0

/-- The rectangle has the command's shape, place and size, busy or not (R44, R338). -/
def State.rectFits (s : State) (ctx : Nat) (c : Command) (r : Rect) : Bool :=
  rectInside r (s.partOf ctx).rect && (!c.fixedShape || (r.w == c.rectW && r.h == c.rectH)) && decide (c.groups ≤ (s.serving r).length)

/-- The context's rectangle is in use and in service (R339). -/
def State.partOpen (s : State) (ctx : Nat) : Bool := (s.partOf ctx).valid && !(s.partOf ctx).killed

/-- The rectangle qualifies for the command (R44); one that has pre-empted takes the position that it chose (R33). -/
def State.qualifies (s : State) (ctx : Nat) (c : Command) (r : Rect) : Bool :=
  s.partOpen ctx && s.rectFits ctx c r && (s.serving r).all (s.freeFor c) && (c.claim.isEmpty || s.serving r == c.claim)

/-- Every rectangle inside another. -/
def rectSubs (p : Rect) : List Rect :=
  (List.range p.h).flatMap (fun y => (List.range p.w).flatMap (fun x =>
    (List.range (p.h - y)).flatMap (fun h => (List.range (p.w - x)).map (fun w => ⟨p.x + x, p.y + y, w + 1, h + 1⟩))))

/-- The rectangles that may take the command. -/
def State.positions (s : State) (ctx : Nat) (c : Command) : List Rect := (rectSubs (s.partOf ctx).rect).filter (s.rectFits ctx c)

/-- No position could ever qualify (R44, R56, R339). -/
def State.neverFits (s : State) (ctx : Nat) (c : Command) : Bool := s.partOpen ctx && (s.positions ctx c).isEmpty

/-- Some position qualifies now. -/
def State.fits (s : State) (ctx : Nat) (c : Command) : Bool := s.partOpen ctx && (s.positions ctx c).any (s.qualifies ctx c)

/-! ### Priority and rotation (R33, R51) -/

/-- A context runs one level-4 team at a time (R51). -/
def State.levelFree (s : State) (ctx : Nat) (c : Command) : Bool :=
  c.dom != 4 || c.phase == .saved || (s.ctxAt ctx).queues.all (fun y => y.2.cmds.all (fun d => d.dom != 4 || !d.wasPlaced || (match d.phase with
    | .completed _ => true
    | _ => false)))

/-- The command asks for clusters, and its queue and producers let it have them. -/
def State.asks (s : State) (ctx q : Nat) (c : Command) : Bool := c.op != .marker && s.cmdReady ctx q c && s.levelFree ctx c

/-- The place of a queue in the rotation of its priority: the one after the last served comes first. -/
def State.turn (s : State) (prio ctx q : Nat) : Nat :=
  let key := fun (a b : Nat) => a * 2 ^ 20 + b
  match s.dev.rotation.find? (fun r => r.1 == prio) with
  | some (_, a, b) => (key ctx q + 2 ^ 40 - key a b - 1) % 2 ^ 40
  | none => key ctx q

/-- Priority of a queue. -/
def State.prio (s : State) (ctx q : Nat) : Nat := (s.queueAt ctx q).prio.toNat

/-- No ready head that fits goes before the head of this queue (R33). -/
def State.hasTurn (s : State) (ctx q : Nat) : Bool :=
  let p := s.prio ctx q
  s.contexts.all (fun x => x.queues.all (fun y =>
    let p' := s.prio x.id y.1
    (x.id == ctx && y.1 == q)
      || !(decide (p' < p) || (p' == p && decide (s.turn p x.id y.1 < s.turn p ctx q)))
      || (match y.2.headCmd with
        | some d => !(s.asks x.id y.1 d && s.fits x.id d)
        | none => true)))

/-- The rotation and the clock after a placement. -/
def State.placedNow (s : State) (ctx q : Nat) : State :=
  let p := s.prio ctx q
  { s with dev := { s.dev with
    rotation := (p, ctx, q) :: s.dev.rotation.filter (fun r => r.1 != p)
    clock := s.dev.clock + 1 } }

/-! ### Save slots (R317) -/

/-- Bytes of a task record (R317). -/
def Kernel.taskSave (k : Kernel) : Nat :=
  let n := 65536 + (k.saveMap.map (fun e => e.2 + e.2 / 64)).sum
  (n + 65535) / 65536 * 65536

/-- Bytes of the records of a command. -/
def Command.saveBytes (c : Command) : Nat :=
  let per := (c.kernel.map Kernel.taskSave).getD 0
  match c.front with
  | some f => f.blocks.length * per + f.blocks.length * 256
  | none => c.ntask * per

/-- Save slots of a context: one when the stride is 0. -/
def Context.slots (c : Context) : Nat := if c.saveStride = 0 then 1 else c.saveSlots.toNat

/-- The lowest free save slot. -/
def State.freeSlot (s : State) (ctx : Nat) : Option Nat :=
  let c := s.ctxAt ctx
  let used := c.queues.flatMap (fun y => y.2.cmds.filterMap (fun d => d.slot))
  if c.saveBase = 0 then none else (List.range c.slots).find? (fun i => !used.contains i)

/-- SAVE(s) (R317). -/
def Context.saveAt (c : Context) (slot : Nat) : Word := c.saveBase + .ofNat 64 (slot * c.saveStride.toNat * 65536)

/-- The command cannot be saved: no area, no slot, or records past its slot (R317). -/
def State.noSave (s : State) (ctx : Nat) (c : Command) : Bool :=
  let x := s.ctxAt ctx
  x.saveBase == 0 || c.slot.isNone || (x.saveStride != 0 && decide (x.saveStride.toNat * 65536 < c.saveBytes))

/-- The command is treated as NOPRE (R33, R317). -/
def State.keeps (s : State) (ctx : Nat) (c : Command) : Bool := (c.kernel.map (·.noPre)).getD true || s.noSave ctx c

/-! ### Starting a task (R18, R32, R41, R145, R234) -/

/-- How a placement that makes accesses ends. -/
inductive Started where
  | ok (s : State)
  /-- An access met a missing page: how it is reported; nothing else changes (R316, R365). -/
  | park (report : State → State)
  /-- A refusal. -/
  | bad

/-- Tiles are prepared for a task (R234); a fault of their spills is the C-stream's, in the group's context (R237). -/
def State.makeTiles (s : State) (pid nm ctx : Nat) : Started :=
  match s.prepareTiles pid nm ctx with
  | .ok s1 _ => .ok s1
  | .fault _ owner p kind l b va => .park (fun t => t.recordFault owner (p / 8) (p % 8) .c kind l b va)
  | _ => .bad

/-- Full/empty bits of a run of words set full. -/
def Core.fillWords (k : Core) (w : Nat) : Nat → Core
  | 0 => k
  | n + 1 => (k.setFull w true).fillWords (w + 1) n

/-- Units of a core that are written whole are no longer poisoned (R336). -/
def State.cleanUnits (s : State) (gone : PoisonUnit → Bool) : State :=
  if s.dev.poison.isEmpty then s else { s with dev := { s.dev with poison := s.dev.poison.filter (fun u => !gone u) } }

/-- The region holds the word. -/
def SpRegion.holds (r : SpRegion) (pid : Nat) (u : PoisonUnit) : Bool :=
  match u with
  | .word p w => p == pid && decide (r.offset ≤ 8 * w) && decide (8 * w < r.offset + r.length)
  | _ => false

/-- A region of a core's scratchpad is written whole: bytes, or zeros when none are given (R18). -/
def State.putRegion (s : State) (pid : Nat) (r : SpRegion) (bs : Option (List Byte)) : State :=
  (s.updCore pid (fun k =>
    ({ k with spad := match bs with
        | some x => Memory.write k.spad r.offset x
        | none => Memory.clear k.spad r.offset r.length }).fillWords (r.offset / 8) (r.length / 8))).cleanUnits (r.holds pid)

/-- One region of the scratchpad map (R18). -/
def State.initRegion (s : State) (pid ctx : Nat) (r : SpRegion) : Started :=
  match r.init with
  | 0 => .ok s
  | 1 => .ok (s.putRegion pid r none)
  | _ =>
    match s.feRead ctx (.ofNat 64 r.source) r.length with
    | (.ok bs, s1) => .ok (s1.putRegion pid r (some bs))
    | (.error .bad, _) => .bad
    | (.error (.fault l b va), _) => .park (fun t => t.feFault ctx l b va)

/-- The regions in entry order. -/
def State.initRegions (s : State) (pid ctx : Nat) : List SpRegion → Started
  | [] => .ok s
  | r :: rest =>
    match s.initRegion pid ctx r with
    | .ok s1 => s1.initRegions pid ctx rest
    | x => x

/-- A stream at its entry with its first registers (R32, R41). -/
def entryStream (pc : Word) (regs : List (Nat × Word)) : Stream :=
  regs.foldl (fun st r => st.setG r.1 r.2) { Stream.init with pc := pc }

/-- What a task starts with. -/
structure Start where
  task : Task
  aPc  : Word
  cPc  : Word
  ga   : List (Nat × Word)
  gc   : List (Nat × Word)
  sys  : SysRegs

/-- A core with a task on it and nothing issued: scratchpad, tiles and what the core keeps between tasks apart, all is as R32 says. R148 gives
the tile table to the running task's context and no reset of it: the model empties it at every task start, also for a following task of the same
context (log entry 69, DESIGN CHOICE). A name is used up, so that jobs and accesses of an earlier task of the core stay apart from its own
(R202, R363). -/
def Core.begin (k : Core) (x : Start) : Core :=
  { k with
    task := some { x.task with since := k.nextId + 1 }, nextId := k.nextId + 1, sel := .a, a := entryStream x.aPc x.ga, c := entryStream x.cPc x.gc
    f := Vector.replicate 32 ⟨0, 0⟩, v := Vector.replicate 24 ⟨0, 0⟩, queues := Vector.replicate 8 []
    spad := if k.lastCtx = x.task.ctx then k.spad else []
    full := if k.lastCtx = x.task.ctx then k.full else []
    tileTab := Vector.replicate 64 .empty, shadows := Vector.replicate 8 0, sys := x.sys
    handler := none, handlerOn := false, deferred := [], stats := [] }

/-- The units of a core that the start of a task writes whole: registers, queues, the tiles below NM, and the scratchpad of another context
(R32, R145, R234). -/
def startClears (pid nm : Nat) (other : Bool) (u : PoisonUnit) : Bool :=
  match u with
  | .reg p _ _ => p == pid
  | .entry p _ => p == pid
  | .tile p t => p == pid && decide (t < nm)
  | .word p _ => p == pid && other
  | _ => false

/-- A task starts on a core (R41). -/
def State.startTask (s : State) (pid : Nat) (x : Start) : Started :=
  match s.makeTiles pid x.task.kernel.nm x.task.ctx with
  | .ok s1 =>
    ((s1.updCore pid (fun k => k.begin x)).cleanUnits
      (startClears pid x.task.kernel.nm ((s1.coreAt pid).lastCtx != x.task.ctx))).initRegions pid x.task.ctx x.task.kernel.spMap
  | r => r

/-- Tasks start on their cores, all of them or none. -/
def State.startAll (s : State) : List (Nat × Start) → Started
  | [] => .ok s
  | (pid, x) :: rest =>
    match s.startTask pid x with
    | .ok s1 => s1.startAll rest
    | r => r

/-- The write counts of the kernel's tensors (R182, R334): those of records that cannot be read are 0 (log entry 45). -/
def readCounts (ctx : Nat) (area : Word) : Nat → Fe (List (BitVec 64))
  | 0 => pure []
  | n + 1 => do
    let w : BitVec 64 ← ExceptT.mk (fun s => match s.feRead ctx area 8 with
      | (.ok bs, s1) => (.ok (.ofNat 64 (bytesNat bs)), s1)
      | (.error .bad, s1) => (.ok 0, s1)
      | (.error e, s1) => (.error e, s1))
    let ws ← readCounts ctx (area + 64) n
    pure (w :: ws)

/-- System registers of a task at placement (R46, R48, R50, R169, R308). -/
def startSys (k : Kernel) (seed vec : Word) (mask : BitVec 8) (members : Nat) (level : Nat) : SysRegs :=
  { SysRegs.init with
    gangMask := mask, domMembers := .ofNat 32 members, domLevel := .ofNat 3 level, tensorId := (k.tensors[0]?).getD 0,
    seed := seed, trapVec := .ofNat 64 (vec.toNat / 2 * 2) }

/-- Quadrant of a cluster (R9). -/
def quadrant (c : Nat) : Nat := c / 128 * 2 + c % 16 / 8

/-! ### Placing a team (R43 to R46, R50, R51) -/

/-- The start of one task of a team. -/
def Command.teamStart (c : Command) (ctx q : Nat) (k : Kernel) (vec : Word) (lid : Nat) : Start :=
  let members := ((List.range c.ntask).filter (fun l => c.instanceKey c.dom l == c.instanceKey c.dom lid)).length
  { task := { ctx := ctx, queue := q, seq := c.seq, kind := .team, lid := lid, size := c.ntask, clIndex := lid / c.percl, kernel := k,
              wcounts := c.wcounts, triggered := false, committed := false, level := 0, step := 0, topoDue := false, movedDue := none,
              nextJob := 0, since := 0, trapAt := 0, left := false }
    aPc := k.aEntry, cPc := k.cEntry, ga := [(1, c.args)], gc := [(1, c.args)]
    sys := startSys k c.seed vec c.gang members c.dom }

/-- The command waits for a replay-all (R365). -/
def State.parkCmd (s : State) (ctx q : Nat) (seq : BitVec 32) : State := s.updCmd ctx q seq (fun y => { y with parked := true })

/-- The command ends in error at its placement (R31, R44). -/
def State.placeError (s : State) (ctx q : Nat) (seq : BitVec 32) (first : Option (Nat × Nat)) : State :=
  (s.updCmd ctx q seq (fun y => { y with phase := .ending .error, first := first })).completeCmd ctx q seq

/-- A claim on clusters that a command has taken, while the claiming command could not be placed, is void: its command competes anew (R33). -/
def Command.voidClaim (c : Command) (cls : List Nat) : Command := if c.claim.any cls.contains then { c with claim := [] } else c

/-- Clusters are taken: they remember who holds them, once for each launch (R343), and claims on them are void (R33). -/
def State.noteHold (s : State) (cls : List Nat) (h : HeldBy) : State :=
  let s1 := { s with contexts := s.contexts.map (fun x =>
    { x with queues := x.queues.map (fun y => (y.1, { y.2 with cmds := y.2.cmds.map (fun c => c.voidClaim cls) })) }) }
  cls.foldl (fun t c => t.updCluster c (fun x =>
    { x with history := if x.history.contains (h, 0xFF) then x.history else x.history ++ [(h, 0xFF)] })) s1

/-- A command takes a rectangle: what its placement settles before any task starts. -/
def State.takeRect (s : State) (ctx : Nat) (c : Command) (r : Rect) (ws : List (BitVec 64)) : Command :=
  let cells := s.serving r
  let cls := cells.take c.groups
  let places := if c.front.isSome then [] else (List.range c.ntask).map (fun l => ((cls[l / c.percl]?).getD 0) * 8 + l % c.percl)
  { c with
    phase := .placed, clusters := cls, held := cells, places := places, teamMap := places.map some,
    quads := cls.map quadrant, slot := s.freeSlot ctx, placedAt := s.dev.clock, wcounts := ws,
    wasPlaced := true, claim := [] }

/-- A placement goes on with the write counts it has read, or parks. -/
def State.withCounts (s : State) (ctx q : Nat) (c : Command) (k : Kernel) (go : List (BitVec 64) → State → State) : State :=
  match feRun (readCounts ctx k.statArea k.tensors.length) s with
  | (.error (.fault l b va), s1) => (s1.feFault ctx l b va).parkCmd ctx q c.seq
  | (.error .bad, s1) => s1.placeError ctx q c.seq none
  | (.ok ws, s1) => go ws s1

/-- LAUNCH places the team of a ready head on a rectangle that qualifies. -/
def State.placeTeam (s : State) (ctx q : Nat) (c : Command) (r : Rect) : State :=
  match c.kernel with
  | none => s
  | some k =>
    s.withCounts ctx q c k fun ws s =>
      let c1 := s.takeRect ctx c r ws
      let vec := (s.ctxAt ctx).trapVec
      let starts := (c1.places.zipIdx).map (fun x => (x.1, c1.teamStart ctx q k vec x.2))
      match (s.updCmd ctx q c.seq (fun _ => c1)).startAll starts with
      | .ok s1 => (s1.noteHold c1.held ⟨ctx, q, true, c.seq⟩).placedNow ctx q
      | .park report => (report s).parkCmd ctx q c.seq
      | .bad => s.placeError ctx q c.seq none

/-! ### Pre-emption (R33, R315) -/

/-- The commands that hold clusters, with their queues. -/
def State.holders (s : State) : List (Nat × Nat × Command) :=
  s.contexts.flatMap (fun x => x.queues.flatMap (fun y => (y.2.cmds.filter (fun c => !c.held.isEmpty)).map (fun c => (x.id, y.1, c))))

/-- A pre-emption of a command begins (R315): PRE.REQ in its cores, and its level units stop dispatching. -/
def State.preempt (s : State) (ctx q : Nat) (seq : BitVec 32) : State :=
  let go := fun (k : Core) => if k.runs ctx q seq then { k with sys := { k.sys with preReq := true } } else k
  { s with core := go s.core, cores := s.cores.map go }.updCmd ctx q seq (fun c => { c with phase := .stopping })

/-- The tasks of the command have ended or are being stopped for good: it is failed, cancelled or done, and still holds its clusters (R33, R333). -/
def CmdPhase.isEnding (p : CmdPhase) : Bool :=
  match p with
  | .ending _ => true
  | _ => false

/-- The commands that a position would pre-empt, those apart that are already being pre-empted or are ending, with its clusters; none when it would
need clusters that others hold than teams and fronts of lower priority without NOPRE, or that wait for another command (R33). One that is being pre-empted or is
ending counts as none of those that a position pre-empts (log entry 81, DESIGN CHOICE). -/
def State.victims (s : State) (p : Nat) (r : Rect) : Option (List Nat × List (Nat × Nat × Command)) :=
  let cells := s.serving r
  let hit := s.holders.filter (fun h => h.2.2.held.any cells.contains)
  let ok := hit.all (fun h => (h.2.2.phase == .placed || h.2.2.phase == .stopping || h.2.2.phase.isEnding) && decide (p < s.prio h.1 h.2.1) && !s.keeps h.1 h.2.2)
  if ok && cells.all (fun c => !(s.clusterAt c).testing && !(s.clusterAt c).failing && !s.claimed.contains c) then
    some (cells, hit.filter (fun h => h.2.2.phase == .placed))
  else none

/-- How good a set of victims is: few, then of the lowest priority, then most recently placed (R33); smaller is better. R33 leaves open how several
victims of one position compare: by the one of highest priority, and by the latest placement among them (log entry 81, DESIGN CHOICE). -/
def State.victimRank (s : State) (vs : List (Nat × Nat × Command)) : Nat × Nat × Nat :=
  (vs.length, 3 - (vs.map (fun h => s.prio h.1 h.2.1)).foldl min 3, s.dev.clock - (vs.map (fun h => h.2.2.placedAt)).foldl max 0)

def rankBelow (a b : Nat × Nat × Nat) : Bool :=
  decide (a.1 < b.1) || (a.1 == b.1 && (decide (a.2.1 < b.2.1) || (a.2.1 == b.2.1 && decide (a.2.2 < b.2.2))))

/-- The best set of victims among the positions (R33). -/
def State.bestVictims (s : State) (ctx q : Nat) (c : Command) : Option (List Nat × List (Nat × Nat × Command)) :=
  ((s.positions ctx c).filterMap (s.victims (s.prio ctx q))).foldl (fun best vs =>
    match best with
    | none => some vs
    | some b => if rankBelow (s.victimRank vs.2) (s.victimRank b.2) then some vs else best) none

/-- A ready head with PREEMPT that does not fit pre-empts, once, what R33 chooses; the clusters of that position then wait for it. -/
def State.startPreemption (s : State) (ctx q : Nat) (c : Command) : State :=
  if !(c.preempt && (s.queueAt ctx q).prePerm && s.partOpen ctx) || !c.claim.isEmpty || s.fits ctx c then s
  else
    match s.bestVictims ctx q c with
    | some (cells, vs) =>
      (vs.foldl (fun t h => t.preempt h.1 h.2.1 h.2.2.seq) s).updCmd ctx q c.seq (fun y => { y with claim := cells })
    | none => s

/-! ### LAUNCH and FRONT (R32, R33, R43, R61) -/

/-- The ready head of a queue is placed on the rectangle, pre-empts, ends in error, or waits. -/
def State.offer (s : State) (ctx q : Nat) (op : CmdOp) (r : Rect) (place : State → Command → State) : State :=
  match (s.queueAt ctx q).headCmd with
  | none => s
  | some c =>
    if c.op ≠ op ∨ c.phase ≠ .accepted ∨ s.asks ctx q c = false ∨ s.dev.ready = false then s
    else if s.neverFits ctx c then s.placeError ctx q c.seq none
    else if s.qualifies ctx c r && s.hasTurn ctx q then place s c
    else s.startPreemption ctx q c

/-- LAUNCH (R43). -/
def execLaunch (ctx q : Nat) (rect : Rect) (s : State) : Out := .next (s.offer ctx q .launch rect (fun t c => t.placeTeam ctx q c rect))

/-- FRONT places a front: its records go to the level units of the home clusters (R61). The model loads the records as they were read and
checked at the command's acceptance (log entry 70, DESIGN CHOICE: R61 says that the front end then loads every record, and not that it reads memory again). -/
def State.placeFront (s : State) (ctx q : Nat) (c : Command) (r : Rect) : State :=
  match c.kernel with
  | none => s
  | some k =>
    s.withCounts ctx q c k fun ws s =>
      let c1 := s.takeRect ctx c r ws
      (((s.updCmd ctx q c.seq (fun _ => c1)).noteHold c1.held ⟨ctx, q, false, c.seq⟩).placedNow ctx q).frontEnd ctx q c.seq

/-- FRONT (R61). -/
def execFront (ctx q : Nat) (rect : Rect) (s : State) : Out := .next (s.offer ctx q .front rect (fun t c => t.placeFront ctx q c rect))

end Sys2Proof.Machine
end

