-- ==== Sys2Proof/Machine/Fronts.lean ====
section
/-! DEFINITION. The level units: dispatch, levels that arrive, stalls, records edited (spec/04_time_levels.md R63 to R70, R80). -/

namespace Sys2Proof.Machine

/-! ### The runnable condition (R63, R64) -/

/-- Lret of a block (R63): the oldest valid level among entries 0 to H − 2. -/
def Block.retained (b : Block) : BitVec 32 :=
  (((List.range (b.hdepth - 1)).filterMap b.entry).getLast?.map (·.1)).getD b.level

/-- Block c reads block b (R64). -/
def Block.reads (c : Block) (b : Nat) : Bool := (List.range c.nnbr).any (fun j => ((c.nbr[j]?).getD 0).toNat == b)

/-- runnable(b) with the levels that `lev` gives (R64). -/
def Front.runnable (f : Front) (lev : Nat → BitVec 32) (b : Nat) : Bool :=
  let me := f.block b
  let r := f.rule me
  me.state == .idle && !f.frozen
    && (List.range me.nnbr).all (fun j =>
      decide (((r.offs[j]?).getD 0).toInt ≤ sdiff (lev ((me.nbr[j]?).getD 0).toNat) me.level))
    && (f.blocks.zipIdx).all (fun c => !c.1.reads b || decide (0 ≤ sdiff (lev c.2) me.retained))

/-- The true levels. -/
def Front.levelOf (f : Front) (b : Nat) : BitVec 32 := (f.block b).level

/-- The lowest-level block of a list, ties to the lower id (R67, R69). -/
def Front.lowestBlock (f : Front) (lo : BitVec 32) : List Nat → Option Nat
  | [] => none
  | b :: rest =>
    match f.lowestBlock lo rest with
    | none => some b
    | some c => if sdiff (f.levelOf c) lo < sdiff (f.levelOf b) lo then some c else some b

/-- The block that the unit of a home index dispatches next (R69). -/
def Front.nextBlock (f : Front) (h : Nat) : Option Nat :=
  let mine := (List.range f.blocks.length).filter (fun b => (f.block b).home == h && f.runnable (f.knownAt h) b)
  f.lowestBlock (lowestLevel ((f.known[h]?).getD [])) mine

/-! ### Dispatch (R69, R70) -/

/-- The placed front whose level unit stands in a cluster, with its home index. -/
def State.unitAt (s : State) (cluster : Nat) : Option (Nat × Nat × Command × Front × Nat) :=
  s.contexts.findSome? (fun x => x.queues.findSome? (fun y => y.2.cmds.findSome? (fun c =>
    match c.front, c.clusters.findIdx? (fun k => k == cluster) with
    | some f, some h => if c.phase = .placed then some (x.id, y.1, c, f, h) else none
    | _, _ => none)))

/-- Dispatch withdraws entry H − 1 and hands its slot to the update (R63, R69). -/
def Block.dispatch (b : Block) (pid : Nat) : Block :=
  { b with
    state := .running, core := some pid, next := b.step, newSlot := (b.raddr[b.hdepth - 1]?).getD 0
    valid := b.valid &&& ~~~(BitVec.ofNat 4 (2 ^ (b.hdepth - 1))) }

/-- What a task of a front starts with: its place (R47), and registers that are zero but for those given (R32, R69). -/
def Command.frontStart (c : Command) (ctx q : Nat) (k : Kernel) (f : Front) (b : Nat) (kind : TaskKind) (vec : Word) (cidx : Nat) : Start :=
  let me := f.block b
  { task := { ctx := ctx, queue := q, seq := c.seq, kind := kind, lid := b, size := f.blocks.length, clIndex := me.home, kernel := k,
              wcounts := c.wcounts, triggered := false, committed := false, level := me.level, step := me.step, topoDue := false,
              movedDue := none, nextJob := 0, since := 0, trapAt := 0, left := false }
    aPc := 0, cPc := 0, ga := [], gc := []
    sys := startSys k c.seed vec (.ofNat 8 (2 ^ cidx)) 0 0 }

/-- The update task of a block (R69). -/
def Command.updateStart (c : Command) (ctx q : Nat) (k : Kernel) (f : Front) (b : Nat) (vec : Word) (cidx : Nat) : Start :=
  let me := f.block b
  let common : List (Nat × Word) := [(1, .ofNat 64 b), (2, me.level.zeroExtend 64), (3, me.step.zeroExtend 64), (5, c.args)]
  { c.frontStart ctx q k f b (.update b) vec cidx with
    aPc := me.ua, cPc := me.uc, ga := common ++ [(4, (me.raddr[me.hdepth - 1]?).getD 0)], gc := common }

/-- LEVEL_DISPATCH (R69). -/
def execLevelDispatch (cluster cidx : Nat) (s : State) : Out :=
  match s.unitAt cluster with
  | none => .next s
  | some (ctx, q, c, f, h) =>
    let pid := cluster * 8 + cidx
    match f.nextBlock h, c.kernel with
    | some b, some k =>
      if !f.coreSet.getLsbD cidx || 8 ≤ cidx || (s.coreAt pid).task.isSome || c.parked then .next s
      else if s.dev.poison.contains (.block ctx q c.seq b) then
        match s.rectOf cluster with
        | some n => .next (s.killRect n 0x12 none)
        | none => .next s
      else
        match s.startTask pid (c.updateStart ctx q k f b (s.ctxAt ctx).trapVec cidx) with
        | .ok s1 => .next (s1.updFront ctx q c.seq (fun f => f.setBlock b (fun x => x.dispatch pid)))
        | .park report => .next ((report s).parkCmd ctx q c.seq)
        | .bad => .next (s.placeError ctx q c.seq none)
    | _, _ => .next s

/-- COMMIT_ARRIVAL (R65): the level unit in a cluster receives the level at which a block stands. -/
def execCommitArrival (cluster block : Nat) (s : State) : Out :=
  match s.unitAt cluster with
  | none => .next s
  | some (ctx, q, c, f, h) =>
    if block < f.blocks.length then .next (s.updFront ctx q c.seq (fun f => f.learn h block (f.levelOf block))) else .next s

/-! ### Stalls (R67) -/

/-- A stall of an unguarded front in which no update runs: the lowest block that is not done, when no block is runnable (R67). -/
def Front.stalledAt (f : Front) : Option Nat :=
  let ids := List.range f.blocks.length
  if f.guarded || f.frozen || ids.any (f.runnable f.levelOf) then none
  else f.lowestBlock (lowestLevel (f.blocks.map (·.level))) (ids.filter (fun b => (f.block b).state != .done))

/-- A core that enters at its handler as the stall task does (R67). -/
def Core.stallEntry (k : Core) (b : Nat) : Core :=
  { k with
    handler := some .a
    a := { k.a with mode := .sup, pc := k.sys.trapVec }
    sys := { k.sys with trapCause := 0x0E, trapVal := .ofNat 64 b } }

/-- The core runs an update of the command. -/
def Core.updates (k : Core) (ctx q : Nat) (seq : BitVec 32) : Bool :=
  k.runs ctx q seq && (match k.task with
    | some t => (match t.kind with
      | .update _ => true
      | _ => false)
    | none => false)

/-- STALL (R67): no update runs, and a core of CORESET is idle in the home cluster of the block. -/
def execStall (ctx q : Nat) (seq : BitVec 32) (s : State) : Out :=
  match s.cmdAt ctx q seq with
  | none => .next s
  | some c =>
    match c.front, c.kernel with
    | some f, some k =>
      match f.stalledAt with
      | none => .next s
      | some b =>
        if c.phase ≠ .placed ∨ c.parked ∨ s.allCores.any (fun k => k.updates ctx q seq) then .next s
        else
          let cl := (c.clusters[(f.block b).home]?).getD 0
          match (List.range 8).find? (fun i => f.coreSet.getLsbD i && (s.coreAt (cl * 8 + i)).task.isNone) with
          | some i =>
            let pid := cl * 8 + i
            match s.startTask pid (c.frontStart ctx q k f b (.stall b) (s.ctxAt ctx).trapVec i) with
            | .ok s1 =>
              .next ((s1.updCore pid (fun x => x.stallEntry b)).updFront ctx q seq (fun f =>
                { f with frozen := true, stalled := true, freezer := some (0x0E, b) }))
            | .park report => .next ((report s).parkCmd ctx q seq)
            | .bad => .next (s.placeError ctx q seq none)
          | none => .next s
    | _, _ => .next s

/-! ### Records edited (R80) -/

/-- LV_RECORD_STAGE (R80). -/
def execLvRecordStage (block : BitVec 16) (s : State) : Out := .next (if s.editsLevels then s.stageRecord block else s)

/-- LV_RECORD_APPLY (R80). -/
def execLvRecordApply (s : State) : Out := .next (if s.editsLevels then s.applyRecord else s)

end Sys2Proof.Machine
end

