-- ==== Sys2Proof/Machine/Switch.lean ====
section
/-! DEFINITION. Context save and resumption (spec/20_interruption.md R315 to R318, R321,
spec/03_placement.md R53, R56, spec/04_time_levels.md R81, spec/05_fetch_and_issue.md R101). -/

namespace Sys2Proof.Machine

/-! ### When a core is stopped (R100, R315, R316) -/

/-- The stream has stopped, exited, parked, or waits for its gang. -/
def Stream.atStop (st : Stream) : Bool := st.exited || st.idleStop

/-- The task on a core is stopped, its long instructions have completed or keep their progress, its stores are acknowledged or parked,
and its copy jobs, detached ones too, are done (R315, R316). A task that has exited is not saved: it ends first (R55). -/
def State.saveReady (s : State) (k : Core) : Bool :=
  (match k.task with
    | some t => !t.left
    | none => false)
    && k.handler.isNone && k.a.atStop && k.c.atStop && s.quietOn k .a && s.quietOn k .c && k.pending.all (fun r => !r.ofTask k || r.parked)
    && (s.clusterAt k.cluster).jobs.all (fun j => !j.ofTask k)

/-! ### What is saved (R101, R317) -/

/-- Registers of one file that a save keeps: those of the safe-point mask when the stream stopped at SAFEPT, else those below the count. -/
def keptMask (st : Stream) (k : Kernel) (mask : SafeEntry → BitVec 32) (count : Nat) (n : Nat) : Bool :=
  if st.stopped = some .safept then
    match k.safeTab[st.safeId.toNat]? with
    | some e => (mask e).getLsbD n
    | none => false
  else decide (n < count)

/-- g registers of a stream as they are after resumption. -/
def Stream.keepG (st : Stream) (k : Kernel) (mask : SafeEntry → BitVec 32) (count : Nat) : Stream :=
  { st with g := Vector.ofFn (fun i => if keptMask st k mask count i.val then st.getG i.val else 0) }

/-- Scratchpad bytes of the save map (R19). -/
def Kernel.savesByte (k : Kernel) (a : Nat) : Bool := k.saveMap.any (fun e => decide (e.1 ≤ a) && decide (a < e.1 + e.2))

/-- The core as its record keeps it: registers by R101, scratchpad by R19, the task's own stores, the rest whole; what parked retries once it
resumes (R321). -/
def Core.keep (k : Core) (t : Task) : Core :=
  let kn := t.kernel
  let k0 := k.withdraw
  { k0 with
    a := k0.a.keepG kn (·.ga) kn.nga
    c := k.c.keepG kn (·.gc) kn.ngc
    f := Vector.ofFn (fun i => if keptMask k.c kn (·.f) kn.nf i.val then k.getF i.val else ⟨0, 0⟩)
    v := Vector.ofFn (fun i => if keptMask k.c kn (·.v) kn.nv i.val then k.getV i.val else ⟨0, 0⟩)
    tiles := Vector.ofFn (fun i => if keptMask k.c kn (·.m) kn.nm i.val then k.getTile i.val else .zero)
    spad := k.spad.filter (fun c => kn.savesByte c.1)
    full := k.full.filter (fun w => kn.savesByte (8 * w))
    pending := k.pending.filter (fun r => r.ofTask k)
    tlb := [], stats := [] }

/-- The record keeps the poisoned unit (R101, R336). -/
def Core.keepsUnit (k : Core) (t : Task) (u : PoisonUnit) : Bool :=
  let kn := t.kernel
  match u with
  | .word p w => p == k.pid && kn.savesByte (8 * w)
  | .reg p .a (.g n) => p == k.pid && keptMask k.a kn (·.ga) kn.nga n
  | .reg p .c (.g n) => p == k.pid && keptMask k.c kn (·.gc) kn.ngc n
  | .reg p _ (.f n) => p == k.pid && keptMask k.c kn (·.f) kn.nf n
  | .reg p _ (.v n) => p == k.pid && keptMask k.c kn (·.v) kn.nv n
  | .entry p _ => p == k.pid
  | .tile p n => p == k.pid && (k.getAot n).state == .owned && keptMask k.c kn (·.m) kn.nm n
  | _ => false

/-- The same unit in another core. -/
def PoisonUnit.moveTo (u : PoisonUnit) (pid : Nat) : PoisonUnit :=
  match u with
  | .word _ w => .word pid w
  | .reg _ x r => .reg pid x r
  | .entry _ e => .entry pid e
  | .tile _ n => .tile pid n
  | u => u

/-- A stream's SAFEA or SAFEC field. -/
def Stream.safeField (st : Stream) : Nat := st.safeId.toNat + (if st.stopped = some .safept then 2 ^ 15 else 0)

/-- The header and the body of a task record (R317). The body's bytes are free values (log entry 5). -/
def State.taskRecord (s : State) (t : Task) (k : Core) (room : Nat) : List Byte :=
  let n := Config.saveBytes s.free % (room - 64)
  let body := (List.range n).map (Config.saveByte s.free)
  natBytes 0x4B534156 4 ++ natBytes t.ctx 2 ++ natBytes t.lid 2
    ++ natBytes (s.standAt k .a).1.toNat 8 ++ natBytes (s.standAt k .c).1.toNat 8 ++ natBytes k.a.safeField 2 ++ natBytes k.c.safeField 2 ++ natBytes n 4 ++ natBytes (crc32c body) 4 ++ List.replicate 28 0 ++ body

/-- The address of a task's record (R317). -/
def State.recordAt (s : State) (ctx : Nat) (c : Command) (lid : Nat) : Word :=
  (s.ctxAt ctx).saveAt (c.slot.getD 0) + .ofNat 64 (lid * (c.kernel.map Kernel.taskSave).getD 0)

/-! ### Saving (R316, R318) -/

/-- How a save ends. -/
inductive Saved where
  | ok (s : State)
  | park (report : State → State)
  /-- A protection fault (R316). -/
  | refused

/-- The PINNED groups of the context on a core are spilled (R238). -/
def State.spillAll (s : State) (pid ctx : Nat) : Nat → Saved
  | 0 => .ok s
  | n + 1 =>
    let e := (s.coreAt pid).getAot n
    if e.state = .pinned ∧ e.owner = ctx ∧ e.first = n then
      match s.spillGroup pid n false with
      | .ok s1 _ => s1.spillAll pid ctx n
      | .fault _ owner p kind l b va => .park (fun t => t.recordFault owner (p / 8) (p % 8) .c kind l b va)
      | _ => .refused
    else s.spillAll pid ctx n

/-- Groups that the task holds wait for it (R238): no core holds them meanwhile. -/
def State.parkGroups (s : State) (pid ctx : Nat) : State :=
  s.updCtx ctx (fun c => { c with pins := c.pins.map (fun p => if p.held = some pid then { p with held := some Config.savedHolder } else p) })

/-- The core once its task has been written out. -/
def Core.afterSave (k : Core) (ctx : Nat) : Core :=
  { k.releaseTiles with
    task := none, handler := none, handlerOn := false, queues := Vector.replicate 8 [],
    pending := k.pending.filter (fun r => !r.ofTask k), deferred := [], stats := [],
    lastCtx := ctx
    a := { k.a with exited := true, flight := [], wins := [], fence := [], wait := none, stopped := none }
    c := { k.c with exited := true, flight := [], wins := [], fence := [], wait := none, stopped := none, drain := none } }

/-- Every task of a command is killed, and it ends in error (R56, R316); what its save had parked for is given up. No task has trapped for it: a first trap
that the command had stands, and else it is the cause, of no task (R31). -/
def State.killCommand (s : State) (ctx q : Nat) (seq : BitVec 32) (cause : Nat) : State :=
  let first := ((s.cmdAt ctx q seq).bind (fun c => c.first.or (c.front.bind (·.freezer)))).or (some (cause, 0xFFFF))
  let s1 := (s.tasksOf ctx q seq).foldl (fun t pid => t.onCore pid (fun u => u.endTask (some cause))) s
  s1.updCmd ctx q seq (fun c => { c with phase := .ending .error, first := first, parked := false, claim := [] })

/-- A record is written through the context's translation (R316). -/
def State.putRecord (s : State) (ctx : Nat) (addr : Word) (bytes : List Byte) : Saved :=
  match s.fePlace ctx addr bytes.length with
  | .ok cs => .ok { s.fePut ctx false cs (fun _ => bytes) with free := s.free + 1 }
  | .error .bad => .refused
  | .error (.fault l b va) => .park (fun t => t.feFault ctx l b va)

/-- Saves the stopped task of a core, and frees the core (R316). -/
def State.saveTask (s : State) (pid : Nat) (t : Task) (c : Command) : Saved :=
  match s.spillAll pid t.ctx 32 with
  | .ok s1 =>
    let k := s1.coreAt pid
    match s1.putRecord t.ctx (s1.recordAt t.ctx c t.lid) (s1.taskRecord t k t.kernel.taskSave) with
    | .ok s2 =>
      let saved : SavedTask := ⟨t.lid, (s2.coreAt pid).keep t, s2.dev.poison.filter ((s2.coreAt pid).keepsUnit t)⟩
      .ok (((s2.parkGroups pid t.ctx).updCore pid (fun k => k.afterSave t.ctx)).updCmd t.ctx t.queue t.seq (fun y =>
        { y with
          saved := y.saved ++ [saved]
          stats := k.stats.foldl (fun acc x => addCounts x.1 x.2 acc) y.stats }))
    | r => r
  | r => r

/-- The tasks of a command are saved together (R57, R316). -/
def State.saveTasks (s : State) (c : Command) : List Nat → Saved
  | [] => .ok s
  | pid :: rest =>
    match (s.coreAt pid).task with
    | none => s.saveTasks c rest
    | some t =>
      match s.saveTask pid t c with
      | .ok s1 => s1.saveTasks c rest
      | r => r

/-- Bytes of a front's records, and where they lie (R317): after the records of its tasks, their contents free values (log entry 5). -/
def State.frontRecords (s : State) (ctx : Nat) (c : Command) : Option (Word × List Byte) :=
  c.front.map (fun f =>
    let n := Config.saveBytes s.free % (f.blocks.length * 256 + 1)
    (s.recordAt ctx c f.blocks.length, (List.range n).map (Config.saveByte s.free)))

/-- A front's records are written after those of its tasks (R81, R317). -/
def State.saveFront (s : State) (ctx : Nat) (c : Command) : Saved :=
  match s.frontRecords ctx c with
  | none => .ok s
  | some (addr, bs) => s.putRecord ctx addr bs

/-- Every task of the command is stopped and may be saved: a team is stopped when all of its tasks are (R315). -/
def State.cmdStopped (s : State) (ctx q : Nat) (seq : BitVec 32) : Bool :=
  (s.allCores.filter (fun k => k.runs ctx q seq)).all (fun k => s.saveReady k)

/-- A pre-empted command whose tasks have all stopped is saved whole (R57, R316): its tasks, a front's records, and then its clusters are free
again (R33, R81, R317), of which those that are to be retired now are (R56). A missing page holds the save, a protection fault ends the command. -/
def State.saveCmd (s : State) (ctx q : Nat) (seq : BitVec 32) : State :=
  match s.cmdAt ctx q seq with
  | none => s
  | some c =>
    if c.phase ≠ .stopping ∨ c.parked ∨ s.cmdStopped ctx q seq = false then s
    else
      let all := match s.saveTasks c (s.tasksOf ctx q seq) with
        | .ok s1 => s1.saveFront ctx c
        | r => r
      match all with
      | .ok s1 =>
        (s1.updCmd ctx q seq (fun y =>
          { y with phase := .saved, held := [], clusters := [], teamMap := y.teamMap.map (fun _ => none) })).settleFailing
      | .park report => (report s).parkCmd ctx q seq
      | .refused => s.killCommand ctx q seq 0x07

/-- CONTEXT_SAVE (R316): the command whose task the core runs, or, on an idle core, the one that holds its cluster. -/
def execContextSave (pid : Nat) (s : State) : Out :=
  match (s.coreAt pid).task with
  | some t => .next (s.saveCmd t.ctx t.queue t.seq)
  | none =>
    match s.holders.find? (fun h => h.2.2.held.contains (pid / 8)) with
    | some (ctx, q, c) => .next (s.saveCmd ctx q c.seq)
    | none => .next s

/-! ### Resuming (R53, R55, R81, R316) -/

/-- The cores that a mask of cidx values names, lowest first. -/
def maskCores (mask : BitVec 8) : List Nat := (List.range 8).filter (fun i => mask.getLsbD i)

/-- The new core of each logical id of a team: groups keep their order, cidx rises with lid (R53). R53 leaves open which PERCL cores of its
cluster each group takes: the model takes one set of cidx values for all groups, which the event names (log entry 33, DESIGN CHOICE). -/
def Command.movePlaces (c : Command) (cls : List Nat) (cidxs : BitVec 8) : List Nat :=
  (List.range c.ntask).map (fun l => ((cls[l / c.percl]?).getD 0) * 8 + (((maskCores cidxs)[l % c.percl]?).getD 0))

/-- The new core of a saved update task (R81): the lowest CORESET cores of its block's home cluster, in the order of the block ids. R81 does not
say which CORESET cores they take (log entry 33, DESIGN CHOICE). -/
def Command.blockPlace (c : Command) (cls : List Nat) (f : Front) (b : Nat) : Nat :=
  let home := (f.block b).home
  let before := (c.saved.filter (fun t => (f.block t.lid).home == home && decide (t.lid < b))).length
  ((cls[home]?).getD 0) * 8 + (((maskCores f.coreSet)[before]?).getD 0)

/-- The MASK that names the new cores of those that a MASK named in cluster `old`; `moves` pairs each former member's core with its new one (R53). -/
def moveMask (moves : List (Nat × Nat)) (old : Nat) (mask : BitVec 8) : BitVec 8 :=
  moves.foldl (fun m x => if x.1 / 8 = old ∧ mask.getLsbD (x.1 % 8) = true then m ||| .ofNat 8 (2 ^ (x.2 % 8)) else m) 0

/-- A stream that starts again at its saved point (R100, R314, R321): joint instructions that have begun go on with their gang, which has moved
with them (R49, R53). -/
def Stream.resumed (st : Stream) (move : BitVec 8 → BitVec 8) : Stream :=
  let st1 := st.retry
  { st1 with
    stopped := none, wait := none
    flight := st1.flight.map (fun op => { op with members := move op.members }) }

/-- What a resumed core takes from the saved one (R53, R55, R308, R317): the stores that it brings are its own, and bear its mark (R363); those
that the core still holds of an earlier task are named anew. -/
def Core.take (k : Core) (t : Task) (old : Core) (vec : Word) (move : BitVec 8 → BitVec 8) : Core :=
  let moved := old.pid != k.pid
  let since := k.nextId + old.nextId
  let k1 := (List.range 32).foldl (fun (x : Core) n =>
    if n < t.kernel.nm ∧ (old.getAot n).state = .owned then x.setTile n (old.getTile n) else x) k
  Core.restartSync { k1 with
    task := some { t with movedDue := if moved then some old.pid else t.movedDue, since := since }
    sel := .a, a := old.a.resumed move, c := old.c.resumed move, f := old.f, v := old.v, queues := old.queues, spad := old.spad,
    full := old.full, tileTab := old.tileTab, shadows := old.shadows, handler := none, handlerOn := false
    pending := old.pending.map (fun r => { r with parked := false, since := since })
      ++ k.pending.map (fun r => { r with id := r.id + old.nextId })
    deferred := old.deferred, stats := old.stats
    nextId := since
    sys := { old.sys with
      preReq := false
      trapVec := .ofNat 64 (vec.toNat / 2 * 2)
      gangMask := move old.sys.gangMask
      evtMoved := old.sys.evtMoved || moved } }

/-- A group that the task held is entered at the same tiles on the new core as SPILLED (R238). -/
def State.enterGroup (s : State) (pid : Nat) (e : AotEntry) : Started :=
  match (s.ctxAt e.owner).pin e.key with
  | none => .ok s
  | some p =>
    let s0 := match p.core with
      | some o => if ((s.coreAt o).getAot p.first).key = e.key ∧ ((s.coreAt o).getAot p.first).state = AotState.spilled then
          s.updCore o (fun k => k.freeTiles p.first p.count) else s
      | none => s
    match s0.evictRun pid e.first false false e.count with
    | .fault _ owner pf kind l b va => .park (fun t => t.recordFault owner (pf / 8) (pf % 8) .c kind l b va)
    | .trap _ _ _ => .bad
    | .held _ _ => .bad
    | .ok s1 _ =>
      let entry : AotEntry := { e with state := .spilled, held := true, tokens := p.tokens }
      .ok ((s1.updCore pid (fun k => (k.freeTiles e.first e.count).mapAot e.first e.count (fun _ => entry))).updPin e.owner e.key
        (fun p => { p with core := some pid, first := e.first, state := .spilled, held := some pid }))

/-- The groups that the saved task held. -/
def State.enterGroups (s : State) (pid : Nat) : List AotEntry → Started
  | [] => .ok s
  | e :: rest =>
    match s.enterGroup pid e with
    | .ok s1 => s1.enterGroups pid rest
    | r => r

/-- The header's checks on resume (R317): MAGIC, CTX and CRC. -/
def recordOk (ctx : Nat) (c : Command) (lid : Nat) : Fe Bool := do
  let at_ := (← get).recordAt ctx c lid
  let h ← feRead ctx at_ 64
  let f := fieldAt h
  let body ← if f 0x1C 4 + 64 ≤ (c.kernel.map Kernel.taskSave).getD 0 then feRead ctx (at_ + 64) (f 0x1C 4) else pure []
  pure (f 0 4 == 0x4B534156 && f 4 2 == ctx && f 0x20 4 == crc32c body)

/-- Groups of the context that a saved core held, by their first tiles. -/
def SavedTask.groups (t : SavedTask) (ctx : Nat) : List AotEntry :=
  (t.core.aot.toList.zipIdx.filter (fun e => e.1.held && e.1.owner == ctx && e.1.first == e.2)).map (·.1)

/-- One saved task starts again on a core: what it writes whole there is no longer poisoned, and what was saved poisoned is (R336). -/
def State.resumeTask (s : State) (ctx : Nat) (t : SavedTask) (pid : Nat) (move : BitVec 8 → BitVec 8) : Started :=
  match t.core.task with
  | none => .ok s
  | some tk =>
    match s.makeTiles pid tk.kernel.nm ctx with
    | .ok s1 => ((((s1.updCore pid (fun k => k.take tk t.core (s.ctxAt ctx).trapVec move)).cleanUnits (startClears pid tk.kernel.nm true)).poisonUnits
        (t.poison.map (fun u => u.moveTo pid)))).enterGroups pid (t.groups ctx)
    | r => r

/-- The saved tasks start again, all of them or none. -/
def State.resumeAll (s : State) (ctx : Nat) : List (SavedTask × Nat × (BitVec 8 → BitVec 8)) → Started
  | [] => .ok s
  | (t, pid, move) :: rest =>
    match s.resumeTask ctx t pid move with
    | .ok s1 => s1.resumeAll ctx rest
    | r => r

/-- A saved command on its new rectangle (R53, R81). -/
def State.resumeOn (s : State) (ctx q : Nat) (c : Command) (r : Rect) (cidxs : BitVec 8) : State :=
  let cells := s.serving r
  let cls := cells.take c.groups
  let news := c.movePlaces cls cidxs
  let place := fun (t : SavedTask) => match c.front with
    | some f => c.blockPlace cls f t.lid
    | none => (news[t.lid]?).getD 0
  let moves := match c.front with
    | some _ => c.saved.map (fun t => (t.core.pid, place t))
    | none => c.places.zip news
  let move := fun (t : SavedTask) (m : BitVec 8) => moveMask moves (t.core.pid / 8) m
  let live := c.saved.map (fun t => t.lid)
  let c1 : Command :=
    { c with
      phase := .placed, clusters := cls, held := cells, saved := [], claim := [], placedAt := s.dev.clock
      places := if c.front.isSome then [] else news
      teamMap := if c.front.isSome then [] else (List.range c.ntask).map (fun l => if live.contains l then news[l]? else none)
      front := c.front.map (fun f =>
        { f with blocks := c.saved.foldl (fun bs t => modifyAt (fun b => { b with core := some (place t) }) t.lid bs) f.blocks }) }
  match (s.updCmd ctx q c.seq (fun _ => c1)).resumeAll ctx (c.saved.map (fun t => (t, place t, move t))) with
  | .ok s1 => ((s1.noteHold cells ⟨ctx, q, c.front.isNone, c.seq⟩).placedNow ctx q).frontEnd ctx q c.seq
  | .park report => (report s).parkCmd ctx q c.seq
  | .bad => s.placeError ctx q c.seq (some (0x07, 0xFFFF))

/-- How the records of a saved command read (R316, R317): all good, one that does not match, or a missing page. -/
def recordsOk (ctx : Nat) (c : Command) : List SavedTask → Fe Bool
  | [] => pure true
  | t :: rest => do
    if ← recordOk ctx c t.lid then recordsOk ctx c rest else pure false

/-- TEAM_RESUME (R53, R81): the saved head of a queue is resumed whole, pre-empts as any head may (R33), or ends in error where it no longer fits (R56)
or its record does not match (R317). -/
def execTeamResume (ctx q : Nat) (rect : Rect) (cidxs : BitVec 8) (s : State) : Out :=
  match (s.queueAt ctx q).headCmd with
  | none => .next s
  | some c =>
    if c.phase ≠ .saved ∨ s.asks ctx q c = false ∨ s.dev.ready = false then .next s
    else if s.neverFits ctx c then .next (s.placeError ctx q c.seq (some (0x15, 0xFFFF)))
    else if !s.qualifies ctx c rect || !s.hasTurn ctx q then .next (s.startPreemption ctx q c)
    else if c.front.isNone && (maskCores cidxs).length != c.percl then .next s
    else
      match feRun (recordsOk ctx c c.saved) s with
      | (.ok true, s1) => .next (s1.resumeOn ctx q c rect cidxs)
      | (.ok false, s1) => .next (s1.placeError ctx q c.seq (some (0x0A, 0xFFFF)))
      | (.error .bad, s1) => .next (s1.placeError ctx q c.seq (some (0x07, 0xFFFF)))
      | (.error (.fault l b va), s1) => .next ((s1.feFault ctx l b va).parkCmd ctx q c.seq)

end Sys2Proof.Machine
end

