-- ==== Sys2Proof/Machine/Device.lean ====
section
/-! DEFINITION. The device's own events: faults and invalidations, management registers, partition reset, in-field test, the mailbox,
power-on, the host link, the load-store domain and power (spec/08_memory.md R158 to R163, spec/24_retirement.md R336 to R346,
spec/25_host_and_power_on.md R348 to R362). -/

namespace Sys2Proof.Machine

/-! ### Faults and invalidation (R158, R162, R163) -/

/-- REPLAY_ALL (R163, R353). -/
def execReplayAll (s : State) : Out := .next s.replayAll

/-- FB_HEAD_WRITE (R162). -/
def execFbHeadWrite (v : Word) (s : State) : Out := .next (s.writeFbHead (v.truncate 4))

/-- TT_INVAL (R158, R352): ignored while an invalidation is in progress. -/
def execTtInval (v : Word) (s : State) : Out :=
  if s.dev.inval.isSome then .next s else .next (s.updDev (fun d => { d with inval := some v }))

/-- The region that a TT.INVAL value names contains an address, or lies in the region of a cached entry. -/
def invalHits (v : Word) (ctx base bytes : Nat) : Bool :=
  let size := 2 ^ levelShift (bitField v.toNat 4 3)
  let from_ := bitField v.toNat 8 40 * 65536 / size * size
  ctx == bitField v.toNat 48 16 && decide (base < from_ + size) && decide (from_ < base + bytes)

/-- TT_INVAL_DONE (R158): no TLB holds the old entry, and its pages are no longer resident (R152). -/
def execTtInvalDone (s : State) : Out :=
  match s.dev.inval with
  | none => .next s
  | some v =>
    let clean := fun (k : Core) => { k with tlb := k.tlb.filter (fun t => !invalHits v t.ctx t.base (2 ^ levelShift t.level)) }
    let out := fun (x : Nat × Nat × Nat) => !invalHits v x.1 x.2.1 x.2.2
    .next ({ s with core := clean s.core, cores := s.cores.map clean }.updDev (fun d =>
      { d with inval := none, resident := d.resident.filter out, demoted := d.demoted.filter out }))

/-! ### Partition reset (R338, R340, R352, R358) -/

/-- A containment rectangle register. -/
def State.rect (s : State) (n : Nat) : ContRect := s.dev.rects[n]?.getD (ContRect.reset 1)

def State.setRect (s : State) (n : Nat) (r : ContRect) : State := s.updDev (fun d => { d with rects := d.rects.setIfInBounds n r })

/-- PART_RESET (R352): GO kills a valid rectangle, with first cause 0. -/
def execPartReset (v : Word) (s : State) : Out :=
  if v.getLsbD 8 then .next (s.killRect (v.toNat % 16) 0 none) else .next s

/-- PURGE_COMPLETE (R358). -/
def execPurgeComplete (n : Nat) (s : State) : Out :=
  if (s.rect n).killed then .next (s.setRect n { s.rect n with purged := true }) else .next s

/-- RECT_RETURN_TO_SERVICE (R338): a write of 1 to KILLED, ignored until the purge has finished. -/
def execRectReturnToService (n : Nat) (s : State) : Out :=
  if (s.rect n).killed && (s.rect n).purged then .next (s.setRect n { s.rect n with killed := false, purged := false }) else .next s

/-- Two rectangles share a cluster. -/
def ContRect.meets (a b : ContRect) : Bool := (List.range 256).any (fun c => a.holds c && b.holds c)

/-- The rectangles do not overlap and cover every in-service cluster (R338). -/
def State.rectsOk (s : State) (rs : List ContRect) : Bool :=
  (List.range rs.length).all (fun i => (List.range i).all (fun j =>
    !((rs[i]?).getD (ContRect.reset 1)).meets ((rs[j]?).getD (ContRect.reset 1))))
  && (List.range 256).all (fun c => (s.clusterAt c).retired || rs.any (fun r => r.holds c))

/-- A write of CR.n (R338): the bounds and VALID, unless that breaks the partition or moves a rectangle that holds placed work;
then the return to service. -/
def State.writeRect (s : State) (n : Nat) (v : Word) : State :=
  let f := fun (lo : Nat) => BitVec.ofNat 4 (bitField v.toNat lo 4)
  let old := s.rect n
  let new : ContRect := { old with y1 := f 20, y0 := f 16, x1 := f 12, x0 := f 8, valid := v.getLsbD 0 }
  let busy := s.heldClusters.any old.holds
  let ok := new == old || (!busy && s.rectsOk ((s.dev.rects.setIfInBounds n new).toList))
  if !ok then s
  else
    let s1 := s.setRect n new
    if v.getLsbD 1 && new.killed && new.purged then s1.setRect n { new with killed := false, purged := false } else s1

/-! ### In-field test and retirement (R56, R342, R343) -/

/-- A cluster that the front end may test now: free and in service. -/
def State.testable (s : State) (c : Nat) : Bool := decide (c < 256) && !(s.clusterAt c).retired && s.clusterFree c

/-- IFT_PERIODIC (R342): a test of a free cluster begins, periodic or due. -/
def execIftPeriodic (cluster : Nat) (s : State) : Out :=
  if s.dev.ready && s.testable cluster && (s.dev.iftPeriod != 0 || (s.clusterAt cluster).testDue) then
    .next (s.updCluster cluster (fun c => { c with testing := true, testDue := false }))
  else .next s

/-- IFT_NOW (R342): a write of IFT.CTL; with NOW the cluster is tested at its next free moment. -/
def execIftNow (v : Word) (s : State) : Out :=
  let c := v.toNat % 256
  let s1 := s.updDev (fun d => { d with iftPeriod := .ofNat 32 (v.toNat / 2 ^ 32), iftCluster := .ofNat 8 c })
  if !v.getLsbD 8 || (s.clusterAt c).retired then .next s1
  else if s1.dev.ready && s1.testable c then .next (s1.updCluster c (fun x => { x with testing := true, testDue := false }))
  else .next (s1.updCluster c (fun x => { x with testDue := true }))

/-- The front end pre-empts every team and front that holds a cluster, NOPRE or not; one that cannot be saved ends in error (R56, R317). -/
def State.evacuate (s : State) (cluster : Nat) : State :=
  (s.holders.filter (fun h => h.2.2.held.contains cluster)).foldl (fun t h =>
    if s.noSave h.1 h.2.2 then t.killCommand h.1 h.2.1 h.2.2.seq 0x15
    else if h.2.2.phase = .placed then t.preempt h.1 h.2.1 h.2.2.seq
    else t) s

/-- A cluster is lost (R56): what holds it is pre-empted, and once nothing does it is retired. -/
def State.loseCluster (s : State) (cluster : Nat) : State :=
  ((s.evacuate cluster).updCluster cluster (fun c => { c with failing := true })).settleFailing

/-- The failure record of a cluster (R343): the oldest 255 entries. -/
def Cluster.failure (c : Cluster) (cycle : Word) : FailRecord :=
  ⟨c.id, decide (255 < c.history.length), cycle, c.history.take 255⟩

/-- IFT_TEST_COMPLETE (R342): a cluster that fails is lost (R56), with a failure record and vector 1. -/
def execIftTestComplete (cluster : Nat) (pass : Bool) (s : State) : Out :=
  let c := s.clusterAt cluster
  if !c.testing then .next s
  else
    let s1 := (s.updCluster cluster (fun c => { c with testing := false, history := if pass then [] else c.history })).updDev
      (fun d => { d with iftLast := .ofNat 8 cluster })
    if pass then .next (s1.updDev (fun d => { d with iftPass := d.iftPass + 1 }))
    else
      .next (((s1.updDev (fun d =>
        { d with iftFail := d.iftFail + 1, failRecs := d.failRecs ++ [c.failure d.cycle] })).loseCluster cluster).raiseMsi 1)

/-! ### The mailbox (R343, R359 to R361) -/

/-- A write of MBX.CMD, ignored while BUSY (R361). -/
def State.mailbox (s : State) (code : Word) : State :=
  if s.dev.mbxBusy then s else s.updDev (fun d => { d with mbxCmd := code, mbxBusy := true })

/-- GET_TEST (R361). -/
def execGetTest (s : State) : Out := .next (s.mailbox 1)

/-- SET_CONFIG (R361). -/
def execSetConfig (s : State) : Out := .next (s.mailbox 2)

/-- ATTEST (R361). -/
def execAttest (s : State) : Out := .next (s.mailbox 3)

/-- GET_FAILREC (R361). -/
def execGetFailrec (s : State) : Out := .next (s.mailbox 4)

/-- FW_UPDATE (R361). -/
def execFwUpdate (s : State) : Out := .next (s.mailbox 5)

/-- Bytes of a failure record (R343). -/
def FailRecord.bytes (r : FailRecord) : List Byte :=
  natBytes r.cluster 1 ++ natBytes r.entries.length 1 ++ natBytes (if r.overflow then 1 else 0) 1 ++ List.replicate 5 0
    ++ natBytes r.cycle.toNat 8
    ++ r.entries.flatMap (fun e => natBytes e.1.ctx 2 ++ natBytes (e.1.queue % 64) 1 ++ natBytes (if e.1.team then 1 else 2) 1
        ++ natBytes e.1.seq.toNat 4 ++ natBytes e.2.toNat 1 ++ List.replicate 7 0)

/-- The response is in MBX.DATA. -/
def Device.respond (d : Device) (result : BitVec 8) (data : List Byte) : Device :=
  { d with mbxBusy := false, mbxResult := result, mbxData := Memory.write d.mbxData 0 data }

/-- The response to a code (R361); GET-FAILREC with no unread record is answered as not available (log entry 48). -/
def Device.answer (d : Device) (r : MailboxReply) : Device :=
  let code := d.mbxCmd.toNat
  if d.noFirmware && code != 1 && code != 5 && decide (code ≤ 5) && decide (1 ≤ code) then d.respond 3 []
  else
    match code with
    | 1 => d.respond 0 d.selfTest
    | 2 => if r.sigOk then { d with pendingImage := some r.image }.respond 0 [] else d.respond 1 []
    | 3 => d.respond 0 r.report
    | 4 =>
      match d.failRecs with
      | x :: rest => { d with failRecs := rest }.respond 0 x.bytes
      | [] => d.respond 3 []
    | 5 => if r.sigOk then { d with pendingFw := some r.fwRev }.respond 0 [] else d.respond 1 []
    | _ => d.respond 2 []

/-- MAILBOX_RESPONSE (R361). -/
def execMailboxResponse (r : MailboxReply) (s : State) : Out := if s.dev.mbxBusy then .next (s.updDev (fun d => d.answer r)) else .next s

/-! ### Power-on and reset (R359, R360) -/

/-- The power limit a value gives (R362). -/
def clampWatts (n : Nat) : BitVec 16 := .ofNat 16 (max 600 (min n 1950))

/-- The safe state (R360): the host ports train at the reduced rate; vector 1 when SAFE sets (R352). -/
def State.enterSafe (s : State) : State :=
  let s1 := s.updDev (fun d => { d with safe := true, ready := false, linkRed := true })
  if s.dev.safe then s1 else s1.raiseMsi 1

/-- The firmware in force after its check: the image that FW-UPDATE wrote to the board's flash (R361), or the one that the board came with. -/
def Device.firmware (d : Device) (b : BootInput) : BitVec 8 := d.pendingFw.getD b.fwRev

/-- The bitmap of the clusters that failed self-test (R361): cluster n is bit n mod 8 of byte n / 8. -/
def failBitmap (failed : List Nat) : List Byte :=
  (List.range 32).map (fun i => .ofNat 8 (((List.range 8).map (fun j => if failed.contains (8 * i + j) then 2 ^ j else 0)).sum))

/-- The steps of R359 with what they find; a host image that was accepted before the reset is the configuration (R359). -/
def State.boot (s : State) (b : BootInput) : State :=
  let fromHost := s.dev.pendingImage.isSome || s.dev.cfgHost
  let img := if fromHost then (s.dev.pendingImage.or s.dev.image).getD b.config else b.config
  let s1 := s.updDev (fun d => { d with hostPorts := b.ports, selfTest := failBitmap b.failed ++ b.record })
  if !b.fwOk then (s1.updDev (fun d => { d with noFirmware := true })).enterSafe
  else
    let s2 := s1.updDev (fun d => { d with fwRev := d.firmware b })
    if b.otherBad || !b.configOk || decide (img.retireMax < b.failed.length) then s2.enterSafe
    else
      let s3 := (img.retired ++ b.failed).foldl (fun t c => t.updCluster c (fun x => { x with retired := true })) s2
      s3.updDev (fun d =>
        { d with
          domNum := img.domNum, links := img.links, pwrLimit := clampWatts img.pwrLimit, image := some img, pendingImage := none,
          cfgHost := fromHost, ready := true })

/-- POWER_GOOD (R359): from a device that has not come up. -/
def execPowerGood (b : BootInput) (s : State) : Out := if s.dev.ready || s.dev.safe then .next s else .next (s.boot b)

/-- What a device reset leaves (R359): everything at reset but memory outside the package and what the board's flash keeps. -/
def State.cleared (s : State) : State :=
  { State.reset with
    pool := s.pool, host := s.host, agenda := s.agenda, free := s.free
    dev := { Device.init with
      pendingImage := s.dev.pendingImage, pendingFw := s.dev.pendingFw, image := s.dev.image, cfgHost := s.dev.cfgHost,
      peers := s.dev.peers, refused := s.dev.refused } }

/-- DEVICE_RESET (R359). -/
def execDeviceReset (b : BootInput) (s : State) : Out := .next (s.cleared.boot b)

/-! ### The edges of the device (R274, R336, R348, R354, R362) -/

/-- HOST_LINK_DOWN (R348): the port is dropped from use. -/
def execHostLinkDown (port : Nat) (s : State) : Out :=
  .next (s.updDev (fun d => { d with hostPorts := d.hostPorts &&& ~~~(BitVec.ofNat 2 (2 ^ port)) }))

/-- NGUCY_LINK_DOWN (R354). -/
def execNgucyLinkDown (link : Nat) (s : State) : Out :=
  .next (s.updDev (fun d => { d with links := d.links &&& ~~~(BitVec.ofNat 16 (2 ^ link)) }))

/-- FLIT_CRC_FAILURE (R354): the link sends the flit again without notice to software. -/
def execFlitCrcFailure (_link : Nat) (s : State) : Out := .next s

/-- POWER_THROTTLE (R362): the clock in 125 MHz steps, from 1 GHz to the nominal 4 GHz. -/
def execPowerThrottle (watts mhz : Nat) (s : State) : Out :=
  if 1000 ≤ mhz ∧ mhz ≤ 4000 ∧ mhz % 125 = 0 then
    .next (s.updDev (fun d => { d with pwrAvg := .ofNat 16 watts, clockMhz := .ofNat 12 mhz, throttle := decide (mhz < 4000) }))
  else .next s

/-- THERMAL_TRIP (R362): every rectangle is killed as PART.RESET does. -/
def execThermalTrip (s : State) : Out :=
  let s1 := (List.range 16).foldl (fun t n => t.killRect n 0 none) s
  .next (s1.updDev (fun d => { d with trip := true })).enterSafe

/-- HOST_CXL_MEM_ACCESS (R348): the host writes pooled memory through its home slice, or with no bytes reads it. -/
def execHostCxlMemAccess (pa : Nat) (data : List Byte) (s : State) : Out :=
  let c : Chunk := .phys false pa data.length 0 0 0 0
  if s.hostUp && decide (pa + data.length ≤ Config.pooledBytes) then .next ((s.recall none [c]).poke c data)
  else .next s

/-- Bytes that the host takes. -/
def hostLen (u : HostUse) : Nat :=
  match u with
  | .write data => data.length
  | .atomic _ w _ _ => if w = 0 then 4 else 8

/-- What stands there when the host has done with them (R198). -/
def hostResult (u : HostUse) (old : List Byte) : List Byte :=
  match u with
  | .write data => data
  | .atomic op w v c =>
    let n := if w = 0 then 4 else 8
    match atomicResult op n (bytesNat old) (v.toNat % 2 ^ (8 * n)) (c.toNat % 2 ^ (8 * n)) with
    | some r => natBytes r n
    | none => old

/-- HOST_COHERENCE_REQUEST (R199, R274): the host takes lines of its memory back, from an engine's hold too, and writes there or executes an
atomic, all in one step: the lines have one coherence order with the device's atomics. -/
def execHostCoherenceRequest (pa : Nat) (use : HostUse) (s : State) : Out :=
  let c : Chunk := .phys true pa (hostLen use) 0 0 0 0
  let lines := c.lines.map (·.2)
  if s.dev.owned.any lines.contains && !s.hostUp then .next s
  else
    let s1 := (s.recall none [c]).updDev (fun d => { d with owned := d.owned.filter (fun l => !lines.contains l) })
    .next (s1.poke c (hostResult use (s1.peek c)))

/-- The accessor that a peer's access stands for (R140). -/
def remoteWho (a : RemoteAccess) : Who := ⟨2048, a.ctx, 0, 0, a.sup, false⟩

/-- The kind-2 address of a peer's access on this device. -/
def State.remoteAddr (s : State) (a : RemoteAccess) : Word :=
  .ofNat 64 (apBase 2 + s.dev.domNum.toNat * 2 ^ 40 + a.offset % 2 ^ 40)

/-- REMOTE_DOMAIN_ACCESS (R140, R354): a peer of the context's set reads, writes or updates this device's on-chip map;
an access that is not admitted changes nothing here and is refused to the peer (R341). -/
def execRemoteDomainAccess (acc : RemoteAccess) (s : State) : Out :=
  let w := remoteWho acc
  let addr := s.remoteAddr acc
  let admitted := s.dev.links != 0 && s.inDomain acc.ctx acc.device
  let lets := fun (n : Nat) => admitted && decide (acc.offset < 2 ^ 40) && s.apertureOk w addr n && registerWindowOk addr n
  match acc.kind with
  | .read _ => .next s
  | .write data =>
    if lets data.length then
      match s.locate w .store addr data.length with
      | .ok cs => .next (s.pokeAll cs data)
      | _ => .next s
    else .next s
  | .atomic op wd v c =>
    let n := if wd = 0 then 4 else 8
    if lets n && scratchTarget addr && addr.toNat % n == 0 then
      match s.doAtomic w op n addr v c with
      | .ok s1 _ => .next s1
      | _ => .next s
    else .next s

/-! ### Replay that diverges (R346) -/

/-- Cycles that a replay waits for a listed request (R346). -/
def divergeCycles : Nat := 2 ^ 20

/-- A request that has arrived where it is to be served, and waits there: since when, and what the log would list of it (R345, R346). -/
structure Arrival where
  since : Nat
  kind  : LogKind
  req   : Served0
  addr  : Word
  cs    : List Chunk

/-- An access that has arrived. -/
def State.arrival (s : State) (since : Nat) (k : LogKind) (w : Who) (acc : Acc) (r : Served0) (addr : Word) (n : Nat) : List Arrival :=
  match s.locate w acc addr n with
  | .ok cs => [⟨since, k, r, addr, cs⟩]
  | _ => []

/-- Stores and atomics of a core that nothing of their stream holds back. -/
def State.askArrivals (s : State) (k : Core) : List Arrival :=
  (k.asks.filter (fun a => a.ready && !s.askBlocked a)).flatMap (fun a =>
    match s.askAt a with
    | .ok cs => ((s.executorNow a.pid a.sc a.kind cs).log.map (fun e => ⟨a.born, e, k.served0 a.who a.st a.ordinal, a.addr, cs⟩)).toList
    | _ => [])

/-- A group operation that waits for its record. -/
def GroupRes.waitsFor (r : GroupRes) : Option (Word × Nat) :=
  match r with
  | .held a n => some (a, n)
  | _ => none

/-- The group's record for which the next matrix instruction of the selected core waits (R238, R346). -/
def State.recordWaited (s : State) (op : LongOp) : Option (Word × Nat) :=
  (match op.work with
    | .mspill d => if (s.core.getAot d).state = AotState.pinned then s.spillGroup s.core.pid d true else .ok s 0
    | .mfill d => if (s.core.getAot d).state = AotState.spilled then s.fillHere s.core.pid d else .ok s 0
    | .mown _ key => s.ownGroup key
    | .mzero d => s.useTile d
    | .mload d _ => s.useTile d
    | .mstore d _ => s.useTile d
    | .mdrain d _ _ => s.useTile d
    | _ => s.useTiles (s.core.jointTiles op)).waitsFor

/-- The next access of an incomplete instruction of the selected core. -/
def State.opArrivals (s : State) (x : StreamId) (op : LongOp) : List Arrival :=
  let k := s.core
  let w := k.opWho op
  let r := k.served0 w x op.ordinal
  if op.status != .running || k.freezes op then []
  else
    match op.work with
    | .atomic .. => []
    | .lds _ a => s.arrival op.born .fullEmpty w .load r a 8
    | .ldsq _ _ _ a => s.arrival op.born .fullEmpty w .load r a 64
    | _ =>
      if op.work.isMatrix then
        match (if k.atHead op then s.recordWaited op else none) with
        | some (a, n) => s.arrival op.born .home (recordWho k.pid w.ctx) .engRead s.groupServed a n
        | none => []
      else
        (s.nextAccesses k op).flatMap (fun a =>
          match s.locate w (if a.use.writing then .store else .load) a.addr a.len with
          | .ok cs =>
            if s.orderBlocked k x op.id op.mode a.use (s.touchSpans w a) then []
            else ((s.accessLog cs).map (fun e => ⟨op.born, e, r, a.addr, cs⟩)).toList
          | _ => [])

/-- The instruction at which a stream of the selected core waits: a synchronising store, a barrier arrival, or a drain whose group is being filled. -/
def State.standArrivals (s : State) : List Arrival :=
  let st := s.cur
  let one := fun (k : LogKind) (acc : Acc) (a : Word) (n : Nat) => s.arrival st.waitFrom k s.who acc s.nowServed a n
  match st.wait, st.asking, s.fetch with
  | some .fullEmpty, _, .instr (.sts a _ off) => one .fullEmpty .store (offsetBy (s.g a) off.toInt 8) 8
  | some .fullEmpty, _, .instr (.stsq _ a off) => one .fullEmpty .store (offsetBy (s.g a) off.toInt 64) 64
  | some .barrier, some addr, _ => one .engine .atomic addr 8
  | some .unit, _, .instr (.mdrain d _ _ _) =>
    match (s.useTile d.toNat).waitsFor with
    | some (a, n) => s.arrival st.waitFrom .home (recordWho s.core.pid s.who.ctx) .engRead s.groupServed a n
    | none => []
  | _, _, _ => []

/-- The next accesses of a copy job, or its arrival at a barrier. -/
def State.copyArrivals (s : State) (j : Job) : List Arrival :=
  let one := fun (red : Bool) (addr : Word) (cs : List Chunk) => ((s.jobLog j red cs).map (fun e => ⟨j.moved, e, j.served0, addr, cs⟩)).toList
  if j.state.isParked then []
  else if j.total ≤ j.next then (if j.req.kind = 1 then s.arrival j.moved .engine j.who .atomic j.served0 j.req.barrier 8 else [])
  else
    match s.nextPiece j with
    | .ok (src, dst, _) =>
      if s.srcWaits j src then []
      else
        let (r, c) := j.place
        (j.reads r c 0 src).flatMap (fun x => one false x.1 x.2) ++ one (j.req.red != 0) (j.dstAt r c) dst
    | .error _ => []

/-- Every request that has arrived and waits. -/
def State.arrivals (s : State) : List Arrival :=
  s.allCores.flatMap (fun k =>
    let on := fun (x : StreamId) => (s.select k.pid).onStream x
    s.askArrivals k ++ k.a.flight.flatMap ((on .a).opArrivals .a) ++ k.c.flight.flatMap ((on .c).opArrivals .c)
      ++ (if k.task.isSome then (on .a).standArrivals ++ (on .c).standArrivals else []))
  ++ s.clusters.flatMap (fun c => c.jobs.flatMap s.copyArrivals)

/-- A request of the context has waited that long at a place for one that the log lists before it and that has not arrived (R346). -/
def State.heldLong (s : State) (ctx : Nat) : Bool :=
  let here := s.arrivals.filter (fun a => a.req.who.ctx == ctx && s.logMode a.req.who == 2)
  here.any (fun a => decide (divergeCycles ≤ s.dev.cycle.toNat - a.since) && (s.logPlaces a.addr a.cs).any (fun place =>
    match s.logNext a.req.who place with
    | some (_, bs) => !here.any (fun b => logNames bs b.kind b.req place && (s.logPlaces b.addr b.cs).contains place)
    | none => false))

/-- REPLAY_DIVERGE (R346). -/
def execReplayDiverge (ctx : Nat) (s : State) : Out :=
  if s.heldLong ctx then .next (s.updCtx ctx (fun c => { c with ordDiverged := true })) else .next s

/-! ### Register writes (R5, R351, R352) -/

/-- A context has a command that is accepted and not completed (R339, R351). -/
def Context.busy (c : Context) : Bool :=
  c.queues.any (fun y => y.2.cmds.any (fun d => match d.phase with
    | .completed _ => false
    | _ => true))

/-- A command of the context holds a save slot (R317). -/
def Context.slotHeld (c : Context) : Bool := c.queues.any (fun y => y.2.cmds.any (fun d => d.slot.isSome))

/-- A level-4 team of the context is placed (R352); one that a pre-emption has saved is not. -/
def Context.level4 (c : Context) : Bool := c.queues.any (fun y => y.2.cmds.any (fun d => d.dom == 4 && !d.held.isEmpty))

/-- Bits [hi:lo] of a value, in their place. -/
def keepBits (v : Word) (lo hi : Nat) : Word := .ofNat 64 (bitField v.toNat lo (hi + 1 - lo) * 2 ^ lo)

/-- A write of CTX.ORDCTL (R344): mode 3 is ignored, and HEAD restarts at a MODE write. -/
def Context.writeOrd (c : Context) (v : Word) : Context :=
  let c1 := { c with ordBase := keepBits v 6 55 }
  if v.toNat % 4 = 3 then c1 else { c1 with ordMode := .ofNat 2 v.toNat, ordHead := 0, ordUsed := [] }

/-- A write of a register of a context, its queues apart (R351, R352). -/
def Context.write (c : Context) (off : Nat) (v : Word) : Context :=
  let f := fun (lo n : Nat) => bitField v.toNat lo n
  match off with
  | 0x000 =>
    if v.getLsbD 0 then (if c.en then c else { c with en := true, seed := 0 })
    else if c.busy then c else { c with en := false }
  | 0x008 => { c with ttRoot := keepBits v 12 55 ||| keepBits v 0 0 }
  | 0x010 => { c with seed := v }
  | 0x018 => if c.slotHeld then c else { c with saveBase := keepBits v 16 55 }
  | 0x020 => { c with trapVec := keepBits v 1 63 }
  | 0x028 => if c.busy then c else { c with part := .ofNat 4 (f 0 4) }
  | 0x030 => c.writeOrd v
  | 0x038 => { c with ordSize := .ofNat 32 (f 0 32) }
  | 0x040 => { c with ordDiverged := c.ordDiverged && !v.getLsbD 33, ordFull := c.ordFull && !v.getLsbD 32 }
  | 0x048 => if c.level4 then c else { c with domBase := keepBits v 7 55, domValid := v.getLsbD 0 }
  | 0x050 => { c with pasid := .ofNat 20 (f 0 20) }
  | 0x058 => if c.slotHeld then c else { c with saveSlots := .ofNat 16 (max 1 (f 48 16)), saveStride := .ofNat 32 (f 16 32) }
  | _ => c

/-- A write of Q.CFG (R352). -/
def Queue.writeCfg (x : Queue) (v : Word) : Queue :=
  let f := fun (lo n : Nat) => bitField v.toNat lo n
  let n := f 0 5
  { x with
    msiv := .ofNat 11 (max 2 (f 16 11)), prePerm := v.getLsbD 12, prio := .ofNat 2 (f 8 2)
    log2 := if 4 ≤ n ∧ n ≤ 16 then n else 4 }

/-- A write of a queue's register (R26, R29, R40, R352). -/
def State.writeQueue (s : State) (ctx q reg : Nat) (v : Word) : Out :=
  let en := (s.queueAt ctx q).en
  match reg with
  | 0x00 => if en then .next s else .next (s.updQueue ctx q (fun x => { x with base := keepBits v 6 55 }))
  | 0x08 => if en then .next s else .next (s.updQueue ctx q (fun x => x.writeCfg v))
  | 0x10 =>
    let s1 := s.updQueue ctx q (fun x => { x with wfail := x.wfail && !v.getLsbD 4, under := x.under && !v.getLsbD 3 })
    if v.getLsbD 0 then execQueueEnable ctx q s1 else execQueueDisable ctx q s1
  | 0x18 => execNotifyWrite ctx q (v.truncate 32) false s
  | 0x20 => execQueueAck ctx q (v.truncate 32) s
  | _ => .next s

/-- A write of a register of the device region (R351, R352). -/
def State.writeDevice (s : State) (off : Nat) (v : Word) : Out :=
  if 0x300 ≤ off ∧ off < 0x380 then .next (s.writeRect ((off - 0x300) / 8) v)
  else if 0x2000 ≤ off ∧ off < 0x3000 then
    .next (s.updDev (fun d => { d with mbxData := Memory.write d.mbxData (off - 0x2000) (natBytes v.toNat 8) }))
  else
    match off with
    | 0x0020 => execReplayAll s
    | 0x0028 => execTtInval v s
    | 0x0030 => execPartReset v s
    | 0x0038 => .next (s.updDev (fun d => { d with netAge := .ofNat 16 (max 64 (v.toNat % 65536)) }))
    | 0x0040 => execFbHeadWrite v s
    | 0x0050 => .next (s.updDev (fun d => { d with fbFlag := d.fbFlag && !v.getLsbD 0 }))
    | 0x0400 => execIftNow v s
    | 0x0600 => .next (s.updDev (fun d => { d with pwrLimit := clampWatts (v.toNat % 65536) }))
    | 0x0608 => .next (s.updDev (fun d => { d with trip := d.trip && !v.getLsbD 29 }))
    | 0x1000 => .next (s.mailbox v)
    | _ => .next s

/-- REGISTER_WRITE (R5, R351): an aligned 8-byte write of the management space; any other is ignored. -/
def execRegisterWrite (offset size : Nat) (v : Word) (s : State) : Out :=
  if offset % 8 ≠ 0 ∨ size ≠ 8 then .next s
  else
    let c := offset / 0x10000
    let off := offset % 0x10000
    if c = 0 then s.writeDevice off v
    else if 4096 ≤ c then .next s
    else if 0x1000 ≤ off ∧ off < 0x2000 then s.writeQueue c ((off - 0x1000) / 64) ((off - 0x1000) % 64) v
    else .next (s.updCtx c (fun x => x.write off v))

/-! ### Reads of the management space (R5, R351) -/

/-- A bit as a number. -/
def flagBit (b : Bool) (n : Nat) : Nat := if b then 2 ^ n else 0

/-- A register of a context as the host reads it (R317, R339, R344, R351, R352). -/
def Context.read (c : Context) (off : Nat) : Word :=
  match off with
  | 0x000 => .ofNat 64 (flagBit c.en 0)
  | 0x008 => c.ttRoot
  | 0x010 => c.seed
  | 0x018 => c.saveBase
  | 0x020 => c.trapVec
  | 0x028 => c.part.zeroExtend 64
  | 0x030 => .ofNat 64 (c.ordBase.toNat + c.ordMode.toNat)
  | 0x038 => c.ordSize.zeroExtend 64
  | 0x040 => .ofNat 64 (c.ordHead.toNat + flagBit c.ordFull 32 + flagBit c.ordDiverged 33)
  | 0x048 => .ofNat 64 (c.domBase.toNat + flagBit c.domValid 0)
  | 0x050 => c.pasid.zeroExtend 64
  | 0x058 => .ofNat 64 (c.saveSlots.toNat * 2 ^ 48 + c.saveStride.toNat * 2 ^ 16)
  | _ => 0

/-- A register of a queue as the host reads it (R29, R352); Q.ACK reads zero. -/
def Queue.read (x : Queue) (reg : Nat) : Word :=
  match reg with
  | 0x00 => x.base
  | 0x08 => .ofNat 64 (x.log2 + x.prio.toNat * 2 ^ 8 + flagBit x.prePerm 12 + x.msiv.toNat * 2 ^ 16)
  | 0x10 => .ofNat 64 (flagBit x.en 0 + flagBit x.qerr 1 + flagBit x.frozen 2 + flagBit x.under 3 + flagBit x.wfail 4
      + x.err.toNat * 2 ^ 8 + x.errSeq.toNat * 2 ^ 32)
  | 0x18 => x.notify.zeroExtend 64
  | _ => 0

/-- CR.n (R338). -/
def ContRect.word (r : ContRect) : Word :=
  .ofNat 64 (flagBit r.valid 0 + flagBit r.killed 1 + flagBit r.purged 2 + r.x0.toNat * 2 ^ 8 + r.x1.toNat * 2 ^ 12
    + r.y0.toNat * 2 ^ 16 + r.y1.toNat * 2 ^ 20)

/-- A register of the device region as the host reads it (R162, R337, R338, R342, R351, R352, R357, R361, R362). -/
def Device.read (d : Device) (off : Nat) : Word :=
  if 0x100 ≤ off ∧ off < 0x180 then
    let e := ((d.fbSlots[(off - 0x100) / 16]?).getD 0).toNat
    .ofNat 64 (e / 2 ^ (64 * ((off - 0x100) / 8 % 2)))
  else if 0x300 ≤ off ∧ off < 0x380 then ((d.rects[(off - 0x300) / 8]?).getD (ContRect.reset 1)).word
  else if 0x2000 ≤ off ∧ off < 0x3000 then .ofNat 64 (bytesNat (Memory.read d.mbxData (off - 0x2000) 8))
  else
    match off with
    | 0x0000 => 0x4D51204800000001
    | 0x0008 => .ofNat 64 (flagBit d.ready 0 + flagBit d.safe 1 + flagBit d.linkRed 2 + flagBit d.cfgHost 3 + d.fwRev.toNat * 2 ^ 8)
    | 0x0010 => d.roCount.zeroExtend 64
    | 0x0018 => d.resFail.zeroExtend 64
    | 0x0028 => .ofNat 64 (flagBit d.inval.isSome 0)
    | 0x0038 => d.netAge.zeroExtend 64
    | 0x0040 => d.fbHead.zeroExtend 64
    | 0x0048 => d.fbTail.zeroExtend 64
    | 0x0050 => .ofNat 64 (flagBit d.fbFlag 0 + d.fbDropped.toNat * 2 ^ 32)
    | 0x0200 => d.errCe
    | 0x0208 => .ofNat 64 (d.errDrop.toNat + d.errPoison.toNat * 2 ^ 32)
    | 0x0210 => d.errLast
    | 0x0218 => d.errKill.zeroExtend 64
    | 0x0400 => .ofNat 64 (d.iftCluster.toNat + d.iftPeriod.toNat * 2 ^ 32)
    | 0x0408 => .ofNat 64 (d.iftLast.toNat + d.iftFail.toNat * 2 ^ 8 + d.iftPass.toNat * 2 ^ 32)
    | 0x0500 => d.domNum.zeroExtend 64
    | 0x0600 => d.pwrLimit.zeroExtend 64
    | 0x0608 => .ofNat 64 (d.pwrAvg.toNat + d.clockMhz.toNat * 2 ^ 16 + flagBit d.throttle 28 + flagBit d.trip 29)
    | 0x1000 => d.mbxCmd
    | 0x1008 => .ofNat 64 (flagBit d.mbxBusy 0 + d.mbxResult.toNat * 2 ^ 8)
    | _ => 0

/-- What the host reads in the management space: an aligned 8-byte access reads a register, one not listed zero; any other reads all ones.
A read changes nothing. -/
def State.readRegister (s : State) (offset size : Nat) : Word :=
  if offset % 8 ≠ 0 ∨ size ≠ 8 then allOnes64
  else
    let c := offset / 0x10000
    let off := offset % 0x10000
    if c = 0 then s.dev.read off
    else if 4096 ≤ c then 0
    else if 0x1000 ≤ off ∧ off < 0x2000 then (s.queueAt c ((off - 0x1000) / 64)).read ((off - 0x1000) % 64)
    else (s.ctxAt c).read off

end Sys2Proof.Machine
end

