-- ==== Sys2Proof/Machine/Waits.lean ====
section
/-! DEFINITION. Waits that end, streams that block each other, and what a fetch can end in
(spec/05_fetch_and_issue.md R82, R93, R122, spec/08_memory.md R149, spec/15_sync_instructions.md R280 to R285). -/

namespace Sys2Proof.Machine

/-! ### A waiting instruction is tried again -/

/-- One stream of one core issues; the core whose turn it was is then selected again. -/
def State.onTurn (s : State) (pid : Nat) (x : StreamId) (f : State → Out) : Out :=
  match f ((s.select pid).onStream x) with
  | .next t => .next (t.select s.core.pid)
  | r => r

/-- The waiting instruction of a stream issues again if the stream waits as the event says. -/
def State.wake (s : State) (pid : Nat) (x : StreamId) (here : Wait → Bool) (run : Instr → State → Out) : Out :=
  match ((s.coreAt pid).str x).wait with
  | some w =>
    if here w then
      s.onTurn pid x (fun s1 => match s1.fetch with
        | .instr i => run i s1
        | _ => .next s1)
    else .next s
  | none => .next s

/-- BARRIER_RETURN (R280, R281). -/
def execBarrierReturn (pid : Nat) (s : State) : Out :=
  s.wake pid .a (fun w => w == .barrier) (fun i s1 => match i with
    | .bar a n sc => execBar a n sc s1
    | .barW a n sc => execBarW a n sc s1
    | .barx a n sc => execBarx a n sc s1
    | .barw a g sc => execBarw a g sc s1
    | _ => .next s1)

/-- FULL_EMPTY_WAKE (R195, R196): a synchronising load in flight, by its place in the A-stream's list, or the store at which the stream waits. -/
def execFullEmptyWake (pid : Nat) (op : Option Nat) (s : State) : Out :=
  match op with
  | some idx =>
    .next (s.onCore pid fun s1 =>
      match s1.opAt .a idx with
      | some o =>
        match o.work with
        | .lds .. => s1.goOn .a o.id 1
        | .ldsq .. => s1.goOn .a o.id 1
        | _ => s1
      | none => s1)
  | none =>
    s.wake pid .a (fun w => w == .fullEmpty) (fun i s1 => match i with
      | .sts a b off => execSts a b off s1
      | .stsq q a off => execStsq q a off s1
      | _ => .next s1)

/-- TILE_READY_RESUME (R149): an instruction that waits for its tile. -/
def execTileReadyResume (pid : Nat) (st : StreamId) (s : State) : Out :=
  s.wake pid st (fun w => match w with
    | .tile _ => true
    | _ => false) (fun i s1 => match i with
    | .tdef a b => execTdef a b s1
    | .twait a => execTwait a s1
    | .trel a => execTrel a s1
    | .ldqs q a b tag esz la => execLdqs q a b tag esz la s1
    | .stqs q a b esz => execStqs q a b esz s1
    | .mmacVv d a b f p la => execMmacVv d a b f p la s1
    | .mmacSv d a b f p la => execMmacSv d a b f p la s1
    | .mmacVs d a b f p la => execMmacVs d a b f p la s1
    | .mmacSs d a b f p la => execMmacSs d a b f p la s1
    | .mload d a la => execMload d a la s1
    | .mstore d a la => execMstore d a la s1
    | _ => .next s1)

/-- GSYNC_COMPLETE (R284). -/
def execGsyncComplete (pid : Nat) (s : State) : Out :=
  s.wake pid .a (fun w => w == .gsync) (fun i s1 => match i with
    | .gsync sc => execGsync sc s1
    | _ => .next s1)

/-- WAITP_RETURN (R285). -/
def execWaitpReturn (pid : Nat) (s : State) : Out :=
  s.wake pid .a (fun w => w == .waitp) (fun i s1 => match i with
    | .waitp => execWaitp s1
    | _ => .next s1)

/-- The phase at which the A-stream of a core waits completes if every arrival is in (R283). -/
def State.dsyncAt (s : State) (pid : Nat) : State :=
  let k := s.coreAt pid
  match k.task, k.a.dsynced with
  | some t, some (level, _) =>
    match s.cmdAt t.ctx t.queue t.seq with
    | some c => s.dsyncTry t.ctx t.queue t.seq level (c.instanceKey level t.lid)
    | none => s
  | _, _ => s

/-- DSYNC_COMPLETE (R283). -/
def execDsyncComplete (pid : Nat) (s : State) : Out :=
  (s.dsyncAt pid).wake pid .a (fun w => w == .dsync) (fun i s1 => match i with
    | .dsync sc => execDsync sc s1
    | _ => .next s1)

/-- REMOTE_DSYNC_ARRIVAL (R283, R355): every task of the level-4 team on another device of the set has arrived, at one phase more. -/
def execRemoteDsyncArrival (ctx device : Nat) (s : State) : Out :=
  if s.inDomain ctx device && s.dev.links != 0 then
    .next (s.updCtx ctx (fun x => { x with remote := x.remote ++ [device] }))
  else .next s

/-! ### Stream deadlock (R93) -/

/-- The queue at which a stream blocks now, and whether it pushes (R92). -/
def Core.queueBlock (k : Core) (x : StreamId) : Option (Nat × Bool) :=
  match (k.str x).wait with
  | some (.pop q n) => if (k.getQueue q).length < n then some (q, false) else none
  | some (.push q) => if (k.getQueue q).length < Config.queueDepth then none else some (q, true)
  | _ => none

/-- The stream is queue-blocked; one that has executed EXIT counts (R41, R93). -/
def Core.queueBlocked (k : Core) (x : StreamId) : Bool :=
  (k.str x).exited || ((k.str x).stopped.isNone && (k.str x).mode == .user && (k.queueBlock x).isSome)

/-- The instruction would still push to or pop from a queue (R93). -/
def Work.queues : Work → Bool
  | .vredq .. => true
  | .mdrain _ (.queue _) _ => true
  | .fwchunk _ _ => true
  | w => w.fills

/-- A stream's part of TRAP.VAL (R93). -/
def blockCode (b : Option (Nat × Bool)) : Nat :=
  match b with
  | some (q, push) => q + (if push then 8 else 0)
  | none => 0

/-- STREAM_DEADLOCK (R93): both streams are queue-blocked and nothing that has issued will push or pop. -/
def execStreamDeadlock (pid : Nat) (s : State) : Out :=
  .next (s.onCore pid fun s1 =>
    let k := s1.core
    let waits := !((k.a.flight ++ k.c.flight).any (fun op => op.work.queues))
    if k.task.isSome && k.handler.isNone && !(k.a.exited && k.c.exited) && k.queueBlocked .a && k.queueBlocked .c && waits
        && s1.quietOn k .a && s1.quietOn k .c then
      let x : StreamId := if k.a.exited then .c else .a
      let a := if k.a.exited then none else k.queueBlock .a
      let c := if k.c.exited then none else k.queueBlock .c
      let st := k.str x
      (s1.onStream x).takeTrap 0x14 (.ofNat 64 (blockCode a + blockCode c * 256)) st.pc st.pc none true
    else s1)

/-! ### What a fetch ends in -/

/-- The traps that are due come before anything that the fetch finds (R55, R363, R364). -/
def State.atFetch (s : State) (k : State → State) : State :=
  if !s.canAct then s
  else
    match s.dueTrap with
    | some t => t
    | none => if s.canIssue then k s else s.standHere

/-- ILLEGAL_INSTRUCTION (R122): the word at the program counter of the issuing stream is no instruction. -/
def execIllegalInstruction (word : BitVec 32) (s : State) : Out :=
  if s.fetch = .reject word then .next (s.atFetch (fun s => s.trapAt 0x01 (word.zeroExtend 64))) else .next s

/-- FETCH_PROTECTION_FAULT (R82): the fetch at the program counter of the issuing stream is refused. -/
def execFetchProtectionFault (va : Word) (s : State) : Out :=
  if s.fetch = .trap 0x07 va then .next (s.atFetch (fun s => s.trapAt 0x07 va)) else .next s

/-- A fetch that traps otherwise: an address outside its aperture, a poisoned line (R82, R140, R336). -/
def State.fetchTrap (s : State) (cause : Nat) (val : Word) : State := s.atFetch (fun s => s.trapAt cause val)

/-- A fetch that meets a missing page parks the stream (R82, R159). -/
def State.fetchPark (s : State) (level base : Nat) (va : Word) : State :=
  s.atFetch (fun s => s.parkAt 2 level base va)

end Sys2Proof.Machine
end

