-- ==== Sys2Proof/Machine/Dispatch.lean ====
section
/-! DEFINITION. One arm per instruction: the call of its meaning. -/

namespace Sys2Proof.Machine

def exec (i : Instr) (s : State) : Host.Outcome State Fault Refusal :=
  match i with
  | .add d a b => Sys2Proof.Machine.execAdd d a b s
  | .sub d a b => Sys2Proof.Machine.execSub d a b s
  | .mul d a b la => Sys2Proof.Machine.execMul d a b la s
  | .mulh d a b la => Sys2Proof.Machine.execMulh d a b la s
  | .div d a b la => Sys2Proof.Machine.execDiv d a b la s
  | .divu d a b la => Sys2Proof.Machine.execDivu d a b la s
  | .rem d a b la => Sys2Proof.Machine.execRem d a b la s
  | .remu d a b la => Sys2Proof.Machine.execRemu d a b la s
  | .and d a b => Sys2Proof.Machine.execAnd d a b s
  | .or d a b => Sys2Proof.Machine.execOr d a b s
  | .xor d a b => Sys2Proof.Machine.execXor d a b s
  | .shl d a b => Sys2Proof.Machine.execShl d a b s
  | .shr d a b => Sys2Proof.Machine.execShr d a b s
  | .sar d a b => Sys2Proof.Machine.execSar d a b s
  | .slt d a b => Sys2Proof.Machine.execSlt d a b s
  | .sltu d a b => Sys2Proof.Machine.execSltu d a b s
  | .min d a b => Sys2Proof.Machine.execMin d a b s
  | .max d a b => Sys2Proof.Machine.execMax d a b s
  | .clz d a => Sys2Proof.Machine.execClz d a s
  | .ctz d a => Sys2Proof.Machine.execCtz d a s
  | .popc d a => Sys2Proof.Machine.execPopc d a s
  | .gcd d a b la => Sys2Proof.Machine.execGcd d a b la s
  | .addi d a imm => Sys2Proof.Machine.execAddi d a imm s
  | .andi d a imm => Sys2Proof.Machine.execAndi d a imm s
  | .ori d a imm => Sys2Proof.Machine.execOri d a imm s
  | .xori d a imm => Sys2Proof.Machine.execXori d a imm s
  | .shli d a c => Sys2Proof.Machine.execShli d a c s
  | .shri d a c => Sys2Proof.Machine.execShri d a c s
  | .sari d a c => Sys2Proof.Machine.execSari d a c s
  | .slti d a imm => Sys2Proof.Machine.execSlti d a imm s
  | .sltiu d a imm => Sys2Proof.Machine.execSltiu d a imm s
  | .lui d imm => Sys2Proof.Machine.execLui d imm s
  | .adpc d imm => Sys2Proof.Machine.execAdpc d imm s
  | .bcc a b off c => Sys2Proof.Machine.execBcc a b off c s
  | .br off => Sys2Proof.Machine.execBr off s
  | .call off => Sys2Proof.Machine.execCall off s
  | .jr a => Sys2Proof.Machine.execJr a s
  | .callr a => Sys2Proof.Machine.execCallr a s
  | .qput q a => Sys2Proof.Machine.execQput q a s
  | .qget q d => Sys2Proof.Machine.execQget q d s
  | .sysrd d imm => Sys2Proof.Machine.execSysrd d imm s
  | .syswr a imm => Sys2Proof.Machine.execSyswr a imm s
  | .svc imm => Sys2Proof.Machine.execSvc imm s
  | .trap imm => Sys2Proof.Machine.execTrap imm s
  | .safept imm => Sys2Proof.Machine.execSafept imm s
  | .gtol d a => Sys2Proof.Machine.execGtol d a s
  | .ltog d a b => Sys2Proof.Machine.execLtog d a b s
  | .inap d a => Sys2Proof.Machine.execInap d a s
  | .teama d a b => Sys2Proof.Machine.execTeama d a b s
  | .fence sc => Sys2Proof.Machine.execFence sc s
  | .fenceAcq sc => Sys2Proof.Machine.execFenceAcq sc s
  | .fenceRel sc => Sys2Proof.Machine.execFenceRel sc s
  | .bar a n sc => Sys2Proof.Machine.execBar a n sc s
  | .barW a n sc => Sys2Proof.Machine.execBarW a n sc s
  | .barw a g sc => Sys2Proof.Machine.execBarw a g sc s
  | .barx a n sc => Sys2Proof.Machine.execBarx a n sc s
  | .dsync sc => Sys2Proof.Machine.execDsync sc s
  | .gsync sc => Sys2Proof.Machine.execGsync sc s
  | .ld d a off sz la => Sys2Proof.Machine.execLd d a off sz la s
  | .ldz d a off sz la => Sys2Proof.Machine.execLdz d a off sz la s
  | .st a b off sz => Sys2Proof.Machine.execSt a b off sz s
  | .ldq q a off tag la => Sys2Proof.Machine.execLdq q a off tag la s
  | .stq q a off => Sys2Proof.Machine.execStq q a off s
  | .ldqs q a b tag esz la => Sys2Proof.Machine.execLdqs q a b tag esz la s
  | .stqs q a b esz => Sys2Proof.Machine.execStqs q a b esz s
  | .ldqx q a b tag esz la => Sys2Proof.Machine.execLdqx q a b tag esz la s
  | .stqx q a b esz => Sys2Proof.Machine.execStqx q a b esz s
  | .lds d a off la => Sys2Proof.Machine.execLds d a off la s
  | .sts a b off => Sys2Proof.Machine.execSts a b off s
  | .ldsq q a off tag la => Sys2Proof.Machine.execLdsq q a off tag la s
  | .stsq q a off => Sys2Proof.Machine.execStsq q a off s
  | .atomicAdd d a b w rt sc => Sys2Proof.Machine.execAtomicAdd d a b w rt sc s
  | .atomicAnd d a b w rt sc => Sys2Proof.Machine.execAtomicAnd d a b w rt sc s
  | .atomicOr d a b w rt sc => Sys2Proof.Machine.execAtomicOr d a b w rt sc s
  | .atomicXor d a b w rt sc => Sys2Proof.Machine.execAtomicXor d a b w rt sc s
  | .atomicMin d a b w rt sc => Sys2Proof.Machine.execAtomicMin d a b w rt sc s
  | .atomicMax d a b w rt sc => Sys2Proof.Machine.execAtomicMax d a b w rt sc s
  | .atomicSwp d a b w rt sc => Sys2Proof.Machine.execAtomicSwp d a b w rt sc s
  | .atomicCas d a b w rt sc => Sys2Proof.Machine.execAtomicCas d a b w rt sc s
  | .radd a b w sc => Sys2Proof.Machine.execRadd a b w sc s
  | .tdef a b => Sys2Proof.Machine.execTdef a b s
  | .tstat d a => Sys2Proof.Machine.execTstat d a s
  | .twait a => Sys2Proof.Machine.execTwait a s
  | .trel a => Sys2Proof.Machine.execTrel a s
  | .cpset a k => Sys2Proof.Machine.execCpset a k s
  | .cpgo d => Sys2Proof.Machine.execCpgo d s
  | .cpwait a => Sys2Proof.Machine.execCpwait a s
  | .cpprobe d a => Sys2Proof.Machine.execCpprobe d a s
  | .lvget d a => Sys2Proof.Machine.execLvget d a s
  | .lvnbr d a => Sys2Proof.Machine.execLvnbr d a s
  | .lvread d a b la => Sys2Proof.Machine.execLvread d a b la s
  | .lvstep a => Sys2Proof.Machine.execLvstep a s
  | .lvthaw d a => Sys2Proof.Machine.execLvthaw d a s
  | .fadd d a b la => Sys2Proof.Machine.execFadd d a b la s
  | .fsub d a b la => Sys2Proof.Machine.execFsub d a b la s
  | .fmul d a b la => Sys2Proof.Machine.execFmul d a b la s
  | .fdiv d a b la => Sys2Proof.Machine.execFdiv d a b la s
  | .fsqrt d a la => Sys2Proof.Machine.execFsqrt d a la s
  | .fma d a b la => Sys2Proof.Machine.execFma d a b la s
  | .fmin d a b => Sys2Proof.Machine.execFmin d a b s
  | .fmax d a b => Sys2Proof.Machine.execFmax d a b s
  | .fabs d a => Sys2Proof.Machine.execFabs d a s
  | .fneg d a => Sys2Proof.Machine.execFneg d a s
  | .feq d a b => Sys2Proof.Machine.execFeq d a b s
  | .flt d a b => Sys2Proof.Machine.execFlt d a b s
  | .fle d a b => Sys2Proof.Machine.execFle d a b s
  | .fcvt d a tag la => Sys2Proof.Machine.execFcvt d a tag la s
  | .f2g d a la => Sys2Proof.Machine.execF2g d a la s
  | .g2f d a tag la => Sys2Proof.Machine.execG2f d a tag la s
  | .fmvg d a => Sys2Proof.Machine.execFmvg d a s
  | .gmvf d a tag => Sys2Proof.Machine.execGmvf d a tag s
  | .fnum d a => Sys2Proof.Machine.execFnum d a s
  | .fden d a => Sys2Proof.Machine.execFden d a s
  | .fmake d a b la => Sys2Proof.Machine.execFmake d a b la s
  | .fmed d a b la => Sys2Proof.Machine.execFmed d a b la s
  | .frnd d a b la => Sys2Proof.Machine.execFrnd d a b la s
  | .fnbr d a b la => Sys2Proof.Machine.execFnbr d a b la s
  | .fli d imm => Sys2Proof.Machine.execFli d imm s
  | .vadd d a b k pol me => Sys2Proof.Machine.execVadd d a b k pol me s
  | .vsub d a b k pol me => Sys2Proof.Machine.execVsub d a b k pol me s
  | .vmul d a b k pol me => Sys2Proof.Machine.execVmul d a b k pol me s
  | .vfma d a b k pol me => Sys2Proof.Machine.execVfma d a b k pol me s
  | .vfms d a b k pol me => Sys2Proof.Machine.execVfms d a b k pol me s
  | .vdiv d a b k pol me => Sys2Proof.Machine.execVdiv d a b k pol me s
  | .vmin d a b k pol me => Sys2Proof.Machine.execVmin d a b k pol me s
  | .vmax d a b k pol me => Sys2Proof.Machine.execVmax d a b k pol me s
  | .vand d a b k pol me => Sys2Proof.Machine.execVand d a b k pol me s
  | .vor d a b k pol me => Sys2Proof.Machine.execVor d a b k pol me s
  | .vxor d a b k pol me => Sys2Proof.Machine.execVxor d a b k pol me s
  | .vshl d a b k pol me => Sys2Proof.Machine.execVshl d a b k pol me s
  | .vshr d a b k pol me => Sys2Proof.Machine.execVshr d a b k pol me s
  | .vsar d a b k pol me => Sys2Proof.Machine.execVsar d a b k pol me s
  | .vcmp d a b c k u pol me => Sys2Proof.Machine.execVcmp d a b c k u pol me s
  | .vmov d a k pol me => Sys2Proof.Machine.execVmov d a k pol me s
  | .vsel d a b k => Sys2Proof.Machine.execVsel d a b k s
  | .vperm d a b k pol me => Sys2Proof.Machine.execVperm d a b k pol me s
  | .vslideUp d a n k pol me => Sys2Proof.Machine.execVslideUp d a n k pol me s
  | .vslideDown d a n k pol me => Sys2Proof.Machine.execVslideDown d a n k pol me s
  | .vsplat d a k pol me => Sys2Proof.Machine.execVsplat d a k pol me s
  | .vidx d k tag pol me => Sys2Proof.Machine.execVidx d k tag pol me s
  | .vcompress d a k pol => Sys2Proof.Machine.execVcompress d a k pol s
  | .vpopm d a => Sys2Proof.Machine.execVpopm d a s
  | .vrcp d a k pol me la => Sys2Proof.Machine.execVrcp d a k pol me la s
  | .vrsq d a k pol me la => Sys2Proof.Machine.execVrsq d a k pol me la s
  | .vsqrt d a k pol me la => Sys2Proof.Machine.execVsqrt d a k pol me la s
  | .vexp2 d a k pol me la => Sys2Proof.Machine.execVexp2 d a k pol me la s
  | .vlog2 d a k pol me la => Sys2Proof.Machine.execVlog2 d a k pol me la s
  | .vtanh d a k pol me la => Sys2Proof.Machine.execVtanh d a k pol me la s
  | .vsigm d a k pol me la => Sys2Proof.Machine.execVsigm d a k pol me la s
  | .vcvt d a k tag pol me la => Sys2Proof.Machine.execVcvt d a k tag pol me la s
  | .vcvts d a k tag pol me la => Sys2Proof.Machine.execVcvts d a k tag pol me la s
  | .vpack d a tag la => Sys2Proof.Machine.execVpack d a tag la s
  | .vunpack d a la => Sys2Proof.Machine.execVunpack d a la s
  | .vredadd d a k f pol me la => Sys2Proof.Machine.execVredadd d a k f pol me la s
  | .vredmax d a k f pol me la => Sys2Proof.Machine.execVredmax d a k f pol me la s
  | .vredmin d a k f pol me la => Sys2Proof.Machine.execVredmin d a k f pol me la s
  | .vredq d a n f la => Sys2Proof.Machine.execVredq d a n f la s
  | .vrng d a k tag pol me => Sys2Proof.Machine.execVrng d a k tag pol me s
  | .vpivot d a b k me => Sys2Proof.Machine.execVpivot d a b k me s
  | .vpivotR d a b k me => Sys2Proof.Machine.execVpivotR d a b k me s
  | .velim d a b k pol me => Sys2Proof.Machine.execVelim d a b k pol me s
  | .vreg d a b => Sys2Proof.Machine.execVreg d a b s
  | .mmacVv d a b f p la => Sys2Proof.Machine.execMmacVv d a b f p la s
  | .mmacSv d a b f p la => Sys2Proof.Machine.execMmacSv d a b f p la s
  | .mmacVs d a b f p la => Sys2Proof.Machine.execMmacVs d a b f p la s
  | .mmacSs d a b f p la => Sys2Proof.Machine.execMmacSs d a b f p la s
  | .mzero d la => Sys2Proof.Machine.execMzero d la s
  | .mload d a la => Sys2Proof.Machine.execMload d a la s
  | .mstore d a la => Sys2Proof.Machine.execMstore d a la s
  | .mdrain d a b la => Sys2Proof.Machine.execMdrain d a b la s
  | .mpin d a b => Sys2Proof.Machine.execMpin d a b s
  | .mfree d => Sys2Proof.Machine.execMfree d s
  | .mspill d la => Sys2Proof.Machine.execMspill d la s
  | .mfill d la => Sys2Proof.Machine.execMfill d la s
  | .mown d a la => Sys2Proof.Machine.execMown d a la s
  | .fwdelta d a b f la => Sys2Proof.Machine.execFwdelta d a b f la s
  | .fwchunk d n la => Sys2Proof.Machine.execFwchunk d n la s
  | .fwread d a la => Sys2Proof.Machine.execFwread d a la s
  | .vaddH d a m => Sys2Proof.Machine.execVaddH d a m s
  | .vsubH d a m => Sys2Proof.Machine.execVsubH d a m s
  | .vmulH d a m => Sys2Proof.Machine.execVmulH d a m s
  | .vminH d a m => Sys2Proof.Machine.execVminH d a m s
  | .vmaxH d a m => Sys2Proof.Machine.execVmaxH d a m s
  | .vandH d a m => Sys2Proof.Machine.execVandH d a m s
  | .vorH d a m => Sys2Proof.Machine.execVorH d a m s
  | .vxorH d a m => Sys2Proof.Machine.execVxorH d a m s
  | .vmovH d a m => Sys2Proof.Machine.execVmovH d a m s
  | .vneg d a m => Sys2Proof.Machine.execVneg d a m s
  | .vabs d a m => Sys2Proof.Machine.execVabs d a m s
  | .vselH d a => Sys2Proof.Machine.execVselH d a s
  | .vrelu d a m => Sys2Proof.Machine.execVrelu d a m s
  | .vrsub d a m => Sys2Proof.Machine.execVrsub d a m s
  | .vzero d a m => Sys2Proof.Machine.execVzero d a m s
  | .vswap d a => Sys2Proof.Machine.execVswap d a s
  | .illegalInstruction word => Sys2Proof.Machine.execIllegalInstruction word s
  | .fetchProtectionFault va => Sys2Proof.Machine.execFetchProtectionFault va s
  | .notifyWrite ctx q v relaxed => Sys2Proof.Machine.execNotifyWrite ctx q v relaxed s
  | .slotRead ctx q => Sys2Proof.Machine.execSlotRead ctx q s
  | .staleSlotReread ctx q => Sys2Proof.Machine.execStaleSlotReread ctx q s
  | .launch ctx q rect => Sys2Proof.Machine.execLaunch ctx q rect s
  | .front ctx q rect => Sys2Proof.Machine.execFront ctx q rect s
  | .marker ctx q => Sys2Proof.Machine.execMarker ctx q s
  | .queueEnable ctx q => Sys2Proof.Machine.execQueueEnable ctx q s
  | .queueDisable ctx q => Sys2Proof.Machine.execQueueDisable ctx q s
  | .queueAck ctx q v => Sys2Proof.Machine.execQueueAck ctx q v s
  | .seedWrite ctx v => Sys2Proof.Machine.execSeedWrite ctx v s
  | .contextSave pid => Sys2Proof.Machine.execContextSave pid s
  | .teamResume ctx q rect cidxs => Sys2Proof.Machine.execTeamResume ctx q rect cidxs s
  | .commandComplete ctx q seq => Sys2Proof.Machine.execCommandComplete ctx q seq s
  | .levelDispatch cluster cidx => Sys2Proof.Machine.execLevelDispatch cluster cidx s
  | .commitArrival cluster block => Sys2Proof.Machine.execCommitArrival cluster block s
  | .stall ctx q seq => Sys2Proof.Machine.execStall ctx q seq s
  | .lvRecordStage block => Sys2Proof.Machine.execLvRecordStage block s
  | .streamDeadlock pid => Sys2Proof.Machine.execStreamDeadlock pid s
  | .longOpComplete pid st idx units => Sys2Proof.Machine.execLongOpComplete pid st idx units s
  | .storeRefusal pid idx => Sys2Proof.Machine.execStoreRefusal pid idx s
  | .storeAck pid idx => Sys2Proof.Machine.execStoreAck pid idx s
  | .queueEntryFill pid idx => Sys2Proof.Machine.execQueueEntryFill pid idx s
  | .pageFaultPark pid st idx => Sys2Proof.Machine.execPageFaultPark pid st idx s
  | .fbHeadWrite v => Sys2Proof.Machine.execFbHeadWrite v s
  | .ttInval v => Sys2Proof.Machine.execTtInval v s
  | .copyJobComplete cluster idx units => Sys2Proof.Machine.execCopyJobComplete cluster idx units s
  | .copyJobFaultEnd cluster idx => Sys2Proof.Machine.execCopyJobFaultEnd cluster idx s
  | .barrierReturn pid => Sys2Proof.Machine.execBarrierReturn pid s
  | .homeSliceServe pid req => Sys2Proof.Machine.execHomeSliceServe pid req s
  | .clusterAtomicServe pid req => Sys2Proof.Machine.execClusterAtomicServe pid req s
  | .fullEmptyWake pid op => Sys2Proof.Machine.execFullEmptyWake pid op s
  | .tileReadyResume pid st => Sys2Proof.Machine.execTileReadyResume pid st s
  | .gangMeet pid => Sys2Proof.Machine.execGangMeet pid s
  | .dsyncComplete pid => Sys2Proof.Machine.execDsyncComplete pid s
  | .remoteDsyncArrival ctx device => Sys2Proof.Machine.execRemoteDsyncArrival ctx device s
  | .gsyncComplete pid => Sys2Proof.Machine.execGsyncComplete pid s
  | .waitpReturn pid => Sys2Proof.Machine.execWaitpReturn pid s
  | .partReset v => Sys2Proof.Machine.execPartReset v s
  | .purgeComplete n => Sys2Proof.Machine.execPurgeComplete n s
  | .rectReturnToService n => Sys2Proof.Machine.execRectReturnToService n s
  | .iftPeriodic cluster => Sys2Proof.Machine.execIftPeriodic cluster s
  | .iftNow v => Sys2Proof.Machine.execIftNow v s
  | .iftTestComplete cluster pass => Sys2Proof.Machine.execIftTestComplete cluster pass s
  | .mailboxResponse r => Sys2Proof.Machine.execMailboxResponse r s
  | .powerGood b => Sys2Proof.Machine.execPowerGood b s
  | .remoteDomainAccess acc => Sys2Proof.Machine.execRemoteDomainAccess acc s
  | .registerWrite offset size v => Sys2Proof.Machine.execRegisterWrite offset size v s
  | .deviceReset b => Sys2Proof.Machine.execDeviceReset b s
  | .atomicPromote pid req => Sys2Proof.Machine.execAtomicPromote pid req s
  | .hostLinkDown port => Sys2Proof.Machine.execHostLinkDown port s
  | .powerThrottle watts mhz => Sys2Proof.Machine.execPowerThrottle watts mhz s
  | .netPacketPromote pid req => Sys2Proof.Machine.execNetPacketPromote pid req s
  | .replayDiverge ctx => Sys2Proof.Machine.execReplayDiverge ctx s
  | .hostCxlMemAccess pa data => Sys2Proof.Machine.execHostCxlMemAccess pa data s
  | .hostCoherenceRequest pa use => Sys2Proof.Machine.execHostCoherenceRequest pa use s
  | .ngucyLinkDown link => Sys2Proof.Machine.execNgucyLinkDown link s
  | .flitCrcFailure link => Sys2Proof.Machine.execFlitCrcFailure link s
  | .ret => Sys2Proof.Machine.execRet s
  | .tret => Sys2Proof.Machine.execTret s
  | .exit => Sys2Proof.Machine.execExit s
  | .nop => Sys2Proof.Machine.execNop s
  | .waitp => Sys2Proof.Machine.execWaitp s
  | .trig => Sys2Proof.Machine.execTrig s
  | .lvtake => Sys2Proof.Machine.execLvtake s
  | .lvret => Sys2Proof.Machine.execLvret s
  | .lvcommit => Sys2Proof.Machine.execLvcommit s
  | .hret => Sys2Proof.Machine.execHret s
  | .lvRecordApply => Sys2Proof.Machine.execLvRecordApply s
  | .replayAll => Sys2Proof.Machine.execReplayAll s
  | .ttInvalDone => Sys2Proof.Machine.execTtInvalDone s
  | .getTest => Sys2Proof.Machine.execGetTest s
  | .setConfig => Sys2Proof.Machine.execSetConfig s
  | .attest => Sys2Proof.Machine.execAttest s
  | .getFailrec => Sys2Proof.Machine.execGetFailrec s
  | .fwUpdate => Sys2Proof.Machine.execFwUpdate s
  | .thermalTrip => Sys2Proof.Machine.execThermalTrip s

end Sys2Proof.Machine
end

