-- ==== Sys2Proof/Machine/Turns.lean ====
section
/-! DEFINITION. Whose turn it is: what one step takes up, and an instruction placed where the next step fetches it.
The agenda of the state says which stream issues or which event happens next (log entry 2). -/

namespace Sys2Proof.Machine

/-! ### Moves of the environment that have no row -/

/-- A TLB caches the valid entry that translates an address for the task on a core (R158). -/
def State.cacheEntry (s : State) (pid : Nat) (va : Word) : State :=
  let k := s.coreAt pid
  let w := k.who false
  let a := va.toNat % 2 ^ 56
  if k.task.isNone || (s.tlbHit pid w.ctx a).isSome then s
  else
    match s.leafFor w a with
    | .leaf level e => s.updCore pid (fun k => { k with tlb := ⟨w.ctx, regionBase level a, level, .ofNat 64 e⟩ :: k.tlb })
    | _ => s

/-- A unit under its one name: the f and v registers belong to no stream, an m register is a tile (R10, R336). -/
def PoisonUnit.named (u : PoisonUnit) : PoisonUnit :=
  match u with
  | .reg pid _ (.f n) => .reg pid .c (.f n)
  | .reg pid _ (.v n) => .reg pid .c (.v n)
  | .reg pid _ (.m n) => .tile pid n
  | u => u

/-- A unit is poisoned by an uncorrectable error (R336, R337); g0 holds nothing (R94). -/
def State.poisonUnit (s : State) (unit : PoisonUnit) : State :=
  let u := unit.named
  let held := match u with
    | .reg _ _ (.g 0) => false
    | _ => true
  s.updDev (fun d =>
    { d with
      errPoison := d.errPoison + 1, errLast := u.address
      poison := if d.poison.contains u || !held then d.poison else u :: d.poison })

/-- An executor lies outside the containment rectangle of a core, or is a home slice of memory: a packet to it passes boundary routers (R358). -/
def State.beyond (s : State) (pid : Nat) (e : Executor) (cs : List Chunk) : Bool :=
  let away := fun (cluster : Nat) => match s.rectOf (pid / 8) with
    | some n => !(s.dev.rects[n]?.getD (ContRect.reset 1)).holds cluster
    | none => false
  match e, cs with
  | .engine c, _ => away c
  | .direct, .spad p _ _ :: _ => away (p / 8)
  | .direct, .win p _ _ :: _ => away (p / 8)
  | _, _ => true

/-- The packet of a request passes the boundary routers of its core's rectangle (R358): the request is on its way, no older access of its stream
holds it back, and it has somewhere to go. -/
def State.passPacket (s : State) (pid : Nat) (req : ReqRef) : State :=
  s.onAsk pid req (fun a s1 =>
    match s1.askAt a with
    | .ok cs =>
      if a.ready && !s1.askBlocked a && s1.beyond pid (s1.executorNow pid a.sc a.kind cs) cs then
        match req with
        | .pending i => s1.updThis (fun k => { k with pending := modifyAt (fun r => { r with past := true }) i k.pending })
        | .op _ => s1.updThis (fun k => k.setOp .a a.id (fun o => { o with past := true }))
      else s1
    | _ => s1)

/-- A packet that outlived its rectangle reaches where it goes (R358); one that is refused there has no task left to trap. -/
def State.deliverPacket (s : State) (idx : Nat) : State :=
  match s.dev.packets[idx]? with
  | none => s
  | some (pid, r) =>
    let s1 := s.updDev (fun d => { d with packets := dropAt idx d.packets })
    let k := Core.init pid
    match s1.locate (r.who k) (if r.kind.isAtomic then .atomic else .store) r.addr r.kind.len with
    | .ok cs =>
      let s2 := s1.recall none cs
      match s2.doRequest k r with
      | .ok s3 _ => s3
      | .refused 0x07 => s2.tried
      | _ => s2
    | .deny => s1.tried
    | _ => s1

/-! ### What a step takes up -/

/-- What is left to do once a turn has been chosen. -/
inductive Todo where
  /-- An instruction issues, or an event of the table happens. -/
  | run (i : Instr) (s : State)
  /-- The step is done. -/
  | rest (s : State)

/-- What a fetch of a halfword leaves beside its bytes: lines recalled, a resident page held, an ownership taken (R152, R153, R199). -/
def State.fetchReach (s : State) (pc : Word) : State :=
  match s.locate s.who .fetch pc 2 with
  | .ok cs => (s.recall (some s.core.cluster) cs).touch s.who.ctx false cs
  | _ => s

/-- The machine as the fetch at the program counter of the issuing stream leaves it, when the stream may issue. -/
def State.toFetch (s : State) : State :=
  if !s.canIssue then s
  else
    let s1 := s.fetchReach s.cur.pc
    match s1.fetchHalf s1.cur.pc with
    | .ok lo => if bytesNat lo % 2 = 1 then s1.fetchReach (s1.cur.pc + 2) else s1
    | .error _ => s1

/-- The issuing stream fetches, and what it has fetched is to be done. -/
def State.fetched (before : State) : Todo :=
  let s := before.toFetch
  match s.fetch with
  | .instr i => .run i s
  | .reject w => .run (.illegalInstruction w) s
  | .trap 0x07 va => .run (.fetchProtectionFault va) s
  | .trap c v => .rest (s.fetchTrap c v)
  | .fault l b va => .rest (s.fetchPark l b va)

/-- The event comes from the device or from outside: it is no instruction, and no part of one. -/
def outside (e : Instr) : Bool :=
  e.bits == 0 && (match e with
    | .lvRecordStage _ => false
    | .lvRecordApply => false
    | .illegalInstruction _ => false
    | .fetchProtectionFault _ => false
    | _ => true)

/-- One turn of the agenda. -/
def State.take (s : State) (t : Turn) : Todo :=
  match t with
  | .stream pid x => ((s.select pid).onStream x).fetched
  | .event e => if outside e then .run e s else .rest s
  | .tick n => .rest (s.updDev (fun d => { d with cycle := d.cycle + .ofNat 64 n }))
  | .cache pid va => .rest (s.cacheEntry pid va)
  | .evict pid idx => .rest (s.updCore pid (fun k => { k with tlb := dropAt idx k.tlb }))
  | .corrected => .rest (s.updDev (fun d => { d with errCe := d.errCe + 1 }))
  | .poison u => .rest (s.poisonUnit u)
  | .dropped pa => .rest (s.updDev (fun d => { d with errDrop := d.errDrop + 1, errLast := .ofNat 64 pa }))
  | .peer device up => .rest (s.updDev (fun d => { d with
      peers := if up then insertNat device d.peers else d.peers.filter (fun x => x != device) }))
  | .refusal pasid on => .rest (s.updDev (fun d => { d with
      refused := if on then pasid :: d.refused.filter (fun x => x != pasid) else d.refused.filter (fun x => x != pasid) }))
  | .passes pid req => .rest (s.passPacket pid req)
  | .deliver idx => .rest (s.deliverPacket idx)

/-! ### With nothing on the agenda (log entry 2) -/

/-- The first incomplete instruction of a stream that can go on by itself. -/
def State.nextMove (s : State) (x : StreamId) : Option Nat :=
  (s.core.str x).flight.findIdx? (fun op => ((s.core.selfMoves op || s.fastBad s.core op) && s.goesOn s.core x op) || s.syncReady op)

/-- The first request of the core that can be served or acknowledged. -/
def State.nextRequest (s : State) : Option Nat :=
  (s.core.pending.zipIdx.findIdx? (fun x => x.1.served || (!x.1.parked && !s.askBlocked (s.core.askOf x.1 x.2))))

/-- The event that serves a request of the core (R199). -/
def State.serveEvent (s : State) (i : Nat) : Instr :=
  match s.core.pending[i]? with
  | some r =>
    if r.served || !r.kind.isAtomic then .storeAck s.core.pid i
    else
      match s.askAt (s.core.askOf r i) with
      | .ok cs =>
        (match executor s.core.pid r.sc r.kind cs with
        | .engine _ => .clusterAtomicServe s.core.pid (.pending i)
        | _ => .homeSliceServe s.core.pid (.pending i))
      | _ => .homeSliceServe s.core.pid (.pending i)
  | none => .storeAck s.core.pid i

/-- A stream that may issue, or at its gang meets what is due there. -/
def State.mayIssue (s : State) (x : StreamId) : Bool := (s.onStream x).canIssue

/-- The turn that the machine takes by itself, on the core whose turn it is: what has issued goes on first, oldest kind first,
then the streams issue in turn. -/
def State.ownTurn (s : State) : Option Turn :=
  let k := s.core
  let x := k.sel.other
  if !s.dev.packets.isEmpty then some (.deliver 0)
  else
  match s.nextRequest, s.nextMove .a, s.nextMove .c with
  | some i, _, _ => some (.event (s.serveEvent i))
  | none, some i, _ => some (.event (.longOpComplete k.pid .a i 16))
  | none, none, some i => some (.event (.longOpComplete k.pid .c i 16))
  | none, none, none =>
    if (k.brings.map (fun op => s.gangStands k op != .wait)).getD false then some (.event (.gangMeet k.pid))
    else if k.queueBlocked .a && k.queueBlocked .c && k.task.isSome then some (.event (.streamDeadlock k.pid))
    else if s.mayIssue x then some (.stream k.pid x)
    else if s.mayIssue k.sel then some (.stream k.pid k.sel)
    else none

/-- What the next step does: the head of the agenda, else the machine's own turn, else nothing. -/
def State.turnNow (s : State) : Todo :=
  match s.agenda with
  | t :: rest => { s with agenda := rest }.take t
  | [] =>
    match s.ownTurn with
    | some t => s.take t
    | none => .rest s

/-! ### An instruction placed where the next step fetches it (log entry 3) -/

/-- The stream that issues the instruction (R106, R107). -/
def streamFor (w : Nat) : StreamId :=
  if w % 2 = 0 ∨ 28 ≤ w / 2 % 64 then .c
  else
    match decode (wordBytes w) with
    | .ok .lvtake _ => .c
    | _ => .a

/-- A kernel of which every register is in use. -/
def probeKernel : Kernel :=
  { noReplay := false, noPre := false, aEntry := 0x1000, cEntry := 0x1000, nga := 32, ngc := 32, nf := 32, nv := 24, nm := 0,
    spBytes := 0, spMap := [], saveMap := [], safeTab := [], tensors := [], statArea := 0 }

/-- The task that runs the placed instruction: one of context 1. -/
def probeTask : Task :=
  { ctx := 1, queue := 0, seq := 0, kind := .team, lid := 0, size := 1, clIndex := 0, kernel := probeKernel, wcounts := [],
    triggered := false, committed := false, level := 0, step := 0, topoDue := false, movedDue := none, nextJob := 0,
    since := 0, trapAt := 0, left := false }

/-- A stream that stands at the placed instruction, with nothing behind it. -/
def Stream.ready (st : Stream) : Stream :=
  { st with
    pc := 0x1000, mode := .user, exited := false, stopped := none, wait := none, waitFrom := 0, wins := [], flight := [], fence := [],
    interp := false, drain := none, arrived := none, dsynced := none, gsynced := false, taken := none, stopDue := false, seen := 0,
    named := none, rewait := false, asking := none, aside := ⟨none, none, false⟩ }

/-- The placed instruction's core: a task runs, one stream stands at the instruction and the other has exited. -/
def Core.ready (k : Core) (x : StreamId) : Core :=
  let k1 := (k.updStr x Stream.ready).updStr x.other (fun st => { Stream.ready st with exited := true })
  { k1 with task := some probeTask, sel := x, handler := none, handlerOn := false, pending := [], deferred := [], tlb := [] }

/-- Translation tables of context 1 and the instruction's bytes in pooled memory: virtual 0 to 2 MiB lies at 0x200000. -/
def probeMemory (m : Memory) (w : Nat) : Memory :=
  let put := fun (m : Memory) (a v : Nat) => Memory.write m a (natBytes v 8)
  let tables := put (put (put (put m 0x1000 0x2001) 0x2000 0x3001) 0x3000 0x4001) 0x4000 0x2000BF
  Memory.write tables 0x201000 (natBytes w 4)

/-- The machine with an instruction placed at the program counter of the stream that issues it. -/
def State.placeWord (s : State) (w : Nat) : State :=
  let s1 := s.updCtx 1 (fun c => { c with en := true, ttRoot := 0x1000 })
  { s1 with core := s1.core.ready (streamFor w), pool := probeMemory s1.pool w, agenda := [] }

end Sys2Proof.Machine
end

