-- ==== Sys2Proof/Machine/Step.lean ====
section
/-! DEFINITION. One step of the machine, and placing an instruction where a step fetches it. -/

namespace Sys2Proof.Machine

/-- Does what a turn has left to do. -/
def Todo.go (t : Todo) : Host.Outcome State Fault Refusal :=
  match t with
  | .run i s => exec i s
  | .rest s => .next s

/-- One step: the turn that is due (log entry 2). -/
def step (s : State) : Host.Outcome State Fault Refusal := s.turnNow.go

/-- The machine with an instruction placed where the next step fetches it (log entry 3). -/
def State.withFetchWord (s : State) (nbits w : Nat) : State := s.placeWord (w % 2 ^ nbits)

end Sys2Proof.Machine
end

