-- ==== Sys2Proof/Safety.lean ====
section
/-! DEFINITION. What counts as a safe run, and the state in which nothing holds a stream's next instruction back. -/

namespace Sys2Proof.Safety

open Sys2Proof.Machine

/-- The step answers a next state: no fault and no refusal. -/
def StepsOn (s : State) : Prop := ∃ t, step s = .next t

/-- A property that every step from every state keeps. -/
def Kept (p : State → Prop) : Prop := ∀ s t, p s → step s = .next t → p t

/-- Nothing holds the issuing stream's next instruction back: the stream can issue (R89, R309, R310), no trap is due before its next instruction
(R55, R363, R364), no window is open (R87), nothing it issued is incomplete (R87), no fence orders it (R266), and no unit is poisoned (R336). -/
def Ready (s : State) : Prop :=
  s.canIssue = true ∧ s.dueTrap.isNone = true ∧ s.cur.wins = [] ∧ s.cur.flight = [] ∧ s.cur.fence = [] ∧ s.dev.poison = []

/-- The A-stream is the issuing stream, and `Ready`. -/
def ReadyA (s : State) : Prop := s.core.sel = .a ∧ Ready s

/-- The C-stream is the issuing stream, and `Ready`. -/
def ReadyC (s : State) : Prop := s.core.sel = .c ∧ Ready s

/-- Pooled and host memory in canonical form: addresses strictly rising, no entry equal to what an unlisted address reads as. -/
def MemoryCanonical (s : State) : Prop := Memory.wf s.pool = true ∧ Memory.wf s.host = true

end Sys2Proof.Safety
end

