-- ==== Sys2Proof/Certificates/Slice0/Obligations.lean ====
section
/-! DEFINITION. The statements about the model, each from rules of the spec. `Sys2Proof.Spec` holds the spec's tables that they compare the
machine with. A completion statement says which next state an instruction answers when nothing holds it back (`Ready`). -/

open Sys2Proof Sys2Proof.Machine Sys2Proof.Safety

/-! ### Scalar instructions (spec/07_scalar_instructions.md) -/

namespace Sys2Proof.Spec

/-- R126, R129, R130, R131 and R139: destination and value of the short instructions that write one g register. Bits are counted as the
rules count them. -/
def scalarResult (s : State) : Instr → Option (BitVec 5 × Word)
  | .add d a b => some (d, w64 ((s.g a).toInt + (s.g b).toInt))
  | .sub d a b => some (d, w64 ((s.g a).toInt - (s.g b).toInt))
  | .and d a b => some (d, s.g a &&& s.g b)
  | .or d a b => some (d, s.g a ||| s.g b)
  | .xor d a b => some (d, s.g a ^^^ s.g b)
  | .shl d a b => some (d, w64 ((s.g a).toNat * 2 ^ ((s.g b).toNat % 64) : Nat))
  | .shr d a b => some (d, w64 ((s.g a).toNat / 2 ^ ((s.g b).toNat % 64) : Nat))
  | .sar d a b => some (d, w64 ((s.g a).toInt / 2 ^ ((s.g b).toNat % 64)))
  | .slt d a b => some (d, if (s.g a).toInt < (s.g b).toInt then 1 else 0)
  | .sltu d a b => some (d, if (s.g a).toNat < (s.g b).toNat then 1 else 0)
  | .min d a b => some (d, if (s.g a).toInt ≤ (s.g b).toInt then s.g a else s.g b)
  | .max d a b => some (d, if (s.g a).toInt ≥ (s.g b).toInt then s.g a else s.g b)
  | .clz d a => some (d, .ofNat 64 (((List.range 64).find? (fun k => (s.g a).getLsbD (63 - k))).getD 64))
  | .ctz d a => some (d, .ofNat 64 (((List.range 64).find? (fun k => (s.g a).getLsbD k)).getD 64))
  | .popc d a => some (d, .ofNat 64 ((List.range 64).filter (fun k => (s.g a).getLsbD k)).length)
  | .addi d a imm => some (d, w64 ((s.g a).toInt + imm.toInt))
  | .andi d a imm => some (d, s.g a &&& w64 imm.toInt)
  | .ori d a imm => some (d, s.g a ||| w64 imm.toInt)
  | .xori d a imm => some (d, s.g a ^^^ w64 imm.toInt)
  | .shli d a c => some (d, w64 ((s.g a).toNat * 2 ^ c.toNat : Nat))
  | .shri d a c => some (d, w64 ((s.g a).toNat / 2 ^ c.toNat : Nat))
  | .sari d a c => some (d, w64 ((s.g a).toInt / 2 ^ c.toNat))
  | .slti d a imm => some (d, if (s.g a).toInt < imm.toInt then 1 else 0)
  | .sltiu d a imm => some (d, if (s.g a).toNat < (w64 imm.toInt).toNat then 1 else 0)
  | .lui d imm => some (d, w64 (imm.toInt * 4096))
  | .adpc d imm => some (d, w64 ((s.cur.pc.toNat : Int) + imm.toInt * 4096))
  | _ => none

/-- R126 and R128: destination, lookahead and value of the long-latency integer instructions that never trap. -/
def longResult (s : State) : Instr → Option (BitVec 5 × Word)
  | .mul d a b _ => some (d, w64 ((s.g a).toInt * (s.g b).toInt))
  | .mulh d a b _ => some (d, w64 ((s.g a).toInt * (s.g b).toInt / 2 ^ 64))
  | .gcd d a b _ => some (d, .ofNat 64 (Nat.gcd (s.g a).toNat (s.g b).toNat))
  | _ => none

/-- R127: destination, dividend, divisor and value of the division functions. -/
def divResult (s : State) : Instr → Option (BitVec 5 × Word × Word × Word)
  | .div d a b _ => some (d, s.g a, s.g b, w64 ((s.g a).toInt.tdiv (s.g b).toInt))
  | .divu d a b _ => some (d, s.g a, s.g b, w64 ((s.g a).toNat / (s.g b).toNat : Nat))
  | .rem d a b _ => some (d, s.g a, s.g b, w64 ((s.g a).toInt - (s.g b).toInt * (s.g a).toInt.tdiv (s.g b).toInt))
  | .remu d a b _ => some (d, s.g a, s.g b,
      w64 ((s.g a).toNat - (s.g b).toNat * ((s.g a).toNat / (s.g b).toNat) : Int))
  | _ => none

/-- R110 and R132: the conditions of a branch. -/
def branchHolds (c : BitVec 3) (x y : Word) : Prop :=
  (c = 0 ∧ x = y) ∨ (c = 1 ∧ x ≠ y) ∨ (c = 2 ∧ x.toInt < y.toInt) ∨ (c = 3 ∧ x.toInt ≥ y.toInt)
    ∨ (c = 4 ∧ x.toNat < y.toNat) ∨ (c = 5 ∧ x.toNat ≥ y.toNat)

/-- The base, the shift of the index, the limit of the index and the limit of the offset of an aperture kind (R138, R139). -/
def apertureRow : Nat → Option (Nat × Nat × Nat × Nat)
  | 1 => some (0, 0, 1, 2 ^ 56)
  | 2 => some (0xFFE0000000000000, 40, 2 ^ 10, 2 ^ 40)
  | 3 => some (0xFFF0000000000000, 0, 1, 0x60000)
  | 4 => some (0xFFF1000000000000, 20, 2 ^ 3, 0x60000)
  | 5 => some (0xFFF2000000000000, 20, 2 ^ 11, 0x60000)
  | 6 => some (0xFFF8000000000000, 24, 2 ^ 11, 2 ^ 24)
  | _ => none

/-- An address has a kind, an index and an offset (R138). -/
def hasKind (x : Word) (k ix off : Nat) : Prop :=
  ∃ base shift ixEnd offEnd, apertureRow k = some (base, shift, ixEnd, offEnd)
    ∧ ix < ixEnd ∧ off < offEnd ∧ x.toNat = base + ix * 2 ^ shift + off

/-- A handler's first instruction is about to issue (R89). -/
def handlerStarts (s : State) : Bool := s.cur.mode == .sup && !s.core.handlerOn

/-- No access of the core stands parked on a missing page. -/
def noneParked (s : State) : Prop :=
  (∀ r ∈ s.core.pending, r.parked = false) ∧ ∀ op ∈ s.core.a.flight ++ s.core.c.flight, ∀ va, op.status ≠ .parked va

/-- TRAP.SAVE once the instruction that issues now has issued (R310). -/
def trapSave (s : State) : Word :=
  if handlerStarts s then (s.core.str s.core.sel.other).resumePc else s.core.sys.trapSave

/-- The resume address and the issue point kept for the other stream, then (R310, R314). -/
def otherResume (s : State) : Word × Word :=
  let o := s.core.str s.core.sel.other
  if handlerStarts s then (o.resumePc, o.pc) else o.resume

end Sys2Proof.Spec

/-- What stands past an instruction and before its own effect: the issuing stream's program counter has moved by the instruction's length (R132),
CNT.ISSA or CNT.ISSC has counted it (R326), and no register, queue, tile, memory or other state has changed. R89, R310: the first instruction of a
handler finds the other stream stopped, and TRAP.SAVE then holds the address at which it stands, shown where no access stands parked. -/
def Obligations.InstructionAdvancesStream : Prop :=
  ∀ (i : Instr) (s : State),
    (s.issued i).cur.pc = s.cur.pc + .ofNat 64 (i.bits / 8)
    ∧ (s.issued i).cur.g = s.cur.g
    ∧ (Spec.handlerStarts s = false → (s.issued i).core.str s.core.sel.other = s.core.str s.core.sel.other)
    ∧ (s.issued i).core.str s.core.sel.other = { s.core.str s.core.sel.other with
        resume := ((s.issued i).core.str s.core.sel.other).resume, named := ((s.issued i).core.str s.core.sel.other).named }
    ∧ ((Spec.handlerStarts s = true → Spec.noneParked s) →
        ((s.issued i).core.str s.core.sel.other).resume = Spec.otherResume s
        ∧ (s.issued i).core.sys.trapSave = Spec.trapSave s)
    ∧ (s.core.sel = .a → (s.issued i).core.sys
        = { s.core.sys with cntIssA := s.core.sys.cntIssA + 1, trapSave := (s.issued i).core.sys.trapSave })
    ∧ (s.core.sel = .c → (s.issued i).core.sys
        = { s.core.sys with cntIssC := s.core.sys.cntIssC + 1, trapSave := (s.issued i).core.sys.trapSave })
    ∧ (s.issued i).core.f = s.core.f ∧ (s.issued i).core.v = s.core.v ∧ (s.issued i).core.tiles = s.core.tiles
    ∧ (s.issued i).core.aot = s.core.aot ∧ (s.issued i).core.queues = s.core.queues ∧ (s.issued i).core.spad = s.core.spad
    ∧ (s.issued i).core.full = s.core.full ∧ (s.issued i).core.tileTab = s.core.tileTab
    ∧ (s.issued i).core.shadows = s.core.shadows ∧ (s.issued i).core.task = s.core.task
    ∧ (s.issued i).cores = s.cores ∧ (s.issued i).clusters = s.clusters ∧ (s.issued i).contexts = s.contexts
    ∧ (s.issued i).pool = s.pool ∧ (s.issued i).host = s.host ∧ (s.issued i).dev = s.dev

/-- R126, R129, R130, R131: the short integer and immediate instructions write the value of their rule into gd, and nothing else happens
beyond the advance of the stream; a write to g0 is discarded (R125). -/
def Obligations.ScalarResultsComplete : Prop :=
  ∀ (i : Instr) (s : State) (d : BitVec 5) (v : Word), Ready s → Spec.scalarResult s i = some (d, v) →
    exec i s = .next ((s.issued i).setG d v)

/-- R126, R128: mul, mulh and gcd issue, reading their sources; their LONG_OP_COMPLETE then writes the value of their rule into gd, whatever the source
registers hold by then (R125), and takes them from the incomplete instructions. R127: with a divisor other than zero, div, divu, rem and remu
complete with the quotient or remainder that R127 computes. R127: a zero divisor traps with cause 0x0F and the dividend in TRAP.VAL, at the
instruction, with gd unchanged. That the value is delivered by a later event, and until then gd keeps its old value, is the model's reading (log entry
13, DEDUCED). -/
def Obligations.LongIntegersComplete : Prop :=
  (∀ (i : Instr) (s : State) (d : BitVec 5) (v : Word), Ready s → Spec.longResult s i = some (d, v) →
     ∃ t u, exec i s = .next t ∧ t.cur.flight ≠ [] ∧ t.cur.g = s.cur.g
       ∧ exec (.longOpComplete s.core.pid s.core.sel 0 1) t = .next u ∧ u.cur.flight = [] ∧ u.cur.g = (t.cur.setG d.toNat v).g)
  ∧ ((∀ (i : Instr) (s : State) (d : BitVec 5) (x y v : Word), Ready s → Spec.divResult s i = some (d, x, y, v) → y ≠ 0 →
        ∃ t u, exec i s = .next t ∧ t.cur.flight ≠ [] ∧ t.cur.g = s.cur.g
          ∧ exec (.longOpComplete s.core.pid s.core.sel 0 1) t = .next u ∧ u.cur.flight = [] ∧ u.cur.g = (t.cur.setG d.toNat v).g)
     ∧ (∀ (i : Instr) (s : State) (d : BitVec 5) (x y v : Word), Ready s → s.cur.mode = .user → Spec.divResult s i = some (d, x, y, v) →
          y = 0 →
          ∃ t, exec i s = .next t ∧ t.core.sys.trapCause = 0x0F ∧ t.core.sys.trapVal = x ∧ t.core.sys.trapPc = s.cur.pc
            ∧ t.cur.pc = s.core.sys.trapVec ∧ t.cur.mode = .sup ∧ t.cur.g = s.cur.g))

/-- R132, R133: a branch whose condition holds goes to PC + 2·off and any other to PC + 4; b and call go to PC + 2·off, and call writes PC + 4 into g31
first. R134: jr, callr and ret go to an even target, callr reading its source before it writes the link; an odd target traps with cause 0x05,
TRAP.VAL holding it, with neither the program counter that TRAP.PC keeps nor g31 changed. -/
def Obligations.BranchesAndJumpsComplete : Prop :=
  (∀ (s : State), Ready s →
     (∀ a b off c, c.toNat < 6 → (Spec.branchHolds c (s.g a) (s.g b) →
         exec (.bcc a b off c) s = .next ((s.issued (.bcc a b off c)).setPc (w64 (s.cur.pc.toInt + 2 * off.toInt))))
       ∧ (¬ Spec.branchHolds c (s.g a) (s.g b) →
         ∃ t, exec (.bcc a b off c) s = .next t ∧ t = s.issued (.bcc a b off c) ∧ t.cur.pc = s.cur.pc + 4))
     ∧ (∀ off, exec (.br off) s = .next ((s.issued (.br off)).setPc (w64 (s.cur.pc.toInt + 2 * off.toInt))))
     ∧ (∀ off, exec (.call off) s = .next
         (((s.issued (.call off)).setG 31 (s.cur.pc + 4)).setPc (w64 (s.cur.pc.toInt + 2 * off.toInt)))))
  ∧ (∀ (s : State), Ready s →
       (∀ a, (s.g a).toNat % 2 = 0 → exec (.jr a) s = .next ((s.issued (.jr a)).setPc (s.g a)))
       ∧ (∀ a, (s.g a).toNat % 2 = 0 →
           exec (.callr a) s = .next (((s.issued (.callr a)).setG 31 (s.cur.pc + 4)).setPc (s.g a)))
       ∧ ((s.g 31).toNat % 2 = 0 → exec .ret s = .next ((s.issued .ret).setPc (s.g 31)))
       ∧ (s.cur.mode = .user → ∀ (i : Instr) (x : Word), ((∃ a, (i = .jr a ∨ i = .callr a) ∧ x = s.g a) ∨ (i = .ret ∧ x = s.g 31)) →
           x.toNat % 2 = 1 →
           ∃ t, exec i s = .next t ∧ t.core.sys.trapCause = 0x05 ∧ t.core.sys.trapVal = x ∧ t.core.sys.trapPc = s.cur.pc
             ∧ t.cur.g = s.cur.g))

/-- R136, R137: qput pushes one raw entry whose low 64 bits are gs1, where the queue has room; qget pops the oldest entry
and writes its low 64 bits into gd. R92: an entry that is not yet filled leaves its queue all the same, gd being written once its data has come; until
then what names gd waits. Without an entry, or without room, each waits with no effect. -/
def Obligations.QueueScalarsComplete : Prop :=
  ∀ (s : State), ReadyA s →
    (∀ (q a : BitVec 5), q.toNat ≤ 3 → (s.isUpdate = true → q.toNat ≠ 3) → (s.core.getQueue q.toNat).length < 16 →
      ∃ t e, exec (.qput q a) s = .next t ∧ t.core.getQueue q.toNat = s.core.getQueue q.toNat ++ [e]
        ∧ e.filled = true ∧ e.bits = (s.g a).zeroExtend 512 ∧ e.fmt = 0)
    ∧ (∀ (q a : BitVec 5), q.toNat ≤ 3 → (s.isUpdate = true → q.toNat ≠ 3) → 16 ≤ (s.core.getQueue q.toNat).length →
      exec (.qput q a) s = .next (s.waitAt (.push q.toNat)))
    ∧ (∀ (q d : BitVec 5) (e : QEntry) (rest : List QEntry), 4 ≤ q.toNat → q.toNat ≤ 7 → s.core.getQueue q.toNat = e :: rest →
      ∃ t, exec (.qget q d) s = .next t ∧ t.core.getQueue q.toNat = rest
        ∧ (e.filled = true → t.cur.g = (s.cur.setG d.toNat (e.bits.truncate 64)).g)
        ∧ (e.filled = false → t.cur.g = s.cur.g ∧ t.cur.flight.any (fun op => op.dests.contains (.g d.toNat)) = decide (d ≠ 0)
          ∧ ∀ bits, ∃ u, exec (.longOpComplete s.core.pid .a 0 1) { t with core := t.core.fillEntry e.id bits } = .next u
              ∧ u.cur.flight = [] ∧ u.cur.g = (s.cur.setG d.toNat (bits.truncate 64)).g))
    ∧ (∀ (q d : BitVec 5), 4 ≤ q.toNat → q.toNat ≤ 7 → s.core.getQueue q.toNat = [] →
      exec (.qget q d) s = .next (s.waitAt (.pop q.toNat 1)))

/-- R138, R139: gtol gives the offset and inap the descriptor of an address that has a kind, inap gives 0 for any other; ltog builds the address of a
descriptor and an offset within their limits, so that it gives back the address of what gtol and inap answered, and teama the team address of a
logical id and an offset. On the C-stream each is illegal (0x01). R138, R139: the address instructions trap
with cause 0x06: gtol and TRAP.VAL the address when it has no kind; ltog and TRAP.VAL the descriptor or the offset that is out of range; teama in an
update task, or with a logical id at or above TEAM.SIZE, or an offset at or above 0x6_0000. -/
def Obligations.AddressInstructionsComplete : Prop :=
  (∀ (s : State), ReadyA s →
     (∀ d a k ix off, Spec.hasKind (s.g a) k ix off →
       exec (.gtol d a) s = .next ((s.issued (.gtol d a)).setG d (.ofNat 64 off))
       ∧ exec (.inap d a) s = .next ((s.issued (.inap d a)).setG d (.ofNat 64 (k + ix * 2 ^ 16))))
     ∧ (∀ d a, (∀ k ix off, ¬ Spec.hasKind (s.g a) k ix off) →
       exec (.inap d a) s = .next ((s.issued (.inap d a)).setG d 0))
     ∧ (∀ d a b k ix x, Spec.hasKind x k ix (s.g a).toNat → (k = 5 → ix < s.taskSize) → (s.g b).toNat = k + ix * 2 ^ 16 →
       exec (.ltog d a b) s = .next ((s.issued (.ltog d a b)).setG d x))
     ∧ (∀ d a b, s.isUpdate = false → (s.g a).toNat < s.taskSize → (s.g b).toNat < 0x60000 →
       exec (.teama d a b) s = .next ((s.issued (.teama d a b)).setG d
         (.ofNat 64 (0xFFF2000000000000 + (s.g a).toNat * 2 ^ 20 + (s.g b).toNat)))))
  ∧ (∀ (s : State), ReadyA s → s.cur.mode = .user →
       (∀ (i : Instr) (v : Word),
         ((∃ d a, i = .gtol d a ∧ v = s.g a ∧ ∀ k ix off, ¬ Spec.hasKind (s.g a) k ix off)
           ∨ (∃ d a b, i = .ltog d a b ∧ v = s.g b
             ∧ ∀ k ix base shift ixEnd offEnd, Spec.apertureRow k = some (base, shift, ixEnd, offEnd) → ix < ixEnd →
                 (k = 5 → ix < s.taskSize) → (s.g b).toNat ≠ k + ix * 2 ^ 16)
           ∨ (∃ d a b k ix base shift ixEnd offEnd, i = .ltog d a b ∧ v = s.g a
             ∧ Spec.apertureRow k = some (base, shift, ixEnd, offEnd) ∧ ix < ixEnd ∧ (k = 5 → ix < s.taskSize)
             ∧ (s.g b).toNat = k + ix * 2 ^ 16 ∧ offEnd ≤ (s.g a).toNat)
           ∨ (∃ d a b, i = .teama d a b ∧ v = s.g a ∧ (s.isUpdate = true ∨ s.taskSize ≤ (s.g a).toNat))
           ∨ (∃ d a b, i = .teama d a b ∧ v = s.g b ∧ s.isUpdate = false ∧ (s.g a).toNat < s.taskSize ∧ 0x60000 ≤ (s.g b).toNat)) →
         ∃ t, exec i s = .next t ∧ t.core.sys.trapCause = 0x06 ∧ t.core.sys.trapVal = v ∧ t.core.sys.trapPc = s.cur.pc
           ∧ t.cur.g = s.cur.g))
  ∧ (∀ (s : State) (i : Instr), ReadyC s → s.cur.mode = .user →
       (∃ d a b, i = .gtol d a ∨ i = .inap d a ∨ i = .ltog d a b ∨ i = .teama d a b) →
       ∃ t, exec i s = .next t ∧ t.core.sys.trapCause = 0x01 ∧ t.core.sys.trapVal = (encode i).zeroExtend 64 ∧ t.core.sys.trapPc = s.cur.pc
         ∧ t.cur.g = s.cur.g)

/-! ### Issue, traps and returns (spec/05_fetch_and_issue.md, spec/06_encoding.md, spec/20_interruption.md, spec/21_system_instructions.md) -/

namespace Sys2Proof.Spec

/-- A trap taken in user mode at the issue of an instruction (R309): what the trap registers hold, where the handler starts, and that no
register, tile, scratchpad byte or byte of pooled or host memory has changed, nor any queue, unless an ldsq or stsq of the A-stream waits (R195). -/
def Trapped (s t : State) (cause : Nat) (val : Word) : Prop :=
  t.core.sys.trapCause = .ofNat 8 cause ∧ t.core.sys.trapVal = val ∧ t.core.sys.trapPc = s.cur.pc
    ∧ t.core.sel = s.core.sel ∧ t.cur.pc = s.core.sys.trapVec ∧ t.cur.mode = .sup
    ∧ t.cur.g = s.cur.g ∧ (t.core.str s.core.sel.other).g = (s.core.str s.core.sel.other).g
    ∧ t.core.f = s.core.f ∧ t.core.v = s.core.v ∧ t.core.tiles = s.core.tiles
    ∧ (s.core.a.syncEntries = [] → s.core.a.taken = none → s.core.c.atGang = none → t.core.queues = s.core.queues)
    ∧ t.core.spad = s.core.spad ∧ t.pool = s.pool ∧ t.host = s.host

/-- The instruction word, zero-extended, as TRAP.VAL records it (R122). -/
def wordVal (i : Instr) : Word := (encode i).zeroExtend 64

/-- The major opcode of a 32-bit instruction (R102). -/
def major (i : Instr) : Nat := (encode i).toNat / 2 % 64

/-- The fn field of format A (R102). -/
def fnField (i : Instr) : Nat := (encode i).toNat / 2 ^ 26

/-- R106, R107 and R117: the streams that admit an instruction. -/
def admits (i : Instr) (x : StreamId) : Bool :=
  match x with
  | .a => i.bits == 32 && decide (major i ≤ 27) && !(major i == 27 && fnField i == 3)
  | .c =>
    i.bits == 16 || decide (major i ≤ 11) || major i == 13 || decide (28 ≤ major i)
      || (major i == 12 && decide (fnField i ≤ 2)) || (major i == 27 && (fnField i == 3 || fnField i == 4 || fnField i == 7))

/-- The supervisor registers of R325, those with a dash in the User column. -/
def supRegister (i : Nat) : Bool :=
  decide (0x020 ≤ i ∧ i ≤ 0x025) || i == 0x027 || i == 0x036 || i == 0x037 || i == 0x050 || i == 0x051
    || decide (0x060 ≤ i ∧ i ≤ 0x065)

/-- Every register listed in R325. -/
def listedRegister (i : Nat) : Bool :=
  decide (i ≤ 0x005) || i == 0x008 || i == 0x009 || decide (0x010 ≤ i ∧ i ≤ 0x015) || decide (0x020 ≤ i ∧ i ≤ 0x028)
    || decide (0x030 ≤ i ∧ i ≤ 0x037) || decide (0x040 ≤ i ∧ i ≤ 0x042) || i == 0x050 || i == 0x051
    || decide (0x060 ≤ i ∧ i ≤ 0x065) || i == 0x080 || decide (0x100 ≤ i ∧ i ≤ 0x102) || decide (0x110 ≤ i ∧ i ≤ 0x113)

/-- The privileged encodings (R122): tret, lvthaw, and sysrd or syswr of a supervisor register. -/
def privileged : Instr → Bool
  | .tret => true
  | .lvthaw _ _ => true
  | .sysrd _ i => supRegister i.toNat
  | .syswr _ i => supRegister i.toNat
  | _ => false

/-- A register laid out as fields, each given by its lowest bit. -/
def fields (l : List (Nat × Nat)) : Word := .ofNat 64 (l.map (fun x => x.2 * 2 ^ x.1)).sum

/-- A field that holds one bit. -/
def bit (b : Bool) : Nat := if b then 1 else 0

/-- A register of R70 or R80: zero outside update and stall tasks. -/
def levelValue (s : State) (f : Front → Nat → Task → Word) : Word :=
  match s.taskFront, s.core.task with
  | some (x, b), some t => f x b t
  | _, _ => 0

/-- The word that AOT.DATA shows of an entry (R233). -/
def aotWord (e : AotEntry) (w : Nat) : Word :=
  if w = 0 then
    fields [(0, match e.state with
      | .free => 0
      | .owned => 1
      | .pinned => 2
      | .spilled => 3), (2, bit e.held), (8, e.count % 64), (16, e.first % 32), (32, e.owner % 65536)]
  else if w = 1 then fields [(0, e.key.toNat), (32, e.tokens.toNat)]
  else if w = 2 then e.spill
  else 0

/-- The value of a system register as R46, R48, R50, R52, R55, R70, R80, R161, R162, R164 to R169, R233, R255, R267, R308 and R326 lay its fields out.
TRAP.SAVE is the address at which the other stream stands once the handler has begun (R310). -/
def sysValue (s : State) (i : Nat) : Word :=
  let r := s.core.sys
  let task := fun (f : Task → Nat) => BitVec.ofNat 64 ((s.core.task.map f).getD 0)
  match i with
  | 0x000 => task (fun t => t.lid)
  | 0x001 => .ofNat 64 s.core.pid
  | 0x002 => task (fun t => t.size)
  | 0x003 => r.gangMask.zeroExtend 64
  | 0x004 => .ofNat 64 s.clCount
  | 0x005 => task (fun t => t.clIndex)
  | 0x008 => fields [(0, r.domLevel.toNat), (16, r.domMembers.toNat)]
  | 0x009 => fields [(0, r.domGen[0].toNat), (16, r.domGen[1].toNat), (32, r.domGen[2].toNat), (48, r.domGen[3].toNat)]
  | 0x010 => fields [(0, bit r.fslm)]
  | 0x011 => fields [(0, r.frm.toNat), (6, r.frmFsl.toNat)]
  | 0x012 => r.fflags.zeroExtend 64
  | 0x013 => r.qfxScale.zeroExtend 64
  | 0x014 => r.tensorId.zeroExtend 64
  | 0x015 => r.seed
  | 0x020 => r.trapCause.zeroExtend 64
  | 0x021 => r.trapVal
  | 0x022 => r.trapPc
  | 0x023 => r.trapStream.zeroExtend 64
  | 0x024 => r.trapVec
  | 0x025 => trapSave s
  | 0x026 => .ofNat 64 (((s.cur.flight.find? (fun op => op.part)).map (fun op => op.prog)).getD 0 % 2 ^ 32)
  | 0x027 => fields [(0, bit r.preReq)]
  | 0x028 => s.cur.safeId.zeroExtend 64
  | 0x030 => levelValue s (fun _ b _ => .ofNat 64 b)
  | 0x031 => levelValue s (fun _ _ t => t.level.zeroExtend 64)
  | 0x032 => levelValue s (fun f b t => fields [(0, t.step.toNat), (16, (f.block b).next.toNat)])
  | 0x033 => levelValue s (fun f _ t =>
      fields [(0, t.seq.toNat), (32, t.queue % 64), (48, bit f.guarded), (49, bit f.frozen), (50, bit f.stalled)])
  | 0x034 => levelValue s (fun f b _ => (lowestLevel (f.known[(f.block b).home]?.getD [])).zeroExtend 64)
  | 0x035 => levelValue s (fun f b _ => (highestLevel (f.known[(f.block b).home]?.getD [])).zeroExtend 64)
  | 0x036 => levelValue s (fun _ _ _ =>
      if s.editsLevels then fields [(0, r.lvBlock.toNat), (16, r.lvWord.toNat), (31, bit r.lvRefused)] else 0)
  | 0x037 => levelValue s (fun _ _ _ => if s.editsLevels then (r.lvStaged[r.lvWord.toNat]?).getD 0 else 0)
  | 0x040 => r.pivThr
  | 0x041 => r.pivDelta
  | 0x042 => r.pivCount.zeroExtend 64
  | 0x050 => fields [(0, r.aotTile.toNat), (6, r.aotWord.toNat)]
  | 0x051 => aotWord (s.core.getAot r.aotTile.toNat) r.aotWord.toNat
  | 0x060 => s.dev.fbHead.zeroExtend 64
  | 0x061 => s.dev.fbTail.zeroExtend 64
  | 0x062 => fields [(0, bit s.dev.fbFlag), (32, s.dev.fbDropped.toNat)]
  | 0x064 => ((s.dev.fbSlots[s.dev.fbHead.toNat % 8]?).getD 0).extractLsb' 0 64
  | 0x065 => ((s.dev.fbSlots[s.dev.fbHead.toNat % 8]?).getD 0).extractLsb' 64 64
  | 0x080 => fields [(0, bit r.evtMoved), (1, bit r.evtTopo), (32, r.evtTopoGen.toNat)]
  | 0x100 => s.dev.cycle
  | 0x101 => r.cntIssA
  | 0x102 => r.cntIssC
  | 0x110 => .ofNat 64 ((s.taskFront.map (fun x => x.1.abandons)).getD 0)
  | 0x111 => r.cntLayout
  | 0x112 => r.cntFeOver
  | 0x113 => .ofNat 64 (s.unack s.core % 2 ^ 16)
  | _ => 0

/-- The registers that supervisor software writes with an effect on the core's registers alone (R80, R233, R308, R324, R326), and what a write of gs1
makes of them. A counter then counts the syswr itself (log entry 36). -/
def supWrite (s : State) (v : Word) : Nat → Option (SysRegs → SysRegs)
  | 0x022 => some fun r => { r with trapPc := v &&& ~~~1#64 }
  | 0x024 => some fun r => { r with trapVec := v &&& ~~~1#64 }
  | 0x025 => some fun r => { r with trapSave := v &&& ~~~1#64 }
  | 0x050 => some fun r => { r with aotTile := v.extractLsb' 0 5, aotWord := v.extractLsb' 6 2 }
  | 0x101 => some fun r => { r with cntIssA := v + .ofNat 64 (bit (s.core.sel == .a)) }
  | 0x102 => some fun r => { r with cntIssC := v + .ofNat 64 (bit (s.core.sel == .c)) }
  | 0x111 => some fun r => { r with cntLayout := v }
  | 0x112 => some fun r => { r with cntFeOver := v }
  | 0x037 => some fun r => if s.editsLevels then { r with lvStaged := r.lvStaged.setIfInBounds r.lvWord.toNat v } else r
  | _ => none

/-- The RW registers that a user-mode syswr may write (R325), and what a write of gs1 makes of them (R324). -/
def sysWrite (v : Word) : Nat → Option (SysRegs → SysRegs)
  | 0x003 => some fun r => { r with gangMask := v.truncate 8 }
  | 0x010 => some fun r => { r with fslm := v.getLsbD 0 }
  | 0x011 => some fun r => { r with frm := v.truncate 3, frmFsl := v.extractLsb' 6 2 }
  | 0x012 => some fun r => { r with fflags := v.truncate 6 }
  | 0x013 => some fun r => { r with qfxScale := v.truncate 6 }
  | 0x014 => some fun r => { r with tensorId := v.truncate 32 }
  | 0x040 => some fun r => { r with pivThr := v }
  | 0x041 => some fun r => { r with pivDelta := v }
  | 0x042 => some fun r => { r with pivCount := v.truncate 32 }
  | 0x080 => some fun r => { r with evtMoved := r.evtMoved && !v.getLsbD 0, evtTopo := r.evtTopo && !v.getLsbD 1 }
  | _ => none

/-- The registers that R325 gives no field a write could change in the mode: RO ones, and in user mode the counters and SEED too. -/
def sysReadOnly (sup : Bool) (i : Nat) : Bool :=
  decide (i ≤ 0x002) || i == 0x004 || i == 0x005 || i == 0x008 || i == 0x009 || i == 0x026 || i == 0x028
    || decide (0x030 ≤ i ∧ i ≤ 0x035) || i == 0x100 || i == 0x110 || i == 0x113
    || (!sup && (i == 0x015 || i == 0x101 || i == 0x102 || i == 0x111 || i == 0x112))
    || (sup && (i == 0x020 || i == 0x021 || i == 0x023 || i == 0x027 || i == 0x051 || i == 0x061 || i == 0x064 || i == 0x065))

/-- The SVC or TRAP of a code, with its cause (R327). -/
def supCall (code : BitVec 9) (failing : Bool) : Instr × Nat := if failing then (.trap code, 0x11) else (.svc code, 0x10)

end Sys2Proof.Spec

/-- R309, R310: a trap in user mode writes TRAP.CAUSE, TRAP.VAL, TRAP.PC and TRAP.STREAM, writes the other stream's resume address into TRAP.SAVE,
puts the trapping stream in supervisor mode at TRAP.VEC, and leaves every register of both streams as it stands. The resume address is that of the oldest
incomplete instruction at which the other stream stands; with none, that of a fence of its own that waits for a parked store; else that of its
next instruction. That such a fence is named is the model's choice (log entry 65), and that a waiting lds or ldsq is one at which a stream stands is its
reading (log entry 14). -/
def Obligations.TrapEntrySavesBothStreams : Prop :=
  ∀ (s : State) (cause : Nat) (val pc point : Word) (named : Option Nat) (waits : Bool), s.cur.mode = .user → cause ≠ 0x12 →
    ∃ t, s.takeTrap cause val pc point named waits = t
    ∧ Spec.Trapped { s with core := s.core.updStr s.core.sel (fun st => { st with pc := pc }) } t cause val
    ∧ t.core.sys.trapStream = (if (s.core.str s.core.sel.other).exited then 2 else 0) + (if s.core.sel = .c then 1 else 0)
    ∧ (∀ op, (s.core.str s.core.sel.other).standing = some op → t.core.sys.trapSave = op.pc)
    ∧ ((s.core.str s.core.sel.other).standing = none →
        (∀ x, s.parkedFence s.core s.core.sel.other = some x → t.core.sys.trapSave = x.pc)
        ∧ (s.parkedFence s.core s.core.sel.other = none → t.core.sys.trapSave = (s.core.str s.core.sel.other).pc))
    ∧ t.core.handler = some s.core.sel
    ∧ (t.core.str s.core.sel.other).exited = (s.core.str s.core.sel.other).exited

/-- R328, R309, R314: tret in supervisor mode puts both streams in user mode. A stream whose resume address stands unchanged goes on at its issue point,
any other at the address that the handler wrote, shown where no access stands parked and the other stream has no joint instruction that has not
begun; a stream that had executed EXIT stays exited; one whose SAFEPT met a pre-emption behind its trap
stops; and no g, f or v register changes. R67, R319, R328, R329: in a stall task tret acts as exit, and exit in supervisor mode kills the task: the
task is gone. -/
def Obligations.TrapReturnResumesBothStreams : Prop :=
  (∀ (s : State), Ready s → s.cur.mode = .sup → s.isStall = false →
     ∃ t, exec .tret s = .next t ∧ t.core.handler = none ∧ t.core.sel = s.core.sel
       ∧ t.cur.mode = .user ∧ t.cur.pc = (if s.core.sys.trapPc = s.cur.resume.1 then s.cur.resume.2 else s.core.sys.trapPc)
       ∧ t.cur.g = s.cur.g ∧ t.core.f = s.core.f ∧ t.core.v = s.core.v ∧ t.core.spad = s.core.spad ∧ t.pool = s.pool ∧ t.host = s.host
       ∧ t.cur.stopped = (if s.cur.stopDue = true ∧ s.core.sys.preReq = true then some .safept else none)
       ∧ (t.core.str s.core.sel.other).exited = (s.core.str s.core.sel.other).exited
       ∧ (t.core.str s.core.sel.other).g = (s.core.str s.core.sel.other).g
       ∧ ((s.core.str s.core.sel.other).exited = true → (t.core.str s.core.sel.other).pc = (s.core.str s.core.sel.other).pc)
       ∧ ((s.core.str s.core.sel.other).exited = false →
           (t.core.str s.core.sel.other).mode = .user
           ∧ (Spec.noneParked s → (∀ op ∈ s.core.c.flight, op.joint = false ∨ op.met = true) →
             (t.core.str s.core.sel.other).pc = (if Spec.trapSave s = (Spec.otherResume s).1 then (Spec.otherResume s).2 else Spec.trapSave s))))
  ∧ (∀ (s : State) (i : Instr), Ready s → s.cur.mode = .sup → (i = .exit ∨ (i = .tret ∧ s.isStall = true)) →
       ∃ t, exec i s = .next t ∧ t.core.task = none ∧ t.core.handler = none ∧ t.core.a.exited = true ∧ t.core.c.exited = true)

/-- R327: in user mode svc and trap complete, counted by CNT.ISSA or CNT.ISSC, and then trap with cause 0x10 and 0x11, TRAP.VAL holding the code
and TRAP.PC the next instruction; svc freezes no front, and trap freezes the front of an update task, naming its block (R78).
In supervisor mode either is a double trap, which ends the task (R312). -/
def Obligations.SupervisorCalls : Prop :=
  ∀ (s : State) (code : BitVec 9) (failing : Bool), Ready s →
    (s.cur.mode = .user →
      ∃ t, exec (Spec.supCall code failing).1 s = .next t
        ∧ Spec.Trapped (s.issued (Spec.supCall code failing).1) t (Spec.supCall code failing).2 (code.zeroExtend 64)
        ∧ t.core.sys.trapPc = s.cur.pc + 4
        ∧ (s.core.sel = .a → t.core.sys.cntIssA = s.core.sys.cntIssA + 1)
        ∧ (s.core.sel = .c → t.core.sys.cntIssC = s.core.sys.cntIssC + 1)
        ∧ (failing = false → t.contexts = s.contexts)
        ∧ (failing = true → ∀ f b, s.isUpdate = true → s.taskFront = some (f, b) →
            ∃ f1, t.taskFront = some (f1, b) ∧ f1.frozen = true ∧ ∀ x, f1.blocks[b]? = some x → x.state = .frozen))
    ∧ (s.cur.mode = .sup → ∃ t, exec (Spec.supCall code failing).1 s = .next t ∧ t.core.task = none)

/-- R312, R319: a trap that a stream in supervisor mode meets ends the task, and a team's completion carries the cause of the first trap; the
command of an update or stall task ends in error. R320, R336, R340: cause 0x12 runs no handler: the containment rectangle of the cluster is killed, its
cores hold nothing afterwards, and the count of kills goes up by one short of 255. What else a double trap ends in a front is the model's reading (log entry 57). -/
def Obligations.DoubleTrapsAndPoisonKill : Prop :=
  (∀ (s : State) (cause : Nat) (val pc point : Word), s.cur.mode = .sup → cause ≠ 0x12 →
     (s.takeTrap cause val pc point).core.task = none
     ∧ (∀ tk c, s.core.task = some tk → tk.kind = .team → s.cmdAt tk.ctx tk.queue tk.seq = some c → c.first = none →
         ∃ c1, (s.takeTrap cause val pc point).cmdAt tk.ctx tk.queue tk.seq = some c1
           ∧ c1.first = some (s.core.sys.trapCause.toNat, tk.lid))
     ∧ (∀ tk c, s.core.task = some tk → tk.kind ≠ .team → s.cmdAt tk.ctx tk.queue tk.seq = some c →
         ∃ c1, (s.takeTrap cause val pc point).cmdAt tk.ctx tk.queue tk.seq = some c1 ∧ c1.phase = .ending .error ∧ c1.first.isSome = true))
  ∧ (∀ (s : State) (val pc point : Word) (n : Nat) (r : ContRect), s.rectOf s.core.cluster = some n → s.dev.rects[n]? = some r →
       r.killed = false →
       ∃ t, s.takeTrap 0x12 val pc point = t ∧ t.core.task = none
         ∧ (∃ r1, t.dev.rects[n]? = some r1 ∧ r1.killed = true ∧ r1.purged = false)
         ∧ t.dev.errKill = (if s.dev.errKill = 255 then 255 else s.dev.errKill + 1)
         ∧ (∀ k ∈ t.cores, r.holds k.cluster = false) ∧ t.pool = s.pool ∧ t.host = s.host)

/-- R107, R122: an instruction in a stream that does not admit it, and an instruction that is ill-formed, trap with cause 0x01 in user mode, TRAP.VAL
holding the instruction word, with no other effect. R122, R123: a privileged encoding in user mode traps with cause 0x02, TRAP.VAL holding the
instruction word, with no other effect. -/
def Obligations.IllegalAndPrivilegedEncodingsTrap : Prop :=
  (∀ (i : Instr) (s : State), i.bits ≠ 0 → Ready s → s.cur.mode = .user →
     (i.wellFormed = false ∨ Spec.admits i s.core.sel = false) →
     ∃ t, exec i s = .next t ∧ Spec.Trapped s t 0x01 (Spec.wordVal i))
  ∧ (∀ (i : Instr) (s : State), Spec.privileged i = true → i.wellFormed = true → Ready s → s.cur.mode = .user →
       ∃ t, exec i s = .next t ∧ Spec.Trapped s t 0x02 (Spec.wordVal i))

/-- R87, R88, shown on add: an instruction inside the window of a long-latency instruction that names a member of its destination set traps with cause
0x03 and the address of the earliest such instruction, once what the stream has issued is complete; outside every such window it waits while an incomplete
instruction has one of its registers as a destination, with no effect; and otherwise it completes though other windows are open. That windows are
counted by position and that the trap waits for the stream's earlier instructions are the model's readings (log entries 11 and 12). -/
def Obligations.LookaheadWindows : Prop :=
  ∀ (s : State) (d a b : BitVec 5) (uses : List Reg), s.canIssue = true → s.dueTrap.isNone = true → s.dev.poison = [] → s.cur.mode = .user →
    uses = ([d, a, b].filter (fun n => n ≠ 0)).map (fun n => Reg.g n.toNat) →
    (∀ w, s.cur.wins.find? (fun w => decide (s.cur.pos + 1 ≤ w.last) && uses.any (fun r => w.dests.contains r)) = some w →
      (s.quiet = true → ∃ t, exec (.add d a b) s = .next t ∧ Spec.Trapped s t 0x03 w.pc)
      ∧ (s.quiet = false → ∃ t, exec (.add d a b) s = .next t ∧ t.cur.wait = some .drain ∧ t.cur.pc = s.cur.pc ∧ t.cur.g = s.cur.g))
    ∧ (s.cur.wins.find? (fun w => decide (s.cur.pos + 1 ≤ w.last) && uses.any (fun r => w.dests.contains r)) = none →
      (s.cur.flight.any (fun op => uses.any (fun r => op.dests.contains r)) = true →
        exec (.add d a b) s = .next (s.waitAt .depend))
      ∧ (s.cur.flight.any (fun op => uses.any (fun r => op.dests.contains r)) = false →
        exec (.add d a b) s = .next ((s.issued (.add d a b)).setG d (s.g a + s.g b))))

/-- R323: sysrd writes into gd the value of the register that its index names, in every mode that may access it. R324, R325: syswr writes the fields of
the named register from gs1: the RW registers of user mode, the W1C bits of EVT, and in supervisor mode TRAP.PC, TRAP.VEC and TRAP.SAVE with bit 0
ignored, AOT.SEL, the counters, the seed of the context, FB.HEAD where it does not move backwards or past TAIL, the dropped flag of FB.DROPPED, a
replay-all through FB.REPLAY (R163, R331), and the selection, the words and the apply of block records (R80); a register with RO fields alone is left as it
is; an IEEE rounding mode of 5 to 7 traps with cause 0x01 and writes nothing; GANG.MASK waits while a joint instruction of the core executes (R48). That
sysrd reads the counts before its own issue is the model's reading (log entry 36). -/
def Obligations.SystemRegisterAccessesComplete : Prop :=
  (∀ (s : State) (d : BitVec 5) (i : BitVec 9), s.canIssue = true → s.dueTrap.isNone = true → s.cur.wins = [] → s.dev.poison = [] →
     s.cur.flight.all (fun op => !op.dests.contains (.g d.toNat)) = true → Spec.listedRegister i.toNat = true →
     (Spec.supRegister i.toNat = true → s.cur.mode = .sup) →
     exec (.sysrd d i) s = .next ((s.issued (.sysrd d i)).setG d (Spec.sysValue s i.toNat)))
  ∧ (∀ (s s1 : State) (a : BitVec 5) (i : BitVec 9), Ready s → s1 = s.issued (.syswr a i) →
       (∀ f, Spec.sysWrite (s.g a) i.toNat = some f → (i = 0x003 → s1.core.jointRunning = false) →
         (i = 0x011 → (s.g a).toNat % 8 < 5) →
         exec (.syswr a i) s = .next (s1.updSys f))
       ∧ (i = 0x003 → s1.core.jointRunning = true → exec (.syswr a i) s = .next (s.waitAt .unit))
       ∧ (i = 0x011 → 5 ≤ (s.g a).toNat % 8 → s.cur.mode = .user →
         ∃ t, exec (.syswr a i) s = .next t ∧ Spec.Trapped s t 0x01 (Spec.wordVal (.syswr a i)))
       ∧ (Spec.sysReadOnly (s.cur.mode == .sup) i.toNat = true → exec (.syswr a i) s = .next s1)
       ∧ (s.cur.mode = .sup →
           (∀ f, Spec.supWrite s (s.g a) i.toNat = some f → exec (.syswr a i) s = .next (s1.updSys f))
           ∧ (∀ tk, i = 0x015 → s.core.task = some tk → exec (.syswr a i) s = .next (s1.updCtx tk.ctx (fun c => { c with seed := s.g a })))
           ∧ (i = 0x060 →
             (((s.g a).truncate 4 - s.dev.fbHead).toNat ≤ (s.dev.fbTail - s.dev.fbHead).toNat →
               exec (.syswr a i) s = .next { s1 with dev := { s.dev with fbHead := (s.g a).truncate 4 } })
             ∧ ((s.dev.fbTail - s.dev.fbHead).toNat < ((s.g a).truncate 4 - s.dev.fbHead).toNat → exec (.syswr a i) s = .next s1))
           ∧ (i = 0x062 → exec (.syswr a i) s
               = .next (if (s.g a).getLsbD 0 then { s1 with dev := { s.dev with fbFlag := false } } else s1))
           ∧ (i = 0x063 → (s.g a).getLsbD 0 = false → exec (.syswr a i) s = .next s1)
           ∧ (i = 0x063 → (s.g a).getLsbD 0 = true → s.core.pending = [] →
               ∃ t, exec (.syswr a i) s = .next t ∧ t.dev.feFaults = [] ∧ (∀ c ∈ t.clusters, c.faults = [])
                 ∧ (∀ k ∈ t.core :: t.cores, (∀ r ∈ k.pending, r.parked = false)
                   ∧ ∀ op ∈ k.a.flight ++ k.c.flight, ∀ va, op.status ≠ .parked va)
                 ∧ (∀ c ∈ t.clusters, ∀ j ∈ c.jobs, ∀ w va, j.state ≠ .parked w va) ∧ t.pool = s.pool ∧ t.host = s.host)
           ∧ (i = 0x036 → s.editsLevels = false → exec (.syswr a i) s = .next s1)
           ∧ (i = 0x036 → s.editsLevels = true →
               ∃ s2 s3, s2 = (if (s.g a).truncate 16 ≠ s.core.sys.lvBlock ∨ s.core.sys.lvChosen = false
                   then s1.stageRecord ((s.g a).truncate 16) else s1)
                 ∧ s3 = s2.updSys (fun r => { r with lvWord := (s.g a).extractLsb' 16 4 })
                 ∧ exec (.syswr a i) s = .next (if (s.g a).getLsbD 20 then s3.applyRecord else s3))))

/-- R329, R330: nop does nothing but advance the stream. safept, with an index below NSAFE and no pre-emption, cancellation or topology trap pending,
writes SAFE.ID and changes nothing else; with PRE.REQ.PEND set the stream stops there, at the next instruction; R56: with a topology trap due it takes
cause 0x15, CL.COUNT in TRAP.VAL and the next instruction in TRAP.PC, and a pending pre-emption then waits for the handler's return. exit in user mode,
outside an interpolation entry and a drain handler and with nothing incomplete, ends its stream; the task goes on while the other stream runs. -/
def Obligations.SafePointsAndExitsComplete : Prop :=
  ∀ (s : State), Ready s →
    exec .nop s = .next (s.issued .nop)
    ∧ (∀ imm : BitVec 9, imm.toNat < s.nsafe → s.cancelling = false → (∀ tk, s.core.task = some tk → tk.topoDue = false) →
        (s.core.sys.preReq = false →
          exec (.safept imm) s = .next ((s.issued (.safept imm)).updCur (fun st => { st with safeId := imm })))
        ∧ (s.core.sys.preReq = true → s.cur.mode = .user →
          exec (.safept imm) s = .next ((s.issued (.safept imm)).updCur (fun st => { st with safeId := imm, stopped := some .safept }))))
    ∧ (∀ (imm : BitVec 9) (tk : Task), imm.toNat < s.nsafe → s.cancelling = false → s.core.task = some tk → tk.topoDue = true →
        s.cur.mode = .user →
        ∃ t, exec (.safept imm) s = .next t ∧ Spec.Trapped (s.issued (.safept imm)) t 0x15 (.ofNat 64 s.clCount)
          ∧ t.cur.safeId = imm ∧ t.cur.stopDue = s.core.sys.preReq)
    ∧ (s.cur.mode = .user → s.cur.interp = false → s.cur.drain = none → (s.core.str s.core.sel.other).exited = false →
        exec .exit s = .next ((s.issued .exit).updCur (fun st => { st with exited := true })))

/-! ### Decoding, stepping, reset, memory -/

namespace Sys2Proof.Spec

/-- Words written out from the spec's encodings (spec/06_encoding.md and the listings of the family chapters), with what they stand for. -/
def writtenWords : List (Nat × Instr) :=
  [(0xFF420293, .bcc 5 0 0xFF4 1), (0x0C0C523F, .vadd 4 5 6 1 0 1), (0x9C64, .vmulH 3 7 1), (0x00000B17, .call 22),
   (0x548C5401, .gcd 8 5 6 2), (0x0C14979D, .teama 15 9 10), (0x181AC701, .rem 14 12 13 0), (0x08000019, .ret),
   (0x08664321, .ld 6 4 16 3 3), (0x1080039B, .sysrd 7 0x021), (0x3190901B, .syswr 9 0x063), (0x03A0001B, .svc 7),
   (0xFFB0001B, .trap 511), (0x0040001B, .tret), (0x0050001B, .exit), (0x0060001B, .nop), (0x01F0001B, .safept 3),
   (0x1C0012B7, .lvthaw 5 1), (0x008411B9, .fadd 3 1 2 2), (0x0018B033, .tdef 11 12), (0x10D0024F, .mmacVv 4 0 8 0 4 3)]

end Sys2Proof.Spec

/-- Words that the spec writes out decode to the instructions that it says they are. -/
def Obligations.WrittenWordsDecode : Prop :=
  ∀ p ∈ Spec.writtenWords, decode (wordBytes p.1) = .ok p.2 (p.2.bits / 8) ∧ encodeBytes p.2 = (wordBytes p.1).take (p.2.bits / 8)

/-- R102 to R121: every well-formed instruction that has an encoding is decoded from its own bytes, with every operand, whatever bytes follow. -/
def Obligations.EncodingsDecodeBack : Prop :=
  ∀ (i : Instr) (rest : List Byte), i.bits ≠ 0 → i.wellFormed = true → decode (encodeBytes i ++ rest) = .ok i (i.bits / 8)

/-- R103, R122: a byte stream has one reading: what the decoder accepts is, byte for byte, the encoding of the instruction it answers, so no bit of
a word is ignored and no two words share a meaning. -/
def Obligations.DecodedBytesAreTheEncoding : Prop :=
  ∀ (bs : List Byte) (i : Instr) (n : Nat), decode bs = .ok i n → n = i.bits / 8 ∧ encodeBytes i = bs.take n

/-- R122: a word that is no instruction makes the step an ILLEGAL_INSTRUCTION of that word, which traps with cause 0x01 in user mode;
R82: a fetch that is refused makes it a FETCH_PROTECTION_FAULT, which traps with cause 0x07 and the fetch address. -/
def Obligations.RejectedFetchesTrap : Prop :=
  ∀ (s s1 : State) (pid : Nat) (x : StreamId) (rest : List Turn),
    s.agenda = .stream pid x :: rest → s1 = ((({ s with agenda := rest }).select pid).onStream x).toFetch → Ready s1 → s1.cur.mode = .user →
    (∀ w, s1.fetch = .reject w →
      step s = exec (.illegalInstruction w) s1
      ∧ ∃ t, exec (.illegalInstruction w) s1 = .next t ∧ Spec.Trapped s1 t 0x01 (w.zeroExtend 64))
    ∧ (∀ va, s1.fetch = .trap 0x07 va →
      step s = exec (.fetchProtectionFault va) s1
      ∧ ∃ t, exec (.fetchProtectionFault va) s1 = .next t ∧ Spec.Trapped s1 t 0x07 va)

/-- R82: when the bytes at the program counter of the stream whose turn it is decode to an instruction, the step is exec of that instruction at the
state in which that stream is the issuing one: a halfword with bit 0 clear stands alone, any other is the first of two. What the fetch itself leaves
changes no core where no engine holds a line (R199). An event on the agenda happens: the step is exec of it. The agenda is the model's own
(log entry 2). -/
def Obligations.StepRunsDecodedInstruction : Prop :=
  (∀ (s s1 : State) (pid : Nat) (x : StreamId) (rest : List Turn) (lo hi : List Byte) (i : Instr) (n : Nat),
     s.agenda = .stream pid x :: rest → s1 = ((({ s with agenda := rest }).select pid).onStream x).toFetch →
     s1.fetchHalf s1.cur.pc = .ok lo →
     ((∀ c ∈ s.clusters, c.hot = []) → s1.core = ((({ s with agenda := rest }).select pid).onStream x).core ∧ s1.pool = s.pool ∧ s1.host = s.host)
     ∧ ((bytesNat lo % 2 = 0 → decode lo = .ok i n → step s = exec i s1)
     ∧ (bytesNat lo % 2 = 1 → s1.fetchHalf (s1.cur.pc + 2) = .ok hi → decode (lo ++ hi) = .ok i n → step s = exec i s1)))
  ∧ (∀ (s : State) (e : Instr) (rest : List Turn), s.agenda = .event e :: rest → e.bits = 0 →
       (∀ b, e ≠ .lvRecordStage b) → e ≠ .lvRecordApply → (∀ w, e ≠ .illegalInstruction w) → (∀ va, e ≠ .fetchProtectionFault va) →
       step s = exec e { s with agenda := rest })

/-- The machine after device reset, where the spec gives the value: no task runs and no context or queue exists; the trap registers read zero (R308);
the fault buffer, the error counts and the field test are clear (R162, R337, R343); NET.AGE is 2,048 (R357); CR.0 covers the grid and is the only
valid rectangle (R338); the device has not reported READY. Pooled and host memory are in canonical form at reset. -/
def Obligations.ResetStateValues : Prop :=
  (State.reset.core.task = none ∧ State.reset.cores = [] ∧ State.reset.contexts = []
   ∧ State.reset.core.sys.trapCause = 0 ∧ State.reset.core.sys.trapVal = 0 ∧ State.reset.core.sys.trapPc = 0
   ∧ State.reset.core.sys.trapStream = 0 ∧ State.reset.core.sys.trapSave = 0
   ∧ State.reset.core.sys.fflags = 0 ∧ State.reset.core.sys.pivCount = 0
   ∧ State.reset.dev.fbHead = 0 ∧ State.reset.dev.fbTail = 0 ∧ State.reset.dev.fbDropped = 0
   ∧ State.reset.dev.errCe = 0 ∧ State.reset.dev.errPoison = 0 ∧ State.reset.dev.errKill = 0
   ∧ State.reset.dev.iftPass = 0 ∧ State.reset.dev.iftFail = 0 ∧ State.reset.dev.netAge = 2048 ∧ State.reset.dev.cycle = 0
   ∧ State.reset.dev.rects[0]? = some ⟨15, 0, 15, 0, false, false, true⟩
   ∧ (∀ n r, n ≠ 0 → State.reset.dev.rects[n]? = some r → r.valid = false)
   ∧ State.reset.dev.ready = false
   ∧ (Context.init 1).en = false ∧ (Context.init 1).saveSlots = 1 ∧ (Context.init 1).saveBase = 0 ∧ (Context.init 1).trapVec = 0)
  ∧ (MemoryCanonical State.reset)

/-- Every step, of any instruction or event, keeps pooled and host memory in canonical form: addresses strictly rising and no entry equal to what an
unlisted address reads as. What an unlisted address reads as is the model's choice (log entry 1). -/
def Obligations.MemoryStaysCanonical : Prop := Kept MemoryCanonical

/-- R4, R153: bytes written at an address are read back there, lowest address first, and every other byte reads as before; a write keeps the canonical
form. R94: g0 reads zero and a write to it is discarded; every other g register reads what was last written to it, and no write changes another. -/
def Obligations.MemoryAndRegistersKeepValues : Prop :=
  (∀ (m : Memory) (a : Nat) (bs : List Byte),
     (Memory.wf m = true → Memory.wf (Memory.write m a bs) = true) ∧ Memory.read (Memory.write m a bs) a bs.length = bs
     ∧ (∀ x, x < a ∨ a + bs.length ≤ x → Memory.get (Memory.write m a bs) x = Memory.get m x)
     ∧ (∀ v n, bytesNat (natBytes v n) = v % 256 ^ n))
  ∧ ((∀ (st : Stream) (v : Word), st.getG 0 = 0 ∧ st.setG 0 v = st)
     ∧ (∀ (st : Stream) (n m : Nat) (v : Word), 0 < n → n < 32 → (st.setG n v).getG n = v ∧ (m ≠ n → (st.setG n v).getG m = st.getG m))
     ∧ (∀ (k : Core) (n m : Nat) (r : FReg), n < 32 → (k.setF n r).getF n = r ∧ (m ≠ n → (k.setF n r).getF m = k.getF m))
     ∧ (∀ (k : Core) (n m : Nat) (r : VReg), n < 24 → (k.setV n r).getV n = r ∧ (m ≠ n → (k.setV n r).getV m = k.getV m)))

/-! ### Memory, synchronisation and copies (spec/10_memory_instructions.md, spec/14_ordering.md, spec/15_sync_instructions.md) -/

namespace Sys2Proof.Spec

/-- No g, f or v register, no tile and no format word has changed. -/
def KeepsRegisters (s t : State) : Prop :=
  t.core.sel = s.core.sel ∧ t.cur.g = s.cur.g ∧ (t.core.str s.core.sel.other).g = (s.core.str s.core.sel.other).g
    ∧ t.core.f = s.core.f ∧ t.core.v = s.core.v ∧ t.core.tiles = s.core.tiles ∧ t.core.aot = s.core.aot

/-- Nothing outside the issuing core has changed: no other core, no cluster, context, memory or device register. -/
def KeepsElsewhere (s t : State) : Prop :=
  t.cores = s.cores ∧ t.clusters = s.clusters ∧ t.contexts = s.contexts ∧ t.pool = s.pool ∧ t.host = s.host ∧ t.dev = s.dev

/-- The stream stands past the instruction (R84). -/
def Past (s t : State) (i : Instr) : Prop := t.cur.pc = (s.issued i).cur.pc ∧ t.core.sys = (s.issued i).core.sys

/-- The access that an instruction names passes every check of R186: aperture, alignment, permission; and its chunks meet no poison. -/
def Reaches (s : State) (acc : Acc) (addr : Word) (n : Nat) (cs : List Chunk) : Prop :=
  s.checkAddr s.who addr n n = none ∧ s.locate s.who acc addr n = .ok cs

/-- No atomic engine holds a line exclusively (R199), so no access recalls one. -/
def NoLineHeld (s : State) : Prop := ∀ c ∈ s.clusters, c.hot = []

/-- What the C-stream issued before an entry that the A-stream popped is done (R223). -/
def Seen (s : State) : Prop := ∀ o ∈ s.core.c.flight, s.cur.seen ≤ o.id

/-- The fields of a barrier word (R278): GEN, PEND, BYTES. -/
def gen (w : Nat) : Nat := w % 2 ^ 32
def pend (w : Nat) : Nat := w / 2 ^ 32 % 2 ^ 16
def bytes (w : Nat) : Nat := w / 2 ^ 48 % 2 ^ 16

/-- arrive(N, units) of R279 on a word whose PEND is not 0xFFFF. -/
def arrive (n units w : Nat) : Nat :=
  let b := (bytes w + units) % 2 ^ 16
  let p := if n ≤ pend w + 1 then 0xFFFF else pend w + 1
  if p = 0xFFFF ∧ b = 0 then (gen w + 1) % 2 ^ 32 else gen w + p * 2 ^ 32 + b * 2 ^ 48

/-- engine_arrive(units) of R279. -/
def engineArrive (units w : Nat) : Nat :=
  let b := (bytes w + 2 ^ 16 - units % 2 ^ 16) % 2 ^ 16
  if pend w = 0xFFFF ∧ b = 0 then (gen w + 1) % 2 ^ 32 else gen w + pend w * 2 ^ 32 + b * 2 ^ 48

/-- The state `x` with the issuing stream's arrival at a barrier word (R279): the word takes its new value, and the engine that holds it has
served the core (R269). `s` is the state at the issue. -/
def arrived (s x : State) (cs : List Chunk) (word : Nat) : State :=
  ((x.countAccess.touch s.who.ctx true cs).pokeAll cs (natBytes word 8)).servedAt (executor s.core.pid 0 (.atomic .add 8 0 0) cs) (placeOf cs)
    s.core.pid

/-- A fence has joined those of the issuing stream, under a name of its own; `s` is the state at its issue. -/
def fenced (s s1 : State) (acq rel : Bool) (sc : Nat) : State :=
  let x := s1.updCur (fun st => { st with fence := st.fence ++ [⟨acq, rel, sc, s.core.nextId, s.cur.pc, s.cur.mode⟩] })
  { x with core := { x.core with nextId := s.core.nextId + 1 } }

/-- The stores and atomics without return of the core that are not acknowledged (R267). -/
def unacked (s : State) : Nat := s.core.pending.length

/-- A core runs a task of an instance of a domain (R51). -/
def inInstance (c : Command) (tk : Task) (level key : Nat) (k : Core) : Bool :=
  match k.task with
  | some t => t.ctx == tk.ctx && t.queue == tk.queue && t.seq == tk.seq && c.instanceKey level t.lid == key
  | none => false

/-- GENj of a core one up (R283). -/
def genUp (level : Nat) (k : Core) : Core :=
  { k with sys := { k.sys with domGen := k.sys.domGen.setIfInBounds (level - 1) ((k.sys.domGen[level - 1]?).getD 0 + 1) } }

/-- A word of a peer device is read anew at each try (R354). -/
def tryPeer (s : State) (cs : List Chunk) : State := if peerChunk cs then s.tried else s

/-- What an atomic of n bytes writes (R198): none when a cas finds another value. -/
def atomicValue (op : AtomicOp) (n m v c : Nat) : Option Nat :=
  match op with
  | .add => some ((m + v) % 2 ^ (8 * n))
  | .radd => some ((m + v) % 2 ^ (8 * n))
  | .band => some (m &&& v)
  | .bor => some (m ||| v)
  | .bxor => some (m ^^^ v)
  | .smin => some (if patInt m (8 * n) ≤ patInt v (8 * n) then m else v)
  | .smax => some (if patInt m (8 * n) < patInt v (8 * n) then v else m)
  | .swp => some v
  | .cas => if m = c then some v else none

/-- Operation, destination, address register, data register, width, return bit and scope of an atomic (R116, R198). -/
def atomicParts : Instr → Option (AtomicOp × BitVec 5 × BitVec 5 × BitVec 5 × BitVec 1 × BitVec 1 × BitVec 3)
  | .atomicAdd d a b w rt sc => some (.add, d, a, b, w, rt, sc)
  | .atomicAnd d a b w rt sc => some (.band, d, a, b, w, rt, sc)
  | .atomicOr d a b w rt sc => some (.bor, d, a, b, w, rt, sc)
  | .atomicXor d a b w rt sc => some (.bxor, d, a, b, w, rt, sc)
  | .atomicMin d a b w rt sc => some (.smin, d, a, b, w, rt, sc)
  | .atomicMax d a b w rt sc => some (.smax, d, a, b, w, rt, sc)
  | .atomicSwp d a b w rt sc => some (.swp, d, a, b, w, rt, sc)
  | .atomicCas d a b w rt sc => some (.cas, d, a, b, w, rt, sc)
  | .radd a b w sc => some (.radd, 0, a, b, w, 0, sc)
  | _ => none

/-- Extension, destination, address and width of a scalar load (R189). -/
def loadParts (s : State) : Instr → Option (Bool × BitVec 5 × Word × Nat)
  | .ld d a off sz _ => some (true, d, w64 ((s.g a).toInt + off.toInt * 2 ^ sz.toNat), 2 ^ sz.toNat)
  | .ldz d a off sz _ => some (false, d, w64 ((s.g a).toInt + off.toInt * 2 ^ sz.toNat), 2 ^ sz.toNat)
  | _ => none

/-- The value of a load of n bytes (R189): the bytes as a number, lowest address lowest, extended from the width. -/
def loaded (sext : Bool) (n m : Nat) : Word :=
  if sext ∧ 2 ^ (8 * n - 1) ≤ m then w64 ((m : Int) - 2 ^ (8 * n)) else .ofNat 64 m

/-- The queue, base, second operand and element size of an element form, and whether its addresses come from a list (R192). -/
def elemLoadParts : Instr → Option (BitVec 3 × BitVec 5 × BitVec 5 × BitVec 4 × BitVec 3 × Bool)
  | .ldqs q a b tag esz _ => some (q, a, b, tag, esz, false)
  | .ldqx q a b tag esz _ => some (q, a, b, tag, esz, true)
  | _ => none

/-- The elements that an element form names, and whether its layout mode differs from its tile's (R147, R192, R193): from gs1 and the stride, within a tile
that is ready, or from gs1 and a list. -/
def elemPlan (s : State) (base sel : Word) (listed : Bool) (p : ElemPlan) (other : Bool) : Prop :=
  (listed = true ∧ p = .indexed base sel ∧ other = false ∧ s.checkAddr s.who sel 4 4 = none)
  ∨ (listed = false ∧ sel.toNat / 2 ^ 40 = 0 ∧ sel.toNat / 2 ^ 32 % 4 ≠ 3 ∧ other = false
    ∧ p = .strided base (BitVec.signExtend 64 (sel.truncate 32)).toInt)
  ∨ (listed = false ∧ sel.toNat / 2 ^ 40 = 1 ∧ sel.toNat / 2 ^ 32 % 4 ≠ 3 ∧ ∃ off e, hasKind base 3 0 off
    ∧ e = s.core.getEntry (sel.toNat / 2 ^ 34 % 64) ∧ e.state = .ready ∧ other = decide (sel.toNat / 2 ^ 32 % 4 ≠ e.layout)
    ∧ p = .tiled ((off : Int) - e.base) (BitVec.signExtend 64 (sel.truncate 32)).toInt e.base e.pitch e.rows (sel.toNat / 2 ^ 32 % 4))

def elemStoreParts : Instr → Option (BitVec 3 × BitVec 5 × BitVec 5 × BitVec 3 × Bool)
  | .stqs q a b esz => some (q, a, b, esz, false)
  | .stqx q a b esz => some (q, a, b, esz, true)
  | _ => none

end Sys2Proof.Spec

/-- R266, R277: a fence issues at once and joins the fences of its stream, with its scope and its acquire and release sides; nothing else happens. R266,
R267: past a fence with a release side, a store of the stream waits, with no effect, while a store that the stream issued before the fence and whose
location scope is at or below the fence's stands unacknowledged. R277, R315: while a store that a fence of user code covers stands parked, the fence is a
blocking wait: a pending pre-emption stops the stream there. That a fence enters a list and holds later accesses back is the model's reading (log entry 65). -/
def Obligations.FencesOrderAccesses : Prop :=
  (∀ (s : State) (sc : BitVec 3), ReadyA s → sc.toNat ≤ 5 →
     exec (.fence sc) s = .next (Spec.fenced s (s.issued (.fence sc)) true true sc.toNat)
     ∧ exec (.fenceRel sc) s = .next (Spec.fenced s (s.issued (.fenceRel sc)) false true sc.toNat)
     ∧ exec (.fenceAcq sc) s = .next (Spec.fenced s (s.issued (.fenceAcq sc)) true false sc.toNat))
  ∧ (∀ (s t : State) (sc : BitVec 3) (i : Instr) (r : Request) (a b : BitVec 5) (off : BitVec 13) (sz : BitVec 2), ReadyA s → sc.toNat ≤ 5 →
       r ∈ s.core.pending → r.stream = .a → r.id < s.core.nextId → (∀ y ∈ s.core.pending, y.parked = false) →
       (i = .fence sc ∨ i = .fenceRel sc) → exec i s = .next t → t.scopeNow t.core r ≤ sc.toNat →
       exec (.st a b off sz) t = .next (t.waitAt .fence))
  ∧ (∀ (s : State) (f : Fence) (r : Request) (i : Instr) (tk : Task) (a b : BitVec 5) (off : BitVec 13) (sz : BitVec 2), s.core.sel = .a →
       s.canAct = true → s.cur.mode = .user → s.core.task = some tk → tk.movedDue = none → s.cur.flight = [] → s.core.deferred = [] →
       s.cancelling = false → s.core.sys.preReq = true → f ∈ s.cur.fence → f.rel = true → f.mode = .user →
       r ∈ s.core.pending → r.stream = .a → r.parked = true → r.id < f.born → s.scopeNow s.core r ≤ f.scope → (i = .nop ∨ i = .st a b off sz) →
       ∃ t, exec i s = .next t ∧ t.cur.stopped = some .wait ∧ t.cur.fence = s.cur.fence ∧ t.cur.pc = s.cur.pc ∧ t.cur.g = s.cur.g
         ∧ t.pool = s.pool ∧ t.host = s.host)

/-- R278 to R282: where no other request and no other arrival waits for the word, bar and barx make one atomic arrival on the word at gs1, with no units and with those of gn,
and go on. bar.w arrives and goes on, its return an acquire, when its arrival completes the phase; otherwise the arrival stands and it waits, until GEN
differs from the value that its arrival returned, or, once its stream has been stopped there, until that phase lies behind GEN. barw goes on, with an
acquire, once the generation in gg lies behind GEN, and otherwise waits; it never changes the word. An arrival that finds PEND at 0xFFFF waits with no effect. R283 to
R286: dsync arrives in its instance and, as the last to arrive, goes on with GENj of every member one up, of a saved one too, and an acquire; before that it waits with
its arrival recorded. gsync on a gang of one core, and waitp when every producer has triggered, go on with an acquire; trig counts the task's
trigger in its command, and before that waits while engine work of the task, a drain to scratchpad included, is incomplete. The place of the release and the acquire, and that a stopped bar.w keeps its arrival, are the model's readings (log entries 49
and 52). -/
def Obligations.SynchronisationCompletes : Prop :=
  (∀ (s : State) (a n : BitVec 5) (sc : BitVec 3) (cs : List Chunk) (w : Nat), ReadyA s → sc.toNat ≤ 5 → scratchTarget (s.g a) = true →
     Spec.Reaches s .atomic (s.g a) 8 cs → w = bytesNat (s.peekAll cs) → s.logMode s.who = 0 → s.core.pending = [] → s.cur.arrived = none →
     s.atExecutor (executor s.core.pid 0 (.atomic .add 8 0 0) cs) (placeOf cs) = [] →
     (∀ k ∈ s.allCores, k.pid ≠ s.core.pid → k.a.asking = none) →
     (∀ (i : Instr) (units need : Nat), need = (s.g n).toNat % 2 ^ 16 → need ≠ 0 → need ≠ 0xFFFF →
       ((i = .bar a n sc ∧ units = 0) ∨ (i = .barx a n sc ∧ units = (s.g n).toNat / 2 ^ 16 % 2 ^ 16)) →
       (Spec.pend w ≠ 0xFFFF → exec i s = .next (Spec.arrived s (s.issued i) cs (Spec.arrive need units w)))
       ∧ (Spec.pend w = 0xFFFF → exec i s = .next ((Spec.tryPeer (s.updCur (fun st => { st with asking := some (s.g a) })) cs).waitAt .barrier)))
     ∧ (∀ need, need = (s.g n).toNat % 2 ^ 16 → need ≠ 0 → need ≠ 0xFFFF → Spec.pend w ≠ 0xFFFF →
       (Spec.gen (Spec.arrive need 0 w) ≠ Spec.gen w →
         exec (.barW a n sc) s = .next ((Spec.arrived s (s.issued (.barW a n sc)) cs (Spec.arrive need 0 w)).acquire sc.toNat))
       ∧ (Spec.gen (Spec.arrive need 0 w) = Spec.gen w →
         exec (.barW a n sc) s = .next (((Spec.arrived s s cs (Spec.arrive need 0 w)).updCur
           (fun st => { st with arrived := some (s.cur.pc, .ofNat 32 (Spec.gen w), false), asking := none })).waitAt .barrier)))
     ∧ (0 < (BitVec.ofNat 32 (Spec.gen w) - (s.g n).truncate 32).toInt →
         exec (.barw a n sc) s = .next ((Spec.tryPeer (s.issued (.barw a n sc)) cs).countAccess.acquire sc.toNat))
     ∧ ((BitVec.ofNat 32 (Spec.gen w) - (s.g n).truncate 32).toInt ≤ 0 → exec (.barw a n sc) s = .next ((Spec.tryPeer s cs).waitAt .barrier)))
  ∧ (∀ (s : State) (a n : BitVec 5) (sc : BitVec 3) (cs : List Chunk) (gen : BitVec 32) (stopped : Bool), ReadyA s → sc.toNat ≤ 5 →
       scratchTarget (s.g a) = true → Spec.Reaches s .atomic (s.g a) 8 cs → s.core.pending = [] → s.cur.arrived = some (s.cur.pc, gen, stopped) →
       let passed : Prop := if stopped = true then 0 < (BitVec.ofNat 32 (Spec.gen (bytesNat (s.peekAll cs))) - gen).toInt
         else Spec.gen (bytesNat (s.peekAll cs)) ≠ gen.toNat
       (passed → exec (.barW a n sc) s = .next ((Spec.tryPeer (s.issued (.barW a n sc)) cs).acquire sc.toNat))
       ∧ (¬ passed → exec (.barW a n sc) s = .next ((Spec.tryPeer s cs).waitAt .barrier)))
  ∧ (∀ (s : State) (tk : Task) (c : Command), ReadyA s → s.core.task = some tk → tk.kind = .team → s.cmdAt tk.ctx tk.queue tk.seq = some c →
       s.core.pending = [] →
       (∀ (sc : BitVec 3) (level key : Nat), (sc, level) ∈ [((1 : BitVec 3), 1), (2, 2), (3, 3), (5, 4)] → level ≤ s.core.sys.domLevel.toNat →
         key = c.instanceKey level tk.lid → s.cur.dsynced = none →
         ((∀ l, l < c.ntask → c.instanceKey level l = key → l = tk.lid ∨ l ∈ c.arrived level key) →
           (level = 4 → ∀ x ∈ c.domSet, x = s.dev.domNum.toNat ∨ x ∈ (s.ctxAt tk.ctx).remote) →
           ∃ t c1 f, exec (.dsync sc) s = .next t ∧ t.core.sys.domGen = s.core.sys.domGen.setIfInBounds (level - 1) (s.genOf level + 1)
             ∧ t.cores = s.cores.map (fun k => if Spec.inInstance c tk level key k then Spec.genUp level k else k)
             ∧ t.cmdAt tk.ctx tk.queue tk.seq = some c1
             ∧ c1.saved = c.saved.map (fun x => if c.instanceKey level x.lid = key then { x with core := Spec.genUp level x.core } else x)
             ∧ t.cur.pc = s.cur.pc + 4 ∧ t.cur.fence = [f] ∧ f.acq = true ∧ f.rel = false ∧ f.scope = sc.toNat ∧ f.born = s.core.nextId ∧ Spec.KeepsRegisters s t
             ∧ t.core.spad = s.core.spad ∧ t.pool = s.pool ∧ t.host = s.host)
         ∧ (∀ l, l < c.ntask → c.instanceKey level l = key → l ≠ tk.lid → l ∉ c.arrived level key → s.cur.mode = .user → s.core.sys.preReq = false →
             s.cancelling = false → tk.topoDue = false →
           ∃ t c1, exec (.dsync sc) s = .next t ∧ t.cur.wait = some .dsync ∧ t.cur.pc = s.cur.pc
             ∧ t.cmdAt tk.ctx tk.queue tk.seq = some c1 ∧ tk.lid ∈ c1.arrived level key ∧ t.core.sys.domGen = s.core.sys.domGen))
       ∧ (∀ sc : BitVec 3, sc.toNat ≤ 5 → s.core.sys.gangMask = .ofNat 8 (2 ^ (s.core.pid % 8)) →
           exec (.gsync sc) s = .next ((s.issued (.gsync sc)).acquire sc.toNat))
       ∧ ((c.early = false ∨ (c.count = 0 ∧ ∀ p ∈ c.prods, (s.queueAt tk.ctx p.1).producer p.2 = .triggered ∨ (s.queueAt tk.ctx p.1).producer p.2 = .ok)) →
           exec .waitp s = .next ((s.issued .waitp).acquire 3))
       ∧ (s.ownJobs = false →
           exec .trig s = .next (((s.issued .trig).updTask (fun t => { t with triggered := true })).updCmd tk.ctx tk.queue tk.seq
             (fun c => { c with trigs := insertNat tk.lid c.trigs })))
       ∧ (s.ownJobs = true → exec .trig s = .next (s.waitAt (.release 3))))

/-- R280, R281, R149, R195, R283 to R285: an instruction that waits is tried again by the event that can end its wait, exactly as it issues. Which
event comes next is the agenda's choice (log entry 2). -/
def Obligations.WaitsEndByTryingAgain : Prop :=
  ∀ (s s1 : State) (e i : Instr) (w : Wait), s1 = s.onStream .a → s1.cur.wait = some w → s1.fetch = .instr i →
    ((e = .barrierReturn s.core.pid ∧ w = .barrier ∧ ∃ a n sc, i = .bar a n sc ∨ i = .barW a n sc ∨ i = .barx a n sc ∨ i = .barw a n sc)
      ∨ (e = .fullEmptyWake s.core.pid none ∧ w = .fullEmpty ∧ ((∃ a b off, i = .sts a b off) ∨ ∃ q a off, i = .stsq q a off))
      ∨ (e = .tileReadyResume s.core.pid .a ∧ (∃ n, w = .tile n) ∧ ((∃ a b, i = .tdef a b) ∨ (∃ a, i = .twait a ∨ i = .trel a)
          ∨ (∃ q a b tag esz la, i = .ldqs q a b tag esz la) ∨ ∃ q a b esz, i = .stqs q a b esz))
      ∨ (e = .gsyncComplete s.core.pid ∧ w = .gsync ∧ ∃ sc, i = .gsync sc)
      ∨ (e = .waitpReturn s.core.pid ∧ w = .waitp ∧ i = .waitp)
      ∨ (e = .dsyncComplete s.core.pid ∧ w = .dsync ∧ s.core.a.dsynced = none ∧ ∃ sc, i = .dsync sc)) →
    ∃ t, exec i s1 = .next t ∧ exec e s = .next (t.select s.core.pid)

/-- R190, R191, R187, R267: a store whose target is the scratchpad of its own core writes its bytes there at once, and no other byte anywhere; any other
store leaves its core's memory and every other memory as it is and stands in the list of unacknowledged accesses with its bytes. stq takes its bytes
from the oldest entry of its queue, which it pops; one that pops an entry not yet filled has issued and stands incomplete until its data has come (R92).
With 65,535 accesses of the core unacknowledged a store waits. R190, R267, R157: the acknowledgement of a waiting store, once its turn has come, writes its bytes at
its address, all of them, and no other byte, and takes it from the list. One whose target is refused writes nothing, and its trap is kept for the stream's next
instruction (R363). That a store of the own scratchpad acts at its issue, and that a wide store acts whole, are the model's choices (log entries 16
and 17). -/
def Obligations.StoresComplete : Prop :=
  (∀ (i : Instr) (s s0 : State) (addr : Word) (bs : List Byte), ReadyA s →
     ((∃ a b off sz, i = .st a b off sz ∧ addr = w64 ((s.g a).toInt + off.toInt * 2 ^ sz.toNat) ∧ bs = natBytes (s.g b).toNat (2 ^ sz.toNat)
         ∧ s0 = s)
       ∨ (∃ q a off e rest, i = .stq q a off ∧ i.wellFormed = true ∧ addr = w64 ((s.g a).toInt + off.toInt * 64)
         ∧ s.core.getQueue q.toNat = e :: rest ∧ e.filled = true ∧ bs = natBytes e.bits.toNat 64
         ∧ s0 = { s with core := s.core.setQueue q.toNat rest })) →
     s.checkAddr s.who addr bs.length bs.length = none →
     (∀ off, s.locate s.who .store addr bs.length = .ok [.spad s.core.pid off bs.length] → s.core.pending = [] →
       ∃ t, exec i s = .next t ∧ Spec.Past s t i ∧ Spec.KeepsRegisters s t ∧ Spec.KeepsElsewhere s t ∧ t.core.pending = []
         ∧ t.core.queues = s0.core.queues ∧ Memory.read t.core.spad off bs.length = bs
         ∧ ∀ x, x < off ∨ off + bs.length ≤ x → Memory.get t.core.spad x = Memory.get s.core.spad x)
     ∧ (s.ownSpad s.who .store addr bs.length = none → Spec.unacked s < 65535 →
       ∃ t r, exec i s = .next t ∧ Spec.Past s t i ∧ Spec.KeepsRegisters s t ∧ Spec.KeepsElsewhere s t ∧ t.core.spad = s.core.spad
         ∧ t.core.queues = s0.core.queues ∧ t.core.pending = s.core.pending ++ [r] ∧ r.addr = addr ∧ r.kind = .store bs ∧ r.served = false)
     ∧ (s.ownSpad s.who .store addr bs.length = none → 65535 ≤ Spec.unacked s → exec i s = .next (s.waitAt .unit)))
  ∧ (∀ (s : State) (q : BitVec 3) (a : BitVec 5) (off : BitVec 9) (e : QEntry) (rest : List QEntry) (addr : Word), ReadyA s →
       Instr.wellFormed (.stq q a off) = true → addr = w64 ((s.g a).toInt + off.toInt * 64) → s.core.getQueue q.toNat = e :: rest → e.filled = false →
       s.checkAddr s.who addr 64 64 = none → Spec.unacked s < 65535 →
       ∃ t op, exec (.stq q a off) s = .next t ∧ Spec.Past s t (.stq q a off) ∧ Spec.KeepsRegisters s t ∧ Spec.KeepsElsewhere s t
         ∧ t.core.spad = s.core.spad ∧ t.core.getQueue q.toNat = rest ∧ t.cur.flight = [op] ∧ op.work = .storeq e addr
         ∧ exec (.longOpComplete s.core.pid .a 0 1) t = .next t)
  ∧ (∀ (s : State) (r : Request) (bs : List Byte) (cs : List Chunk), s.core.task.isSome = true → (s.core.a.exited && s.core.c.exited) = false →
       s.core.pending = [r] → r.ofTask s.core = true → r.kind = .store bs → r.served = false → r.parked = false → r.stream = .a → r.mode = .user → s.core.a.flight = [] →
       s.dev.poison = [] → s.logMode (r.who s.core) = 0 → Spec.NoLineHeld s →
       (s.locate (r.who s.core) .store r.addr bs.length = .ok cs → s.turnOf (s.core.askOf r 0) cs = true →
         ∃ t, exec (.storeAck s.core.pid 0) s = .next t ∧ t.core = { (s.pokeAll cs bs).core with pending := [] }
           ∧ t.pool = (s.pokeAll cs bs).pool ∧ t.host = (s.pokeAll cs bs).host ∧ t.cores = (s.pokeAll cs bs).cores)
       ∧ (s.locate (r.who s.core) .store r.addr bs.length = .deny →
         ∀ e, (e = .storeRefusal s.core.pid 0 ∨ e = .storeAck s.core.pid 0) →
         ∃ t, exec e s = .next t ∧ t.pool = s.pool ∧ t.host = s.host ∧ t.core.spad = s.core.spad
           ∧ t.core.deferred = s.core.deferred ++ [⟨0x07, r.addr⟩]))

/-- R157, R187: the bytes that a store to a page or to a scratchpad writes are those of its chunks, in order: they are read back there; every other byte
of pooled memory, host memory and every scratchpad reads as before. -/
def Obligations.StoresTouchOnlyTheirBytes : Prop :=
  (∀ (s : State) (cs : List Chunk) (bs : List Byte), (cs.map (fun c => c.span.len)).sum = bs.length →
     (∀ c ∈ cs, (∃ hm pa len o k p l, c = .phys hm pa len o k p l) ∨ (∃ pid off len, c = .spad pid off len)) →
     cs.Pairwise (fun x y => overlap [x.span] [y.span] = false) →
     (s.pokeAll cs bs).peekAll cs = bs)
  ∧ ∀ (s : State) (cs : List Chunk) (bs : List Byte) (x : Nat),
    ((∀ c ∈ cs, ∀ hm pa len o k p l, c = .phys hm pa len o k p l → hm = true ∨ x < pa ∨ pa + len ≤ x) →
      Memory.get (s.pokeAll cs bs).pool x = Memory.get s.pool x)
    ∧ ((∀ c ∈ cs, ∀ hm pa len o k p l, c = .phys hm pa len o k p l → hm = false ∨ x < pa ∨ pa + len ≤ x) →
      Memory.get (s.pokeAll cs bs).host x = Memory.get s.host x)
    ∧ (∀ pid, (∀ c ∈ cs, ∀ off len, c = .spad pid off len → x < off ∨ off + len ≤ x) →
      Memory.get ((s.pokeAll cs bs).coreAt pid).spad x = Memory.get (s.coreAt pid).spad x)

/-- R189, R187: ld and ldz issue when their address passes its checks; with nothing incomplete that they must follow, their LONG_OP_COMPLETE then
writes gd with the bytes at the address, sign- or zero-extended from the access size, and changes no byte of memory. R191, R92: ldq pops nothing and
reserves an entry at the end of its queue with the format of its tag; its LONG_OP_COMPLETE or QUEUE_ENTRY_FILL fills that entry with the 64 bytes at the address,
element 0 lowest. That a load reads at its completion, and whole, is the model's choice (log entries 13 and 17). -/
def Obligations.LoadsComplete : Prop :=
  (∀ (i : Instr) (s : State) (sext : Bool) (d : BitVec 5) (addr : Word) (n : Nat) (cs : List Chunk), ReadyA s →
     Spec.loadParts s i = some (sext, d, addr, n) → Spec.Reaches s .load addr n cs →
     ∃ t, exec i s = .next t ∧ Spec.Past s t i ∧ Spec.KeepsRegisters s t ∧ Spec.KeepsElsewhere s t ∧ t.core.spad = s.core.spad
       ∧ t.cur.flight ≠ [] ∧ t.core.queues = s.core.queues ∧ t.core.pending = s.core.pending
       ∧ (s.core.pending = [] → Spec.NoLineHeld s → Spec.Seen s → s.logMode s.who = 0 →
         ∃ u, exec (.longOpComplete s.core.pid .a 0 1) t = .next u ∧ u.cur.flight = []
           ∧ u.cur.g = (t.cur.setG d.toNat (Spec.loaded sext n (bytesNat (s.peekAll cs)))).g
           ∧ u.core.f = s.core.f ∧ u.core.v = s.core.v ∧ u.core.queues = s.core.queues ∧ u.core.spad = s.core.spad
           ∧ u.pool = s.pool ∧ u.host = s.host))
  ∧ (∀ (s : State) (q : BitVec 3) (a : BitVec 5) (off : BitVec 9) (tag la : BitVec 4) (addr : Word) (cs : List Chunk), ReadyA s → q.toNat ≤ 3 →
       s.q3Closed q = false → addr = w64 ((s.g a).toInt + off.toInt * 64) → (s.core.getQueue q.toNat).length < 16 → Spec.Reaches s .load addr 64 cs →
       ∃ t e, exec (.ldq q a off tag la) s = .next t ∧ Spec.Past s t (.ldq q a off tag la) ∧ Spec.KeepsRegisters s t ∧ Spec.KeepsElsewhere s t
         ∧ t.core.getQueue q.toNat = s.core.getQueue q.toNat ++ [e] ∧ e.filled = false ∧ e.fmt = s.loadFmt tag ∧ e.id = s.core.nextId
         ∧ (s.core.pending = [] → Spec.NoLineHeld s → Spec.Seen s → s.logMode s.who = 0 →
           (∀ p, ∀ y ∈ s.core.getQueue p, y.id < s.core.nextId) → isBe tag.toNat = false →
           ∀ ev, (ev = .longOpComplete s.core.pid .a 0 1 ∨ ev = .queueEntryFill s.core.pid 0) →
           ∃ u, exec ev t = .next u ∧ u.cur.flight = [] ∧ u.cur.g = s.cur.g
             ∧ u.core.getQueue q.toNat = s.core.getQueue q.toNat ++ [{ e with filled := true, bits := .ofNat 512 (bytesNat (s.peekAll cs)) }]
             ∧ u.pool = s.pool ∧ u.host = s.host ∧ u.core.spad = s.core.spad))

/-- R192 to R194: ldqs and ldqx issue by reserving an entry of their queue, counting a layout mode that differs from the tile's (R147); each move then
loads the element at its index; the last of the 64 / size elements fills the entry. R192 to R194: stqs and stqx issue by popping an entry of their
queue; once its data is there, each move stores the element at its index, and no other byte; the last of the 64 / size elements completes the instruction.
An indexed form takes a word of its list as it has read it, ahead of the element or with it: that it reads ahead is the model's choice (log entry 95). -/
def Obligations.ElementAccessesComplete : Prop :=
  ((∀ (i : Instr) (s : State) (q : BitVec 3) (a b : BitVec 5) (tag : BitVec 4) (esz : BitVec 3) (listed other : Bool) (p : ElemPlan), ReadyA s →
     Spec.elemLoadParts i = some (q, a, b, tag, esz, listed) → i.wellFormed = true → s.q3Closed q = false →
     (s.core.getQueue q.toNat).length < 16 → Spec.elemPlan s (s.g a) (s.g b) listed p other →
     ∃ t e op, exec i s = .next t ∧ t.cur.pc = s.cur.pc + 4 ∧ Spec.KeepsRegisters s t ∧ Spec.KeepsElsewhere s t ∧ t.core.spad = s.core.spad
       ∧ t.core.sys.cntLayout = s.core.sys.cntLayout + (if other then 1 else 0)
       ∧ t.core.getQueue q.toNat = s.core.getQueue q.toNat ++ [e] ∧ e.filled = false ∧ e.fmt = s.loadFmt tag
       ∧ t.cur.flight = [op] ∧ op.prog = 0 ∧ op.work = .ldElems e.id p (2 ^ esz.toNat) 0)
   ∧ (∀ (s : State) (op : LongOp) (e : Nat) (p : ElemPlan) (size : Nat) (acc acc1 : BitVec 512) (addr : Word) (cs : List Chunk),
     s.core.task.isSome = true → s.core.a.exited = false → s.core.freezes op = false → s.core.pending = [] → s.core.a.flight = [op] →
     op.status = .running → op.work = .ldElems e p size acc → s.elemNow (s.core.opWho op) op p op.prog = .addr addr →
     s.checkAddr (s.core.opWho op) addr size size = none → s.locate (s.core.opWho op) .load addr size = .ok cs → s.dev.poison = [] →
     Spec.NoLineHeld s → (∀ o ∈ s.core.c.flight, op.seen ≤ o.id) → s.logMode (s.core.opWho op) = 0 → peerChunk cs = false →
     acc1 = .ofNat 512 (acc.toNat + bytesNat (s.peekAll cs) * 2 ^ (8 * size * op.prog)) →
     ∃ t, exec (.longOpComplete s.core.pid .a 0 1) s = .next t ∧ t.core.a.g = s.core.a.g ∧ t.pool = s.pool ∧ t.host = s.host
       ∧ t.core.spad = s.core.spad
       ∧ (op.prog + 1 < 64 / size → t.core.queues = s.core.queues
         ∧ ∃ l, t.core.a.flight = [{ op with prog := op.prog + 1, born := s.dev.cycle.toNat, work := .ldElems e p size acc1, list := l }])
       ∧ (64 / size ≤ op.prog + 1 → isBe (tagOf (s.core.entryFmt e)) = false → t.core.a.flight = []
         ∧ ∀ q, t.core.getQueue q = (s.core.getQueue q).map (fun x => if x.id = e then { x with filled := true, bits := acc1 } else x))))
  ∧ ((∀ (i : Instr) (s : State) (q : BitVec 3) (a b : BitVec 5) (esz : BitVec 3) (listed other : Bool) (p : ElemPlan) (e : QEntry)
         (rest : List QEntry), ReadyA s →
       Spec.elemStoreParts i = some (q, a, b, esz, listed) → i.wellFormed = true → s.core.getQueue q.toNat = e :: rest →
       Spec.unacked s + 64 / 2 ^ esz.toNat ≤ 65535 →
       Spec.elemPlan s (s.g a) (s.g b) listed p other →
       ∃ t op, exec i s = .next t ∧ t.cur.pc = s.cur.pc + 4 ∧ Spec.KeepsRegisters s t ∧ Spec.KeepsElsewhere s t ∧ t.core.spad = s.core.spad
         ∧ t.core.sys.cntLayout = s.core.sys.cntLayout + (if other then 1 else 0)
         ∧ t.core.getQueue q.toNat = rest ∧ t.cur.flight = [op] ∧ op.prog = 0 ∧ op.work = .stElems e p (2 ^ esz.toNat))
     ∧ (∀ (s : State) (op : LongOp) (e : QEntry) (p : ElemPlan) (size : Nat) (addr : Word) (cs : List Chunk) (bs : List Byte),
       s.core.task.isSome = true → s.core.a.exited = false → s.core.freezes op = false → s.core.pending = [] → s.core.a.flight = [op] →
       Spec.NoLineHeld s → (∀ o ∈ s.core.c.flight, op.seen ≤ o.id) → e.filled = true →
       op.status = .running → op.work = .stElems e p size → s.elemNow (s.core.opWho op) op p op.prog = .addr addr →
       s.checkAddr (s.core.opWho op) addr size size = none → s.locate (s.core.opWho op) .store addr size = .ok cs → s.dev.poison = [] →
       s.logMode (s.core.opWho op) = 0 → (∀ x, s.atExecutor x (placeOf cs) = []) → bs = ((natBytes e.bits.toNat 64).drop (size * op.prog)).take size →
       ∃ t, exec (.longOpComplete s.core.pid .a 0 1) s = .next t
         ∧ t.pool = (s.pokeAll cs bs).pool ∧ t.host = (s.pokeAll cs bs).host ∧ t.core.spad = (s.pokeAll cs bs).core.spad
         ∧ t.core.queues = s.core.queues
         ∧ (op.prog + 1 < 64 / size → ∃ l, t.core.a.flight = [{ op with prog := op.prog + 1, born := s.dev.cycle.toNat, list := l }])
         ∧ (64 / size ≤ op.prog + 1 → t.core.a.flight = [])))

/-- R195, R196: sts and stsq store at once where every full/empty bit of their words is clear, and set those bits; otherwise they wait, sts with no effect and
stsq with the entry that it has popped.
lds and ldsq issue, and take their words once every bit is set, clearing the bits; ldsq fills its reserved entry. R198, R270: an atomic issues: with
return it stands incomplete, without it it joins the unacknowledged accesses. Serving it, at the home slice or at the cluster engine, reads the
value at the address and writes the operation's result there in one step, and no other byte; with return gd takes the old value, sign-extended from
the width; a cluster engine then holds the line (R199). That lds and ldsq wait as incomplete instructions is the model's reading (log entry 14). -/
def Obligations.AtomicAccessesComplete : Prop :=
  (∀ (s : State) (addr : Word) (off : Nat), ReadyA s → s.core.pending = [] → s.logMode s.who = 0 → addr = .ofNat 64 (0xFFF0000000000000 + off) →
     (∀ (i : Instr) (bs : List Byte), off + bs.length ≤ 0x60000 → off % bs.length = 0 →
       ((∃ a b o, i = .sts a b o ∧ addr = w64 ((s.g a).toInt + o.toInt * 8) ∧ bs = natBytes (s.g b).toNat 8)
         ∨ (∃ q a o e rest, i = .stsq q a o ∧ 4 ≤ q.toNat ∧ addr = w64 ((s.g a).toInt + o.toInt * 64)
           ∧ s.core.getQueue q.toNat = e :: rest ∧ e.filled = true ∧ s.core.a.taken = none ∧ bs = natBytes e.bits.toNat 64)) →
       ((∀ k, k < bs.length / 8 → s.core.isFull (off / 8 + k) = false) →
         ∃ t, exec i s = .next t ∧ Spec.Past s t i ∧ Spec.KeepsRegisters s t ∧ Spec.KeepsElsewhere s t
           ∧ Memory.read t.core.spad off bs.length = bs ∧ (∀ k, k < bs.length / 8 → t.core.isFull (off / 8 + k) = true)
           ∧ (∀ x, x < off ∨ off + bs.length ≤ x → Memory.get t.core.spad x = Memory.get s.core.spad x)
           ∧ ∀ x, x < off / 8 ∨ off / 8 + bs.length / 8 ≤ x → t.core.isFull x = s.core.isFull x)
       ∧ ((∃ k, k < bs.length / 8 ∧ s.core.isFull (off / 8 + k) = true) →
         (∀ a b o, i = .sts a b o → exec i s = .next (s.waitAt .fullEmpty))
         ∧ (∀ q a o e rest, i = .stsq q a o → s.core.getQueue q.toNat = e :: rest →
             exec i s = .next ((s.keepTaken q.toNat e).waitAt .fullEmpty)
             ∧ (s.keepTaken q.toNat e).core.getQueue q.toNat = rest ∧ (s.keepTaken q.toNat e).core.a.taken = some (q.toNat, e))))
     ∧ (∀ (d a : BitVec 5) (o : BitVec 9) (la : BitVec 4), addr = w64 ((s.g a).toInt + o.toInt * 8) → off + 8 ≤ 0x60000 → off % 8 = 0 →
       s.core.isFull (off / 8) = true → Spec.Seen s →
       ∃ t u, exec (.lds d a o la) s = .next t ∧ Spec.KeepsRegisters s t ∧ Spec.KeepsElsewhere s t ∧ t.core.spad = s.core.spad
         ∧ exec (.fullEmptyWake s.core.pid (some 0)) t = .next u ∧ u.cur.flight = []
         ∧ u.cur.g = (t.cur.setG d.toNat (.ofNat 64 (bytesNat (Memory.read s.core.spad off 8)))).g
         ∧ u.core.isFull (off / 8) = false ∧ u.core.spad = s.core.spad ∧ u.pool = s.pool ∧ u.host = s.host)
     ∧ (∀ (q : BitVec 3) (a : BitVec 5) (o : BitVec 5) (tag la : BitVec 4), addr = w64 ((s.g a).toInt + o.toInt * 64) → q.toNat ≤ 3 →
       s.q3Closed q = false → (s.core.getQueue q.toNat).length < 16 → off + 64 ≤ 0x60000 → off % 64 = 0 →
       ∃ t e, exec (.ldsq q a o tag la) s = .next t ∧ Spec.Past s t (.ldsq q a o tag la) ∧ Spec.KeepsRegisters s t ∧ Spec.KeepsElsewhere s t
         ∧ t.core.spad = s.core.spad ∧ t.core.full = s.core.full ∧ t.core.getQueue q.toNat = s.core.getQueue q.toNat ++ [e]
         ∧ e.filled = false ∧ e.fmt = s.loadFmt tag ∧ e.id = s.core.nextId ∧ t.cur.flight ≠ []
         ∧ ((∀ k, k < 8 → s.core.isFull (off / 8 + k) = true) → Spec.Seen s → (∀ p, ∀ y ∈ s.core.getQueue p, y.id < s.core.nextId) →
           isBe tag.toNat = false →
           ∃ u, exec (.fullEmptyWake s.core.pid (some 0)) t = .next u ∧ u.cur.flight = [] ∧ u.core.spad = s.core.spad
             ∧ u.core.getQueue q.toNat
                 = s.core.getQueue q.toNat ++ [{ e with filled := true, bits := .ofNat 512 (bytesNat (Memory.read s.core.spad off 64)) }]
             ∧ ∀ k, k < 8 → u.core.isFull (off / 8 + k) = false)))
  ∧ (∀ (i : Instr) (s : State) (op : AtomicOp) (d a b : BitVec 5) (w rt : BitVec 1) (sc : BitVec 3) (n m : Nat) (cs : List Chunk), ReadyA s →
       Spec.atomicParts i = some (op, d, a, b, w, rt, sc) → i.wellFormed = true → n = (if w = 1 then 8 else 4) →
       s.checkAtomic (s.g a) n = none → s.locate s.who .atomic (s.g a) n = .ok cs → m = bytesNat (s.peekAll cs) → s.core.pending = [] →
       ∃ t, exec i s = .next t ∧ Spec.Past s t i ∧ Spec.KeepsRegisters s t ∧ Spec.KeepsElsewhere s t ∧ t.core.spad = s.core.spad
         ∧ t.core.queues = s.core.queues
         ∧ ∀ e ref p, ((rt = 1 ∧ ref = .op 0) ∨ (rt = 0 ∧ ref = .pending 0)) → s.logMode s.who = 0 → s.cores = [] → Spec.NoLineHeld s →
           ((e = .homeSliceServe s.core.pid ref ∧ ∀ c, executor s.core.pid sc.toNat (.atomic op n 0 0) cs ≠ .engine c)
             ∨ (e = .clusterAtomicServe s.core.pid ref ∧ ∃ c, executor s.core.pid sc.toNat (.atomic op n 0 0) cs = .engine c)) →
           p = (match Spec.atomicValue op n m ((s.g b).toNat % 2 ^ (8 * n)) ((s.g d).toNat % 2 ^ (8 * n)) with
             | some r => s.pokeAll cs (natBytes r n)
             | none => s) →
           ∃ u, exec e t = .next u ∧ u.pool = p.pool ∧ u.host = p.host ∧ u.core.spad = p.core.spad
             ∧ u.core.f = s.core.f ∧ u.core.v = s.core.v
             ∧ (rt = 1 → u.cur.flight = [] ∧ u.cur.g = (t.cur.setG d.toNat (w64 (patInt m (8 * n)))).g)
             ∧ (rt = 0 → u.cur.g = s.cur.g)
             ∧ (∀ c, executor s.core.pid sc.toNat (.atomic op n 0 0) cs = .engine c → (placeOf cs).1 ≤ 1 → placeOf cs ∈ (u.clusterAt c).hot))

/-- R146 to R149, R200: tdef defines a tile that no job uses, tstat reads the low 64 bits of an entry, and twait and trel go on once the tile is ready;
trel empties it, and either traps with cause 0x0B on an empty tile. -/
def Obligations.TileInstructionsComplete : Prop :=
  ∀ (s : State) (a b d : BitVec 5), ReadyA s →
    (∀ e tid, tdefEntry (s.g a).toNat (s.g b).toNat = some e → tid = (s.g a).toNat / 2 ^ 8 % 64 →
      ((s.core.getEntry tid).state = .empty ∨ (s.core.getEntry tid).state = .ready) →
      exec (.tdef a b) s = .next { (s.issued (.tdef a b)) with core := (s.issued (.tdef a b)).core.setEntry tid e }
      ∧ e.state = .ready ∧ e.base = (s.g a).toNat / 2 ^ 16 % 2 ^ 19 ∧ e.layout = (s.g a).toNat / 4 % 4 ∧ e.rows = (s.g b).toNat % 2 ^ 16
      ∧ e.pitch = (s.g b).toNat / 2 ^ 16 % 2 ^ 16 ∧ e.rowBytes = (s.g b).toNat / 2 ^ 32 % 2 ^ 16)
    ∧ exec (.tstat d a) s
        = .next ((s.issued (.tstat d a)).setG d (.ofNat 64 (s.core.getEntry ((s.g a).toNat % 64)).low))
    ∧ ((s.core.getEntry ((s.g a).toNat % 64)).state = .ready →
      exec (.twait a) s = .next (s.issued (.twait a))
      ∧ ∃ t, exec (.trel a) s = .next t ∧ Spec.Past s t (.trel a) ∧ Spec.KeepsRegisters s t ∧ Spec.KeepsElsewhere s t ∧ t.core.spad = s.core.spad
        ∧ (t.core.getEntry ((s.g a).toNat % 64)).state = .empty
        ∧ ∀ k, k < 64 → k ≠ (s.g a).toNat % 64 → t.core.getEntry k = s.core.getEntry k)
    ∧ ((s.core.getEntry ((s.g a).toNat % 64)).state = .empty → s.cur.mode = .user → ∀ i, (i = .twait a ∨ i = .trel a) →
      ∃ t, exec i s = .next t ∧ Spec.Trapped s t 0x0B (.ofNat 64 ((s.g a).toNat % 64)))

/-- R201, R202: cpset writes a shadow register. cpgo accepts a job of the shadows, answering its transfer id, where every check passes and the unit
has room, answers all ones where the unit is full, and waits while a job of its transfer id is outstanding. cpwait goes on, and cpprobe answers zero, when no outstanding job has the id. The order of the
last checks of cpgo is the model's reading (log entry 51). -/
def Obligations.CopyInstructionsComplete : Prop :=
  ∀ (s : State) (a d : BitVec 5) (k : BitVec 3) (c : CopyReq), ReadyA s → c = copyReq s.core.shadows →
    exec (.cpset a k) s = .next { (s.issued (.cpset a k)) with core := { (s.issued (.cpset a k)).core with
        shadows := s.core.shadows.setIfInBounds k.toNat (s.g a) } }
    ∧ (c.badField = none → c.badAddress s = none → c.badTile s.core = none →
      (c.ste = true → (s.core.getEntry c.stid).state ≠ .empty ∧ (s.core.getEntry c.stid).jobs < 255) →
      (c.kind = 2 → (s.core.getEntry c.dtid).state ≠ .empty ∧ (s.core.getEntry c.dtid).jobs < 255) →
      (∀ tk, s.core.task = some tk → (s.clusterAt s.core.cluster).jobs.length < Config.copyJobs → s.xferJob tk.nextJob = none →
        ∃ t j, exec (.cpgo d) s = .next t ∧ t.cur.g = (s.cur.setG d.toNat (.ofNat 64 tk.nextJob)).g
          ∧ (t.clusterAt s.core.cluster).jobs = (s.clusterAt s.core.cluster).jobs ++ [j]
          ∧ j.id = tk.nextJob ∧ j.shadows = s.core.shadows ∧ j.state = .queued ∧ j.next = 0
          ∧ t.core.task.map (·.nextJob) = some (if tk.nextJob = 0xFFFE then 0 else tk.nextJob + 1)
          ∧ (c.ste = true → (t.core.getEntry c.stid).busy = true) ∧ (c.kind = 2 → (t.core.getEntry c.dtid).busy = true)
          ∧ t.pool = s.pool ∧ t.host = s.host ∧ t.core.spad = s.core.spad ∧ t.core.f = s.core.f ∧ t.core.v = s.core.v)
      ∧ (∀ tk, s.core.task = some tk → (s.clusterAt s.core.cluster).jobs.length < Config.copyJobs → s.xferJob tk.nextJob ≠ none →
        exec (.cpgo d) s = .next (s.waitAt .xfer))
      ∧ (Config.copyJobs ≤ (s.clusterAt s.core.cluster).jobs.length →
        exec (.cpgo d) s = .next ((s.issued (.cpgo d)).setG d (.ofNat 64 (2 ^ 64 - 1)))))
    ∧ (s.xferJob ((s.g a).toNat % 2 ^ 16) = none →
      exec (.cpwait a) s = .next (s.issued (.cpwait a))
      ∧ exec (.cpprobe d a) s = .next ((s.issued (.cpprobe d a)).setG d 0))
    ∧ (∀ j, s.xferJob ((s.g a).toNat % 2 ^ 16) = some j → j.state = .queued → j.next = 0 →
      exec (.cpwait a) s = .next (s.waitAt .cpwait)
      ∧ exec (.cpprobe d a) s = .next ((s.issued (.cpprobe d a)).setG d 1))

/-! ### Levels of update tasks (spec/04_time_levels.md, spec/15_sync_instructions.md R287 to R295, spec/21_system_instructions.md R332) -/

/-- R288 to R293: lvget gives the address and the level of a valid history entry, lvnbr the id and the known level of a neighbour; an index outside them
traps with cause 0x0C, reason 3. lvread of a level in the neighbour's history pushes a marker on q3 and delivers its slot; one between two entries
pushes the interpolation and calls the A-entry with the two slots and the fraction in gd to gd + 3. lvtake pops a marker and goes on, or calls the
C-entry with the fraction, rounded to fp32, in f0; an entry at an odd address traps with cause 0x05 instead, as a jump there does (log entry 87, the
model's choice). lvret leaves the entry to the address in g31. R294, R295, R72, R63, R68: lvstep writes NEXT of the
task's block. lvcommit, with the task's accesses released, engine work included, no frozen block and a spread below 2^31, commits: the level rises by the
step, the new slot becomes the newest history entry and the older ones below the history depth move down, STEP takes NEXT, and the block's own home unit
knows the level (log entry 53); it waits for engine work and in a frozen block, and a larger spread traps with cause 0x0D and no effect. R79, R332: lvthaw in supervisor mode thaws a frozen block of the task's front, answering 1 while another stays frozen and 0 once
none is, when the front itself is no longer frozen; it answers all ones for a block that the front does not have, and then changes nothing else. That
lvread looks up at its issue is the model's reading (log entry 50). -/
def Obligations.LevelInstructionsComplete : Prop :=
  (∀ (s : State) (f : Front) (b : Nat) (d a c : BitVec 5), Ready s → s.isUpdate = true → s.taskFront = some (f, b) → d.toNat < 31 → d ≠ 0 →
     (s.core.sel = .a →
       (∀ l addr, (s.g a).toNat < (f.block b).hdepth → (f.block b).valid.getLsbD (s.g a).toNat = true →
         (f.block b).rlev[(s.g a).toNat]? = some l → (f.block b).raddr[(s.g a).toNat]? = some addr →
         exec (.lvget d a) s = .next (((s.issued (.lvget d a)).setG d addr).setG (d + 1) (l.zeroExtend 64)))
       ∧ (∀ n, (s.g a).toNat < (f.block b).nnbr → (f.block b).nbr[(s.g a).toNat]? = some n →
         exec (.lvnbr d a) s = .next (((s.issued (.lvnbr d a)).setG d (n.zeroExtend 64)).setG (d + 1)
           ((f.knownAt (f.block b).home n.toNat).zeroExtend 64)))
       ∧ (s.cur.mode = .user → ∀ i : Instr,
           ((i = .lvget d a ∧ ((f.block b).hdepth ≤ (s.g a).toNat ∨ (f.block b).valid.getLsbD (s.g a).toNat = false))
             ∨ (i = .lvnbr d a ∧ (f.block b).nnbr ≤ (s.g a).toNat)) →
           ∃ t, exec i s = .next t ∧ t.core.sys.trapCause = 0x0C
             ∧ t.core.sys.trapVal = .ofNat 64 (3 * 2 ^ 8 + (s.g a).toNat % 2 ^ 8) ∧ t.cur.g = s.cur.g)
       ∧ (∀ la, s.cur.interp = false → d.toNat ≤ 27 → (s.core.getQueue 3).length < 16 →
         (∀ slot, f.lookup b (s.g a).toNat ((s.g c).truncate 32) = .exact slot →
           ∃ t u e, exec (.lvread d a c la) s = .next t ∧ t.cur.g = s.cur.g ∧ t.cur.pc = s.cur.pc + 4
             ∧ t.core.getQueue 3 = s.core.getQueue 3 ++ [e] ∧ e.filled = true ∧ e.bits = 0xFFFFFFFF
             ∧ exec (.longOpComplete s.core.pid .a 0 1) t = .next u ∧ u.cur.g = (s.cur.setG d.toNat slot).g)
         ∧ (∀ ix lo hi num den ea ec, f.lookup b (s.g a).toNat ((s.g c).truncate 32) = .between ix lo hi num den → f.interp[ix]? = some (ea, ec) →
          (ea.toNat % 2 = 1 → s.cur.mode = .user → ∃ t, exec (.lvread d a c la) s = .next t ∧ Spec.Trapped s t 0x05 ea)
          ∧ (ea.toNat % 2 = 0 →
           ∃ t e, exec (.lvread d a c la) s = .next t ∧ t.core.getQueue 3 = s.core.getQueue 3 ++ [e] ∧ e.filled = true
             ∧ e.bits = .ofNat 512 (ix + num * 2 ^ 32 + den * 2 ^ 64) ∧ t.cur.pc = ea ∧ t.cur.interp = true
             ∧ t.cur.g = (((((s.cur.setG d.toNat lo).setG (d + 1).toNat hi).setG (d + 2).toNat (.ofNat 64 num)).setG (d + 3).toNat
                 (.ofNat 64 den)).setG 31 (s.cur.pc + 4)).g))))
     ∧ (s.core.sel = .c → s.cur.interp = false → s.cur.drain = none → ∀ e rest, s.core.getQueue 3 = e :: rest → e.filled = true →
         (e.bits.toNat % 2 ^ 32 = 0xFFFFFFFF →
           ∃ t, exec .lvtake s = .next t ∧ t.core.getQueue 3 = rest ∧ t.cur.pc = (s.issued .lvtake).cur.pc ∧ t.cur.interp = false
             ∧ Spec.KeepsRegisters s t ∧ t.core.spad = s.core.spad ∧ t.pool = s.pool ∧ t.host = s.host)
         ∧ (e.bits.toNat % 2 ^ 32 ≠ 0xFFFFFFFF → ∀ ea ec, f.interp[e.bits.toNat % 2 ^ 32]? = some (ea, ec) →
          (ec.toNat % 2 = 1 → s.cur.mode = .user → ∃ t, exec .lvtake s = .next t ∧ Spec.Trapped s t 0x05 ec ∧ t.core.getQueue 3 = s.core.getQueue 3)
          ∧ (ec.toNat % 2 = 0 →
           ∃ t, exec .lvtake s = .next t ∧ t.core.getQueue 3 = rest ∧ t.cur.pc = ec ∧ t.cur.interp = true
             ∧ t.cur.g = (s.cur.setG 31 (s.cur.pc + 4)).g
             ∧ t.core.getF 0 = ⟨.ofNat 64 (deliverIeee .fp32 0 false
                 (.fin false (e.bits.toNat / 2 ^ 32 % 2 ^ 32) (e.bits.toNat / 2 ^ 64 % 2 ^ 32))).1, mkFmt 6 0⟩
             ∧ (∀ k, k ≠ 0 → t.core.getF k = s.core.getF k) ∧ t.core.v = s.core.v ∧ t.core.tiles = s.core.tiles)))
     ∧ (s.cur.interp = true → s.cur.drain = none → (s.g 31).toNat % 2 = 0 →
         exec .lvret s = .next (((s.issued .lvret).updCur (fun st => { st with interp := false })).setPc (s.g 31))))
  ∧ ((∀ (s : State) (tk : Task) (f : Front) (b : Nat) (x : Block) (a : BitVec 5), ReadyA s → s.isUpdate = true → s.core.task = some tk →
        s.taskFront = some (f, b) → f.blocks[b]? = some x → tk.committed = false →
        (∀ v : Nat, v = (s.g a).toNat → 0 < v → v < 2 ^ 16 →
          ∃ t f1, exec (.lvstep a) s = .next t ∧ t.taskFront = some (f1, b) ∧ f1.block b = { x with next := .ofNat 16 v }
            ∧ Spec.KeepsRegisters s t ∧ t.pool = s.pool ∧ t.host = s.host ∧ ∀ k, k ≠ b → f1.block k = f.block k)
        ∧ (s.core.pending = [] → s.ownJobs = false → x.state = .frozen → exec .lvcommit s = .next (s.waitAt .frozen))
        ∧ (s.ownJobs = true → exec .lvcommit s = .next (s.waitAt (.release 3)))
        ∧ (s.core.pending = [] → s.ownJobs = false → x.state ≠ .frozen →
          (f.spreadWith b tk.step.toNat < 2 ^ 31 →
            ∃ t f1 y, exec .lvcommit s = .next t ∧ t.taskFront = some (f1, b) ∧ f1.blocks[b]? = some y
              ∧ y.level = x.level + tk.step.zeroExtend 32 ∧ y.step = x.next
              ∧ (∀ k, k < 4 → y.rlev[k]? = (if k = 0 then some y.level else if k < x.hdepth then x.rlev[k - 1]? else x.rlev[k]?)
                ∧ y.raddr[k]? = (if k = 0 then some x.newSlot else if k < x.hdepth then x.raddr[k - 1]? else x.raddr[k]?)
                ∧ y.valid.getLsbD k = (decide (k < x.hdepth) && (k == 0 || x.valid.getLsbD (k - 1))))
              ∧ (∀ m l, f.known[x.home]? = some m → m[b]? = some l → f1.knownAt x.home b = y.level)
              ∧ (∀ k, k ≠ b → f1.block k = f.block k) ∧ t.core.task.map (·.committed) = some true
              ∧ Spec.KeepsRegisters s t ∧ t.pool = s.pool ∧ t.host = s.host)
          ∧ (2 ^ 31 ≤ f.spreadWith b tk.step.toNat → s.cur.mode = .user →
            ∃ t, exec .lvcommit s = .next t ∧ Spec.Trapped s t 0x0D ((x.level + tk.step.zeroExtend 32).zeroExtend 64))))
     ∧ (∀ (s : State) (f : Front) (b : Nat) (d a : BitVec 5), Ready s → s.cur.mode = .sup → s.taskFront = some (f, b) →
          (f.blocks.length ≤ (s.g a).toNat % 2 ^ 16 →
            exec (.lvthaw d a) s = .next ((s.issued (.lvthaw d a)).setG d (.ofNat 64 (2 ^ 64 - 1))))
          ∧ (∀ x, f.blocks[(s.g a).toNat % 2 ^ 16]? = some x → x.state = .frozen → x.core = none → sdiff x.level f.target < 0 →
            ∃ t f1 y, exec (.lvthaw d a) s = .next t ∧ t.taskFront = some (f1, b) ∧ f1.blocks[(s.g a).toNat % 2 ^ 16]? = some y ∧ y.state = .idle
              ∧ ((∃ k z, k ≠ (s.g a).toNat % 2 ^ 16 ∧ f.blocks[k]? = some z ∧ z.state = .frozen) →
                f1.frozen = f.frozen ∧ t.cur.g = (s.cur.setG d.toNat 1).g)
              ∧ ((∀ k z, k ≠ (s.g a).toNat % 2 ^ 16 → f.blocks[k]? = some z → z.state ≠ .frozen) →
                f1.frozen = false ∧ f1.freezer = none ∧ t.cur.g = (s.cur.setG d.toNat 0).g))))

/-! ### Vector instructions (spec/11_vector_instructions.md, spec/05_fetch_and_issue.md R90 to R99) -/

namespace Sys2Proof.Spec

/-- Sources read in their order (R90, R91): a register as it stands, or the oldest entry of q0 to q3, which is popped; `there` says whether every
popped entry is filled (R92). -/
def Taken (s : State) : List (BitVec 5) → State → List VReg → Bool → Prop
  | [], s1, xs, there => s1 = s ∧ xs = [] ∧ there = true
  | n :: ns, s1, xs, there =>
    (n.toNat < 24 ∧ ∃ rest, xs = s.core.getV n.toNat :: rest ∧ Taken s ns s1 rest there)
    ∨ (24 ≤ n.toNat ∧ ∃ e es rest more, s.core.getQueue (n.toNat - 24) = e :: es ∧ xs = ⟨e.bits, e.fmt⟩ :: rest ∧ there = (e.filled && more)
        ∧ Taken { s with core := (s.core.setQueue (n.toNat - 24) es).saw s.core.sel [e] } ns s1 rest more)

/-- The sources are taken, and all of them are there. -/
def Sources (s : State) (ns : List (BitVec 5)) (s1 : State) (xs : List VReg) : Prop := Taken s ns s1 xs true

/-- A vector instruction that computes lane by lane: its sources, destination, mask fields, whether it is long-latency, the format word of its result
for the format words of its sources (none: cause 0x04), and lane l of its result with its flags and counts. -/
structure LaneOp where
  srcs : List (BitVec 5)
  dst  : BitVec 5
  k    : BitVec 2
  pol  : BitVec 1
  me   : BitVec 1
  long : Bool
  fmt  : List (BitVec 16) → Option (BitVec 16)
  lane : List VReg → Nat → Nat × Eff

/-- Lane l of source j in the layout of that source's tag. -/
def at_ (xs : List VReg) (j l : Nat) : Nat :=
  match xs[j]? with
  | some r => laneOf (tagOf r.fmt) r.bits.toNat l
  | none => 0

/-- The format word of source j. -/
def fm (xs : List VReg) (j : Nat) : BitVec 16 := ((xs[j]?).map (·.fmt)).getD 0

/-- The 512 bits of source j. -/
def bitsOf (xs : List VReg) (j : Nat) : BitVec 512 := ((xs[j]?).map (·.bits)).getD 0

/-- The lane by lane instructions of R206 to R211, R213 to R216, R220 and R221. -/
def laneOp (s : State) : Instr → Option LaneOp
  | .vadd d a b k pol me => some ⟨[a, b], d, k, pol, me, false, pairFmt arithTag true,
      fun xs l => addLane s.modes (fm xs 0) false (at_ xs 0 l) (at_ xs 1 l)⟩
  | .vaddH d a m => some ⟨[d, a], d, 0, 0, m, false, pairFmt arithTag true, fun xs l => addLane s.modes (fm xs 0) false (at_ xs 0 l) (at_ xs 1 l)⟩
  | .vsub d a b k pol me => some ⟨[a, b], d, k, pol, me, false, pairFmt arithTag true,
      fun xs l => addLane s.modes (fm xs 0) true (at_ xs 0 l) (at_ xs 1 l)⟩
  | .vsubH d a m => some ⟨[d, a], d, 0, 0, m, false, pairFmt arithTag true, fun xs l => addLane s.modes (fm xs 0) true (at_ xs 0 l) (at_ xs 1 l)⟩
  | .vrsub d a m => some ⟨[a, d], d, 0, 0, m, false, pairFmt arithTag true, fun xs l => addLane s.modes (fm xs 0) true (at_ xs 0 l) (at_ xs 1 l)⟩
  | .vneg d a m => some ⟨[a], d, 0, 0, m, false, oneFmt arithTag, fun xs l => negLane s.modes (fm xs 0) (at_ xs 0 l)⟩
  | .vmul d a b k pol me => some ⟨[a, b], d, k, pol, me, false, mulFmt,
      fun xs l => mulLane s.modes (fm xs 0) (fm xs 1) (at_ xs 0 l) (at_ xs 1 l)⟩
  | .vmulH d a m => some ⟨[d, a], d, 0, 0, m, false, mulFmt, fun xs l => mulLane s.modes (fm xs 0) (fm xs 1) (at_ xs 0 l) (at_ xs 1 l)⟩
  | .vfma d a b k pol me => some ⟨[a, b, d], d, k, pol, me, false, tripleFmt isIeee,
      fun xs l => fmaLane s.modes (tagOf (fm xs 0)) false (at_ xs 0 l) (at_ xs 1 l) (at_ xs 2 l)⟩
  | .vfms d a b k pol me => some ⟨[a, b, d], d, k, pol, me, false, tripleFmt isIeee,
      fun xs l => fmaLane s.modes (tagOf (fm xs 0)) true (at_ xs 0 l) (at_ xs 1 l) (at_ xs 2 l)⟩
  | .vdiv d a b k pol me => some ⟨[a, b], d, k, pol, me, false, pairFmt isIeee false,
      fun xs l => divLane s.modes (tagOf (fm xs 0)) (at_ xs 0 l) (at_ xs 1 l)⟩
  | .vmin d a b k pol me => some ⟨[a, b], d, k, pol, me, false, pairFmt arithTag true, fun xs l => pickLane (fm xs 0) false (at_ xs 0 l) (at_ xs 1 l)⟩
  | .vminH d a m => some ⟨[d, a], d, 0, 0, m, false, pairFmt arithTag true, fun xs l => pickLane (fm xs 0) false (at_ xs 0 l) (at_ xs 1 l)⟩
  | .vmax d a b k pol me => some ⟨[a, b], d, k, pol, me, false, pairFmt arithTag true, fun xs l => pickLane (fm xs 0) true (at_ xs 0 l) (at_ xs 1 l)⟩
  | .vmaxH d a m => some ⟨[d, a], d, 0, 0, m, false, pairFmt arithTag true, fun xs l => pickLane (fm xs 0) true (at_ xs 0 l) (at_ xs 1 l)⟩
  | .vabs d a m => some ⟨[a], d, 0, 0, m, false, oneFmt arithTag, fun xs l => absLane (fm xs 0) (at_ xs 0 l)⟩
  | .vrelu d a m => some ⟨[a], d, 0, 0, m, false, oneFmt arithTag, fun xs l => pickLane (fm xs 0) true (at_ xs 0 l) 0⟩
  | .vshl d a b k pol me => some ⟨[a, b], d, k, pol, me, false, pairFmt isInt false,
      fun xs l => (at_ xs 0 l * 2 ^ at_ xs 1 l, Eff.none)⟩
  | .vshr d a b k pol me => some ⟨[a, b], d, k, pol, me, false, pairFmt isInt false,
      fun xs l => (at_ xs 0 l / 2 ^ at_ xs 1 l, Eff.none)⟩
  | .vsar d a b k pol me => some ⟨[a, b], d, k, pol, me, false, pairFmt isInt false,
      fun xs l => (intPat (patInt (at_ xs 0 l) (laneBits (tagOf (fm xs 0))) / 2 ^ at_ xs 1 l) (laneBits (tagOf (fm xs 0))), Eff.none)⟩
  | .vsel d a b k => some ⟨[a, b], d, 0, 0, 0, false, pairFmt noBe false,
      fun xs l => (if (s.core.getV k.toNat).bits.getLsbD l then at_ xs 1 l else at_ xs 0 l, Eff.none)⟩
  | .vselH d a => some ⟨[d, a], d, 0, 0, 0, false, pairFmt noBe false,
      fun xs l => (if (s.core.getV 0).bits.getLsbD l then at_ xs 1 l else at_ xs 0 l, Eff.none)⟩
  | .vperm d a b k pol me => some ⟨[a, b], d, k, pol, me, false, permFmt,
      fun xs l => (at_ xs 0 ((if l < lanesOf (tagOf (fm xs 1)) then at_ xs 1 l else 0) % lanesOf (tagOf (fm xs 0))), Eff.none)⟩
  | .vslideUp d a n k pol me => some ⟨[a], d, k, pol, me, false, oneFmt noBe,
      fun xs l => (if l < n.toNat then 0 else at_ xs 0 (l - n.toNat), Eff.none)⟩
  | .vslideDown d a n k pol me => some ⟨[a], d, k, pol, me, false, oneFmt noBe,
      fun xs l => (if l + n.toNat < lanesOf (tagOf (fm xs 0)) then at_ xs 0 (l + n.toNat) else 0, Eff.none)⟩
  | .vidx d k tag pol me => some ⟨[], d, k, pol, me, false, fun _ => some (mkFmt tag.toNat 0), fun _ l => (l, Eff.none)⟩
  | .vrng d a k tag pol me => some ⟨[], d, k, pol, me, false, fun _ => some (mkFmt tag.toNat 0),
      fun _ l =>
        let x := s.genWord ((s.g a).toNat % 2 ^ 32 + l) ((s.g a).toNat / 2 ^ 32)
        (if tag = 3 then x else if x / 2 ^ 8 = 0 then 0 else (roundIeee .fp32 0 false (x / 2 ^ 8) (2 ^ 24)).1, Eff.none)⟩
  | .vrcp d a k pol me _ => some ⟨[a], d, k, pol, me, true, oneFmt specialTag, fun xs l => specialLane 0 s.modes (tagOf (fm xs 0)) (at_ xs 0 l)⟩
  | .vrsq d a k pol me _ => some ⟨[a], d, k, pol, me, true, oneFmt specialTag, fun xs l => specialLane 1 s.modes (tagOf (fm xs 0)) (at_ xs 0 l)⟩
  | .vsqrt d a k pol me _ => some ⟨[a], d, k, pol, me, true, oneFmt specialTag, fun xs l => specialLane 2 s.modes (tagOf (fm xs 0)) (at_ xs 0 l)⟩
  | .vexp2 d a k pol me _ => some ⟨[a], d, k, pol, me, true, oneFmt specialTag, fun xs l => specialLane 3 s.modes (tagOf (fm xs 0)) (at_ xs 0 l)⟩
  | .vlog2 d a k pol me _ => some ⟨[a], d, k, pol, me, true, oneFmt specialTag, fun xs l => specialLane 4 s.modes (tagOf (fm xs 0)) (at_ xs 0 l)⟩
  | .vtanh d a k pol me _ => some ⟨[a], d, k, pol, me, true, oneFmt specialTag, fun xs l => specialLane 5 s.modes (tagOf (fm xs 0)) (at_ xs 0 l)⟩
  | .vsigm d a k pol me _ => some ⟨[a], d, k, pol, me, true, oneFmt specialTag, fun xs l => specialLane 6 s.modes (tagOf (fm xs 0)) (at_ xs 0 l)⟩
  | .vcvt d a k tag pol me _ => some ⟨[a], d, k, pol, me, true, cvtFmt s.modes tag,
      fun xs l => if l < lanesOf (tagOf (fm xs 0)) then convertTo s.modes tag.toNat (valueOf (fm xs 0) (at_ xs 0 l)) else (0, Eff.none)⟩
  | .vcvts d a k tag pol me _ =>
      if isBe tag.toNat then none
      else some ⟨[a], d, k, pol, me, true, cvtFmt s.modes tag,
        fun xs l => if l < lanesOf (tagOf (fm xs 0)) then
            convertStochastic s.modes tag.toNat (s.genWord ((s.core.c.getG 28).toNat % 2 ^ 32 + l) ((s.core.c.getG 28).toNat / 2 ^ 32))
              (valueOf (fm xs 0) (at_ xs 0 l))
          else (0, Eff.none)⟩
  | _ => none

/-- Lane l is computed: the mask is off, or its bit is set (R99). -/
def LaneOp.active (o : LaneOp) (s : State) (l : Nat) : Bool := o.me == 0 || (s.core.getV o.k.toNat).bits.getLsbD l

/-- What a masked-off lane holds (R99): all ones under free and in a pushed entry, else the destination's old bits. -/
def LaneOp.rest (o : LaneOp) (s : State) (t l : Nat) : Nat :=
  if o.pol = 1 ∨ 24 ≤ o.dst.toNat then 2 ^ (laneAt t l).2 - 1 else laneOf t (s.core.getV o.dst.toNat).bits.toNat l

/-- A register that holds a result of the instruction, and the effects of its active lanes together (R99, R168). -/
def LaneOp.Yields (o : LaneOp) (s : State) (xs : List VReg) (r : VReg) (e : Eff) : Prop :=
  o.fmt (xs.map (·.fmt)) = some r.fmt
    ∧ (∀ l, l < lanesOf (tagOf r.fmt) → laneOf (tagOf r.fmt) r.bits.toNat l
        = if o.active s l then (o.lane xs l).1 % 2 ^ (laneAt (tagOf r.fmt) l).2 else o.rest s (tagOf r.fmt) l)
    ∧ e = (List.range (lanesOf (tagOf r.fmt))).foldl (fun acc l => if o.active s l then acc.join (o.lane xs l).2 else acc) Eff.none

/-- The whole-register instructions (R209, R211, R221): sources, destination, mask fields, and the 512 bits of the result. -/
def wholeOp (_ : State) : Instr → Option (List (BitVec 5) × BitVec 5 × BitVec 2 × BitVec 1 × BitVec 1 × (BitVec 512 → BitVec 512 → BitVec 512))
  | .vand d a b k pol me => some ([a, b], d, k, pol, me, fun x y => x &&& y)
  | .vor d a b k pol me => some ([a, b], d, k, pol, me, fun x y => x ||| y)
  | .vxor d a b k pol me => some ([a, b], d, k, pol, me, fun x y => x ^^^ y)
  | .vandH d a m => some ([d, a], d, 0, 0, m, fun x y => x &&& y)
  | .vorH d a m => some ([d, a], d, 0, 0, m, fun x y => x ||| y)
  | .vxorH d a m => some ([d, a], d, 0, 0, m, fun x y => x ^^^ y)
  | .vmov d a k pol me => some ([a], d, k, pol, me, fun x _ => x)
  | .vmovH d a m => some ([a], d, 0, 0, m, fun x _ => x)
  | _ => none

/-- A value under a mask (R99): its lanes are those of `full` where the mask is off or its bit is set; any other lane keeps the destination's
old bits, or is all ones under free and in a pushed entry. -/
def Masked (s : State) (d : BitVec 5) (k : BitVec 2) (pol me : BitVec 1) (full : Nat) (r : VReg) : Prop :=
  (me = 0 → r.bits.toNat = full)
    ∧ ∀ l, l < lanesOf (tagOf r.fmt) → laneOf (tagOf r.fmt) r.bits.toNat l
      = if me = 0 ∨ (s.core.getV k.toNat).bits.getLsbD l = true then laneOf (tagOf r.fmt) full l
        else if pol = 1 ∨ 24 ≤ d.toNat then 2 ^ (laneAt (tagOf r.fmt) l).2 - 1 else laneOf (tagOf r.fmt) (s.core.getV d.toNat).bits.toNat l

/-- A vector destination takes a value (R91): a register, or a new filled entry of q4 to q7; the flags and counts of the result are raised (R168). -/
def put (s : State) (d : BitVec 5) (r : VReg) (e : Eff) : State := (s.putV d r).raise e

/-- A long-latency result r that issue sends from s to t, and completion to u: register d takes it at completion, or an entry pushed at issue, unfilled,
is filled with it (R85, R91, R92); s2 is the state after the sources were popped. -/
def Lands (s s2 t u : State) (d : BitVec 5) (r : VReg) : Prop :=
  (d.toNat < 24 → t.core.queues = s2.core.queues ∧ u.core.queues = s2.core.queues ∧ u.core.v = (s.core.setV d.toNat r).v)
    ∧ (28 ≤ d.toNat → u.core.v = s.core.v ∧ ∃ y z, t.core.getQueue (d.toNat - 24) = s2.core.getQueue (d.toNat - 24) ++ [y]
      ∧ y.filled = false ∧ y.fmt = r.fmt ∧ u.core.getQueue (d.toNat - 24) = s2.core.getQueue (d.toNat - 24) ++ [z]
      ∧ z.filled = true ∧ z.fmt = r.fmt ∧ z.bits = r.bits)

end Sys2Proof.Spec

/-- R90 to R99, R205 to R212, R220, R221: a short vector instruction whose sources are there, whose destination has room and whose tags agree takes its
sources, writes or pushes the result of every active lane, and raises the flags of those lanes; nothing else changes. R92: one that popped an entry not
yet filled has issued, its entries popped, its destination taken or its entry reserved, and stands incomplete until the data has come. -/
def Obligations.VectorLanesComplete : Prop :=
  (∀ (i : Instr) (s s2 : State) (o : Spec.LaneOp) (xs : List VReg) (fmt : BitVec 16), ReadyC s → i.wellFormed = true → Spec.laneOp s i = some o →
    s.popsQ3 o.srcs = false → Spec.Taken (s.issued i) o.srcs s2 xs false → s.canPut o.dst = true → o.fmt (xs.map (·.fmt)) = some fmt →
    ∃ t op, exec i s = .next t ∧ t.cur.pc = (s.issued i).cur.pc ∧ t.cur.g = s.cur.g ∧ t.core.v = s.core.v ∧ t.core.f = s.core.f
      ∧ t.cur.flight = [op] ∧ op.dests = vRegs o.dst
      ∧ (o.dst.toNat < 24 → t.core.queues = s2.core.queues)
      ∧ (28 ≤ o.dst.toNat → ∃ y, t.core.getQueue (o.dst.toNat - 24) = s2.core.getQueue (o.dst.toNat - 24) ++ [y] ∧ y.filled = false ∧ y.fmt = fmt)
      ∧ exec (.longOpComplete s.core.pid .c 0 1) t = .next t)
  ∧ ∀ (i : Instr) (s s2 : State) (o : Spec.LaneOp) (xs : List VReg) (fmt : BitVec 16), ReadyC s → i.wellFormed = true → Spec.laneOp s i = some o →
    o.long = false → s.popsQ3 o.srcs = false → Spec.Sources (s.issued i) o.srcs s2 xs → s.canPut o.dst = true → o.fmt (xs.map (·.fmt)) = some fmt →
    ∃ r e, exec i s = .next (Spec.put s2 o.dst r e) ∧ o.Yields s xs r e

/-- R85, R90 to R99, R213 to R216: a long-latency vector instruction takes its sources and reserves its entry at issue; its LONG_OP_COMPLETE writes the
register, or fills the entry, with the result of the values that stood at issue. That the result is computed from what stood at issue is the model's
reading (log entry 13); an inexact special function is a free value within its bound (log entry 6); the lanes beyond the source's of a narrowing
conversion are zero bits, which for fsl32 is the model's choice (log entry 79). -/
def Obligations.LongVectorLanesComplete : Prop :=
  ∀ (i : Instr) (s s2 : State) (o : Spec.LaneOp) (xs : List VReg) (fmt : BitVec 16), ReadyC s → i.wellFormed = true → Spec.laneOp s i = some o →
    o.long = true → s.popsQ3 o.srcs = false → Spec.Sources (s.issued i) o.srcs s2 xs → s.canPut o.dst = true → o.fmt (xs.map (·.fmt)) = some fmt →
    (∀ q, ∀ y ∈ s.core.getQueue q, y.id < s.core.nextId) →
    ∃ t u r e, exec i s = .next t ∧ t.core.v = s.core.v ∧ t.cur.g = s.cur.g ∧ t.core.f = s.core.f ∧ t.cur.flight ≠ [] ∧ o.Yields s xs r e
      ∧ exec (.longOpComplete s.core.pid .c 0 1) t = .next u ∧ u.cur.flight = [] ∧ u.cur.g = s.cur.g ∧ u.core.f = s.core.f
      ∧ u.core.sys.fflags = s.core.sys.fflags ||| e.flags
      ∧ Spec.Lands s s2 t u o.dst r

/-- R98: sources whose tags the instruction does not accept trap with cause 0x04, TRAP.VAL holding the word and the two format words, before a queue is
popped or any result is written. R209, R211, R212, R221: vand, vor, vxor and vmov work on all 512 bits, and a masked-off lane is as R99 says; vcmp
writes a mask; vcompress packs the lanes that its mask register keeps; vpopm counts bits; vsplat repeats an f register; vzero writes the canonical
zero; vswap exchanges two registers. -/
def Obligations.WholeVectorsCompleteOrTagsTrap : Prop :=
  (∀ (i : Instr) (s s2 : State) (o : Spec.LaneOp) (xs : List VReg), ReadyC s → i.wellFormed = true → s.cur.mode = .user → Spec.laneOp s i = some o →
     s.popsQ3 o.srcs = false → Spec.Sources (s.issued i) o.srcs s2 xs → s.canPut o.dst = true → o.fmt (xs.map (·.fmt)) = none →
     ∃ t, exec i s = .next t
       ∧ Spec.Trapped s t 0x04 (.ofNat 64 ((encode i).toNat * 2 ^ 32 + (Spec.fm xs 1).toNat * 2 ^ 16 + (Spec.fm xs 0).toNat)))
  ∧ (∀ (i : Instr) (s s2 : State) (xs : List VReg), ReadyC s → i.wellFormed = true →
       (∀ srcs d k pol me g, Spec.wholeOp s i = some (srcs, d, k, pol, me, g) → s.popsQ3 srcs = false →
         Spec.Sources (s.issued i) srcs s2 xs → s.canPut d = true →
         ∃ r, exec i s = .next (Spec.put s2 d r Eff.none) ∧ r.fmt = Spec.fm xs 0
           ∧ Spec.Masked s d k pol me (clearPad (tagOf r.fmt) (g (Spec.bitsOf xs 0) (Spec.bitsOf xs 1)).toNat) r)
       ∧ (∀ d a b c k u pol me, i = .vcmp d a b c k u pol me → s.popsQ3 [a, b] = false → Spec.Sources (s.issued i) [a, b] s2 xs →
         s.canPut d = true → pairFmt (cmpTag (u == 1)) true (xs.map (·.fmt)) ≠ none →
         ∃ r e, exec i s = .next (Spec.put s2 d r e) ∧ r.fmt = mkFmt 15 0
           ∧ ∀ l, l < 512 → r.bits.getLsbD l
               = if lanesOf (tagOf (Spec.fm xs 0)) ≤ l then false
                 else if me = 0 ∨ (s.core.getV k.toNat).bits.getLsbD l = true then
                   (cmpLane (Spec.fm xs 0) (u == 1) c.toNat (Spec.at_ xs 0 l) (Spec.at_ xs 1 l)).1 == 1
                 else if pol = 1 ∨ 24 ≤ d.toNat then true else (s.core.getV d.toNat).bits.getLsbD l)
       ∧ (∀ d a k pol, i = .vcompress d a k pol → s.popsQ3 [a] = false → Spec.Sources (s.issued i) [a] s2 xs → s.canPut d = true →
         isBe (tagOf (Spec.fm xs 0)) = false →
         ∃ r kept, exec i s = .next (Spec.put s2 d r Eff.none) ∧ r.fmt = Spec.fm xs 0
           ∧ kept = (List.range (lanesOf (tagOf r.fmt))).filter (fun x => (s.core.getV k.toNat).bits.getLsbD x)
           ∧ ∀ n, n < lanesOf (tagOf r.fmt) → laneOf (tagOf r.fmt) r.bits.toNat n = match kept[n]? with
             | some l => Spec.at_ xs 0 l
             | none => if pol = 1 ∨ 24 ≤ d.toNat then 2 ^ laneBits (tagOf r.fmt) - 1 else laneOf (tagOf r.fmt) (s.core.getV d.toNat).bits.toNat n)
       ∧ (∀ d a, i = .vpopm d a → s.popsQ3 [a] = false → Spec.Sources (s.issued i) [a] s2 xs →
         exec i s = .next (s2.setG d (.ofNat 64 ((List.range 512).filter (fun x => (Spec.bitsOf xs 0).getLsbD x)).length)))
       ∧ (∀ d a k pol me t, i = .vsplat d a k pol me → s.canPut d = true → fRegTag (tagOf (s.core.getF a.toNat).fmt) = true →
         t = (if tagOf (s.core.getF a.toNat).fmt = 0 then 7 else tagOf (s.core.getF a.toNat).fmt) →
         ∃ r full, exec i s = .next ((s.issued i).putV d r) ∧ r.fmt = (s.core.getF a.toNat).fmt ∧ Spec.Masked s d k pol me full r
           ∧ ∀ l, l < lanesOf t → laneOf t full l = (s.core.getF a.toNat).bits.toNat % 2 ^ laneBits t)
       ∧ (∀ d a m, i = .vzero d a m → ∃ r full, exec i s = .next (Spec.put (s.issued i) d r Eff.none) ∧ r.fmt = (s.core.getV a.toNat).fmt
           ∧ Spec.Masked s d 0 0 m full r
           ∧ (isFsl (tagOf r.fmt) = false → full = 0)
           ∧ (isFsl (tagOf r.fmt) = true → ∀ l, l < lanesOf (tagOf r.fmt) →
               laneOf (tagOf r.fmt) full l = fslEncode (tagOf r.fmt == 14) false 0 1 % 2 ^ laneBits (tagOf r.fmt)))
       ∧ (∀ d a, i = .vswap d a →
           exec i s = .next (((s.issued i).setV d.toNat (s.core.getV a.toNat)).setV a.toNat (s.core.getV d.toNat))))

/-! ### Reductions, packing and the solver (spec/11_vector_instructions.md R217 to R219, spec/13_rational_and_solver_instructions.md R255 to R259) -/

namespace Sys2Proof.Spec

/-- From s an instruction of stream x issues into t, where it is incomplete and has changed no register and no memory; one move of it, the
LONG_OP_COMPLETE event of R87, leads from t to u, which changes no memory, no pc and no mode. -/
def Launches (s t u : State) (x : StreamId) (i : Instr) : Prop :=
  exec i s = .next t ∧ t.cur.flight ≠ [] ∧ t.cur.g = s.cur.g ∧ t.core.f = s.core.f ∧ t.core.v = s.core.v ∧ t.core.tiles = s.core.tiles
    ∧ t.core.sys.fflags = s.core.sys.fflags ∧ t.cur.pc = (s.issued i).cur.pc
    ∧ exec (.longOpComplete s.core.pid x 0 1) t = .next u ∧ u.cur.pc = t.cur.pc ∧ u.cur.mode = s.cur.mode
    ∧ t.pool = s.pool ∧ t.host = s.host ∧ u.pool = s.pool ∧ u.host = s.host

/-- Only these g, f and v registers and tiles differ from s to u. -/
def Holds (s u : State) (g : Vector Word 32) (f : Vector FReg 32) (v : Vector VReg 24) : Prop :=
  u.cur.g = g ∧ u.core.f = f ∧ u.core.v = v ∧ u.core.tiles = s.core.tiles

/-- R218: the result of a reduction over the values and the integers of the active lanes. -/
def reduce (s : State) : Instr → Option (BitVec 5 × BitVec 5 × BitVec 2 × BitVec 1 × BitVec 1 × BitVec 1 × (Nat → List Val → List Int → Nat × Eff))
  | .vredadd d a k f pol me _ => some (d, a, k, f, pol, me, redAdd s.modes)
  | .vredmax d a k f pol me _ => some (d, a, k, f, pol, me, fun rt => redPick rt true)
  | .vredmin d a k f pol me _ => some (d, a, k, f, pol, me, fun rt => redPick rt false)
  | _ => none

/-- The group registers of vpack and vcvts, with the rounding of element j of group g (R216, R217). -/
def packing (s : State) : Instr → Option (BitVec 5 × BitVec 5 × BitVec 4 × (Nat → Nat → Q → Nat))
  | .vpack d a tag _ => some (d, a, tag, fun _ _ x => rneInt x)
  | .vcvts d a _ tag _ _ _ => if isBe tag.toNat then
      some (d, a, tag, fun grp j x =>
        (sroundInt (s.genWord ((s.core.c.getG 28).toNat % 2 ^ 32 + (16 * grp + j)) ((s.core.c.getG 28).toNat / 2 ^ 32)) x).1.toNat) else none
  | _ => none

end Sys2Proof.Spec

/-- R218, R219: a reduction of a register or of a popped filled entry writes one operation over its active lanes, with the result tag of its source, to
an f register or to lane 0 of a v register, whose other lanes are kept or become all ones under free. vredq sums the oldest entry of its queue into its
destination in one move, and is complete after its last entry, when it raises its flags (R168). A source tag without a result tag, or an f destination for integers, traps with cause
0x04. -/
def Obligations.ReductionsComplete : Prop :=
  (∀ (i : Instr) (s s2 : State) (d a : BitVec 5) (k : BitVec 2) (f pol me : BitVec 1) (run : Nat → List Val → List Int → Nat × Eff) (x : VReg),
    ReadyC s → i.wellFormed = true → Spec.reduce s i = some (d, a, k, f, pol, me, run) → s.popsQ3 [a] = false →
    Spec.Sources (s.issued i) [a] s2 [x] →
    (∀ rt, redTag (tagOf x.fmt) = some rt → ¬ (f = 1 ∧ rt = 3) →
      ∃ t u r, Spec.Launches s t u .c i ∧ t.core.queues = s2.core.queues ∧ u.core.queues = s2.core.queues ∧ u.cur.flight = []
        ∧ r = (run rt ((activeLanes x (fun l => me == 0 || (s.core.getV k.toNat).bits.getLsbD l)).1)
                ((activeLanes x (fun l => me == 0 || (s.core.getV k.toNat).bits.getLsbD l)).2))
        ∧ u.core.sys.fflags = s.core.sys.fflags ||| r.2.flags
        ∧ (f = 1 → Spec.Holds s u s.cur.g (s.core.setF d.toNat ⟨.ofNat 64 r.1, mkFmt rt (scaleOf x.fmt)⟩).f s.core.v)
        ∧ (f = 0 → ∃ y, Spec.Holds s u s.cur.g s.core.f (s.core.setV d.toNat y).v ∧ y.fmt = mkFmt rt (scaleOf x.fmt)
          ∧ laneOf rt y.bits.toNat 0 = r.1 % 2 ^ laneBits rt
          ∧ ∀ l, 0 < l → l < lanesOf rt → laneOf rt y.bits.toNat l
              = if pol = 1 then 2 ^ laneBits rt - 1 else laneOf rt (s.core.getV d.toNat).bits.toNat l))
    ∧ (s.cur.mode = .user → (redTag (tagOf x.fmt) = none ∨ (f = 1 ∧ redTag (tagOf x.fmt) = some 3)) →
      ∃ t, exec i s = .next t ∧ Spec.Trapped s t 0x04 (.ofNat 64 ((encode i).toNat * 2 ^ 32 + x.fmt.toNat))))
  ∧ (∀ (s : State) (d a : BitVec 5) (n la : BitVec 4) (f : BitVec 1) (i : Instr) (fmt : BitVec 16) (old : Nat) (e : QEntry) (rest : List QEntry)
      (p : Nat) (eff : Eff), ReadyC s → i = .vredq d a n f la → i.wellFormed = true → s.popsQ3 [a] = false →
    fmt = (if f = 1 then (s.core.getF d.toNat).fmt else (s.core.getV d.toNat).fmt) →
    old = (if f = 1 then (s.core.getF d.toNat).bits.toNat else (s.core.getV d.toNat).bits.toNat) % 2 ^ laneBits (tagOf fmt) →
    tagOf fmt ∈ [6, 7, 12, 13, 14] ∨ (tagOf fmt = 3 ∧ f = 0) →
    s.core.getQueue (a.toNat - 24) = e :: rest → e.filled = true →
    redTag (tagOf e.fmt) = some (tagOf fmt) → (isQfx (tagOf fmt) = true → scaleOf e.fmt = scaleOf fmt) →
    (p, eff) = redAdd s.modes (tagOf fmt) (valueOf fmt old :: (activeLanes ⟨e.bits, e.fmt⟩ (fun _ => true)).1)
      (patInt old 32 :: (activeLanes ⟨e.bits, e.fmt⟩ (fun _ => true)).2) →
    ∃ t u, Spec.Launches s t u .c i ∧ t.core.queues = s.core.queues ∧ u.core.getQueue (a.toNat - 24) = rest
      ∧ (n = 0 → u.cur.flight = [] ∧ u.core.sys.fflags = s.core.sys.fflags ||| eff.flags)
      ∧ (n ≠ 0 → u.core.sys.fflags = s.core.sys.fflags
        ∧ ∃ op, u.cur.flight = [op] ∧ op.prog = 1 ∧ op.flags = eff.flags
          ∧ op.work = .vredq (f == 1) d.toNat (a.toNat - 24) (n.toNat + 1))
      ∧ (f = 1 → Spec.Holds s u s.cur.g (s.core.setF d.toNat ⟨.ofNat 64 p, fmt⟩).f s.core.v)
      ∧ (f = 0 → ∃ y, Spec.Holds s u s.cur.g s.core.f (s.core.setV d.toNat y).v ∧ y.fmt = fmt
        ∧ laneOf (tagOf fmt) y.bits.toNat 0 = p % 2 ^ laneBits (tagOf fmt)
        ∧ ∀ l, 0 < l → l < lanesOf (tagOf fmt) → laneOf (tagOf fmt) y.bits.toNat l = laneOf (tagOf fmt) (s.core.getV d.toNat).bits.toNat l))

/-- R217: vpack and vcvts to a BE tag quantise the sixteen fp32 lanes of each source register into one group, with padding zero; vunpack writes the
elements of each group as exact fp32 values, one register a group. Other source tags trap with cause 0x04. -/
def Obligations.PackingCompletes : Prop :=
  (∀ (i : Instr) (s : State) (d a : BitVec 5) (tag : BitVec 4) (rnd : Nat → Nat → Q → Nat), ReadyC s → i.wellFormed = true →
    Spec.packing s i = some (d, a, tag, rnd) → s.canPut d = true →
    (∀ q, ∀ y ∈ s.core.getQueue q, y.id < s.core.nextId) →
    ((∀ g, g < beGroups tag.toNat → tagOf (s.core.getV (a.toNat + g)).fmt = 6) →
      ∃ t u r, Spec.Launches s t u .c i ∧ u.cur.flight = [] ∧ u.cur.g = s.cur.g ∧ u.core.f = s.core.f ∧ Spec.Lands s s t u d r
        ∧ r.fmt = mkFmt tag.toNat 0 ∧ r.bits.toNat < 2 ^ (8 * beBytes tag.toNat * beGroups tag.toNat)
        ∧ ∀ g, g < beGroups tag.toNat → bitField r.bits.toNat (8 * beBytes tag.toNat * g) (8 * beBytes tag.toNat)
            = (beQuant tag.toNat ((List.range 16).map (fun j => IeeeFmt.fp32.decode (laneOf 6 (s.core.getV (a.toNat + g)).bits.toNat j))) (rnd g)).1)
    ∧ ((∃ g, g < beGroups tag.toNat ∧ tagOf (s.core.getV (a.toNat + g)).fmt ≠ 6) → s.cur.mode = .user →
      ∃ t, exec i s = .next t ∧ Spec.Trapped s t 0x04
        (.ofNat 64 ((encode i).toNat * 2 ^ 32 + (s.core.getV (a.toNat + 1)).fmt.toNat * 2 ^ 16 + (s.core.getV a.toNat).fmt.toNat))))
  ∧ (∀ (s : State) (d a : BitVec 5) (la : BitVec 4) (tag : Nat), ReadyC s → (Instr.vunpack d a la).wellFormed = true →
    tag = tagOf (s.core.getV a.toNat).fmt →
    (isBe tag = true → d.toNat + beGroups tag ≤ 24 →
      ∃ t u, Spec.Launches s t u .c (.vunpack d a la) ∧ u.cur.flight = [] ∧ u.cur.g = s.cur.g ∧ u.core.f = s.core.f
        ∧ (∀ g, g < beGroups tag → (u.core.getV (d.toNat + g)).fmt = mkFmt 6 0
            ∧ ∀ j, j < 16 → laneOf 6 (u.core.getV (d.toNat + g)).bits.toNat j
              = match beElement tag (bitField (s.core.getV a.toNat).bits.toNat (8 * beBytes tag * g) (8 * beBytes tag)) j with
                | .fin neg n m => (roundIeee .fp32 0 neg n m).1
                | _ => 0x7FC00000)
        ∧ ∀ n, n < d.toNat ∨ d.toNat + beGroups tag ≤ n → u.core.getV n = s.core.getV n)
    ∧ (isBe tag = false → s.cur.mode = .user → ∃ t, exec (.vunpack d a la) s = .next t
      ∧ Spec.Trapped s t 0x04 (.ofNat 64 ((encode (.vunpack d a la)).toNat * 2 ^ 32 + (s.core.getV a.toNat).fmt.toNat))))

namespace Sys2Proof.Spec

/-- The operands of vpivot and vpivot.r, and whether a small pivot is regularised (R256). -/
def pivotParts : Instr → Option (BitVec 5 × BitVec 5 × BitVec 5 × BitVec 2 × BitVec 1 × Bool)
  | .vpivot d a b k me => some (d, a, b, k, me, false)
  | .vpivotR d a b k me => some (d, a, b, k, me, true)
  | _ => none

/-- Lane l of register x takes part: it is at or above the starting lane, its mask is off or set, and its value is v (R256). -/
def Takes (s : State) (x : VReg) (b : BitVec 5) (k : BitVec 2) (me : BitVec 1) (l : Nat) (v : Val) : Prop :=
  (s.g b).toNat ≤ l ∧ l < lanesOf (tagOf x.fmt) ∧ (me = 0 ∨ (s.core.getV k.toNat).bits.getLsbD l = true)
    ∧ v = valueOf x.fmt (laneOf (tagOf x.fmt) x.bits.toNat l)

/-- The chosen lane as fd receives it: a NaN is the canonical one (R170), a rational value stands in canonical form (R177, R178). -/
def chosen (x : VReg) (l : Nat) : Nat :=
  let p := laneOf (tagOf x.fmt) x.bits.toNat l
  match ieeeOf (tagOf x.fmt) with
  | some f => if (valueOf x.fmt p).unordered then f.qnan else p
  | none => if isFsl (tagOf x.fmt) then (fslCanon (tagOf x.fmt == 14) (valueOf x.fmt p)).1 else p

end Sys2Proof.Spec

/-- R255, R256: vpivot chooses the lowest lane of the largest magnitude among those that take part and are ordered; a magnitude of at most PIV.THR adds
one to PIV.COUNT, and vpivot.r then delivers the magnitude of PIV.DELTA with the pivot's sign. A NaN or NaR lane is chosen at once and not flagged.
With no lane the index is all ones and the value zero. R257 to R259: velim replaces one lane in each of its moves, from lane 0 up, by the lane less the
factor times the row's lane, and keeps the row, the factor, the mask and the untouched lanes of its issue; its last lane completes it, and it raises its
flags then (R168); vreg adds an f value to one lane, or to none when the lane
number is too large. Tags that are not equal, or that none of them accepts (R255), trap with cause 0x04 in vpivot, velim and vreg. -/
def Obligations.PivotsAndEliminationsComplete : Prop :=
  (∀ (i : Instr) (s : State) (d a b : BitVec 5) (k : BitVec 2) (me : BitVec 1) (regularise : Bool) (x : VReg), ReadyC s → i.wellFormed = true →
     Spec.pivotParts i = some (d, a, b, k, me, regularise) → x = s.core.getV a.toNat → tagOf x.fmt ∈ [6, 7, 12, 13] →
     ∃ t u p ix, Spec.Launches s t u .c i ∧ u.cur.flight = []
       ∧ Spec.Holds s u (s.cur.setG b.toNat ix).g (s.core.setF d.toNat ⟨.ofNat 64 p, x.fmt⟩).f s.core.v
       ∧ ((∀ l v, ¬ Spec.Takes s x b k me l v) → ix = .ofNat 64 (2 ^ 64 - 1) ∧ (valueOf x.fmt p).isZero = true ∧ (valueOf x.fmt p).isNeg = false
         ∧ u.core.sys.pivCount = s.core.sys.pivCount)
       ∧ (∀ l v, Spec.Takes s x b k me l v → v.unordered = true → (∀ j w, j < l → Spec.Takes s x b k me j w → w.unordered = false) →
         ix = .ofNat 64 l ∧ p = Spec.chosen x l ∧ u.core.sys.pivCount = s.core.sys.pivCount)
       ∧ (∀ l v, Spec.Takes s x b k me l v → (∀ j w, Spec.Takes s x b k me j w → w.unordered = false
             ∧ w.magnitude.compare v.magnitude ≤ 0 ∧ (j < l → w.magnitude.compare v.magnitude < 0)) →
         ix = .ofNat 64 l
         ∧ (v.magnitude.compare (pivReg (tagOf x.fmt) s.core.sys.pivThr) ≤ 0 → u.core.sys.pivCount = s.core.sys.pivCount + 1
           ∧ (regularise = false → p = Spec.chosen x l)
           ∧ (regularise = true → p = (regularised s.modes x.fmt (v.isNeg && !v.isZero) (pivReg (tagOf x.fmt) s.core.sys.pivDelta)).1))
         ∧ (0 < v.magnitude.compare (pivReg (tagOf x.fmt) s.core.sys.pivThr) →
           u.core.sys.pivCount = s.core.sys.pivCount ∧ p = Spec.chosen x l)))
  ∧ (∀ (i : Instr) (s : State) (d a b : BitVec 5) (k : BitVec 2) (me : BitVec 1) (regularise : Bool) (x : VReg), ReadyC s → s.cur.mode = .user →
     i.wellFormed = true → Spec.pivotParts i = some (d, a, b, k, me, regularise) → x = s.core.getV a.toNat → tagOf x.fmt ∉ [6, 7, 12, 13] →
     ∃ t, exec i s = .next t ∧ Spec.Trapped s t 0x04 (.ofNat 64 ((encode i).toNat * 2 ^ 32 + x.fmt.toNat)))
  ∧ ((∀ (s : State) (d a b : BitVec 5) (k : BitVec 2) (pol me : BitVec 1) (i : Instr) (row old : VReg) (f : FReg), ReadyC s →
       i = .velim d a b k pol me → i.wellFormed = true → row = s.core.getV a.toNat → old = s.core.getV d.toNat → f = s.core.getF b.toNat →
       (tagOf row.fmt ∈ [6, 7, 12, 13] → tagOf f.fmt = tagOf row.fmt → tagOf old.fmt = tagOf row.fmt →
         (tagOf row.fmt = 12 → scaleOf old.fmt = scaleOf row.fmt) →
         ∃ t u r, Spec.Launches s t u .c i ∧ u.cur.flight ≠ [] ∧ Spec.Holds s u s.cur.g s.core.f (s.core.setV d.toNat r).v ∧ r.fmt = old.fmt
           ∧ laneOf (tagOf row.fmt) r.bits.toNat 0
             = (if me = 0 ∨ (s.core.getV k.toNat).bits.getLsbD 0 = true then
                 (elimLane { s.modes with scale := scaleOf row.fmt } row.fmt f (laneOf (tagOf row.fmt) old.bits.toNat 0)
                   (laneOf (tagOf row.fmt) row.bits.toNat 0)).1 % 2 ^ laneBits (tagOf row.fmt)
               else if pol = 1 then 2 ^ laneBits (tagOf row.fmt) - 1 else laneOf (tagOf row.fmt) old.bits.toNat 0)
           ∧ (∀ l, 0 < l → l < lanesOf (tagOf row.fmt) → laneOf (tagOf row.fmt) r.bits.toNat l = laneOf (tagOf row.fmt) old.bits.toNat l)
           ∧ ∃ op, u.cur.flight = [op] ∧ op.prog = 1
             ∧ op.work = .velim d.toNat row f r (if me = 1 then some (s.core.getV k.toNat).bits else none) (pol == 1))
       ∧ (s.cur.mode = .user → (tagOf row.fmt ∉ [6, 7, 12, 13] ∨ tagOf f.fmt ≠ tagOf row.fmt ∨ tagOf old.fmt ≠ tagOf row.fmt
           ∨ (tagOf row.fmt = 12 ∧ scaleOf old.fmt ≠ scaleOf row.fmt)) →
         ∃ t, exec i s = .next t
           ∧ Spec.Trapped s t 0x04 (.ofNat 64 ((encode i).toNat * 2 ^ 32 + f.fmt.toNat * 2 ^ 16 + row.fmt.toNat))))
     ∧ (∀ (s : State) (op : LongOp) (d n : Nat) (row acc : VReg) (f : FReg) (mask : Option (BitVec 512)) (free : Bool) (t0 : Nat) (r : Nat × Eff),
       s.core.task.isSome = true → s.core.c.exited = false → s.core.freezes op = false → s.dev.poison = [] → s.core.c.flight = [op] →
       op.status = .running → op.work = .velim d row f acc mask free → t0 = tagOf row.fmt → t0 ∈ [6, 7, 12, 13] → n = op.prog → n < lanesOf t0 →
       d < 24 →
       r = (if mask.all (fun m => m.getLsbD n) = true then
           elimLane ⟨op.frm.toNat, op.frmFsl.toNat, scaleOf row.fmt⟩ row.fmt f (laneOf t0 acc.bits.toNat n) (laneOf t0 row.bits.toNat n)
         else (if free then 2 ^ laneBits t0 - 1 else laneOf t0 acc.bits.toNat n, Eff.none)) →
       ∃ t y, exec (.longOpComplete s.core.pid .c 0 1) s = .next t ∧ t.core.v = (s.core.setV d y).v ∧ y.fmt = acc.fmt
         ∧ laneOf t0 y.bits.toNat n = r.1 % 2 ^ laneBits t0
         ∧ (∀ l, l < lanesOf t0 → l ≠ n → laneOf t0 y.bits.toNat l = laneOf t0 acc.bits.toNat l)
         ∧ t.core.f = s.core.f ∧ t.core.c.g = s.core.c.g ∧ t.core.queues = s.core.queues ∧ t.pool = s.pool ∧ t.host = s.host
         ∧ (n + 1 < lanesOf t0 → t.core.sys.fflags = s.core.sys.fflags
           ∧ ∃ op1, t.core.c.flight = [op1] ∧ op1.prog = n + 1 ∧ op1.flags = op.flags ||| r.2.flags ∧ op1.work = .velim d row f y mask free)
         ∧ (lanesOf t0 ≤ n + 1 → t.core.c.flight = [] ∧ t.core.sys.fflags = s.core.sys.fflags ||| op.flags ||| r.2.flags))
     ∧ (∀ (s : State) (d a b : BitVec 5) (x : VReg) (f : FReg), ReadyC s → (Instr.vreg d a b).wellFormed = true → x = s.core.getV d.toNat →
       f = s.core.getF b.toNat → tagOf x.fmt ∈ [6, 7, 12, 13] → tagOf f.fmt = tagOf x.fmt →
       ∃ t u r, Spec.Launches s t u .c (.vreg d a b) ∧ u.cur.flight = [] ∧ Spec.Holds s u s.cur.g s.core.f (s.core.setV d.toNat r).v ∧ r.fmt = x.fmt
         ∧ ∀ l, l < lanesOf (tagOf x.fmt) → laneOf (tagOf x.fmt) r.bits.toNat l
             = if l = (s.g a).toNat then (regLane s.modes x.fmt f (laneOf (tagOf x.fmt) x.bits.toNat l)).1 % 2 ^ laneBits (tagOf x.fmt)
               else laneOf (tagOf x.fmt) x.bits.toNat l)
     ∧ (∀ (s : State) (d a b : BitVec 5) (i : Instr) (x : VReg) (f : FReg), ReadyC s → s.cur.mode = .user → i = .vreg d a b → i.wellFormed = true →
       x = s.core.getV d.toNat → f = s.core.getF b.toNat → tagOf x.fmt ∉ [6, 7, 12, 13] ∨ tagOf f.fmt ≠ tagOf x.fmt →
       ∃ t, exec i s = .next t ∧ Spec.Trapped s t 0x04 (.ofNat 64 ((encode i).toNat * 2 ^ 32 + f.fmt.toNat * 2 ^ 16 + x.fmt.toNat))))

/-! ### Scalar float and rational instructions (spec/13_rational_and_solver_instructions.md R244 to R254) -/

namespace Sys2Proof.Spec

/-- fp32, fp64, fsl32 or fsl64. -/
def real (fmt : BitVec 16) : Bool := [6, 7, 13, 14].contains (tagOf fmt)

/-- One result by the rules of its tag: the format word, the exact result under IEEE or under fsl, and the two modes (R244). -/
def byTag (s : State) (fmt : BitVec 16) (ieee fsl : Exact) : Option (BitVec 16 × Nat × Eff) :=
  if real fmt then
    match ieeeOf (tagOf fmt) with
    | some f => some (fmt, (deliverIeee f s.modes.ieee false ieee).1, (deliverIeee f s.modes.ieee false ieee).2)
    | none => some (fmt, (deliverFsl (tagOf fmt == 14) s.modes.fsl fsl).1, (deliverFsl (tagOf fmt == 14) s.modes.fsl fsl).2)
  else none

/-- The long-latency forms with an f destination: destination, f sources whose tags are checked, and the result with its format word, flags and
counts; none stands for a tag mismatch (R245, R246, R248, R251 to R254). -/
def floatLong (s : State) : Instr → Option (BitVec 5 × List FReg × Option (BitVec 16 × Nat × Eff))
  | .fadd d a b _ => let x := s.core.getF a.toNat; let y := s.core.getF b.toNat
    some (d, [x, y], if tagOf x.fmt ≠ tagOf y.fmt then none
      else if tagOf x.fmt = 12 then
        (if scaleOf x.fmt = scaleOf y.fmt then some (x.fmt, intPat (qsat (patInt x.pat 32 + patInt y.pat 32) 32).1 32, (qsat (patInt x.pat 32 + patInt y.pat 32) 32).2)
          else none)
      else byTag s x.fmt (ieeeAdd s.modes.ieee x.val y.val) (fslAdd x.val y.val))
  | .fsub d a b _ => let x := s.core.getF a.toNat; let y := s.core.getF b.toNat
    some (d, [x, y], if tagOf x.fmt ≠ tagOf y.fmt then none
      else if tagOf x.fmt = 12 then
        (if scaleOf x.fmt = scaleOf y.fmt then some (x.fmt, intPat (qsat (patInt x.pat 32 - patInt y.pat 32) 32).1 32, (qsat (patInt x.pat 32 - patInt y.pat 32) 32).2)
          else none)
      else byTag s x.fmt (ieeeAdd s.modes.ieee x.val y.val.negate) (fslAdd x.val y.val.negate))
  | .fmul d a b _ => let x := s.core.getF a.toNat; let y := s.core.getF b.toNat
    some (d, [x, y], if tagOf x.fmt ≠ tagOf y.fmt then none
      else if tagOf x.fmt = 12 then some (mkFmt 12 (min (max (scaleOf x.fmt + scaleOf y.fmt) (-32)) 31),
        (mulLane s.modes x.fmt y.fmt x.pat y.pat).1, (mulLane s.modes x.fmt y.fmt x.pat y.pat).2)
      else byTag s x.fmt (ieeeMul x.val y.val) (fslMul x.val y.val))
  | .fdiv d a b _ => let x := s.core.getF a.toNat; let y := s.core.getF b.toNat
    some (d, [x, y], if tagOf x.fmt ≠ tagOf y.fmt then none else byTag s x.fmt (ieeeDiv x.val y.val) (fslDiv x.val y.val))
  | .fsqrt d a _ => let x := s.core.getF a.toNat
    some (d, [x], match ieeeOf (tagOf x.fmt) with
      | some f => if real x.fmt then some (x.fmt, (ieeeSqrt f s.modes.ieee false x.val).1, (ieeeSqrt f s.modes.ieee false x.val).2) else none
      | none => if isFsl (tagOf x.fmt) then
          some (x.fmt, (fslSqrt (tagOf x.fmt == 14) s.modes.fsl x.val).1, (fslSqrt (tagOf x.fmt == 14) s.modes.fsl x.val).2) else none)
  | .fma d a b _ => let x := s.core.getF a.toNat; let y := s.core.getF b.toNat; let z := s.core.getF d.toNat
    some (d, [x, y], if tagOf x.fmt ≠ tagOf y.fmt ∨ tagOf x.fmt ≠ tagOf z.fmt then none
      else byTag s x.fmt (ieeeFma s.modes.ieee x.val y.val z.val) (fslFma x.val y.val z.val))
  | .fcvt d a tag _ => let x := s.core.getF a.toNat
    some (d, [x], if real x.fmt || tagOf x.fmt == 12 then
      some (mkFmt tag.toNat s.core.sys.qfxScale.toInt, (convertTo s.modes tag.toNat x.val).1, (convertTo s.modes tag.toNat x.val).2) else none)
  | .g2f d a tag _ =>
    let t : Nat := if tag = 0 then (if s.core.sys.fslm then 14 else 7) else tag.toNat
    let v : Val := .fin (decide ((s.g a).toInt < 0)) (s.g a).toInt.natAbs 1
    some (d, [], some (mkFmt t s.core.sys.qfxScale.toInt, (convertTo s.modes t v).1, (convertTo s.modes t v).2))
  | .fmake d a b _ =>
    let n := (s.g a).toInt
    let m := (s.g b).toInt
    let x : Exact := if m = 0 then (if n = 0 then .nar 2 true else .inf (decide (n < 0)) true)
      else .fin ((decide (n < 0)) != (decide (m < 0))) n.natAbs m.natAbs
    some (d, [], some (mkFmt 14 0, (deliverFsl true s.modes.fsl x).1, (deliverFsl true s.modes.fsl x).2))
  | .fmed d a b _ => let x := s.core.getF a.toNat; let y := s.core.getF b.toNat
    some (d, [x, y], if tagOf x.fmt ≠ tagOf y.fmt ∨ isFsl (tagOf x.fmt) = false then none
      else some (x.fmt, (mediant (tagOf x.fmt == 14) s.modes.fsl x.val y.val).1, (mediant (tagOf x.fmt == 14) s.modes.fsl x.val y.val).2))
  | .frnd d a b _ => let x := s.core.getF a.toNat; let w := tagOf x.fmt == 14
    some (d, [x], if isFsl (tagOf x.fmt) = false then none
      else some (x.fmt, (roundDen w s.modes.fsl (s.g b).toNat x.val).1, (roundDen w s.modes.fsl (s.g b).toNat x.val).2))
  | .fnbr d a b _ => let x := s.core.getF a.toNat; let w := tagOf x.fmt == 14
    some (d, [x], if isFsl (tagOf x.fmt) = false then none
      else some (x.fmt, (stepFsl w (s.g b).toInt x.val).1, (stepFsl w (s.g b).toInt x.val).2))
  | _ => none

/-- TRAP.VAL of R98 for f sources. -/
def tagTrap (i : Instr) (xs : List FReg) : Word :=
  .ofNat 64 ((encode i).toNat * 2 ^ 32 + (xs[1]?.elim 0 fun x => x.fmt.toNat) * 2 ^ 16 + xs[0]?.elim 0 fun x => x.fmt.toNat)

end Sys2Proof.Spec

/-- R244 to R248, R250 to R254: a long-latency scalar float or rational instruction writes its result, tagged and with the upper half of a 32-bit result zero,
when it completes, and raises its flags then; f2g writes a rounded and saturated integer. A tag mismatch traps with cause 0x04 and writes nothing. -/
def Obligations.LongFloatsComplete : Prop :=
  (∀ (i : Instr) (s : State) (d : BitVec 5) (xs : List FReg) (out : Option (BitVec 16 × Nat × Eff)), ReadyC s → i.wellFormed = true →
    Spec.floatLong s i = some (d, xs, out) →
    (∀ fmt p e, out = some (fmt, p, e) →
      ∃ t u, Spec.Launches s t u .c i ∧ u.cur.flight = [] ∧ u.core.sys.fflags = s.core.sys.fflags ||| e.flags
        ∧ Spec.Holds s u s.cur.g (s.core.setF d.toNat ⟨.ofNat 64 p, fmt⟩).f s.core.v)
    ∧ (out = none → s.cur.mode = .user → ∃ t, exec i s = .next t ∧ Spec.Trapped s t 0x04 (Spec.tagTrap i xs)))
  ∧ (∀ (s : State) (d a : BitVec 5) (la : BitVec 4) (x : FReg), ReadyC s → (Instr.f2g d a la).wellFormed = true → x = s.core.getF a.toNat →
    ((Spec.real x.fmt || tagOf x.fmt == 12) = true →
      ∃ t u r, Spec.Launches s t u .c (.f2g d a la) ∧ u.cur.flight = []
        ∧ Spec.Holds s u (s.cur.setG d.toNat r).g s.core.f s.core.v
        ∧ (x.val.unordered = true → r = 0 ∧ u.core.sys.fflags.getLsbD 4 = true)
        ∧ (∀ neg n m v, x.val = .fin neg n m → v = (roundInt s.modes.ieee (Q.ofMag neg n m)).1 →
          r = w64 (min (max v (-(2 ^ 63))) (2 ^ 63 - 1)))
        ∧ (∀ neg, x.val = .inf neg → r = w64 (if neg then -(2 ^ 63) else 2 ^ 63 - 1)))
    ∧ ((Spec.real x.fmt || tagOf x.fmt == 12) = false → s.cur.mode = .user →
      ∃ t, exec (.f2g d a la) s = .next t ∧ Spec.Trapped s t 0x04 (Spec.tagTrap (.f2g d a la) [x])))

namespace Sys2Proof.Spec

/-- The short forms with an f destination (R247): destination, f sources, and the result. -/
def floatShort (s : State) : Instr → Option (BitVec 5 × List FReg × Option (BitVec 16 × Nat × Eff))
  | .fmin d a b => let x := s.core.getF a.toNat; let y := s.core.getF b.toNat
    some (d, [x, y], pick false x y)
  | .fmax d a b => let x := s.core.getF a.toNat; let y := s.core.getF b.toNat
    some (d, [x, y], pick true x y)
  | .fabs d a => let x := s.core.getF a.toNat
    some (d, [x], sign false x)
  | .fneg d a => let x := s.core.getF a.toNat
    some (d, [x], sign true x)
  | _ => none
where
  /-- fmin and fmax: fs1 on a tie, one NaN yields the other operand, the first NaR wins, a qfx32 result keeps its own format word. -/
  pick (big : Bool) (x y : FReg) : Option (BitVec 16 × Nat × Eff) :=
    if tagOf x.fmt ≠ tagOf y.fmt then none
    else if tagOf x.fmt = 12 then
      (if (if big then x.val.compare y.val < 0 else 0 < x.val.compare y.val) then some (y.fmt, y.pat, Eff.none) else some (x.fmt, x.pat, Eff.none))
    else if real x.fmt then
      (match ieeeOf (tagOf x.fmt) with
      | some f => some (x.fmt, (ieeePick f big x.val y.val x.pat y.pat).1, (ieeePick f big x.val y.val x.pat y.pat).2)
      | none =>
        let v := if x.val.unordered then x.val else if y.val.unordered then y.val
          else if (if big then x.val.compare y.val < 0 else 0 < x.val.compare y.val) then y.val else x.val
        some (x.fmt, (fslCanon (tagOf x.fmt == 14) v).1, (fslCanon (tagOf x.fmt == 14) v).2))
    else none
  /-- fabs and fneg: only the sign bit on IEEE tags, but a NaN is made canonical; a canonical fsl value; saturation for qfx32. -/
  sign (neg : Bool) (x : FReg) : Option (BitVec 16 × Nat × Eff) :=
    if tagOf x.fmt = 12 then
      (let r := if neg then -(patInt x.pat 32) else if patInt x.pat 32 < 0 then -(patInt x.pat 32) else patInt x.pat 32
       if r = 2 ^ 31 then some (x.fmt, 2 ^ 31 - 1, ⟨32, 1, 0, 0⟩) else some (x.fmt, intPat r 32, Eff.none))
    else if real x.fmt then
      (match ieeeOf (tagOf x.fmt) with
      | some f =>
        if x.val.unordered then some (x.fmt, f.qnan, ⟨0, 0, 0, 1⟩)
        else some (x.fmt, if neg then (x.pat + f.signBit) % (2 * f.signBit) else x.pat % f.signBit, Eff.none)
      | none =>
        let v : Val := match x.val with
          | .fin s n d => .fin (if neg then !s else false) n d
          | .inf s => .inf (if neg then !s else false)
          | w => w
        some (x.fmt, (fslCanon (tagOf x.fmt == 14) v).1, (fslCanon (tagOf x.fmt == 14) v).2))
    else none

/-- The comparison of feq, flt and fle on an ordering of two values (R247). -/
def floatCompare : Instr → Option (BitVec 5 × BitVec 5 × BitVec 5 × Bool × (Int → Bool))
  | .feq d a b => some (d, a, b, false, fun c => c == 0)
  | .flt d a b => some (d, a, b, true, fun c => decide (c < 0))
  | .fle d a b => some (d, a, b, true, fun c => decide (c ≤ 0))
  | _ => none

end Sys2Proof.Spec

/-- R244, R245, R247 to R250: the short float instructions. fmin, fmax, fabs and fneg write a tagged result, feq, flt and fle a bit, fmvg and gmvf copy bits,
fli loads a constant by STAT.FSLM, fnum and fden take a fraction apart. Nothing else changes but the flags and counts named; a tag mismatch traps. -/
def Obligations.ShortFloatsComplete : Prop :=
  (∀ (i : Instr) (s : State) (d : BitVec 5) (xs : List FReg) (out : Option (BitVec 16 × Nat × Eff)), ReadyC s → i.wellFormed = true →
    Spec.floatShort s i = some (d, xs, out) →
    (∀ fmt p e, out = some (fmt, p, e) → exec i s = .next (((s.issued i).setF d.toNat ⟨.ofNat 64 p, fmt⟩).raise e))
    ∧ (out = none → s.cur.mode = .user → ∃ t, exec i s = .next t ∧ Spec.Trapped s t 0x04 (Spec.tagTrap i xs)))
  ∧ (∀ (i : Instr) (s : State) (d a b : BitVec 5) (quiet : Bool) (c : Int → Bool) (x y : FReg), ReadyC s → i.wellFormed = true →
    Spec.floatCompare i = some (d, a, b, quiet, c) → x = s.core.getF a.toNat → y = s.core.getF b.toNat →
    (tagOf x.fmt = tagOf y.fmt ∧ (Spec.real x.fmt || tagOf x.fmt == 12) = true →
      exec i s = .next (if x.val.unordered || y.val.unordered then
          ((s.issued i).setG d 0).raise (if quiet || x.val.signalling || y.val.signalling then ⟨16, 0, 0, 0⟩ else Eff.none)
        else (s.issued i).setG d (if c (x.val.compare y.val) then 1 else 0)))
    ∧ (¬ (tagOf x.fmt = tagOf y.fmt ∧ (Spec.real x.fmt || tagOf x.fmt == 12) = true) → s.cur.mode = .user →
      ∃ t, exec i s = .next t ∧ Spec.Trapped s t 0x04 (Spec.tagTrap i [x, y])))
  ∧ (∀ (s : State) (d a : BitVec 5) (tag : BitVec 4), ReadyC s →
    ((Instr.fmvg d a).wellFormed = true → exec (.fmvg d a) s = .next ((s.issued (.fmvg d a)).setG d (s.core.getF a.toNat).bits))
    ∧ ((Instr.gmvf d a tag).wellFormed = true → exec (.gmvf d a tag) s = .next ((s.issued (.gmvf d a tag)).setF d.toNat
        ⟨if tag.toNat ∈ [6, 12, 13] then .ofNat 64 ((s.g a).toNat % 2 ^ 32) else s.g a, mkFmt tag.toNat s.core.sys.qfxScale.toInt⟩))
    ∧ ∀ (i : Instr), (i = .fnum d a ∨ i = .fden d a) → i.wellFormed = true →
      (isFsl (tagOf (s.core.getF a.toNat).fmt) = true →
        exec i s = .next ((s.issued i).setG d (match (s.core.getF a.toNat).val with
          | .fin neg n m => if i = .fnum d a then w64 (if neg then -(n : Int) else n) else .ofNat 64 m
          | .inf neg => if i = .fnum d a then w64 (if neg then -1 else 1) else 0
          | .nar c => if i = .fnum d a then .ofNat 64 c else .ofNat 64 (2 ^ 64 - 1)
          | .nan _ => 0)))
      ∧ (isFsl (tagOf (s.core.getF a.toNat).fmt) = false → s.cur.mode = .user →
        ∃ t, exec i s = .next t ∧ Spec.Trapped s t 0x04 (Spec.tagTrap i [s.core.getF a.toNat])))
  ∧ (∀ (s : State) (d : BitVec 5) (imm : BitVec 20) (n : Int) (m : Nat), ReadyC s → n = patInt (imm.toNat / 2 ^ 10) 10 → m = imm.toNat % 2 ^ 10 →
    (s.core.sys.fslm = false → exec (.fli d imm) s = .next ((s.issued (.fli d imm)).setF d.toNat ⟨.ofNat 64 (imm.toNat * 2 ^ 12), 6⟩))
    ∧ (s.core.sys.fslm = true → ∃ r : FReg, tagOf r.fmt = 13 ∧ r.bits.toNat < 2 ^ 32
      ∧ exec (.fli d imm) s = .next (((s.issued (.fli d imm)).setF d.toNat r).raise (if n = 0 ∧ m = 0 then ⟨16, 0, 0, 1⟩ else Eff.none))
      ∧ (0 < m → ∃ neg a b, r.val = .fin neg a b ∧ (a : Int) * m = n.natAbs * b ∧ Nat.gcd a b = 1 ∧ (n ≠ 0 → neg = decide (n < 0)))
      ∧ (m = 0 → n ≠ 0 → r.val = .inf (decide (n < 0))) ∧ (m = 0 → n = 0 → r.val = .nar 2)))

/-! ### Matrix, accumulator and fast-weight instructions (spec/12_matrix_instructions.md R222 to R243, spec/03_placement.md R49) -/

namespace Sys2Proof.Spec

/-- A matrix instruction issues from s into t, which keeps every g, f and v register; `n` moves of it lead from t to u. -/
def BeginsBy (n : Nat) (s t u : State) (i : Instr) : Prop :=
  exec i s = .next t ∧ t.cur.flight ≠ [] ∧ t.cur.pc = (s.issued i).cur.pc ∧ t.cur.g = s.cur.g ∧ t.core.f = s.core.f ∧ t.core.v = s.core.v
    ∧ exec (.longOpComplete s.core.pid .c 0 n) t = .next u ∧ u.cur.pc = t.cur.pc ∧ u.cur.mode = s.cur.mode
    ∧ u.core.f = s.core.f ∧ u.core.v = s.core.v ∧ t.host = s.host

/-- The same with one move. -/
def Begins (s t u : State) (i : Instr) : Prop := BeginsBy 1 s t u i

/-- The A-stream has no access under way, so that no pop of the C-stream orders one before what the C-stream reads (R223). -/
def ADone (s : State) : Prop := s.core.a.flight = [] ∧ s.core.pending = []

/-- A SPILLED tile is filled in the move that uses it, from a record no line of which an engine holds (R199, R235), and no order log counts its read
(R344). -/
def FillsFreely (s : State) (d : BitVec 5) : Prop := (s.core.getAot d.toNat).state = .spilled → NoLineHeld s ∧ s.logMode s.who = 0

/-- The core is a gang of its own (R49, R222), so that a joint instruction begins when it issues. -/
def GangOfOne (s : State) : Prop := s.core.sys.gangMask = .ofNat 8 (2 ^ s.core.cidx)

/-- A v group or a queue operand of `count` registers or filled entries (R224, R240): what it leaves, what it holds, its format words. -/
def MatSource (s : State) (n : BitVec 5) (count : Nat) (s1 : State) (m : MOperand) (fs : List (BitVec 16)) : Prop :=
  (n.toNat < 24 ∧ s1 = s ∧ m = .regs ((List.range count).map (fun x => s.core.getV (n.toNat + x)))
      ∧ fs = (List.range count).map (fun x => (s.core.getV (n.toNat + x)).fmt))
    ∨ (24 ≤ n.toNat ∧ ∃ es rest, s.core.getQueue (n.toNat - 24) = es ++ rest ∧ es.length = count ∧ (∀ e ∈ es, e.filled = true)
      ∧ s1 = { s with core := (s.core.setQueue (n.toNat - 24) rest).saw s.core.sel es } ∧ m = .entries (n.toNat - 24) es
      ∧ fs = es.map (fun e => e.fmt))

/-- An operand of mmac: a scratchpad pair that passes every check of R225 and names a tile at rest, or a v group or queue. -/
def MacSource (s : State) (scratch : Bool) (n : BitVec 5) (f : Nat) (s1 : State) (m : MOperand) (fs : List (BitVec 16)) : Prop :=
  if scratch then
    s1 = s ∧ m = .scratch (pairOf (s.g n) (s.g (n + 1))) ∧ fs = []
      ∧ checkPairs s.core [s.readPair n (.operand (mmacRowBytes f))] = none ∧ busyTile s.core [s.readPair n (.operand (mmacRowBytes f))] = none
  else MatSource s n 8 s1 m fs

/-- The four forms of mmac: whether sa and sb are scratchpad pairs, md, sa, sb, format, promotion (R120, R224). -/
def macParts : Instr → Option (Bool × Bool × BitVec 5 × BitVec 5 × BitVec 5 × Nat × Nat)
  | .mmacVv d a b f p _ => some (false, false, d, a, b, f.toNat, p.toNat)
  | .mmacSv d a b f p _ => some (true, false, d, a, b, f.toNat, p.toNat)
  | .mmacVs d a b f p _ => some (false, true, d, a, b, f.toNat, p.toNat)
  | .mmacSs d a b f p _ => some (true, true, d, a, b, f.toNat, p.toNat)
  | _ => none

/-- One element after one promotion group (R227): 2^p products added exactly and rounded or saturated once. -/
def macGroup (f p : Nat) (a b : List Val) (c grp : Nat) : Nat :=
  if f = 2 then
    intPat (min (max (patInt c 32 + ((((a.drop (grp * 2 ^ p)).take (2 ^ p)).zip (b.drop (grp * 2 ^ p))).map
      (fun x => x.1.q.num * x.2.q.num)).sum) (-(2 ^ 31))) (2 ^ 31 - 1)) 32
  else (sumProducts [f32 c] (((a.drop (grp * 2 ^ p)).take (2 ^ p)).zip ((b.drop (grp * 2 ^ p)).take (2 ^ p)))).1

/-- One element after an mmac (R227): its promotion groups in increasing k. -/
def macElem (f p : Nat) (a b : List Val) (c : Nat) : Nat := (List.range (mmacK f / 2 ^ p)).foldl (macGroup f p a b) c

/-- The tile md stands ready after the check of R235: claimed when it was free, filled when it was spilled. -/
def TileReady (s s1 : State) (d : BitVec 5) : Prop := ∃ v, s.useTile d.toNat = .ok s1 v

/-- R49, R120, R121: two joint instructions have one major and one function: fn of a matrix form, bit 31 of a fast-weight form, and bits 30 and 29
where bit 31 is 1. -/
def SameFunction (x y : BitVec 32) : Prop :=
  x.extractLsb' 1 6 = y.extractLsb' 1 6 ∧
    if x.extractLsb' 1 6 = 44 then x.extractLsb' 31 1 = y.extractLsb' 31 1 ∧ (x.extractLsb' 31 1 = 1 → x.extractLsb' 29 2 = y.extractLsb' 29 2)
    else x.extractLsb' 29 3 = y.extractLsb' 29 3

/-- The core waits at a joint instruction, the only one it has issued, and its stream can meet (R49). -/
def AtJoint (k : Core) (o : LongOp) : Prop :=
  k.c.flight = [o] ∧ o.joint = true ∧ o.status = .gang ∧ k.c.stopped = none ∧ k.handler = none ∧ k.moving = false ∧ o.mode = .user

end Sys2Proof.Spec

/-- R222 to R229: with its operands there and of its format, and a tile that may accumulate it, an mmac of a gang of one replaces every element of its
tile by the promotion groups of its products, one group in each of its moves, and then completes; other tiles, the registers and memory stay. A raw tile
becomes fp32, or i32 for i8. In a gang of more it waits. What counts under NAN is the model's reading (log entry 25). -/
def Obligations.MatrixMultiplyCompletes : Prop :=
  ∀ (i : Instr) (s s1 s2 s3 : State) (scA scB : Bool) (d a b : BitVec 5) (f p : Nat) (ma mb : MOperand) (fa fb : List (BitVec 16)) (c : Tile),
    ReadyC s → s.cur.drain = none → s.isUpdate = false → i.wellFormed = true → Spec.macParts i = some (scA, scB, d, a, b, f, p) →
    s.core.leads = true → Spec.MacSource (s.issued i) scA a f s1 ma fa → Spec.MacSource s1 scB b f s2 mb fb →
    (∀ x, x ∈ fa ++ fb → tagOf x = mmacTag f) → Spec.TileReady s2 s3 d → (∀ x, s2.useTile d.toNat = .ok s3 x → c = s3.core.getTile d.toNat) →
    (c.tag = .raw ∨ (f = 2 ∧ c.tag = .i32) ∨ (f ≠ 2 ∧ c.tag = .fp32)) → Spec.FillsFreely s d →
    (Spec.GangOfOne s → (scA = true ∨ scB = true → Spec.ADone s) → ∃ t u c1, Spec.BeginsBy (mmacK f / 2 ^ p) s t u i ∧ u.cur.flight = []
      ∧ u.cur.g = s.cur.g ∧ u.core.queues = s2.core.queues
      ∧ u.core.tiles = (s3.core.setTile d.toNat c1).tiles ∧ u.core.aot = s3.core.aot ∧ u.pool = s3.pool ∧ u.core.spad = s.core.spad
      ∧ c1.tag = (if f = 2 then TileTag.i32 else .fp32)
      ∧ ∀ r j, r < 16 → j < 16 → c1.at r j = Spec.macElem f p (rowValues f (s.core.operandRow (mmacRowBytes f) ma r))
          (rowValues f (s.core.operandRow (mmacRowBytes f) mb j)) (c.at r j))
    ∧ (¬ Spec.GangOfOne s → ∃ t, exec i s = .next t ∧ t.cur.flight.map (fun op => op.status) = [.gang]
      ∧ t.core.tiles = (if (s.core.getAot d.toNat).state = .spilled then s.core.tiles else s3.core.tiles)
      ∧ t.cur.g = s.cur.g ∧ t.core.v = s.core.v ∧ t.cur.pc = (s.issued i).cur.pc)

/-- R49, R222: when every member of a gang has issued a joint instruction of one major and function under one MASK, GANG_MEET begins it on every member.
Where MASK leaves the issuing core out, names a core that runs no task of the team, or differs between members, or where the instructions differ in
major or function, every member traps with cause 0x13 and its own instruction word; a member whose own MASK names a gang that agrees begins with that
gang instead, and that a wrong MASK is found at once is the model's choice (log entry 72). When a gang's multiply-accumulate goes on, each member's tile takes
the next group of products of the leader's A with its own B, and the members complete together. That the whole gang moves together is the model's
reading (log entry 24). -/
def Obligations.GangsMeet : Prop :=
  (∀ (s : State) (op : LongOp) (pids : List Nat) (joint : Nat → LongOp), pids = gangCores s.core.cluster op.members →
    joint s.core.pid = op → (∀ p, p ∈ pids ∨ p = s.core.pid → p = s.core.pid ∨ sameTeam s.core (s.coreAt p) = true →
      Spec.AtJoint (s.coreAt p) (joint p)) →
    (op.members.getLsbD s.core.cidx = true → (∀ p ∈ pids, p = s.core.pid ∨ sameTeam s.core (s.coreAt p) = true) →
      (∀ p ∈ pids, (joint p).members = op.members ∧ Spec.SameFunction op.word (joint p).word) →
      ∃ t, exec (.gangMeet s.core.pid) s = .next t
        ∧ (∀ p ∈ pids, (t.coreAt p).c.flight = [{ joint p with status := .running, met := true }])
        ∧ ∀ p, (t.coreAt p).tiles = (s.coreAt p).tiles ∧ (p ∉ pids → t.coreAt p = s.coreAt p))
    ∧ (op.members.getLsbD s.core.cidx = false ∨ (∃ p ∈ pids, p ≠ s.core.pid ∧ sameTeam s.core (s.coreAt p) = false)
        ∨ ((∃ p ∈ pids, (joint p).members ≠ op.members ∨ ¬ Spec.SameFunction op.word (joint p).word)
          ∧ ∀ p ∈ pids, (joint p).members ≠ op.members → s.gangAgrees (s.coreAt p) (joint p) = false) →
      ∃ t, exec (.gangMeet s.core.pid) s = .next t
        ∧ (∀ p, p ∈ pids ∨ p = s.core.pid → p = s.core.pid ∨ sameTeam s.core (s.coreAt p) = true →
            (t.coreAt p).c.flight = [{ joint p with status := .trapped 0x13 ((joint p).word.zeroExtend 64) }])
        ∧ ∀ p, (t.coreAt p).tiles = (s.coreAt p).tiles
          ∧ (p ≠ s.core.pid → p ∉ pids ∨ sameTeam s.core (s.coreAt p) = false → t.coreAt p = s.coreAt p)))
  ∧ (∀ (s : State) (heads : List (Nat × LongOp)) (op lop : LongOp) (lead lf lp ld : Nat) (la lb : MOperand), s.core.c.flight = [op] → op.joint = true →
    s.dev.poison = [] → s.gangHeads op = some heads → heads.head? = some (lead, lop) → (s.core.pid, op) ∈ heads →
    lop.work = .mmac lf lp ld la lb → s.gangUnseen heads = false →
    (∀ h ∈ heads, (s.coreAt h.1).selfMoves h.2 = true) → ¬ (s.core.a.exited = true ∧ s.core.c.exited = true) →
    (∀ h ∈ heads, ∃ hf hp hd ha hb, h.2.work = .mmac hf hp hd ha hb ∧ hd < 32 ∧ ((s.coreAt h.1).getAot hd).state = .owned
      ∧ (s.select h.1).tileForeign hd = false ∧ (s.coreAt h.1).c.flight = [h.2] ∧ h.2.prog < mmacK hf / 2 ^ hp
      ∧ (((s.coreAt h.1).getTile hd).tag = .raw ∨ ((s.coreAt h.1).getTile hd).tag = (if hf = 2 then TileTag.i32 else .fp32))) →
    ∃ t, exec (.longOpComplete s.core.pid .c 0 1) s = .next t
      ∧ ∀ h ∈ heads, ∀ hf hp hd ha hb, h.2.work = .mmac hf hp hd ha hb →
        ((∀ x ∈ heads, x.2.work.groups = x.2.prog + 1) → (t.coreAt h.1).c.flight = [])
        ∧ (h.2.prog + 1 < mmacK hf / 2 ^ hp → (t.coreAt h.1).c.flight.map (fun o => o.prog) = [h.2.prog + 1])
        ∧ ∃ c1, (t.coreAt h.1).tiles = ((s.coreAt h.1).setTile hd c1).tiles
          ∧ ∀ r j, r < 16 → j < 16 → c1.at r j = Spec.macGroup hf hp
            (rowValues lf ((s.coreAt lead).operandRow (mmacRowBytes lf) la r))
            (rowValues hf ((s.coreAt h.1).operandRow (mmacRowBytes hf) hb j)) (((s.coreAt h.1).getTile hd).at r j) h.2.prog)

namespace Sys2Proof.Spec

/-- A matrix, accumulator or fast-weight instruction finds what R225 checks before its tile: operands there and of its format, a pair that passes the
checks, a tile of the scratchpad at rest, room for the entry that it reserves (R224, R225, R231, R239, R241). -/
def OperandsStand (s : State) (i : Instr) (d : BitVec 5) : Prop :=
  (∃ (scA scB : Bool) (a b : BitVec 5) (f p : Nat) (s1 s2 : State) (ma mb : MOperand) (fa fb : List (BitVec 16)), macParts i = some (scA, scB, d, a, b, f, p)
      ∧ s.core.leads = true ∧ MacSource (s.issued i) scA a f s1 ma fa ∧ MacSource s1 scB b f s2 mb fb ∧ ∀ x, x ∈ fa ++ fb → tagOf x = mmacTag f)
    ∨ (∃ (a : BitVec 5) (la : BitVec 4) (use : PairUse), ((i = .mload d a la ∧ use = .load) ∨ (i = .mstore d a la ∧ use = .store))
      ∧ checkPairs s.core [s.readPair a use] = none ∧ busyTile s.core [s.readPair a use] = none)
    ∨ (∃ (a b : BitVec 5) (la : BitVec 4), i = .mdrain d a b la ∧ (s.g a).toNat % 2 = 0
      ∧ (b.toNat < 28 → checkPairs s.core [s.readPair b .drain] = none ∧ (s.core.getEntry (pairOf (s.g b) (s.g (b + 1))).tid).jobs < 255))
    ∨ (∃ (a b f : BitVec 5) (la : BitVec 4) (s1 s2 : State) (mk mv : MOperand) (fk fv : List (BitVec 16)), i = .fwdelta d a b f la
      ∧ s.core.leads = true ∧ MatSource (s.issued i) a 1 s1 mk fk ∧ MatSource s1 b 1 s2 mv fv ∧ ∀ x, x ∈ fk ++ fv → tagOf x = 6)
    ∨ (∃ (a : BitVec 5) (la : BitVec 4) (s1 : State) (mq : MOperand) (fq : List (BitVec 16)), i = .fwread d a la
      ∧ s.core.leads = true ∧ MatSource (s.issued i) a 1 s1 mq fq ∧ (∀ x, x ∈ fq → tagOf x = 6) ∧ (s.core.getQueue 4).length < 16)
    ∨ ∃ (n : BitVec 3) (la : BitVec 4), i = .fwchunk d n la

end Sys2Proof.Spec

/-- R235: a free tile that an instruction uses becomes owned by its context, raw and zero; an owned or pinned tile of the context is used as it is; a tile of
another context traps with cause 0x09, reason 1, and the tile's number, and the instruction changes nothing: mzero, mfree, mspill, mfill, and, once their
operands are there and of the right format, every mmac, mload, mstore, mdrain and the fast-weight instructions. -/
def Obligations.TileOwnershipIsChecked : Prop :=
  (∀ (s : State) (d : Nat), d < 32 → (s.core.getAot d).state = .free →
    ∃ t, s.useTile d = .ok t 0 ∧ (t.core.getAot d).state = .owned ∧ (t.core.getAot d).owner = s.taskCtx ∧ t.core.getTile d = .zero
      ∧ ∀ n, n ≠ d → t.core.getAot n = s.core.getAot n ∧ t.core.getTile n = s.core.getTile n)
  ∧ (∀ (s : State) (d : Nat), (s.core.getAot d).state = .owned ∨ (s.core.getAot d).state = .pinned → (s.core.getAot d).owner = s.taskCtx →
    s.useTile d = .ok s 0)
  ∧ (∀ (i : Instr) (s : State) (d : BitVec 5) (la : BitVec 4), ReadyC s → s.cur.mode = .user → s.cur.drain = none → i.wellFormed = true →
    i = .mzero d la ∨ i = .mfree d ∨ i = .mspill d la ∨ i = .mfill d la →
    (s.core.getAot d.toNat).state ≠ .free → (s.core.getAot d.toNat).owner ≠ s.taskCtx →
    ∃ t, exec i s = .next t ∧ Spec.Trapped s t 0x09 (.ofNat 64 (2 ^ 8 + d.toNat)))
  ∧ (∀ (i : Instr) (s : State) (d : BitVec 5), ReadyC s → s.cur.mode = .user → s.cur.drain = none → s.isUpdate = false → i.wellFormed = true →
    Spec.OperandsStand s i d → (s.core.getAot d.toNat).state ≠ .free → (s.core.getAot d.toNat).owner ≠ s.taskCtx →
    ∃ t, exec i s = .next t ∧ Spec.Trapped s t 0x09 (.ofNat 64 (2 ^ 8 + d.toNat)))

namespace Sys2Proof.Spec

/-- Row r of a tile as 16 lanes, with format word fp32, or i32 for an i32 tile (R231). -/
def IsRow (c : Tile) (r : Nat) (x : VReg) : Prop :=
  x.fmt = (if c.tag = .i32 then mkFmt 3 0 else mkFmt 6 0) ∧ ∀ j, j < 16 → laneOf 6 x.bits.toNat j = c.at r j

/-- A row has left: row r of tile d is zero, and after row 15 the tile is raw; every other tile and row stays (R231). -/
def RowLeft (s u : State) (d r : Nat) : Prop :=
  ((u.core.getTile d).tag = if r = 15 then TileTag.raw else (s.core.getTile d).tag)
    ∧ (∀ q j, q < 16 → j < 16 → (u.core.getTile d).at q j = if q = r ∨ r = 15 then 0 else (s.core.getTile d).at q j)
    ∧ ∀ n, n ≠ d → u.core.getTile n = s.core.getTile n

/-- Row r goes to the drain's destination: a filled entry at the end of a queue, or the first RB bytes of the row of a pair, whose words are full (R231). -/
def RowPut (s u : State) (b : BitVec 5) (p : Pair) (r : Nat) (x : VReg) : Prop :=
  (28 ≤ b.toNat → (∃ e, u.core.getQueue (b.toNat - 24) = s.core.getQueue (b.toNat - 24) ++ [e] ∧ e.filled = true ∧ e.bits = x.bits ∧ e.fmt = x.fmt)
      ∧ u.core.spad = s.core.spad)
    ∧ (b.toNat < 28 → u.core.queues = s.core.queues
      ∧ ((∀ y y', y < PairUse.drain.rowBytes p → y' < PairUse.drain.rowBytes p → PairUse.drain.at p r y = PairUse.drain.at p r y' → y = y') →
        ∀ y, y < PairUse.drain.rowBytes p → (Memory.get u.core.spad (PairUse.drain.at p r y)).toNat = x.bits.toNat / 2 ^ (8 * y) % 2 ^ 8
          ∧ u.core.isFull (PairUse.drain.at p r y / 8) = true)
      ∧ ∀ off, (∀ y, y < PairUse.drain.rowBytes p → PairUse.drain.at p r y ≠ off) → Memory.get u.core.spad off = Memory.get s.core.spad off)

end Sys2Proof.Spec

/-- R230: mzero makes its tile raw and zero; mload takes its elements from the operand's rows, and its tag from ITAG; mstore writes the tile's rows,
little endian, and changes no other byte and no full/empty bit. R231, R232: mdrain without a handler moves one row in each of its moves, from row 0
on, and zeroes it behind itself; it completes with row 15, the tile raw. A scratchpad destination makes its tile-table entry filling until then. With
a handler it calls the handler with the row in v23
and its index in g31; hret puts v23 where the row goes and calls the handler for the next row, or after row 15 returns behind the mdrain with the
tile raw. Details of the handler's calls are the model's reading (log entry 26). -/
def Obligations.TileMovesAndDrainsComplete : Prop :=
  ((∀ (s s1 : State) (d : BitVec 5) (la : BitVec 4), ReadyC s → s.cur.drain = none → Spec.TileReady (s.issued (.mzero d la)) s1 d →
     Spec.FillsFreely s d → ∃ t u, Spec.Begins s t u (.mzero d la) ∧ u.cur.flight = [] ∧ u.cur.g = s.cur.g ∧ u.core.tiles = (s1.core.setTile d.toNat .zero).tiles
       ∧ u.core.aot = s1.core.aot ∧ u.core.spad = s.core.spad ∧ u.pool = s1.pool)
   ∧ (∀ (s s1 : State) (i : Instr) (d a : BitVec 5) (la : BitVec 4) (use : PairUse) (p : Pair), ReadyC s → s.cur.drain = none → i.wellFormed = true →
     (i = .mload d a la ∧ use = .load) ∨ (i = .mstore d a la ∧ use = .store) → p = pairOf (s.g a) (s.g (a + 1)) →
     checkPairs s.core [s.readPair a use] = none → busyTile s.core [s.readPair a use] = none → Spec.TileReady (s.issued i) s1 d →
     Spec.FillsFreely s d → (use = .load → Spec.ADone s) →
     ∃ t u, Spec.Begins s t u i ∧ u.cur.flight = [] ∧ u.cur.g = s.cur.g ∧ u.core.aot = s1.core.aot ∧ u.pool = s1.pool ∧ u.core.full = s.core.full
       ∧ (use = .load → u.core.spad = s.core.spad ∧ ∃ c1, u.core.tiles = (s1.core.setTile d.toNat c1).tiles
         ∧ c1.tag = (if p.itag then TileTag.i32 else .fp32)
         ∧ ∀ r j, r < 16 → j < 16 → c1.at r j
             = bytesNat ((List.range 4).map (fun b => Memory.get s.core.spad (PairUse.load.at p r (4 * j + b)))))
       ∧ (use = .store → u.core.tiles = s1.core.tiles
         ∧ ((∀ r x r' x', r < 16 → x < 64 → r' < 16 → x' < 64 → PairUse.store.at p r x = PairUse.store.at p r' x' → r = r' ∧ x = x') →
           ∀ r x, r < 16 → x < 64 → (Memory.get u.core.spad (PairUse.store.at p r x)).toNat
             = (s1.core.getTile d.toNat).at r (x / 4) / 2 ^ (8 * (x % 4)) % 2 ^ 8)
         ∧ ∀ off, (∀ r x, r < 16 → x < 64 → PairUse.store.at p r x ≠ off) → Memory.get u.core.spad off = Memory.get s.core.spad off)))
  ∧ ((∀ (s s1 : State) (i : Instr) (d a b : BitVec 5) (la : BitVec 4) (p : Pair), ReadyC s → s.cur.drain = none → i = .mdrain d a b la →
       i.wellFormed = true → p = pairOf (s.g b) (s.g (b + 1)) →
       (b.toNat < 28 → checkPairs s.core [s.readPair b .drain] = none ∧ (s.core.getEntry p.tid).jobs < 255) →
       (28 ≤ b.toNat → (s.core.getQueue (b.toNat - 24)).length < 16) → (s.g a).toNat % 2 = 0 → Spec.TileReady (s.issued i) s1 d →
       Spec.FillsFreely s d →
       (a = 0 → ∃ t u x, Spec.Begins s t u i ∧ u.cur.g = s.cur.g ∧ Spec.IsRow (s1.core.getTile d.toNat) 0 x ∧ Spec.RowPut s u b p 0 x
         ∧ Spec.RowLeft s1 u d.toNat 0 ∧ u.cur.flight ≠ []
         ∧ (b.toNat < 28 → (u.core.getEntry p.tid).state = .filling ∧ (u.core.getEntry p.tid).jobs = (s.core.getEntry p.tid).jobs + 1))
       ∧ (a ≠ 0 → ∃ t x, exec i s = .next t ∧ Spec.IsRow (s1.core.getTile d.toNat) 0 x ∧ t.core.v = (s.core.setV 23 x).v
         ∧ t.cur.g = (s.cur.setG 31 0).g ∧ t.cur.pc = s.g a ∧ t.core.tiles = s1.core.tiles ∧ t.cur.drain.map (fun y => y.ret) = some (s.cur.pc + 4)
         ∧ t.cur.flight ≠ [] ∧ t.core.queues = s.core.queues ∧ t.core.spad = s.core.spad ∧ t.core.f = s.core.f))
     ∧ (∀ (s : State) (op : LongOp) (d : Nat) (b : BitVec 5) (p : Pair), s.core.c.flight = [op] → op.status = .running → s.core.freezes op = false →
       s.dev.poison = [] → s.core.c.exited = false → op.work = .mdrain d (if 28 ≤ b.toNat then .queue (b.toNat - 24) else .scratch p) none → d < 32 →
       (s.core.getAot d).state = .owned ∨ (s.core.getAot d).state = .pinned → (s.core.getAot d).owner = s.taskCtx → op.prog < 16 →
       (28 ≤ b.toNat → (s.core.getQueue (b.toNat - 24)).length < 16) → p.tid < 64 →
       ∃ u x, exec (.longOpComplete s.core.pid .c 0 1) s = .next u ∧ Spec.IsRow (s.core.getTile d) op.prog x ∧ Spec.RowPut s u b p op.prog x
         ∧ Spec.RowLeft s u d op.prog ∧ u.core.f = s.core.f ∧ u.core.v = s.core.v ∧ u.core.c.g = s.core.c.g
         ∧ (op.prog < 15 → u.core.c.flight = [{ op with prog := op.prog + 1 }])
         ∧ (op.prog = 15 → u.core.c.flight = [] ∧ (b.toNat < 28 → (u.core.getEntry p.tid).jobs = (s.core.getEntry p.tid).jobs - 1
           ∧ ((s.core.getEntry p.tid).jobs = 1 → (u.core.getEntry p.tid).state = .ready))))
     ∧ (∀ (s : State) (op : LongOp) (ctx : DrainCtx) (d : Nat) (b : BitVec 5) (p : Pair) (h : Word), s.core.sel = .c → s.canIssue = true →
       s.dueTrap.isNone = true → s.cur.wins = [] → s.cur.fence = [] → s.dev.poison = [] → s.cur.drain = some ctx → s.cur.flight = [op] →
       op.id = ctx.op → op.dests = [] → op.prog < 16 →
       op.work = .mdrain d (if 28 ≤ b.toNat then .queue (b.toNat - 24) else .scratch p) (some h) → d < 32 →
       (28 ≤ b.toNat → (s.core.getQueue (b.toNat - 24)).length < 16) →
       ∃ t, exec .hret s = .next t ∧ Spec.RowPut s t b p op.prog (s.core.getV 23) ∧ Spec.RowLeft s t d op.prog ∧ t.core.f = s.core.f
         ∧ (op.prog < 15 → ∃ x, Spec.IsRow (s.core.getTile d) (op.prog + 1) x ∧ t.core.v = (s.core.setV 23 x).v
           ∧ t.cur.g = (s.cur.setG 31 (.ofNat 64 (op.prog + 1))).g ∧ t.cur.pc = h ∧ t.cur.drain = some ctx)
         ∧ (op.prog = 15 → t.core.v = s.core.v ∧ t.cur.g = s.cur.g ∧ t.cur.pc = ctx.ret ∧ t.cur.drain = none ∧ t.cur.flight = [])))

namespace Sys2Proof.Spec

/-- A spill record does not go with the group of a key: its magic, key, context or count differs, or the CRC of its tiles is not the one it holds
(R237, R238). -/
def RecordDiffers (r : List Byte) (p : PinKey) (ctx : Nat) : Prop :=
  bytesNat (r.take 4) ≠ 0x4B5A4650 ∨ bytesNat ((r.drop 4).take 4) ≠ p.key.toNat ∨ bytesNat ((r.drop 8).take 2) ≠ ctx
    ∨ bytesNat ((r.drop 12).take 1) ≠ p.count ∨ bytesNat ((r.drop 20).take 4) ≠ crc32c (r.drop 64)

end Sys2Proof.Spec

/-- R233, R236: mpin turns free or owned tiles into a pinned group, held and with no tokens, under a key that enters the context's directory, with an
address that is a multiple of 64; a raw tile takes the tag of the others, or fp32. mfree turns a group's tiles into owned ones and its key leaves
the directory; the tiles of a spilled group become raw. A key already held traps with cause 0x09, reason 3. R236 to R238: mspill writes a pinned
group's record and its state becomes spilled; mfill reads a spilled group's record back when its magic, key, context, count and CRC agree, and traps
with cause 0x0A when any of them does not; each leaves a group in the other state as it is. mown answers all ones for a key that is not in the directory, and
the first tile of a pinned group of this core, which is held from then on. -/
def Obligations.TileGroupsComplete : Prop :=
  ((∀ (s : State) (d a b : BitVec 5) (key : BitVec 32) (n : Nat) (i : Instr), ReadyC s → s.cur.drain = none → i = .mpin d a b → i.wellFormed = true →
     s.g a = key.zeroExtend 64 → (s.g b).toNat < 2 ^ 56 → n = (s.g b).toNat % 64 → 0 < n → d.toNat + n ≤ 32 →
     (∀ x, x < n → (s.core.getAot (d.toNat + x)).state = .free
       ∨ ((s.core.getAot (d.toNat + x)).state = .owned ∧ (s.core.getAot (d.toNat + x)).owner = s.taskCtx)) →
     (∀ p ∈ (s.ctxAt s.taskCtx).pins, p.key ≠ key) → (s.ctxAt s.taskCtx).pins.length < 1024 →
     ∀ g : TileTag, g ≠ .raw → (∀ x, x < n → (s.core.getAot (d.toNat + x)).state = .owned →
         (s.core.getTile (d.toNat + x)).tag = .raw ∨ (s.core.getTile (d.toNat + x)).tag = g) →
       (g = .i32 → ∃ x, x < n ∧ (s.core.getAot (d.toNat + x)).state = .owned ∧ (s.core.getTile (d.toNat + x)).tag = .i32) →
     ∃ t, exec i s = .next t ∧ t.cur.pc = (s.issued i).cur.pc ∧ t.cur.g = s.cur.g ∧ t.core.f = s.core.f ∧ t.core.v = s.core.v ∧ t.pool = s.pool
       ∧ (∀ x, x < n → t.core.getAot (d.toNat + x)
             = ⟨.pinned, s.taskCtx, d.toNat, n, true, 0, key, .ofNat 64 ((s.g b).toNat / 64 % 2 ^ 50 * 64)⟩
         ∧ (t.core.getTile (d.toNat + x)).tag = g ∧ ∀ r j, r < 16 → j < 16 → (t.core.getTile (d.toNat + x)).at r j
             = if (s.core.getAot (d.toNat + x)).state = .free then 0 else (s.core.getTile (d.toNat + x)).at r j)
       ∧ (∀ x, x < d.toNat ∨ d.toNat + n ≤ x → t.core.getAot x = s.core.getAot x ∧ t.core.getTile x = s.core.getTile x)
       ∧ (t.ctxAt s.taskCtx).pins = ⟨key, some s.core.pid, d.toNat, n, .pinned, some s.core.pid, 0, .ofNat 64 ((s.g b).toNat / 64 % 2 ^ 50 * 64)⟩
           :: (s.ctxAt s.taskCtx).pins)
   ∧ (∀ (s : State) (d a b : BitVec 5) (i : Instr), ReadyC s → s.cur.mode = .user → s.cur.drain = none → i = .mpin d a b → i.wellFormed = true →
     (s.g a).toNat < 2 ^ 32 → (s.g b).toNat < 2 ^ 56 → 0 < (s.g b).toNat % 64 → d.toNat + (s.g b).toNat % 64 ≤ 32 →
     (∀ x, x < (s.g b).toNat % 64 → (s.core.getAot (d.toNat + x)).state = .free) →
     (∃ p ∈ (s.ctxAt s.taskCtx).pins, p.key = (s.g a).truncate 32) →
     ∃ t, exec i s = .next t ∧ Spec.Trapped s t 0x09 (.ofNat 64 ((s.g a).toNat * 2 ^ 32 + 3 * 2 ^ 8 + d.toNat)))
   ∧ (∀ (s : State) (d : BitVec 5) (e : AotEntry), ReadyC s → s.cur.drain = none → e = s.core.getAot d.toNat → e.owner = s.taskCtx →
     e.state = .pinned ∨ e.state = .spilled → e.first = d.toNat → d.toNat + e.count ≤ 32 →
     ∃ t, exec (.mfree d) s = .next t ∧ t.cur.pc = (s.issued (.mfree d)).cur.pc ∧ t.cur.g = s.cur.g ∧ t.core.f = s.core.f ∧ t.core.v = s.core.v
       ∧ t.pool = s.pool
       ∧ (∀ x, x < e.count → (t.core.getAot (d.toNat + x)).state = .owned ∧ (t.core.getAot (d.toNat + x)).owner = s.taskCtx
         ∧ t.core.getTile (d.toNat + x) = if e.state = .spilled then .zero else s.core.getTile (d.toNat + x))
       ∧ (∀ x, x < d.toNat ∨ d.toNat + e.count ≤ x → t.core.getAot x = s.core.getAot x ∧ t.core.getTile x = s.core.getTile x)
       ∧ (t.ctxAt s.taskCtx).pins = (s.ctxAt s.taskCtx).pins.filter (fun p => p.key != e.key)))
  ∧ ((∀ (s : State) (i : Instr) (d : BitVec 5) (la : BitVec 4) (e : AotEntry), ReadyC s → s.cur.drain = none → e = s.core.getAot d.toNat →
       e.owner = s.taskCtx → e.first = d.toNat → 0 < e.count → d.toNat + e.count ≤ 32 → e.owner < 2 ^ 16 → Spec.NoLineHeld s →
       s.logMode s.who = 0 →
       (i = .mspill d la → e.state = .pinned → ∀ cs, s.locate (recordWho s.core.pid e.owner) .engWrite e.spill (64 + 1024 * e.count) = .ok cs →
         ∃ t u, Spec.Begins s t u i ∧ u.cur.flight = [] ∧ u.cur.g = s.cur.g ∧ u.core.tiles = s.core.tiles
           ∧ u.pool = (s.pokeAll cs (spillRecord s.core d.toNat)).pool
           ∧ ∀ x, u.core.getAot x = if d.toNat ≤ x ∧ x < d.toNat + e.count then { s.core.getAot x with state := .spilled } else s.core.getAot x)
       ∧ (i = .mfill d la → e.state = .spilled → ∀ p cs bs tokens tag, (s.ctxAt e.owner).pin e.key = some p → p.count = e.count →
         s.locate (recordWho s.core.pid e.owner) .engRead p.spill (64 + 1024 * p.count) = .ok cs → bs.length = 1024 * p.count → tag ∈ [3, 6] →
         s.peekAll cs = natBytes 0x4B5A4650 4 ++ natBytes p.key.toNat 4 ++ natBytes e.owner 2 ++ natBytes tag 2 ++ natBytes p.count 1
           ++ natBytes d.toNat 1 ++ natBytes 0 2 ++ natBytes tokens 4 ++ natBytes (crc32c bs) 4 ++ List.replicate 40 0 ++ bs → tokens < 2 ^ 32 →
         ∃ t u, Spec.Begins s t u i ∧ u.cur.flight = [] ∧ u.cur.g = s.cur.g ∧ u.pool = s.pool
           ∧ (∀ x, x < e.count → (u.core.getAot (d.toNat + x)).state = .pinned ∧ (u.core.getAot (d.toNat + x)).tokens.toNat = tokens
             ∧ (u.core.getTile (d.toNat + x)).tag = (if tag = 3 then TileTag.i32 else .fp32)
             ∧ ∀ r j, r < 16 → j < 16 → (u.core.getTile (d.toNat + x)).at r j = bytesNat ((bs.drop (1024 * x + 64 * r + 4 * j)).take 4))
           ∧ ∀ x, x < d.toNat ∨ d.toNat + e.count ≤ x → u.core.getAot x = s.core.getAot x ∧ u.core.getTile x = s.core.getTile x)
       ∧ (i = .mfill d la → e.state = .spilled → s.cur.mode = .user → ∀ p cs, (s.ctxAt e.owner).pin e.key = some p → p.count = e.count →
         s.locate (recordWho s.core.pid e.owner) .engRead p.spill (64 + 1024 * p.count) = .ok cs → Spec.RecordDiffers (s.peekAll cs) p e.owner →
         ∃ t u, Spec.Begins s t u i ∧ u.core.tiles = s.core.tiles ∧ u.cur.flight.map (fun op => op.status) = [.trapped 0x0A p.spill])
       ∧ ((i = .mspill d la ∧ e.state = .spilled) ∨ (i = .mfill d la ∧ e.state = .pinned) →
         ∃ t u, Spec.Begins s t u i ∧ u.cur.flight = [] ∧ u.core.tiles = s.core.tiles ∧ u.core.aot = s.core.aot ∧ u.pool = s.pool))
     ∧ (∀ (s : State) (d a : BitVec 5) (la : BitVec 4) (i : Instr) (key : BitVec 32), ReadyC s → s.cur.drain = none → i = .mown d a la →
       i.wellFormed = true → s.g a = key.zeroExtend 64 →
       ((s.ctxAt s.taskCtx).pin key = none → ∃ t u, Spec.Begins s t u i ∧ u.cur.flight = [] ∧ u.core.tiles = s.core.tiles ∧ u.core.aot = s.core.aot
         ∧ u.cur.g = (s.cur.setG d.toNat (.ofNat 64 (2 ^ 64 - 1))).g)
       ∧ (∀ p, (s.ctxAt s.taskCtx).pin key = some p → p.core = some s.core.pid → p.state = .pinned → (p.held = none ∨ p.held = some s.core.pid) →
         ∃ t u, Spec.Begins s t u i ∧ u.cur.flight = [] ∧ u.core.tiles = s.core.tiles ∧ u.cur.g = (s.cur.setG d.toNat (.ofNat 64 p.first)).g
           ∧ ((u.ctxAt s.taskCtx).pin key).map (fun x => x.held) = some (some s.core.pid)
           ∧ ∀ x, p.first ≤ x → x < p.first + (s.core.getAot p.first).count → x < 32 → (u.core.getAot x).held = true)))

namespace Sys2Proof.Spec

/-- Element (i, j) of S over a group of tiles from d on (R239). -/
def fast (k : Core) (d i j : Nat) : Nat := (k.getTile (d + j / 16)).at i (j % 16)

/-- Row i of S times a vector, rounded once (R240, R241). -/
def rowTimes (k : Core) (d c i : Nat) (ks : List Nat) : Nat :=
  (sumProducts [] ((List.range (16 * c)).map (fun j => (f32 (fast k d i j), f32 ((ks[j]?).getD 0))))).1

/-- Element (i, j) after the update of R240, with each rounding in its place. -/
def fastStep (k : Core) (d c : Nat) (ks vs : List Nat) (alpha beta i j : Nat) : Nat :=
  let u := rowTimes k d c i ks
  let w := (sumProducts [] [(f32 alpha, f32 u)]).1
  let e := (sumProducts [f32 ((vs[i]?).getD 0), (f32 w).negate] []).1
  let b := (sumProducts [] [(f32 beta, f32 e)]).1
  (sumProducts [] [(f32 alpha, f32 (fast k d i j)), (f32 b, f32 ((ks[j]?).getD 0))]).1

/-- The group at d is this context's, pinned, of c tiles that hold fp32 (R239). -/
def FastGroup (s : State) (d c : Nat) : Prop :=
  (s.core.getAot d).state = .pinned ∧ (s.core.getAot d).owner = s.taskCtx ∧ (s.core.getAot d).first = d ∧ (s.core.getAot d).count = c
    ∧ 0 < c ∧ d + c ≤ 32 ∧ ∀ x, x < c → (s.core.getTile (d + x)).tag = .fp32 ∧ (s.core.getAot (d + x)).state = .pinned
      ∧ (s.core.getAot (d + x)).owner = s.taskCtx

/-- The group has taken one token: every element as R240 gives, TOKENS one more, other tiles as they were. -/
def TokenApplied (s u : State) (d c : Nat) (ks vs : List Nat) (alpha beta : Nat) : Prop :=
  (∀ i j, i < 16 → j < 16 * c → fast u.core d i j = fastStep s.core d c ks vs alpha beta i j)
    ∧ (∀ x, x < c → (u.core.getTile (d + x)).tag = .fp32 ∧ (u.core.getAot (d + x)).tokens = (s.core.getAot (d + x)).tokens + 1)
    ∧ ∀ x, x < d ∨ d + c ≤ x → u.core.getTile x = s.core.getTile x ∧ u.core.getAot x = s.core.getAot x

end Sys2Proof.Spec

/-- R239 to R243: on a gang of one, fwdelta applies one token to its group with the keys, values and gates that it names; fwread fills the q4 entry that it reserved
with S times q and changes nothing else; fwchunk takes one token's keys, gates, queries and values from q0, q1 and q2 in each move, applies the token and pushes
the new S times q into q4. That the whole gang executes in one move, and what counts under NAN, are the model's (log entries 24 and 25). -/
def Obligations.FastWeightsComplete : Prop :=
  (∀ (s s1 s2 : State) (i : Instr) (d a b f : BitVec 5) (la : BitVec 4) (c : Nat) (mk mv : MOperand) (fk fv : List (BitVec 16)), ReadyC s →
    s.cur.drain = none → s.isUpdate = false → i = .fwdelta d a b f la → i.wellFormed = true → Spec.GangOfOne s → s.core.leads = true →
    Spec.FastGroup s d.toNat c → (24 ≤ a.toNat ∨ a.toNat + c ≤ 24) → Spec.MatSource (s.issued i) a c s1 mk fk → Spec.MatSource s1 b 1 s2 mv fv →
    (∀ x, x ∈ fk ++ fv → tagOf x = 6) →
    ∃ t u, Spec.Begins s t u i ∧ u.cur.flight = [] ∧ u.cur.g = s.cur.g ∧ u.core.queues = s2.core.queues ∧ u.pool = s.pool
      ∧ Spec.TokenApplied s u d.toNat c mk.patterns mv.patterns ((s.core.getF f.toNat).bits.toNat % 2 ^ 32) ((s.core.getF f.toNat).bits.toNat / 2 ^ 32))
  ∧ (∀ (s s1 : State) (i : Instr) (d a : BitVec 5) (la : BitVec 4) (c : Nat) (mq : MOperand) (fq : List (BitVec 16)), ReadyC s →
    s.cur.drain = none → s.isUpdate = false → i = .fwread d a la → i.wellFormed = true → Spec.GangOfOne s → s.core.leads = true →
    Spec.FastGroup s d.toNat c → (24 ≤ a.toNat ∨ a.toNat + c ≤ 24) → Spec.MatSource (s.issued i) a c s1 mq fq → (∀ x, x ∈ fq → tagOf x = 6) →
    (s.core.getQueue 4).length < 16 → (∀ q, ∀ y ∈ s.core.getQueue q, y.id < s.core.nextId) →
    ∃ t u y z, Spec.Begins s t u i ∧ u.cur.flight = [] ∧ u.cur.g = s.cur.g ∧ u.core.tiles = s.core.tiles ∧ u.core.aot = s.core.aot ∧ u.pool = s.pool
      ∧ t.core.getQueue 4 = s.core.getQueue 4 ++ [y] ∧ y.filled = false ∧ u.core.getQueue 4 = s.core.getQueue 4 ++ [z] ∧ z.filled = true
      ∧ z.fmt = mkFmt 6 0 ∧ (∀ r, r < 16 → laneOf 6 z.bits.toNat r = Spec.rowTimes s.core d.toNat c r mq.patterns))
  ∧ (∀ (s : State) (i : Instr) (d : BitVec 5) (n : BitVec 3) (la : BitVec 4) (c : Nat) (ks qs r0 r1 r2 : List QEntry) (gate v : QEntry), ReadyC s →
    s.cur.drain = none → i = .fwchunk d n la → i.wellFormed = true → Spec.GangOfOne s → s.core.leads = true → Spec.FastGroup s d.toNat c →
    s.core.getQueue 0 = ks ++ gate :: r0 → ks.length = c → s.core.getQueue 1 = v :: r1 → s.core.getQueue 2 = qs ++ r2 → qs.length = c →
    (∀ e, e ∈ ks ++ qs ++ [gate, v] → e.filled = true ∧ tagOf e.fmt = 6) → (s.core.getQueue 4).length < 16 →
    ∃ t u z, Spec.Begins s t u i ∧ (n = 0 ↔ u.cur.flight = []) ∧ u.cur.g = s.cur.g ∧ u.pool = s.pool
      ∧ u.core.getQueue 0 = r0 ∧ u.core.getQueue 1 = r1 ∧ u.core.getQueue 2 = r2
      ∧ Spec.TokenApplied s u d.toNat c (ks.flatMap (fun e => lanes32 e.bits.toNat)) (lanes32 v.bits.toNat) (gate.bits.toNat % 2 ^ 32)
          (gate.bits.toNat / 2 ^ 32 % 2 ^ 32)
      ∧ u.core.getQueue 4 = s.core.getQueue 4 ++ [z] ∧ z.filled = true ∧ z.fmt = mkFmt 6 0
      ∧ ∀ r, r < 16 → laneOf 6 z.bits.toNat r = Spec.rowTimes u.core d.toNat c r (qs.flatMap (fun e => lanes32 e.bits.toNat)))

/-! ### The command front end (spec/02_describing_and_launching.md, spec/24_retirement.md) -/

namespace Sys2Proof.Spec

/-- A field of a command slot: n bits from bit lo of its 64-bit word k (R25). -/
def slotField (bs : List Byte) (k lo n : Nat) : Nat := bytesNat ((bs.drop (8 * k)).take 8) / 2 ^ lo % 2 ^ n

/-- The address of the slot that is read next (R24). -/
def headSlot (x : Queue) : Word := x.base + .ofNat 64 (64 * (x.head.toNat % 2 ^ x.log2))

/-- The kept statuses with one more, one per slot (R35). -/
def keepLast (x : Queue) (c : BitVec 32 × CmdStatus) : List (BitVec 32 × CmdStatus) :=
  (x.kept ++ [c]).drop ((x.kept ++ [c]).length - 2 ^ x.log2)

/-- Nothing of a command runs, waits or moves any more (R333), and its completion reports nothing outside the queue. -/
def Finished (s : State) (ctx q : Nat) (c : Command) : Prop :=
  s.tasksOf ctx q c.seq = [] ∧ s.cmdDrained ctx q c.seq = true ∧ c.parked = false ∧ c.irq = false ∧ c.saved = []

/-- A ready head of a queue that may be placed on a rectangle now (R33, R37, R44). -/
def MayTake (s : State) (ctx q : Nat) (c : Command) (r : Rect) : Prop :=
  (s.queueAt ctx q).headCmd = some c ∧ s.cmdAt ctx q c.seq = some c ∧ s.asks ctx q c = true ∧ s.dev.ready = true
    ∧ s.neverFits ctx c = false ∧ s.qualifies ctx c r = true ∧ s.hasTurn ctx q = true

/-- A kernel whose tasks start without an access to memory: no tensors, no tiles, no scratchpad regions to fill (R18, R234, R334). -/
def Plain (k : Kernel) : Prop := k.tensors = [] ∧ k.nm = 0 ∧ k.spMap = []

/-- A stream starts at its entry in user mode with the given registers, every other g register zero (R32, R41). -/
def StartsAt (st : Stream) (pc : Word) (regs : List (Nat × Word)) : Prop :=
  st.pc = pc ∧ st.mode = .user ∧ st.exited = false ∧ st.flight = [] ∧ st.wins = []
    ∧ (∀ p ∈ regs, st.getG p.1 = p.2) ∧ ∀ n, n < 32 → (∀ p ∈ regs, p.1 ≠ n) → st.getG n = 0

/-- f and v registers are zero and the queues empty (R32). -/
def StartsClear (k : Core) : Prop :=
  k.handler = none ∧ (∀ n, n < 32 → k.getF n = ⟨0, 0⟩) ∧ (∀ n, n < 24 → k.getV n = ⟨0, 0⟩) ∧ ∀ q, k.getQueue q = []

end Sys2Proof.Spec

/-- R26 to R28: a newer notify value is taken when it lies on the ring, and is a queue error beyond it; a relaxed one is counted. R25, R27, R31: the slot
at the head is read at BASE + 64·(HEAD mod 2^LOG2); one that bears another running number is stale, and read again up to 8 times; a current one of LAUNCH,
FRONT or MARKER that names no producer, is well formed and reads well enters the queue as accepted, with the fields of R25, and the head moves on. R365: where a read of its
descriptor meets a missing page, the slot that was fetched is kept, and the queue waits for a replay-all. R348: with both host ports down nothing is
fetched. That the ERR of a queue error overwrites that of a freeze is the model's choice (log entry 74). -/
def Obligations.CommandSlotsAreRead : Prop :=
  ∀ (s : State) (ctx q : Nat) (x : Queue), x = s.queueAt ctx q → (s.ctxAt ctx).en = true → x.en = true → x.qerr = false →
    (∀ (v : BitVec 32) (relaxed : Bool), 0 < (v - x.notify).toInt →
      ∃ t, exec (.notifyWrite ctx q v relaxed) s = .next t ∧ t.dev.roCount = s.dev.roCount + (if relaxed then 1 else 0)
        ∧ ((v - x.head).toInt < 2 ^ x.log2 → t.queueAt ctx q = { x with notify := v })
        ∧ (2 ^ x.log2 ≤ (v - x.head).toInt → t.queueAt ctx q = { x with qerr := true, err := 2 }))
    ∧ (s.dev.hostPorts = 0 → exec (.slotRead ctx q) s = .next s ∧ exec (.staleSlotReread ctx q) s = .next s)
    ∧ (∀ (bs : List Byte) (s1 : State), s.dev.ready = true → s.dev.hostPorts ≠ 0 → x.parked = false → x.fetched = none →
      0 ≤ (x.notify - x.head).toInt → Spec.NoLineHeld s → s.feRead ctx (Spec.headSlot x) 64 = (.ok bs, s1) →
      (Spec.slotField bs 0 0 32 ≠ x.head.toNat →
        (x.stale = none → ∃ t, exec (.slotRead ctx q) s = .next t ∧ t.queueAt ctx q = { x with stale := some 0 })
        ∧ (∀ n, x.stale = some n → ∃ t, exec (.staleSlotReread ctx q) s = .next t
          ∧ t.queueAt ctx q = (if n + 1 < 8 then { x with stale := some (n + 1) } else { x with qerr := true, err := 1, stale := none })))
      ∧ (∀ (op nprod : Nat) (w : Work0) (r : Except FeFail (Work0 × Option (List Nat))) (s2 : State), Spec.slotField bs 0 0 32 = x.head.toNat →
        op = Spec.slotField bs 0 32 8 → 1 ≤ op → op ≤ 3 → (slotOf bs).ok q = true →
        feRun (readAll ctx (slotOf bs)) (s1.updQueue ctx q (fun y => y.take bs)) = (r, s2) → (∀ c ∈ x.cmds, c.seq ≠ x.head) →
        nprod = Spec.slotField bs 0 56 3 → nprod = 0 →
        ∀ e, (e = .slotRead ctx q ∧ x.stale = none) ∨ (e = .staleSlotReread ctx q ∧ x.stale.isSome = true) →
        (∀ l b va, r = .error (.fault l b va) → ∃ t, exec e s = .next t
          ∧ t.queueAt ctx q = { x with head := x.head + 1, stale := none, fetched := some bs, parked := true })
        ∧ (r = .ok (w, none) → ∃ t c, exec e s = .next t ∧ t.queueAt ctx q = { x with head := x.head + 1, stale := none, cmds := x.cmds ++ [c] }
          ∧ c.seq = x.head ∧ c.phase = .accepted ∧ c.op = (if op = 1 then .launch else if op = 2 then .front else .marker)
          ∧ c.early = decide (Spec.slotField bs 0 40 1 = 1) ∧ c.hostDone = decide (Spec.slotField bs 0 41 1 = 1)
          ∧ c.irq = decide (Spec.slotField bs 0 42 1 = 1) ∧ c.preempt = decide (Spec.slotField bs 0 43 1 = 1)
          ∧ c.count = Spec.slotField bs 0 48 8 ∧ c.args.toNat = Spec.slotField bs 2 0 64 ∧ c.doneRec.toNat = Spec.slotField bs 3 0 64
          ∧ c.prods = [] ∧ c.seed = (s.ctxAt ctx).seed ∧ c.kernel = w.kernel ∧ c.ntask = w.ntask ∧ c.front = w.front)))

/-- R24, R29, R30: enabling a queue clears Q.STATUS and starts its numbers at 1; disabling it cancels the accepted command that waits in it. R40: an
acknowledgement of the frozen queue's error ends the freeze, or brings up the next error. R34: a seed write changes the seed alone. R32: a MARKER at the
head completes ok when it is ready. R31, R333, R335: a command that is ending completes once nothing of it is left; the record of one that failed holds
its number, status 1, the first cause and task, and CNT.CYCLE, for a LAUNCH or FRONT without tensors as for a MARKER; the queue freezes with its error.
That the ERR of the freeze overwrites that of an earlier queue error is the model's choice (log entry 74). -/
def Obligations.QueueEventsComplete : Prop :=
  ∀ (s : State) (ctx q : Nat) (x : Queue), x = s.queueAt ctx q → 1 ≤ ctx → ctx ≤ 4095 → q < 64 → s.dev.safe = false →
    (x.en = false → x.cmds = [] → ∃ t, exec (.queueEnable ctx q) s = .next t
      ∧ t.queueAt ctx q = { x with
          en := true, errSeq := 0, err := 0, errs := [], wfail := false, under := false, frozen := false, qerr := false,
          head := 1, notify := 0, stale := none, parked := false, fetched := none, kept := [] })
    ∧ (x.en = true → ∀ c, x.cmds = [c] → c.phase = .accepted → c.hostDone = false → c.wasPlaced = false → Spec.Finished s ctx q c →
      ∃ t, exec (.queueDisable ctx q) s = .next t
        ∧ t.queueAt ctx q = { x with
            en := false, stale := none, parked := false, fetched := none, head := if x.fetched.isSome then x.head - 1 else x.head
            cmds := [], kept := Spec.keepLast x (c.seq, .cancelled) })
    ∧ (x.frozen = true →
      (x.errs = [] → ∃ t, exec (.queueAck ctx q x.errSeq) s = .next t ∧ t.queueAt ctx q = { x with frozen := false })
      ∧ ∀ sq e rest, x.errs = (sq, e) :: rest →
        ∃ t, exec (.queueAck ctx q x.errSeq) s = .next t ∧ t.queueAt ctx q = { x with errSeq := sq, err := e, errs := rest })
    ∧ (∀ v, ∃ t, exec (.seedWrite ctx v) s = .next t ∧ t.ctxAt ctx = { s.ctxAt ctx with seed := v } ∧ t.core = s.core ∧ t.pool = s.pool)
    ∧ (∀ c, x.cmds = [c] → x.en = true → x.frozen = false → c.op = .marker → c.phase = .accepted → c.count = 0 → c.prods = [] → c.kernel = none →
      c.hostDone = false → Spec.Finished s ctx q c →
      ∃ t, exec (.marker ctx q) s = .next t ∧ t.queueAt ctx q = { x with cmds := [], kept := Spec.keepLast x (c.seq, .ok) })
    ∧ (∀ c cause lid, x.cmds = [c] → x.en = true → x.frozen = false → c.phase = .ending .error → c.first = some (cause, lid) →
      Spec.Finished s ctx q c → (∀ k, c.kernel = some k → k.tensors = []) →
      (c.hostDone = true → c.doneRec.toNat % 16 = 0 ∧ Spec.NoLineHeld s ∧ ∃ cs, s.fePlace ctx c.doneRec 16 = .ok cs) →
      ∃ t, exec (.commandComplete ctx q c.seq) s = .next t
        ∧ t.queueAt ctx q = { x with cmds := [], kept := Spec.keepLast x (c.seq, .error), frozen := true, err := 4, errSeq := c.seq }
        ∧ (c.hostDone = false → t.pool = s.pool ∧ t.host = s.host)
        ∧ (c.hostDone = true → ∀ cs p, s.fePlace ctx c.doneRec 16 = .ok cs →
          p = s.pokeAll cs (natBytes c.seq.toNat 4 ++ natBytes 1 1 ++ natBytes cause 1 ++ natBytes lid 2 ++ natBytes s.dev.cycle.toNat 8) →
          t.pool = p.pool ∧ t.host = p.host))

/-- R32, R43 to R46: a LAUNCH that may take a rectangle holds its in-service clusters, takes one per group of PERCL tasks in their order, and starts
each task on its core: both streams at the kernel's entries with ARGS in g1, every other register zero, GANG.MASK from the descriptor. R61: a FRONT
takes one cluster per home index and starts no task. The rectangle is an argument of the event (log entry 33). -/
def Obligations.PlacementsComplete : Prop :=
  ∀ (s : State) (ctx q : Nat) (c : Command) (r : Rect) (k : Kernel), Spec.MayTake s ctx q c r → c.phase = .accepted →
    c.kernel = some k → Spec.Plain k →
    (∀ (cls : List Nat) (pid : Nat → Nat), c.op = .launch → c.front = none → 1 ≤ c.percl → c.percl ≤ 8 →
      cls = (s.serving r).take ((c.ntask + c.percl - 1) / c.percl) →
      pid = (fun l => cls.getD (l / c.percl) 0 * 8 + l % c.percl) → (∀ l m, l < c.ntask → m < c.ntask → pid l = pid m → l = m) →
      ∃ t c1, exec (.launch ctx q r) s = .next t ∧ t.cmdAt ctx q c.seq = some c1 ∧ c1.phase = .placed ∧ c1.held = s.serving r
        ∧ c1.clusters = cls ∧ c1.teamMap = (List.range c.ntask).map (fun l => some (pid l)) ∧ t.pool = s.pool ∧ t.host = s.host
        ∧ ∀ l, l < c.ntask → ∃ tk, (t.coreAt (pid l)).task = some tk ∧ tk.ctx = ctx ∧ tk.queue = q ∧ tk.seq = c.seq ∧ tk.kind = .team
          ∧ tk.lid = l ∧ tk.size = c.ntask ∧ Spec.StartsClear (t.coreAt (pid l))
          ∧ Spec.StartsAt (t.coreAt (pid l)).a k.aEntry [(1, c.args)] ∧ Spec.StartsAt (t.coreAt (pid l)).c k.cEntry [(1, c.args)]
          ∧ (t.coreAt (pid l)).sys.gangMask = c.gang ∧ (t.coreAt (pid l)).sys.seed = c.seed
          ∧ (t.coreAt (pid l)).sys.domLevel = .ofNat 3 c.dom)
    ∧ (∀ f, c.op = .front → c.front = some f → f.frozen = false → (∃ b ∈ f.blocks, b.state ≠ .done) → s.tasksOf ctx q c.seq = [] →
      ∃ t c1, exec (.front ctx q r) s = .next t ∧ t.cmdAt ctx q c.seq = some c1 ∧ c1.phase = .placed ∧ c1.held = s.serving r
        ∧ c1.clusters = (s.serving r).take (homesOf f.blocks) ∧ c1.front = some f ∧ t.core = s.core ∧ t.cores = s.cores
        ∧ t.pool = s.pool ∧ t.host = s.host)

/-- R57, R315 to R318, R101: a pre-empted command is saved when every one of its tasks is stopped, and not before. Its task leaves its core, saved with the
registers below its kernel's counts where no SAFEPT mask rules, a record with the magic number, its context and its logical id going to its save slot; the
command then holds no cluster any longer. R53, R55, R308: a saved team of one task resumes on the core that the cidx mask names, with its registers, queues
and scratchpad, PRE.REQ clear and the context's TRAP.VEC; on another core than before EVT.MOVED is set and cause 0x16 is due. What is kept beyond the
registers is the model's reading (log entry 35), and the body of the record is free (log entry 5). -/
def Obligations.SavesAndResumesComplete : Prop :=
  (∀ (s : State) (pid : Nat) (k : Core) (tk : Task) (c : Command), k = s.coreAt pid → k.task = some tk → s.cmdAt tk.ctx tk.queue tk.seq = some c →
    (c.phase ≠ .stopping ∨ (∃ j ∈ s.core :: s.cores, (∃ u, j.task = some u ∧ u.ctx = tk.ctx ∧ u.queue = tk.queue ∧ u.seq = tk.seq) ∧ s.saveReady j = false) →
      exec (.contextSave pid) s = .next s)
    ∧ (∀ (cs : List Chunk) (n : Nat), c.phase = .stopping → c.parked = false → c.front = none → s.tasksOf tk.ctx tk.queue tk.seq = [pid] →
      s.saveReady k = true → (∀ x, x < 32 → (k.getAot x).state ≠ .pinned) → Spec.NoLineHeld s → (∀ y ∈ s.clusters, y.failing = false) →
      n = 64 + Config.saveBytes s.free % (tk.kernel.taskSave - 64) → s.fePlace tk.ctx (s.recordAt tk.ctx c tk.lid) n = .ok cs →
      ∃ t c1 sv bs, exec (.contextSave pid) s = .next t ∧ (t.coreAt pid).task = none ∧ t.cmdAt tk.ctx tk.queue tk.seq = some c1
        ∧ c1.saved = c.saved ++ [sv] ∧ sv.lid = tk.lid ∧ t.pool = (s.pokeAll cs bs).pool ∧ t.host = (s.pokeAll cs bs).host
        ∧ bs.take 8 = natBytes 0x4B534156 4 ++ natBytes tk.ctx 2 ++ natBytes tk.lid 2
        ∧ (k.a.stopped ≠ some .safept → ∀ x, x < 32 → sv.core.a.getG x = if x < tk.kernel.nga then k.a.getG x else 0)
        ∧ (k.c.stopped ≠ some .safept → ∀ x, x < 32 → (sv.core.c.getG x = if x < tk.kernel.ngc then k.c.getG x else 0)
            ∧ (sv.core.getF x = if x < tk.kernel.nf then k.getF x else ⟨0, 0⟩)
            ∧ (x < 24 → sv.core.getV x = if x < tk.kernel.nv then k.getV x else ⟨0, 0⟩))
        ∧ c1.phase = .saved ∧ c1.held = [] ∧ c1.clusters = []))
  ∧ (∀ (s : State) (ctx q : Nat) (c : Command) (r : Rect) (m : BitVec 8) (sv : SavedTask) (tk : Task) (pid : Nat), Spec.MayTake s ctx q c r →
    c.phase = .saved → c.front = none → c.ntask = 1 → c.percl = 1 → (maskCores m).length = 1 → (∃ s1, feRun (recordsOk ctx c c.saved) s = (.ok true, s1)) → Spec.NoLineHeld s →
    c.saved = [sv] → sv.lid = 0 → sv.core.task = some tk → tk.kernel.nm = 0 → sv.groups ctx = [] →
    pid = (s.serving r).getD 0 0 * 8 + (maskCores m).getD 0 0 →
    ∃ t c1 tk1, exec (.teamResume ctx q r m) s = .next t ∧ t.cmdAt ctx q c.seq = some c1 ∧ c1.phase = .placed ∧ c1.held = s.serving r
      ∧ c1.saved = [] ∧ (t.coreAt pid).task = some tk1 ∧ tk1.lid = tk.lid ∧ tk1.kernel = tk.kernel
      ∧ (t.coreAt pid).a.g = sv.core.a.g ∧ (t.coreAt pid).c.g = sv.core.c.g ∧ (t.coreAt pid).f = sv.core.f ∧ (t.coreAt pid).v = sv.core.v
      ∧ (sv.core.a.flight = [] → (t.coreAt pid).queues = sv.core.queues) ∧ (t.coreAt pid).spad = sv.core.spad ∧ (t.coreAt pid).full = sv.core.full
      ∧ (t.coreAt pid).sys.preReq = false ∧ (t.coreAt pid).a.stopped = none ∧ (t.coreAt pid).c.stopped = none
      ∧ (t.coreAt pid).sys.trapVec = .ofNat 64 ((s.ctxAt ctx).trapVec.toNat / 2 * 2)
      ∧ (sv.core.pid ≠ pid → (t.coreAt pid).sys.evtMoved = true ∧ tk1.movedDue = some sv.core.pid)
      ∧ t.pool = s.pool ∧ t.host = s.host)

/-! ### Level units (spec/04_time_levels.md) -/

/-- R63, R69, R70: a level unit dispatches the block that comes next on an idle core of CORESET: the update task starts with block, level, step, slot
and ARGS in its registers, at the block's entries; the block runs, and its oldest ring entry is withdrawn. R65: a committed level reaches the unit
of one cluster. R67: a stalled front starts a stall task at its handler with cause 0x0E and the block, and freezes. R80: in the handler of an update
task or a stall task, LV.RSEL stages a copy of a block's record, all ones for an id that is no block; APPLY puts a staged record in place of the
block's where every check of R80 passes, and otherwise changes nothing but LV.RSEL.REFUSED. When a level reaches another unit is the agenda's choice
(log entry 53), and some fields of a stall task are the model's reading (log entry 47). -/
def Obligations.LevelUnitEventsComplete : Prop :=
  (∀ (s : State) (ctx q : Nat) (c : Command) (f : Front) (k : Kernel), s.cmdAt ctx q c.seq = some c → c.front = some f → c.kernel = some k →
     Spec.Plain k → c.parked = false →
     (∀ cluster cidx h b, s.unitAt cluster = some (ctx, q, c, f, h) → f.nextBlock h = some b → b < f.blocks.length → f.coreSet.getLsbD cidx = true →
       cidx < 8 → (s.coreAt (cluster * 8 + cidx)).task = none → s.dev.poison = [] →
       ∃ t c1 f1 tk, exec (.levelDispatch cluster cidx) s = .next t ∧ t.cmdAt ctx q c.seq = some c1 ∧ c1.front = some f1
         ∧ (t.coreAt (cluster * 8 + cidx)).task = some tk ∧ tk.kind = .update b ∧ tk.level = (f.block b).level ∧ tk.step = (f.block b).step
         ∧ Spec.StartsClear (t.coreAt (cluster * 8 + cidx))
         ∧ Spec.StartsAt (t.coreAt (cluster * 8 + cidx)).a (f.block b).ua
             [(1, .ofNat 64 b), (2, .ofNat 64 (f.block b).level.toNat), (3, .ofNat 64 (f.block b).step.toNat), (5, c.args),
              (4, ((f.block b).raddr[(f.block b).hdepth - 1]?).getD 0)]
         ∧ Spec.StartsAt (t.coreAt (cluster * 8 + cidx)).c (f.block b).uc
             [(1, .ofNat 64 b), (2, .ofNat 64 (f.block b).level.toNat), (3, .ofNat 64 (f.block b).step.toNat), (5, c.args)]
         ∧ (f1.block b).state = .running ∧ (f1.block b).core = some (cluster * 8 + cidx)
         ∧ (f1.block b).valid.getLsbD ((f.block b).hdepth - 1) = false
         ∧ (∀ x, x ≠ b → f1.block x = f.block x) ∧ f1.known = f.known ∧ t.pool = s.pool ∧ t.host = s.host)
     ∧ (∀ cluster block h ls, s.unitAt cluster = some (ctx, q, c, f, h) → f.known[h]? = some ls → block < ls.length → block < f.blocks.length →
       ∃ t c1 f1, exec (.commitArrival cluster block) s = .next t ∧ t.cmdAt ctx q c.seq = some c1 ∧ c1.front = some f1
         ∧ f1.knownAt h block = (f.block block).level ∧ (∀ x, x ≠ block → f1.knownAt h x = f.knownAt h x)
         ∧ (∀ j x, j ≠ h → f1.knownAt j x = f.knownAt j x) ∧ f1.blocks = f.blocks ∧ t.core = s.core ∧ t.cores = s.cores)
     ∧ (∀ b i cl, f.stalledAt = some b → c.phase = .placed →
       (∀ k ∈ s.allCores, ∀ tk x, k.task = some tk → tk.ctx = ctx → tk.queue = q → tk.seq = c.seq → tk.kind ≠ .update x) →
       c.clusters[(f.block b).home]? = some cl →
       (List.range 8).find? (fun i => f.coreSet.getLsbD i && (s.coreAt (cl * 8 + i)).task.isNone) = some i →
       ∃ t c1 f1, exec (.stall ctx q c.seq) s = .next t ∧ t.cmdAt ctx q c.seq = some c1 ∧ c1.front = some f1 ∧ f1.frozen = true
         ∧ f1.blocks = f.blocks ∧ (t.coreAt (cl * 8 + i)).task.isSome = true ∧ (t.coreAt (cl * 8 + i)).handler = some .a
         ∧ (t.coreAt (cl * 8 + i)).a.mode = .sup ∧ (t.coreAt (cl * 8 + i)).a.pc = .ofNat 64 ((s.ctxAt ctx).trapVec.toNat / 2 * 2)
         ∧ (t.coreAt (cl * 8 + i)).sys.trapCause = 0x0E ∧ (t.coreAt (cl * 8 + i)).sys.trapVal = .ofNat 64 b))
  ∧ (∀ (s : State) (f : Front) (b0 : Nat), s.editsLevels = true → s.taskFront = some (f, b0) →
       (∀ b : BitVec 16, exec (.lvRecordStage b) s = .next (s.updSys (fun r =>
         { r with lvBlock := b, lvChosen := true,
                  lvStaged := if b.toNat < f.blocks.length then (f.block b.toNat).words else Vector.replicate 16 0xFFFFFFFFFFFFFFFF })))
       ∧ (∀ b w, b = s.core.sys.lvBlock.toNat → w = s.core.sys.lvStaged →
         (f.applyOk b w = true → ∃ t f1 b1, exec .lvRecordApply s = .next t ∧ t.core.sys = { s.core.sys with lvRefused := false }
           ∧ t.taskFront = some (f1, b1) ∧ f1.frozen = f.frozen ∧ (∀ x, x ≠ b → f1.block x = f.block x)
           ∧ (f1.block b).level = (w[0]).truncate 32 ∧ (f1.block b).step = (w[0]).extractLsb' 32 16 ∧ (f1.block b).ua = w[2] ∧ (f1.block b).uc = w[3]
           ∧ (f1.block b).state = (f.block b).state ∧ (f1.block b).home = (f.block b).home ∧ t.pool = s.pool)
         ∧ (f.applyOk b w = false → exec .lvRecordApply s = .next (s.updSys (fun r => { r with lvRefused := true })))))

/-! ### Faults, translations, copy jobs and promotions -/

/-- R159 to R163: a load that meets a missing page parks, and its fault takes the next entry of the fault buffer; REPLAY.ALL lets everything that parked
try again and forgets the recorded faults; FB.HEAD moves up to FB.TAIL and no further. R158: an invalidation stands until it is done, and then no TLB
entry that it names is left and every other is. That a parked access stands until REPLAY.ALL is the model's reading (log entry 20). -/
def Obligations.FaultEventsComplete : Prop :=
  ∀ (s : State),
    (∀ (idx : Nat) (op : LongOp) (d : Nat) (addr va : Word) (size ctx p level base : Nat) (sext : Bool), s.core.task.isSome = true → s.noReplay = false →
      ctx < 2 ^ 16 → p < 2048 → s.opAt .a idx = some op → op.work = .load d addr size sext → s.opMove .a op = .fault ctx p 0 level base va →
      ∃ t r, exec (.pageFaultPark s.core.pid .a idx) s = .next t
        ∧ r = s.recordFault ctx (p / 8) (p % 8) .a 0 level base va
        ∧ t = r.updThis (fun k => k.setOp .a op.id (fun o => { o with status := .parked va }))
        ∧ ((s.clusterAt (p / 8)).faults = [] → (s.dev.fbTail - s.dev.fbHead).toNat < 8 →
          t.dev.fbTail = s.dev.fbTail + 1 ∧ ∃ e : BitVec 128, t.dev.fbSlots[s.dev.fbTail.toNat % 8]? = some e
            ∧ e.truncate 64 = va ∧ e.extractLsb' 64 16 = .ofNat 16 ctx ∧ e.extractLsb' 80 8 = .ofNat 8 (p / 8) ∧ e.extractLsb' 88 3 = .ofNat 3 (p % 8)
            ∧ e.extractLsb' 92 4 = 0))
    ∧ (∃ t, exec .replayAll s = .next t ∧ t.dev = { s.dev with feFaults := [] } ∧ t.pool = s.pool ∧ t.host = s.host
      ∧ (∀ k ∈ t.core :: t.cores, (∀ r ∈ k.pending, r.parked = false) ∧ (∀ op ∈ k.a.flight ++ k.c.flight, ∀ va, op.status ≠ .parked va)
        ∧ (∀ va, k.a.wait ≠ some (.parked va)) ∧ ∀ va, k.c.wait ≠ some (.parked va))
      ∧ (∀ c ∈ t.clusters, c.faults = [] ∧ ∀ j ∈ c.jobs, j.state.isParked = false)
      ∧ (∀ x ∈ t.contexts, ∀ y ∈ x.queues, y.2.parked = false ∧ ∀ c ∈ y.2.cmds, c.parked = false)
      ∧ t.core.a.g = s.core.a.g ∧ t.core.c.g = s.core.c.g ∧ t.core.f = s.core.f ∧ t.core.v = s.core.v ∧ t.core.spad = s.core.spad)
    ∧ (∀ (v : Word) (h : BitVec 4), h = v.truncate 4 →
      exec (.fbHeadWrite v) s = .next { s with dev := { s.dev with
        fbHead := if (h - s.dev.fbHead).toNat ≤ (s.dev.fbTail - s.dev.fbHead).toNat then h else s.dev.fbHead } })
    ∧ (∀ v, exec (.ttInval v) s = .next { s with dev := { s.dev with inval := if s.dev.inval.isSome then s.dev.inval else some v } })
    ∧ (∀ v, s.dev.inval = some v →
      ∃ t, exec .ttInvalDone s = .next t ∧ t.dev.inval = none ∧ t.pool = s.pool ∧ t.core = { s.core with tlb := t.core.tlb }
        ∧ ∀ e : TlbEntry, e ∈ t.core.tlb ↔ e ∈ s.core.tlb ∧
          ¬ (e.ctx = v.toNat / 2 ^ 48 % 2 ^ 16
            ∧ e.base < v.toNat / 2 ^ 8 % 2 ^ 40 * 2 ^ 16 / 2 ^ levelShift (v.toNat / 2 ^ 4 % 8) * 2 ^ levelShift (v.toNat / 2 ^ 4 % 8)
                + 2 ^ levelShift (v.toNat / 2 ^ 4 % 8)
            ∧ v.toNat / 2 ^ 8 % 2 ^ 40 * 2 ^ 16 / 2 ^ levelShift (v.toNat / 2 ^ 4 % 8) * 2 ^ levelShift (v.toNat / 2 ^ 4 % 8)
                < e.base + 2 ^ levelShift e.level))

/-- R203, R204, R279: a copy job moves its next bytes from source to destination, a reducing one adds its next element there, and a job completes after the
last one: it leaves its unit and arrives at its barrier as an engine does, names its tile no longer, or counts its command's dependence down; one whose
next bytes are refused ends there, its trap kept for the task. R269, R357: a request waits no longer
behind others once it is old enough. R283: an arrival from another device of the set is noted. R93: two streams that block each other at queues trap
with cause 0x14 and their blocks in TRAP.VAL. The size and order of the pieces are the model's choice (log entry 55). -/
def Obligations.CopyAndDeadlockEventsComplete : Prop :=
  ∀ (s : State),
    (∀ (cl idx : Nat) (j : Job), (s.clusterAt cl).jobs[idx]? = some j → j.state.isParked = false →
      (∀ src dst len, j.next < j.total → s.nextPiece j = .ok (src, dst, len) → s.srcWaits j src = false → s.pieceTurn j dst = true → s.dev.poison = [] →
        Spec.NoLineHeld s → s.logMode j.who = 0 →
        (∀ c ∈ dst, ∀ p o l, c ≠ .spad p o l) →
        ∀ bs, (j.req.red = 0 ∧ bs = s.peekAll src)
          ∨ (j.req.red = 1 ∧ bs = natBytes ((bytesNat (s.peekAll dst) + bytesNat (s.peekAll src)) % 2 ^ 32) 4)
          ∨ (j.req.red = 2 ∧ bs = natBytes (deliverIeee .fp32 0 false (ieeeAdd 0 (f32 (bytesNat (s.peekAll dst))) (f32 (bytesNat (s.peekAll src))))).1 4) →
        ∃ t j1, exec (.copyJobComplete cl idx 1) s = .next t ∧ (t.clusterAt cl).jobs[idx]? = some j1 ∧ j1.next = j.next + len
          ∧ (j.req.red ≠ 0 → len = 4)
          ∧ t.pool = (s.pokeAll dst bs).pool ∧ t.host = (s.pokeAll dst bs).host ∧ t.core.spad = s.core.spad)
      ∧ (j.total ≤ j.next → j.pid ≠ s.core.pid → (s.coreAt j.pid).task = none → j.req.kind = 0 →
        ∃ t, exec (.copyJobComplete cl idx 1) s = .next t ∧ (t.clusterAt cl).jobs = dropAt idx (s.clusterAt cl).jobs ∧ t.core = s.core
          ∧ t.contexts = s.contexts ∧ t.pool = s.pool ∧ t.host = s.host)
      ∧ (∀ (cs : List Chunk) (w : Nat) (x : State), j.total ≤ j.next → j.pid ≠ s.core.pid → (s.coreAt j.pid).task = none → j.req.kind = 1 →
        s.locate j.who .atomic j.req.barrier 8 = .ok cs → s.dev.poison = [] → s.logMode j.who = 0 →
        s.turnFor (executor j.pid 0 (.atomic .add 8 0 0) cs) (placeOf cs) j.pid s.dev.cycle.toNat false = true →
        w = bytesNat (s.peekAll cs) → x = s.pokeAll cs (natBytes (Spec.engineArrive j.req.units w) 8) →
        ∃ t, exec (.copyJobComplete cl idx 1) s = .next t ∧ (t.clusterAt cl).jobs = dropAt idx (s.clusterAt cl).jobs
          ∧ t.pool = x.pool ∧ t.host = x.host ∧ ∀ p, (t.coreAt p).spad = (x.coreAt p).spad)
      ∧ (j.total ≤ j.next → j.pid = s.core.pid → j.ofTask s.core = true → s.core.a.exited = false → j.req.kind = 2 → j.req.ste = false →
        ∃ t, exec (.copyJobComplete cl idx 1) s = .next t ∧ (t.clusterAt cl).jobs = dropAt idx (s.clusterAt cl).jobs
          ∧ (t.core.getEntry j.req.dtid).jobs = (s.core.getEntry j.req.dtid).jobs - 1
          ∧ ((s.core.getEntry j.req.dtid).jobs = 1 → (t.core.getEntry j.req.dtid).state = .ready)
          ∧ (∀ n, n ≠ j.req.dtid → t.core.getEntry n = s.core.getEntry n)
          ∧ t.core.spad = s.core.spad ∧ t.pool = s.pool ∧ t.host = s.host)
      ∧ (∀ q seq c, j.total ≤ j.next → j.pid ≠ s.core.pid → (s.coreAt j.pid).task = none → j.req.kind = 3 →
        q = j.req.done / 2 ^ 8 % 64 → seq = .ofNat 32 (j.req.done / 2 ^ 32) →
        (s.queueAt j.ctx q).cmds = [c] → c.seq = seq → (∀ st, c.phase ≠ .completed st) → 0 < c.count →
        ∃ t, exec (.copyJobComplete cl idx 1) s = .next t ∧ (t.clusterAt cl).jobs = dropAt idx (s.clusterAt cl).jobs
          ∧ (t.queueAt j.ctx q).cmds = [{ c with count := c.count - 1 }])
      ∧ (∀ a, j.next < j.total → s.nextPiece j = .error (.deny a) → j.pid = s.core.pid → j.ofTask s.core = true → s.core.a.exited = false →
        j.mode = .user ∨ s.core.handler = none → ∃ t, exec (.copyJobFaultEnd cl idx) s = .next t ∧ (t.clusterAt cl).jobs = dropAt idx (s.clusterAt cl).jobs
          ∧ t.core.deferred = s.core.deferred ++ [⟨0x07, a⟩] ∧ t.core.spad = s.core.spad ∧ t.pool = s.pool ∧ t.host = s.host))
    ∧ (∀ (r : Request) (cs : List Chunk), s.core.pending = [r] → r.served = false → r.parked = false → s.core.a.exited = false →
      s.locate (r.who s.core) (if r.kind.isAtomic then .atomic else .store) r.addr r.kind.len = .ok cs →
      (s.dev.netAge.toNat ≤ s.dev.cycle.toNat - r.born →
        exec (.netPacketPromote s.core.pid (.pending 0)) s = .next { s with core := { s.core with pending := [{ r with netPromoted := true }] } })
      ∧ (64 ≤ s.dev.cycle.toNat - r.born →
        exec (.atomicPromote s.core.pid (.pending 0)) s = .next { s with core := { s.core with pending := [{ r with promoted := true }] } }))
    ∧ (∀ ctx device, device ∈ (s.ctxAt ctx).domSet → device ≠ s.dev.domNum.toNat → s.dev.links ≠ 0 →
      ∃ t, exec (.remoteDsyncArrival ctx device) s = .next t ∧ (t.ctxAt ctx).remote = (s.ctxAt ctx).remote ++ [device] ∧ t.core = s.core ∧ t.pool = s.pool)
    ∧ (∀ (code : StreamId → Nat), s.core.task.isSome = true → s.core.handler = none → s.core.a.flight = [] → s.core.c.flight = [] →
      s.core.pending = [] → s.core.a.exited = false → s.core.a.taken = none →
      (∀ x, (s.core.str x).mode = .user ∧ (s.core.str x).stopped = none
        ∧ (((s.core.str x).exited = true ∧ code x = 0)
          ∨ (s.core.str x).exited = false ∧ ((∃ q n, (s.core.str x).wait = some (.pop q n) ∧ (s.core.getQueue q).length < n ∧ code x = q)
            ∨ ∃ q, (s.core.str x).wait = some (.push q) ∧ 16 ≤ (s.core.getQueue q).length ∧ code x = q + 8))) →
      ∃ t, exec (.streamDeadlock s.core.pid) s = .next t ∧ t.core.sys.trapCause = 0x14
        ∧ t.core.sys.trapVal = .ofNat 64 (code .a + code .c * 256) ∧ t.core.sys.trapPc = s.core.a.pc ∧ t.core.a.mode = .sup
        ∧ t.core.a.pc = s.core.sys.trapVec ∧ t.core.queues = s.core.queues)

/-! ### Containment, in-field test, mailbox, power-on, links (spec/24_retirement.md, spec/25_host_and_power_on.md) -/

/-- R338, R340, R352, R358: PART.RESET kills its rectangle: the cores in it hold nothing, other cores and memory stay. A killed rectangle is purged, and
only a purged one returns to service. R362: a thermal trip kills every valid rectangle and leaves the device in the safe state. That the return to
service clears PURGED is the model's reading (log entry 39). -/
def Obligations.ContainmentEventsComplete : Prop :=
  ∀ (s : State),
    (∀ (v : Word) (n : Nat) (r : ContRect), n = v.toNat % 16 → v.getLsbD 8 = true → s.dev.rects[n]? = some r → r.valid = true → r.killed = false →
      ∃ t, exec (.partReset v) s = .next t ∧ t.dev.rects[n]? = some { r with killed := true, purged := false }
        ∧ t.dev.errKill = (if s.dev.errKill = 255 then 255 else s.dev.errKill + 1)
        ∧ t.cores = s.cores.filter (fun k => !r.holds k.cluster) ∧ (r.holds s.core.cluster = true → t.core.task = none)
        ∧ (r.holds s.core.cluster = false → t.core = s.core) ∧ t.pool = s.pool ∧ t.host = s.host)
    ∧ (∀ n r, s.dev.rects[n]? = some r → r.killed = true →
      (∃ t, exec (.purgeComplete n) s = .next t ∧ t.dev.rects[n]? = some { r with purged := true })
      ∧ (r.purged = false → exec (.rectReturnToService n) s = .next s)
      ∧ (r.purged = true → ∃ t, exec (.rectReturnToService n) s = .next t
        ∧ t.dev.rects[n]? = some { r with killed := false, purged := false } ∧ ∀ m, m ≠ n → t.dev.rects[m]? = s.dev.rects[m]?))
    ∧ (∃ t, exec .thermalTrip s = .next t ∧ t.dev.trip = true ∧ t.dev.safe = true ∧ t.dev.ready = false
      ∧ (∀ (n : Nat) (r : ContRect), t.dev.rects[n]? = some r → r.valid = true → r.killed = true) ∧ t.pool = s.pool ∧ t.host = s.host)

/-- R342, R343, R56: a free cluster in service is tested when its period or a write of IFT.CTL asks for it; one that passes is counted, one that fails is
retired, with a failure record, vector 1 and TOPO set in the tasks. R361: each mailbox command makes the mailbox busy with its code, and is ignored while it is busy; the response
to GET-TEST holds the self-test record, to ATTEST the report, to GET-FAILREC the oldest record or RESULT 3, to SET-CONFIG and FW-UPDATE RESULT 0 or 1.
RESULT 3 for GET-FAILREC with no unread record is the model's reading (log entry 48). -/
def Obligations.TestAndMailboxEventsComplete : Prop :=
  ∀ (s : State),
    (∀ c, c < 256 → s.dev.ready = true → s.clusterFree c = true → (s.clusterAt c).retired = false →
      (s.dev.iftPeriod ≠ 0 → ∃ t, exec (.iftPeriodic c) s = .next t ∧ (t.clusterAt c).testing = true ∧ t.core = s.core ∧ t.pool = s.pool)
      ∧ (∀ v : Word, v.toNat % 256 = c → v.getLsbD 8 = true → ∃ t, exec (.iftNow v) s = .next t ∧ (t.clusterAt c).testing = true
        ∧ t.dev = { s.dev with iftPeriod := v.extractLsb' 32 32, iftCluster := .ofNat 8 c } ∧ t.core = s.core))
    ∧ (∀ c, c < 256 → (s.clusterAt c).testing = true →
      (∃ t, exec (.iftTestComplete c true) s = .next t ∧ (t.clusterAt c).testing = false ∧ (t.clusterAt c).retired = (s.clusterAt c).retired
        ∧ (t.clusterAt c).history = [] ∧ t.dev = { s.dev with iftPass := s.dev.iftPass + 1, iftLast := .ofNat 8 c })
      ∧ (c ∉ s.heldClusters → ∃ t e, exec (.iftTestComplete c false) s = .next t ∧ (t.clusterAt c).testing = false ∧ (t.clusterAt c).retired = true
        ∧ (s.core.task.isSome = true → t.core.sys.evtTopo = true) ∧ t.dev = { s.dev with iftFail := s.dev.iftFail + 1, iftLast := .ofNat 8 c, failRecs := s.dev.failRecs ++ [e], msix := s.dev.msix ++ [1] }
        ∧ e.cycle = s.dev.cycle ∧ e.entries = (s.clusterAt c).history.take 255 ∧ e.overflow = decide (255 < (s.clusterAt c).history.length)))
    ∧ (∀ p ∈ [(Instr.getTest, (1 : Word)), (.setConfig, 2), (.attest, 3), (.getFailrec, 4), (.fwUpdate, 5)],
      (s.dev.mbxBusy = false → exec p.1 s = .next { s with dev := { s.dev with mbxBusy := true, mbxCmd := p.2 } })
      ∧ (s.dev.mbxBusy = true → exec p.1 s = .next s))
    ∧ (∀ r : MailboxReply, s.dev.mbxBusy = true → s.dev.noFirmware = false →
      ∃ t, exec (.mailboxResponse r) s = .next t ∧ t.dev.mbxBusy = false ∧ t.core = s.core ∧ t.pool = s.pool ∧ t.host = s.host
        ∧ (s.dev.mbxCmd = 1 → t.dev.mbxResult = 0 ∧ Memory.read t.dev.mbxData 0 s.dev.selfTest.length = s.dev.selfTest)
        ∧ (s.dev.mbxCmd = 2 → t.dev.mbxResult = (if r.sigOk then 0 else 1) ∧ (r.sigOk = true → t.dev.pendingImage = some r.image))
        ∧ (s.dev.mbxCmd = 3 → t.dev.mbxResult = 0 ∧ Memory.read t.dev.mbxData 0 r.report.length = r.report)
        ∧ (s.dev.mbxCmd = 4 → (s.dev.failRecs = [] → t.dev.mbxResult = 3)
          ∧ ∀ e rest, s.dev.failRecs = e :: rest → t.dev.mbxResult = 0 ∧ t.dev.failRecs = rest
            ∧ Memory.read t.dev.mbxData 0 e.bytes.length = e.bytes)
        ∧ (s.dev.mbxCmd = 5 → t.dev.mbxResult = (if r.sigOk then 0 else 1) ∧ (r.sigOk = true → t.dev.pendingFw = some r.fwRev))
        ∧ (5 < s.dev.mbxCmd.toNat → t.dev.mbxResult = 2))

/-- R359, R360: power-on with good firmware, configuration and self-test brings the device up as the image says, failing clusters retired; any failure
leaves it in the safe state, where no command is fetched. A device reset does the same and keeps pooled and host memory. R348, R354, R362: a link that goes
down is dropped from use, a flit sent again changes nothing, a throttle sets the clock and POWER_AVG. R274, R348: the host writes pooled memory through its
home slice, and takes lines of its own memory back, writing there or executing an atomic. That a device reset keeps memory, and the clocks of a throttle, are the model's readings (log
entries 41 and 46). -/
def Obligations.PowerAndLinkEventsComplete : Prop :=
  ∀ (s : State),
    (∀ b : BootInput, s.dev.ready = false → s.dev.safe = false → b.fwOk = true → b.otherBad = false → b.configOk = true → s.dev.pendingImage = none →
      s.dev.cfgHost = false → s.dev.pendingFw = none →
      (b.failed.length ≤ b.config.retireMax → ∃ t, exec (.powerGood b) s = .next t ∧ t.dev.ready = true ∧ t.dev.safe = false
        ∧ t.dev.domNum = b.config.domNum ∧ t.dev.links = b.config.links ∧ t.dev.fwRev = b.fwRev ∧ t.dev.selfTest.drop 32 = b.record
        ∧ (∀ n, n < 256 → ((t.dev.selfTest.getD (n / 8) 0).getLsbD (n % 8) = true ↔ n ∈ b.failed))
        ∧ t.dev.pwrLimit = .ofNat 16 (max 600 (min b.config.pwrLimit 1950))
        ∧ (∀ c, c ∈ b.config.retired ∨ c ∈ b.failed → (t.clusterAt c).retired = true)
        ∧ (∀ c, c ∉ b.config.retired → c ∉ b.failed → t.clusterAt c = s.clusterAt c))
      ∧ (b.config.retireMax < b.failed.length → ∃ t, exec (.powerGood b) s = .next t ∧ t.dev.ready = false ∧ t.dev.safe = true
        ∧ t.dev.linkRed = true))
    ∧ (∀ b : BootInput, ∃ t, exec (.deviceReset b) s = .next t ∧ t.core = State.reset.core ∧ t.cores = [] ∧ t.contexts = [] ∧ t.pool = s.pool
      ∧ t.host = s.host ∧ t.dev.mbxBusy = false ∧ t.dev.fbHead = 0 ∧ t.dev.fbTail = 0
      ∧ (b.fwOk = false → t.dev.safe = true ∧ t.dev.ready = false ∧ t.dev.noFirmware = true))
    ∧ (∀ p, exec (.hostLinkDown p) s = .next { s with dev := { s.dev with hostPorts := s.dev.hostPorts &&& ~~~(BitVec.ofNat 2 (2 ^ p)) } })
    ∧ (∀ l, exec (.ngucyLinkDown l) s = .next { s with dev := { s.dev with links := s.dev.links &&& ~~~(BitVec.ofNat 16 (2 ^ l)) } })
    ∧ (∀ l, exec (.flitCrcFailure l) s = .next s)
    ∧ (∀ w m, 1000 ≤ m → m ≤ 4000 → m % 125 = 0 → exec (.powerThrottle w m) s
        = .next { s with dev := { s.dev with pwrAvg := .ofNat 16 w, clockMhz := .ofNat 12 m, throttle := decide (m < 4000) } })
    ∧ (∀ pa data, s.dev.hostPorts ≠ 0 → pa + data.length ≤ Config.pooledBytes → Spec.NoLineHeld s → s.dev.poison = [] →
      exec (.hostCxlMemAccess pa data) s = .next { s with pool := Memory.write s.pool pa data })
    ∧ (∀ pa use n, s.dev.hostPorts ≠ 0 → Spec.NoLineHeld s →
      (∃ data, use = .write data ∧ n = data.length ∨ ∃ op w v c, use = .atomic op w v c ∧ n = (if w = 0 then 4 else 8)) →
      ∃ t, exec (.hostCoherenceRequest pa use) s = .next t ∧ t.pool = s.pool ∧ t.core = s.core
        ∧ (∀ l, pa / 64 ≤ l → l ≤ (pa + n - 1) / 64 → l ∉ t.dev.owned)
        ∧ (∀ data, use = .write data → t.host = Memory.write s.host pa data)
        ∧ (∀ op w v c, use = .atomic op w v c → t.host = Memory.write s.host pa (natBytes
            ((Spec.atomicValue op n (bytesNat (Memory.read s.host pa n)) (v.toNat % 2 ^ (8 * n)) (c.toNat % 2 ^ (8 * n))).getD
              (bytesNat (Memory.read s.host pa n))) n)))

/-- R5, R351, R352: an aligned 8-byte write of the management space writes the named register of a context, of a queue or of the device; any other write
is ignored. R140, R354: a peer of the context's device set writes this device's scratchpads; an access that is not admitted changes nothing. R346: a
request that its replay log has held back long enough sets ORD.DIVERGED. What SEED holds at the creation of a context follows log entry 38, and a
peer's access is an event with arguments (log entry 54). -/
def Obligations.RegisterWritesAndPeersComplete : Prop :=
  ∀ (s : State),
    (∀ off size v, off % 8 ≠ 0 ∨ size ≠ 8 → exec (.registerWrite off size v) s = .next s)
    ∧ (∀ (ctx : Nat) (v : Word), 1 ≤ ctx → ctx ≤ 4095 →
      (v.getLsbD 0 = true → (s.ctxAt ctx).en = false →
        ∃ t, exec (.registerWrite (ctx * 0x10000) 8 v) s = .next t ∧ t.ctxAt ctx = { s.ctxAt ctx with en := true, seed := 0 })
      ∧ (∃ t, exec (.registerWrite (ctx * 0x10000 + 0x08) 8 v) s = .next t
        ∧ t.ctxAt ctx = { s.ctxAt ctx with ttRoot := v &&& 0x00FFFFFFFFFFF001 })
      ∧ (∃ t, exec (.registerWrite (ctx * 0x10000 + 0x20) 8 v) s = .next t ∧ t.ctxAt ctx = { s.ctxAt ctx with trapVec := v &&& ~~~1#64 })
      ∧ (∀ q, q < 64 → (s.queueAt ctx q).en = false →
        ∃ t, exec (.registerWrite (ctx * 0x10000 + 0x1000 + q * 64) 8 v) s = .next t
          ∧ t.queueAt ctx q = { s.queueAt ctx q with base := v &&& 0x00FFFFFFFFFFFFC0 })
      ∧ (∀ q, q < 64 → exec (.registerWrite (ctx * 0x10000 + 0x1018 + q * 64) 8 v) s = exec (.notifyWrite ctx q (v.truncate 32) false) s))
    ∧ (∀ v, exec (.registerWrite 0x20 8 v) s = exec .replayAll s ∧ exec (.registerWrite 0x28 8 v) s = exec (.ttInval v) s
      ∧ exec (.registerWrite 0x30 8 v) s = exec (.partReset v) s ∧ exec (.registerWrite 0x40 8 v) s = exec (.fbHeadWrite v) s
      ∧ exec (.registerWrite 0x400 8 v) s = exec (.iftNow v) s)
    ∧ (∀ (acc : RemoteAccess) (data : List Byte), acc.kind = .write data →
      ((acc.device ∉ (s.ctxAt acc.ctx).domSet ∧ ∀ y ∈ (s.ctxAt acc.ctx).queues, ∀ c ∈ y.2.cmds, c.dom = 4 → acc.device ∉ c.domSet)
        ∨ acc.device = s.dev.domNum.toNat ∨ s.dev.links = 0 → exec (.remoteDomainAccess acc) s = .next s)
      ∧ (∀ addr cs, acc.device ∈ (s.ctxAt acc.ctx).domSet → acc.device ≠ s.dev.domNum.toNat → s.dev.links ≠ 0 → acc.offset < 2 ^ 40 →
        addr = .ofNat 64 (0xFFE0000000000000 + s.dev.domNum.toNat * 2 ^ 40 + acc.offset) →
        s.apertureOk (remoteWho acc) addr data.length = true → registerWindowOk addr data.length = true →
        s.locate (remoteWho acc) .store addr data.length = .ok cs → exec (.remoteDomainAccess acc) s = .next (s.pokeAll cs data)))
    ∧ (∀ ctx, s.heldLong ctx = true →
      ∃ t, exec (.replayDiverge ctx) s = .next t ∧ t.ctxAt ctx = { s.ctxAt ctx with ordDiverged := true } ∧ t.core = s.core ∧ t.pool = s.pool)

/-- R351, R352: the host reads the management space by aligned 8-byte accesses; any other reads all ones, an offset that is not listed and a write-only
register zero, and a write of an unlisted device offset is ignored. DEV.ID is a constant; a register of a context or of a queue, NET.AGE and PWR.LIMIT read what the last write left in their fields. -/
def Obligations.RegisterReadsShowWrites : Prop :=
  ∀ (s : State),
    (∀ off size, off % 8 ≠ 0 ∨ size ≠ 8 → s.readRegister off size = BitVec.allOnes 64)
    ∧ s.readRegister 0 8 = 0x4D51204800000001 ∧ s.readRegister 0x20 8 = 0 ∧ s.readRegister 0x30 8 = 0
    ∧ (∀ off, off % 8 = 0 → (0x58 ≤ off ∧ off < 0x100) ∨ (0x180 ≤ off ∧ off < 0x200) ∨ (0x220 ≤ off ∧ off < 0x300) ∨ (0x380 ≤ off ∧ off < 0x400)
        ∨ (0x410 ≤ off ∧ off < 0x500) ∨ (0x508 ≤ off ∧ off < 0x600) ∨ (0x610 ≤ off ∧ off < 0x1000) ∨ (0x1010 ≤ off ∧ off < 0x2000)
        ∨ (0x3000 ≤ off ∧ off < 0x10000) →
      s.readRegister off 8 = 0 ∧ ∀ v, exec (.registerWrite off 8 v) s = .next s)
    ∧ (∀ ctx off, off % 8 = 0 → 1 ≤ ctx → (0x60 ≤ off ∧ off < 0x1000) ∨ (0x2000 ≤ off ∧ off < 0x10000)
        ∨ (∃ q k, q < 64 ∧ 0x28 ≤ k ∧ k < 0x40 ∧ off = 0x1000 + q * 64 + k) → s.readRegister (ctx * 0x10000 + off) 8 = 0)
    ∧ (∀ (v : Word) (t : State), exec (.registerWrite 0x38 8 v) s = .next t → t.readRegister 0x38 8 = .ofNat 64 (max 64 (v.toNat % 65536)))
    ∧ (∀ (v : Word) (t : State), exec (.registerWrite 0x600 8 v) s = .next t →
      t.readRegister 0x600 8 = .ofNat 64 (max 600 (min (v.toNat % 65536) 1950)))
    ∧ (∀ (ctx : Nat) (v : Word), 1 ≤ ctx → ctx ≤ 4095 →
      (∃ t, exec (.registerWrite (ctx * 0x10000 + 0x10) 8 v) s = .next t ∧ t.readRegister (ctx * 0x10000 + 0x10) 8 = v)
      ∧ (∃ t, exec (.registerWrite (ctx * 0x10000 + 0x08) 8 v) s = .next t
        ∧ t.readRegister (ctx * 0x10000 + 0x08) 8 = v &&& 0x00FFFFFFFFFFF001)
      ∧ (∃ t, exec (.registerWrite (ctx * 0x10000 + 0x50) 8 v) s = .next t ∧ t.readRegister (ctx * 0x10000 + 0x50) 8 = v &&& 0xFFFFF)
      ∧ (∀ q, q < 64 → (s.queueAt ctx q).en = false →
        (∃ t, exec (.registerWrite (ctx * 0x10000 + 0x1000 + q * 64) 8 v) s = .next t
          ∧ t.readRegister (ctx * 0x10000 + 0x1000 + q * 64) 8 = v &&& 0x00FFFFFFFFFFFFC0)
        ∧ s.readRegister (ctx * 0x10000 + 0x1020 + q * 64) 8 = 0))

/-! ### What instructions leave alone (spec/07 to 15) -/

namespace Sys2Proof.Spec

/-- Scalar, branch, queue, system and address instructions, the f and v instructions and the halfwords (R102 to R121). -/
def registersOnly (i : Instr) : Bool := i.bits == 16 || decide (major i ≤ 14) || decide (28 ≤ major i ∧ major i ≤ 38)

end Sys2Proof.Spec

/-- R94, R107, R125, R164, R206: issuing an instruction of the A-stream in user mode leaves every f and v register, every tile and every g register of the
C-stream; one of the C-stream leaves every g register of the A-stream; and one that names registers, immediates and queues alone leaves every byte of
pooled memory, host memory and the scratchpad, and every full/empty bit, whether it completes, waits or traps. -/
def Obligations.InstructionsKeepTheirFrames : Prop :=
  ∀ (i : Instr) (s t : State), i.bits ≠ 0 → Ready s → s.cur.mode = .user → exec i s = .next t →
    (s.core.sel = .a → t.core.f = s.core.f ∧ t.core.v = s.core.v ∧ t.core.tiles = s.core.tiles ∧ t.core.c.g = s.core.c.g)
    ∧ (s.core.sel = .c → t.core.a.g = s.core.a.g)
    ∧ (Spec.registersOnly i = true → t.pool = s.pool ∧ t.host = s.host ∧ t.core.spad = s.core.spad ∧ t.core.full = s.core.full)
end

