-- ==== Sys2Proof/Laws/State.lean ====
section
/-! SUPPORT. One lemma per field per update: what each named update of a stream, a core and the machine leaves in every field. -/

namespace Sys2Proof.Machine

/-! ### The machine -/

@[simp] theorem State.updCur_core (s : State) (f : Stream → Stream) : (s.updCur f).core = s.core.updStr s.core.sel f := rfl
@[simp] theorem State.updCur_cores (s : State) (f : Stream → Stream) : (s.updCur f).cores = s.cores := rfl
@[simp] theorem State.updCur_clusters (s : State) (f : Stream → Stream) : (s.updCur f).clusters = s.clusters := rfl
@[simp] theorem State.updCur_contexts (s : State) (f : Stream → Stream) : (s.updCur f).contexts = s.contexts := rfl
@[simp] theorem State.updCur_pool (s : State) (f : Stream → Stream) : (s.updCur f).pool = s.pool := rfl
@[simp] theorem State.updCur_host (s : State) (f : Stream → Stream) : (s.updCur f).host = s.host := rfl
@[simp] theorem State.updCur_dev (s : State) (f : Stream → Stream) : (s.updCur f).dev = s.dev := rfl
@[simp] theorem State.updCur_agenda (s : State) (f : Stream → Stream) : (s.updCur f).agenda = s.agenda := rfl
@[simp] theorem State.updCur_free (s : State) (f : Stream → Stream) : (s.updCur f).free = s.free := rfl

@[simp] theorem State.setG_core (s : State) (n : BitVec 5) (v : Word) : (s.setG n v).core = s.core.updStr s.core.sel (fun st => st.setG n.toNat v) := rfl
@[simp] theorem State.setG_cores (s : State) (n : BitVec 5) (v : Word) : (s.setG n v).cores = s.cores := rfl
@[simp] theorem State.setG_clusters (s : State) (n : BitVec 5) (v : Word) : (s.setG n v).clusters = s.clusters := rfl
@[simp] theorem State.setG_contexts (s : State) (n : BitVec 5) (v : Word) : (s.setG n v).contexts = s.contexts := rfl
@[simp] theorem State.setG_pool (s : State) (n : BitVec 5) (v : Word) : (s.setG n v).pool = s.pool := rfl
@[simp] theorem State.setG_host (s : State) (n : BitVec 5) (v : Word) : (s.setG n v).host = s.host := rfl
@[simp] theorem State.setG_dev (s : State) (n : BitVec 5) (v : Word) : (s.setG n v).dev = s.dev := rfl
@[simp] theorem State.setG_agenda (s : State) (n : BitVec 5) (v : Word) : (s.setG n v).agenda = s.agenda := rfl
@[simp] theorem State.setG_free (s : State) (n : BitVec 5) (v : Word) : (s.setG n v).free = s.free := rfl

@[simp] theorem State.setF_core (s : State) (n : Nat) (r : FReg) : (s.setF n r).core = s.core.setF n r := rfl
@[simp] theorem State.setF_cores (s : State) (n : Nat) (r : FReg) : (s.setF n r).cores = s.cores := rfl
@[simp] theorem State.setF_clusters (s : State) (n : Nat) (r : FReg) : (s.setF n r).clusters = s.clusters := rfl
@[simp] theorem State.setF_contexts (s : State) (n : Nat) (r : FReg) : (s.setF n r).contexts = s.contexts := rfl
@[simp] theorem State.setF_pool (s : State) (n : Nat) (r : FReg) : (s.setF n r).pool = s.pool := rfl
@[simp] theorem State.setF_host (s : State) (n : Nat) (r : FReg) : (s.setF n r).host = s.host := rfl
@[simp] theorem State.setF_dev (s : State) (n : Nat) (r : FReg) : (s.setF n r).dev = s.dev := rfl
@[simp] theorem State.setF_agenda (s : State) (n : Nat) (r : FReg) : (s.setF n r).agenda = s.agenda := rfl
@[simp] theorem State.setF_free (s : State) (n : Nat) (r : FReg) : (s.setF n r).free = s.free := rfl

@[simp] theorem State.setV_core (s : State) (n : Nat) (r : VReg) : (s.setV n r).core = s.core.setV n r := rfl
@[simp] theorem State.setV_cores (s : State) (n : Nat) (r : VReg) : (s.setV n r).cores = s.cores := rfl
@[simp] theorem State.setV_clusters (s : State) (n : Nat) (r : VReg) : (s.setV n r).clusters = s.clusters := rfl
@[simp] theorem State.setV_contexts (s : State) (n : Nat) (r : VReg) : (s.setV n r).contexts = s.contexts := rfl
@[simp] theorem State.setV_pool (s : State) (n : Nat) (r : VReg) : (s.setV n r).pool = s.pool := rfl
@[simp] theorem State.setV_host (s : State) (n : Nat) (r : VReg) : (s.setV n r).host = s.host := rfl
@[simp] theorem State.setV_dev (s : State) (n : Nat) (r : VReg) : (s.setV n r).dev = s.dev := rfl
@[simp] theorem State.setV_agenda (s : State) (n : Nat) (r : VReg) : (s.setV n r).agenda = s.agenda := rfl
@[simp] theorem State.setV_free (s : State) (n : Nat) (r : VReg) : (s.setV n r).free = s.free := rfl

@[simp] theorem State.setPc_core (s : State) (pc : Word) : (s.setPc pc).core = s.core.updStr s.core.sel (fun st => { st with pc := pc }) := rfl
@[simp] theorem State.setPc_cores (s : State) (pc : Word) : (s.setPc pc).cores = s.cores := rfl
@[simp] theorem State.setPc_clusters (s : State) (pc : Word) : (s.setPc pc).clusters = s.clusters := rfl
@[simp] theorem State.setPc_contexts (s : State) (pc : Word) : (s.setPc pc).contexts = s.contexts := rfl
@[simp] theorem State.setPc_pool (s : State) (pc : Word) : (s.setPc pc).pool = s.pool := rfl
@[simp] theorem State.setPc_host (s : State) (pc : Word) : (s.setPc pc).host = s.host := rfl
@[simp] theorem State.setPc_dev (s : State) (pc : Word) : (s.setPc pc).dev = s.dev := rfl
@[simp] theorem State.setPc_agenda (s : State) (pc : Word) : (s.setPc pc).agenda = s.agenda := rfl
@[simp] theorem State.setPc_free (s : State) (pc : Word) : (s.setPc pc).free = s.free := rfl

@[simp] theorem State.updSys_core (s : State) (f : SysRegs → SysRegs) : (s.updSys f).core = { s.core with sys := f s.core.sys } := rfl
@[simp] theorem State.updSys_cores (s : State) (f : SysRegs → SysRegs) : (s.updSys f).cores = s.cores := rfl
@[simp] theorem State.updSys_clusters (s : State) (f : SysRegs → SysRegs) : (s.updSys f).clusters = s.clusters := rfl
@[simp] theorem State.updSys_contexts (s : State) (f : SysRegs → SysRegs) : (s.updSys f).contexts = s.contexts := rfl
@[simp] theorem State.updSys_pool (s : State) (f : SysRegs → SysRegs) : (s.updSys f).pool = s.pool := rfl
@[simp] theorem State.updSys_host (s : State) (f : SysRegs → SysRegs) : (s.updSys f).host = s.host := rfl
@[simp] theorem State.updSys_dev (s : State) (f : SysRegs → SysRegs) : (s.updSys f).dev = s.dev := rfl
@[simp] theorem State.updSys_agenda (s : State) (f : SysRegs → SysRegs) : (s.updSys f).agenda = s.agenda := rfl
@[simp] theorem State.updSys_free (s : State) (f : SysRegs → SysRegs) : (s.updSys f).free = s.free := rfl

@[simp] theorem State.updTask_core (s : State) (f : Task → Task) : (s.updTask f).core = { s.core with task := s.core.task.map f } := rfl
@[simp] theorem State.updTask_cores (s : State) (f : Task → Task) : (s.updTask f).cores = s.cores := rfl
@[simp] theorem State.updTask_clusters (s : State) (f : Task → Task) : (s.updTask f).clusters = s.clusters := rfl
@[simp] theorem State.updTask_contexts (s : State) (f : Task → Task) : (s.updTask f).contexts = s.contexts := rfl
@[simp] theorem State.updTask_pool (s : State) (f : Task → Task) : (s.updTask f).pool = s.pool := rfl
@[simp] theorem State.updTask_host (s : State) (f : Task → Task) : (s.updTask f).host = s.host := rfl
@[simp] theorem State.updTask_dev (s : State) (f : Task → Task) : (s.updTask f).dev = s.dev := rfl
@[simp] theorem State.updTask_agenda (s : State) (f : Task → Task) : (s.updTask f).agenda = s.agenda := rfl
@[simp] theorem State.updTask_free (s : State) (f : Task → Task) : (s.updTask f).free = s.free := rfl

@[simp] theorem State.updThis_core (s : State) (f : Core → Core) : (s.updThis f).core = f s.core := rfl
@[simp] theorem State.updThis_cores (s : State) (f : Core → Core) : (s.updThis f).cores = s.cores := rfl
@[simp] theorem State.updThis_clusters (s : State) (f : Core → Core) : (s.updThis f).clusters = s.clusters := rfl
@[simp] theorem State.updThis_contexts (s : State) (f : Core → Core) : (s.updThis f).contexts = s.contexts := rfl
@[simp] theorem State.updThis_pool (s : State) (f : Core → Core) : (s.updThis f).pool = s.pool := rfl
@[simp] theorem State.updThis_host (s : State) (f : Core → Core) : (s.updThis f).host = s.host := rfl
@[simp] theorem State.updThis_dev (s : State) (f : Core → Core) : (s.updThis f).dev = s.dev := rfl
@[simp] theorem State.updThis_agenda (s : State) (f : Core → Core) : (s.updThis f).agenda = s.agenda := rfl
@[simp] theorem State.updThis_free (s : State) (f : Core → Core) : (s.updThis f).free = s.free := rfl

@[simp] theorem State.onStream_core (s : State) (x : StreamId) : (s.onStream x).core = { s.core with sel := x } := rfl
@[simp] theorem State.onStream_cores (s : State) (x : StreamId) : (s.onStream x).cores = s.cores := rfl
@[simp] theorem State.onStream_clusters (s : State) (x : StreamId) : (s.onStream x).clusters = s.clusters := rfl
@[simp] theorem State.onStream_contexts (s : State) (x : StreamId) : (s.onStream x).contexts = s.contexts := rfl
@[simp] theorem State.onStream_pool (s : State) (x : StreamId) : (s.onStream x).pool = s.pool := rfl
@[simp] theorem State.onStream_host (s : State) (x : StreamId) : (s.onStream x).host = s.host := rfl
@[simp] theorem State.onStream_dev (s : State) (x : StreamId) : (s.onStream x).dev = s.dev := rfl
@[simp] theorem State.onStream_agenda (s : State) (x : StreamId) : (s.onStream x).agenda = s.agenda := rfl
@[simp] theorem State.onStream_free (s : State) (x : StreamId) : (s.onStream x).free = s.free := rfl

@[simp] theorem State.updCluster_core (s : State) (id : Nat) (f : Cluster → Cluster) : (s.updCluster id f).core = s.core := rfl
@[simp] theorem State.updCluster_cores (s : State) (id : Nat) (f : Cluster → Cluster) : (s.updCluster id f).cores = s.cores := rfl
@[simp] theorem State.updCluster_clusters (s : State) (id : Nat) (f : Cluster → Cluster) : (s.updCluster id f).clusters = putCluster (f (s.clusterAt id)) s.clusters := rfl
@[simp] theorem State.updCluster_contexts (s : State) (id : Nat) (f : Cluster → Cluster) : (s.updCluster id f).contexts = s.contexts := rfl
@[simp] theorem State.updCluster_pool (s : State) (id : Nat) (f : Cluster → Cluster) : (s.updCluster id f).pool = s.pool := rfl
@[simp] theorem State.updCluster_host (s : State) (id : Nat) (f : Cluster → Cluster) : (s.updCluster id f).host = s.host := rfl
@[simp] theorem State.updCluster_dev (s : State) (id : Nat) (f : Cluster → Cluster) : (s.updCluster id f).dev = s.dev := rfl
@[simp] theorem State.updCluster_agenda (s : State) (id : Nat) (f : Cluster → Cluster) : (s.updCluster id f).agenda = s.agenda := rfl
@[simp] theorem State.updCluster_free (s : State) (id : Nat) (f : Cluster → Cluster) : (s.updCluster id f).free = s.free := rfl

@[simp] theorem State.updCtx_core (s : State) (id : Nat) (f : Context → Context) : (s.updCtx id f).core = s.core := rfl
@[simp] theorem State.updCtx_cores (s : State) (id : Nat) (f : Context → Context) : (s.updCtx id f).cores = s.cores := rfl
@[simp] theorem State.updCtx_clusters (s : State) (id : Nat) (f : Context → Context) : (s.updCtx id f).clusters = s.clusters := rfl
@[simp] theorem State.updCtx_contexts (s : State) (id : Nat) (f : Context → Context) : (s.updCtx id f).contexts = putCtx (f (s.ctxAt id)) s.contexts := rfl
@[simp] theorem State.updCtx_pool (s : State) (id : Nat) (f : Context → Context) : (s.updCtx id f).pool = s.pool := rfl
@[simp] theorem State.updCtx_host (s : State) (id : Nat) (f : Context → Context) : (s.updCtx id f).host = s.host := rfl
@[simp] theorem State.updCtx_dev (s : State) (id : Nat) (f : Context → Context) : (s.updCtx id f).dev = s.dev := rfl
@[simp] theorem State.updCtx_agenda (s : State) (id : Nat) (f : Context → Context) : (s.updCtx id f).agenda = s.agenda := rfl
@[simp] theorem State.updCtx_free (s : State) (id : Nat) (f : Context → Context) : (s.updCtx id f).free = s.free := rfl

@[simp] theorem State.updQueue_core (s : State) (ctx q : Nat) (f : Queue → Queue) : (s.updQueue ctx q f).core = s.core := rfl
@[simp] theorem State.updQueue_cores (s : State) (ctx q : Nat) (f : Queue → Queue) : (s.updQueue ctx q f).cores = s.cores := rfl
@[simp] theorem State.updQueue_clusters (s : State) (ctx q : Nat) (f : Queue → Queue) : (s.updQueue ctx q f).clusters = s.clusters := rfl
@[simp] theorem State.updQueue_pool (s : State) (ctx q : Nat) (f : Queue → Queue) : (s.updQueue ctx q f).pool = s.pool := rfl
@[simp] theorem State.updQueue_host (s : State) (ctx q : Nat) (f : Queue → Queue) : (s.updQueue ctx q f).host = s.host := rfl
@[simp] theorem State.updQueue_dev (s : State) (ctx q : Nat) (f : Queue → Queue) : (s.updQueue ctx q f).dev = s.dev := rfl
@[simp] theorem State.updQueue_agenda (s : State) (ctx q : Nat) (f : Queue → Queue) : (s.updQueue ctx q f).agenda = s.agenda := rfl
@[simp] theorem State.updQueue_free (s : State) (ctx q : Nat) (f : Queue → Queue) : (s.updQueue ctx q f).free = s.free := rfl

@[simp] theorem State.updCmd_core (s : State) (ctx q : Nat) (seq : BitVec 32) (f : Command → Command) : (s.updCmd ctx q seq f).core = s.core := rfl
@[simp] theorem State.updCmd_cores (s : State) (ctx q : Nat) (seq : BitVec 32) (f : Command → Command) : (s.updCmd ctx q seq f).cores = s.cores := rfl
@[simp] theorem State.updCmd_clusters (s : State) (ctx q : Nat) (seq : BitVec 32) (f : Command → Command) : (s.updCmd ctx q seq f).clusters = s.clusters := rfl
@[simp] theorem State.updCmd_pool (s : State) (ctx q : Nat) (seq : BitVec 32) (f : Command → Command) : (s.updCmd ctx q seq f).pool = s.pool := rfl
@[simp] theorem State.updCmd_host (s : State) (ctx q : Nat) (seq : BitVec 32) (f : Command → Command) : (s.updCmd ctx q seq f).host = s.host := rfl
@[simp] theorem State.updCmd_dev (s : State) (ctx q : Nat) (seq : BitVec 32) (f : Command → Command) : (s.updCmd ctx q seq f).dev = s.dev := rfl
@[simp] theorem State.updCmd_agenda (s : State) (ctx q : Nat) (seq : BitVec 32) (f : Command → Command) : (s.updCmd ctx q seq f).agenda = s.agenda := rfl
@[simp] theorem State.updCmd_free (s : State) (ctx q : Nat) (seq : BitVec 32) (f : Command → Command) : (s.updCmd ctx q seq f).free = s.free := rfl

@[simp] theorem State.updFront_core (s : State) (ctx q : Nat) (seq : BitVec 32) (f : Front → Front) : (s.updFront ctx q seq f).core = s.core := rfl
@[simp] theorem State.updFront_cores (s : State) (ctx q : Nat) (seq : BitVec 32) (f : Front → Front) : (s.updFront ctx q seq f).cores = s.cores := rfl
@[simp] theorem State.updFront_clusters (s : State) (ctx q : Nat) (seq : BitVec 32) (f : Front → Front) : (s.updFront ctx q seq f).clusters = s.clusters := rfl
@[simp] theorem State.updFront_pool (s : State) (ctx q : Nat) (seq : BitVec 32) (f : Front → Front) : (s.updFront ctx q seq f).pool = s.pool := rfl
@[simp] theorem State.updFront_host (s : State) (ctx q : Nat) (seq : BitVec 32) (f : Front → Front) : (s.updFront ctx q seq f).host = s.host := rfl
@[simp] theorem State.updFront_dev (s : State) (ctx q : Nat) (seq : BitVec 32) (f : Front → Front) : (s.updFront ctx q seq f).dev = s.dev := rfl
@[simp] theorem State.updFront_agenda (s : State) (ctx q : Nat) (seq : BitVec 32) (f : Front → Front) : (s.updFront ctx q seq f).agenda = s.agenda := rfl
@[simp] theorem State.updFront_free (s : State) (ctx q : Nat) (seq : BitVec 32) (f : Front → Front) : (s.updFront ctx q seq f).free = s.free := rfl

@[simp] theorem State.updDev_core (s : State) (f : Device → Device) : (s.updDev f).core = s.core := rfl
@[simp] theorem State.updDev_cores (s : State) (f : Device → Device) : (s.updDev f).cores = s.cores := rfl
@[simp] theorem State.updDev_clusters (s : State) (f : Device → Device) : (s.updDev f).clusters = s.clusters := rfl
@[simp] theorem State.updDev_contexts (s : State) (f : Device → Device) : (s.updDev f).contexts = s.contexts := rfl
@[simp] theorem State.updDev_pool (s : State) (f : Device → Device) : (s.updDev f).pool = s.pool := rfl
@[simp] theorem State.updDev_host (s : State) (f : Device → Device) : (s.updDev f).host = s.host := rfl
@[simp] theorem State.updDev_dev (s : State) (f : Device → Device) : (s.updDev f).dev = f s.dev := rfl
@[simp] theorem State.updDev_agenda (s : State) (f : Device → Device) : (s.updDev f).agenda = s.agenda := rfl
@[simp] theorem State.updDev_free (s : State) (f : Device → Device) : (s.updDev f).free = s.free := rfl

@[simp] theorem State.raiseMsi_core (s : State) (v : Nat) : (s.raiseMsi v).core = s.core := rfl
@[simp] theorem State.raiseMsi_cores (s : State) (v : Nat) : (s.raiseMsi v).cores = s.cores := rfl
@[simp] theorem State.raiseMsi_clusters (s : State) (v : Nat) : (s.raiseMsi v).clusters = s.clusters := rfl
@[simp] theorem State.raiseMsi_contexts (s : State) (v : Nat) : (s.raiseMsi v).contexts = s.contexts := rfl
@[simp] theorem State.raiseMsi_pool (s : State) (v : Nat) : (s.raiseMsi v).pool = s.pool := rfl
@[simp] theorem State.raiseMsi_host (s : State) (v : Nat) : (s.raiseMsi v).host = s.host := rfl
@[simp] theorem State.raiseMsi_dev (s : State) (v : Nat) : (s.raiseMsi v).dev = { s.dev with msix := s.dev.msix ++ [v] } := rfl
@[simp] theorem State.raiseMsi_agenda (s : State) (v : Nat) : (s.raiseMsi v).agenda = s.agenda := rfl
@[simp] theorem State.raiseMsi_free (s : State) (v : Nat) : (s.raiseMsi v).free = s.free := rfl

@[simp] theorem State.setRect_core (s : State) (n : Nat) (r : ContRect) : (s.setRect n r).core = s.core := rfl
@[simp] theorem State.setRect_cores (s : State) (n : Nat) (r : ContRect) : (s.setRect n r).cores = s.cores := rfl
@[simp] theorem State.setRect_clusters (s : State) (n : Nat) (r : ContRect) : (s.setRect n r).clusters = s.clusters := rfl
@[simp] theorem State.setRect_contexts (s : State) (n : Nat) (r : ContRect) : (s.setRect n r).contexts = s.contexts := rfl
@[simp] theorem State.setRect_pool (s : State) (n : Nat) (r : ContRect) : (s.setRect n r).pool = s.pool := rfl
@[simp] theorem State.setRect_host (s : State) (n : Nat) (r : ContRect) : (s.setRect n r).host = s.host := rfl
@[simp] theorem State.setRect_dev (s : State) (n : Nat) (r : ContRect) : (s.setRect n r).dev = { s.dev with rects := s.dev.rects.setIfInBounds n r } := rfl
@[simp] theorem State.setRect_agenda (s : State) (n : Nat) (r : ContRect) : (s.setRect n r).agenda = s.agenda := rfl
@[simp] theorem State.setRect_free (s : State) (n : Nat) (r : ContRect) : (s.setRect n r).free = s.free := rfl

@[simp] theorem State.raise_core (s : State) (e : Eff) : (s.raise e).core = s.core.raise s.core.sys.tensorId e.flags e.counts := rfl
@[simp] theorem State.raise_cores (s : State) (e : Eff) : (s.raise e).cores = s.cores := rfl
@[simp] theorem State.raise_clusters (s : State) (e : Eff) : (s.raise e).clusters = s.clusters := rfl
@[simp] theorem State.raise_contexts (s : State) (e : Eff) : (s.raise e).contexts = s.contexts := rfl
@[simp] theorem State.raise_pool (s : State) (e : Eff) : (s.raise e).pool = s.pool := rfl
@[simp] theorem State.raise_host (s : State) (e : Eff) : (s.raise e).host = s.host := rfl
@[simp] theorem State.raise_dev (s : State) (e : Eff) : (s.raise e).dev = s.dev := rfl
@[simp] theorem State.raise_agenda (s : State) (e : Eff) : (s.raise e).agenda = s.agenda := rfl
@[simp] theorem State.raise_free (s : State) (e : Eff) : (s.raise e).free = s.free := rfl

@[simp] theorem State.setCore_clusters (s : State) (k : Core) : (s.setCore k).clusters = s.clusters := by unfold State.setCore; split <;> rfl
@[simp] theorem State.updCore_clusters (s : State) (pid : Nat) (f : Core → Core) : (s.updCore pid f).clusters = s.clusters := State.setCore_clusters _ _
@[simp] theorem State.select_clusters (s : State) (pid : Nat) : (s.select pid).clusters = s.clusters := by unfold State.select; split <;> rfl
@[simp] theorem State.updTaskFront_clusters (s : State) (f : Front → Front) : (s.updTaskFront f).clusters = s.clusters := by unfold State.updTaskFront; split <;> rfl
@[simp] theorem State.setCore_contexts (s : State) (k : Core) : (s.setCore k).contexts = s.contexts := by unfold State.setCore; split <;> rfl
@[simp] theorem State.updCore_contexts (s : State) (pid : Nat) (f : Core → Core) : (s.updCore pid f).contexts = s.contexts := State.setCore_contexts _ _
@[simp] theorem State.select_contexts (s : State) (pid : Nat) : (s.select pid).contexts = s.contexts := by unfold State.select; split <;> rfl
@[simp] theorem State.setCore_pool (s : State) (k : Core) : (s.setCore k).pool = s.pool := by unfold State.setCore; split <;> rfl
@[simp] theorem State.updCore_pool (s : State) (pid : Nat) (f : Core → Core) : (s.updCore pid f).pool = s.pool := State.setCore_pool _ _
@[simp] theorem State.select_pool (s : State) (pid : Nat) : (s.select pid).pool = s.pool := by unfold State.select; split <;> rfl
@[simp] theorem State.updTaskFront_pool (s : State) (f : Front → Front) : (s.updTaskFront f).pool = s.pool := by unfold State.updTaskFront; split <;> rfl
@[simp] theorem State.setCore_host (s : State) (k : Core) : (s.setCore k).host = s.host := by unfold State.setCore; split <;> rfl
@[simp] theorem State.updCore_host (s : State) (pid : Nat) (f : Core → Core) : (s.updCore pid f).host = s.host := State.setCore_host _ _
@[simp] theorem State.select_host (s : State) (pid : Nat) : (s.select pid).host = s.host := by unfold State.select; split <;> rfl
@[simp] theorem State.updTaskFront_host (s : State) (f : Front → Front) : (s.updTaskFront f).host = s.host := by unfold State.updTaskFront; split <;> rfl
@[simp] theorem State.setCore_dev (s : State) (k : Core) : (s.setCore k).dev = s.dev := by unfold State.setCore; split <;> rfl
@[simp] theorem State.updCore_dev (s : State) (pid : Nat) (f : Core → Core) : (s.updCore pid f).dev = s.dev := State.setCore_dev _ _
@[simp] theorem State.select_dev (s : State) (pid : Nat) : (s.select pid).dev = s.dev := by unfold State.select; split <;> rfl
@[simp] theorem State.updTaskFront_dev (s : State) (f : Front → Front) : (s.updTaskFront f).dev = s.dev := by unfold State.updTaskFront; split <;> rfl
@[simp] theorem State.setCore_agenda (s : State) (k : Core) : (s.setCore k).agenda = s.agenda := by unfold State.setCore; split <;> rfl
@[simp] theorem State.updCore_agenda (s : State) (pid : Nat) (f : Core → Core) : (s.updCore pid f).agenda = s.agenda := State.setCore_agenda _ _
@[simp] theorem State.select_agenda (s : State) (pid : Nat) : (s.select pid).agenda = s.agenda := by unfold State.select; split <;> rfl
@[simp] theorem State.updTaskFront_agenda (s : State) (f : Front → Front) : (s.updTaskFront f).agenda = s.agenda := by unfold State.updTaskFront; split <;> rfl
@[simp] theorem State.setCore_free (s : State) (k : Core) : (s.setCore k).free = s.free := by unfold State.setCore; split <;> rfl
@[simp] theorem State.updCore_free (s : State) (pid : Nat) (f : Core → Core) : (s.updCore pid f).free = s.free := State.setCore_free _ _
@[simp] theorem State.select_free (s : State) (pid : Nat) : (s.select pid).free = s.free := by unfold State.select; split <;> rfl
@[simp] theorem State.updTaskFront_free (s : State) (f : Front → Front) : (s.updTaskFront f).free = s.free := by unfold State.updTaskFront; split <;> rfl
@[simp] theorem State.updTaskFront_core (s : State) (f : Front → Front) : (s.updTaskFront f).core = s.core := by unfold State.updTaskFront; split <;> rfl
@[simp] theorem State.updTaskFront_cores (s : State) (f : Front → Front) : (s.updTaskFront f).cores = s.cores := by unfold State.updTaskFront; split <;> rfl

/-! ### A core -/

@[simp] theorem Core.setF_pid (k : Core) (n : Nat) (r : FReg) : (k.setF n r).pid = k.pid := rfl
@[simp] theorem Core.setF_task (k : Core) (n : Nat) (r : FReg) : (k.setF n r).task = k.task := rfl
@[simp] theorem Core.setF_sel (k : Core) (n : Nat) (r : FReg) : (k.setF n r).sel = k.sel := rfl
@[simp] theorem Core.setF_a (k : Core) (n : Nat) (r : FReg) : (k.setF n r).a = k.a := rfl
@[simp] theorem Core.setF_c (k : Core) (n : Nat) (r : FReg) : (k.setF n r).c = k.c := rfl
@[simp] theorem Core.setF_f (k : Core) (n : Nat) (r : FReg) : (k.setF n r).f = k.f.setIfInBounds n r := rfl
@[simp] theorem Core.setF_v (k : Core) (n : Nat) (r : FReg) : (k.setF n r).v = k.v := rfl
@[simp] theorem Core.setF_tiles (k : Core) (n : Nat) (r : FReg) : (k.setF n r).tiles = k.tiles := rfl
@[simp] theorem Core.setF_aot (k : Core) (n : Nat) (r : FReg) : (k.setF n r).aot = k.aot := rfl
@[simp] theorem Core.setF_queues (k : Core) (n : Nat) (r : FReg) : (k.setF n r).queues = k.queues := rfl
@[simp] theorem Core.setF_spad (k : Core) (n : Nat) (r : FReg) : (k.setF n r).spad = k.spad := rfl
@[simp] theorem Core.setF_full (k : Core) (n : Nat) (r : FReg) : (k.setF n r).full = k.full := rfl
@[simp] theorem Core.setF_tileTab (k : Core) (n : Nat) (r : FReg) : (k.setF n r).tileTab = k.tileTab := rfl
@[simp] theorem Core.setF_shadows (k : Core) (n : Nat) (r : FReg) : (k.setF n r).shadows = k.shadows := rfl
@[simp] theorem Core.setF_sys (k : Core) (n : Nat) (r : FReg) : (k.setF n r).sys = k.sys := rfl
@[simp] theorem Core.setF_handler (k : Core) (n : Nat) (r : FReg) : (k.setF n r).handler = k.handler := rfl
@[simp] theorem Core.setF_handlerOn (k : Core) (n : Nat) (r : FReg) : (k.setF n r).handlerOn = k.handlerOn := rfl
@[simp] theorem Core.setF_pending (k : Core) (n : Nat) (r : FReg) : (k.setF n r).pending = k.pending := rfl
@[simp] theorem Core.setF_deferred (k : Core) (n : Nat) (r : FReg) : (k.setF n r).deferred = k.deferred := rfl
@[simp] theorem Core.setF_stats (k : Core) (n : Nat) (r : FReg) : (k.setF n r).stats = k.stats := rfl
@[simp] theorem Core.setF_tlb (k : Core) (n : Nat) (r : FReg) : (k.setF n r).tlb = k.tlb := rfl
@[simp] theorem Core.setF_nextId (k : Core) (n : Nat) (r : FReg) : (k.setF n r).nextId = k.nextId := rfl
@[simp] theorem Core.setF_lastCtx (k : Core) (n : Nat) (r : FReg) : (k.setF n r).lastCtx = k.lastCtx := rfl

@[simp] theorem Core.setV_pid (k : Core) (n : Nat) (r : VReg) : (k.setV n r).pid = k.pid := rfl
@[simp] theorem Core.setV_task (k : Core) (n : Nat) (r : VReg) : (k.setV n r).task = k.task := rfl
@[simp] theorem Core.setV_sel (k : Core) (n : Nat) (r : VReg) : (k.setV n r).sel = k.sel := rfl
@[simp] theorem Core.setV_a (k : Core) (n : Nat) (r : VReg) : (k.setV n r).a = k.a := rfl
@[simp] theorem Core.setV_c (k : Core) (n : Nat) (r : VReg) : (k.setV n r).c = k.c := rfl
@[simp] theorem Core.setV_f (k : Core) (n : Nat) (r : VReg) : (k.setV n r).f = k.f := rfl
@[simp] theorem Core.setV_v (k : Core) (n : Nat) (r : VReg) : (k.setV n r).v = k.v.setIfInBounds n r := rfl
@[simp] theorem Core.setV_tiles (k : Core) (n : Nat) (r : VReg) : (k.setV n r).tiles = k.tiles := rfl
@[simp] theorem Core.setV_aot (k : Core) (n : Nat) (r : VReg) : (k.setV n r).aot = k.aot := rfl
@[simp] theorem Core.setV_queues (k : Core) (n : Nat) (r : VReg) : (k.setV n r).queues = k.queues := rfl
@[simp] theorem Core.setV_spad (k : Core) (n : Nat) (r : VReg) : (k.setV n r).spad = k.spad := rfl
@[simp] theorem Core.setV_full (k : Core) (n : Nat) (r : VReg) : (k.setV n r).full = k.full := rfl
@[simp] theorem Core.setV_tileTab (k : Core) (n : Nat) (r : VReg) : (k.setV n r).tileTab = k.tileTab := rfl
@[simp] theorem Core.setV_shadows (k : Core) (n : Nat) (r : VReg) : (k.setV n r).shadows = k.shadows := rfl
@[simp] theorem Core.setV_sys (k : Core) (n : Nat) (r : VReg) : (k.setV n r).sys = k.sys := rfl
@[simp] theorem Core.setV_handler (k : Core) (n : Nat) (r : VReg) : (k.setV n r).handler = k.handler := rfl
@[simp] theorem Core.setV_handlerOn (k : Core) (n : Nat) (r : VReg) : (k.setV n r).handlerOn = k.handlerOn := rfl
@[simp] theorem Core.setV_pending (k : Core) (n : Nat) (r : VReg) : (k.setV n r).pending = k.pending := rfl
@[simp] theorem Core.setV_deferred (k : Core) (n : Nat) (r : VReg) : (k.setV n r).deferred = k.deferred := rfl
@[simp] theorem Core.setV_stats (k : Core) (n : Nat) (r : VReg) : (k.setV n r).stats = k.stats := rfl
@[simp] theorem Core.setV_tlb (k : Core) (n : Nat) (r : VReg) : (k.setV n r).tlb = k.tlb := rfl
@[simp] theorem Core.setV_nextId (k : Core) (n : Nat) (r : VReg) : (k.setV n r).nextId = k.nextId := rfl
@[simp] theorem Core.setV_lastCtx (k : Core) (n : Nat) (r : VReg) : (k.setV n r).lastCtx = k.lastCtx := rfl

@[simp] theorem Core.setTile_pid (k : Core) (n : Nat) (t : Tile) : (k.setTile n t).pid = k.pid := rfl
@[simp] theorem Core.setTile_task (k : Core) (n : Nat) (t : Tile) : (k.setTile n t).task = k.task := rfl
@[simp] theorem Core.setTile_sel (k : Core) (n : Nat) (t : Tile) : (k.setTile n t).sel = k.sel := rfl
@[simp] theorem Core.setTile_a (k : Core) (n : Nat) (t : Tile) : (k.setTile n t).a = k.a := rfl
@[simp] theorem Core.setTile_c (k : Core) (n : Nat) (t : Tile) : (k.setTile n t).c = k.c := rfl
@[simp] theorem Core.setTile_f (k : Core) (n : Nat) (t : Tile) : (k.setTile n t).f = k.f := rfl
@[simp] theorem Core.setTile_v (k : Core) (n : Nat) (t : Tile) : (k.setTile n t).v = k.v := rfl
@[simp] theorem Core.setTile_tiles (k : Core) (n : Nat) (t : Tile) : (k.setTile n t).tiles = k.tiles.setIfInBounds n t := rfl
@[simp] theorem Core.setTile_aot (k : Core) (n : Nat) (t : Tile) : (k.setTile n t).aot = k.aot := rfl
@[simp] theorem Core.setTile_queues (k : Core) (n : Nat) (t : Tile) : (k.setTile n t).queues = k.queues := rfl
@[simp] theorem Core.setTile_spad (k : Core) (n : Nat) (t : Tile) : (k.setTile n t).spad = k.spad := rfl
@[simp] theorem Core.setTile_full (k : Core) (n : Nat) (t : Tile) : (k.setTile n t).full = k.full := rfl
@[simp] theorem Core.setTile_tileTab (k : Core) (n : Nat) (t : Tile) : (k.setTile n t).tileTab = k.tileTab := rfl
@[simp] theorem Core.setTile_shadows (k : Core) (n : Nat) (t : Tile) : (k.setTile n t).shadows = k.shadows := rfl
@[simp] theorem Core.setTile_sys (k : Core) (n : Nat) (t : Tile) : (k.setTile n t).sys = k.sys := rfl
@[simp] theorem Core.setTile_handler (k : Core) (n : Nat) (t : Tile) : (k.setTile n t).handler = k.handler := rfl
@[simp] theorem Core.setTile_handlerOn (k : Core) (n : Nat) (t : Tile) : (k.setTile n t).handlerOn = k.handlerOn := rfl
@[simp] theorem Core.setTile_pending (k : Core) (n : Nat) (t : Tile) : (k.setTile n t).pending = k.pending := rfl
@[simp] theorem Core.setTile_deferred (k : Core) (n : Nat) (t : Tile) : (k.setTile n t).deferred = k.deferred := rfl
@[simp] theorem Core.setTile_stats (k : Core) (n : Nat) (t : Tile) : (k.setTile n t).stats = k.stats := rfl
@[simp] theorem Core.setTile_tlb (k : Core) (n : Nat) (t : Tile) : (k.setTile n t).tlb = k.tlb := rfl
@[simp] theorem Core.setTile_nextId (k : Core) (n : Nat) (t : Tile) : (k.setTile n t).nextId = k.nextId := rfl
@[simp] theorem Core.setTile_lastCtx (k : Core) (n : Nat) (t : Tile) : (k.setTile n t).lastCtx = k.lastCtx := rfl

@[simp] theorem Core.setAot_pid (k : Core) (n : Nat) (e : AotEntry) : (k.setAot n e).pid = k.pid := rfl
@[simp] theorem Core.setAot_task (k : Core) (n : Nat) (e : AotEntry) : (k.setAot n e).task = k.task := rfl
@[simp] theorem Core.setAot_sel (k : Core) (n : Nat) (e : AotEntry) : (k.setAot n e).sel = k.sel := rfl
@[simp] theorem Core.setAot_a (k : Core) (n : Nat) (e : AotEntry) : (k.setAot n e).a = k.a := rfl
@[simp] theorem Core.setAot_c (k : Core) (n : Nat) (e : AotEntry) : (k.setAot n e).c = k.c := rfl
@[simp] theorem Core.setAot_f (k : Core) (n : Nat) (e : AotEntry) : (k.setAot n e).f = k.f := rfl
@[simp] theorem Core.setAot_v (k : Core) (n : Nat) (e : AotEntry) : (k.setAot n e).v = k.v := rfl
@[simp] theorem Core.setAot_tiles (k : Core) (n : Nat) (e : AotEntry) : (k.setAot n e).tiles = k.tiles := rfl
@[simp] theorem Core.setAot_aot (k : Core) (n : Nat) (e : AotEntry) : (k.setAot n e).aot = k.aot.setIfInBounds n e := rfl
@[simp] theorem Core.setAot_queues (k : Core) (n : Nat) (e : AotEntry) : (k.setAot n e).queues = k.queues := rfl
@[simp] theorem Core.setAot_spad (k : Core) (n : Nat) (e : AotEntry) : (k.setAot n e).spad = k.spad := rfl
@[simp] theorem Core.setAot_full (k : Core) (n : Nat) (e : AotEntry) : (k.setAot n e).full = k.full := rfl
@[simp] theorem Core.setAot_tileTab (k : Core) (n : Nat) (e : AotEntry) : (k.setAot n e).tileTab = k.tileTab := rfl
@[simp] theorem Core.setAot_shadows (k : Core) (n : Nat) (e : AotEntry) : (k.setAot n e).shadows = k.shadows := rfl
@[simp] theorem Core.setAot_sys (k : Core) (n : Nat) (e : AotEntry) : (k.setAot n e).sys = k.sys := rfl
@[simp] theorem Core.setAot_handler (k : Core) (n : Nat) (e : AotEntry) : (k.setAot n e).handler = k.handler := rfl
@[simp] theorem Core.setAot_handlerOn (k : Core) (n : Nat) (e : AotEntry) : (k.setAot n e).handlerOn = k.handlerOn := rfl
@[simp] theorem Core.setAot_pending (k : Core) (n : Nat) (e : AotEntry) : (k.setAot n e).pending = k.pending := rfl
@[simp] theorem Core.setAot_deferred (k : Core) (n : Nat) (e : AotEntry) : (k.setAot n e).deferred = k.deferred := rfl
@[simp] theorem Core.setAot_stats (k : Core) (n : Nat) (e : AotEntry) : (k.setAot n e).stats = k.stats := rfl
@[simp] theorem Core.setAot_tlb (k : Core) (n : Nat) (e : AotEntry) : (k.setAot n e).tlb = k.tlb := rfl
@[simp] theorem Core.setAot_nextId (k : Core) (n : Nat) (e : AotEntry) : (k.setAot n e).nextId = k.nextId := rfl
@[simp] theorem Core.setAot_lastCtx (k : Core) (n : Nat) (e : AotEntry) : (k.setAot n e).lastCtx = k.lastCtx := rfl

@[simp] theorem Core.setEntry_pid (k : Core) (n : Nat) (e : TileEntry) : (k.setEntry n e).pid = k.pid := rfl
@[simp] theorem Core.setEntry_task (k : Core) (n : Nat) (e : TileEntry) : (k.setEntry n e).task = k.task := rfl
@[simp] theorem Core.setEntry_sel (k : Core) (n : Nat) (e : TileEntry) : (k.setEntry n e).sel = k.sel := rfl
@[simp] theorem Core.setEntry_a (k : Core) (n : Nat) (e : TileEntry) : (k.setEntry n e).a = k.a := rfl
@[simp] theorem Core.setEntry_c (k : Core) (n : Nat) (e : TileEntry) : (k.setEntry n e).c = k.c := rfl
@[simp] theorem Core.setEntry_f (k : Core) (n : Nat) (e : TileEntry) : (k.setEntry n e).f = k.f := rfl
@[simp] theorem Core.setEntry_v (k : Core) (n : Nat) (e : TileEntry) : (k.setEntry n e).v = k.v := rfl
@[simp] theorem Core.setEntry_tiles (k : Core) (n : Nat) (e : TileEntry) : (k.setEntry n e).tiles = k.tiles := rfl
@[simp] theorem Core.setEntry_aot (k : Core) (n : Nat) (e : TileEntry) : (k.setEntry n e).aot = k.aot := rfl
@[simp] theorem Core.setEntry_queues (k : Core) (n : Nat) (e : TileEntry) : (k.setEntry n e).queues = k.queues := rfl
@[simp] theorem Core.setEntry_spad (k : Core) (n : Nat) (e : TileEntry) : (k.setEntry n e).spad = k.spad := rfl
@[simp] theorem Core.setEntry_full (k : Core) (n : Nat) (e : TileEntry) : (k.setEntry n e).full = k.full := rfl
@[simp] theorem Core.setEntry_tileTab (k : Core) (n : Nat) (e : TileEntry) : (k.setEntry n e).tileTab = k.tileTab.setIfInBounds n e := rfl
@[simp] theorem Core.setEntry_shadows (k : Core) (n : Nat) (e : TileEntry) : (k.setEntry n e).shadows = k.shadows := rfl
@[simp] theorem Core.setEntry_sys (k : Core) (n : Nat) (e : TileEntry) : (k.setEntry n e).sys = k.sys := rfl
@[simp] theorem Core.setEntry_handler (k : Core) (n : Nat) (e : TileEntry) : (k.setEntry n e).handler = k.handler := rfl
@[simp] theorem Core.setEntry_handlerOn (k : Core) (n : Nat) (e : TileEntry) : (k.setEntry n e).handlerOn = k.handlerOn := rfl
@[simp] theorem Core.setEntry_pending (k : Core) (n : Nat) (e : TileEntry) : (k.setEntry n e).pending = k.pending := rfl
@[simp] theorem Core.setEntry_deferred (k : Core) (n : Nat) (e : TileEntry) : (k.setEntry n e).deferred = k.deferred := rfl
@[simp] theorem Core.setEntry_stats (k : Core) (n : Nat) (e : TileEntry) : (k.setEntry n e).stats = k.stats := rfl
@[simp] theorem Core.setEntry_tlb (k : Core) (n : Nat) (e : TileEntry) : (k.setEntry n e).tlb = k.tlb := rfl
@[simp] theorem Core.setEntry_nextId (k : Core) (n : Nat) (e : TileEntry) : (k.setEntry n e).nextId = k.nextId := rfl
@[simp] theorem Core.setEntry_lastCtx (k : Core) (n : Nat) (e : TileEntry) : (k.setEntry n e).lastCtx = k.lastCtx := rfl

@[simp] theorem Core.setQueue_pid (k : Core) (n : Nat) (es : List QEntry) : (k.setQueue n es).pid = k.pid := rfl
@[simp] theorem Core.setQueue_task (k : Core) (n : Nat) (es : List QEntry) : (k.setQueue n es).task = k.task := rfl
@[simp] theorem Core.setQueue_sel (k : Core) (n : Nat) (es : List QEntry) : (k.setQueue n es).sel = k.sel := rfl
@[simp] theorem Core.setQueue_a (k : Core) (n : Nat) (es : List QEntry) : (k.setQueue n es).a = k.a := rfl
@[simp] theorem Core.setQueue_c (k : Core) (n : Nat) (es : List QEntry) : (k.setQueue n es).c = k.c := rfl
@[simp] theorem Core.setQueue_f (k : Core) (n : Nat) (es : List QEntry) : (k.setQueue n es).f = k.f := rfl
@[simp] theorem Core.setQueue_v (k : Core) (n : Nat) (es : List QEntry) : (k.setQueue n es).v = k.v := rfl
@[simp] theorem Core.setQueue_tiles (k : Core) (n : Nat) (es : List QEntry) : (k.setQueue n es).tiles = k.tiles := rfl
@[simp] theorem Core.setQueue_aot (k : Core) (n : Nat) (es : List QEntry) : (k.setQueue n es).aot = k.aot := rfl
@[simp] theorem Core.setQueue_queues (k : Core) (n : Nat) (es : List QEntry) : (k.setQueue n es).queues = k.queues.setIfInBounds n es := rfl
@[simp] theorem Core.setQueue_spad (k : Core) (n : Nat) (es : List QEntry) : (k.setQueue n es).spad = k.spad := rfl
@[simp] theorem Core.setQueue_full (k : Core) (n : Nat) (es : List QEntry) : (k.setQueue n es).full = k.full := rfl
@[simp] theorem Core.setQueue_tileTab (k : Core) (n : Nat) (es : List QEntry) : (k.setQueue n es).tileTab = k.tileTab := rfl
@[simp] theorem Core.setQueue_shadows (k : Core) (n : Nat) (es : List QEntry) : (k.setQueue n es).shadows = k.shadows := rfl
@[simp] theorem Core.setQueue_sys (k : Core) (n : Nat) (es : List QEntry) : (k.setQueue n es).sys = k.sys := rfl
@[simp] theorem Core.setQueue_handler (k : Core) (n : Nat) (es : List QEntry) : (k.setQueue n es).handler = k.handler := rfl
@[simp] theorem Core.setQueue_handlerOn (k : Core) (n : Nat) (es : List QEntry) : (k.setQueue n es).handlerOn = k.handlerOn := rfl
@[simp] theorem Core.setQueue_pending (k : Core) (n : Nat) (es : List QEntry) : (k.setQueue n es).pending = k.pending := rfl
@[simp] theorem Core.setQueue_deferred (k : Core) (n : Nat) (es : List QEntry) : (k.setQueue n es).deferred = k.deferred := rfl
@[simp] theorem Core.setQueue_stats (k : Core) (n : Nat) (es : List QEntry) : (k.setQueue n es).stats = k.stats := rfl
@[simp] theorem Core.setQueue_tlb (k : Core) (n : Nat) (es : List QEntry) : (k.setQueue n es).tlb = k.tlb := rfl
@[simp] theorem Core.setQueue_nextId (k : Core) (n : Nat) (es : List QEntry) : (k.setQueue n es).nextId = k.nextId := rfl
@[simp] theorem Core.setQueue_lastCtx (k : Core) (n : Nat) (es : List QEntry) : (k.setQueue n es).lastCtx = k.lastCtx := rfl

@[simp] theorem Core.setFull_pid (k : Core) (w : Nat) (b : Bool) : (k.setFull w b).pid = k.pid := rfl
@[simp] theorem Core.setFull_task (k : Core) (w : Nat) (b : Bool) : (k.setFull w b).task = k.task := rfl
@[simp] theorem Core.setFull_sel (k : Core) (w : Nat) (b : Bool) : (k.setFull w b).sel = k.sel := rfl
@[simp] theorem Core.setFull_a (k : Core) (w : Nat) (b : Bool) : (k.setFull w b).a = k.a := rfl
@[simp] theorem Core.setFull_c (k : Core) (w : Nat) (b : Bool) : (k.setFull w b).c = k.c := rfl
@[simp] theorem Core.setFull_f (k : Core) (w : Nat) (b : Bool) : (k.setFull w b).f = k.f := rfl
@[simp] theorem Core.setFull_v (k : Core) (w : Nat) (b : Bool) : (k.setFull w b).v = k.v := rfl
@[simp] theorem Core.setFull_tiles (k : Core) (w : Nat) (b : Bool) : (k.setFull w b).tiles = k.tiles := rfl
@[simp] theorem Core.setFull_aot (k : Core) (w : Nat) (b : Bool) : (k.setFull w b).aot = k.aot := rfl
@[simp] theorem Core.setFull_queues (k : Core) (w : Nat) (b : Bool) : (k.setFull w b).queues = k.queues := rfl
@[simp] theorem Core.setFull_spad (k : Core) (w : Nat) (b : Bool) : (k.setFull w b).spad = k.spad := rfl
@[simp] theorem Core.setFull_full (k : Core) (w : Nat) (b : Bool) : (k.setFull w b).full = if b then insertNat w k.full else k.full.filter (fun x => x != w) := rfl
@[simp] theorem Core.setFull_tileTab (k : Core) (w : Nat) (b : Bool) : (k.setFull w b).tileTab = k.tileTab := rfl
@[simp] theorem Core.setFull_shadows (k : Core) (w : Nat) (b : Bool) : (k.setFull w b).shadows = k.shadows := rfl
@[simp] theorem Core.setFull_sys (k : Core) (w : Nat) (b : Bool) : (k.setFull w b).sys = k.sys := rfl
@[simp] theorem Core.setFull_handler (k : Core) (w : Nat) (b : Bool) : (k.setFull w b).handler = k.handler := rfl
@[simp] theorem Core.setFull_handlerOn (k : Core) (w : Nat) (b : Bool) : (k.setFull w b).handlerOn = k.handlerOn := rfl
@[simp] theorem Core.setFull_pending (k : Core) (w : Nat) (b : Bool) : (k.setFull w b).pending = k.pending := rfl
@[simp] theorem Core.setFull_deferred (k : Core) (w : Nat) (b : Bool) : (k.setFull w b).deferred = k.deferred := rfl
@[simp] theorem Core.setFull_stats (k : Core) (w : Nat) (b : Bool) : (k.setFull w b).stats = k.stats := rfl
@[simp] theorem Core.setFull_tlb (k : Core) (w : Nat) (b : Bool) : (k.setFull w b).tlb = k.tlb := rfl
@[simp] theorem Core.setFull_nextId (k : Core) (w : Nat) (b : Bool) : (k.setFull w b).nextId = k.nextId := rfl
@[simp] theorem Core.setFull_lastCtx (k : Core) (w : Nat) (b : Bool) : (k.setFull w b).lastCtx = k.lastCtx := rfl

@[simp] theorem Core.raise_pid (k : Core) (t : BitVec 32) (fl : BitVec 6) (c : Counts) : (k.raise t fl c).pid = k.pid := rfl
@[simp] theorem Core.raise_task (k : Core) (t : BitVec 32) (fl : BitVec 6) (c : Counts) : (k.raise t fl c).task = k.task := rfl
@[simp] theorem Core.raise_sel (k : Core) (t : BitVec 32) (fl : BitVec 6) (c : Counts) : (k.raise t fl c).sel = k.sel := rfl
@[simp] theorem Core.raise_a (k : Core) (t : BitVec 32) (fl : BitVec 6) (c : Counts) : (k.raise t fl c).a = k.a := rfl
@[simp] theorem Core.raise_c (k : Core) (t : BitVec 32) (fl : BitVec 6) (c : Counts) : (k.raise t fl c).c = k.c := rfl
@[simp] theorem Core.raise_f (k : Core) (t : BitVec 32) (fl : BitVec 6) (c : Counts) : (k.raise t fl c).f = k.f := rfl
@[simp] theorem Core.raise_v (k : Core) (t : BitVec 32) (fl : BitVec 6) (c : Counts) : (k.raise t fl c).v = k.v := rfl
@[simp] theorem Core.raise_tiles (k : Core) (t : BitVec 32) (fl : BitVec 6) (c : Counts) : (k.raise t fl c).tiles = k.tiles := rfl
@[simp] theorem Core.raise_aot (k : Core) (t : BitVec 32) (fl : BitVec 6) (c : Counts) : (k.raise t fl c).aot = k.aot := rfl
@[simp] theorem Core.raise_queues (k : Core) (t : BitVec 32) (fl : BitVec 6) (c : Counts) : (k.raise t fl c).queues = k.queues := rfl
@[simp] theorem Core.raise_spad (k : Core) (t : BitVec 32) (fl : BitVec 6) (c : Counts) : (k.raise t fl c).spad = k.spad := rfl
@[simp] theorem Core.raise_full (k : Core) (t : BitVec 32) (fl : BitVec 6) (c : Counts) : (k.raise t fl c).full = k.full := rfl
@[simp] theorem Core.raise_tileTab (k : Core) (t : BitVec 32) (fl : BitVec 6) (c : Counts) : (k.raise t fl c).tileTab = k.tileTab := rfl
@[simp] theorem Core.raise_shadows (k : Core) (t : BitVec 32) (fl : BitVec 6) (c : Counts) : (k.raise t fl c).shadows = k.shadows := rfl
@[simp] theorem Core.raise_sys (k : Core) (t : BitVec 32) (fl : BitVec 6) (c : Counts) : (k.raise t fl c).sys = { k.sys with fflags := k.sys.fflags ||| fl } := rfl
@[simp] theorem Core.raise_handler (k : Core) (t : BitVec 32) (fl : BitVec 6) (c : Counts) : (k.raise t fl c).handler = k.handler := rfl
@[simp] theorem Core.raise_handlerOn (k : Core) (t : BitVec 32) (fl : BitVec 6) (c : Counts) : (k.raise t fl c).handlerOn = k.handlerOn := rfl
@[simp] theorem Core.raise_pending (k : Core) (t : BitVec 32) (fl : BitVec 6) (c : Counts) : (k.raise t fl c).pending = k.pending := rfl
@[simp] theorem Core.raise_deferred (k : Core) (t : BitVec 32) (fl : BitVec 6) (c : Counts) : (k.raise t fl c).deferred = k.deferred := rfl
@[simp] theorem Core.raise_stats (k : Core) (t : BitVec 32) (fl : BitVec 6) (c : Counts) : (k.raise t fl c).stats = if c.isZero then k.stats else addCounts t c k.stats := rfl
@[simp] theorem Core.raise_tlb (k : Core) (t : BitVec 32) (fl : BitVec 6) (c : Counts) : (k.raise t fl c).tlb = k.tlb := rfl
@[simp] theorem Core.raise_nextId (k : Core) (t : BitVec 32) (fl : BitVec 6) (c : Counts) : (k.raise t fl c).nextId = k.nextId := rfl
@[simp] theorem Core.raise_lastCtx (k : Core) (t : BitVec 32) (fl : BitVec 6) (c : Counts) : (k.raise t fl c).lastCtx = k.lastCtx := rfl

@[simp] theorem Core.setStr_pid (k : Core) (x : StreamId) (st : Stream) : (k.setStr x st).pid = k.pid := by cases x <;> rfl
@[simp] theorem Core.updStr_pid (k : Core) (x : StreamId) (f : Stream → Stream) : (k.updStr x f).pid = k.pid := by cases x <;> rfl
@[simp] theorem Core.setStr_task (k : Core) (x : StreamId) (st : Stream) : (k.setStr x st).task = k.task := by cases x <;> rfl
@[simp] theorem Core.updStr_task (k : Core) (x : StreamId) (f : Stream → Stream) : (k.updStr x f).task = k.task := by cases x <;> rfl
@[simp] theorem Core.setStr_sel (k : Core) (x : StreamId) (st : Stream) : (k.setStr x st).sel = k.sel := by cases x <;> rfl
@[simp] theorem Core.updStr_sel (k : Core) (x : StreamId) (f : Stream → Stream) : (k.updStr x f).sel = k.sel := by cases x <;> rfl
@[simp] theorem Core.setStr_f (k : Core) (x : StreamId) (st : Stream) : (k.setStr x st).f = k.f := by cases x <;> rfl
@[simp] theorem Core.updStr_f (k : Core) (x : StreamId) (f : Stream → Stream) : (k.updStr x f).f = k.f := by cases x <;> rfl
@[simp] theorem Core.setStr_v (k : Core) (x : StreamId) (st : Stream) : (k.setStr x st).v = k.v := by cases x <;> rfl
@[simp] theorem Core.updStr_v (k : Core) (x : StreamId) (f : Stream → Stream) : (k.updStr x f).v = k.v := by cases x <;> rfl
@[simp] theorem Core.setStr_tiles (k : Core) (x : StreamId) (st : Stream) : (k.setStr x st).tiles = k.tiles := by cases x <;> rfl
@[simp] theorem Core.updStr_tiles (k : Core) (x : StreamId) (f : Stream → Stream) : (k.updStr x f).tiles = k.tiles := by cases x <;> rfl
@[simp] theorem Core.setStr_aot (k : Core) (x : StreamId) (st : Stream) : (k.setStr x st).aot = k.aot := by cases x <;> rfl
@[simp] theorem Core.updStr_aot (k : Core) (x : StreamId) (f : Stream → Stream) : (k.updStr x f).aot = k.aot := by cases x <;> rfl
@[simp] theorem Core.setStr_queues (k : Core) (x : StreamId) (st : Stream) : (k.setStr x st).queues = k.queues := by cases x <;> rfl
@[simp] theorem Core.updStr_queues (k : Core) (x : StreamId) (f : Stream → Stream) : (k.updStr x f).queues = k.queues := by cases x <;> rfl
@[simp] theorem Core.setStr_spad (k : Core) (x : StreamId) (st : Stream) : (k.setStr x st).spad = k.spad := by cases x <;> rfl
@[simp] theorem Core.updStr_spad (k : Core) (x : StreamId) (f : Stream → Stream) : (k.updStr x f).spad = k.spad := by cases x <;> rfl
@[simp] theorem Core.setStr_full (k : Core) (x : StreamId) (st : Stream) : (k.setStr x st).full = k.full := by cases x <;> rfl
@[simp] theorem Core.updStr_full (k : Core) (x : StreamId) (f : Stream → Stream) : (k.updStr x f).full = k.full := by cases x <;> rfl
@[simp] theorem Core.setStr_tileTab (k : Core) (x : StreamId) (st : Stream) : (k.setStr x st).tileTab = k.tileTab := by cases x <;> rfl
@[simp] theorem Core.updStr_tileTab (k : Core) (x : StreamId) (f : Stream → Stream) : (k.updStr x f).tileTab = k.tileTab := by cases x <;> rfl
@[simp] theorem Core.setStr_shadows (k : Core) (x : StreamId) (st : Stream) : (k.setStr x st).shadows = k.shadows := by cases x <;> rfl
@[simp] theorem Core.updStr_shadows (k : Core) (x : StreamId) (f : Stream → Stream) : (k.updStr x f).shadows = k.shadows := by cases x <;> rfl
@[simp] theorem Core.setStr_sys (k : Core) (x : StreamId) (st : Stream) : (k.setStr x st).sys = k.sys := by cases x <;> rfl
@[simp] theorem Core.updStr_sys (k : Core) (x : StreamId) (f : Stream → Stream) : (k.updStr x f).sys = k.sys := by cases x <;> rfl
@[simp] theorem Core.setStr_handler (k : Core) (x : StreamId) (st : Stream) : (k.setStr x st).handler = k.handler := by cases x <;> rfl
@[simp] theorem Core.updStr_handler (k : Core) (x : StreamId) (f : Stream → Stream) : (k.updStr x f).handler = k.handler := by cases x <;> rfl
@[simp] theorem Core.setStr_handlerOn (k : Core) (x : StreamId) (st : Stream) : (k.setStr x st).handlerOn = k.handlerOn := by cases x <;> rfl
@[simp] theorem Core.updStr_handlerOn (k : Core) (x : StreamId) (f : Stream → Stream) : (k.updStr x f).handlerOn = k.handlerOn := by cases x <;> rfl
@[simp] theorem Core.setStr_pending (k : Core) (x : StreamId) (st : Stream) : (k.setStr x st).pending = k.pending := by cases x <;> rfl
@[simp] theorem Core.updStr_pending (k : Core) (x : StreamId) (f : Stream → Stream) : (k.updStr x f).pending = k.pending := by cases x <;> rfl
@[simp] theorem Core.setStr_deferred (k : Core) (x : StreamId) (st : Stream) : (k.setStr x st).deferred = k.deferred := by cases x <;> rfl
@[simp] theorem Core.updStr_deferred (k : Core) (x : StreamId) (f : Stream → Stream) : (k.updStr x f).deferred = k.deferred := by cases x <;> rfl
@[simp] theorem Core.setStr_stats (k : Core) (x : StreamId) (st : Stream) : (k.setStr x st).stats = k.stats := by cases x <;> rfl
@[simp] theorem Core.updStr_stats (k : Core) (x : StreamId) (f : Stream → Stream) : (k.updStr x f).stats = k.stats := by cases x <;> rfl
@[simp] theorem Core.setStr_tlb (k : Core) (x : StreamId) (st : Stream) : (k.setStr x st).tlb = k.tlb := by cases x <;> rfl
@[simp] theorem Core.updStr_tlb (k : Core) (x : StreamId) (f : Stream → Stream) : (k.updStr x f).tlb = k.tlb := by cases x <;> rfl
@[simp] theorem Core.setStr_nextId (k : Core) (x : StreamId) (st : Stream) : (k.setStr x st).nextId = k.nextId := by cases x <;> rfl
@[simp] theorem Core.updStr_nextId (k : Core) (x : StreamId) (f : Stream → Stream) : (k.updStr x f).nextId = k.nextId := by cases x <;> rfl
@[simp] theorem Core.setStr_lastCtx (k : Core) (x : StreamId) (st : Stream) : (k.setStr x st).lastCtx = k.lastCtx := by cases x <;> rfl
@[simp] theorem Core.updStr_lastCtx (k : Core) (x : StreamId) (f : Stream → Stream) : (k.updStr x f).lastCtx = k.lastCtx := by cases x <;> rfl

@[simp] theorem Core.str_setStr (k : Core) (x : StreamId) (st : Stream) : (k.setStr x st).str x = st := by cases x <;> rfl

@[simp] theorem Core.str_setStr_other (k : Core) (x : StreamId) (st : Stream) : (k.setStr x st).str x.other = k.str x.other := by
  cases x <;> rfl

@[simp] theorem Core.str_updStr (k : Core) (x : StreamId) (f : Stream → Stream) : (k.updStr x f).str x = f (k.str x) := by
  cases x <;> rfl

@[simp] theorem Core.str_updStr_other (k : Core) (x : StreamId) (f : Stream → Stream) : (k.updStr x f).str x.other = k.str x.other := by
  cases x <;> rfl

/-- Two updates of one stream are one. -/
@[simp] theorem Core.updStr_updStr (k : Core) (x : StreamId) (f h : Stream → Stream) :
    (k.updStr x f).updStr x h = k.updStr x (fun st => h (f st)) := by cases x <;> rfl

@[simp] theorem Core.setF_str (k : Core) (n : Nat) (r : FReg) (x : StreamId) : (k.setF n r).str x = k.str x := by cases x <;> rfl
@[simp] theorem Core.setV_str (k : Core) (n : Nat) (r : VReg) (x : StreamId) : (k.setV n r).str x = k.str x := by cases x <;> rfl
@[simp] theorem Core.setTile_str (k : Core) (n : Nat) (t : Tile) (x : StreamId) : (k.setTile n t).str x = k.str x := by cases x <;> rfl
@[simp] theorem Core.setAot_str (k : Core) (n : Nat) (e : AotEntry) (x : StreamId) : (k.setAot n e).str x = k.str x := by cases x <;> rfl
@[simp] theorem Core.setEntry_str (k : Core) (n : Nat) (e : TileEntry) (x : StreamId) : (k.setEntry n e).str x = k.str x := by cases x <;> rfl
@[simp] theorem Core.setQueue_str (k : Core) (n : Nat) (es : List QEntry) (x : StreamId) : (k.setQueue n es).str x = k.str x := by cases x <;> rfl
@[simp] theorem Core.setFull_str (k : Core) (w : Nat) (b : Bool) (x : StreamId) : (k.setFull w b).str x = k.str x := by cases x <;> rfl
@[simp] theorem Core.raise_str (k : Core) (t : BitVec 32) (fl : BitVec 6) (c : Counts) (x : StreamId) : (k.raise t fl c).str x = k.str x := by cases x <;> rfl

/-! ### A stream -/

@[simp] theorem Stream.setG_pc (st : Stream) (n : Nat) (v : Word) : (st.setG n v).pc = st.pc := by unfold Stream.setG; split <;> rfl
@[simp] theorem Stream.setG_mode (st : Stream) (n : Nat) (v : Word) : (st.setG n v).mode = st.mode := by unfold Stream.setG; split <;> rfl
@[simp] theorem Stream.setG_exited (st : Stream) (n : Nat) (v : Word) : (st.setG n v).exited = st.exited := by unfold Stream.setG; split <;> rfl
@[simp] theorem Stream.setG_stopped (st : Stream) (n : Nat) (v : Word) : (st.setG n v).stopped = st.stopped := by unfold Stream.setG; split <;> rfl
@[simp] theorem Stream.setG_wait (st : Stream) (n : Nat) (v : Word) : (st.setG n v).wait = st.wait := by unfold Stream.setG; split <;> rfl
@[simp] theorem Stream.setG_waitFrom (st : Stream) (n : Nat) (v : Word) : (st.setG n v).waitFrom = st.waitFrom := by unfold Stream.setG; split <;> rfl
@[simp] theorem Stream.setG_pos (st : Stream) (n : Nat) (v : Word) : (st.setG n v).pos = st.pos := by unfold Stream.setG; split <;> rfl
@[simp] theorem Stream.setG_wins (st : Stream) (n : Nat) (v : Word) : (st.setG n v).wins = st.wins := by unfold Stream.setG; split <;> rfl
@[simp] theorem Stream.setG_flight (st : Stream) (n : Nat) (v : Word) : (st.setG n v).flight = st.flight := by unfold Stream.setG; split <;> rfl
@[simp] theorem Stream.setG_fence (st : Stream) (n : Nat) (v : Word) : (st.setG n v).fence = st.fence := by unfold Stream.setG; split <;> rfl
@[simp] theorem Stream.setG_safeId (st : Stream) (n : Nat) (v : Word) : (st.setG n v).safeId = st.safeId := by unfold Stream.setG; split <;> rfl
@[simp] theorem Stream.setG_resume (st : Stream) (n : Nat) (v : Word) : (st.setG n v).resume = st.resume := by unfold Stream.setG; split <;> rfl
@[simp] theorem Stream.setG_interp (st : Stream) (n : Nat) (v : Word) : (st.setG n v).interp = st.interp := by unfold Stream.setG; split <;> rfl
@[simp] theorem Stream.setG_drain (st : Stream) (n : Nat) (v : Word) : (st.setG n v).drain = st.drain := by unfold Stream.setG; split <;> rfl
@[simp] theorem Stream.setG_arrived (st : Stream) (n : Nat) (v : Word) : (st.setG n v).arrived = st.arrived := by unfold Stream.setG; split <;> rfl
@[simp] theorem Stream.setG_dsynced (st : Stream) (n : Nat) (v : Word) : (st.setG n v).dsynced = st.dsynced := by unfold Stream.setG; split <;> rfl
@[simp] theorem Stream.setG_gsynced (st : Stream) (n : Nat) (v : Word) : (st.setG n v).gsynced = st.gsynced := by unfold Stream.setG; split <;> rfl
@[simp] theorem Stream.setG_ordinal (st : Stream) (n : Nat) (v : Word) : (st.setG n v).ordinal = st.ordinal := by unfold Stream.setG; split <;> rfl
@[simp] theorem Stream.setG_taken (st : Stream) (n : Nat) (v : Word) : (st.setG n v).taken = st.taken := by unfold Stream.setG; split <;> rfl
@[simp] theorem Stream.setG_stopDue (st : Stream) (n : Nat) (v : Word) : (st.setG n v).stopDue = st.stopDue := by unfold Stream.setG; split <;> rfl
@[simp] theorem Stream.setG_seen (st : Stream) (n : Nat) (v : Word) : (st.setG n v).seen = st.seen := by unfold Stream.setG; split <;> rfl
@[simp] theorem Stream.setG_named (st : Stream) (n : Nat) (v : Word) : (st.setG n v).named = st.named := by unfold Stream.setG; split <;> rfl
@[simp] theorem Stream.setG_rewait (st : Stream) (n : Nat) (v : Word) : (st.setG n v).rewait = st.rewait := by unfold Stream.setG; split <;> rfl
@[simp] theorem Stream.setG_asking (st : Stream) (n : Nat) (v : Word) : (st.setG n v).asking = st.asking := by unfold Stream.setG; split <;> rfl
@[simp] theorem Stream.setG_aside (st : Stream) (n : Nat) (v : Word) : (st.setG n v).aside = st.aside := by unfold Stream.setG; split <;> rfl

/-- g0 reads zero whatever is written (R94). -/
@[simp] theorem Stream.getG_zero (st : Stream) : st.getG 0 = 0 := rfl

/-- A write to g0 is discarded (R94). -/
@[simp] theorem Stream.setG_zero (st : Stream) (v : Word) : st.setG 0 v = st := rfl

/-- A g register other than g0 reads what was last written to it. -/
theorem Stream.getG_setG (st : Stream) (n : Nat) (v : Word) (h : n ≠ 0) (h32 : n < 32) : (st.setG n v).getG n = v := by
  simp [Stream.getG, Stream.setG, h, h32]

/-- A write leaves every other g register alone. -/
theorem Stream.getG_setG_of_ne (st : Stream) (n m : Nat) (v : Word) (h : n ≠ m) : (st.setG n v).getG m = st.getG m := by
  unfold Stream.getG Stream.setG
  split
  · rfl
  · split
    · rfl
    · simp [h]

/-- An f register reads what was last written to it. -/
theorem Core.getF_setF (k : Core) (n : Nat) (r : FReg) (h : n < 32) : (k.setF n r).getF n = r := by simp [Core.getF, h]

theorem Core.getF_setF_of_ne (k : Core) (n m : Nat) (r : FReg) (h : n ≠ m) : (k.setF n r).getF m = k.getF m := by
  simp [Core.getF, h]

/-- A v register reads what was last written to it. -/
theorem Core.getV_setV (k : Core) (n : Nat) (r : VReg) (h : n < 24) : (k.setV n r).getV n = r := by simp [Core.getV, h]

theorem Core.getV_setV_of_ne (k : Core) (n m : Nat) (r : VReg) (h : n ≠ m) : (k.setV n r).getV m = k.getV m := by
  simp [Core.getV, h]

/-- The stream whose instruction is being issued, after an update of it. -/
@[simp] theorem State.updCur_cur (s : State) (f : Stream → Stream) : (s.updCur f).cur = f s.cur := by simp [State.cur]

@[simp] theorem State.updSys_cur (s : State) (f : SysRegs → SysRegs) : (s.updSys f).cur = s.cur := by
  unfold State.cur State.updSys; cases s.core.sel <;> rfl

@[simp] theorem State.setF_cur (s : State) (n : Nat) (r : FReg) : (s.setF n r).cur = s.cur := by simp [State.cur]

@[simp] theorem State.setV_cur (s : State) (n : Nat) (r : VReg) : (s.setV n r).cur = s.cur := by simp [State.cur]

@[simp] theorem State.setG_cur (s : State) (n : BitVec 5) (v : Word) : (s.setG n v).cur = s.cur.setG n.toNat v := by
  simp [State.cur]

@[simp] theorem State.setPc_cur (s : State) (pc : Word) : (s.setPc pc).cur = { s.cur with pc := pc } := by simp [State.cur]

@[simp] theorem State.raise_cur (s : State) (e : Eff) : (s.raise e).cur = s.cur := by simp [State.cur]

end Sys2Proof.Machine
end

