-- ==== Sys2Proof/Laws/Issue.lean ====
section
/-! SUPPORT. The order of checks at issue: what `issue` answers, said once, and what stands in the state past an instruction. -/

namespace Sys2Proof.Machine

open Sys2Proof.Safety

/-! ### The first instruction of a handler (R89, R310) -/

@[simp] theorem State.beginHandler_cores (s : State) : s.beginHandler.cores = s.cores := by
  unfold State.beginHandler; simp only []; split <;> rfl

@[simp] theorem State.beginHandler_clusters (s : State) : s.beginHandler.clusters = s.clusters := by
  unfold State.beginHandler; simp only []; split <;> rfl

@[simp] theorem State.beginHandler_contexts (s : State) : s.beginHandler.contexts = s.contexts := by
  unfold State.beginHandler; simp only []; split <;> rfl

@[simp] theorem State.beginHandler_pool (s : State) : s.beginHandler.pool = s.pool := by
  unfold State.beginHandler; simp only []; split <;> rfl

@[simp] theorem State.beginHandler_host (s : State) : s.beginHandler.host = s.host := by
  unfold State.beginHandler; simp only []; split <;> rfl

@[simp] theorem State.beginHandler_dev (s : State) : s.beginHandler.dev = s.dev := by
  unfold State.beginHandler; simp only []; split <;> rfl

@[simp] theorem State.beginHandler_agenda (s : State) : s.beginHandler.agenda = s.agenda := by
  unfold State.beginHandler; simp only []; split <;> rfl

@[simp] theorem State.beginHandler_free (s : State) : s.beginHandler.free = s.free := by
  unfold State.beginHandler; simp only []; split <;> rfl

@[simp] theorem State.beginHandler_core_pid (s : State) : s.beginHandler.core.pid = s.core.pid := by
  unfold State.beginHandler; simp only []; split <;> simp

@[simp] theorem State.beginHandler_core_task (s : State) : s.beginHandler.core.task = s.core.task := by
  unfold State.beginHandler; simp only []; split <;> simp

@[simp] theorem State.beginHandler_core_sel (s : State) : s.beginHandler.core.sel = s.core.sel := by
  unfold State.beginHandler; simp only []; split <;> simp

@[simp] theorem State.beginHandler_core_f (s : State) : s.beginHandler.core.f = s.core.f := by
  unfold State.beginHandler; simp only []; split <;> simp

@[simp] theorem State.beginHandler_core_v (s : State) : s.beginHandler.core.v = s.core.v := by
  unfold State.beginHandler; simp only []; split <;> simp

@[simp] theorem State.beginHandler_core_tiles (s : State) : s.beginHandler.core.tiles = s.core.tiles := by
  unfold State.beginHandler; simp only []; split <;> simp

@[simp] theorem State.beginHandler_core_aot (s : State) : s.beginHandler.core.aot = s.core.aot := by
  unfold State.beginHandler; simp only []; split <;> simp

@[simp] theorem State.beginHandler_core_queues (s : State) : s.beginHandler.core.queues = s.core.queues := by
  unfold State.beginHandler; simp only []; split <;> simp

@[simp] theorem State.beginHandler_core_spad (s : State) : s.beginHandler.core.spad = s.core.spad := by
  unfold State.beginHandler; simp only []; split <;> simp

@[simp] theorem State.beginHandler_core_full (s : State) : s.beginHandler.core.full = s.core.full := by
  unfold State.beginHandler; simp only []; split <;> simp

@[simp] theorem State.beginHandler_core_tileTab (s : State) : s.beginHandler.core.tileTab = s.core.tileTab := by
  unfold State.beginHandler; simp only []; split <;> simp

@[simp] theorem State.beginHandler_core_shadows (s : State) : s.beginHandler.core.shadows = s.core.shadows := by
  unfold State.beginHandler; simp only []; split <;> simp

@[simp] theorem State.beginHandler_core_handler (s : State) : s.beginHandler.core.handler = s.core.handler := by
  unfold State.beginHandler; simp only []; split <;> simp

@[simp] theorem State.beginHandler_core_pending (s : State) : s.beginHandler.core.pending = s.core.pending := by
  unfold State.beginHandler; simp only []; split <;> simp

@[simp] theorem State.beginHandler_core_deferred (s : State) : s.beginHandler.core.deferred = s.core.deferred := by
  unfold State.beginHandler; simp only []; split <;> simp

@[simp] theorem State.beginHandler_core_stats (s : State) : s.beginHandler.core.stats = s.core.stats := by
  unfold State.beginHandler; simp only []; split <;> simp

@[simp] theorem State.beginHandler_core_tlb (s : State) : s.beginHandler.core.tlb = s.core.tlb := by
  unfold State.beginHandler; simp only []; split <;> simp

@[simp] theorem State.beginHandler_core_nextId (s : State) : s.beginHandler.core.nextId = s.core.nextId := by
  unfold State.beginHandler; simp only []; split <;> simp

@[simp] theorem State.beginHandler_core_lastCtx (s : State) : s.beginHandler.core.lastCtx = s.core.lastCtx := by
  unfold State.beginHandler; simp only []; split <;> simp

/-- The handler's own stream is as it was. -/
@[simp] theorem State.beginHandler_cur (s : State) : s.beginHandler.cur = s.cur := by
  unfold State.beginHandler; simp only []; split
  · rfl
  · cases hx : s.core.sel <;> simp [State.cur, Core.updStr, Core.setStr, Core.str, StreamId.other, hx]

/-- TRAP.SAVE takes the address at which the other stream then stands. -/
@[simp] theorem State.beginHandler_core_sys (s : State) :
    s.beginHandler.core.sys = if s.core.handlerOn then s.core.sys
      else { s.core.sys with trapSave := (s.standAt s.core s.core.sel.other).1 } := by
  unfold State.beginHandler; simp only []; split <;> simp_all

/-! ### What a stopped stream's synchronising accesses leave (R195) -/

@[simp] theorem Core.withdraw_pid (k : Core) : k.withdraw.pid = k.pid := by
  unfold Core.withdraw; simp only []; split <;> simp [Core.setQueue]

@[simp] theorem Core.withdraw_task (k : Core) : k.withdraw.task = k.task := by
  unfold Core.withdraw; simp only []; split <;> simp [Core.setQueue]

@[simp] theorem Core.withdraw_sel (k : Core) : k.withdraw.sel = k.sel := by
  unfold Core.withdraw; simp only []; split <;> simp [Core.setQueue]

@[simp] theorem Core.withdraw_f (k : Core) : k.withdraw.f = k.f := by
  unfold Core.withdraw; simp only []; split <;> simp [Core.setQueue]

@[simp] theorem Core.withdraw_v (k : Core) : k.withdraw.v = k.v := by
  unfold Core.withdraw; simp only []; split <;> simp [Core.setQueue]

@[simp] theorem Core.withdraw_tiles (k : Core) : k.withdraw.tiles = k.tiles := by
  unfold Core.withdraw; simp only []; split <;> simp [Core.setQueue]

@[simp] theorem Core.withdraw_aot (k : Core) : k.withdraw.aot = k.aot := by
  unfold Core.withdraw; simp only []; split <;> simp [Core.setQueue]

@[simp] theorem Core.withdraw_spad (k : Core) : k.withdraw.spad = k.spad := by
  unfold Core.withdraw; simp only []; split <;> simp [Core.setQueue]

@[simp] theorem Core.withdraw_full (k : Core) : k.withdraw.full = k.full := by
  unfold Core.withdraw; simp only []; split <;> simp [Core.setQueue]

@[simp] theorem Core.withdraw_sys (k : Core) : k.withdraw.sys = k.sys := by
  unfold Core.withdraw; simp only []; split <;> simp [Core.setQueue]

@[simp] theorem Core.withdraw_pending (k : Core) : k.withdraw.pending = k.pending := by
  unfold Core.withdraw; simp only []; split <;> simp [Core.setQueue]

@[simp] theorem Core.withdraw_c (k : Core) : k.withdraw.c = k.c := by
  unfold Core.withdraw; simp only []; split <;> simp [Core.setQueue]

/-- The entry that a waiting stsq had popped is back in its queue. -/
@[simp] theorem Core.withdraw_a (k : Core) : k.withdraw.a = { k.a with taken := none } := by
  unfold Core.withdraw; simp only []; split
  · simp
  · next h => cases ha : k.a; simp_all

/-- With no ldsq and no stsq waiting the queues stay. -/
theorem Core.withdraw_queues (k : Core) (h : k.a.syncEntries = []) (ht : k.a.taken = none) : k.withdraw.queues = k.queues := by
  unfold Core.withdraw; simp [h, ht]

/-! ### A joint instruction that has not begun is issued anew (R49) -/

theorem Core.untake_keeps (k : Core) (op : LongOp) :
    (k.untake op).pid = k.pid ∧ (k.untake op).task = k.task ∧ (k.untake op).sel = k.sel ∧ (k.untake op).a = k.a ∧ (k.untake op).c = k.c
      ∧ (k.untake op).f = k.f ∧ (k.untake op).v = k.v ∧ (k.untake op).tiles = k.tiles ∧ (k.untake op).aot = k.aot
      ∧ (k.untake op).spad = k.spad ∧ (k.untake op).full = k.full ∧ (k.untake op).sys = k.sys ∧ (k.untake op).pending = k.pending := by
  have hp : ∀ (k : Core) (m : MOperand), (k.unpop m).pid = k.pid ∧ (k.unpop m).task = k.task ∧ (k.unpop m).sel = k.sel ∧ (k.unpop m).a = k.a
      ∧ (k.unpop m).c = k.c ∧ (k.unpop m).f = k.f ∧ (k.unpop m).v = k.v ∧ (k.unpop m).tiles = k.tiles ∧ (k.unpop m).aot = k.aot
      ∧ (k.unpop m).spad = k.spad ∧ (k.unpop m).full = k.full ∧ (k.unpop m).sys = k.sys ∧ (k.unpop m).pending = k.pending := by
    intro k m
    unfold Core.unpop
    split <;> simp [Core.setQueue]
  unfold Core.untake
  split <;> simp [hp, Core.dropEntry]

/-- Queues and the C-stream's place are all that it changes. -/
theorem Core.unissue_keeps (k : Core) :
    k.unissue.pid = k.pid ∧ k.unissue.task = k.task ∧ k.unissue.sel = k.sel ∧ k.unissue.a = k.a ∧ k.unissue.c.g = k.c.g
      ∧ k.unissue.f = k.f ∧ k.unissue.v = k.v ∧ k.unissue.tiles = k.tiles ∧ k.unissue.aot = k.aot
      ∧ k.unissue.spad = k.spad ∧ k.unissue.full = k.full ∧ k.unissue.sys = k.sys ∧ k.unissue.pending = k.pending := by
  unfold Core.unissue
  split
  · simp
  · simp [Core.untake_keeps]

@[simp] theorem Core.unissue_pid (k : Core) : k.unissue.pid = k.pid := by simp [Core.unissue_keeps]

@[simp] theorem Core.unissue_task (k : Core) : k.unissue.task = k.task := by simp [Core.unissue_keeps]

@[simp] theorem Core.unissue_sel (k : Core) : k.unissue.sel = k.sel := by simp [Core.unissue_keeps]

@[simp] theorem Core.unissue_a (k : Core) : k.unissue.a = k.a := by simp [Core.unissue_keeps]

@[simp] theorem Core.unissue_f (k : Core) : k.unissue.f = k.f := by simp [Core.unissue_keeps]

@[simp] theorem Core.unissue_v (k : Core) : k.unissue.v = k.v := by simp [Core.unissue_keeps]

@[simp] theorem Core.unissue_tiles (k : Core) : k.unissue.tiles = k.tiles := by simp [Core.unissue_keeps]

@[simp] theorem Core.unissue_aot (k : Core) : k.unissue.aot = k.aot := by simp [Core.unissue_keeps]

@[simp] theorem Core.unissue_spad (k : Core) : k.unissue.spad = k.spad := by simp [Core.unissue_keeps]

@[simp] theorem Core.unissue_full (k : Core) : k.unissue.full = k.full := by simp [Core.unissue_keeps]

@[simp] theorem Core.unissue_sys (k : Core) : k.unissue.sys = k.sys := by simp [Core.unissue_keeps]

@[simp] theorem Core.unissue_pending (k : Core) : k.unissue.pending = k.pending := by simp [Core.unissue_keeps]

@[simp] theorem Core.unissue_c_g (k : Core) : k.unissue.c.g = k.c.g := by simp [Core.unissue_keeps]

theorem Core.unissue_none (k : Core) (h : k.c.atGang = none) : k.unissue = k := by simp [Core.unissue, h]

/-! ### The state past an instruction -/

@[simp] theorem State.advance_cores (s : State) (i : Instr) : (s.advance i).cores = s.cores := by
  unfold State.advance; simp only []; split <;> split <;> simp

@[simp] theorem State.issued_cores (s : State) (i : Instr) : (s.issued i).cores = s.cores := by simp [State.issued]

@[simp] theorem State.advance_clusters (s : State) (i : Instr) : (s.advance i).clusters = s.clusters := by
  unfold State.advance; simp only []; split <;> split <;> simp

@[simp] theorem State.issued_clusters (s : State) (i : Instr) : (s.issued i).clusters = s.clusters := by simp [State.issued]

@[simp] theorem State.advance_contexts (s : State) (i : Instr) : (s.advance i).contexts = s.contexts := by
  unfold State.advance; simp only []; split <;> split <;> simp

@[simp] theorem State.issued_contexts (s : State) (i : Instr) : (s.issued i).contexts = s.contexts := by simp [State.issued]

@[simp] theorem State.advance_pool (s : State) (i : Instr) : (s.advance i).pool = s.pool := by
  unfold State.advance; simp only []; split <;> split <;> simp

@[simp] theorem State.issued_pool (s : State) (i : Instr) : (s.issued i).pool = s.pool := by simp [State.issued]

@[simp] theorem State.advance_host (s : State) (i : Instr) : (s.advance i).host = s.host := by
  unfold State.advance; simp only []; split <;> split <;> simp

@[simp] theorem State.issued_host (s : State) (i : Instr) : (s.issued i).host = s.host := by simp [State.issued]

@[simp] theorem State.advance_dev (s : State) (i : Instr) : (s.advance i).dev = s.dev := by
  unfold State.advance; simp only []; split <;> split <;> simp

@[simp] theorem State.issued_dev (s : State) (i : Instr) : (s.issued i).dev = s.dev := by simp [State.issued]

@[simp] theorem State.advance_agenda (s : State) (i : Instr) : (s.advance i).agenda = s.agenda := by
  unfold State.advance; simp only []; split <;> split <;> simp

@[simp] theorem State.issued_agenda (s : State) (i : Instr) : (s.issued i).agenda = s.agenda := by simp [State.issued]

@[simp] theorem State.advance_free (s : State) (i : Instr) : (s.advance i).free = s.free := by
  unfold State.advance; simp only []; split <;> split <;> simp

@[simp] theorem State.issued_free (s : State) (i : Instr) : (s.issued i).free = s.free := by simp [State.issued]

@[simp] theorem State.advance_core_pid (s : State) (i : Instr) : (s.advance i).core.pid = s.core.pid := by
  unfold State.advance; simp only []; split <;> split <;> simp

@[simp] theorem State.issued_core_pid (s : State) (i : Instr) : (s.issued i).core.pid = s.core.pid := by simp [State.issued]

@[simp] theorem State.advance_core_task (s : State) (i : Instr) : (s.advance i).core.task = s.core.task := by
  unfold State.advance; simp only []; split <;> split <;> simp

@[simp] theorem State.issued_core_task (s : State) (i : Instr) : (s.issued i).core.task = s.core.task := by simp [State.issued]

@[simp] theorem State.advance_core_sel (s : State) (i : Instr) : (s.advance i).core.sel = s.core.sel := by
  unfold State.advance; simp only []; split <;> split <;> simp

@[simp] theorem State.issued_core_sel (s : State) (i : Instr) : (s.issued i).core.sel = s.core.sel := by simp [State.issued]

@[simp] theorem State.advance_core_f (s : State) (i : Instr) : (s.advance i).core.f = s.core.f := by
  unfold State.advance; simp only []; split <;> split <;> simp

@[simp] theorem State.issued_core_f (s : State) (i : Instr) : (s.issued i).core.f = s.core.f := by simp [State.issued]

@[simp] theorem State.advance_core_v (s : State) (i : Instr) : (s.advance i).core.v = s.core.v := by
  unfold State.advance; simp only []; split <;> split <;> simp

@[simp] theorem State.issued_core_v (s : State) (i : Instr) : (s.issued i).core.v = s.core.v := by simp [State.issued]

@[simp] theorem State.advance_core_tiles (s : State) (i : Instr) : (s.advance i).core.tiles = s.core.tiles := by
  unfold State.advance; simp only []; split <;> split <;> simp

@[simp] theorem State.issued_core_tiles (s : State) (i : Instr) : (s.issued i).core.tiles = s.core.tiles := by simp [State.issued]

@[simp] theorem State.advance_core_aot (s : State) (i : Instr) : (s.advance i).core.aot = s.core.aot := by
  unfold State.advance; simp only []; split <;> split <;> simp

@[simp] theorem State.issued_core_aot (s : State) (i : Instr) : (s.issued i).core.aot = s.core.aot := by simp [State.issued]

@[simp] theorem State.advance_core_queues (s : State) (i : Instr) : (s.advance i).core.queues = s.core.queues := by
  unfold State.advance; simp only []; split <;> split <;> simp

@[simp] theorem State.issued_core_queues (s : State) (i : Instr) : (s.issued i).core.queues = s.core.queues := by simp [State.issued]

@[simp] theorem State.advance_core_spad (s : State) (i : Instr) : (s.advance i).core.spad = s.core.spad := by
  unfold State.advance; simp only []; split <;> split <;> simp

@[simp] theorem State.issued_core_spad (s : State) (i : Instr) : (s.issued i).core.spad = s.core.spad := by simp [State.issued]

@[simp] theorem State.advance_core_full (s : State) (i : Instr) : (s.advance i).core.full = s.core.full := by
  unfold State.advance; simp only []; split <;> split <;> simp

@[simp] theorem State.issued_core_full (s : State) (i : Instr) : (s.issued i).core.full = s.core.full := by simp [State.issued]

@[simp] theorem State.advance_core_tileTab (s : State) (i : Instr) : (s.advance i).core.tileTab = s.core.tileTab := by
  unfold State.advance; simp only []; split <;> split <;> simp

@[simp] theorem State.issued_core_tileTab (s : State) (i : Instr) : (s.issued i).core.tileTab = s.core.tileTab := by simp [State.issued]

@[simp] theorem State.advance_core_shadows (s : State) (i : Instr) : (s.advance i).core.shadows = s.core.shadows := by
  unfold State.advance; simp only []; split <;> split <;> simp

@[simp] theorem State.issued_core_shadows (s : State) (i : Instr) : (s.issued i).core.shadows = s.core.shadows := by simp [State.issued]

@[simp] theorem State.advance_core_handler (s : State) (i : Instr) : (s.advance i).core.handler = s.core.handler := by
  unfold State.advance; simp only []; split <;> split <;> simp

@[simp] theorem State.issued_core_handler (s : State) (i : Instr) : (s.issued i).core.handler = s.core.handler := by simp [State.issued]

@[simp] theorem State.advance_core_pending (s : State) (i : Instr) : (s.advance i).core.pending = s.core.pending := by
  unfold State.advance; simp only []; split <;> split <;> simp

@[simp] theorem State.issued_core_pending (s : State) (i : Instr) : (s.issued i).core.pending = s.core.pending := by simp [State.issued]

@[simp] theorem State.advance_core_deferred (s : State) (i : Instr) : (s.advance i).core.deferred = s.core.deferred := by
  unfold State.advance; simp only []; split <;> split <;> simp

@[simp] theorem State.issued_core_deferred (s : State) (i : Instr) : (s.issued i).core.deferred = s.core.deferred := by simp [State.issued]

@[simp] theorem State.advance_core_stats (s : State) (i : Instr) : (s.advance i).core.stats = s.core.stats := by
  unfold State.advance; simp only []; split <;> split <;> simp

@[simp] theorem State.issued_core_stats (s : State) (i : Instr) : (s.issued i).core.stats = s.core.stats := by simp [State.issued]

@[simp] theorem State.advance_core_tlb (s : State) (i : Instr) : (s.advance i).core.tlb = s.core.tlb := by
  unfold State.advance; simp only []; split <;> split <;> simp

@[simp] theorem State.issued_core_tlb (s : State) (i : Instr) : (s.issued i).core.tlb = s.core.tlb := by simp [State.issued]

@[simp] theorem State.advance_core_nextId (s : State) (i : Instr) : (s.advance i).core.nextId = s.core.nextId := by
  unfold State.advance; simp only []; split <;> split <;> simp

@[simp] theorem State.issued_core_nextId (s : State) (i : Instr) : (s.issued i).core.nextId = s.core.nextId := by simp [State.issued]

@[simp] theorem State.advance_core_lastCtx (s : State) (i : Instr) : (s.advance i).core.lastCtx = s.core.lastCtx := by
  unfold State.advance; simp only []; split <;> split <;> simp

@[simp] theorem State.issued_core_lastCtx (s : State) (i : Instr) : (s.issued i).core.lastCtx = s.core.lastCtx := by simp [State.issued]

/-- The issuing stream past the instruction. -/
@[simp] theorem State.advance_cur (s : State) (i : Instr) : (s.advance i).cur = s.cur.advance i := by
  unfold State.advance
  cases hx : s.core.sel <;> cases hm : s.cur.mode <;> cases ho : s.core.handlerOn <;>
    simp [State.updCur, State.updSys, State.cur, Core.updStr, Core.setStr, Core.str, hx, State.beginHandler, StreamId.other, ho]

@[simp] theorem State.issued_cur (s : State) (i : Instr) :
    (s.issued i).cur = { s.cur with fence := s.cur.fence.filter (fun f => !s.fenceOpen .user f) }.advance i := by
  simp [State.issued]

/-- The registers that an instruction reads are those of the state before it. -/
@[simp] theorem State.issued_g (s : State) (i : Instr) (n : BitVec 5) : (s.issued i).g n = s.g n := by
  simp [State.g, Stream.advance, Stream.getG]

/-- The other stream of the core is as it was, past an instruction of user mode. -/
theorem State.advance_str_other (s : State) (i : Instr) (h : s.cur.mode = .user) :
    (s.advance i).core.str s.core.sel.other = s.core.str s.core.sel.other := by
  unfold State.advance
  cases hx : s.core.sel <;> simp [h, State.updCur, State.updSys, Core.updStr, Core.setStr, Core.str, StreamId.other, hx]

theorem State.issued_str_other (s : State) (i : Instr) (h : s.cur.mode = .user) :
    (s.issued i).core.str s.core.sel.other = s.core.str s.core.sel.other := by
  have hm : (s.updCur (fun st => { st with fence := st.fence.filter (fun f => !s.fenceOpen .user f) })).cur.mode = .user := by simpa using h
  have h1 := State.advance_str_other _ i hm
  simpa [State.issued] using h1

/-- TRAP.SAVE past an instruction: the first of a handler finds the other stream stopped where it now stands (R89, R310). -/
def saveAt (s : State) (i : Instr) : SysRegs :=
  let t := s.updCur (fun st => st.advance i)
  if s.cur.mode = .sup ∧ s.core.handlerOn = false then { s.core.sys with trapSave := (t.standAt t.core s.core.sel.other).1 } else s.core.sys

/-- The system registers but for the count of the issuing stream (R326) and, at a handler's first instruction, TRAP.SAVE. -/
theorem State.advance_core_sys (s : State) (i : Instr) :
    (s.advance i).core.sys = match s.core.sel with
      | .a => { saveAt s i with cntIssA := s.core.sys.cntIssA + 1 }
      | .c => { saveAt s i with cntIssC := s.core.sys.cntIssC + 1 } := by
  unfold State.advance saveAt
  cases hx : s.core.sel <;> cases hm : s.cur.mode <;> cases ho : s.core.handlerOn <;> simp [State.updSys, hx, ho]

/-- In user mode no register but the count changes. -/
theorem saveAt_user (s : State) (i : Instr) (h : s.cur.mode = .user) : saveAt s i = s.core.sys := by simp [saveAt, h]

theorem State.issued_core_sys (s : State) (i : Instr) :
    (s.issued i).core.sys = match s.core.sel with
      | .a => { saveAt (s.updCur (fun st => { st with fence := st.fence.filter (fun f => !s.fenceOpen .user f) })) i with
          cntIssA := s.core.sys.cntIssA + 1 }
      | .c => { saveAt (s.updCur (fun st => { st with fence := st.fence.filter (fun f => !s.fenceOpen .user f) })) i with
          cntIssC := s.core.sys.cntIssC + 1 } := by
  rw [State.issued, State.advance_core_sys]
  cases hx : s.core.sel <;> simp [hx]

/-! ### What issue answers -/

/-- An instruction that nothing holds back does what its meaning says of the state past it (R123). -/
theorem issue_ready (fm : Form) (s : State) (k : State → Res) (h : Ready s) (hw : fm.instr.wellFormed = true)
    (hs : fm.streams.admits s.core.sel = true) (hi : fm.illegal = false) (hp : fm.priv = true → s.cur.mode = .sup) :
    issue fm s k =
      match k (s.issued fm.instr) with
      | .done t => .next t
      | .trap c v => .next (s.trapAt c v)
      | .after t c v => .next (t.takeTrap c v t.cur.pc t.cur.pc)
      | .wait w => .next (s.waitAt w)
      | .hold t w => .next (t.waitAt w)
      | .park kind level base va => .next (s.parkAt kind level base va) := by
  obtain ⟨h1, h2, h3, h4, h5, h6⟩ := h
  have h0 : s.canAct = true := by
    unfold State.canIssue at h1
    simpa using And.left (by simpa using h1)
  have hd : s.dueTrap = none := by simpa using h2
  have hpr : (fm.priv && s.cur.mode == Mode.user) = false := by
    cases hq : fm.priv
    · rfl
    · simp [hp hq]
  have hb : s.cur.broken fm = none := by simp [Stream.broken, h3]
  have ha : s.cur.awaits fm = false := by simp [Stream.awaits, h4]
  have hf : s.fencesLet fm.mem = true := by simp [State.fencesLet, h4, h5]
  have hx : s.poisonedUse fm = none := by simp [State.poisonedUse, h6]
  simp only [issue, h0, h1, hd, hw, hs, hi, hpr, hb, ha, hf, hx, h6]
  cases k (s.issued fm.instr) <;> simp

/-- An instruction that nothing holds back and whose meaning completes it. -/
theorem issue_done (fm : Form) (s t : State) (k : State → Res) (h : Ready s) (hw : fm.instr.wellFormed = true)
    (hs : fm.streams.admits s.core.sel = true) (hi : fm.illegal = false) (hp : fm.priv = true → s.cur.mode = .sup)
    (hk : k (s.issued fm.instr) = .done t) : issue fm s k = .next t := by
  rw [issue_ready fm s k h hw hs hi hp, hk]

/-- Whatever an instruction does, its issue answers a next state. -/
theorem issue_next (fm : Form) (s : State) (k : State → Res) : ∃ t, issue fm s k = .next t := by
  unfold issue
  repeat' first
    | exact ⟨_, rfl⟩
    | split

/-! ### Part-way instructions and lists -/

/-- With nothing of the stream incomplete a part-way instruction has room (R314). -/
theorem State.partRoom_empty (s : State) (was : Option Wait) (k : Res) (h : s.cur.flight = []) : s.partRoom was k = k := by
  have hb : s.cur.partBlock was = none := by
    unfold Stream.partBlock
    rw [h]
    rcases was with _ | w
    · simp [Config.partWayMax]
    · cases w <;> simp [Config.partWayMax]
  simp [State.partRoom, hb]

/-- An instruction that takes no addresses from a list reads none ahead (R192). -/
theorem State.takeList_plain (s : State) (x : StreamId) (op : LongOp)
    (hl : ∀ e b l n a, op.work ≠ .ldElems e (.indexed b l) n a) (hs : ∀ e b l n, op.work ≠ .stElems e (.indexed b l) n) :
    s.takeList x op = (s, op) := by
  unfold State.takeList
  cases hw : op.work
  case ldElems e p n a => cases p <;> first | rfl | exact absurd hw (hl _ _ _ _ _)
  case stElems e p n => cases p <;> first | rfl | exact absurd hw (hs _ _ _ _)
  all_goals rfl

/-! ### Taking a trap -/

/-- Where a trap finds the two streams (R309, R310). -/
def trapPoint (s : State) (pc ip : Word) (named : Option Nat) (waits : Bool) : TrapAt :=
  ⟨pc, ip, named, waits && s.waitsWhole s.core s.core.sel, (s.standAt s.core s.core.sel.other).1, (s.standAt s.core s.core.sel.other).2,
    s.waitsWhole s.core s.core.sel.other⟩

/-- A user-mode trap of any cause but 0x12 enters the handler, freezes the front of an update task (R78, R309) and is noted with its task (R31). -/
theorem State.takeTrap_user (s : State) (cause : Nat) (val pc ip : Word) (named : Option Nat) (waits : Bool) (hm : s.cur.mode = .user)
    (hc : cause ≠ 0x12) :
    s.takeTrap cause val pc ip named waits
      = ({ s with core := s.core.enterHandler cause val (trapPoint s pc ip named waits) }.freeze cause).stampTrap := by
  simp [State.takeTrap, trapPoint, hm, hc]

theorem State.updCtx_keeps (s : State) (n : Nat) (f : Context → Context) :
    (s.updCtx n f).core = s.core ∧ (s.updCtx n f).cores = s.cores ∧ (s.updCtx n f).clusters = s.clusters
      ∧ (s.updCtx n f).pool = s.pool ∧ (s.updCtx n f).host = s.host ∧ (s.updCtx n f).dev = s.dev := ⟨rfl, rfl, rfl, rfl, rfl, rfl⟩

/-- Freezing a front changes contexts alone. -/
theorem State.freeze_keeps (s : State) (cause : Nat) :
    (s.freeze cause).core = s.core ∧ (s.freeze cause).cores = s.cores ∧ (s.freeze cause).clusters = s.clusters
      ∧ (s.freeze cause).pool = s.pool ∧ (s.freeze cause).host = s.host ∧ (s.freeze cause).dev = s.dev := by
  unfold State.freeze
  repeat' split
  all_goals first
    | exact ⟨rfl, rfl, rfl, rfl, rfl, rfl⟩
    | (unfold State.updTaskFront; split <;> exact ⟨rfl, rfl, rfl, rfl, rfl, rfl⟩)

/-- What entering a handler leaves in the core (R309, R310). -/
theorem Core.enterHandler_keeps (k : Core) (cause : Nat) (val : Word) (p : TrapAt) :
    (k.enterHandler cause val p).f = k.f ∧ (k.enterHandler cause val p).v = k.v ∧ (k.enterHandler cause val p).tiles = k.tiles
      ∧ (k.enterHandler cause val p).aot = k.aot ∧ (k.enterHandler cause val p).spad = k.spad
      ∧ (k.enterHandler cause val p).full = k.full ∧ (k.enterHandler cause val p).task = k.task
      ∧ (k.enterHandler cause val p).sel = k.sel ∧ (k.enterHandler cause val p).pid = k.pid
      ∧ (k.enterHandler cause val p).pending = k.pending := by
  simp [Core.enterHandler]

/-- With no ldsq and no stsq waiting and no joint instruction at its gang the queues stay (R49, R195). -/
theorem Core.enterHandler_queues (k : Core) (cause : Nat) (val : Word) (p : TrapAt) (h : k.a.syncEntries = []) (ht : k.a.taken = none)
    (hg : k.c.atGang = none) :
    (k.enterHandler cause val p).queues = k.queues := by
  have e : ∀ (k1 : Core), k1.a.flight = k.a.flight → k1.a.taken = none → k1.queues = k.queues → k1.withdraw.queues = k.queues := by
    intro k1 h1 h2 h3
    rw [Core.withdraw_queues k1 (by simpa [Stream.syncEntries, h1] using h) h2, h3]
  unfold Core.enterHandler
  rw [Core.unissue_none k hg]
  cases hs : k.sel <;> exact e _ (by simp [Core.updStr, Core.setStr, StreamId.other, Core.str, Stream.heldArrival])
    (by simp [Core.updStr, Core.setStr, StreamId.other, Core.str, Stream.heldArrival, ht]) (by simp)

/-- g registers of both streams stay; the trapping one is in supervisor mode at TRAP.VEC. -/
theorem Core.enterHandler_streams (k : Core) (cause : Nat) (val : Word) (p : TrapAt) :
    let t := k.enterHandler cause val p
    (t.str k.sel).g = (k.str k.sel).g ∧ (t.str k.sel.other).g = (k.str k.sel.other).g ∧ (t.str k.sel).mode = .sup
      ∧ (t.str k.sel).pc = k.sys.trapVec ∧ t.sys.trapCause = .ofNat 8 cause ∧ t.sys.trapVal = val ∧ t.sys.trapPc = p.pc := by
  cases hs : k.sel <;>
    simp [Core.enterHandler, Core.trapRegs, Core.updStr, Core.setStr, StreamId.other, Core.str, Stream.heldArrival, hs]

/-- A trap that an instruction meets at its issue, with nothing held back (R309). -/
theorem issue_trap (fm : Form) (s : State) (k : State → Res) (c : Nat) (v : Word) (h : Ready s) (hw : fm.instr.wellFormed = true)
    (hs : fm.streams.admits s.core.sel = true) (hi : fm.illegal = false) (hp : fm.priv = true → s.cur.mode = .sup)
    (hm : s.cur.mode = .user) (hc : c ≠ 0x12) (hk : k (s.issued fm.instr) = .trap c v) :
    issue fm s k = .next (({ s with core := s.core.enterHandler c v (trapPoint s s.cur.pc s.cur.pc none false) }.freeze c).stampTrap) := by
  have hq : s.quiet = true := by
    have h4 : s.cur.flight = [] := h.2.2.2.1
    simp [State.quiet, State.quietOn, State.cur] at h4 ⊢
    simp [h4]
  rw [issue_ready fm s k h hw hs hi hp, hk]
  simp [State.trapAt, hq, State.takeTrap_user s c v _ _ _ _ hm hc]

end Sys2Proof.Machine
end

