-- ==== Sys2Proof/Laws/Memory.lean ====
section
/-! SUPPORT. Memory: a read after a write, what a write leaves alone, and the canonical form that every operation keeps. -/

namespace Sys2Proof.Machine

/-! ### Reading after writing -/

theorem Memory.get_insert (m : Memory) (a x : Nat) (b : Byte) :
    Memory.get (Memory.insert m a b) x = if x = a then b else Memory.get m x := by
  induction m with
  | nil => simp only [Memory.insert, Memory.get]
  | cons c rest ih =>
    obtain ⟨k, v⟩ := c
    simp only [Memory.insert]
    split
    · simp only [Memory.get]
    · split
      · rename_i h1
        subst h1
        simp only [Memory.get]
        split <;> rfl
      · simp only [Memory.get, ih]
        split <;> split <;> simp_all

theorem Memory.get_erase (m : Memory) (a x : Nat) :
    Memory.get (Memory.erase m a) x = if x = a then unlistedByte else Memory.get m x := by
  induction m with
  | nil => simp [Memory.erase, Memory.get]
  | cons c rest ih =>
    obtain ⟨k, v⟩ := c
    simp only [Memory.erase]
    split
    · rename_i h1
      subst h1
      simp only [ih, Memory.get]
      split <;> simp_all
    · simp only [Memory.get, ih]
      split <;> split <;> simp_all

/-- A byte reads what was last written to it, and a write leaves every other byte alone. -/
theorem Memory.get_set (m : Memory) (a x : Nat) (b : Byte) :
    Memory.get (Memory.set m a b) x = if x = a then b else Memory.get m x := by
  unfold Memory.set
  split
  · rename_i hb; rw [Memory.get_erase m a x, hb]
  · exact Memory.get_insert m a x b

/-! ### The canonical form -/

theorem Memory.sortedFrom_mono (m : Memory) (lo lo' : Nat) (h : Memory.sortedFrom lo m = true) (hl : lo' ≤ lo) :
    Memory.sortedFrom lo' m = true := by
  cases m with
  | nil => rfl
  | cons c rest =>
    obtain ⟨k, v⟩ := c
    simp only [Memory.sortedFrom, Bool.and_eq_true, decide_eq_true_eq] at h ⊢
    exact ⟨⟨by omega, h.1.2⟩, h.2⟩

theorem Memory.sortedFrom_erase (m : Memory) (a lo : Nat) (h : Memory.sortedFrom lo m = true) :
    Memory.sortedFrom lo (Memory.erase m a) = true := by
  induction m generalizing lo with
  | nil => rfl
  | cons c rest ih =>
    obtain ⟨k, v⟩ := c
    simp only [Memory.sortedFrom, Bool.and_eq_true, decide_eq_true_eq] at h
    simp only [Memory.erase]
    split
    · exact ih lo (Memory.sortedFrom_mono rest (k + 1) lo h.2 (by omega))
    · simp only [Memory.sortedFrom, Bool.and_eq_true, decide_eq_true_eq]
      exact ⟨h.1, ih (k + 1) h.2⟩

theorem Memory.sortedFrom_insert (m : Memory) (a lo : Nat) (b : Byte) (h : Memory.sortedFrom lo m = true) (hb : b ≠ unlistedByte)
    (ha : lo ≤ a) : Memory.sortedFrom lo (Memory.insert m a b) = true := by
  induction m generalizing lo with
  | nil => simp [Memory.insert, Memory.sortedFrom, hb, ha]
  | cons c rest ih =>
    obtain ⟨k, v⟩ := c
    simp only [Memory.sortedFrom, Bool.and_eq_true, decide_eq_true_eq] at h
    simp only [Memory.insert]
    split
    · simp only [Memory.sortedFrom, Bool.and_eq_true, decide_eq_true_eq, bne_iff_ne, ne_eq]
      exact ⟨⟨ha, hb⟩, ⟨⟨by omega, by simpa using h.1.2⟩, h.2⟩⟩
    · split
      · rename_i h1
        subst h1
        simp only [Memory.sortedFrom, Bool.and_eq_true, decide_eq_true_eq, bne_iff_ne, ne_eq]
        exact ⟨⟨ha, hb⟩, h.2⟩
      · simp only [Memory.sortedFrom, Bool.and_eq_true, decide_eq_true_eq]
        exact ⟨h.1, ih (k + 1) h.2 (by omega)⟩

/-- A written byte keeps the canonical form. -/
theorem Memory.wf_set (m : Memory) (a : Nat) (b : Byte) (h : Memory.wf m = true) : Memory.wf (Memory.set m a b) = true := by
  unfold Memory.set
  split
  · exact Memory.sortedFrom_erase m a 0 h
  · rename_i hb; exact Memory.sortedFrom_insert m a 0 b h hb (by omega)

/-- A byte made to read as unwritten keeps the canonical form. -/
theorem Memory.wf_erase (m : Memory) (a : Nat) (h : Memory.wf m = true) : Memory.wf (Memory.erase m a) = true :=
  Memory.sortedFrom_erase m a 0 h

/-- Written bytes keep the canonical form. -/
theorem Memory.wf_write (m : Memory) (a : Nat) (bs : List Byte) (h : Memory.wf m = true) : Memory.wf (Memory.write m a bs) = true := by
  induction bs generalizing m a with
  | nil => exact h
  | cons b bs ih => exact ih _ _ (Memory.wf_set m a b h)

/-- Cleared bytes keep the canonical form. -/
theorem Memory.wf_clear (m : Memory) (a n : Nat) (h : Memory.wf m = true) : Memory.wf (Memory.clear m a n) = true := by
  induction n generalizing m a with
  | zero => exact h
  | succ n ih => exact ih _ _ (Memory.wf_erase m a h)

/-- A selection of the cells keeps the canonical form. -/
theorem Memory.wf_filter (m : Memory) (p : Host.Cell → Bool) (h : Memory.wf m = true) : Memory.wf (m.filter p) = true := by
  suffices H : ∀ lo, Memory.sortedFrom lo m = true → Memory.sortedFrom lo (m.filter p) = true from H 0 h
  clear h
  induction m with
  | nil => intro _ h; exact h
  | cons c rest ih =>
    obtain ⟨k, v⟩ := c
    intro lo h
    simp only [Memory.sortedFrom, Bool.and_eq_true, decide_eq_true_eq] at h
    rw [List.filter_cons]
    split
    · simp only [Memory.sortedFrom, Bool.and_eq_true, decide_eq_true_eq]
      exact ⟨h.1, ih _ h.2⟩
    · exact Memory.sortedFrom_mono _ (k + 1) lo (ih _ h.2) (by omega)

/-- A written byte reads back; bytes outside the written ones keep what they read. -/
theorem Memory.get_write_of_not_mem (m : Memory) (a x : Nat) (bs : List Byte)
    (hx : x < a ∨ a + bs.length ≤ x) : Memory.get (Memory.write m a bs) x = Memory.get m x := by
  induction bs generalizing m a with
  | nil => rfl
  | cons b bs ih =>
    simp only [List.length_cons] at hx
    rw [Memory.write, ih _ _ (by omega), Memory.get_set m a x b]
    have : ¬ x = a := by omega
    simp [this]

/-- The bytes that were written are read back. -/
theorem Memory.read_write (m : Memory) (a : Nat) (bs : List Byte) :
    Memory.read (Memory.write m a bs) a bs.length = bs := by
  induction bs generalizing m a with
  | nil => rfl
  | cons b bs ih =>
    simp only [Memory.write, List.length_cons, Memory.read]
    rw [ih, Memory.get_write_of_not_mem _ _ _ _ (by omega), Memory.get_set m a a b]
    simp

/-- The machine after reset has canonical memories. -/
theorem State.reset_pool_wf : Memory.wf State.reset.pool = true := rfl

theorem State.reset_host_wf : Memory.wf State.reset.host = true := rfl

/-! ### Bytes of a number -/

@[simp] theorem natBytes_length (v n : Nat) : (natBytes v n).length = n := by
  induction n generalizing v with
  | zero => rfl
  | succ n ih => simp [natBytes, ih]

/-- The bytes of a number hold it, modulo what they can hold (R4). -/
theorem bytesNat_natBytes (v n : Nat) : bytesNat (natBytes v n) = v % 256 ^ n := by
  induction n generalizing v with
  | zero => simp [natBytes, bytesNat, Nat.mod_one]
  | succ n ih =>
    simp only [natBytes, bytesNat, ih, BitVec.toNat_ofNat]
    have h : v % 256 ^ (n + 1) = v % 256 + 256 * (v / 256 % 256 ^ n) := by rw [Nat.pow_succ', Nat.mod_mul]
    rw [h]

/-! ### Physical memory (R153) -/

/-- Pooled and host memory are in canonical form. -/
def State.PhysOk (s : State) : Prop := Memory.wf s.pool = true ∧ Memory.wf s.host = true

/-- Bytes put in a chunk keep both memories canonical. -/
theorem State.poke_physOk (s : State) (c : Chunk) (bs : List Byte) (h : s.PhysOk) : (s.poke c bs).PhysOk := by
  have h1 := Memory.wf_write s.host
  have h2 := Memory.wf_write s.pool
  obtain ⟨hp, hh⟩ := h
  cases c with
  | phys hm pa len x1 x2 x3 x4 =>
    cases hm <;> unfold State.poke <;> simp only [Bool.false_eq_true, if_false, if_true] <;> split <;>
      exact ⟨by first | exact hp | exact h2 _ _ hp, by first | exact hh | exact h1 _ _ hh⟩
  | spad pid off len => unfold State.poke; simp only []; split <;> exact ⟨by simpa using hp, by simpa using hh⟩
  | win pid off len => unfold State.poke; simp only []; split <;> exact ⟨by simpa using hp, by simpa using hh⟩
  | peer x1 x2 len => unfold State.poke; simp only []; split <;> exact ⟨hp, hh⟩

/-- Bytes put in the chunks of an access keep both memories canonical. -/
theorem State.pokeAll_physOk (s : State) (cs : List Chunk) (bs : List Byte) (h : s.PhysOk) : (s.pokeAll cs bs).PhysOk := by
  induction cs generalizing s bs with
  | nil => exact h
  | cons c cs ih => exact ih _ _ (s.poke_physOk c _ h)

end Sys2Proof.Machine
end

