-- ==== Sys2Proof/Laws/PerInstr.lean ====
section
/-! SUPPORT. What holds of the encoding of every instruction, one lemma per constructor (spec/06_encoding.md R102, R103). -/

namespace Sys2Proof.Laws.Encoding

/-- R102, R103: a 32-bit encoding has bit 0 set and fits its word, a 16-bit one has it clear and fits its halfword, and an event has none. -/
def Statement (i : Instr) : Prop :=
  (i.bits = 32 ∧ i.encNat % 2 = 1 ∧ i.encNat < 2 ^ 32) ∨ (i.bits = 16 ∧ i.encNat % 2 = 0 ∧ i.encNat < 2 ^ 16) ∨ (i.bits = 0 ∧ i.encNat = 0)

theorem add : ∀ x0 x1 x2, Statement (Instr.add x0 x1 x2) :=
  fun x0 x1 x2 => .inl ⟨rfl, by show (1 + x0.toNat * 128 + x1.toNat * 4096 + x2.toNat * 131072) % 2 = 1; omega, by show 1 + x0.toNat * 128 + x1.toNat * 4096 + x2.toNat * 131072 < 4294967296; omega⟩
theorem sub : ∀ x0 x1 x2, Statement (Instr.sub x0 x1 x2) :=
  fun x0 x1 x2 => .inl ⟨rfl, by show (67108865 + x0.toNat * 128 + x1.toNat * 4096 + x2.toNat * 131072) % 2 = 1; omega, by show 67108865 + x0.toNat * 128 + x1.toNat * 4096 + x2.toNat * 131072 < 4294967296; omega⟩
theorem mul : ∀ x0 x1 x2 x3, Statement (Instr.mul x0 x1 x2 x3) :=
  fun x0 x1 x2 x3 => .inl ⟨rfl, by show (134217729 + x0.toNat * 128 + x1.toNat * 4096 + x2.toNat * 131072 + x3.toNat * 4194304) % 2 = 1; omega, by show 134217729 + x0.toNat * 128 + x1.toNat * 4096 + x2.toNat * 131072 + x3.toNat * 4194304 < 4294967296; omega⟩
theorem mulh : ∀ x0 x1 x2 x3, Statement (Instr.mulh x0 x1 x2 x3) :=
  fun x0 x1 x2 x3 => .inl ⟨rfl, by show (201326593 + x0.toNat * 128 + x1.toNat * 4096 + x2.toNat * 131072 + x3.toNat * 4194304) % 2 = 1; omega, by show 201326593 + x0.toNat * 128 + x1.toNat * 4096 + x2.toNat * 131072 + x3.toNat * 4194304 < 4294967296; omega⟩
theorem div : ∀ x0 x1 x2 x3, Statement (Instr.div x0 x1 x2 x3) :=
  fun x0 x1 x2 x3 => .inl ⟨rfl, by show (268435457 + x0.toNat * 128 + x1.toNat * 4096 + x2.toNat * 131072 + x3.toNat * 4194304) % 2 = 1; omega, by show 268435457 + x0.toNat * 128 + x1.toNat * 4096 + x2.toNat * 131072 + x3.toNat * 4194304 < 4294967296; omega⟩
theorem divu : ∀ x0 x1 x2 x3, Statement (Instr.divu x0 x1 x2 x3) :=
  fun x0 x1 x2 x3 => .inl ⟨rfl, by show (335544321 + x0.toNat * 128 + x1.toNat * 4096 + x2.toNat * 131072 + x3.toNat * 4194304) % 2 = 1; omega, by show 335544321 + x0.toNat * 128 + x1.toNat * 4096 + x2.toNat * 131072 + x3.toNat * 4194304 < 4294967296; omega⟩
theorem rem : ∀ x0 x1 x2 x3, Statement (Instr.rem x0 x1 x2 x3) :=
  fun x0 x1 x2 x3 => .inl ⟨rfl, by show (402653185 + x0.toNat * 128 + x1.toNat * 4096 + x2.toNat * 131072 + x3.toNat * 4194304) % 2 = 1; omega, by show 402653185 + x0.toNat * 128 + x1.toNat * 4096 + x2.toNat * 131072 + x3.toNat * 4194304 < 4294967296; omega⟩
theorem remu : ∀ x0 x1 x2 x3, Statement (Instr.remu x0 x1 x2 x3) :=
  fun x0 x1 x2 x3 => .inl ⟨rfl, by show (469762049 + x0.toNat * 128 + x1.toNat * 4096 + x2.toNat * 131072 + x3.toNat * 4194304) % 2 = 1; omega, by show 469762049 + x0.toNat * 128 + x1.toNat * 4096 + x2.toNat * 131072 + x3.toNat * 4194304 < 4294967296; omega⟩
theorem and : ∀ x0 x1 x2, Statement (Instr.and x0 x1 x2) :=
  fun x0 x1 x2 => .inl ⟨rfl, by show (536870913 + x0.toNat * 128 + x1.toNat * 4096 + x2.toNat * 131072) % 2 = 1; omega, by show 536870913 + x0.toNat * 128 + x1.toNat * 4096 + x2.toNat * 131072 < 4294967296; omega⟩
theorem or : ∀ x0 x1 x2, Statement (Instr.or x0 x1 x2) :=
  fun x0 x1 x2 => .inl ⟨rfl, by show (603979777 + x0.toNat * 128 + x1.toNat * 4096 + x2.toNat * 131072) % 2 = 1; omega, by show 603979777 + x0.toNat * 128 + x1.toNat * 4096 + x2.toNat * 131072 < 4294967296; omega⟩
theorem xor : ∀ x0 x1 x2, Statement (Instr.xor x0 x1 x2) :=
  fun x0 x1 x2 => .inl ⟨rfl, by show (671088641 + x0.toNat * 128 + x1.toNat * 4096 + x2.toNat * 131072) % 2 = 1; omega, by show 671088641 + x0.toNat * 128 + x1.toNat * 4096 + x2.toNat * 131072 < 4294967296; omega⟩
theorem shl : ∀ x0 x1 x2, Statement (Instr.shl x0 x1 x2) :=
  fun x0 x1 x2 => .inl ⟨rfl, by show (738197505 + x0.toNat * 128 + x1.toNat * 4096 + x2.toNat * 131072) % 2 = 1; omega, by show 738197505 + x0.toNat * 128 + x1.toNat * 4096 + x2.toNat * 131072 < 4294967296; omega⟩
theorem shr : ∀ x0 x1 x2, Statement (Instr.shr x0 x1 x2) :=
  fun x0 x1 x2 => .inl ⟨rfl, by show (805306369 + x0.toNat * 128 + x1.toNat * 4096 + x2.toNat * 131072) % 2 = 1; omega, by show 805306369 + x0.toNat * 128 + x1.toNat * 4096 + x2.toNat * 131072 < 4294967296; omega⟩
theorem sar : ∀ x0 x1 x2, Statement (Instr.sar x0 x1 x2) :=
  fun x0 x1 x2 => .inl ⟨rfl, by show (872415233 + x0.toNat * 128 + x1.toNat * 4096 + x2.toNat * 131072) % 2 = 1; omega, by show 872415233 + x0.toNat * 128 + x1.toNat * 4096 + x2.toNat * 131072 < 4294967296; omega⟩
theorem slt : ∀ x0 x1 x2, Statement (Instr.slt x0 x1 x2) :=
  fun x0 x1 x2 => .inl ⟨rfl, by show (939524097 + x0.toNat * 128 + x1.toNat * 4096 + x2.toNat * 131072) % 2 = 1; omega, by show 939524097 + x0.toNat * 128 + x1.toNat * 4096 + x2.toNat * 131072 < 4294967296; omega⟩
theorem sltu : ∀ x0 x1 x2, Statement (Instr.sltu x0 x1 x2) :=
  fun x0 x1 x2 => .inl ⟨rfl, by show (1006632961 + x0.toNat * 128 + x1.toNat * 4096 + x2.toNat * 131072) % 2 = 1; omega, by show 1006632961 + x0.toNat * 128 + x1.toNat * 4096 + x2.toNat * 131072 < 4294967296; omega⟩
theorem min : ∀ x0 x1 x2, Statement (Instr.min x0 x1 x2) :=
  fun x0 x1 x2 => .inl ⟨rfl, by show (1073741825 + x0.toNat * 128 + x1.toNat * 4096 + x2.toNat * 131072) % 2 = 1; omega, by show 1073741825 + x0.toNat * 128 + x1.toNat * 4096 + x2.toNat * 131072 < 4294967296; omega⟩
theorem max : ∀ x0 x1 x2, Statement (Instr.max x0 x1 x2) :=
  fun x0 x1 x2 => .inl ⟨rfl, by show (1140850689 + x0.toNat * 128 + x1.toNat * 4096 + x2.toNat * 131072) % 2 = 1; omega, by show 1140850689 + x0.toNat * 128 + x1.toNat * 4096 + x2.toNat * 131072 < 4294967296; omega⟩
theorem clz : ∀ x0 x1, Statement (Instr.clz x0 x1) :=
  fun x0 x1 => .inl ⟨rfl, by show (1207959553 + x0.toNat * 128 + x1.toNat * 4096) % 2 = 1; omega, by show 1207959553 + x0.toNat * 128 + x1.toNat * 4096 < 4294967296; omega⟩
theorem ctz : ∀ x0 x1, Statement (Instr.ctz x0 x1) :=
  fun x0 x1 => .inl ⟨rfl, by show (1275068417 + x0.toNat * 128 + x1.toNat * 4096) % 2 = 1; omega, by show 1275068417 + x0.toNat * 128 + x1.toNat * 4096 < 4294967296; omega⟩
theorem popc : ∀ x0 x1, Statement (Instr.popc x0 x1) :=
  fun x0 x1 => .inl ⟨rfl, by show (1342177281 + x0.toNat * 128 + x1.toNat * 4096) % 2 = 1; omega, by show 1342177281 + x0.toNat * 128 + x1.toNat * 4096 < 4294967296; omega⟩
theorem gcd : ∀ x0 x1 x2 x3, Statement (Instr.gcd x0 x1 x2 x3) :=
  fun x0 x1 x2 x3 => .inl ⟨rfl, by show (1409286145 + x0.toNat * 128 + x1.toNat * 4096 + x2.toNat * 131072 + x3.toNat * 4194304) % 2 = 1; omega, by show 1409286145 + x0.toNat * 128 + x1.toNat * 4096 + x2.toNat * 131072 + x3.toNat * 4194304 < 4294967296; omega⟩
theorem addi : ∀ x0 x1 x2, Statement (Instr.addi x0 x1 x2) :=
  fun x0 x1 x2 => .inl ⟨rfl, by show (3 + x0.toNat * 128 + x1.toNat * 4096 + x2.toNat * 131072) % 2 = 1; omega, by show 3 + x0.toNat * 128 + x1.toNat * 4096 + x2.toNat * 131072 < 4294967296; omega⟩
theorem andi : ∀ x0 x1 x2, Statement (Instr.andi x0 x1 x2) :=
  fun x0 x1 x2 => .inl ⟨rfl, by show (5 + x0.toNat * 128 + x1.toNat * 4096 + x2.toNat * 131072) % 2 = 1; omega, by show 5 + x0.toNat * 128 + x1.toNat * 4096 + x2.toNat * 131072 < 4294967296; omega⟩
theorem ori : ∀ x0 x1 x2, Statement (Instr.ori x0 x1 x2) :=
  fun x0 x1 x2 => .inl ⟨rfl, by show (7 + x0.toNat * 128 + x1.toNat * 4096 + x2.toNat * 131072) % 2 = 1; omega, by show 7 + x0.toNat * 128 + x1.toNat * 4096 + x2.toNat * 131072 < 4294967296; omega⟩
theorem xori : ∀ x0 x1 x2, Statement (Instr.xori x0 x1 x2) :=
  fun x0 x1 x2 => .inl ⟨rfl, by show (9 + x0.toNat * 128 + x1.toNat * 4096 + x2.toNat * 131072) % 2 = 1; omega, by show 9 + x0.toNat * 128 + x1.toNat * 4096 + x2.toNat * 131072 < 4294967296; omega⟩
theorem shli : ∀ x0 x1 x2, Statement (Instr.shli x0 x1 x2) :=
  fun x0 x1 x2 => .inl ⟨rfl, by show (11 + x0.toNat * 128 + x1.toNat * 4096 + x2.toNat * 131072) % 2 = 1; omega, by show 11 + x0.toNat * 128 + x1.toNat * 4096 + x2.toNat * 131072 < 4294967296; omega⟩
theorem shri : ∀ x0 x1 x2, Statement (Instr.shri x0 x1 x2) :=
  fun x0 x1 x2 => .inl ⟨rfl, by show (536870923 + x0.toNat * 128 + x1.toNat * 4096 + x2.toNat * 131072) % 2 = 1; omega, by show 536870923 + x0.toNat * 128 + x1.toNat * 4096 + x2.toNat * 131072 < 4294967296; omega⟩
theorem sari : ∀ x0 x1 x2, Statement (Instr.sari x0 x1 x2) :=
  fun x0 x1 x2 => .inl ⟨rfl, by show (1073741835 + x0.toNat * 128 + x1.toNat * 4096 + x2.toNat * 131072) % 2 = 1; omega, by show 1073741835 + x0.toNat * 128 + x1.toNat * 4096 + x2.toNat * 131072 < 4294967296; omega⟩
theorem slti : ∀ x0 x1 x2, Statement (Instr.slti x0 x1 x2) :=
  fun x0 x1 x2 => .inl ⟨rfl, by show (13 + x0.toNat * 128 + x1.toNat * 4096 + x2.toNat * 131072) % 2 = 1; omega, by show 13 + x0.toNat * 128 + x1.toNat * 4096 + x2.toNat * 131072 < 4294967296; omega⟩
theorem sltiu : ∀ x0 x1 x2, Statement (Instr.sltiu x0 x1 x2) :=
  fun x0 x1 x2 => .inl ⟨rfl, by show (2147483661 + x0.toNat * 128 + x1.toNat * 4096 + x2.toNat * 131072) % 2 = 1; omega, by show 2147483661 + x0.toNat * 128 + x1.toNat * 4096 + x2.toNat * 131072 < 4294967296; omega⟩
theorem lui : ∀ x0 x1, Statement (Instr.lui x0 x1) :=
  fun x0 x1 => .inl ⟨rfl, by show (15 + x0.toNat * 128 + x1.toNat * 4096) % 2 = 1; omega, by show 15 + x0.toNat * 128 + x1.toNat * 4096 < 4294967296; omega⟩
theorem adpc : ∀ x0 x1, Statement (Instr.adpc x0 x1) :=
  fun x0 x1 => .inl ⟨rfl, by show (17 + x0.toNat * 128 + x1.toNat * 4096) % 2 = 1; omega, by show 17 + x0.toNat * 128 + x1.toNat * 4096 < 4294967296; omega⟩
theorem bcc : ∀ x0 x1 x2 x3, Statement (Instr.bcc x0 x1 x2 x3) :=
  fun x0 x1 x2 x3 => .inl ⟨rfl, by show (19 + x0.toNat * 128 + x1.toNat * 4096 + x2.toNat * 1048576 + x3.toNat * 131072) % 2 = 1; omega, by show 19 + x0.toNat * 128 + x1.toNat * 4096 + x2.toNat * 1048576 + x3.toNat * 131072 < 4294967296; omega⟩
theorem br : ∀ x0, Statement (Instr.br x0) :=
  fun x0 => .inl ⟨rfl, by show (21 + x0.toNat * 128) % 2 = 1; omega, by show 21 + x0.toNat * 128 < 4294967296; omega⟩
theorem call : ∀ x0, Statement (Instr.call x0) :=
  fun x0 => .inl ⟨rfl, by show (23 + x0.toNat * 128) % 2 = 1; omega, by show 23 + x0.toNat * 128 < 4294967296; omega⟩
theorem jr : ∀ x0, Statement (Instr.jr x0) :=
  fun x0 => .inl ⟨rfl, by show (25 + x0.toNat * 4096) % 2 = 1; omega, by show 25 + x0.toNat * 4096 < 4294967296; omega⟩
theorem callr : ∀ x0, Statement (Instr.callr x0) :=
  fun x0 => .inl ⟨rfl, by show (67108889 + x0.toNat * 4096) % 2 = 1; omega, by show 67108889 + x0.toNat * 4096 < 4294967296; omega⟩
theorem qput : ∀ x0 x1, Statement (Instr.qput x0 x1) :=
  fun x0 x1 => .inl ⟨rfl, by show (201326617 + x0.toNat * 131072 + x1.toNat * 4096) % 2 = 1; omega, by show 201326617 + x0.toNat * 131072 + x1.toNat * 4096 < 4294967296; omega⟩
theorem qget : ∀ x0 x1, Statement (Instr.qget x0 x1) :=
  fun x0 x1 => .inl ⟨rfl, by show (268435481 + x0.toNat * 131072 + x1.toNat * 128) % 2 = 1; omega, by show 268435481 + x0.toNat * 131072 + x1.toNat * 128 < 4294967296; omega⟩
theorem sysrd : ∀ x0 x1, Statement (Instr.sysrd x0 x1) :=
  fun x0 x1 => .inl ⟨rfl, by show (27 + x0.toNat * 128 + x1.toNat * 8388608) % 2 = 1; omega, by show 27 + x0.toNat * 128 + x1.toNat * 8388608 < 4294967296; omega⟩
theorem syswr : ∀ x0 x1, Statement (Instr.syswr x0 x1) :=
  fun x0 x1 => .inl ⟨rfl, by show (1048603 + x0.toNat * 4096 + x1.toNat * 8388608) % 2 = 1; omega, by show 1048603 + x0.toNat * 4096 + x1.toNat * 8388608 < 4294967296; omega⟩
theorem svc : ∀ x0, Statement (Instr.svc x0) :=
  fun x0 => .inl ⟨rfl, by show (2097179 + x0.toNat * 8388608) % 2 = 1; omega, by show 2097179 + x0.toNat * 8388608 < 4294967296; omega⟩
theorem trap : ∀ x0, Statement (Instr.trap x0) :=
  fun x0 => .inl ⟨rfl, by show (3145755 + x0.toNat * 8388608) % 2 = 1; omega, by show 3145755 + x0.toNat * 8388608 < 4294967296; omega⟩
theorem safept : ∀ x0, Statement (Instr.safept x0) :=
  fun x0 => .inl ⟨rfl, by show (7340059 + x0.toNat * 8388608) % 2 = 1; omega, by show 7340059 + x0.toNat * 8388608 < 4294967296; omega⟩
theorem gtol : ∀ x0 x1, Statement (Instr.gtol x0 x1) :=
  fun x0 x1 => .inl ⟨rfl, by show (29 + x0.toNat * 128 + x1.toNat * 4096) % 2 = 1; omega, by show 29 + x0.toNat * 128 + x1.toNat * 4096 < 4294967296; omega⟩
theorem ltog : ∀ x0 x1 x2, Statement (Instr.ltog x0 x1 x2) :=
  fun x0 x1 x2 => .inl ⟨rfl, by show (67108893 + x0.toNat * 128 + x1.toNat * 4096 + x2.toNat * 131072) % 2 = 1; omega, by show 67108893 + x0.toNat * 128 + x1.toNat * 4096 + x2.toNat * 131072 < 4294967296; omega⟩
theorem inap : ∀ x0 x1, Statement (Instr.inap x0 x1) :=
  fun x0 x1 => .inl ⟨rfl, by show (134217757 + x0.toNat * 128 + x1.toNat * 4096) % 2 = 1; omega, by show 134217757 + x0.toNat * 128 + x1.toNat * 4096 < 4294967296; omega⟩
theorem teama : ∀ x0 x1 x2, Statement (Instr.teama x0 x1 x2) :=
  fun x0 x1 x2 => .inl ⟨rfl, by show (201326621 + x0.toNat * 128 + x1.toNat * 4096 + x2.toNat * 131072) % 2 = 1; omega, by show 201326621 + x0.toNat * 128 + x1.toNat * 4096 + x2.toNat * 131072 < 4294967296; omega⟩
theorem fence : ∀ x0, Statement (Instr.fence x0) :=
  fun x0 => .inl ⟨rfl, by show (31 + x0.toNat * 131072) % 2 = 1; omega, by show 31 + x0.toNat * 131072 < 4294967296; omega⟩
theorem fenceAcq : ∀ x0, Statement (Instr.fenceAcq x0) :=
  fun x0 => .inl ⟨rfl, by show (8388639 + x0.toNat * 131072) % 2 = 1; omega, by show 8388639 + x0.toNat * 131072 < 4294967296; omega⟩
theorem fenceRel : ∀ x0, Statement (Instr.fenceRel x0) :=
  fun x0 => .inl ⟨rfl, by show (16777247 + x0.toNat * 131072) % 2 = 1; omega, by show 16777247 + x0.toNat * 131072 < 4294967296; omega⟩
theorem bar : ∀ x0 x1 x2, Statement (Instr.bar x0 x1 x2) :=
  fun x0 x1 x2 => .inl ⟨rfl, by show (1048607 + x0.toNat * 4096 + x1.toNat * 128 + x2.toNat * 131072) % 2 = 1; omega, by show 1048607 + x0.toNat * 4096 + x1.toNat * 128 + x2.toNat * 131072 < 4294967296; omega⟩
theorem barW : ∀ x0 x1 x2, Statement (Instr.barW x0 x1 x2) :=
  fun x0 x1 x2 => .inl ⟨rfl, by show (9437215 + x0.toNat * 4096 + x1.toNat * 128 + x2.toNat * 131072) % 2 = 1; omega, by show 9437215 + x0.toNat * 4096 + x1.toNat * 128 + x2.toNat * 131072 < 4294967296; omega⟩
theorem barw : ∀ x0 x1 x2, Statement (Instr.barw x0 x1 x2) :=
  fun x0 x1 x2 => .inl ⟨rfl, by show (2097183 + x0.toNat * 4096 + x1.toNat * 128 + x2.toNat * 131072) % 2 = 1; omega, by show 2097183 + x0.toNat * 4096 + x1.toNat * 128 + x2.toNat * 131072 < 4294967296; omega⟩
theorem barx : ∀ x0 x1 x2, Statement (Instr.barx x0 x1 x2) :=
  fun x0 x1 x2 => .inl ⟨rfl, by show (3145759 + x0.toNat * 4096 + x1.toNat * 128 + x2.toNat * 131072) % 2 = 1; omega, by show 3145759 + x0.toNat * 4096 + x1.toNat * 128 + x2.toNat * 131072 < 4294967296; omega⟩
theorem dsync : ∀ x0, Statement (Instr.dsync x0) :=
  fun x0 => .inl ⟨rfl, by show (4194335 + x0.toNat * 131072) % 2 = 1; omega, by show 4194335 + x0.toNat * 131072 < 4294967296; omega⟩
theorem gsync : ∀ x0, Statement (Instr.gsync x0) :=
  fun x0 => .inl ⟨rfl, by show (5242911 + x0.toNat * 131072) % 2 = 1; omega, by show 5242911 + x0.toNat * 131072 < 4294967296; omega⟩
theorem ld : ∀ x0 x1 x2 x3 x4, Statement (Instr.ld x0 x1 x2 x3 x4) :=
  fun x0 x1 x2 x3 x4 => .inl ⟨rfl, by show (33 + x0.toNat * 128 + x1.toNat * 4096 + x2.toNat * 8388608 + x3.toNat * 2097152 + x4.toNat * 131072) % 2 = 1; omega, by show 33 + x0.toNat * 128 + x1.toNat * 4096 + x2.toNat * 8388608 + x3.toNat * 2097152 + x4.toNat * 131072 < 4294967296; omega⟩
theorem ldz : ∀ x0 x1 x2 x3 x4, Statement (Instr.ldz x0 x1 x2 x3 x4) :=
  fun x0 x1 x2 x3 x4 => .inl ⟨rfl, by show (35 + x0.toNat * 128 + x1.toNat * 4096 + x2.toNat * 8388608 + x3.toNat * 2097152 + x4.toNat * 131072) % 2 = 1; omega, by show 35 + x0.toNat * 128 + x1.toNat * 4096 + x2.toNat * 8388608 + x3.toNat * 2097152 + x4.toNat * 131072 < 4294967296; omega⟩
theorem st : ∀ x0 x1 x2 x3, Statement (Instr.st x0 x1 x2 x3) :=
  fun x0 x1 x2 x3 => .inl ⟨rfl, by show (37 + x0.toNat * 4096 + x1.toNat * 128 + x2.toNat * 524288 + x3.toNat * 131072) % 2 = 1; omega, by show 37 + x0.toNat * 4096 + x1.toNat * 128 + x2.toNat * 524288 + x3.toNat * 131072 < 4294967296; omega⟩
theorem ldq : ∀ x0 x1 x2 x3 x4, Statement (Instr.ldq x0 x1 x2 x3 x4) :=
  fun x0 x1 x2 x3 x4 => .inl ⟨rfl, by show (39 + x0.toNat * 128 + x1.toNat * 16384 + x2.toNat * 8388608 + x3.toNat * 1024 + x4.toNat * 524288) % 2 = 1; omega, by show 39 + x0.toNat * 128 + x1.toNat * 16384 + x2.toNat * 8388608 + x3.toNat * 1024 + x4.toNat * 524288 < 4294967296; omega⟩
theorem stq : ∀ x0 x1 x2, Statement (Instr.stq x0 x1 x2) :=
  fun x0 x1 x2 => .inl ⟨rfl, by show (41 + x0.toNat * 128 + x1.toNat * 16384 + x2.toNat * 8388608) % 2 = 1; omega, by show 41 + x0.toNat * 128 + x1.toNat * 16384 + x2.toNat * 8388608 < 4294967296; omega⟩
theorem ldqs : ∀ x0 x1 x2 x3 x4 x5, Statement (Instr.ldqs x0 x1 x2 x3 x4 x5) :=
  fun x0 x1 x2 x3 x4 x5 => .inl ⟨rfl, by show (43 + x0.toNat * 128 + x1.toNat * 16384 + x2.toNat * 8388608 + x3.toNat * 1024 + x4.toNat * 268435456 + x5.toNat * 524288) % 2 = 1; omega, by show 43 + x0.toNat * 128 + x1.toNat * 16384 + x2.toNat * 8388608 + x3.toNat * 1024 + x4.toNat * 268435456 + x5.toNat * 524288 < 4294967296; omega⟩
theorem stqs : ∀ x0 x1 x2 x3, Statement (Instr.stqs x0 x1 x2 x3) :=
  fun x0 x1 x2 x3 => .inl ⟨rfl, by show (2147483691 + x0.toNat * 128 + x1.toNat * 16384 + x2.toNat * 8388608 + x3.toNat * 268435456) % 2 = 1; omega, by show 2147483691 + x0.toNat * 128 + x1.toNat * 16384 + x2.toNat * 8388608 + x3.toNat * 268435456 < 4294967296; omega⟩
theorem ldqx : ∀ x0 x1 x2 x3 x4 x5, Statement (Instr.ldqx x0 x1 x2 x3 x4 x5) :=
  fun x0 x1 x2 x3 x4 x5 => .inl ⟨rfl, by show (45 + x0.toNat * 128 + x1.toNat * 16384 + x2.toNat * 8388608 + x3.toNat * 1024 + x4.toNat * 268435456 + x5.toNat * 524288) % 2 = 1; omega, by show 45 + x0.toNat * 128 + x1.toNat * 16384 + x2.toNat * 8388608 + x3.toNat * 1024 + x4.toNat * 268435456 + x5.toNat * 524288 < 4294967296; omega⟩
theorem stqx : ∀ x0 x1 x2 x3, Statement (Instr.stqx x0 x1 x2 x3) :=
  fun x0 x1 x2 x3 => .inl ⟨rfl, by show (2147483693 + x0.toNat * 128 + x1.toNat * 16384 + x2.toNat * 8388608 + x3.toNat * 268435456) % 2 = 1; omega, by show 2147483693 + x0.toNat * 128 + x1.toNat * 16384 + x2.toNat * 8388608 + x3.toNat * 268435456 < 4294967296; omega⟩
theorem lds : ∀ x0 x1 x2 x3, Statement (Instr.lds x0 x1 x2 x3) :=
  fun x0 x1 x2 x3 => .inl ⟨rfl, by show (47 + x0.toNat * 128 + x1.toNat * 4096 + x2.toNat * 8388608 + x3.toNat * 131072) % 2 = 1; omega, by show 47 + x0.toNat * 128 + x1.toNat * 4096 + x2.toNat * 8388608 + x3.toNat * 131072 < 4294967296; omega⟩
theorem sts : ∀ x0 x1 x2, Statement (Instr.sts x0 x1 x2) :=
  fun x0 x1 x2 => .inl ⟨rfl, by show (2097199 + x0.toNat * 4096 + x1.toNat * 128 + x2.toNat * 8388608) % 2 = 1; omega, by show 2097199 + x0.toNat * 4096 + x1.toNat * 128 + x2.toNat * 8388608 < 4294967296; omega⟩
theorem ldsq : ∀ x0 x1 x2 x3 x4, Statement (Instr.ldsq x0 x1 x2 x3 x4) :=
  fun x0 x1 x2 x3 x4 => .inl ⟨rfl, by show (4194351 + x0.toNat * 128 + x1.toNat * 4096 + x2.toNat * 8388608 + x3.toNat * 268435456 + x4.toNat * 131072) % 2 = 1; omega, by show 4194351 + x0.toNat * 128 + x1.toNat * 4096 + x2.toNat * 8388608 + x3.toNat * 268435456 + x4.toNat * 131072 < 4294967296; omega⟩
theorem stsq : ∀ x0 x1 x2, Statement (Instr.stsq x0 x1 x2) :=
  fun x0 x1 x2 => .inl ⟨rfl, by show (6291503 + x0.toNat * 128 + x1.toNat * 4096 + x2.toNat * 8388608) % 2 = 1; omega, by show 6291503 + x0.toNat * 128 + x1.toNat * 4096 + x2.toNat * 8388608 < 4294967296; omega⟩
theorem atomicAdd : ∀ x0 x1 x2 x3 x4 x5, Statement (Instr.atomicAdd x0 x1 x2 x3 x4 x5) :=
  fun x0 x1 x2 x3 x4 x5 => .inl ⟨rfl, by show (49 + x0.toNat * 128 + x1.toNat * 4096 + x2.toNat * 131072 + x3.toNat * 1073741824 + x4.toNat * 536870912 + x5.toNat * 4194304) % 2 = 1; omega, by show 49 + x0.toNat * 128 + x1.toNat * 4096 + x2.toNat * 131072 + x3.toNat * 1073741824 + x4.toNat * 536870912 + x5.toNat * 4194304 < 4294967296; omega⟩
theorem atomicAnd : ∀ x0 x1 x2 x3 x4 x5, Statement (Instr.atomicAnd x0 x1 x2 x3 x4 x5) :=
  fun x0 x1 x2 x3 x4 x5 => .inl ⟨rfl, by show (33554481 + x0.toNat * 128 + x1.toNat * 4096 + x2.toNat * 131072 + x3.toNat * 1073741824 + x4.toNat * 536870912 + x5.toNat * 4194304) % 2 = 1; omega, by show 33554481 + x0.toNat * 128 + x1.toNat * 4096 + x2.toNat * 131072 + x3.toNat * 1073741824 + x4.toNat * 536870912 + x5.toNat * 4194304 < 4294967296; omega⟩
theorem atomicOr : ∀ x0 x1 x2 x3 x4 x5, Statement (Instr.atomicOr x0 x1 x2 x3 x4 x5) :=
  fun x0 x1 x2 x3 x4 x5 => .inl ⟨rfl, by show (67108913 + x0.toNat * 128 + x1.toNat * 4096 + x2.toNat * 131072 + x3.toNat * 1073741824 + x4.toNat * 536870912 + x5.toNat * 4194304) % 2 = 1; omega, by show 67108913 + x0.toNat * 128 + x1.toNat * 4096 + x2.toNat * 131072 + x3.toNat * 1073741824 + x4.toNat * 536870912 + x5.toNat * 4194304 < 4294967296; omega⟩
theorem atomicXor : ∀ x0 x1 x2 x3 x4 x5, Statement (Instr.atomicXor x0 x1 x2 x3 x4 x5) :=
  fun x0 x1 x2 x3 x4 x5 => .inl ⟨rfl, by show (100663345 + x0.toNat * 128 + x1.toNat * 4096 + x2.toNat * 131072 + x3.toNat * 1073741824 + x4.toNat * 536870912 + x5.toNat * 4194304) % 2 = 1; omega, by show 100663345 + x0.toNat * 128 + x1.toNat * 4096 + x2.toNat * 131072 + x3.toNat * 1073741824 + x4.toNat * 536870912 + x5.toNat * 4194304 < 4294967296; omega⟩
theorem atomicMin : ∀ x0 x1 x2 x3 x4 x5, Statement (Instr.atomicMin x0 x1 x2 x3 x4 x5) :=
  fun x0 x1 x2 x3 x4 x5 => .inl ⟨rfl, by show (134217777 + x0.toNat * 128 + x1.toNat * 4096 + x2.toNat * 131072 + x3.toNat * 1073741824 + x4.toNat * 536870912 + x5.toNat * 4194304) % 2 = 1; omega, by show 134217777 + x0.toNat * 128 + x1.toNat * 4096 + x2.toNat * 131072 + x3.toNat * 1073741824 + x4.toNat * 536870912 + x5.toNat * 4194304 < 4294967296; omega⟩
theorem atomicMax : ∀ x0 x1 x2 x3 x4 x5, Statement (Instr.atomicMax x0 x1 x2 x3 x4 x5) :=
  fun x0 x1 x2 x3 x4 x5 => .inl ⟨rfl, by show (167772209 + x0.toNat * 128 + x1.toNat * 4096 + x2.toNat * 131072 + x3.toNat * 1073741824 + x4.toNat * 536870912 + x5.toNat * 4194304) % 2 = 1; omega, by show 167772209 + x0.toNat * 128 + x1.toNat * 4096 + x2.toNat * 131072 + x3.toNat * 1073741824 + x4.toNat * 536870912 + x5.toNat * 4194304 < 4294967296; omega⟩
theorem atomicSwp : ∀ x0 x1 x2 x3 x4 x5, Statement (Instr.atomicSwp x0 x1 x2 x3 x4 x5) :=
  fun x0 x1 x2 x3 x4 x5 => .inl ⟨rfl, by show (201326641 + x0.toNat * 128 + x1.toNat * 4096 + x2.toNat * 131072 + x3.toNat * 1073741824 + x4.toNat * 536870912 + x5.toNat * 4194304) % 2 = 1; omega, by show 201326641 + x0.toNat * 128 + x1.toNat * 4096 + x2.toNat * 131072 + x3.toNat * 1073741824 + x4.toNat * 536870912 + x5.toNat * 4194304 < 4294967296; omega⟩
theorem atomicCas : ∀ x0 x1 x2 x3 x4 x5, Statement (Instr.atomicCas x0 x1 x2 x3 x4 x5) :=
  fun x0 x1 x2 x3 x4 x5 => .inl ⟨rfl, by show (234881073 + x0.toNat * 128 + x1.toNat * 4096 + x2.toNat * 131072 + x3.toNat * 1073741824 + x4.toNat * 536870912 + x5.toNat * 4194304) % 2 = 1; omega, by show 234881073 + x0.toNat * 128 + x1.toNat * 4096 + x2.toNat * 131072 + x3.toNat * 1073741824 + x4.toNat * 536870912 + x5.toNat * 4194304 < 4294967296; omega⟩
theorem radd : ∀ x0 x1 x2 x3, Statement (Instr.radd x0 x1 x2 x3) :=
  fun x0 x1 x2 x3 => .inl ⟨rfl, by show (268435505 + x0.toNat * 4096 + x1.toNat * 131072 + x2.toNat * 1073741824 + x3.toNat * 4194304) % 2 = 1; omega, by show 268435505 + x0.toNat * 4096 + x1.toNat * 131072 + x2.toNat * 1073741824 + x3.toNat * 4194304 < 4294967296; omega⟩
theorem tdef : ∀ x0 x1, Statement (Instr.tdef x0 x1) :=
  fun x0 x1 => .inl ⟨rfl, by show (51 + x0.toNat * 4096 + x1.toNat * 131072) % 2 = 1; omega, by show 51 + x0.toNat * 4096 + x1.toNat * 131072 < 4294967296; omega⟩
theorem tstat : ∀ x0 x1, Statement (Instr.tstat x0 x1) :=
  fun x0 x1 => .inl ⟨rfl, by show (67108915 + x0.toNat * 128 + x1.toNat * 4096) % 2 = 1; omega, by show 67108915 + x0.toNat * 128 + x1.toNat * 4096 < 4294967296; omega⟩
theorem twait : ∀ x0, Statement (Instr.twait x0) :=
  fun x0 => .inl ⟨rfl, by show (134217779 + x0.toNat * 4096) % 2 = 1; omega, by show 134217779 + x0.toNat * 4096 < 4294967296; omega⟩
theorem trel : ∀ x0, Statement (Instr.trel x0) :=
  fun x0 => .inl ⟨rfl, by show (201326643 + x0.toNat * 4096) % 2 = 1; omega, by show 201326643 + x0.toNat * 4096 < 4294967296; omega⟩
theorem cpset : ∀ x0 x1, Statement (Instr.cpset x0 x1) :=
  fun x0 x1 => .inl ⟨rfl, by show (53 + x0.toNat * 4096 + x1.toNat * 8388608) % 2 = 1; omega, by show 53 + x0.toNat * 4096 + x1.toNat * 8388608 < 4294967296; omega⟩
theorem cpgo : ∀ x0, Statement (Instr.cpgo x0) :=
  fun x0 => .inl ⟨rfl, by show (1048629 + x0.toNat * 128) % 2 = 1; omega, by show 1048629 + x0.toNat * 128 < 4294967296; omega⟩
theorem cpwait : ∀ x0, Statement (Instr.cpwait x0) :=
  fun x0 => .inl ⟨rfl, by show (2097205 + x0.toNat * 4096) % 2 = 1; omega, by show 2097205 + x0.toNat * 4096 < 4294967296; omega⟩
theorem cpprobe : ∀ x0 x1, Statement (Instr.cpprobe x0 x1) :=
  fun x0 x1 => .inl ⟨rfl, by show (3145781 + x0.toNat * 128 + x1.toNat * 4096) % 2 = 1; omega, by show 3145781 + x0.toNat * 128 + x1.toNat * 4096 < 4294967296; omega⟩
theorem lvget : ∀ x0 x1, Statement (Instr.lvget x0 x1) :=
  fun x0 x1 => .inl ⟨rfl, by show (55 + x0.toNat * 128 + x1.toNat * 4096) % 2 = 1; omega, by show 55 + x0.toNat * 128 + x1.toNat * 4096 < 4294967296; omega⟩
theorem lvnbr : ∀ x0 x1, Statement (Instr.lvnbr x0 x1) :=
  fun x0 x1 => .inl ⟨rfl, by show (67108919 + x0.toNat * 128 + x1.toNat * 4096) % 2 = 1; omega, by show 67108919 + x0.toNat * 128 + x1.toNat * 4096 < 4294967296; omega⟩
theorem lvread : ∀ x0 x1 x2 x3, Statement (Instr.lvread x0 x1 x2 x3) :=
  fun x0 x1 x2 x3 => .inl ⟨rfl, by show (134217783 + x0.toNat * 128 + x1.toNat * 4096 + x2.toNat * 131072 + x3.toNat * 4194304) % 2 = 1; omega, by show 134217783 + x0.toNat * 128 + x1.toNat * 4096 + x2.toNat * 131072 + x3.toNat * 4194304 < 4294967296; omega⟩
theorem lvstep : ∀ x0, Statement (Instr.lvstep x0) :=
  fun x0 => .inl ⟨rfl, by show (335544375 + x0.toNat * 4096) % 2 = 1; omega, by show 335544375 + x0.toNat * 4096 < 4294967296; omega⟩
theorem lvthaw : ∀ x0 x1, Statement (Instr.lvthaw x0 x1) :=
  fun x0 x1 => .inl ⟨rfl, by show (469762103 + x0.toNat * 128 + x1.toNat * 4096) % 2 = 1; omega, by show 469762103 + x0.toNat * 128 + x1.toNat * 4096 < 4294967296; omega⟩
theorem fadd : ∀ x0 x1 x2 x3, Statement (Instr.fadd x0 x1 x2 x3) :=
  fun x0 x1 x2 x3 => .inl ⟨rfl, by show (57 + x0.toNat * 128 + x1.toNat * 4096 + x2.toNat * 131072 + x3.toNat * 4194304) % 2 = 1; omega, by show 57 + x0.toNat * 128 + x1.toNat * 4096 + x2.toNat * 131072 + x3.toNat * 4194304 < 4294967296; omega⟩
theorem fsub : ∀ x0 x1 x2 x3, Statement (Instr.fsub x0 x1 x2 x3) :=
  fun x0 x1 x2 x3 => .inl ⟨rfl, by show (67108921 + x0.toNat * 128 + x1.toNat * 4096 + x2.toNat * 131072 + x3.toNat * 4194304) % 2 = 1; omega, by show 67108921 + x0.toNat * 128 + x1.toNat * 4096 + x2.toNat * 131072 + x3.toNat * 4194304 < 4294967296; omega⟩
theorem fmul : ∀ x0 x1 x2 x3, Statement (Instr.fmul x0 x1 x2 x3) :=
  fun x0 x1 x2 x3 => .inl ⟨rfl, by show (134217785 + x0.toNat * 128 + x1.toNat * 4096 + x2.toNat * 131072 + x3.toNat * 4194304) % 2 = 1; omega, by show 134217785 + x0.toNat * 128 + x1.toNat * 4096 + x2.toNat * 131072 + x3.toNat * 4194304 < 4294967296; omega⟩
theorem fdiv : ∀ x0 x1 x2 x3, Statement (Instr.fdiv x0 x1 x2 x3) :=
  fun x0 x1 x2 x3 => .inl ⟨rfl, by show (201326649 + x0.toNat * 128 + x1.toNat * 4096 + x2.toNat * 131072 + x3.toNat * 4194304) % 2 = 1; omega, by show 201326649 + x0.toNat * 128 + x1.toNat * 4096 + x2.toNat * 131072 + x3.toNat * 4194304 < 4294967296; omega⟩
theorem fsqrt : ∀ x0 x1 x2, Statement (Instr.fsqrt x0 x1 x2) :=
  fun x0 x1 x2 => .inl ⟨rfl, by show (268435513 + x0.toNat * 128 + x1.toNat * 4096 + x2.toNat * 4194304) % 2 = 1; omega, by show 268435513 + x0.toNat * 128 + x1.toNat * 4096 + x2.toNat * 4194304 < 4294967296; omega⟩
theorem fma : ∀ x0 x1 x2 x3, Statement (Instr.fma x0 x1 x2 x3) :=
  fun x0 x1 x2 x3 => .inl ⟨rfl, by show (335544377 + x0.toNat * 128 + x1.toNat * 4096 + x2.toNat * 131072 + x3.toNat * 4194304) % 2 = 1; omega, by show 335544377 + x0.toNat * 128 + x1.toNat * 4096 + x2.toNat * 131072 + x3.toNat * 4194304 < 4294967296; omega⟩
theorem fmin : ∀ x0 x1 x2, Statement (Instr.fmin x0 x1 x2) :=
  fun x0 x1 x2 => .inl ⟨rfl, by show (402653241 + x0.toNat * 128 + x1.toNat * 4096 + x2.toNat * 131072) % 2 = 1; omega, by show 402653241 + x0.toNat * 128 + x1.toNat * 4096 + x2.toNat * 131072 < 4294967296; omega⟩
theorem fmax : ∀ x0 x1 x2, Statement (Instr.fmax x0 x1 x2) :=
  fun x0 x1 x2 => .inl ⟨rfl, by show (469762105 + x0.toNat * 128 + x1.toNat * 4096 + x2.toNat * 131072) % 2 = 1; omega, by show 469762105 + x0.toNat * 128 + x1.toNat * 4096 + x2.toNat * 131072 < 4294967296; omega⟩
theorem fabs : ∀ x0 x1, Statement (Instr.fabs x0 x1) :=
  fun x0 x1 => .inl ⟨rfl, by show (536870969 + x0.toNat * 128 + x1.toNat * 4096) % 2 = 1; omega, by show 536870969 + x0.toNat * 128 + x1.toNat * 4096 < 4294967296; omega⟩
theorem fneg : ∀ x0 x1, Statement (Instr.fneg x0 x1) :=
  fun x0 x1 => .inl ⟨rfl, by show (603979833 + x0.toNat * 128 + x1.toNat * 4096) % 2 = 1; omega, by show 603979833 + x0.toNat * 128 + x1.toNat * 4096 < 4294967296; omega⟩
theorem feq : ∀ x0 x1 x2, Statement (Instr.feq x0 x1 x2) :=
  fun x0 x1 x2 => .inl ⟨rfl, by show (671088697 + x0.toNat * 128 + x1.toNat * 4096 + x2.toNat * 131072) % 2 = 1; omega, by show 671088697 + x0.toNat * 128 + x1.toNat * 4096 + x2.toNat * 131072 < 4294967296; omega⟩
theorem flt : ∀ x0 x1 x2, Statement (Instr.flt x0 x1 x2) :=
  fun x0 x1 x2 => .inl ⟨rfl, by show (738197561 + x0.toNat * 128 + x1.toNat * 4096 + x2.toNat * 131072) % 2 = 1; omega, by show 738197561 + x0.toNat * 128 + x1.toNat * 4096 + x2.toNat * 131072 < 4294967296; omega⟩
theorem fle : ∀ x0 x1 x2, Statement (Instr.fle x0 x1 x2) :=
  fun x0 x1 x2 => .inl ⟨rfl, by show (805306425 + x0.toNat * 128 + x1.toNat * 4096 + x2.toNat * 131072) % 2 = 1; omega, by show 805306425 + x0.toNat * 128 + x1.toNat * 4096 + x2.toNat * 131072 < 4294967296; omega⟩
theorem fcvt : ∀ x0 x1 x2 x3, Statement (Instr.fcvt x0 x1 x2 x3) :=
  fun x0 x1 x2 x3 => .inl ⟨rfl, by show (872415289 + x0.toNat * 128 + x1.toNat * 4096 + x2.toNat * 131072 + x3.toNat * 4194304) % 2 = 1; omega, by show 872415289 + x0.toNat * 128 + x1.toNat * 4096 + x2.toNat * 131072 + x3.toNat * 4194304 < 4294967296; omega⟩
theorem f2g : ∀ x0 x1 x2, Statement (Instr.f2g x0 x1 x2) :=
  fun x0 x1 x2 => .inl ⟨rfl, by show (939524153 + x0.toNat * 128 + x1.toNat * 4096 + x2.toNat * 4194304) % 2 = 1; omega, by show 939524153 + x0.toNat * 128 + x1.toNat * 4096 + x2.toNat * 4194304 < 4294967296; omega⟩
theorem g2f : ∀ x0 x1 x2 x3, Statement (Instr.g2f x0 x1 x2 x3) :=
  fun x0 x1 x2 x3 => .inl ⟨rfl, by show (1006633017 + x0.toNat * 128 + x1.toNat * 4096 + x2.toNat * 131072 + x3.toNat * 4194304) % 2 = 1; omega, by show 1006633017 + x0.toNat * 128 + x1.toNat * 4096 + x2.toNat * 131072 + x3.toNat * 4194304 < 4294967296; omega⟩
theorem fmvg : ∀ x0 x1, Statement (Instr.fmvg x0 x1) :=
  fun x0 x1 => .inl ⟨rfl, by show (1073741881 + x0.toNat * 128 + x1.toNat * 4096) % 2 = 1; omega, by show 1073741881 + x0.toNat * 128 + x1.toNat * 4096 < 4294967296; omega⟩
theorem gmvf : ∀ x0 x1 x2, Statement (Instr.gmvf x0 x1 x2) :=
  fun x0 x1 x2 => .inl ⟨rfl, by show (1140850745 + x0.toNat * 128 + x1.toNat * 4096 + x2.toNat * 131072) % 2 = 1; omega, by show 1140850745 + x0.toNat * 128 + x1.toNat * 4096 + x2.toNat * 131072 < 4294967296; omega⟩
theorem fnum : ∀ x0 x1, Statement (Instr.fnum x0 x1) :=
  fun x0 x1 => .inl ⟨rfl, by show (59 + x0.toNat * 128 + x1.toNat * 4096) % 2 = 1; omega, by show 59 + x0.toNat * 128 + x1.toNat * 4096 < 4294967296; omega⟩
theorem fden : ∀ x0 x1, Statement (Instr.fden x0 x1) :=
  fun x0 x1 => .inl ⟨rfl, by show (67108923 + x0.toNat * 128 + x1.toNat * 4096) % 2 = 1; omega, by show 67108923 + x0.toNat * 128 + x1.toNat * 4096 < 4294967296; omega⟩
theorem fmake : ∀ x0 x1 x2 x3, Statement (Instr.fmake x0 x1 x2 x3) :=
  fun x0 x1 x2 x3 => .inl ⟨rfl, by show (134217787 + x0.toNat * 128 + x1.toNat * 4096 + x2.toNat * 131072 + x3.toNat * 4194304) % 2 = 1; omega, by show 134217787 + x0.toNat * 128 + x1.toNat * 4096 + x2.toNat * 131072 + x3.toNat * 4194304 < 4294967296; omega⟩
theorem fmed : ∀ x0 x1 x2 x3, Statement (Instr.fmed x0 x1 x2 x3) :=
  fun x0 x1 x2 x3 => .inl ⟨rfl, by show (201326651 + x0.toNat * 128 + x1.toNat * 4096 + x2.toNat * 131072 + x3.toNat * 4194304) % 2 = 1; omega, by show 201326651 + x0.toNat * 128 + x1.toNat * 4096 + x2.toNat * 131072 + x3.toNat * 4194304 < 4294967296; omega⟩
theorem frnd : ∀ x0 x1 x2 x3, Statement (Instr.frnd x0 x1 x2 x3) :=
  fun x0 x1 x2 x3 => .inl ⟨rfl, by show (268435515 + x0.toNat * 128 + x1.toNat * 4096 + x2.toNat * 131072 + x3.toNat * 4194304) % 2 = 1; omega, by show 268435515 + x0.toNat * 128 + x1.toNat * 4096 + x2.toNat * 131072 + x3.toNat * 4194304 < 4294967296; omega⟩
theorem fnbr : ∀ x0 x1 x2 x3, Statement (Instr.fnbr x0 x1 x2 x3) :=
  fun x0 x1 x2 x3 => .inl ⟨rfl, by show (335544379 + x0.toNat * 128 + x1.toNat * 4096 + x2.toNat * 131072 + x3.toNat * 4194304) % 2 = 1; omega, by show 335544379 + x0.toNat * 128 + x1.toNat * 4096 + x2.toNat * 131072 + x3.toNat * 4194304 < 4294967296; omega⟩
theorem fli : ∀ x0 x1, Statement (Instr.fli x0 x1) :=
  fun x0 x1 => .inl ⟨rfl, by show (61 + x0.toNat * 128 + x1.toNat * 4096) % 2 = 1; omega, by show 61 + x0.toNat * 128 + x1.toNat * 4096 < 4294967296; omega⟩
theorem vadd : ∀ x0 x1 x2 x3 x4 x5, Statement (Instr.vadd x0 x1 x2 x3 x4 x5) :=
  fun x0 x1 x2 x3 x4 x5 => .inl ⟨rfl, by show (63 + x0.toNat * 128 + x1.toNat * 4096 + x2.toNat * 131072 + x3.toNat * 134217728 + x4.toNat * 536870912 + x5.toNat * 67108864) % 2 = 1; omega, by show 63 + x0.toNat * 128 + x1.toNat * 4096 + x2.toNat * 131072 + x3.toNat * 134217728 + x4.toNat * 536870912 + x5.toNat * 67108864 < 4294967296; omega⟩
theorem vsub : ∀ x0 x1 x2 x3 x4 x5, Statement (Instr.vsub x0 x1 x2 x3 x4 x5) :=
  fun x0 x1 x2 x3 x4 x5 => .inl ⟨rfl, by show (4194367 + x0.toNat * 128 + x1.toNat * 4096 + x2.toNat * 131072 + x3.toNat * 134217728 + x4.toNat * 536870912 + x5.toNat * 67108864) % 2 = 1; omega, by show 4194367 + x0.toNat * 128 + x1.toNat * 4096 + x2.toNat * 131072 + x3.toNat * 134217728 + x4.toNat * 536870912 + x5.toNat * 67108864 < 4294967296; omega⟩
theorem vmul : ∀ x0 x1 x2 x3 x4 x5, Statement (Instr.vmul x0 x1 x2 x3 x4 x5) :=
  fun x0 x1 x2 x3 x4 x5 => .inl ⟨rfl, by show (8388671 + x0.toNat * 128 + x1.toNat * 4096 + x2.toNat * 131072 + x3.toNat * 134217728 + x4.toNat * 536870912 + x5.toNat * 67108864) % 2 = 1; omega, by show 8388671 + x0.toNat * 128 + x1.toNat * 4096 + x2.toNat * 131072 + x3.toNat * 134217728 + x4.toNat * 536870912 + x5.toNat * 67108864 < 4294967296; omega⟩
theorem vfma : ∀ x0 x1 x2 x3 x4 x5, Statement (Instr.vfma x0 x1 x2 x3 x4 x5) :=
  fun x0 x1 x2 x3 x4 x5 => .inl ⟨rfl, by show (12582975 + x0.toNat * 128 + x1.toNat * 4096 + x2.toNat * 131072 + x3.toNat * 134217728 + x4.toNat * 536870912 + x5.toNat * 67108864) % 2 = 1; omega, by show 12582975 + x0.toNat * 128 + x1.toNat * 4096 + x2.toNat * 131072 + x3.toNat * 134217728 + x4.toNat * 536870912 + x5.toNat * 67108864 < 4294967296; omega⟩
theorem vfms : ∀ x0 x1 x2 x3 x4 x5, Statement (Instr.vfms x0 x1 x2 x3 x4 x5) :=
  fun x0 x1 x2 x3 x4 x5 => .inl ⟨rfl, by show (16777279 + x0.toNat * 128 + x1.toNat * 4096 + x2.toNat * 131072 + x3.toNat * 134217728 + x4.toNat * 536870912 + x5.toNat * 67108864) % 2 = 1; omega, by show 16777279 + x0.toNat * 128 + x1.toNat * 4096 + x2.toNat * 131072 + x3.toNat * 134217728 + x4.toNat * 536870912 + x5.toNat * 67108864 < 4294967296; omega⟩
theorem vdiv : ∀ x0 x1 x2 x3 x4 x5, Statement (Instr.vdiv x0 x1 x2 x3 x4 x5) :=
  fun x0 x1 x2 x3 x4 x5 => .inl ⟨rfl, by show (20971583 + x0.toNat * 128 + x1.toNat * 4096 + x2.toNat * 131072 + x3.toNat * 134217728 + x4.toNat * 536870912 + x5.toNat * 67108864) % 2 = 1; omega, by show 20971583 + x0.toNat * 128 + x1.toNat * 4096 + x2.toNat * 131072 + x3.toNat * 134217728 + x4.toNat * 536870912 + x5.toNat * 67108864 < 4294967296; omega⟩
theorem vmin : ∀ x0 x1 x2 x3 x4 x5, Statement (Instr.vmin x0 x1 x2 x3 x4 x5) :=
  fun x0 x1 x2 x3 x4 x5 => .inl ⟨rfl, by show (25165887 + x0.toNat * 128 + x1.toNat * 4096 + x2.toNat * 131072 + x3.toNat * 134217728 + x4.toNat * 536870912 + x5.toNat * 67108864) % 2 = 1; omega, by show 25165887 + x0.toNat * 128 + x1.toNat * 4096 + x2.toNat * 131072 + x3.toNat * 134217728 + x4.toNat * 536870912 + x5.toNat * 67108864 < 4294967296; omega⟩
theorem vmax : ∀ x0 x1 x2 x3 x4 x5, Statement (Instr.vmax x0 x1 x2 x3 x4 x5) :=
  fun x0 x1 x2 x3 x4 x5 => .inl ⟨rfl, by show (29360191 + x0.toNat * 128 + x1.toNat * 4096 + x2.toNat * 131072 + x3.toNat * 134217728 + x4.toNat * 536870912 + x5.toNat * 67108864) % 2 = 1; omega, by show 29360191 + x0.toNat * 128 + x1.toNat * 4096 + x2.toNat * 131072 + x3.toNat * 134217728 + x4.toNat * 536870912 + x5.toNat * 67108864 < 4294967296; omega⟩
theorem vand : ∀ x0 x1 x2 x3 x4 x5, Statement (Instr.vand x0 x1 x2 x3 x4 x5) :=
  fun x0 x1 x2 x3 x4 x5 => .inl ⟨rfl, by show (33554495 + x0.toNat * 128 + x1.toNat * 4096 + x2.toNat * 131072 + x3.toNat * 134217728 + x4.toNat * 536870912 + x5.toNat * 67108864) % 2 = 1; omega, by show 33554495 + x0.toNat * 128 + x1.toNat * 4096 + x2.toNat * 131072 + x3.toNat * 134217728 + x4.toNat * 536870912 + x5.toNat * 67108864 < 4294967296; omega⟩
theorem vor : ∀ x0 x1 x2 x3 x4 x5, Statement (Instr.vor x0 x1 x2 x3 x4 x5) :=
  fun x0 x1 x2 x3 x4 x5 => .inl ⟨rfl, by show (37748799 + x0.toNat * 128 + x1.toNat * 4096 + x2.toNat * 131072 + x3.toNat * 134217728 + x4.toNat * 536870912 + x5.toNat * 67108864) % 2 = 1; omega, by show 37748799 + x0.toNat * 128 + x1.toNat * 4096 + x2.toNat * 131072 + x3.toNat * 134217728 + x4.toNat * 536870912 + x5.toNat * 67108864 < 4294967296; omega⟩
theorem vxor : ∀ x0 x1 x2 x3 x4 x5, Statement (Instr.vxor x0 x1 x2 x3 x4 x5) :=
  fun x0 x1 x2 x3 x4 x5 => .inl ⟨rfl, by show (41943103 + x0.toNat * 128 + x1.toNat * 4096 + x2.toNat * 131072 + x3.toNat * 134217728 + x4.toNat * 536870912 + x5.toNat * 67108864) % 2 = 1; omega, by show 41943103 + x0.toNat * 128 + x1.toNat * 4096 + x2.toNat * 131072 + x3.toNat * 134217728 + x4.toNat * 536870912 + x5.toNat * 67108864 < 4294967296; omega⟩
theorem vshl : ∀ x0 x1 x2 x3 x4 x5, Statement (Instr.vshl x0 x1 x2 x3 x4 x5) :=
  fun x0 x1 x2 x3 x4 x5 => .inl ⟨rfl, by show (46137407 + x0.toNat * 128 + x1.toNat * 4096 + x2.toNat * 131072 + x3.toNat * 134217728 + x4.toNat * 536870912 + x5.toNat * 67108864) % 2 = 1; omega, by show 46137407 + x0.toNat * 128 + x1.toNat * 4096 + x2.toNat * 131072 + x3.toNat * 134217728 + x4.toNat * 536870912 + x5.toNat * 67108864 < 4294967296; omega⟩
theorem vshr : ∀ x0 x1 x2 x3 x4 x5, Statement (Instr.vshr x0 x1 x2 x3 x4 x5) :=
  fun x0 x1 x2 x3 x4 x5 => .inl ⟨rfl, by show (50331711 + x0.toNat * 128 + x1.toNat * 4096 + x2.toNat * 131072 + x3.toNat * 134217728 + x4.toNat * 536870912 + x5.toNat * 67108864) % 2 = 1; omega, by show 50331711 + x0.toNat * 128 + x1.toNat * 4096 + x2.toNat * 131072 + x3.toNat * 134217728 + x4.toNat * 536870912 + x5.toNat * 67108864 < 4294967296; omega⟩
theorem vsar : ∀ x0 x1 x2 x3 x4 x5, Statement (Instr.vsar x0 x1 x2 x3 x4 x5) :=
  fun x0 x1 x2 x3 x4 x5 => .inl ⟨rfl, by show (54526015 + x0.toNat * 128 + x1.toNat * 4096 + x2.toNat * 131072 + x3.toNat * 134217728 + x4.toNat * 536870912 + x5.toNat * 67108864) % 2 = 1; omega, by show 54526015 + x0.toNat * 128 + x1.toNat * 4096 + x2.toNat * 131072 + x3.toNat * 134217728 + x4.toNat * 536870912 + x5.toNat * 67108864 < 4294967296; omega⟩
theorem vcmp : ∀ x0 x1 x2 x3 x4 x5 x6 x7, Statement (Instr.vcmp x0 x1 x2 x3 x4 x5 x6 x7) :=
  fun x0 x1 x2 x3 x4 x5 x6 x7 => .inl ⟨rfl, by show (65 + x0.toNat * 128 + x1.toNat * 4096 + x2.toNat * 131072 + x3.toNat * 4194304 + x4.toNat * 134217728 + x5.toNat * 1073741824 + x6.toNat * 536870912 + x7.toNat * 67108864) % 2 = 1; omega, by show 65 + x0.toNat * 128 + x1.toNat * 4096 + x2.toNat * 131072 + x3.toNat * 4194304 + x4.toNat * 134217728 + x5.toNat * 1073741824 + x6.toNat * 536870912 + x7.toNat * 67108864 < 4294967296; omega⟩
theorem vmov : ∀ x0 x1 x2 x3 x4, Statement (Instr.vmov x0 x1 x2 x3 x4) :=
  fun x0 x1 x2 x3 x4 => .inl ⟨rfl, by show (67 + x0.toNat * 128 + x1.toNat * 4096 + x2.toNat * 134217728 + x3.toNat * 536870912 + x4.toNat * 67108864) % 2 = 1; omega, by show 67 + x0.toNat * 128 + x1.toNat * 4096 + x2.toNat * 134217728 + x3.toNat * 536870912 + x4.toNat * 67108864 < 4294967296; omega⟩
theorem vsel : ∀ x0 x1 x2 x3, Statement (Instr.vsel x0 x1 x2 x3) :=
  fun x0 x1 x2 x3 => .inl ⟨rfl, by show (71303235 + x0.toNat * 128 + x1.toNat * 4096 + x2.toNat * 131072 + x3.toNat * 134217728) % 2 = 1; omega, by show 71303235 + x0.toNat * 128 + x1.toNat * 4096 + x2.toNat * 131072 + x3.toNat * 134217728 < 4294967296; omega⟩
theorem vperm : ∀ x0 x1 x2 x3 x4 x5, Statement (Instr.vperm x0 x1 x2 x3 x4 x5) :=
  fun x0 x1 x2 x3 x4 x5 => .inl ⟨rfl, by show (8388675 + x0.toNat * 128 + x1.toNat * 4096 + x2.toNat * 131072 + x3.toNat * 134217728 + x4.toNat * 536870912 + x5.toNat * 67108864) % 2 = 1; omega, by show 8388675 + x0.toNat * 128 + x1.toNat * 4096 + x2.toNat * 131072 + x3.toNat * 134217728 + x4.toNat * 536870912 + x5.toNat * 67108864 < 4294967296; omega⟩
theorem vslideUp : ∀ x0 x1 x2 x3 x4 x5, Statement (Instr.vslideUp x0 x1 x2 x3 x4 x5) :=
  fun x0 x1 x2 x3 x4 x5 => .inl ⟨rfl, by show (12582979 + x0.toNat * 128 + x1.toNat * 4096 + x2.toNat * 131072 + x3.toNat * 134217728 + x4.toNat * 536870912 + x5.toNat * 67108864) % 2 = 1; omega, by show 12582979 + x0.toNat * 128 + x1.toNat * 4096 + x2.toNat * 131072 + x3.toNat * 134217728 + x4.toNat * 536870912 + x5.toNat * 67108864 < 4294967296; omega⟩
theorem vslideDown : ∀ x0 x1 x2 x3 x4 x5, Statement (Instr.vslideDown x0 x1 x2 x3 x4 x5) :=
  fun x0 x1 x2 x3 x4 x5 => .inl ⟨rfl, by show (1086324803 + x0.toNat * 128 + x1.toNat * 4096 + x2.toNat * 131072 + x3.toNat * 134217728 + x4.toNat * 536870912 + x5.toNat * 67108864) % 2 = 1; omega, by show 1086324803 + x0.toNat * 128 + x1.toNat * 4096 + x2.toNat * 131072 + x3.toNat * 134217728 + x4.toNat * 536870912 + x5.toNat * 67108864 < 4294967296; omega⟩
theorem vsplat : ∀ x0 x1 x2 x3 x4, Statement (Instr.vsplat x0 x1 x2 x3 x4) :=
  fun x0 x1 x2 x3 x4 => .inl ⟨rfl, by show (16777283 + x0.toNat * 128 + x1.toNat * 4096 + x2.toNat * 134217728 + x3.toNat * 536870912 + x4.toNat * 67108864) % 2 = 1; omega, by show 16777283 + x0.toNat * 128 + x1.toNat * 4096 + x2.toNat * 134217728 + x3.toNat * 536870912 + x4.toNat * 67108864 < 4294967296; omega⟩
theorem vidx : ∀ x0 x1 x2 x3 x4, Statement (Instr.vidx x0 x1 x2 x3 x4) :=
  fun x0 x1 x2 x3 x4 => .inl ⟨rfl, by show (20971587 + x0.toNat * 128 + x1.toNat * 134217728 + x2.toNat * 131072 + x3.toNat * 536870912 + x4.toNat * 67108864) % 2 = 1; omega, by show 20971587 + x0.toNat * 128 + x1.toNat * 134217728 + x2.toNat * 131072 + x3.toNat * 536870912 + x4.toNat * 67108864 < 4294967296; omega⟩
theorem vcompress : ∀ x0 x1 x2 x3, Statement (Instr.vcompress x0 x1 x2 x3) :=
  fun x0 x1 x2 x3 => .inl ⟨rfl, by show (92274755 + x0.toNat * 128 + x1.toNat * 4096 + x2.toNat * 134217728 + x3.toNat * 536870912) % 2 = 1; omega, by show 92274755 + x0.toNat * 128 + x1.toNat * 4096 + x2.toNat * 134217728 + x3.toNat * 536870912 < 4294967296; omega⟩
theorem vpopm : ∀ x0 x1, Statement (Instr.vpopm x0 x1) :=
  fun x0 x1 => .inl ⟨rfl, by show (29360195 + x0.toNat * 128 + x1.toNat * 4096) % 2 = 1; omega, by show 29360195 + x0.toNat * 128 + x1.toNat * 4096 < 4294967296; omega⟩
theorem vrcp : ∀ x0 x1 x2 x3 x4 x5, Statement (Instr.vrcp x0 x1 x2 x3 x4 x5) :=
  fun x0 x1 x2 x3 x4 x5 => .inl ⟨rfl, by show (69 + x0.toNat * 128 + x1.toNat * 4096 + x2.toNat * 67108864 + x3.toNat * 268435456 + x4.toNat * 33554432 + x5.toNat * 131072) % 2 = 1; omega, by show 69 + x0.toNat * 128 + x1.toNat * 4096 + x2.toNat * 67108864 + x3.toNat * 268435456 + x4.toNat * 33554432 + x5.toNat * 131072 < 4294967296; omega⟩
theorem vrsq : ∀ x0 x1 x2 x3 x4 x5, Statement (Instr.vrsq x0 x1 x2 x3 x4 x5) :=
  fun x0 x1 x2 x3 x4 x5 => .inl ⟨rfl, by show (2097221 + x0.toNat * 128 + x1.toNat * 4096 + x2.toNat * 67108864 + x3.toNat * 268435456 + x4.toNat * 33554432 + x5.toNat * 131072) % 2 = 1; omega, by show 2097221 + x0.toNat * 128 + x1.toNat * 4096 + x2.toNat * 67108864 + x3.toNat * 268435456 + x4.toNat * 33554432 + x5.toNat * 131072 < 4294967296; omega⟩
theorem vsqrt : ∀ x0 x1 x2 x3 x4 x5, Statement (Instr.vsqrt x0 x1 x2 x3 x4 x5) :=
  fun x0 x1 x2 x3 x4 x5 => .inl ⟨rfl, by show (4194373 + x0.toNat * 128 + x1.toNat * 4096 + x2.toNat * 67108864 + x3.toNat * 268435456 + x4.toNat * 33554432 + x5.toNat * 131072) % 2 = 1; omega, by show 4194373 + x0.toNat * 128 + x1.toNat * 4096 + x2.toNat * 67108864 + x3.toNat * 268435456 + x4.toNat * 33554432 + x5.toNat * 131072 < 4294967296; omega⟩
theorem vexp2 : ∀ x0 x1 x2 x3 x4 x5, Statement (Instr.vexp2 x0 x1 x2 x3 x4 x5) :=
  fun x0 x1 x2 x3 x4 x5 => .inl ⟨rfl, by show (6291525 + x0.toNat * 128 + x1.toNat * 4096 + x2.toNat * 67108864 + x3.toNat * 268435456 + x4.toNat * 33554432 + x5.toNat * 131072) % 2 = 1; omega, by show 6291525 + x0.toNat * 128 + x1.toNat * 4096 + x2.toNat * 67108864 + x3.toNat * 268435456 + x4.toNat * 33554432 + x5.toNat * 131072 < 4294967296; omega⟩
theorem vlog2 : ∀ x0 x1 x2 x3 x4 x5, Statement (Instr.vlog2 x0 x1 x2 x3 x4 x5) :=
  fun x0 x1 x2 x3 x4 x5 => .inl ⟨rfl, by show (8388677 + x0.toNat * 128 + x1.toNat * 4096 + x2.toNat * 67108864 + x3.toNat * 268435456 + x4.toNat * 33554432 + x5.toNat * 131072) % 2 = 1; omega, by show 8388677 + x0.toNat * 128 + x1.toNat * 4096 + x2.toNat * 67108864 + x3.toNat * 268435456 + x4.toNat * 33554432 + x5.toNat * 131072 < 4294967296; omega⟩
theorem vtanh : ∀ x0 x1 x2 x3 x4 x5, Statement (Instr.vtanh x0 x1 x2 x3 x4 x5) :=
  fun x0 x1 x2 x3 x4 x5 => .inl ⟨rfl, by show (10485829 + x0.toNat * 128 + x1.toNat * 4096 + x2.toNat * 67108864 + x3.toNat * 268435456 + x4.toNat * 33554432 + x5.toNat * 131072) % 2 = 1; omega, by show 10485829 + x0.toNat * 128 + x1.toNat * 4096 + x2.toNat * 67108864 + x3.toNat * 268435456 + x4.toNat * 33554432 + x5.toNat * 131072 < 4294967296; omega⟩
theorem vsigm : ∀ x0 x1 x2 x3 x4 x5, Statement (Instr.vsigm x0 x1 x2 x3 x4 x5) :=
  fun x0 x1 x2 x3 x4 x5 => .inl ⟨rfl, by show (12582981 + x0.toNat * 128 + x1.toNat * 4096 + x2.toNat * 67108864 + x3.toNat * 268435456 + x4.toNat * 33554432 + x5.toNat * 131072) % 2 = 1; omega, by show 12582981 + x0.toNat * 128 + x1.toNat * 4096 + x2.toNat * 67108864 + x3.toNat * 268435456 + x4.toNat * 33554432 + x5.toNat * 131072 < 4294967296; omega⟩
theorem vcvt : ∀ x0 x1 x2 x3 x4 x5 x6, Statement (Instr.vcvt x0 x1 x2 x3 x4 x5 x6) :=
  fun x0 x1 x2 x3 x4 x5 x6 => .inl ⟨rfl, by show (71 + x0.toNat * 128 + x1.toNat * 4096 + x2.toNat * 67108864 + x3.toNat * 2097152 + x4.toNat * 268435456 + x5.toNat * 33554432 + x6.toNat * 131072) % 2 = 1; omega, by show 71 + x0.toNat * 128 + x1.toNat * 4096 + x2.toNat * 67108864 + x3.toNat * 2097152 + x4.toNat * 268435456 + x5.toNat * 33554432 + x6.toNat * 131072 < 4294967296; omega⟩
theorem vcvts : ∀ x0 x1 x2 x3 x4 x5 x6, Statement (Instr.vcvts x0 x1 x2 x3 x4 x5 x6) :=
  fun x0 x1 x2 x3 x4 x5 x6 => .inl ⟨rfl, by show (536870983 + x0.toNat * 128 + x1.toNat * 4096 + x2.toNat * 67108864 + x3.toNat * 2097152 + x4.toNat * 268435456 + x5.toNat * 33554432 + x6.toNat * 131072) % 2 = 1; omega, by show 536870983 + x0.toNat * 128 + x1.toNat * 4096 + x2.toNat * 67108864 + x3.toNat * 2097152 + x4.toNat * 268435456 + x5.toNat * 33554432 + x6.toNat * 131072 < 4294967296; omega⟩
theorem vpack : ∀ x0 x1 x2 x3, Statement (Instr.vpack x0 x1 x2 x3) :=
  fun x0 x1 x2 x3 => .inl ⟨rfl, by show (1073741895 + x0.toNat * 128 + x1.toNat * 4096 + x2.toNat * 2097152 + x3.toNat * 131072) % 2 = 1; omega, by show 1073741895 + x0.toNat * 128 + x1.toNat * 4096 + x2.toNat * 2097152 + x3.toNat * 131072 < 4294967296; omega⟩
theorem vunpack : ∀ x0 x1 x2, Statement (Instr.vunpack x0 x1 x2) :=
  fun x0 x1 x2 => .inl ⟨rfl, by show (1623195719 + x0.toNat * 128 + x1.toNat * 4096 + x2.toNat * 131072) % 2 = 1; omega, by show 1623195719 + x0.toNat * 128 + x1.toNat * 4096 + x2.toNat * 131072 < 4294967296; omega⟩
theorem vredadd : ∀ x0 x1 x2 x3 x4 x5 x6, Statement (Instr.vredadd x0 x1 x2 x3 x4 x5 x6) :=
  fun x0 x1 x2 x3 x4 x5 x6 => .inl ⟨rfl, by show (73 + x0.toNat * 128 + x1.toNat * 4096 + x2.toNat * 67108864 + x3.toNat * 536870912 + x4.toNat * 268435456 + x5.toNat * 33554432 + x6.toNat * 131072) % 2 = 1; omega, by show 73 + x0.toNat * 128 + x1.toNat * 4096 + x2.toNat * 67108864 + x3.toNat * 536870912 + x4.toNat * 268435456 + x5.toNat * 33554432 + x6.toNat * 131072 < 4294967296; omega⟩
theorem vredmax : ∀ x0 x1 x2 x3 x4 x5 x6, Statement (Instr.vredmax x0 x1 x2 x3 x4 x5 x6) :=
  fun x0 x1 x2 x3 x4 x5 x6 => .inl ⟨rfl, by show (2097225 + x0.toNat * 128 + x1.toNat * 4096 + x2.toNat * 67108864 + x3.toNat * 536870912 + x4.toNat * 268435456 + x5.toNat * 33554432 + x6.toNat * 131072) % 2 = 1; omega, by show 2097225 + x0.toNat * 128 + x1.toNat * 4096 + x2.toNat * 67108864 + x3.toNat * 536870912 + x4.toNat * 268435456 + x5.toNat * 33554432 + x6.toNat * 131072 < 4294967296; omega⟩
theorem vredmin : ∀ x0 x1 x2 x3 x4 x5 x6, Statement (Instr.vredmin x0 x1 x2 x3 x4 x5 x6) :=
  fun x0 x1 x2 x3 x4 x5 x6 => .inl ⟨rfl, by show (4194377 + x0.toNat * 128 + x1.toNat * 4096 + x2.toNat * 67108864 + x3.toNat * 536870912 + x4.toNat * 268435456 + x5.toNat * 33554432 + x6.toNat * 131072) % 2 = 1; omega, by show 4194377 + x0.toNat * 128 + x1.toNat * 4096 + x2.toNat * 67108864 + x3.toNat * 536870912 + x4.toNat * 268435456 + x5.toNat * 33554432 + x6.toNat * 131072 < 4294967296; omega⟩
theorem vredq : ∀ x0 x1 x2 x3 x4, Statement (Instr.vredq x0 x1 x2 x3 x4) :=
  fun x0 x1 x2 x3 x4 => .inl ⟨rfl, by show (6291529 + x0.toNat * 128 + x1.toNat * 4096 + x2.toNat * 33554432 + x3.toNat * 536870912 + x4.toNat * 131072) % 2 = 1; omega, by show 6291529 + x0.toNat * 128 + x1.toNat * 4096 + x2.toNat * 33554432 + x3.toNat * 536870912 + x4.toNat * 131072 < 4294967296; omega⟩
theorem vrng : ∀ x0 x1 x2 x3 x4 x5, Statement (Instr.vrng x0 x1 x2 x3 x4 x5) :=
  fun x0 x1 x2 x3 x4 x5 => .inl ⟨rfl, by show (75 + x0.toNat * 128 + x1.toNat * 4096 + x2.toNat * 134217728 + x3.toNat * 131072 + x4.toNat * 536870912 + x5.toNat * 67108864) % 2 = 1; omega, by show 75 + x0.toNat * 128 + x1.toNat * 4096 + x2.toNat * 134217728 + x3.toNat * 131072 + x4.toNat * 536870912 + x5.toNat * 67108864 < 4294967296; omega⟩
theorem vpivot : ∀ x0 x1 x2 x3 x4, Statement (Instr.vpivot x0 x1 x2 x3 x4) :=
  fun x0 x1 x2 x3 x4 => .inl ⟨rfl, by show (77 + x0.toNat * 128 + x1.toNat * 4096 + x2.toNat * 131072 + x3.toNat * 134217728 + x4.toNat * 67108864) % 2 = 1; omega, by show 77 + x0.toNat * 128 + x1.toNat * 4096 + x2.toNat * 131072 + x3.toNat * 134217728 + x4.toNat * 67108864 < 4294967296; omega⟩
theorem vpivotR : ∀ x0 x1 x2 x3 x4, Statement (Instr.vpivotR x0 x1 x2 x3 x4) :=
  fun x0 x1 x2 x3 x4 => .inl ⟨rfl, by show (1073741901 + x0.toNat * 128 + x1.toNat * 4096 + x2.toNat * 131072 + x3.toNat * 134217728 + x4.toNat * 67108864) % 2 = 1; omega, by show 1073741901 + x0.toNat * 128 + x1.toNat * 4096 + x2.toNat * 131072 + x3.toNat * 134217728 + x4.toNat * 67108864 < 4294967296; omega⟩
theorem velim : ∀ x0 x1 x2 x3 x4 x5, Statement (Instr.velim x0 x1 x2 x3 x4 x5) :=
  fun x0 x1 x2 x3 x4 x5 => .inl ⟨rfl, by show (4194381 + x0.toNat * 128 + x1.toNat * 4096 + x2.toNat * 131072 + x3.toNat * 134217728 + x4.toNat * 536870912 + x5.toNat * 67108864) % 2 = 1; omega, by show 4194381 + x0.toNat * 128 + x1.toNat * 4096 + x2.toNat * 131072 + x3.toNat * 134217728 + x4.toNat * 536870912 + x5.toNat * 67108864 < 4294967296; omega⟩
theorem vreg : ∀ x0 x1 x2, Statement (Instr.vreg x0 x1 x2) :=
  fun x0 x1 x2 => .inl ⟨rfl, by show (8388685 + x0.toNat * 128 + x1.toNat * 4096 + x2.toNat * 131072) % 2 = 1; omega, by show 8388685 + x0.toNat * 128 + x1.toNat * 4096 + x2.toNat * 131072 < 4294967296; omega⟩
theorem mmacVv : ∀ x0 x1 x2 x3 x4 x5, Statement (Instr.mmacVv x0 x1 x2 x3 x4 x5) :=
  fun x0 x1 x2 x3 x4 x5 => .inl ⟨rfl, by show (79 + x0.toNat * 128 + x1.toNat * 4096 + x2.toNat * 131072 + x3.toNat * 536870912 + x4.toNat * 67108864 + x5.toNat * 4194304) % 2 = 1; omega, by show 79 + x0.toNat * 128 + x1.toNat * 4096 + x2.toNat * 131072 + x3.toNat * 536870912 + x4.toNat * 67108864 + x5.toNat * 4194304 < 4294967296; omega⟩
theorem mmacSv : ∀ x0 x1 x2 x3 x4 x5, Statement (Instr.mmacSv x0 x1 x2 x3 x4 x5) :=
  fun x0 x1 x2 x3 x4 x5 => .inl ⟨rfl, by show (81 + x0.toNat * 128 + x1.toNat * 4096 + x2.toNat * 131072 + x3.toNat * 536870912 + x4.toNat * 67108864 + x5.toNat * 4194304) % 2 = 1; omega, by show 81 + x0.toNat * 128 + x1.toNat * 4096 + x2.toNat * 131072 + x3.toNat * 536870912 + x4.toNat * 67108864 + x5.toNat * 4194304 < 4294967296; omega⟩
theorem mmacVs : ∀ x0 x1 x2 x3 x4 x5, Statement (Instr.mmacVs x0 x1 x2 x3 x4 x5) :=
  fun x0 x1 x2 x3 x4 x5 => .inl ⟨rfl, by show (83 + x0.toNat * 128 + x1.toNat * 4096 + x2.toNat * 131072 + x3.toNat * 536870912 + x4.toNat * 67108864 + x5.toNat * 4194304) % 2 = 1; omega, by show 83 + x0.toNat * 128 + x1.toNat * 4096 + x2.toNat * 131072 + x3.toNat * 536870912 + x4.toNat * 67108864 + x5.toNat * 4194304 < 4294967296; omega⟩
theorem mmacSs : ∀ x0 x1 x2 x3 x4 x5, Statement (Instr.mmacSs x0 x1 x2 x3 x4 x5) :=
  fun x0 x1 x2 x3 x4 x5 => .inl ⟨rfl, by show (85 + x0.toNat * 128 + x1.toNat * 4096 + x2.toNat * 131072 + x3.toNat * 536870912 + x4.toNat * 67108864 + x5.toNat * 4194304) % 2 = 1; omega, by show 85 + x0.toNat * 128 + x1.toNat * 4096 + x2.toNat * 131072 + x3.toNat * 536870912 + x4.toNat * 67108864 + x5.toNat * 4194304 < 4294967296; omega⟩
theorem mzero : ∀ x0 x1, Statement (Instr.mzero x0 x1) :=
  fun x0 x1 => .inl ⟨rfl, by show (87 + x0.toNat * 128 + x1.toNat * 4194304) % 2 = 1; omega, by show 87 + x0.toNat * 128 + x1.toNat * 4194304 < 4294967296; omega⟩
theorem mload : ∀ x0 x1 x2, Statement (Instr.mload x0 x1 x2) :=
  fun x0 x1 x2 => .inl ⟨rfl, by show (67108951 + x0.toNat * 128 + x1.toNat * 4096 + x2.toNat * 4194304) % 2 = 1; omega, by show 67108951 + x0.toNat * 128 + x1.toNat * 4096 + x2.toNat * 4194304 < 4294967296; omega⟩
theorem mstore : ∀ x0 x1 x2, Statement (Instr.mstore x0 x1 x2) :=
  fun x0 x1 x2 => .inl ⟨rfl, by show (134217815 + x0.toNat * 128 + x1.toNat * 4096 + x2.toNat * 4194304) % 2 = 1; omega, by show 134217815 + x0.toNat * 128 + x1.toNat * 4096 + x2.toNat * 4194304 < 4294967296; omega⟩
theorem mdrain : ∀ x0 x1 x2 x3, Statement (Instr.mdrain x0 x1 x2 x3) :=
  fun x0 x1 x2 x3 => .inl ⟨rfl, by show (201326679 + x0.toNat * 128 + x1.toNat * 4096 + x2.toNat * 131072 + x3.toNat * 4194304) % 2 = 1; omega, by show 201326679 + x0.toNat * 128 + x1.toNat * 4096 + x2.toNat * 131072 + x3.toNat * 4194304 < 4294967296; omega⟩
theorem mpin : ∀ x0 x1 x2, Statement (Instr.mpin x0 x1 x2) :=
  fun x0 x1 x2 => .inl ⟨rfl, by show (335544407 + x0.toNat * 128 + x1.toNat * 4096 + x2.toNat * 131072) % 2 = 1; omega, by show 335544407 + x0.toNat * 128 + x1.toNat * 4096 + x2.toNat * 131072 < 4294967296; omega⟩
theorem mfree : ∀ x0, Statement (Instr.mfree x0) :=
  fun x0 => .inl ⟨rfl, by show (402653271 + x0.toNat * 128) % 2 = 1; omega, by show 402653271 + x0.toNat * 128 < 4294967296; omega⟩
theorem mspill : ∀ x0 x1, Statement (Instr.mspill x0 x1) :=
  fun x0 x1 => .inl ⟨rfl, by show (469762135 + x0.toNat * 128 + x1.toNat * 4194304) % 2 = 1; omega, by show 469762135 + x0.toNat * 128 + x1.toNat * 4194304 < 4294967296; omega⟩
theorem mfill : ∀ x0 x1, Statement (Instr.mfill x0 x1) :=
  fun x0 x1 => .inl ⟨rfl, by show (536870999 + x0.toNat * 128 + x1.toNat * 4194304) % 2 = 1; omega, by show 536870999 + x0.toNat * 128 + x1.toNat * 4194304 < 4294967296; omega⟩
theorem mown : ∀ x0 x1 x2, Statement (Instr.mown x0 x1 x2) :=
  fun x0 x1 x2 => .inl ⟨rfl, by show (603979863 + x0.toNat * 128 + x1.toNat * 4096 + x2.toNat * 4194304) % 2 = 1; omega, by show 603979863 + x0.toNat * 128 + x1.toNat * 4096 + x2.toNat * 4194304 < 4294967296; omega⟩
theorem fwdelta : ∀ x0 x1 x2 x3 x4, Statement (Instr.fwdelta x0 x1 x2 x3 x4) :=
  fun x0 x1 x2 x3 x4 => .inl ⟨rfl, by show (89 + x0.toNat * 128 + x1.toNat * 4096 + x2.toNat * 131072 + x3.toNat * 67108864 + x4.toNat * 4194304) % 2 = 1; omega, by show 89 + x0.toNat * 128 + x1.toNat * 4096 + x2.toNat * 131072 + x3.toNat * 67108864 + x4.toNat * 4194304 < 4294967296; omega⟩
theorem fwchunk : ∀ x0 x1 x2, Statement (Instr.fwchunk x0 x1 x2) :=
  fun x0 x1 x2 => .inl ⟨rfl, by show (2147483737 + x0.toNat * 128 + x1.toNat * 67108864 + x2.toNat * 4194304) % 2 = 1; omega, by show 2147483737 + x0.toNat * 128 + x1.toNat * 67108864 + x2.toNat * 4194304 < 4294967296; omega⟩
theorem fwread : ∀ x0 x1 x2, Statement (Instr.fwread x0 x1 x2) :=
  fun x0 x1 x2 => .inl ⟨rfl, by show (2684354649 + x0.toNat * 128 + x1.toNat * 4096 + x2.toNat * 4194304) % 2 = 1; omega, by show 2684354649 + x0.toNat * 128 + x1.toNat * 4096 + x2.toNat * 4194304 < 4294967296; omega⟩
theorem vaddH : ∀ x0 x1 x2, Statement (Instr.vaddH x0 x1 x2) :=
  fun x0 x1 x2 => .inr (.inl ⟨rfl, by show (0 + x0.toNat * 32 + x1.toNat * 1024 + x2.toNat * 32768) % 2 = 0; omega, by show 0 + x0.toNat * 32 + x1.toNat * 1024 + x2.toNat * 32768 < 65536; omega⟩)
theorem vsubH : ∀ x0 x1 x2, Statement (Instr.vsubH x0 x1 x2) :=
  fun x0 x1 x2 => .inr (.inl ⟨rfl, by show (2 + x0.toNat * 32 + x1.toNat * 1024 + x2.toNat * 32768) % 2 = 0; omega, by show 2 + x0.toNat * 32 + x1.toNat * 1024 + x2.toNat * 32768 < 65536; omega⟩)
theorem vmulH : ∀ x0 x1 x2, Statement (Instr.vmulH x0 x1 x2) :=
  fun x0 x1 x2 => .inr (.inl ⟨rfl, by show (4 + x0.toNat * 32 + x1.toNat * 1024 + x2.toNat * 32768) % 2 = 0; omega, by show 4 + x0.toNat * 32 + x1.toNat * 1024 + x2.toNat * 32768 < 65536; omega⟩)
theorem vminH : ∀ x0 x1 x2, Statement (Instr.vminH x0 x1 x2) :=
  fun x0 x1 x2 => .inr (.inl ⟨rfl, by show (6 + x0.toNat * 32 + x1.toNat * 1024 + x2.toNat * 32768) % 2 = 0; omega, by show 6 + x0.toNat * 32 + x1.toNat * 1024 + x2.toNat * 32768 < 65536; omega⟩)
theorem vmaxH : ∀ x0 x1 x2, Statement (Instr.vmaxH x0 x1 x2) :=
  fun x0 x1 x2 => .inr (.inl ⟨rfl, by show (8 + x0.toNat * 32 + x1.toNat * 1024 + x2.toNat * 32768) % 2 = 0; omega, by show 8 + x0.toNat * 32 + x1.toNat * 1024 + x2.toNat * 32768 < 65536; omega⟩)
theorem vandH : ∀ x0 x1 x2, Statement (Instr.vandH x0 x1 x2) :=
  fun x0 x1 x2 => .inr (.inl ⟨rfl, by show (10 + x0.toNat * 32 + x1.toNat * 1024 + x2.toNat * 32768) % 2 = 0; omega, by show 10 + x0.toNat * 32 + x1.toNat * 1024 + x2.toNat * 32768 < 65536; omega⟩)
theorem vorH : ∀ x0 x1 x2, Statement (Instr.vorH x0 x1 x2) :=
  fun x0 x1 x2 => .inr (.inl ⟨rfl, by show (12 + x0.toNat * 32 + x1.toNat * 1024 + x2.toNat * 32768) % 2 = 0; omega, by show 12 + x0.toNat * 32 + x1.toNat * 1024 + x2.toNat * 32768 < 65536; omega⟩)
theorem vxorH : ∀ x0 x1 x2, Statement (Instr.vxorH x0 x1 x2) :=
  fun x0 x1 x2 => .inr (.inl ⟨rfl, by show (14 + x0.toNat * 32 + x1.toNat * 1024 + x2.toNat * 32768) % 2 = 0; omega, by show 14 + x0.toNat * 32 + x1.toNat * 1024 + x2.toNat * 32768 < 65536; omega⟩)
theorem vmovH : ∀ x0 x1 x2, Statement (Instr.vmovH x0 x1 x2) :=
  fun x0 x1 x2 => .inr (.inl ⟨rfl, by show (16 + x0.toNat * 32 + x1.toNat * 1024 + x2.toNat * 32768) % 2 = 0; omega, by show 16 + x0.toNat * 32 + x1.toNat * 1024 + x2.toNat * 32768 < 65536; omega⟩)
theorem vneg : ∀ x0 x1 x2, Statement (Instr.vneg x0 x1 x2) :=
  fun x0 x1 x2 => .inr (.inl ⟨rfl, by show (18 + x0.toNat * 32 + x1.toNat * 1024 + x2.toNat * 32768) % 2 = 0; omega, by show 18 + x0.toNat * 32 + x1.toNat * 1024 + x2.toNat * 32768 < 65536; omega⟩)
theorem vabs : ∀ x0 x1 x2, Statement (Instr.vabs x0 x1 x2) :=
  fun x0 x1 x2 => .inr (.inl ⟨rfl, by show (20 + x0.toNat * 32 + x1.toNat * 1024 + x2.toNat * 32768) % 2 = 0; omega, by show 20 + x0.toNat * 32 + x1.toNat * 1024 + x2.toNat * 32768 < 65536; omega⟩)
theorem vselH : ∀ x0 x1, Statement (Instr.vselH x0 x1) :=
  fun x0 x1 => .inr (.inl ⟨rfl, by show (22 + x0.toNat * 32 + x1.toNat * 1024) % 2 = 0; omega, by show 22 + x0.toNat * 32 + x1.toNat * 1024 < 65536; omega⟩)
theorem vrelu : ∀ x0 x1 x2, Statement (Instr.vrelu x0 x1 x2) :=
  fun x0 x1 x2 => .inr (.inl ⟨rfl, by show (24 + x0.toNat * 32 + x1.toNat * 1024 + x2.toNat * 32768) % 2 = 0; omega, by show 24 + x0.toNat * 32 + x1.toNat * 1024 + x2.toNat * 32768 < 65536; omega⟩)
theorem vrsub : ∀ x0 x1 x2, Statement (Instr.vrsub x0 x1 x2) :=
  fun x0 x1 x2 => .inr (.inl ⟨rfl, by show (26 + x0.toNat * 32 + x1.toNat * 1024 + x2.toNat * 32768) % 2 = 0; omega, by show 26 + x0.toNat * 32 + x1.toNat * 1024 + x2.toNat * 32768 < 65536; omega⟩)
theorem vzero : ∀ x0 x1 x2, Statement (Instr.vzero x0 x1 x2) :=
  fun x0 x1 x2 => .inr (.inl ⟨rfl, by show (28 + x0.toNat * 32 + x1.toNat * 1024 + x2.toNat * 32768) % 2 = 0; omega, by show 28 + x0.toNat * 32 + x1.toNat * 1024 + x2.toNat * 32768 < 65536; omega⟩)
theorem vswap : ∀ x0 x1, Statement (Instr.vswap x0 x1) :=
  fun x0 x1 => .inr (.inl ⟨rfl, by show (30 + x0.toNat * 32 + x1.toNat * 1024) % 2 = 0; omega, by show 30 + x0.toNat * 32 + x1.toNat * 1024 < 65536; omega⟩)
theorem illegalInstruction : ∀ x0, Statement (Instr.illegalInstruction x0) := fun _ => .inr (.inr ⟨rfl, rfl⟩)
theorem fetchProtectionFault : ∀ x0, Statement (Instr.fetchProtectionFault x0) := fun _ => .inr (.inr ⟨rfl, rfl⟩)
theorem notifyWrite : ∀ x0 x1 x2 x3, Statement (Instr.notifyWrite x0 x1 x2 x3) := fun _ _ _ _ => .inr (.inr ⟨rfl, rfl⟩)
theorem slotRead : ∀ x0 x1, Statement (Instr.slotRead x0 x1) := fun _ _ => .inr (.inr ⟨rfl, rfl⟩)
theorem staleSlotReread : ∀ x0 x1, Statement (Instr.staleSlotReread x0 x1) := fun _ _ => .inr (.inr ⟨rfl, rfl⟩)
theorem launch : ∀ x0 x1 x2, Statement (Instr.launch x0 x1 x2) := fun _ _ _ => .inr (.inr ⟨rfl, rfl⟩)
theorem front : ∀ x0 x1 x2, Statement (Instr.front x0 x1 x2) := fun _ _ _ => .inr (.inr ⟨rfl, rfl⟩)
theorem marker : ∀ x0 x1, Statement (Instr.marker x0 x1) := fun _ _ => .inr (.inr ⟨rfl, rfl⟩)
theorem queueEnable : ∀ x0 x1, Statement (Instr.queueEnable x0 x1) := fun _ _ => .inr (.inr ⟨rfl, rfl⟩)
theorem queueDisable : ∀ x0 x1, Statement (Instr.queueDisable x0 x1) := fun _ _ => .inr (.inr ⟨rfl, rfl⟩)
theorem queueAck : ∀ x0 x1 x2, Statement (Instr.queueAck x0 x1 x2) := fun _ _ _ => .inr (.inr ⟨rfl, rfl⟩)
theorem seedWrite : ∀ x0 x1, Statement (Instr.seedWrite x0 x1) := fun _ _ => .inr (.inr ⟨rfl, rfl⟩)
theorem contextSave : ∀ x0, Statement (Instr.contextSave x0) := fun _ => .inr (.inr ⟨rfl, rfl⟩)
theorem teamResume : ∀ x0 x1 x2 x3, Statement (Instr.teamResume x0 x1 x2 x3) := fun _ _ _ _ => .inr (.inr ⟨rfl, rfl⟩)
theorem commandComplete : ∀ x0 x1 x2, Statement (Instr.commandComplete x0 x1 x2) := fun _ _ _ => .inr (.inr ⟨rfl, rfl⟩)
theorem levelDispatch : ∀ x0 x1, Statement (Instr.levelDispatch x0 x1) := fun _ _ => .inr (.inr ⟨rfl, rfl⟩)
theorem commitArrival : ∀ x0 x1, Statement (Instr.commitArrival x0 x1) := fun _ _ => .inr (.inr ⟨rfl, rfl⟩)
theorem stall : ∀ x0 x1 x2, Statement (Instr.stall x0 x1 x2) := fun _ _ _ => .inr (.inr ⟨rfl, rfl⟩)
theorem lvRecordStage : ∀ x0, Statement (Instr.lvRecordStage x0) := fun _ => .inr (.inr ⟨rfl, rfl⟩)
theorem streamDeadlock : ∀ x0, Statement (Instr.streamDeadlock x0) := fun _ => .inr (.inr ⟨rfl, rfl⟩)
theorem longOpComplete : ∀ x0 x1 x2 x3, Statement (Instr.longOpComplete x0 x1 x2 x3) := fun _ _ _ _ => .inr (.inr ⟨rfl, rfl⟩)
theorem storeRefusal : ∀ x0 x1, Statement (Instr.storeRefusal x0 x1) := fun _ _ => .inr (.inr ⟨rfl, rfl⟩)
theorem storeAck : ∀ x0 x1, Statement (Instr.storeAck x0 x1) := fun _ _ => .inr (.inr ⟨rfl, rfl⟩)
theorem queueEntryFill : ∀ x0 x1, Statement (Instr.queueEntryFill x0 x1) := fun _ _ => .inr (.inr ⟨rfl, rfl⟩)
theorem pageFaultPark : ∀ x0 x1 x2, Statement (Instr.pageFaultPark x0 x1 x2) := fun _ _ _ => .inr (.inr ⟨rfl, rfl⟩)
theorem fbHeadWrite : ∀ x0, Statement (Instr.fbHeadWrite x0) := fun _ => .inr (.inr ⟨rfl, rfl⟩)
theorem ttInval : ∀ x0, Statement (Instr.ttInval x0) := fun _ => .inr (.inr ⟨rfl, rfl⟩)
theorem copyJobComplete : ∀ x0 x1 x2, Statement (Instr.copyJobComplete x0 x1 x2) := fun _ _ _ => .inr (.inr ⟨rfl, rfl⟩)
theorem copyJobFaultEnd : ∀ x0 x1, Statement (Instr.copyJobFaultEnd x0 x1) := fun _ _ => .inr (.inr ⟨rfl, rfl⟩)
theorem barrierReturn : ∀ x0, Statement (Instr.barrierReturn x0) := fun _ => .inr (.inr ⟨rfl, rfl⟩)
theorem homeSliceServe : ∀ x0 x1, Statement (Instr.homeSliceServe x0 x1) := fun _ _ => .inr (.inr ⟨rfl, rfl⟩)
theorem clusterAtomicServe : ∀ x0 x1, Statement (Instr.clusterAtomicServe x0 x1) := fun _ _ => .inr (.inr ⟨rfl, rfl⟩)
theorem fullEmptyWake : ∀ x0 x1, Statement (Instr.fullEmptyWake x0 x1) := fun _ _ => .inr (.inr ⟨rfl, rfl⟩)
theorem tileReadyResume : ∀ x0 x1, Statement (Instr.tileReadyResume x0 x1) := fun _ _ => .inr (.inr ⟨rfl, rfl⟩)
theorem gangMeet : ∀ x0, Statement (Instr.gangMeet x0) := fun _ => .inr (.inr ⟨rfl, rfl⟩)
theorem dsyncComplete : ∀ x0, Statement (Instr.dsyncComplete x0) := fun _ => .inr (.inr ⟨rfl, rfl⟩)
theorem remoteDsyncArrival : ∀ x0 x1, Statement (Instr.remoteDsyncArrival x0 x1) := fun _ _ => .inr (.inr ⟨rfl, rfl⟩)
theorem gsyncComplete : ∀ x0, Statement (Instr.gsyncComplete x0) := fun _ => .inr (.inr ⟨rfl, rfl⟩)
theorem waitpReturn : ∀ x0, Statement (Instr.waitpReturn x0) := fun _ => .inr (.inr ⟨rfl, rfl⟩)
theorem partReset : ∀ x0, Statement (Instr.partReset x0) := fun _ => .inr (.inr ⟨rfl, rfl⟩)
theorem purgeComplete : ∀ x0, Statement (Instr.purgeComplete x0) := fun _ => .inr (.inr ⟨rfl, rfl⟩)
theorem rectReturnToService : ∀ x0, Statement (Instr.rectReturnToService x0) := fun _ => .inr (.inr ⟨rfl, rfl⟩)
theorem iftPeriodic : ∀ x0, Statement (Instr.iftPeriodic x0) := fun _ => .inr (.inr ⟨rfl, rfl⟩)
theorem iftNow : ∀ x0, Statement (Instr.iftNow x0) := fun _ => .inr (.inr ⟨rfl, rfl⟩)
theorem iftTestComplete : ∀ x0 x1, Statement (Instr.iftTestComplete x0 x1) := fun _ _ => .inr (.inr ⟨rfl, rfl⟩)
theorem mailboxResponse : ∀ x0, Statement (Instr.mailboxResponse x0) := fun _ => .inr (.inr ⟨rfl, rfl⟩)
theorem powerGood : ∀ x0, Statement (Instr.powerGood x0) := fun _ => .inr (.inr ⟨rfl, rfl⟩)
theorem remoteDomainAccess : ∀ x0, Statement (Instr.remoteDomainAccess x0) := fun _ => .inr (.inr ⟨rfl, rfl⟩)
theorem registerWrite : ∀ x0 x1 x2, Statement (Instr.registerWrite x0 x1 x2) := fun _ _ _ => .inr (.inr ⟨rfl, rfl⟩)
theorem deviceReset : ∀ x0, Statement (Instr.deviceReset x0) := fun _ => .inr (.inr ⟨rfl, rfl⟩)
theorem atomicPromote : ∀ x0 x1, Statement (Instr.atomicPromote x0 x1) := fun _ _ => .inr (.inr ⟨rfl, rfl⟩)
theorem hostLinkDown : ∀ x0, Statement (Instr.hostLinkDown x0) := fun _ => .inr (.inr ⟨rfl, rfl⟩)
theorem powerThrottle : ∀ x0 x1, Statement (Instr.powerThrottle x0 x1) := fun _ _ => .inr (.inr ⟨rfl, rfl⟩)
theorem netPacketPromote : ∀ x0 x1, Statement (Instr.netPacketPromote x0 x1) := fun _ _ => .inr (.inr ⟨rfl, rfl⟩)
theorem replayDiverge : ∀ x0, Statement (Instr.replayDiverge x0) := fun _ => .inr (.inr ⟨rfl, rfl⟩)
theorem hostCxlMemAccess : ∀ x0 x1, Statement (Instr.hostCxlMemAccess x0 x1) := fun _ _ => .inr (.inr ⟨rfl, rfl⟩)
theorem hostCoherenceRequest : ∀ x0 x1, Statement (Instr.hostCoherenceRequest x0 x1) := fun _ _ => .inr (.inr ⟨rfl, rfl⟩)
theorem ngucyLinkDown : ∀ x0, Statement (Instr.ngucyLinkDown x0) := fun _ => .inr (.inr ⟨rfl, rfl⟩)
theorem flitCrcFailure : ∀ x0, Statement (Instr.flitCrcFailure x0) := fun _ => .inr (.inr ⟨rfl, rfl⟩)
theorem ret : Statement (Instr.ret) :=
  .inl ⟨rfl, by show (134217753) % 2 = 1; omega, by show 134217753 < 4294967296; omega⟩
theorem tret : Statement (Instr.tret) :=
  .inl ⟨rfl, by show (4194331) % 2 = 1; omega, by show 4194331 < 4294967296; omega⟩
theorem exit : Statement (Instr.exit) :=
  .inl ⟨rfl, by show (5242907) % 2 = 1; omega, by show 5242907 < 4294967296; omega⟩
theorem nop : Statement (Instr.nop) :=
  .inl ⟨rfl, by show (6291483) % 2 = 1; omega, by show 6291483 < 4294967296; omega⟩
theorem waitp : Statement (Instr.waitp) :=
  .inl ⟨rfl, by show (6291487) % 2 = 1; omega, by show 6291487 < 4294967296; omega⟩
theorem trig : Statement (Instr.trig) :=
  .inl ⟨rfl, by show (7340063) % 2 = 1; omega, by show 7340063 < 4294967296; omega⟩
theorem lvtake : Statement (Instr.lvtake) :=
  .inl ⟨rfl, by show (201326647) % 2 = 1; omega, by show 201326647 < 4294967296; omega⟩
theorem lvret : Statement (Instr.lvret) :=
  .inl ⟨rfl, by show (268435511) % 2 = 1; omega, by show 268435511 < 4294967296; omega⟩
theorem lvcommit : Statement (Instr.lvcommit) :=
  .inl ⟨rfl, by show (402653239) % 2 = 1; omega, by show 402653239 < 4294967296; omega⟩
theorem hret : Statement (Instr.hret) :=
  .inl ⟨rfl, by show (268435543) % 2 = 1; omega, by show 268435543 < 4294967296; omega⟩
theorem lvRecordApply : Statement (Instr.lvRecordApply) := .inr (.inr ⟨rfl, rfl⟩)
theorem replayAll : Statement (Instr.replayAll) := .inr (.inr ⟨rfl, rfl⟩)
theorem ttInvalDone : Statement (Instr.ttInvalDone) := .inr (.inr ⟨rfl, rfl⟩)
theorem getTest : Statement (Instr.getTest) := .inr (.inr ⟨rfl, rfl⟩)
theorem setConfig : Statement (Instr.setConfig) := .inr (.inr ⟨rfl, rfl⟩)
theorem attest : Statement (Instr.attest) := .inr (.inr ⟨rfl, rfl⟩)
theorem getFailrec : Statement (Instr.getFailrec) := .inr (.inr ⟨rfl, rfl⟩)
theorem fwUpdate : Statement (Instr.fwUpdate) := .inr (.inr ⟨rfl, rfl⟩)
theorem thermalTrip : Statement (Instr.thermalTrip) := .inr (.inr ⟨rfl, rfl⟩)

end Sys2Proof.Laws.Encoding
end

