-- ==== Sys2Proof/Tests/Slice0.lean ====
section
/-! SUPPORT. Tests: the checks on ill-formed encodings, one word for every encoded row of the opcode table, single steps with results worked out in the
spec or by hand from its rules, and for every statement states and operands that meet its hypotheses. -/

open Sys2Proof Sys2Proof.Machine Sys2Proof.Safety

set_option Elab.async false

namespace Sys2Proof.Tests

/-! ### States -/

/-- A task of context 1 runs; the A-stream is ready at its first instruction. -/
def sA : State := { State.reset with core := State.reset.core.ready .a }

/-- The same with the C-stream ready. -/
def sC : State := { State.reset with core := State.reset.core.ready .c }

/-- The same with a translation tree and pages behind it, the A-stream ready at `ret`. -/
def mA : State := State.reset.withFetchWord 32 0x08000019

/-- The same with the C-stream ready at a halfword. -/
def mC : State := State.reset.withFetchWord 16 0x9C64

def sup (s : State) : State := s.updCur (fun st => { st with mode := .sup })

def put (n v : Nat) (s : State) : State := s.setG (.ofNat 5 n) (.ofNat 64 v)

def putF (n tag bits : Nat) (s : State) : State := { s with core := s.core.setF n ⟨.ofNat 64 bits, mkFmt tag 0⟩ }

def putV (n tag bits : Nat) (s : State) : State := { s with core := s.core.setV n ⟨.ofNat 512 bits, mkFmt tag 0⟩ }

def putQ (q : Nat) (es : List QEntry) (s : State) : State := { s with core := s.core.setQueue q es }

/-- A filled entry. -/
def entry (tag bits : Nat) : QEntry := ⟨0, true, .ofNat 512 bits, mkFmt tag 0⟩

/-- The state after, when there is one. -/
def after (i : Instr) (s : State) : Option State :=
  match exec i s with
  | .next t => some t
  | _ => none

/-- The state after a second instruction or event. -/
def then_ (o : Option State) (i : Instr) : Option State := o.bind (after i)

/-- The kernel, the command and the queue of the test task. -/
def kern : Kernel := { probeKernel with nga := 5, ngc := 6, nf := 7, nv := 8, safeTab := [⟨0, 0, 0, 0, 0⟩] }

def cmd : Command :=
  { seq := 0, op := .launch, early := false, hostDone := false, irq := false, preempt := false, args := 77, doneRec := 0, prods := [], count := 0,
    seed := 9, ordMode := 0, kernel := some kern, ntask := 1, rectW := 0, rectH := 0, gang := 1, dom := 3, percl := 1, front := none,
    phase := .placed, clusters := [0], held := [0], teamMap := [some 0], places := [0], quads := [0], trigs := [], first := none, wcounts := [],
    slot := none, placedAt := 0, saved := [], arrivals := [], stats := [], wasPlaced := true, accepted := 0, parked := false, firstAt := 0, claim := [], domSet := [] }

def withCmds (cs : List Command) (s : State) : State :=
  s.updQueue 1 0 (fun x => { x with en := true, head := 5, notify := 7, base := 0x1800, cmds := cs })

def withTask (f : Task → Task) (s : State) : State := s.updTask f

/-- Two blocks: 0 at level 3 and 1 at level 5, of two home clusters. -/
def block0 : Block :=
  { Block.empty with level := 3, step := 1, next := 1, valid := 3, ua := 0x1000, uc := 0x1010, rlev := #v[3, 2, 0, 0], raddr := #v[0x100, 0x200, 0, 0] }

def front0 : Front :=
  { target := 9, guarded := false, coreSet := 6, interp := [(0x1000, 0x1010)], rules := [], rulesUsed := [0],
    blocks := [block0, { block0 with level := 5, home := 1, rlev := #v[5, 4, 0, 0] }], known := [[3, 5], [3, 5]], frozen := false,
    stalled := false, freezer := none, abandons := 0 }

/-- An update task of block 0 runs under a front. -/
def update (f : Front) (s : State) : State :=
  withCmds [{ cmd with op := .front, front := some f }] (withTask (fun t => { t with kind := .update 0, step := 1, level := 3 }) s)


def okOf {e a : Type} (x : Except e a) : Option a :=
  match x with
  | .ok v => some v
  | .error _ => none

theorem replicate_empty (n : Nat) {y : QEntry} (q : Nat) (s : State) (h : s.core.queues = Vector.replicate 8 [])
    (hy : y ∈ s.core.getQueue q) : y.id < n := by
  by_cases hq : q < 8 <;> simp [Core.getQueue, h, hq] at hy

/-! ### Ill-formed encodings are refused -/

theorem test_ill_formed :
    (Instr.bcc 1 2 3 6).illFormed = some .reservedCondition ∧ (Instr.vadd 1 2 3 1 0 0).illFormed = some .maskFields
    ∧ (Instr.vadd 1 28 3 0 0 0).illFormed = some .vectorSource ∧ (Instr.vadd 24 2 3 0 0 0).illFormed = some .vectorDest
    ∧ (Instr.qput 4 1).illFormed = some .queueRange ∧ (Instr.fence 6).illFormed = some .scope ∧ (Instr.ldqs 0 1 2 6 6 0).illFormed = some .elementSize
    ∧ (Instr.atomicAdd 1 2 3 0 0 0).illFormed = some .unusedField ∧ (Instr.sysrd 1 6).illFormed = some .systemRegister
    ∧ (Instr.lvget 31 1).illFormed = some .destRange ∧ (Instr.fcvt 1 2 0 0).illFormed = some .targetTag
    ∧ (Instr.vcvts 1 2 0 8 0 1 0).illFormed = some .groupForm ∧ (Instr.mmacVv 0 0 8 3 0 0).illFormed = some .inputFormat
    ∧ (Instr.mmacVv 0 0 8 0 5 0).illFormed = some .promotion ∧ (Instr.mload 0 3 0).illFormed = some .matrixOperand
    ∧ (Instr.mdrain 4 6 4 1).illFormed = some .lookahead ∧ (Instr.vmulH 24 1 0).illFormed = some .halfRegister
    ∧ (Instr.vaddH 0 0 0).illFormed = some .zeroHalfword := by decide +kernel

/-! ### One word for every encoded row -/

/-- The word decodes to the instruction, and the instruction is encoded as the word. -/
def reads (p : Nat × Instr) : Bool :=
  decide (decode (wordBytes p.1) = .ok p.2 (p.2.bits / 8)) && encodeBytes p.2 == (wordBytes p.1).take (p.2.bits / 8)

/-- Words of the table's rows, `add` to `ori`, from the fields that spec/opcode_table.json gives them. -/
def rowWords0 : List (Nat × Instr) :=
  [(0x249281, .add 5 9 18), (0x4249281, .sub 5 9 18), (0xae49281, .mul 5 9 18 11), (0xee49281, .mulh 5 9 18 11), (0x12e49281, .div 5 9 18 11),
   (0x16e49281, .divu 5 9 18 11), (0x1ae49281, .rem 5 9 18 11), (0x1ee49281, .remu 5 9 18 11), (0x20249281, .and 5 9 18),
   (0x24249281, .or 5 9 18), (0x28249281, .xor 5 9 18), (0x2c249281, .shl 5 9 18), (0x30249281, .shr 5 9 18), (0x34249281, .sar 5 9 18),
   (0x38249281, .slt 5 9 18), (0x3c249281, .sltu 5 9 18), (0x40249281, .min 5 9 18), (0x44249281, .max 5 9 18), (0x48009281, .clz 5 9),
   (0x4c009281, .ctz 5 9), (0x50009281, .popc 5 9), (0x56e49281, .gcd 5 9 18 11), (0x80569283, .addi 5 9 16427), (0x80569285, .andi 5 9 16427),
   (0x80569287, .ori 5 9 16427)]

theorem test_decode_rows0 : rowWords0.all reads = true := by decide +kernel

/-- Words of the table's rows, `xori` to `gtol`, from the fields that spec/opcode_table.json gives them. -/
def rowWords1 : List (Nat × Instr) :=
  [(0x80569289, .xori 5 9 16427), (0x24928b, .shli 5 9 18), (0x2024928b, .shri 5 9 18), (0x4024928b, .sari 5 9 18),
   (0x4056928d, .slti 5 9 8235), (0xc056928d, .sltiu 5 9 8235), (0x8002b28f, .lui 5 524331), (0x8002b291, .adpc 5 524331),
   (0x82b69293, .bcc 5 9 2091 3), (0x80001595, .br 16777259), (0x80001597, .call 16777259), (0x5019, .jr 5), (0x4005019, .callr 5),
   (0x8000019, .ret), (0xc0a9019, .qput 5 9), (0x100a0499, .qget 5 9), (0x9580029b, .sysrd 5 299), (0x9590501b, .syswr 5 299),
   (0x95a0001b, .svc 299), (0x95b0001b, .trap 299), (0x40001b, .tret), (0x50001b, .exit), (0x60001b, .nop), (0x95f0001b, .safept 299),
   (0x929d, .gtol 5 9)]

theorem test_decode_rows1 : rowWords1.all reads = true := by decide +kernel

/-- Words of the table's rows, `ltog` to `sts`, from the fields that spec/opcode_table.json gives them. -/
def rowWords2 : List (Nat × Instr) :=
  [(0x424929d, .ltog 5 9 18), (0x800929d, .inap 5 9), (0xc24929d, .teama 5 9 18), (0xa001f, .fence 5), (0x8a001f, .fenceAcq 5),
   (0x10a001f, .fenceRel 5), (0x14549f, .bar 5 9 2), (0x94549f, .barW 5 9 2), (0x24549f, .barw 5 9 2), (0x34549f, .barx 5 9 2),
   (0x4a001f, .dsync 5), (0x5a001f, .gsync 5), (0x60001f, .waitp), (0x70001f, .trig), (0x95ec92a1, .ld 5 9 299 3 6),
   (0x95ec92a3, .ldz 5 9 299 3 6), (0x815e54a5, .st 5 9 4139 3), (0x95b26ea7, .ldq 5 9 299 11 6), (0x958242a9, .stq 5 9 299),
   (0x696a6eab, .ldqs 5 9 18 11 6 13), (0xb90242ab, .stqs 5 9 18 3), (0x696a6ead, .ldqx 5 9 18 11 6 13), (0xb90242ad, .stqx 5 9 18 3),
   (0x959692af, .lds 5 9 299 11), (0x95a054af, .sts 5 9 299)]

theorem test_decode_rows2 : rowWords2.all reads = true := by decide +kernel

/-- Words of the table's rows, `ldsq` to `lvstep`, from the fields that spec/opcode_table.json gives them. -/
def rowWords3 : List (Nat × Instr) :=
  [(0xb94c92af, .ldsq 5 9 18 11 6), (0x96092af, .stsq 5 9 18), (0x616492b1, .atomicAdd 5 9 18 1 1 5), (0x636492b1, .atomicAnd 5 9 18 1 1 5),
   (0x656492b1, .atomicOr 5 9 18 1 1 5), (0x676492b1, .atomicXor 5 9 18 1 1 5), (0x696492b1, .atomicMin 5 9 18 1 1 5),
   (0x6b6492b1, .atomicMax 5 9 18 1 1 5), (0x6d6492b1, .atomicSwp 5 9 18 1 1 5), (0x6f6492b1, .atomicCas 5 9 18 1 1 5),
   (0x50d25031, .radd 5 9 1 3), (0x125033, .tdef 5 9), (0x40092b3, .tstat 5 9), (0x8005033, .twait 5), (0xc005033, .trel 5),
   (0x805035, .cpset 5 1), (0x1002b5, .cpgo 5), (0x205035, .cpwait 5), (0x3092b5, .cpprobe 5 9), (0x92b7, .lvget 5 9), (0x40092b7, .lvnbr 5 9),
   (0xae492b7, .lvread 5 9 18 11), (0xc000037, .lvtake), (0x10000037, .lvret), (0x14005037, .lvstep 5)]

theorem test_decode_rows3 : rowWords3.all reads = true := by decide +kernel

/-- Words of the table's rows, `lvcommit` to `frnd`, from the fields that spec/opcode_table.json gives them. -/
def rowWords4 : List (Nat × Instr) :=
  [(0x18000037, .lvcommit), (0x1c0092b7, .lvthaw 5 9), (0x2e492b9, .fadd 5 9 18 11), (0x6e492b9, .fsub 5 9 18 11), (0xae492b9, .fmul 5 9 18 11),
   (0xee492b9, .fdiv 5 9 18 11), (0x108092b9, .fsqrt 5 9 2), (0x16e492b9, .fma 5 9 18 11), (0x182492b9, .fmin 5 9 18),
   (0x1c2492b9, .fmax 5 9 18), (0x200092b9, .fabs 5 9), (0x240092b9, .fneg 5 9), (0x282492b9, .feq 5 9 18), (0x2c2492b9, .flt 5 9 18),
   (0x302492b9, .fle 5 9 18), (0x36c492b9, .fcvt 5 9 2 11), (0x388092b9, .f2g 5 9 2), (0x3ec492b9, .g2f 5 9 2 11), (0x400092b9, .fmvg 5 9),
   (0x440492b9, .gmvf 5 9 2), (0x92bb, .fnum 5 9), (0x40092bb, .fden 5 9), (0xae492bb, .fmake 5 9 18 11), (0xee492bb, .fmed 5 9 18 11),
   (0x12e492bb, .frnd 5 9 18 11)]

theorem test_decode_rows4 : rowWords4.all reads = true := by decide +kernel

/-- Words of the table's rows, `fnbr` to `vcompress`, from the fields that spec/opcode_table.json gives them. -/
def rowWords5 : List (Nat × Instr) :=
  [(0x16e492bb, .fnbr 5 9 18 11), (0x8002b2bd, .fli 5 524331), (0x3c2492bf, .vadd 5 9 18 3 1 1), (0x3c6492bf, .vsub 5 9 18 3 1 1),
   (0x3ca492bf, .vmul 5 9 18 3 1 1), (0x3ce492bf, .vfma 5 9 18 3 1 1), (0x3d2492bf, .vfms 5 9 18 3 1 1), (0x3d6492bf, .vdiv 5 9 18 3 1 1),
   (0x3da492bf, .vmin 5 9 18 3 1 1), (0x3de492bf, .vmax 5 9 18 3 1 1), (0x3e2492bf, .vand 5 9 18 3 1 1), (0x3e6492bf, .vor 5 9 18 3 1 1),
   (0x3ea492bf, .vxor 5 9 18 3 1 1), (0x3ee492bf, .vshl 5 9 18 3 1 1), (0x3f2492bf, .vshr 5 9 18 3 1 1), (0x3f6492bf, .vsar 5 9 18 3 1 1),
   (0x76e492c1, .vcmp 5 9 18 11 2 1 1 1), (0x340092c3, .vmov 5 9 2 1 1), (0x1c6492c3, .vsel 5 9 18 3), (0x3ca492c3, .vperm 5 9 18 3 1 1),
   (0x3ce492c3, .vslideUp 5 9 18 3 1 1), (0x7ce492c3, .vslideDown 5 9 18 3 1 1), (0x350092c3, .vsplat 5 9 2 1 1), (0x2d4402c3, .vidx 5 1 2 1 1),
   (0x358092c3, .vcompress 5 9 2 1)]

theorem test_decode_rows5 : rowWords5.all reads = true := by decide +kernel

/-- Words of the table's rows, `vpopm` to `mmacSs`, from the fields that spec/opcode_table.json gives them. -/
def rowWords6 : List (Nat × Instr) :=
  [(0x1c092c3, .vpopm 5 9), (0x1a1a92c5, .vrcp 5 9 2 1 1 13), (0x1a3a92c5, .vrsq 5 9 2 1 1 13), (0x1a5a92c5, .vsqrt 5 9 2 1 1 13),
   (0x1a7a92c5, .vexp2 5 9 2 1 1 13), (0x1a9a92c5, .vlog2 5 9 2 1 1 13), (0x1aba92c5, .vtanh 5 9 2 1 1 13), (0x1ada92c5, .vsigm 5 9 2 1 1 13),
   (0x1b6692c7, .vcvt 5 9 2 11 1 1 3), (0x3b6692c7, .vcvts 5 9 2 11 1 1 3), (0x405692c7, .vpack 5 9 2 11), (0x60c492c7, .vunpack 5 9 2),
   (0x3a0692c9, .vredadd 5 9 2 1 1 1 3), (0x3a2692c9, .vredmax 5 9 2 1 1 1 3), (0x3a4692c9, .vredmin 5 9 2 1 1 1 3),
   (0x246c92c9, .vredq 5 9 2 1 6), (0x341692cb, .vrng 5 9 2 11 1 1), (0x1c2492cd, .vpivot 5 9 18 3 1), (0x5c2492cd, .vpivotR 5 9 18 3 1),
   (0x3c6492cd, .velim 5 9 18 3 1 1), (0xa492cd, .vreg 5 9 18), (0x7b6492cf, .mmacVv 5 9 18 3 6 13), (0x7b6492d1, .mmacSv 5 9 18 3 6 13),
   (0x7b6492d3, .mmacVs 5 9 18 3 6 13), (0x7b6492d5, .mmacSs 5 9 18 3 6 13)]

theorem test_decode_rows6 : rowWords6.all reads = true := by decide +kernel

/-- Words of the table's rows, `mzero` to `vselH`, from the fields that spec/opcode_table.json gives them. -/
def rowWords7 : List (Nat × Instr) :=
  [(0x24002d7, .mzero 5 9), (0x48092d7, .mload 5 9 2), (0x88092d7, .mstore 5 9 2), (0xee492d7, .mdrain 5 9 18 11), (0x10000057, .hret),
   (0x142492d7, .mpin 5 9 18), (0x180002d7, .mfree 5), (0x1e4002d7, .mspill 5 9), (0x224002d7, .mfill 5 9), (0x248092d7, .mown 5 9 2),
   (0x2da492d9, .fwdelta 5 9 18 11 6), (0x848002d9, .fwchunk 5 1 2), (0xa08092d9, .fwread 5 9 2), (0xa4a0, .vaddH 5 9 1),
   (0xa4a2, .vsubH 5 9 1), (0xa4a4, .vmulH 5 9 1), (0xa4a6, .vminH 5 9 1), (0xa4a8, .vmaxH 5 9 1), (0xa4aa, .vandH 5 9 1),
   (0xa4ac, .vorH 5 9 1), (0xa4ae, .vxorH 5 9 1), (0xa4b0, .vmovH 5 9 1), (0xa4b2, .vneg 5 9 1), (0xa4b4, .vabs 5 9 1), (0x24b6, .vselH 5 9)]

theorem test_decode_rows7 : rowWords7.all reads = true := by decide +kernel

/-- Words of the table's rows, `vrelu` to `vswap`, from the fields that spec/opcode_table.json gives them. -/
def rowWords8 : List (Nat × Instr) :=
  [(0xa4b8, .vrelu 5 9 1), (0xa4ba, .vrsub 5 9 1), (0xa4bc, .vzero 5 9 1), (0x24be, .vswap 5 9)]

theorem test_decode_rows8 : rowWords8.all reads = true := by decide +kernel

/-- Words written out in the chapters of spec/ or worked out by hand from R102 to R121, field by field. -/
def chapterWords : List (Nat × Instr) :=
  [(0x00180283, .addi 5 0 12), (0x00000B17, .call 22), (0x548C5401, .gcd 8 5 6 2), (0x0C14979D, .teama 15 9 10), (0xFF420293, .bcc 5 0 0xFF4 1),
   (0x181AC701, .rem 14 12 13 0), (0x08000019, .ret), (0x08664321, .ld 6 4 16 3 3), (0x001C43A5, .st 4 7 3 2), (0x009118A7, .ldq 1 4 1 6 2),
   (0x60CE62B1, .atomicAdd 5 6 7 1 1 3), (0x0018B033, .tdef 11 12), (0x03009035, .cpset 9 6), (0x00100535, .cpgo 10), (0x0020A035, .cpwait 10),
   (0x03A0001B, .svc 7), (0xFFB0001B, .trap 511), (0x1080039B, .sysrd 7 0x021), (0x3190901B, .syswr 9 0x063), (0x0046001F, .dsync 3),
   (0x1C0012B7, .lvthaw 5 1), (0x0000D637, .lvget 12 13), (0x0400F737, .lvnbr 14 15), (0x14006037, .lvstep 6), (0x0C000037, .lvtake),
   (0x008411B9, .fadd 3 1 2 2), (0x341C10B9, .fcvt 1 1 14 0), (0x0000243B, .fnum 8 2), (0x040024BB, .fden 9 2), (0x58C710BD, .fli 1 0x58C71),
   (0x0C0C523F, .vadd 4 5 6 1 0 1), (0x000180C3, .vmov 1 24 0 0 0), (0x40C696C3, .vslideDown 13 9 3 0 0 0), (0x4012414D, .vpivotR 2 4 9 0 0),
   (0x10D0024F, .mmacVv 4 0 8 0 4 3), (0x0C0C0257, .mdrain 4 0 6 0), (0x240083D7, .mown 7 8 0), (0x14128FD7, .mpin 31 8 9),
   (0x9C000FD9, .fwchunk 31 7 0), (0x9C64, .vmulH 3 7 1), (0x113C, .vzero 9 4 0)]

theorem test_decode_chapters : chapterWords.all reads = true := by decide +kernel

/-- Words that stand for nothing: unused bits that are set, and the zero halfword's neighbour with a register above v23. -/
theorem test_reject : decode (wordBytes 0x0C4C9257) ≠ .ok (.mdrain 4 9 6 0) 4 ∧ decode (wordBytes 0x464642CD) = .reject (.noRow32 0x464642CD)
    ∧ decode [0x3C] = .reject .truncated := by decide +kernel

/-! ### States and operands that meet the statements' hypotheses -/

theorem ready_sA : ReadyA sA ∧ Ready sA := by unfold ReadyA Ready; decide +kernel

theorem ready_sC : ReadyC sC ∧ Ready sC := by unfold ReadyC Ready; decide +kernel

theorem witness_InstructionAdvancesStream : sA.core.sel = .a ∧ sC.core.sel = .c := by decide +kernel

theorem witness_ScalarResultsComplete :
    Spec.scalarResult (put 1 5 sA) (.addi 5 1 0x7FFF) = some (5, 4) ∧ Spec.scalarResult sA (.sltiu 5 0 0x3FFF) = some (5, 1)
    ∧ Spec.scalarResult (put 1 1 sA) (.shli 31 1 63) = some (31, 0x8000000000000000) ∧ Ready (put 1 5 sA) ∧ Ready (put 1 1 sA) := by
  unfold Ready; decide +kernel

/-- The state with g1 = −7 and g2 = 2. -/
def sDiv : State := put 2 2 (put 1 0xFFFFFFFFFFFFFFF9 sA)

theorem witness_LongIntegersComplete :
    Ready sDiv ∧ sDiv.cur.mode = .user ∧ Spec.longResult sDiv (.mulh 3 1 2 0) = some (3, 0xFFFFFFFFFFFFFFFF)
    ∧ Spec.divResult sDiv (.rem 3 1 2 15) = some (3, 0xFFFFFFFFFFFFFFF9, 2, 0xFFFFFFFFFFFFFFFF) ∧ (2 : Word) ≠ 0
    ∧ Spec.divResult sDiv (.div 3 1 0 0) = some (3, 0xFFFFFFFFFFFFFFF9, 0, 0) := by
  unfold Ready; decide +kernel

theorem witness_BranchesAndJumpsComplete :
    Ready sDiv ∧ sDiv.cur.mode = .user ∧ (5 : BitVec 3).toNat < 6 ∧ Spec.branchHolds 5 (sDiv.g 1) (sDiv.g 2) ∧ ¬ Spec.branchHolds 4 (sDiv.g 1) (sDiv.g 2)
    ∧ (sDiv.g 2).toNat % 2 = 0 ∧ (sDiv.g 31).toNat % 2 = 0 ∧ (sDiv.g 1).toNat % 2 = 1 ∧ ((put 31 1 sDiv).g 31).toNat % 2 = 1
    ∧ Ready (put 31 1 sDiv) ∧ (put 31 1 sDiv).cur.mode = .user := by
  unfold Ready Spec.branchHolds; decide +kernel

/-- q4 holds one filled entry. -/
def sQ : State := putQ 4 [entry 0 77] sA

theorem witness_QueueScalarsComplete :
    ReadyA sQ ∧ (3 : BitVec 5).toNat ≤ 3 ∧ sQ.isUpdate = false ∧ (sQ.core.getQueue 3).length < 16 ∧ sQ.core.getQueue 4 = entry 0 77 :: []
    ∧ (entry 0 77).filled = true
    ∧ (sA.core.getQueue 7) = [] ∧ 16 ≤ ((putQ 3 (List.replicate 16 (entry 0 0)) sA).core.getQueue 3).length
    ∧ ReadyA (putQ 3 (List.replicate 16 (entry 0 0)) sA) ∧ ReadyA (putQ 4 [{ entry 0 0 with filled := false }] sA) := by
  unfold ReadyA Ready; decide +kernel

/-- No aperture kind takes in the address 2^56. -/
theorem no_kind : ∀ k ix off, ¬ Spec.hasKind 0x0100000000000000 k ix off := by
  rintro k ix off ⟨b, sh, ie, oe, hk, hi, ho, hx⟩
  unfold Spec.apertureRow at hk
  split at hk <;> simp only [Option.some.injEq, Prod.mk.injEq, reduceCtorEq] at hk <;> obtain ⟨rfl, rfl, rfl, rfl⟩ := hk <;>
    simp only [BitVec.reduceToNat] at hx <;> omega

/-- The descriptor 7 + 0 has no kind. -/
theorem no_row : ∀ k ix base shift ixEnd offEnd, Spec.apertureRow k = some (base, shift, ixEnd, offEnd) → ix < ixEnd →
    (k = 5 → ix < sA.taskSize) → (0x7 : Word).toNat ≠ k + ix * 2 ^ 16 := by
  intro k ix b sh ie oe hk hi _ hx
  unfold Spec.apertureRow at hk
  split at hk <;> simp only [Option.some.injEq, Prod.mk.injEq, reduceCtorEq] at hk <;> obtain ⟨rfl, rfl, rfl, rfl⟩ := hk <;>
    simp only [BitVec.reduceToNat] at hx <;> omega

/-- The last byte of the last scratchpad of the last physical core, of the last cluster core, and of the pages. -/
theorem witness_AddressInstructionsComplete :
    ReadyA sA ∧ ReadyC sC ∧ sC.cur.mode = .user ∧ sA.cur.mode = .user ∧ sA.isUpdate = false ∧ sA.taskSize = 1
    ∧ Spec.hasKind 0xFFF2000000000000 5 0 0 ∧ Spec.hasKind 0xFFF1000000700000 4 7 0 ∧ Spec.hasKind 0x00FFFFFFFFFFFFFF 1 0 0xFFFFFFFFFFFFFF
    ∧ Spec.hasKind 0xFFF000000005FFFF 3 0 0x5FFFF ∧ (∀ k ix off, ¬ Spec.hasKind 0x0100000000000000 k ix off)
    ∧ Spec.apertureRow 3 = some (0xFFF0000000000000, 0, 1, 0x60000) ∧ 0x60000 ≤ (0x60000 : Word).toNat ∧ sA.taskSize ≤ (1 : Word).toNat := by
  refine ⟨ready_sA.1, by unfold ReadyC Ready; decide +kernel, by decide +kernel, by decide +kernel, by decide +kernel, by decide +kernel, ⟨_, _, _, _, rfl, ?_, ?_, ?_⟩, ⟨_, _, _, _, rfl, ?_, ?_, ?_⟩,
    ⟨_, _, _, _, rfl, ?_, ?_, ?_⟩, ⟨_, _, _, _, rfl, ?_, ?_, ?_⟩, no_kind, rfl, ?_, ?_⟩ <;> decide +kernel

theorem witness_TrapEntrySavesBothStreams : sA.cur.mode = .user ∧ (0x11 : Nat) ≠ 0x12 ∧ (0x13 : Nat) ≠ 0x12 := by decide +kernel

theorem witness_TrapReturnResumesBothStreams :
    Ready (sup sA) ∧ (sup sA).cur.mode = .sup ∧ (sup sA).isStall = false
    ∧ ((sup sA).core.str (sup sA).core.sel.other).exited = true
    ∧ ({ sup sA with core := (sup sA).core.updStr .c (fun st => { st with exited := false }) }.core.c).exited = false
    ∧ Ready (withTask (fun t => { t with kind := .stall 0 }) (sup sA)) ∧ (withTask (fun t => { t with kind := .stall 0 }) (sup sA)).isStall = true
    ∧ (withTask (fun t => { t with kind := .stall 0 }) (sup sA)).cur.mode = .sup := by
  unfold Ready; decide +kernel

theorem witness_SupervisorCalls :
    Ready (update front0 sA) ∧ (update front0 sA).cur.mode = .user ∧ (update front0 sA).isUpdate = true
    ∧ (update front0 sA).taskFront = some (front0, 0) ∧ Ready (sup sA) ∧ (sup sA).cur.mode = .sup := by
  unfold Ready; decide +kernel

theorem witness_DoubleTrapsAndPoisonKill :
    (sup (withCmds [cmd] sA)).cur.mode = .sup ∧ (0x11 : Nat) ≠ 0x12
    ∧ ((sup (withCmds [cmd] sA)).core.task.map (fun t => (t.kind, (sup (withCmds [cmd] sA)).cmdAt t.ctx t.queue t.seq)) = some (.team, some cmd))
    ∧ cmd.first = none ∧ sA.rectOf sA.core.cluster = some 0 ∧ sA.dev.rects[0]? = some ⟨15, 0, 15, 0, false, false, true⟩ := by
  decide +kernel

theorem witness_IllegalAndPrivilegedEncodingsTrap :
    Ready sA ∧ sA.cur.mode = .user ∧ (Instr.fence 6).bits ≠ 0 ∧ (Instr.fence 6).wellFormed = false ∧ (Instr.fadd 1 2 3 0).bits ≠ 0
    ∧ Spec.admits (.fadd 1 2 3 0) sA.core.sel = false ∧ Spec.privileged .tret = true ∧ Spec.privileged (.sysrd 1 0x065) = true
    ∧ (Instr.sysrd 1 0x065).wellFormed = true := by
  unfold Ready; decide +kernel

/-- A window over the next instruction that holds g1, opened at 0x0FFC, and the same with the instruction still incomplete outside its window. -/
def sWin : State := sA.updCur (fun st => { st with wins := [⟨0x0FFC, st.pos + 1, [.g 1], false⟩] })

/-- An instruction that has not completed and has g1 as its destination. -/
def opG1 : LongOp :=
  { id := 0, pc := 0x0FFC, word := 0, dests := [.g 1], joint := false, part := false, prog := 0, status := .running,
    work := .deliver [.g 1 5] 0 Counts.zero 0, tensor := 0, frm := 0, frmFsl := 0, mode := .user, members := 0, ordinal := 0, born := 0,
    promoted := false, netPromoted := false, flags := 0, counts := Counts.zero, seen := 0, met := false, past := false, list := [] }

def sBusy : State := sA.updCur (fun st => { st with flight := [opG1] })

/-- The window with an instruction that is still on its way. -/
def sWinBusy : State := sWin.updCur (fun st => { st with flight := [opG1] })

theorem witness_LookaheadWindows :
    sWin.canIssue = true ∧ sWin.dueTrap.isNone = true ∧ sWin.dev.poison = [] ∧ sWin.cur.mode = .user
    ∧ (sWin.cur.wins.find? (fun w => decide (sWin.cur.pos + 1 ≤ w.last) && [Reg.g 1, .g 2].any (fun r => w.dests.contains r)))
        = some ⟨0x0FFC, sWin.cur.pos + 1, [.g 1], false⟩
    ∧ sWin.quiet = true ∧ sWinBusy.quiet = false ∧ sWinBusy.canIssue = true ∧ sWinBusy.dueTrap.isNone = true ∧ sWinBusy.cur.wins = sWin.cur.wins
    ∧ (sWin.cur.wins.find? (fun w => decide (sWin.cur.pos + 1 ≤ w.last) && [Reg.g 3, .g 2].any (fun r => w.dests.contains r))) = none
    ∧ sBusy.canIssue = true ∧ sBusy.dueTrap.isNone = true ∧ sBusy.cur.wins = []
    ∧ sBusy.cur.flight.any (fun op => [Reg.g 1, .g 2].any (fun r => op.dests.contains r)) = true
    ∧ sBusy.cur.flight.any (fun op => [Reg.g 3, .g 2].any (fun r => op.dests.contains r)) = false := by
  decide +kernel

/-- A joint instruction runs in the C-stream. -/
def sJoint : State := { sA with core := { sA.core with c := { sA.core.c with flight := [{ opG1 with joint := true }] } } }

/-- The fault buffer holds one entry. -/
def sFb : State := { sup sA with dev := { sA.dev with fbHead := 15, fbTail := 0, fbFlag := true } }

theorem witness_SystemRegisterAccessesComplete_writes :
    Ready sJoint ∧ (sJoint.issued (.syswr 1 0x003)).core.jointRunning = true ∧ Ready sFb ∧ sFb.cur.mode = .sup
    ∧ (((put 1 0 sFb).g 1).truncate 4 - sFb.dev.fbHead).toNat ≤ (sFb.dev.fbTail - sFb.dev.fbHead).toNat
    ∧ (sFb.dev.fbTail - sFb.dev.fbHead).toNat < (((put 1 1 sFb).g 1).truncate 4 - sFb.dev.fbHead).toNat
    ∧ (Spec.supWrite sFb 7 0x025).isSome = true ∧ (Spec.supWrite sFb 7 0x037).isSome = true ∧ sFb.core.task.isSome = true
    ∧ ((put 1 1 sFb).g 1).getLsbD 0 = true ∧ (sFb.g 1).getLsbD 0 = false ∧ sFb.core.pending = [] ∧ sFb.editsLevels = false := by
  unfold Ready; decide +kernel

theorem witness_SystemRegisterAccessesComplete :
    Ready sA ∧ Spec.listedRegister 0x113 = true ∧ Spec.supRegister 0x065 = true ∧ Spec.listedRegister 0x065 = true ∧ Ready (sup sA)
    ∧ (sup sA).cur.mode = .sup ∧ Spec.sysValue sA 0x022 = 0 ∧ (Spec.sysWrite (sA.g 1) 0x012).isSome = true
    ∧ (Spec.sysWrite (sA.g 1) 0x003).isSome = true ∧ (sA.issued (.syswr 1 0x003)).core.jointRunning = false
    ∧ ((put 1 4 sA).g 1).toNat % 8 < 5 ∧ 5 ≤ ((put 1 5 sA).g 1).toNat % 8 ∧ (put 1 5 sA).cur.mode = .user ∧ Ready (put 1 5 sA)
    ∧ Spec.sysReadOnly (sA.cur.mode == .sup) 0x101 = true ∧ Spec.sysReadOnly ((sup sA).cur.mode == .sup) 0x020 = true := by
  unfold Ready; decide +kernel

/-- The test kernel has one safe point. -/
def sSafe : State := withTask (fun t => { t with kernel := kern }) sA

/-- The same with a pre-emption pending. -/
def sPre : State := sSafe.updSys (fun r => { r with preReq := true })

/-- The same with a topology change to report. -/
def sTopo : State := withTask (fun t => { t with topoDue := true }) sPre

theorem witness_SafePointsAndExitsComplete_topology :
    Ready sTopo ∧ (0 : BitVec 9).toNat < sTopo.nsafe ∧ sTopo.cancelling = false ∧ sTopo.core.task.map (fun t => t.topoDue) = some true
    ∧ sTopo.cur.mode = .user := by
  unfold Ready; decide +kernel

theorem witness_SafePointsAndExitsComplete :
    Ready sSafe ∧ (0 : BitVec 9).toNat < sSafe.nsafe ∧ sSafe.cancelling = false ∧ sSafe.core.task.map (fun t => t.topoDue) = some false
    ∧ sSafe.core.sys.preReq = false ∧ sSafe.cur.mode = .user ∧ Ready sPre ∧ sPre.core.sys.preReq = true ∧ sPre.cur.mode = .user
    ∧ sSafe.cur.interp = false ∧ sSafe.cur.drain = none
    ∧ ({ sSafe with core := sSafe.core.updStr .c (fun st => { st with exited := false }) }.core.str .c).exited = false := by
  unfold Ready; decide +kernel

theorem witness_EncodingsDecodeBack :
    (Instr.mmacSs 31 30 2 5 7 15).bits ≠ 0 ∧ (Instr.mmacSs 31 30 2 5 7 15).wellFormed = true ∧ (Instr.vswap 23 23).bits ≠ 0
    ∧ (Instr.vswap 23 23).wellFormed = true ∧ decode [0x64, 0x9C] = .ok (.vmulH 3 7 1) 2 := by decide +kernel

/-- The agenda lets the stream of core 0 fetch at which a word has been placed. -/
def fetching (w : Nat) : State :=
  let s := State.reset.withFetchWord 32 w
  { s with agenda := [.stream 0 s.core.sel] }

/-- The same with a leaf that permits no fetch. -/
def closed : State := { fetching 0x19 with pool := Memory.write (fetching 0x19).pool 0x4000 [0xAF] }

/-- The state in which that stream fetches. -/
def fetched (s : State) : State := ((({ s with agenda := [] }).select 0).onStream s.core.sel).toFetch

theorem witness_RejectedFetchesTrap :
    (fetching 0xFFFFFFFF).agenda = .stream 0 .c :: [] ∧ closed.agenda = .stream 0 .a :: []
    ∧ Ready (fetched (fetching 0xFFFFFFFF)) ∧ (fetched (fetching 0xFFFFFFFF)).cur.mode = .user
    ∧ (fetched (fetching 0xFFFFFFFF)).fetch = .reject 0xFFFFFFFF
    ∧ Ready (fetched closed) ∧ (fetched closed).cur.mode = .user ∧ (fetched closed).fetch = .trap 0x07 0x1000 := by
  unfold Ready; decide +kernel

theorem witness_StepRunsDecodedInstruction :
    (fetching 0x00180283).agenda = .stream 0 .a :: [] ∧ (fetched (fetching 0x00180283)).cur.pc = 0x1000
    ∧ okOf ((fetched (fetching 0x00180283)).fetchHalf 0x1000) = some [0x83, 0x02]
    ∧ okOf ((fetched (fetching 0x00180283)).fetchHalf 0x1002) = some [0x18, 0x00]
    ∧ bytesNat [0x83, 0x02] % 2 = 1 ∧ decode [0x83, 0x02, 0x18, 0x00] = .ok (.addi 5 0 12) 4
    ∧ okOf ((fetched (fetching 0x9C64)).fetchHalf 0x1000) = some [0x64, 0x9C]
    ∧ bytesNat [0x64, 0x9C] % 2 = 0 ∧ decode [0x64, 0x9C] = .ok (.vmulH 3 7 1) 2 ∧ (Instr.replayAll).bits = 0
    ∧ (fetching 0x9C64).agenda = .stream 0 .c :: [] ∧ (∀ c ∈ (fetching 0x9C64).clusters, c.hot = []) := by
  refine ⟨?_, ?_, ?_, ?_, ?_, ?_, ?_, ?_, ?_, ?_, ?_, ?_⟩ <;> decide +kernel

theorem witness_MemoryStaysCanonical : MemoryCanonical mA := by unfold MemoryCanonical; decide +kernel

theorem witness_MemoryAndRegistersKeepValues : Memory.wf (Memory.write [] 0xFFFF [1, 0, 2]) = true ∧ 0 < 31 ∧ 31 < 32 ∧ 23 < 24 := by decide +kernel

/-! ### Memory, synchronisation, copies -/

/-- An address of the core's own scratchpad. -/
def spadA (off : Nat) : Nat := 0xFFF0000000000000 + off

/-- Bytes in the scratchpad. -/
def withSpad (off : Nat) (bs : List Byte) (s : State) : State := { s with core := { s.core with spad := Memory.write s.core.spad off bs } }

/-- A store to a page stands unacknowledged. -/
def sPend : State := (after (.st 4 7 0 3) (put 7 0x8899AABBCCDDEEFF (put 4 0x40 mA))).getD mA

/-- The same with the store parked. -/
def sParked : State := { sPend with core := { sPend.core with pending := sPend.core.pending.map (fun r => { r with parked := true }) } }

/-- A fence behind it, with a pre-emption pending. -/
def sFenced : State :=
  ({ sParked with core := { sParked.core with nextId := 9 } }.updCur (fun st => { st with fence := [⟨true, true, 5, 8, 0x0FFC, .user⟩] })).updSys
    (fun r => { r with preReq := true })

theorem witness_FencesOrderAccesses_parked :
    sFenced.core.sel = .a ∧ sFenced.canAct = true ∧ sFenced.cur.mode = .user ∧ sFenced.core.task.map (fun t => t.movedDue) = some none
    ∧ sFenced.cur.flight = [] ∧ sFenced.core.deferred = [] ∧ sFenced.cancelling = false ∧ sFenced.core.sys.preReq = true
    ∧ (∃ f ∈ sFenced.cur.fence, f.rel = true ∧ f.mode = .user ∧ ∃ r ∈ sFenced.core.pending, r.stream = .a ∧ r.parked = true ∧ r.id < f.born
      ∧ sFenced.scopeNow sFenced.core r ≤ f.scope) := by decide +kernel

theorem witness_FencesOrderAccesses :
    ReadyA sA ∧ (5 : BitVec 3).toNat ≤ 5 ∧ ReadyA sPend ∧ (∃ r ∈ sPend.core.pending, r.stream = .a ∧ sPend.scopeNow sPend.core r ≤ 5 ∧ r.id < sPend.core.nextId)
    ∧ (∀ y ∈ sPend.core.pending, y.parked = false) ∧ (after (.fence 5) sPend).isSome ∧ (after (.fenceRel 5) sPend).isSome := by
  unfold ReadyA Ready; decide +kernel

/-- The word of the worked barrier at byte 64, its address in g4, and a count in g5. -/
def sBar (w n : Nat) : State := withSpad 64 (natBytes w 8) (put 5 n (put 4 (spadA 64) mA))

/-- The test task with its command, and a gang of its own core. -/
def sTask : State := (withCmds [cmd] mA).updSys (fun r => { r with domLevel := 4, gangMask := 1 })

/-- The command with a second task that has not arrived. -/
def cmd2 : Command := { cmd with ntask := 2, percl := 2 }

def sTask2 : State := (withCmds [cmd2] mA).updSys (fun r => { r with domLevel := 4, gangMask := 1 })

/-- A bar.w that has arrived in a generation. -/
def sArrived (gen : BitVec 32) (stopped : Bool) : State :=
  let s := sBar 0x0000000100000005 2
  { s with core := { s.core with a := { s.core.a with arrived := some (s.core.a.pc, gen, stopped) } } }

theorem witness_SynchronisationCompletes_arrived :
    ReadyA (sArrived 4 true) ∧ (sArrived 4 true).cur.arrived = some ((sArrived 4 true).cur.pc, 4, true) ∧ (sArrived 4 true).core.pending = []
    ∧ Spec.Reaches (sArrived 4 true) .atomic ((sArrived 4 true).g 4) 8 [.spad 0 64 8] ∧ ReadyA (sArrived 5 false) := by
  unfold ReadyA Ready Spec.Reaches; decide +kernel

theorem witness_SynchronisationCompletes :
    ReadyA (sBar 0x0000000100000005 2) ∧ scratchTarget ((sBar 0x0000000100000005 2).g 4) = true
    ∧ Spec.Reaches (sBar 0x0000000100000005 2) .atomic ((sBar 0x0000000100000005 2).g 4) 8 [.spad 0 64 8]
    ∧ bytesNat ((sBar 0x0000000100000005 2).peekAll [.spad 0 64 8]) = 0x0000000100000005
    ∧ (sBar 0x0000000100000005 2).logMode (sBar 0x0000000100000005 2).who = 0 ∧ (sBar 0x0000000100000005 2).core.pending = []
    ∧ (sBar 0x0000000100000005 2).cur.arrived = none ∧ Spec.pend 0x0000000100000005 ≠ 0xFFFF ∧ Spec.pend 0x0002FFFF00000005 = 0xFFFF
    ∧ Spec.gen (Spec.arrive 2 0 0x0000000100000005) ≠ Spec.gen 0x0000000100000005 ∧ Spec.gen (Spec.arrive 0xFFFE 0 5) = Spec.gen 5
    ∧ ReadyA (sBar 0x0002FFFF00000005 0xFFFE)
    ∧ (sBar 0x0000000100000005 2).atExecutor (executor 0 0 (.atomic .add 8 0 0) [.spad 0 64 8]) (placeOf [.spad 0 64 8]) = []
    ∧ 0 < (BitVec.ofNat 32 (Spec.gen 5) - ((put 5 4 sA).g 5).truncate 32).toInt
    ∧ (BitVec.ofNat 32 (Spec.gen 5) - ((put 5 5 sA).g 5).truncate 32).toInt ≤ 0 := by
  unfold ReadyA Ready Spec.Reaches; decide +kernel

/-- A drain into the scratchpad is under way. -/
def sDrains : State :=
  { sTask with core := { sTask.core with c := { sTask.core.c with flight := [{ opG1 with dests := [], work := .mdrain 4 (.scratch (pairOf 0 0)) none }] } } }

theorem witness_SynchronisationCompletes_teams :
    ReadyA sTask ∧ sTask.core.task.map (fun tk => (tk.kind, tk.topoDue, sTask.cmdAt tk.ctx tk.queue tk.seq)) = some (.team, false, some cmd)
    ∧ sTask.core.pending = [] ∧ 4 ≤ sTask.core.sys.domLevel.toNat ∧ sTask.cur.dsynced = none ∧ sTask.cores = []
    ∧ (∀ l, l < cmd.ntask → l = 0)
    ∧ cmd.domSet = [] ∧ sTask.ownJobs = false ∧ sDrains.ownJobs = true ∧ ReadyA sDrains ∧ sTask.core.sys.gangMask = .ofNat 8 (2 ^ (sTask.core.pid % 8)) ∧ cmd.early = false
    ∧ (sTask.clusterAt sTask.core.cluster).jobs = []
    ∧ ReadyA sTask2 ∧ sTask2.core.task.map (fun tk => (tk.lid, sTask2.cmdAt tk.ctx tk.queue tk.seq)) = some (0, some cmd2)
    ∧ (∀ level ∈ [1, 2, 3, 4], cmd2.instanceKey level 1 = cmd2.instanceKey level 0
        ∧ 1 ∉ cmd2.arrived level (cmd2.instanceKey level 0))
    ∧ sTask2.cur.mode = .user ∧ sTask2.core.sys.preReq = false ∧ sTask2.cancelling = false := by
  unfold ReadyA Ready; decide +kernel

/-- A stream waits at an instruction. -/
def waiting (w : Wait) (i : Instr) : State := (State.reset.withFetchWord 32 (encode i).toNat).updCur (fun st => { st with wait := some w })

theorem witness_WaitsEndByTryingAgain :
    ∀ p ∈ [(Wait.barrier, Instr.bar 4 5 1), (.barrier, .barW 4 5 1), (.barrier, .barx 4 5 1), (.barrier, .barw 4 5 1), (.fullEmpty, .sts 4 7 1),
        (.fullEmpty, .stsq 4 4 1), (.tile 5, .tdef 4 5), (.tile 63, .twait 4), (.tile 5, .trel 4), (.tile 5, .ldqs 1 4 5 6 2 3), (.tile 5, .stqs 4 4 5 2),
        (.gsync, .gsync 5), (.waitp, .waitp), (.dsync, .dsync 1)],
      (((waiting p.1 p.2).onStream .a).cur.wait = some p.1 ∧ ((waiting p.1 p.2).onStream .a).fetch = .instr p.2
        ∧ (waiting p.1 p.2).core.a.dsynced = none) := by decide +kernel

/-- A store to the own scratchpad, to a page, and from a queue. -/
def sSt (a : Nat) : State := putQ 4 [entry 6 0x1122334455667788] (put 7 0x8899AABBCCDDEEFF (put 4 a mA))

/-- A store that its target refuses stands unacknowledged. -/
def sDeny : State := (after (.st 4 7 0 3) (sSt 0xFFF1000000200000)).getD mA

/-- The oldest entry of q4 is not yet filled. -/
def sUnfilled : State := putQ 4 [{ entry 6 0 with filled := false }] (sSt 0x40)

theorem witness_StoresComplete :
    ReadyA (sSt (spadA 64)) ∧ (Instr.stq 4 4 1).wellFormed = true
    ∧ w64 (((sSt (spadA 64)).g 4).toInt + (1 : BitVec 13).toInt * 2 ^ (3 : BitVec 2).toNat) = .ofNat 64 (spadA 72)
    ∧ (sSt (spadA 64)).core.getQueue 4 = entry 6 0x1122334455667788 :: [] ∧ (entry 6 0x1122334455667788).filled = true
    ∧ (sSt (spadA 64)).checkAddr (sSt (spadA 64)).who (.ofNat 64 (spadA 72)) 8 8 = none
    ∧ (sSt (spadA 64)).locate (sSt (spadA 64)).who .store (.ofNat 64 (spadA 72)) 8 = .ok [.spad 0 72 8] ∧ (sSt (spadA 64)).core.pending = []
    ∧ (sSt (spadA 64)).checkAddr (sSt (spadA 64)).who (.ofNat 64 (spadA 0x5FFC0)) 64 64 = none
    ∧ (sSt (spadA 64)).locate (sSt (spadA 64)).who .store (.ofNat 64 (spadA 0x5FFC0)) 64 = .ok [.spad 0 0x5FFC0 64]
    ∧ (sSt 0x40).checkAddr (sSt 0x40).who 0x80 64 64 = none ∧ (aperture (0x80 : Word)).kind = 1 ∧ ReadyA (sSt 0x40)
    ∧ (sSt 0x40).ownSpad (sSt 0x40).who .store 0x80 64 = none ∧ (sSt 0x40).core.pending.length < 65535 ∧ ReadyA sUnfilled
    ∧ sUnfilled.core.getQueue 4 = { entry 6 0 with filled := false } :: [] ∧ sUnfilled.checkAddr sUnfilled.who 0x80 64 64 = none := by
  unfold ReadyA Ready; decide +kernel

theorem witness_StoresComplete_acknowledged :
    sPend.core.task.isSome = true ∧ (sPend.core.a.exited && sPend.core.c.exited) = false
    ∧ (∃ r ∈ sPend.core.pending, sPend.core.pending = [r] ∧ r.kind = .store (natBytes 0x8899AABBCCDDEEFF 8) ∧ r.served = false ∧ r.parked = false
      ∧ r.stream = .a ∧ r.mode = .user ∧ sPend.logMode (r.who sPend.core) = 0
      ∧ sPend.turnOf (sPend.core.askOf r 0) [.phys false 0x200040 8 2 0 0 1] = true
      ∧ sPend.locate (r.who sPend.core) .store r.addr 8 = .ok [.phys false 0x200040 8 2 0 0 1])
    ∧ sPend.core.a.flight = [] ∧ sPend.dev.poison = [] ∧ Spec.NoLineHeld sPend
    ∧ sDeny.core.task.isSome = true ∧ (sDeny.core.a.exited && sDeny.core.c.exited) = false
    ∧ (∃ r ∈ sDeny.core.pending, sDeny.core.pending = [r] ∧ r.kind = .store (natBytes 0x8899AABBCCDDEEFF 8) ∧ r.served = false ∧ r.parked = false
      ∧ r.stream = .a ∧ sDeny.logMode (r.who sDeny.core) = 0 ∧ sDeny.locate (r.who sDeny.core) .store r.addr 8 = .deny)
    ∧ sDeny.core.a.flight = [] ∧ sDeny.dev.poison = [] ∧ Spec.NoLineHeld sDeny := by
  unfold Spec.NoLineHeld; decide +kernel

/-- The chunks of an access over two places. -/
theorem witness_StoresTouchOnlyTheirBytes :
    (([.phys false 0x200040 4 2 0 0 1, .spad 0 64 4] : List Chunk).map (fun c => c.span.len)).sum = (natBytes 0x8899AABBCCDDEEFF 8).length
    ∧ ([.phys false 0x200040 4 2 0 0 1, .spad 0 64 4] : List Chunk).Pairwise (fun x y => overlap [x.span] [y.span] = false) := by decide +kernel

theorem witness_LoadsComplete :
    ReadyA (sSt (spadA 64)) ∧ Spec.loadParts (sSt (spadA 64)) (.ld 6 4 0x1FF 3 15) = some (true, 6, .ofNat 64 (spadA 56), 8)
    ∧ Spec.loadParts (sSt (spadA 64)) (.ldz 6 4 255 0 0) = some (false, 6, .ofNat 64 (spadA 319), 1)
    ∧ Spec.Reaches (sSt (spadA 64)) .load (.ofNat 64 (spadA 56)) 8 [.spad 0 56 8]
    ∧ Spec.Reaches (sSt (spadA 64)) .load (.ofNat 64 (spadA 319)) 1 [.spad 0 319 1] ∧ (sSt (spadA 64)).core.pending = []
    ∧ (3 : BitVec 3).toNat ≤ 3 ∧ (sSt 0x40).q3Closed 3 = false ∧ ((sSt 0x40).core.getQueue 3).length < 16
    ∧ w64 (((sSt 0x40).g 4).toInt + (1 : BitVec 9).toInt * 64) = 0x80 ∧ Spec.Reaches (sSt 0x40) .load 0x80 64 [.phys false 0x200080 64 2 0 0 1]
    ∧ ReadyA (sSt 0x40) ∧ isBe 6 = false ∧ (∀ s ∈ [sSt 0x40, sSt (spadA 64)], (Spec.NoLineHeld s ∧ Spec.Seen s ∧ s.logMode s.who = 0)) := by
  unfold ReadyA Ready Spec.Reaches Spec.NoLineHeld Spec.Seen; decide +kernel

theorem witness_LoadsComplete_ids : ∀ p, ∀ y ∈ sA.core.getQueue p, y.id < sA.core.nextId :=
  fun p _ hy => replicate_empty _ p sA (by decide +kernel) hy

def addrOf (x : ElemAt) : Option Word :=
  match x with
  | .addr a => some a
  | _ => none

/-- A strided load of sixteen elements has moved all but the last. -/
def opLd (prog : Nat) : LongOp := { opG1 with dests := [], prog := prog, work := .ldElems 3 (.strided (.ofNat 64 (spadA 128)) 4) 4 7 }

def opSt (prog : Nat) : LongOp := { opG1 with dests := [], prog := prog, work := .stElems (entry 6 5) (.strided (.ofNat 64 (spadA 128)) 4) 4 }

def sOp (op : LongOp) : State := putQ 1 [{ entry 6 0 with id := 3, filled := false }] (sA.updCur (fun st => { st with flight := [op] }))

/-- A state whose tile 5 holds a layout. -/
def sTile : State :=
  let s := put 5 (2 ^ 40 + 5 * 2 ^ 34 + 2 * 2 ^ 32 + 4) (put 4 (spadA 132) mA)
  { s with core := s.core.setEntry 5 ⟨.ready, 1, 0, 0, 128, 4, 64, 60⟩ }

theorem witness_ElementAccessesComplete_strided :
    ReadyA (put 5 0x2FFFFFFFC (put 4 (spadA 128) mA)) ∧ Spec.elemLoadParts (.ldqs 3 4 5 6 2 3) = some (3, 4, 5, 6, 2, false)
    ∧ (Instr.ldqs 3 4 5 6 2 3).wellFormed = true ∧ sA.q3Closed 3 = false ∧ (sA.core.getQueue 3).length < 16
    ∧ Spec.elemPlan (put 5 0x2FFFFFFFC (put 4 (spadA 128) mA)) (.ofNat 64 (spadA 128)) 0x2FFFFFFFC false (.strided (.ofNat 64 (spadA 128)) (-4)) false
    ∧ Spec.elemStoreParts (.stqs 4 4 5 2) = some (4, 4, 5, 2, false) ∧ (Instr.stqs 4 4 5 2).wellFormed = true := by
  refine ⟨by unfold ReadyA Ready; decide +kernel, rfl, by decide +kernel, by decide +kernel, by decide +kernel,
    Or.inr (Or.inl ⟨rfl, by decide +kernel, by decide +kernel, rfl, by decide +kernel⟩), rfl, by decide +kernel⟩

theorem witness_ElementAccessesComplete_listed :
    ReadyA (put 5 (spadA 0) mA) ∧ Spec.elemLoadParts (.ldqx 0 4 5 6 2 3) = some (0, 4, 5, 6, 2, true) ∧ (Instr.ldqx 0 4 5 6 2 3).wellFormed = true
    ∧ Spec.elemPlan (put 5 (spadA 0) mA) 0 (.ofNat 64 (spadA 0)) true (.indexed 0 (.ofNat 64 (spadA 0))) false
    ∧ Spec.elemStoreParts (.stqx 7 4 5 2) = some (7, 4, 5, 2, true) ∧ (Instr.stqx 7 4 5 2).wellFormed = true := by
  refine ⟨by unfold ReadyA Ready; decide +kernel, rfl, by decide +kernel, Or.inl ⟨rfl, rfl, rfl, by decide +kernel⟩, rfl, by decide +kernel⟩

theorem witness_ElementAccessesComplete_tiled :
    ReadyA sTile ∧ Spec.elemPlan sTile (sTile.g 4) (sTile.g 5) false (.tiled 4 4 128 64 4 2) true := by
  refine ⟨by unfold ReadyA Ready; decide +kernel, Or.inr (Or.inr ⟨rfl, by decide +kernel, by decide +kernel, 132, sTile.core.getEntry 5,
    ⟨_, _, _, _, rfl, by decide +kernel, by decide +kernel, by decide +kernel⟩, by decide +kernel, by decide +kernel, by decide +kernel,
    by decide +kernel⟩)⟩

theorem witness_ElementAccessesComplete_moves :
    ∀ n ∈ [0, 15], ∀ op ∈ [opLd n, opSt n], ((sOp op).core.task.isSome = true ∧ (sOp op).core.a.exited = false ∧ (sOp op).core.handler = none
      ∧ (sOp op).core.pending = [] ∧ (sOp op).core.a.flight = [op] ∧ op.status = .running ∧ (sOp op).dev.poison = []
      ∧ (sOp op).core.freezes op = false ∧ Spec.NoLineHeld (sOp op) ∧ (∀ o ∈ (sOp op).core.c.flight, op.seen ≤ o.id)) := by
  unfold Spec.NoLineHeld; decide +kernel

theorem witness_ElementAccessesComplete_room :
    (entry 6 5).filled = true ∧ peerChunk [.spad 0 128 4] = false ∧ Spec.unacked mA + 64 / 2 ^ (0 : BitVec 3).toNat ≤ 65535 := by decide +kernel

theorem witness_ElementAccessesComplete_elements :
    ∀ n ∈ [0, 15], ∀ op ∈ [opLd n, opSt n],
      (addrOf ((sOp op).elemNow ((sOp op).core.opWho op) op (.strided (.ofNat 64 (spadA 128)) 4) n) = some (.ofNat 64 (spadA (128 + 4 * n)))
      ∧ (sOp op).checkAddr ((sOp op).core.opWho op) (.ofNat 64 (spadA (128 + 4 * n))) 4 4 = none
      ∧ (sOp op).locate ((sOp op).core.opWho op) .load (.ofNat 64 (spadA (128 + 4 * n))) 4 = .ok [.spad 0 (128 + 4 * n) 4]
      ∧ (sOp op).locate ((sOp op).core.opWho op) .store (.ofNat 64 (spadA (128 + 4 * n))) 4 = .ok [.spad 0 (128 + 4 * n) 4]
      ∧ (sOp op).logMode ((sOp op).core.opWho op) = 0 ∧ isBe (tagOf ((sOp op).core.entryFmt 3)) = false) := by decide +kernel

theorem witness_ElementAccessesComplete_readAhead :
    ∀ n ∈ [0, 15], (addrOf ((sOp { opLd n with list := [(n, 8)] }).elemNow ((sOp (opLd n)).core.opWho (opLd n)) { opLd n with list := [(n, 8)] }
      (.indexed (.ofNat 64 (spadA 128)) 0) n) = some (.ofNat 64 (spadA 136))) := by decide +kernel

/-- An ldsq that waits, its entry reserved before another one of queue 1. -/
def sSync : State :=
  putQ 1 [{ entry 6 0 with id := 3, filled := false }, { entry 6 9 with id := 4 }]
    (sA.updCur (fun st => { st with flight := [{ opG1 with dests := [], work := .ldsq 3 1 (mkFmt 6 0) (.ofNat 64 (spadA 128)) }] }))

/-- R195: a handler withdraws the entry, and its return reserves it again, in the order of issue. -/
theorem test_ldsq_entry_withdrawn :
    (((sSync.takeTrap 0x10 0 0 0).core.getQueue 1).map (·.id) = [4])
    ∧ ((((sSync.takeTrap 0x10 0 0 0).returnFromTrap).core.getQueue 1).map (fun e => (e.id, e.filled)) = [(3, false), (4, true)]) := by
  decide +kernel

/-- Full words at bytes 128 to 191. -/
def sFull (s : State) : State := { s with core := (List.range 8).foldl (fun k i => k.setFull (16 + i) true) s.core }

theorem witness_AtomicAccessesComplete :
    ReadyA (sSt (spadA 64)) ∧ (sSt (spadA 64)).core.pending = [] ∧ (sSt (spadA 64)).logMode (sSt (spadA 64)).who = 0
    ∧ 128 + 64 ≤ 0x60000 ∧ 128 % 64 = 0 ∧ w64 (((sSt (spadA 64)).g 4).toInt + (8 : BitVec 9).toInt * 8) = .ofNat 64 (spadA 128)
    ∧ w64 (((sSt (spadA 64)).g 4).toInt + (1 : BitVec 5).toInt * 64) = .ofNat 64 (spadA 128)
    ∧ (∀ k, k < 8 → (sSt (spadA 64)).core.isFull (128 / 8 + k) = false) ∧ (∀ k, k < 8 → (sFull (sSt (spadA 64))).core.isFull (128 / 8 + k) = true)
    ∧ ReadyA (sFull (sSt (spadA 64))) ∧ (sSt (spadA 64)).core.a.taken = none ∧ (sSt (spadA 64)).q3Closed 3 = false
    ∧ Spec.Seen (sFull (sSt (spadA 64))) ∧ (sFull (sSt (spadA 64))).core.pending = [] := by
  unfold ReadyA Ready Spec.Seen; decide +kernel

theorem witness_AtomicAccessesComplete_atomics :
    ∀ p ∈ [(AtomicOp.add, Instr.atomicAdd 6 4 7 1 1 5), (.band, .atomicAnd 6 4 7 1 1 3), (.bor, .atomicOr 0 4 7 1 0 1), (.bxor, .atomicXor 6 4 7 1 1 2),
        (.smin, .atomicMin 6 4 7 1 1 3), (.smax, .atomicMax 6 4 7 1 1 3), (.swp, .atomicSwp 6 4 7 1 1 3), (.cas, .atomicCas 6 4 7 1 1 3),
        (.radd, .radd 4 7 1 0)],
      p.2.wellFormed = true ∧ (Spec.atomicParts p.2).map (fun x => (x.1, x.2.2.1)) = some (p.1, 4) := by decide +kernel

theorem witness_AtomicAccessesComplete_places :
    ReadyA (sSt 0x40) ∧ (sSt 0x40).checkAtomic 0x40 8 = none ∧ (sSt 0x40).locate (sSt 0x40).who .atomic 0x40 8 = .ok [.phys false 0x200040 8 2 0 0 1]
    ∧ (sSt 0x40).core.pending = [] ∧ (sSt 0x40).logMode (sSt 0x40).who = 0 ∧ (sSt 0x40).cores = []
    ∧ executor 0 5 (.atomic .add 8 0 0) [.phys false 0x200040 8 2 0 0 1] = .home 129
    ∧ Spec.NoLineHeld (sSt 0x40)
    ∧ executor 0 1 (.atomic .bor 8 0 0) [.phys false 0x200040 8 2 0 0 1] = .engine 0
    ∧ executor 0 3 (.atomic .add 8 0 0) [.spad 0 64 8] = .engine 0 := by
  unfold ReadyA Ready Spec.NoLineHeld; decide +kernel

/-- A descriptor of tile 5 in g4 and g5. -/
def sTdef : State := put 5 (60 * 2 ^ 32 + 64 * 65536 + 4) (put 4 (128 * 2 ^ 16 + 5 * 256 + 4) mA)

theorem witness_TileInstructionsComplete :
    ReadyA sTdef ∧ (tdefEntry (sTdef.g 4).toNat (sTdef.g 5).toNat).isSome = true ∧ (sTdef.core.getEntry 5).state = .empty
    ∧ ReadyA (put 4 5 sTile) ∧ ((put 4 5 sTile).core.getEntry 5).state = .ready ∧ ((put 4 63 sTile).core.getEntry 63).state = .empty
    ∧ ReadyA (put 4 63 sTile) ∧ (put 4 63 sTile).cur.mode = .user := by
  unfold ReadyA Ready; decide +kernel

/-- Shadows of a copy of four rows of 64 bytes within the scratchpad; the same between two tiles; the same for a full unit. -/
def sCopy : State :=
  { mA with core := { mA.core with shadows := #v[.ofNat 64 (spadA 0), .ofNat 64 (spadA 1024), 4, 64, 64, 64, 0, 0] } }

def job0 : Job :=
  { id := 0, pid := 0, ctx := 1, queue := 0, seq := 0, mode := .user, noReplay := false,
    shadows := #v[.ofNat 64 (spadA 0), .ofNat 64 (spadA 1024), 4, 64, 64, 64, 0, 0],
    srcTile := none, dstTile := none, state := .queued, next := 0, moved := 0, born := 0, ordinal := 0, lid := 0, wroteHost := false, clean := 0 }

def sBusyCopy : State := sCopy.updCluster 0 (fun c => { c with jobs := [job0] })

def sFullCopy : State := sCopy.updCluster 0 (fun c => { c with jobs := List.replicate Config.copyJobs { job0 with pid := 9 } })

theorem witness_CopyInstructionsComplete :
    ReadyA sCopy ∧ (copyReq sCopy.core.shadows).badField = none ∧ (copyReq sCopy.core.shadows).badAddress sCopy = none
    ∧ (copyReq sCopy.core.shadows).badTile sCopy.core = none ∧ (copyReq sCopy.core.shadows).ste = false ∧ (copyReq sCopy.core.shadows).kind = 0
    ∧ sCopy.core.task.map (fun tk => tk.nextJob) = some 0 ∧ sCopy.xferJob 0 = none
    ∧ (sCopy.clusterAt sCopy.core.cluster).jobs.length < Config.copyJobs
    ∧ ReadyA sFullCopy ∧ Config.copyJobs ≤ (sFullCopy.clusterAt sFullCopy.core.cluster).jobs.length
    ∧ ReadyA sBusyCopy ∧ sBusyCopy.xferJob 0 = some job0 ∧ job0.state = .queued ∧ job0.next = 0 := by
  unfold ReadyA Ready; decide +kernel

/-! ### Levels, vectors, floats, matrices -/

/-- An update task of block 0, whose history holds levels 3 and 2. -/
def front1 : Front :=
  { front0 with interp := [(0x1000, 0x1010)], rules := [⟨Vector.replicate 8 0, Vector.replicate 8 0⟩], blocks := front0.blocks.map (fun b => { b with hdepth := 2, nnbr := 1, nbr := #v[1, 0, 0, 0, 0, 0, 0, 0] }) }

def sUp (x : StreamId) (a c : Nat) : State :=
  let s := update front1 (match x with | .a => mA | .c => mC)
  put 31 0x1010 (put 6 c (put 5 a s))

theorem witness_LevelInstructionsComplete_history :
    Ready (sUp .a 1 0) ∧ (sUp .a 1 0).isUpdate = true ∧ (sUp .a 1 0).taskFront = some (front1, 0) ∧ (27 : BitVec 5).toNat < 31 ∧ (27 : BitVec 5) ≠ 0
    ∧ (sUp .a 1 0).core.sel = .a ∧ ((sUp .a 1 0).g 5).toNat < (front1.block 0).hdepth ∧ (front1.block 0).valid.getLsbD 1 = true
    ∧ (front1.block 0).rlev[1]? = some 2 ∧ (front1.block 0).raddr[1]? = some 0x200
    ∧ ((sUp .a 0 0).g 5).toNat < (front1.block 0).nnbr ∧ (front1.block 0).nbr[0]? = some 1 ∧ (sUp .a 1 0).cur.mode = .user
    ∧ (front1.block 0).hdepth ≤ ((sUp .a 2 0).g 5).toNat ∧ (front1.block 0).nnbr ≤ ((sUp .a 1 0).g 5).toNat ∧ Ready (sUp .a 2 0)
    ∧ (sUp .a 2 0).taskFront = some (front1, 0) := by
  unfold Ready; decide +kernel

/-- Block 1 at level 5 with history 5 and 3: level 5 is an entry, level 4 lies between two. -/
def front2 : Front := { front1 with blocks := front1.blocks.map (fun b => if b.level = 5 then { b with rlev := #v[5, 3, 0, 0] } else b) }

def sRd (c : Nat) : State := put 6 c (put 5 0 (update front2 mA))

theorem witness_LevelInstructionsComplete_reads :
    Ready (sRd 5) ∧ (sRd 5).isUpdate = true ∧ (sRd 5).taskFront = some (front2, 0) ∧ (sRd 5).cur.interp = false ∧ ((sRd 5).core.getQueue 3).length < 16
    ∧ front2.lookup 0 ((sRd 5).g 5).toNat (((sRd 5).g 6).truncate 32) = .exact 0x100
    ∧ front2.lookup 0 ((sRd 4).g 5).toNat (((sRd 4).g 6).truncate 32) = .between 0 0x200 0x100 1 2 ∧ front2.interp[0]? = some (0x1000, 0x1010)
    ∧ Ready (sRd 4) ∧ (sRd 4).taskFront = some (front2, 0) ∧ (0x1000 : Word).toNat % 2 = 0 ∧ (sRd 4).cur.mode = .user := by
  unfold Ready; decide +kernel

def sTake (marker : Nat) : State := putQ 3 [entry 0 marker] (sUp .c 0 0)

/-- In an interpolation entry. -/
def sRet : State := (sUp .c 0 0).updCur (fun st => { st with interp := true })

theorem witness_LevelInstructionsComplete_takes :
    Ready (sTake 0xFFFFFFFF) ∧ (sTake 0xFFFFFFFF).core.sel = .c ∧ (sTake 0xFFFFFFFF).taskFront = some (front1, 0)
    ∧ (sTake 0xFFFFFFFF).cur.interp = false ∧ (sTake 0xFFFFFFFF).cur.drain = none ∧ sRet.cur.drain = none ∧ (sTake 0xFFFFFFFF).core.getQueue 3 = entry 0 0xFFFFFFFF :: [] ∧ (entry 0 0xFFFFFFFF).filled = true
    ∧ (entry 0 0xFFFFFFFF).bits.toNat % 2 ^ 32 = 0xFFFFFFFF ∧ (entry 0 (2 ^ 32 + 2 * 2 ^ 64)).bits.toNat % 2 ^ 32 ≠ 0xFFFFFFFF
    ∧ Ready (sTake (2 ^ 32 + 2 * 2 ^ 64)) ∧ front1.interp[(entry 0 (2 ^ 32 + 2 * 2 ^ 64)).bits.toNat % 2 ^ 32]? = some (0x1000, 0x1010)
    ∧ Ready sRet ∧ sRet.cur.interp = true ∧ (sRet.g 31).toNat % 2 = 0 ∧ (0x1010 : Word).toNat % 2 = 0 := by
  unfold Ready; decide +kernel

/-- The front with entries at odd addresses. -/
def sOddRd : State := put 6 4 (put 5 0 (update { front2 with interp := [(0x1001, 0x1011)] } mA))

def sOddTake : State := putQ 3 [entry 0 (2 ^ 32 + 2 * 2 ^ 64)] (put 31 0x1010 (update { front1 with interp := [(0x1001, 0x1011)] } mC))

theorem witness_LevelInstructionsComplete_odd :
    Ready sOddRd ∧ sOddRd.isUpdate = true ∧ sOddRd.core.sel = .a ∧ sOddRd.cur.mode = .user ∧ Ready sOddTake ∧ sOddTake.core.sel = .c ∧ sOddTake.cur.mode = .user
    ∧ sOddRd.taskFront.map (fun f => f.1.lookup 0 (sOddRd.g 5).toNat ((sOddRd.g 6).truncate 32)) = some (.between 0 0x200 0x100 1 2)
    ∧ sOddRd.taskFront.map (fun f => f.1.interp[0]?) = some (some (0x1001, 0x1011))
    ∧ sOddTake.taskFront.map (fun f => f.1.interp[0]?) = some (some (0x1001, 0x1011)) := by
  unfold Ready; decide +kernel

/-- R82: the call of an interpolation entry at an odd address traps as a jump does. -/
theorem test_odd_interpolation_entry :
    (after (.lvread 8 5 6 1) sOddRd).map (fun t => (t.core.sys.trapCause, t.core.sys.trapVal, (t.core.getQueue 3).length)) = some (5, 0x1001, 0)
    ∧ (after .lvtake sOddTake).map (fun t => (t.core.sys.trapCause, t.core.sys.trapVal, (t.core.getQueue 3).length)) = some (5, 0x1011, 1) := by
  decide +kernel

/-- A front whose other block lies so far behind that the next commit would spread too far. -/
def front3 : Front := { front1 with blocks := front1.blocks.map (fun b => if b.level = 5 then { b with level := 0x80000004 } else b) }

def sCommit (f : Front) : State := put 5 0xFFFF (update f mA)

/-- Blocks 0 and 1 frozen; block 1 alone. -/
def front4 : Front := { front1 with frozen := true, freezer := some 0, blocks := front1.blocks.map (fun b => { b with state := .frozen }) }

def front5 : Front := { front4 with blocks := front4.blocks.map (fun b => if b.level = 3 then { b with state := .idle } else b) }

/-- A drain of the task into the scratchpad is under way. -/
def sCommitDrains : State :=
  let s := sCommit front1
  { s with core := { s.core with c := { s.core.c with flight := [{ opG1 with dests := [], work := .mdrain 4 (.scratch (pairOf 0 0)) none }] } } }

def sThaw (f : Front) (b : Nat) : State := put 5 b (sup (update f mA))

theorem witness_LevelInstructionsComplete_commits :
    ReadyA (sCommit front1) ∧ (sCommit front1).isUpdate = true ∧ (sCommit front1).taskFront = some (front1, 0)
    ∧ (sCommit front1).core.task.map (fun tk => (tk.committed, tk.step)) = some (false, 1) ∧ 0 < ((sCommit front1).g 5).toNat
    ∧ ((sCommit front1).g 5).toNat < 2 ^ 16 ∧ (sCommit front1).core.pending = [] ∧ (sCommit front1).ownJobs = false
    ∧ (front4.block 0).state = .frozen ∧ ReadyA (sCommit front4) ∧ sCommitDrains.ownJobs = true ∧ ReadyA sCommitDrains
    ∧ front1.known[(front1.block 0).home]? = some [3, 5]
    ∧ (front1.block 0).state ≠ .frozen ∧ front1.spreadWith 0 1 < 2 ^ 31 ∧ 2 ^ 31 ≤ front3.spreadWith 0 1 ∧ ReadyA (sCommit front3)
    ∧ (sCommit front3).taskFront = some (front3, 0) ∧ (sCommit front3).cur.mode = .user := by
  unfold ReadyA Ready; decide +kernel

theorem witness_LevelInstructionsComplete_thaws :
    Ready (sThaw front4 1) ∧ (sThaw front4 1).cur.mode = .sup ∧ (sThaw front4 1).taskFront = some (front4, 0)
    ∧ front4.blocks.length ≤ ((sThaw front4 2).g 5).toNat % 2 ^ 16 ∧ (front4.blocks[1]?).map (fun x => (x.state, x.core)) = some (.frozen, none)
    ∧ sdiff (front4.block 1).level front4.target < 0 ∧ (front4.blocks[0]?).map (fun x => x.state) = some .frozen
    ∧ Ready (sThaw front5 1) ∧ (sThaw front5 1).taskFront = some (front5, 0) ∧ (front5.blocks[0]?).map (fun x => x.state) ≠ some .frozen
    ∧ (front5.blocks[1]?).map (fun x => (x.state, x.core)) = some (.frozen, none) := by
  unfold Ready; decide +kernel

theorem sources_regs (s : State) (a b : BitVec 5) (ha : a.toNat < 24) (hb : b.toNat < 24) :
    Spec.Sources s [a, b] s [s.core.getV a.toNat, s.core.getV b.toNat] :=
  Or.inl ⟨ha, _, rfl, Or.inl ⟨hb, _, rfl, rfl, rfl, rfl⟩⟩

theorem taken_queue (s : State) (a : BitVec 5) (e : QEntry) (es : List QEntry) (ha : 24 ≤ a.toNat) (h : s.core.getQueue (a.toNat - 24) = e :: es) :
    Spec.Taken s [a] { s with core := (s.core.setQueue (a.toNat - 24) es).saw s.core.sel [e] } [⟨e.bits, e.fmt⟩] e.filled :=
  Or.inr ⟨ha, e, es, _, true, h, rfl, by simp, rfl, rfl, rfl⟩

theorem sources_queue (s : State) (a : BitVec 5) (e : QEntry) (es : List QEntry) (ha : 24 ≤ a.toNat) (h : s.core.getQueue (a.toNat - 24) = e :: es)
    (hf : e.filled = true) : Spec.Sources s [a] { s with core := (s.core.setQueue (a.toNat - 24) es).saw s.core.sel [e] } [⟨e.bits, e.fmt⟩] := by
  have := taken_queue s a e es ha h
  rwa [hf] at this

/-- Format word of register a. -/
def sVec (tag : Nat) : State := putQ 1 [entry tag 9] (putV 2 tag 7 (putV 3 tag 5 sC))

theorem witness_VectorLanesComplete :
    ReadyC (sVec 6) ∧ (Instr.vadd 29 2 3 1 1 1).wellFormed = true ∧ (Spec.laneOp (sVec 6) (.vadd 29 2 3 1 1 1)).map (fun o => (o.long, o.srcs, o.dst))
      = some (false, [2, 3], 29) ∧ (sVec 6).popsQ3 [2, 3] = false ∧ (sVec 6).canPut 29 = true
    ∧ pairFmt arithTag true [((sVec 6).core.getV 2).fmt, ((sVec 6).core.getV 3).fmt] = some (mkFmt 6 0)
    ∧ (∃ s2 xs, Spec.Sources ((sVec 6).issued (.vadd 29 2 3 1 1 1)) [2, 3] s2 xs)
    ∧ (∃ s2 xs, Spec.Sources ((sVec 6).issued (.vslideUp 7 25 3 0 0 0)) [25] s2 xs) :=
  ⟨by unfold ReadyC Ready; decide +kernel, by decide +kernel, rfl, by decide +kernel, by decide +kernel, by decide +kernel,
    ⟨_, _, sources_regs _ _ _ (by decide) (by decide)⟩, ⟨_, _, sources_queue _ _ (entry 6 9) [] (by decide) (by decide +kernel) rfl⟩⟩

/-- The entry at the head of q1 is not yet filled. -/
def sVecLate : State := putQ 1 [{ entry 6 9 with filled := false }] (sVec 6)

theorem witness_VectorLanesComplete_unfilled :
    ReadyC sVecLate ∧ (Instr.vslideUp 7 25 3 0 0 0).wellFormed = true
    ∧ (Spec.laneOp sVecLate (.vslideUp 7 25 3 0 0 0)).map (fun o => (o.srcs, o.dst, o.fmt [mkFmt 6 0])) = some ([25], 7, some (mkFmt 6 0))
    ∧ sVecLate.popsQ3 [25] = false ∧ sVecLate.canPut 7 = true
    ∧ (∃ s2 xs, Spec.Taken (sVecLate.issued (.vslideUp 7 25 3 0 0 0)) [25] s2 xs false) :=
  ⟨by unfold ReadyC Ready; decide +kernel, by decide +kernel, rfl, by decide +kernel, by decide +kernel,
    ⟨_, _, taken_queue _ _ { entry 6 9 with filled := false } [] (by decide) (by decide +kernel)⟩⟩

theorem ids_below (s : State) (h : s.core.queues = Vector.replicate 8 []) :
    ∀ q, ∀ y ∈ s.core.getQueue q, y.id < s.core.nextId :=
  fun q _ hy => replicate_empty _ q s h hy

theorem witness_LongVectorLanesComplete :
    ReadyC (putV 2 6 7 sC) ∧ (Instr.vsqrt 23 2 0 0 0 15).wellFormed = true
    ∧ (Spec.laneOp (putV 2 6 7 sC) (.vsqrt 23 2 0 0 0 15)).map (fun o => (o.long, o.srcs, o.dst)) = some (true, [2], 23)
    ∧ (putV 2 6 7 sC).popsQ3 [2] = false ∧ (putV 2 6 7 sC).canPut 23 = true ∧ oneFmt specialTag [((putV 2 6 7 sC).core.getV 2).fmt] = some (mkFmt 6 0)
    ∧ (∃ s2 xs, Spec.Sources ((putV 2 6 7 sC).issued (.vsqrt 23 2 0 0 0 15)) [2] s2 xs)
    ∧ (∀ q, ∀ y ∈ (putV 2 6 7 sC).core.getQueue q, y.id < (putV 2 6 7 sC).core.nextId) :=
  ⟨by unfold ReadyC Ready; decide +kernel, by decide +kernel, rfl, by decide +kernel, by decide +kernel, by decide +kernel,
    ⟨_, _, Or.inl ⟨by decide, _, rfl, rfl, rfl, rfl⟩⟩, ids_below _ (by decide +kernel)⟩

theorem witness_WholeVectorsCompleteOrTagsTrap :
    ReadyC (sVec 15) ∧ (sVec 15).cur.mode = .user ∧ pairFmt arithTag true [((sVec 15).core.getV 2).fmt, ((sVec 15).core.getV 3).fmt] = none
    ∧ (Spec.wholeOp (sVec 6) (.vand 7 2 3 0 0 0)).isSome = true ∧ (Instr.vand 7 2 3 0 0 0).wellFormed = true ∧ (sVec 6).canPut 7 = true
    ∧ pairFmt (cmpTag false) true [((sVec 6).core.getV 2).fmt, ((sVec 6).core.getV 3).fmt] ≠ none ∧ (Instr.vcmp 7 2 3 0 0 0 0 0).wellFormed = true
    ∧ (Instr.vcompress 7 2 1 0).wellFormed = true ∧ isBe (tagOf (Spec.fm [(sVec 6).core.getV 2] 0)) = false ∧ (Instr.vpopm 5 2).wellFormed = true
    ∧ (Instr.vsplat 29 4 0 0 0).wellFormed = true ∧ (sVec 6).canPut 29 = true ∧ fRegTag (tagOf ((sVec 6).core.getF 4).fmt) = true
    ∧ (Instr.vzero 23 2 0).wellFormed = true ∧ isFsl (tagOf ((sVec 6).core.getV 2).fmt) = false
    ∧ isFsl (tagOf ((sVec 14).core.getV 2).fmt) = true ∧ (Instr.vswap 23 0).wellFormed = true ∧ ReadyC (sVec 6) := by
  unfold ReadyC Ready; decide +kernel

theorem witness_ReductionsComplete :
    ReadyC (sVec 4) ∧ (Instr.vredadd 7 25 0 1 0 0 2).wellFormed = true ∧ (Spec.reduce (sVec 4) (.vredadd 7 25 0 1 0 0 2)).isSome = true
    ∧ (sVec 4).popsQ3 [25] = false ∧ redTag (tagOf (mkFmt 4 0)) = some 6 ∧ ¬ ((1 : BitVec 1) = 1 ∧ 6 = 3) ∧ redTag (tagOf (mkFmt 1 0)) = some 3
    ∧ redTag (tagOf (mkFmt 15 0)) = none ∧ (sVec 4).cur.mode = .user
    ∧ (Instr.vredq 7 25 0 0 2).wellFormed = true ∧ tagOf ((putV 7 6 0 (sVec 4)).core.getV 7).fmt = 6
    ∧ (sVec 4).core.getQueue ((25 : BitVec 5).toNat - 24) = entry 4 9 :: [] ∧ (entry 4 9).filled = true ∧ isQfx 6 = false ∧ ReadyC (putV 7 6 0 (sVec 4))
    ∧ (∃ s2 x, Spec.Sources ((sVec 4).issued (.vredadd 7 25 0 1 0 0 2)) [25] s2 [x]) := by
  refine ⟨by unfold ReadyC Ready; decide +kernel, by decide +kernel, rfl, by decide +kernel, by decide +kernel, by decide +kernel, by decide +kernel,
    by decide +kernel, by decide +kernel, by decide +kernel, by decide +kernel, by decide +kernel, rfl, by decide +kernel,
    by unfold ReadyC Ready; decide +kernel, ⟨_, _, sources_queue _ _ (entry 4 9) [] (by decide) (by decide +kernel) rfl⟩⟩

/-- Three fp32 registers from v2 on. -/
def sPack : State := putV 4 6 1 (putV 2 6 7 (putV 3 6 5 sC))

theorem witness_PackingCompletes :
    ReadyC sPack ∧ (Instr.vpack 9 2 10 2).wellFormed = true ∧ (Spec.packing sPack (.vpack 9 2 10 2)).map (fun p => (p.1, p.2.1, p.2.2.1)) = some (9, 2, 10)
    ∧ (Spec.packing sPack (.vcvts 9 2 0 10 0 0 3)).isSome = true ∧ (Instr.vcvts 9 2 0 10 0 0 3).wellFormed = true ∧ sPack.canPut 9 = true
    ∧ beGroups 10 = 3 ∧ (∀ g, g < beGroups 10 → tagOf (sPack.core.getV (2 + g)).fmt = 6) ∧ tagOf ((sVec 6).core.getV 4).fmt ≠ 6
    ∧ (sVec 6).cur.mode = .user ∧ (Instr.vunpack 21 2 2).wellFormed = true ∧ isBe (tagOf ((sVec 10).core.getV 2).fmt) = true
    ∧ 21 + beGroups 10 ≤ 24 ∧ isBe (tagOf ((sVec 6).core.getV 2).fmt) = false ∧ ReadyC (sVec 6) ∧ ReadyC (sVec 10) := by
  unfold ReadyC Ready; decide +kernel

theorem witness_PackingCompletes_ids : ∀ q, ∀ y ∈ sPack.core.getQueue q, y.id < sPack.core.nextId := ids_below _ (by decide +kernel)

/-- Sixteen fp32 lanes, and a starting lane in g9: lane 15 holds 2.0 and the others 1.0; the same with a NaN in lane 1. -/
def lanes (x1 x15 : Nat) : Nat := (List.range 16).foldl (fun a l => a + (if l = 15 then x15 else if l = 1 then x1 else 0x3F800000) * 2 ^ (32 * l)) 0

def sPiv (start : Nat) (x1 : Nat) (thr : Nat) : State :=
  (put 9 start (putF 4 6 0x3F800000 (putV 5 6 1 (putV 2 6 (lanes x1 0xC0000000) sC)))).updSys (fun r => { r with pivThr := .ofNat 64 thr })

theorem witness_PivotsAndEliminationsComplete :
    ReadyC (sPiv 0 0x3F800000 0) ∧ (Instr.vpivot 3 2 9 0 0).wellFormed = true ∧ (Instr.vpivotR 3 2 9 0 0).wellFormed = true
    ∧ tagOf ((sPiv 0 0x3F800000 0).core.getV 2).fmt ∈ [6, 7, 12, 13] ∧ 16 ≤ ((sPiv 16 0 0).g 9).toNat
    ∧ (valueOf 6 0x7FC00000).unordered = true
    ∧ (∀ l, l < 16 → ((valueOf 6 (laneOf 6 (lanes 0x3F800000 0xC0000000) l)).unordered = false
      ∧ (valueOf 6 (laneOf 6 (lanes 0x3F800000 0xC0000000) l)).magnitude.compare (valueOf 6 0xC0000000).magnitude ≤ 0
      ∧ (l < 15 → (valueOf 6 (laneOf 6 (lanes 0x3F800000 0xC0000000) l)).magnitude.compare (valueOf 6 0xC0000000).magnitude < 0)))
    ∧ 0 < (valueOf 6 0xC0000000).magnitude.compare (pivReg 6 0) ∧ (valueOf 6 0xC0000000).magnitude.compare (pivReg 6 0x7FF0000000000000) ≤ 0
    ∧ (Instr.velim 5 2 4 0 0 0).wellFormed = true ∧ tagOf ((sPiv 0 0 0).core.getF 4).fmt = 6 ∧ tagOf ((sPiv 0 0 0).core.getV 5).fmt = 6
    ∧ (Instr.vreg 5 9 4).wellFormed = true ∧ (sPiv 0 0 0).cur.mode = .user ∧ tagOf ((putF 4 7 0 (sPiv 0 0 0)).core.getF 4).fmt ≠ 6
    ∧ ReadyC (putF 4 7 0 (sPiv 0 0 0)) ∧ ReadyC (sPiv 16 0 0) ∧ ReadyC (sPiv 0 0x7FC00000 0) := by
  unfold ReadyC Ready; decide +kernel

theorem witness_PivotsAndEliminationsComplete_tags :
    ∀ tag ∈ [0, 4, 14], (ReadyC (putV 2 tag 0 sC) ∧ (putV 2 tag 0 sC).cur.mode = .user
      ∧ tagOf ((putV 2 tag 0 sC).core.getV 2).fmt ∉ [6, 7, 12, 13]) := by
  unfold ReadyC Ready; decide +kernel

/-- An elimination step that has done its lanes below n. -/
def opElim (n : Nat) : LongOp :=
  { opG1 with dests := [.v 5], part := true, prog := n, work := .velim 5 ⟨.ofNat 512 (lanes 0 0), mkFmt 6 0⟩ ⟨0x3F800000, mkFmt 6 0⟩ ⟨0, mkFmt 6 0⟩ none false }

def sElim (n : Nat) : State := { sC with core := { sC.core with c := { sC.core.c with flight := [opElim n] } } }

theorem witness_PivotsAndEliminationsComplete_lanes :
    ∀ n ∈ [0, 3, 15], ((sElim n).core.task.isSome = true ∧ (sElim n).core.c.exited = false ∧ (sElim n).core.freezes (opElim n) = false
      ∧ (sElim n).dev.poison = [] ∧ (sElim n).core.c.flight = [opElim n] ∧ (opElim n).status = .running ∧ n < lanesOf 6) := by decide +kernel

/-- Two f registers of one tag. -/
def sFl (tag x y : Nat) : State := putF 2 tag y (putF 1 tag x sC)

theorem witness_LongFloatsComplete :
    ReadyC (sFl 6 0x3F800000 0x40000000) ∧ (Instr.fadd 4 1 2 3).wellFormed = true
    ∧ ((Spec.floatLong (sFl 6 0x3F800000 0x40000000) (.fadd 4 1 2 3)).map (fun o => o.2.2)).map Option.isSome = some true
    ∧ ((Spec.floatLong (putF 1 7 0 (sFl 6 0 0)) (.fadd 4 1 2 3)).map (fun o => o.2.2)).map Option.isSome = some false
    ∧ (sFl 6 0 0).cur.mode = .user ∧ (Instr.f2g 8 1 2).wellFormed = true ∧ (Spec.real ((sFl 13 0 0).core.getF 1).fmt || tagOf ((sFl 13 0 0).core.getF 1).fmt == 12) = true
    ∧ (Spec.real ((sFl 3 0 0).core.getF 1).fmt || tagOf ((sFl 3 0 0).core.getF 1).fmt == 12) = false ∧ ((sFl 6 0x7FC00000 0).core.getF 1).val.unordered = true
    ∧ ((sFl 6 0xFF800000 0).core.getF 1).val = .inf true ∧ ReadyC (sFl 13 0 0) ∧ ReadyC (sFl 3 0 0) := by
  unfold ReadyC Ready; decide +kernel

theorem witness_ShortFloatsComplete :
    ReadyC (sFl 6 0x3F800000 0x40000000) ∧ (Instr.fmin 4 1 2).wellFormed = true
    ∧ ((Spec.floatShort (sFl 6 0x3F800000 0x40000000) (.fmin 4 1 2)).map (fun o => o.2.2)).map Option.isSome = some true
    ∧ ((Spec.floatShort (sFl 3 0 0) (.fabs 4 1)).map (fun o => o.2.2)).map Option.isSome = some false
    ∧ (Instr.fle 4 1 2).wellFormed = true ∧ (Spec.floatCompare (.fle 4 1 2)).isSome = true
    ∧ (tagOf ((sFl 6 0 0).core.getF 1).fmt = tagOf ((sFl 6 0 0).core.getF 2).fmt ∧ (Spec.real ((sFl 6 0 0).core.getF 1).fmt || tagOf ((sFl 6 0 0).core.getF 1).fmt == 12) = true)
    ∧ (Instr.fmvg 8 1).wellFormed = true ∧ (Instr.gmvf 9 5 0).wellFormed = true ∧ (Instr.fnum 8 1).wellFormed = true ∧ (Instr.fden 8 1).wellFormed = true
    ∧ isFsl (tagOf ((sFl 14 0 0).core.getF 1).fmt) = true ∧ isFsl (tagOf ((sFl 6 0 0).core.getF 1).fmt) = false
    ∧ (0xFFC00 : BitVec 20).toNat / 2 ^ 10 = 1023 ∧ (0xFFC00 : BitVec 20).toNat % 2 ^ 10 = 0 ∧ sC.core.sys.fslm = false
    ∧ ReadyC (sC.updSys (fun r => { r with fslm := true })) ∧ ReadyC (sFl 14 0 0) ∧ ReadyC (sFl 3 0 0) := by
  unfold ReadyC Ready; decide +kernel

/-! ### Matrices and tiles -/

def useOk (x : GroupRes) : Option State :=
  match x with
  | .ok s _ => some s
  | _ => none

theorem all_tags (fs : List (BitVec 16)) (t : Nat) (h : fs.all (fun x => tagOf x == t) = true) : ∀ x, x ∈ fs → tagOf x = t := by
  simpa using h

/-- A tile that may be used stands ready. -/
theorem tile_ready (s : State) (d : BitVec 5) (tag : TileTag) (h : (useOk (s.useTile d.toNat)).map (fun t => (t.core.getTile d.toNat).tag) = some tag) :
    ∃ s1, Spec.TileReady s s1 d ∧ (∀ x, s.useTile d.toNat = .ok s1 x → s1.core.getTile d.toNat = s1.core.getTile d.toNat)
      ∧ (s1.core.getTile d.toNat).tag = tag := by
  cases hu : s.useTile d.toNat with
  | ok t v =>
    rw [hu] at h
    exact ⟨t, ⟨v, hu⟩, fun _ _ => rfl, by simpa [useOk] using h⟩
  | _ => rw [hu] at h; simp [useOk] at h

def owned (d : Nat) (tag : TileTag) (s : State) : State :=
  { s with core := (s.core.setAot d { AotEntry.free with state := .owned, owner := s.taskCtx, first := d }).setTile d ⟨tag, Vector.replicate 256 0⟩ }

/-- A core of its own gang, tile 3 of the table ready, pairs in g2, g3 and g4, g5, and sixteen registers of the tag of a format. -/
def sMac (f mask : Nat) : State :=
  let s := put 4 1024 (put 5 (64 + 3 * 2 ^ 36) (put 2 64 (put 3 (64 + 3 * 2 ^ 36) mC)))
  let s := (List.range 16).foldl (fun s n => putV n (mmacTag f) n s) s
  { s.updSys (fun r => { r with gangMask := .ofNat 8 mask }) with core := (s.core.setEntry 3 ⟨.ready, 0, 0, 0, 0, 16, 64, 64⟩) }
    |>.updSys (fun r => { r with gangMask := .ofNat 8 mask })

theorem witness_MatrixMultiplyCompletes_state :
    ∀ mask ∈ [1, 3], (ReadyC (sMac 0 mask) ∧ (sMac 0 mask).cur.drain = none ∧ (sMac 0 mask).isUpdate = false
      ∧ (sMac 0 mask).core.leads = true ∧ Spec.FillsFreely (sMac 0 mask) 4 ∧ Spec.ADone (sMac 2 mask)) := by
  unfold ReadyC Ready Spec.FillsFreely Spec.ADone Spec.NoLineHeld; decide +kernel

theorem witness_MatrixMultiplyCompletes_gang : Spec.GangOfOne (sMac 0 1) ∧ ¬ Spec.GangOfOne (sMac 0 3) := by
  unfold Spec.GangOfOne; decide +kernel

theorem witness_MatrixMultiplyCompletes_forms :
    Spec.macParts (.mmacVv 4 0 8 0 4 3) = some (false, false, 4, 0, 8, 0, 4) ∧ (Instr.mmacVv 4 0 8 0 4 3).wellFormed = true
    ∧ Spec.macParts (.mmacSs 4 2 4 2 0 3) = some (true, true, 4, 2, 4, 2, 0) ∧ (Instr.mmacSs 4 2 4 2 0 3).wellFormed = true
    ∧ (sMac 0 1).core.sys.gangMask = .ofNat 8 (2 ^ (sMac 0 1).core.cidx) ∧ (sMac 0 3).core.sys.gangMask ≠ .ofNat 8 (2 ^ (sMac 0 3).core.cidx) := by
  refine ⟨rfl, by decide +kernel, rfl, by decide +kernel, by decide +kernel, by decide +kernel⟩

theorem witness_MatrixMultiplyCompletes_registers :
    ∃ ma mb fa fb, Spec.MacSource ((sMac 0 1).issued (.mmacVv 4 0 8 0 4 3)) false 0 0 ((sMac 0 1).issued (.mmacVv 4 0 8 0 4 3)) ma fa
      ∧ Spec.MacSource ((sMac 0 1).issued (.mmacVv 4 0 8 0 4 3)) false 8 0 ((sMac 0 1).issued (.mmacVv 4 0 8 0 4 3)) mb fb
      ∧ (∀ x, x ∈ fa ++ fb → tagOf x = mmacTag 0) :=
  ⟨_, _, _, _, Or.inl ⟨by decide, rfl, rfl, rfl⟩, Or.inl ⟨by decide, rfl, rfl, rfl⟩, all_tags _ _ (by decide +kernel)⟩

theorem witness_MatrixMultiplyCompletes_scratch :
    ∃ ma mb, Spec.MacSource ((sMac 2 1).issued (.mmacSs 4 2 4 2 0 3)) true 2 2 ((sMac 2 1).issued (.mmacSs 4 2 4 2 0 3)) ma []
      ∧ Spec.MacSource ((sMac 2 1).issued (.mmacSs 4 2 4 2 0 3)) true 4 2 ((sMac 2 1).issued (.mmacSs 4 2 4 2 0 3)) mb [] :=
  ⟨_, _, ⟨rfl, rfl, rfl, by decide +kernel, by decide +kernel⟩, ⟨rfl, rfl, rfl, by decide +kernel, by decide +kernel⟩⟩

theorem witness_MatrixMultiplyCompletes_tiles :
    (∃ s3, Spec.TileReady ((sMac 0 1).issued (.mmacVv 4 0 8 0 4 3)) s3 4
      ∧ (∀ x, ((sMac 0 1).issued (.mmacVv 4 0 8 0 4 3)).useTile 4 = .ok s3 x → s3.core.getTile 4 = s3.core.getTile 4) ∧ (s3.core.getTile 4).tag = .raw)
    ∧ (∃ s3, Spec.TileReady ((owned 4 .fp32 (sMac 0 1)).issued (.mmacVv 4 0 8 0 4 3)) s3 4
      ∧ (∀ x, ((owned 4 .fp32 (sMac 0 1)).issued (.mmacVv 4 0 8 0 4 3)).useTile 4 = .ok s3 x → s3.core.getTile 4 = s3.core.getTile 4)
      ∧ (s3.core.getTile 4).tag = .fp32) :=
  ⟨tile_ready _ 4 .raw (by decide +kernel), tile_ready _ 4 .fp32 (by decide +kernel)⟩

/-- An mmac of a gang of cores 0 and 1 into tile d. -/
def opMac (d : BitVec 5) (st : OpStatus) : LongOp :=
  { opG1 with word := encode (.mmacVv d 0 8 0 4 3), dests := [], joint := true, members := 3, status := st, met := st == .running,
              work := .mmac 0 4 d.toNat (.regs (List.replicate 8 ⟨0, mkFmt 4 0⟩)) (.regs (List.replicate 8 ⟨0, mkFmt 4 0⟩)) }

/-- Core 0, the leader, and core 1 in their mmac: at the gang, or running. -/
def sGangAt (st : OpStatus) : State :=
  let s0 := (owned 4 .fp32 (sMac 0 3)).updCur (fun x => { x with flight := [opMac 4 st] })
  let s1 := (owned 5 .raw (sMac 0 3)).updCur (fun x => { x with flight := [opMac 5 st] })
  { s0 with cores := [{ s1.core with pid := 1 }] }

def sGang : State := sGangAt .gang

def sMet : State := sGangAt .running

/-- The joint instruction of each of the two cores. -/
def jointOf (p : Nat) : LongOp := if p = 0 then opMac 4 .gang else opMac 5 .gang

theorem witness_GangsMeet :
    gangCores sGang.core.cluster (jointOf 0).members = [0, 1] ∧ sGang.core.pid = 0
    ∧ (∀ p ∈ [0, 1], ((p = sGang.core.pid ∨ sameTeam sGang.core (sGang.coreAt p) = true) ∧ Spec.AtJoint (sGang.coreAt p) (jointOf p)
      ∧ (jointOf p).members = (jointOf 0).members ∧ Spec.SameFunction (jointOf 0).word (jointOf p).word))
    ∧ (jointOf 0).members.getLsbD sGang.core.cidx = true := by
  unfold Spec.AtJoint Spec.SameFunction; decide +kernel

/-- Core 1 runs a task of another command, or does not run at all. -/
def sStranger : State :=
  { sGang with cores := sGang.cores.map (fun k => { k with task := k.task.map (fun t => { t with seq := 99 }) }) }

theorem witness_GangsMeet_mismatches :
    ({ jointOf 0 with members := 2 } : LongOp).members.getLsbD sGang.core.cidx = false
    ∧ sameTeam sStranger.core (sStranger.coreAt 1) = false ∧ Spec.AtJoint sStranger.core (jointOf 0)
    ∧ ({ jointOf 1 with members := 2 } : LongOp).members ≠ (jointOf 0).members
    ∧ sGang.gangAgrees (sGang.coreAt 1) { jointOf 1 with members := 2 } = false
    ∧ ¬ Spec.SameFunction (encode (.fwchunk 20 1 0)) (encode (.fwread 20 2 0))
    ∧ ¬ Spec.SameFunction (encode (.mmacVv 4 0 8 0 4 3)) (encode (.mmacSv 4 2 8 0 4 3)) := by
  unfold Spec.AtJoint Spec.SameFunction; decide +kernel

theorem witness_GangsMeet_runs :
    sMet.dev.poison = [] ∧ sMet.gangHeads (opMac 4 .running) = some [(0, opMac 4 .running), (1, opMac 5 .running)] ∧ [0, 1].Nodup
    ∧ sMet.core.c.flight = [opMac 4 .running] ∧ (sMet.coreAt 1).c.flight = [opMac 5 .running] ∧ (sMet.core.getAot 4).state = .owned
    ∧ ((sMet.coreAt 1).getAot 5).state = .owned ∧ sMet.tileForeign 4 = false ∧ (sMet.select 1).tileForeign 5 = false
    ∧ (sMet.core.getTile 4).tag = .fp32 ∧ ((sMet.coreAt 1).getTile 5).tag = .raw
    ∧ sMet.gangUnseen [(0, opMac 4 .running), (1, opMac 5 .running)] = false ∧ ¬ (sMet.core.a.exited = true ∧ sMet.core.c.exited = true)
    ∧ sMet.core.selfMoves (opMac 4 .running) = true ∧ (sMet.coreAt 1).selfMoves (opMac 5 .running) = true ∧ 0 < mmacK 0 / 2 ^ 4 := by decide +kernel

def foreign (d : Nat) (s : State) : State := { s with core := s.core.setAot d { AotEntry.free with state := .owned, owner := 99, first := d } }

theorem witness_TileOwnershipIsChecked :
    31 < 32 ∧ (mC.core.getAot 31).state = .free ∧ ((owned 31 .fp32 mC).core.getAot 31).state = .owned
    ∧ ((owned 31 .fp32 mC).core.getAot 31).owner = (owned 31 .fp32 mC).taskCtx ∧ ReadyC (foreign 5 mC) ∧ (foreign 5 mC).cur.mode = .user
    ∧ (foreign 5 mC).cur.drain = none ∧ (Instr.mzero 5 15).wellFormed = true ∧ (Instr.mfree 5).wellFormed = true
    ∧ (Instr.mspill 5 0).wellFormed = true ∧ (Instr.mfill 5 0).wellFormed = true ∧ ((foreign 5 mC).core.getAot 5).state ≠ .free
    ∧ ((foreign 5 mC).core.getAot 5).owner ≠ (foreign 5 mC).taskCtx := by
  unfold ReadyC Ready; decide +kernel

theorem witness_TileOwnershipIsChecked_operands :
    ReadyC (foreign 4 (sMac 0 1)) ∧ (foreign 4 (sMac 0 1)).cur.mode = .user ∧ (foreign 4 (sMac 0 1)).cur.drain = none
    ∧ (foreign 4 (sMac 0 1)).isUpdate = false ∧ ((foreign 4 (sMac 0 1)).core.getAot 4).state ≠ .free
    ∧ ((foreign 4 (sMac 0 1)).core.getAot 4).owner ≠ (foreign 4 (sMac 0 1)).taskCtx ∧ (Instr.mload 4 2 1).wellFormed = true
    ∧ (Instr.mstore 4 2 1).wellFormed = true ∧ (Instr.mdrain 4 0 2 2).wellFormed = true ∧ (Instr.mdrain 4 8 31 0).wellFormed = true
    ∧ (Instr.fwchunk 4 7 0).wellFormed = true ∧ (Instr.mmacVv 4 0 8 0 4 3).wellFormed = true ∧ (Instr.fwread 4 0 2).wellFormed = true
    ∧ (Instr.fwdelta 4 0 8 3 2).wellFormed = true := by
  unfold ReadyC Ready; decide +kernel

theorem witness_TileOwnershipIsChecked_forms :
    Spec.OperandsStand (foreign 4 (sMac 0 1)) (.mmacVv 4 0 8 0 4 3) 4 ∧ Spec.OperandsStand (foreign 4 (sMac 0 1)) (.mload 4 2 1) 4
    ∧ Spec.OperandsStand (foreign 4 (sMac 0 1)) (.mstore 4 2 1) 4 ∧ Spec.OperandsStand (foreign 4 (sMac 0 1)) (.mdrain 4 8 31 0) 4
    ∧ Spec.OperandsStand (foreign 4 (sMac 0 1)) (.mdrain 4 0 2 2) 4 ∧ Spec.OperandsStand (foreign 4 (sMac 0 1)) (.fwchunk 4 7 0) 4 :=
  ⟨Or.inl ⟨_, _, _, _, _, _, _, _, _, _, _, _, rfl, by decide +kernel, Or.inl ⟨by decide, rfl, rfl, rfl⟩, Or.inl ⟨by decide, rfl, rfl, rfl⟩,
      all_tags _ _ (by decide +kernel)⟩,
    Or.inr (Or.inl ⟨2, 1, .load, Or.inl ⟨rfl, rfl⟩, by decide +kernel, by decide +kernel⟩),
    Or.inr (Or.inl ⟨2, 1, .store, Or.inr ⟨rfl, rfl⟩, by decide +kernel, by decide +kernel⟩),
    Or.inr (Or.inr (Or.inl ⟨8, 31, 0, rfl, by decide +kernel, by decide⟩)),
    Or.inr (Or.inr (Or.inl ⟨0, 2, 2, rfl, by decide +kernel, by decide +kernel⟩)),
    Or.inr (Or.inr (Or.inr (Or.inr (Or.inr ⟨7, 0, rfl⟩))))⟩

theorem witness_TileOwnershipIsChecked_fast :
    Spec.OperandsStand (foreign 4 (putV 0 6 0 (putV 8 6 0 (sMac 0 1)))) (.fwdelta 4 0 8 3 2) 4 ∧ Spec.OperandsStand (foreign 4 (putV 0 6 0 (putV 8 6 0 (sMac 0 1)))) (.fwread 4 0 2) 4 :=
  ⟨Or.inr (Or.inr (Or.inr (Or.inl ⟨0, 8, 3, 2, _, _, _, _, _, _, rfl, by decide +kernel, Or.inl ⟨by decide, rfl, rfl, rfl⟩,
      Or.inl ⟨by decide, rfl, rfl, rfl⟩, all_tags _ _ (by decide +kernel)⟩))),
    Or.inr (Or.inr (Or.inr (Or.inr (Or.inl ⟨0, 2, _, _, _, rfl, by decide +kernel, Or.inl ⟨by decide, rfl, rfl, rfl⟩,
      all_tags _ _ (by decide +kernel), by decide +kernel⟩))))⟩

theorem witness_TileMovesAndDrainsComplete :
    ReadyC (sMac 0 1) ∧ (sMac 0 1).cur.drain = none ∧ (Instr.mload 4 2 1).wellFormed = true ∧ (Instr.mstore 4 2 1).wellFormed = true
    ∧ (∀ u ∈ [PairUse.load, .store, .drain], checkPairs (sMac 0 1).core [(sMac 0 1).readPair 2 u] = none)
    ∧ (∀ u ∈ [PairUse.load, .store], busyTile (sMac 0 1).core [(sMac 0 1).readPair 2 u] = none)
    ∧ (Instr.mdrain 4 0 2 2).wellFormed = true ∧ (Instr.mdrain 4 8 31 0).wellFormed = true ∧ ((sMac 0 1).core.getEntry 3).jobs < 255
    ∧ (pairOf ((sMac 0 1).g 2) ((sMac 0 1).g 3)).tid = 3 ∧ ((sMac 0 1).core.getQueue 7).length < 16 ∧ ((sMac 0 1).g 8).toNat % 2 = 0
    ∧ Spec.FillsFreely (sMac 0 1) 4 ∧ Spec.ADone (sMac 0 1) := by
  unfold ReadyC Ready Spec.FillsFreely Spec.ADone Spec.NoLineHeld; decide +kernel

theorem witness_TileMovesAndDrainsComplete_tiles :
    (∃ s1, Spec.TileReady ((sMac 0 1).issued (.mzero 4 15)) s1 4) ∧ (∃ s1, Spec.TileReady ((sMac 0 1).issued (.mload 4 2 1)) s1 4)
    ∧ (∃ s1, Spec.TileReady ((sMac 0 1).issued (.mstore 4 2 1)) s1 4) ∧ (∃ s1, Spec.TileReady ((sMac 0 1).issued (.mdrain 4 0 2 2)) s1 4)
    ∧ ∃ s1, Spec.TileReady ((sMac 0 1).issued (.mdrain 4 8 31 0)) s1 4 :=
  ⟨(tile_ready _ 4 .raw (by decide +kernel)).imp fun _ h => h.1, (tile_ready _ 4 .raw (by decide +kernel)).imp fun _ h => h.1,
    (tile_ready _ 4 .raw (by decide +kernel)).imp fun _ h => h.1, (tile_ready _ 4 .raw (by decide +kernel)).imp fun _ h => h.1,
    (tile_ready _ 4 .raw (by decide +kernel)).imp fun _ h => h.1⟩

/-- A drain without a handler, at a row. -/
def opBare (queue : Bool) (row : Nat) : LongOp :=
  { opG1 with dests := [], prog := row, work := .mdrain 4 (if queue then .queue 7 else .scratch (pairOf 64 (64 + 3 * 2 ^ 36))) none }

def sBare (queue : Bool) (row : Nat) : State := (owned 4 .fp32 (sMac 0 1)).updCur (fun st => { st with flight := [opBare queue row] })

theorem witness_TileMovesAndDrainsComplete_rows :
    ∀ queue ∈ [true, false], ∀ row ∈ [0, 15], ((sBare queue row).core.c.flight = [opBare queue row] ∧ (opBare queue row).status = .running
      ∧ (sBare queue row).core.freezes (opBare queue row) = false ∧ (sBare queue row).dev.poison = [] ∧ (sBare queue row).core.c.exited = false
      ∧ ((sBare queue row).core.getAot 4).state = .owned ∧ ((sBare queue row).core.getAot 4).owner = (sBare queue row).taskCtx
      ∧ (opBare queue row).prog < 16 ∧ ((sBare queue row).core.getQueue 7).length < 16) := by decide +kernel

/-- A drain into q7 or the scratchpad, at a row of its handler. -/
def opDrain (queue : Bool) (row : Nat) : LongOp :=
  { opG1 with dests := [], prog := row, work := .mdrain 4 (if queue then .queue 7 else .scratch (pairOf 64 (64 + 3 * 2 ^ 36))) (some 0x1000) }

def sHret (queue : Bool) (row : Nat) : State :=
  (owned 4 .fp32 (sMac 0 1)).updCur (fun st => { st with flight := [opDrain queue row], drain := some ⟨0, 0x1004⟩ })

theorem witness_TileMovesAndDrainsComplete_handler :
    ∀ queue ∈ [true, false], ∀ row ∈ [0, 15], ((sHret queue row).core.sel = .c ∧ (sHret queue row).canIssue = true ∧ (sHret queue row).dueTrap.isNone = true
      ∧ (sHret queue row).cur.wins = [] ∧ (sHret queue row).cur.fence = [] ∧ (sHret queue row).dev.poison = []
      ∧ (sHret queue row).cur.flight = [opDrain queue row] ∧ (sHret queue row).cur.drain.map (fun x => x.op) = some (opDrain queue row).id
      ∧ (opDrain queue row).dests = [] ∧ (opDrain queue row).prog < 16) := by decide +kernel

/-- A group of n tiles from 20 on under key 0x777 with its record at 0x80000. -/
def groupOf (n : Nat) (st : AotState) (s : State) : State :=
  let k := (List.range n).foldl (fun (k : Core) x => (k.setAot (20 + x) ⟨st, s.taskCtx, 20, n, false, 7, 0x777, 0x80000⟩).setTile (20 + x)
    ⟨.fp32, Vector.replicate 256 0⟩) s.core
  let s1 := { s with core := k }
  s1.updCtx s.taskCtx (fun x => { x with pins := ⟨0x777, some s.core.pid, 20, n, st, none, 7, 0x80000⟩ :: x.pins })

def group (st : AotState) (s : State) : State := groupOf 2 st s

/-- A key in g9, and a count and address in g10. -/
def sPin (key n : Nat) (s : State) : State := put 10 n (put 9 key s)

theorem witness_TileGroupsComplete :
    ReadyC (sPin 0xFFFFFFFF 32 mC) ∧ mC.cur.drain = none ∧ (Instr.mpin 0 9 10).wellFormed = true
    ∧ (sPin 0xFFFFFFFF 32 mC).g 9 = (0xFFFFFFFF : BitVec 32).zeroExtend 64 ∧ ((sPin 0xFFFFFFFF 32 mC).g 10).toNat < 2 ^ 56
    ∧ ((sPin 0xFFFFFFFF 32 mC).g 10).toNat % 64 = 32 ∧ (∀ x, x < 32 → (mC.core.getAot (0 + x)).state = .free)
    ∧ (mC.ctxAt mC.taskCtx).pins = [] ∧ TileTag.fp32 ≠ .raw ∧ TileTag.fp32 ≠ .i32
    ∧ ((owned 5 .i32 mC).core.getAot 5).state = .owned ∧ ((owned 5 .i32 mC).core.getTile 5).tag = .i32
    ∧ ((sPin 0x777 3 (group .pinned mC)).ctxAt mC.taskCtx).pins.map (fun p => p.key) = [0x777]
    ∧ ReadyC (sPin 0x777 3 (group .pinned mC)) ∧ (Instr.mpin 4 9 10).wellFormed = true ∧ mC.cur.mode = .user := by
  unfold ReadyC Ready; decide +kernel

theorem witness_TileGroupsComplete_groups :
    ∀ st ∈ [AotState.pinned, .spilled], (ReadyC (sPin 0x777 0 (group st mC)) ∧ Spec.NoLineHeld (group st mC)
      ∧ ((group st mC).core.getAot 20).owner < 2 ^ 16 ∧ ((group st mC).core.getAot 20).owner = (group st mC).taskCtx
      ∧ ((group st mC).core.getAot 20).state = st ∧ ((group st mC).core.getAot 20).first = 20 ∧ 20 + ((group st mC).core.getAot 20).count ≤ 32
      ∧ (group st mC).locate (recordWho (group st mC).core.pid ((group st mC).core.getAot 20).owner) .engWrite 0x80000 (64 + 1024 * 2)
          = .ok [.phys false 0x280000 2112 2 0 0 1]
      ∧ ((group st mC).ctxAt (group st mC).taskCtx).pin 0x777 = some ⟨0x777, some 0, 20, 2, st, none, 7, 0x80000⟩) := by
  unfold ReadyC Ready Spec.NoLineHeld; decide +kernel

/-- Zero bytes taken into a checksum, each before the next. -/
def crcZeros : Nat → Nat → Nat
  | 0, c => c
  | n + 1, c => match c with
    | 0 => crcZeros n (crcByte 0 0)
    | k + 1 => crcZeros n (crcByte (k + 1) 0)

theorem crcZeros_eq (n c : Nat) : crcZeros n c = (List.replicate n (0 : Byte)).foldl crcByte c := by
  induction n generalizing c with
  | zero => rfl
  | succ n ih => cases c <;> simp [crcZeros, ih, List.replicate_succ]

theorem crc_zeros : crc32c (List.replicate 1024 0) = 4004437628 := by
  rw [crc32c, ← crcZeros_eq, show crcZeros 1024 0xFFFFFFFF = 290529667 by decide +kernel]
  rfl

theorem get_beyond (m : Memory) (a x : Nat) (h : m.all (fun c => decide (c.1 < a)) = true) (hx : a ≤ x) : Memory.get m x = 0 := by
  induction m with
  | nil => rfl
  | cons c m ih =>
    simp only [List.all_cons, Bool.and_eq_true, decide_eq_true_eq] at h
    rw [Memory.get, if_neg (by omega), ih h.2]

theorem read_beyond (m : Memory) (a : Nat) (h : m.all (fun c => decide (c.1 < a)) = true) (n x : Nat) (hx : a ≤ x) :
    Memory.read m x n = List.replicate n 0 := by
  induction n generalizing x with
  | zero => rfl
  | succ n ih => rw [Memory.read, get_beyond m a x h hx, ih _ (by omega), List.replicate_succ]

theorem read_add (m : Memory) (a p q : Nat) : Memory.read m a (p + q) = Memory.read m a p ++ Memory.read m (a + p) q := by
  induction p generalizing a with
  | zero => simp [Memory.read]
  | succ p ih => rw [Nat.succ_add, Memory.read, ih, Memory.read, List.cons_append, Nat.add_assoc, Nat.add_comm 1 p]

/-- The record of a spilled group of one tile of zeros, whole or with another magic number. -/
def record (magic : Nat) : State :=
  let s := groupOf 1 .spilled mC
  { s with pool := Memory.write s.pool 0x280000 (natBytes magic 4 ++ natBytes 0x777 4 ++ natBytes 1 2 ++ natBytes 6 2 ++ natBytes 1 1 ++ natBytes 20 1
      ++ natBytes 0 2 ++ natBytes 7 4 ++ natBytes 4004437628 4) }

theorem witness_TileGroupsComplete_record :
    (record 0x4B5A4650).peekAll [.phys false 0x280000 1088 2 0 0 1]
        = natBytes 0x4B5A4650 4 ++ natBytes 0x777 4 ++ natBytes 1 2 ++ natBytes 6 2 ++ natBytes 1 1 ++ natBytes 20 1 ++ natBytes 0 2 ++ natBytes 7 4
          ++ natBytes (crc32c (List.replicate 1024 0)) 4 ++ List.replicate 40 0 ++ List.replicate 1024 0 := by
  rw [crc_zeros, List.append_assoc, List.replicate_append_replicate]
  show Memory.read (record 0x4B5A4650).pool 0x280000 (24 + 1064) ++ [] = _
  rw [List.append_nil, read_add, read_beyond (record 0x4B5A4650).pool 0x280018 (by decide +kernel) 1064 (0x280000 + 24) (by decide),
    show Memory.read (record 0x4B5A4650).pool 0x280000 24 = natBytes 0x4B5A4650 4 ++ natBytes 0x777 4 ++ natBytes 1 2 ++ natBytes 6 2
      ++ natBytes 1 1 ++ natBytes 20 1 ++ natBytes 0 2 ++ natBytes 7 4 ++ natBytes 4004437628 4 by decide +kernel]

theorem witness_TileGroupsComplete_records :
    (∀ magic ∈ [0x4B5A4650, 5], (ReadyC (record magic) ∧ (record magic).cur.mode = .user ∧ (record magic).locate (recordWho 0 1) .engRead 0x80000 (64 + 1024 * 1)
          = .ok [.phys false 0x280000 1088 2 0 0 1]
      ∧ ((record magic).ctxAt (record magic).taskCtx).pin 0x777 = some ⟨0x777, some 0, 20, 1, .spilled, none, 7, 0x80000⟩
      ∧ (record magic).core.getAot 20 = ⟨.spilled, (record magic).taskCtx, 20, 1, false, 7, 0x777, 0x80000⟩ ∧ (record magic).taskCtx = 1))
    ∧ Spec.RecordDiffers ((record 5).peekAll [.phys false 0x280000 1088 2 0 0 1]) ⟨0x777, some 0, 20, 1, .spilled, none, 7, 0x80000⟩ 1
    ∧ Spec.RecordDiffers ((record 0x4B5A4650).peekAll [.phys false 0x280000 1088 2 0 0 1]) ⟨0x778, some 0, 20, 1, .spilled, none, 7, 0x80000⟩ 1
    ∧ Spec.RecordDiffers ((record 0x4B5A4650).peekAll [.phys false 0x280000 1088 2 0 0 1]) ⟨0x777, some 0, 20, 1, .spilled, none, 7, 0x80000⟩ 2
    ∧ Spec.RecordDiffers ((record 0x4B5A4650).peekAll [.phys false 0x280000 1088 2 0 0 1]) ⟨0x777, some 0, 20, 2, .spilled, none, 7, 0x80000⟩ 1
    ∧ (record 5).logMode (record 5).who = 0
    ∧ ((sPin 0x778 0 (group .pinned mC)).ctxAt mC.taskCtx).pin 0x778 = none ∧ (Instr.mown 8 9 2).wellFormed = true := by
  unfold ReadyC Ready
  refine ⟨by decide +kernel, Or.inl (by decide +kernel), Or.inr (Or.inl (by decide +kernel)), Or.inr (Or.inr (Or.inl (by decide +kernel))),
    Or.inr (Or.inr (Or.inr (Or.inl (by decide +kernel)))), by decide +kernel, by decide +kernel, by decide +kernel⟩

/-- A pinned group, sixteen registers, queues q0 to q2 of filled fp32 entries, and gates in f3. -/
def sFast : State :=
  let s := (List.range 16).foldl (fun s n => putV n 6 n s) (group .pinned (sMac 0 1))
  let s := (List.range 3).foldl (fun s q => putQ q (List.replicate 3 (entry 6 q)) s) s
  putF 3 6 0x3F0000003F800000 s

theorem witness_FastWeightsComplete :
    ReadyC sFast ∧ sFast.cur.drain = none ∧ sFast.isUpdate = false ∧ (Instr.fwdelta 20 22 24 3 2).wellFormed = true ∧ Spec.GangOfOne sFast
    ∧ sFast.core.leads = true ∧ Spec.FastGroup sFast 20 2 ∧ 22 + 2 ≤ 24 ∧ (Instr.fwdelta 20 2 25 3 2).wellFormed = true
    ∧ (Instr.fwread 20 2 2).wellFormed = true ∧ (sFast.core.getQueue 4).length < 16 ∧ (Instr.fwchunk 20 7 3).wellFormed = true
    ∧ sFast.core.getQueue 0 = [entry 6 0, entry 6 0] ++ entry 6 0 :: [] ∧ sFast.core.getQueue 1 = entry 6 1 :: [entry 6 1, entry 6 1]
    ∧ sFast.core.getQueue 2 = [entry 6 2, entry 6 2] ++ [entry 6 2]
    ∧ (∀ e, e ∈ [entry 6 2, entry 6 0, entry 6 1] → (e.filled = true ∧ tagOf e.fmt = 6)) := by
  unfold ReadyC Ready Spec.GangOfOne Spec.FastGroup; decide +kernel

theorem witness_FastWeightsComplete_operands :
    ∃ mk fk mv fv s2, Spec.MatSource (sFast.issued (.fwdelta 20 2 25 3 2)) 2 2 (sFast.issued (.fwdelta 20 2 25 3 2)) mk fk
      ∧ Spec.MatSource (sFast.issued (.fwdelta 20 2 25 3 2)) 25 1 s2 mv fv ∧ (∀ x, x ∈ fk ++ fv → tagOf x = 6) :=
  ⟨_, _, _, _, _, Or.inl ⟨by decide, rfl, rfl, rfl⟩,
    Or.inr ⟨by decide, [entry 6 1], [entry 6 1, entry 6 1], by decide +kernel, rfl, by decide +kernel, rfl, rfl, rfl⟩, all_tags _ _ (by decide +kernel)⟩

/-- The queues without entries. -/
theorem witness_FastWeightsComplete_ids : ∀ q, ∀ y ∈ (group .pinned (sMac 0 1)).core.getQueue q, y.id < (group .pinned (sMac 0 1)).core.nextId :=
  ids_below _ (by decide +kernel)

/-! ### The front end, the level units and the device -/

/-- No task runs on core 0; the device is ready and queue 0 of context 1 enabled. -/
def qIdle (f : Queue → Queue) : State :=
  { (mA.updQueue 1 0 (fun x => f { x with en := true, head := 5, notify := 7, base := 0x1800, log2 := 4, cmds := [], kept := [] })) with
    core := Core.init 0, dev := { mA.dev with ready := true, hostPorts := 3 } }

def sIdle : State := qIdle id

/-- A command slot with this first word at the head of the queue. -/
def withSlot (w0 : Nat) (s : State) : State :=
  { s with pool := Memory.write s.pool 0x201940 (natBytes w0 8 ++ natBytes 0 8 ++ natBytes 0x55 8 ++ natBytes 0x100 8) }

theorem witness_CommandSlotsAreRead :
    (sIdle.ctxAt 1).en = true ∧ (sIdle.queueAt 1 0).en = true ∧ (sIdle.queueAt 1 0).qerr = false
    ∧ 0 < ((20 : BitVec 32) - (sIdle.queueAt 1 0).notify).toInt ∧ ((20 : BitVec 32) - (sIdle.queueAt 1 0).head).toInt < 2 ^ (sIdle.queueAt 1 0).log2
    ∧ 2 ^ (sIdle.queueAt 1 0).log2 ≤ ((21 : BitVec 32) - (sIdle.queueAt 1 0).head).toInt ∧ sIdle.dev.ready = true ∧ (sIdle.queueAt 1 0).parked = false
    ∧ 0 ≤ ((sIdle.queueAt 1 0).notify - (sIdle.queueAt 1 0).head).toInt ∧ (sIdle.queueAt 1 0).stale = none
    ∧ ((qIdle (fun x => { x with stale := some 7 })).queueAt 1 0).stale = some 7
    ∧ sIdle.dev.hostPorts ≠ 0 ∧ (sIdle.queueAt 1 0).fetched = none ∧ Spec.NoLineHeld sIdle
    ∧ ({ sIdle with dev := { sIdle.dev with hostPorts := 0 } } : State).dev.hostPorts = 0 := by
  unfold Spec.NoLineHeld; decide +kernel

def slotFacts (s : State) : Option (Nat × Nat × Bool × Nat) :=
  (okOf (s.feRead 1 (Spec.headSlot (s.queueAt 1 0)) 64).1).map (fun bs =>
    (Spec.slotField bs 0 0 32, Spec.slotField bs 0 32 8, (slotOf bs).ok 0, Spec.slotField bs 0 56 3))

/-- What the reads of the descriptor find that a slot with these first words names: whether it is bad, or the region that is missing. -/
def readFacts (w0 w1 : Nat) : Option Bool × Option (Nat × Nat) :=
  let s := { withSlot w0 sIdle with pool := Memory.write (withSlot w0 sIdle).pool 0x201948 (natBytes w1 8) }
  match (s.feRead 1 0x1940 64) with
  | (.ok bs, s1) =>
    match (feRun (readAll 1 (slotOf bs)) (s1.updQueue 1 0 (fun y => y.take bs))).1 with
    | .ok r => (some r.2.isSome, none)
    | .error (.fault l b _) => (none, some (l, b))
    | .error _ => (none, none)
  | _ => (none, none)

/-- A slot of another running number, and a MARKER of the current one that reads well. -/
theorem witness_CommandSlotsAreRead_slots :
    slotFacts (withSlot (6 + 3 * 2 ^ 32) sIdle) = some (6, 3, true, 0)
    ∧ slotFacts (withSlot (5 + 3 * 2 ^ 32 + 6 * 2 ^ 40 + 2 * 2 ^ 48) sIdle) = some (5, 3, true, 0)
    ∧ readFacts (5 + 3 * 2 ^ 32) 0 = (some false, none) ∧ readFacts (5 + 2 ^ 32) 0x40000000 = (none, some (2, 0x40000000))
    ∧ slotFacts (withSlot (5 + 2 ^ 32) sIdle) = some (5, 1, true, 0) := by
  decide +kernel

/-- An accepted MARKER, and a LAUNCH that ends in error. -/
def marker0 : Command :=
  { cmd with seq := 5, op := .marker, kernel := none, phase := .accepted, clusters := [], held := [], teamMap := [], places := [], quads := [], wasPlaced := false }

def failing : Command := { cmd with seq := 5, phase := .ending .error, first := some (0x12, 0x34), hostDone := true, doneRec := 0x1900 }

def withCmd (c : Command) (s : State) : State := s.updQueue 1 0 (fun x => { x with cmds := [c] })

theorem witness_QueueEventsComplete :
    sIdle.dev.safe = false ∧ ((qIdle (fun x => { x with en := false })).queueAt 1 0).en = false ∧ (sIdle.queueAt 1 0).cmds = []
    ∧ ((withCmd marker0 sIdle).queueAt 1 0).cmds = [marker0] ∧ marker0.phase = .accepted ∧ marker0.hostDone = false ∧ marker0.wasPlaced = false
    ∧ Spec.Finished (withCmd marker0 sIdle) 1 0 marker0 ∧ marker0.count = 0 ∧ marker0.prods = [] ∧ (sIdle.queueAt 1 0).frozen = false
    ∧ ((qIdle (fun x => { x with frozen := true })).queueAt 1 0).errs = []
    ∧ ((qIdle (fun x => { x with frozen := true, errs := [(7, 5)] })).queueAt 1 0).errs = (7, 5) :: []
    ∧ failing.kernel = some kern ∧ kern.tensors = [] ∧ failing.phase = .ending .error ∧ Spec.Finished (withCmd failing sIdle) 1 0 failing ∧ failing.doneRec.toNat % 16 = 0
    ∧ okOf ((withCmd failing sIdle).fePlace 1 failing.doneRec 16) = some [.phys false 0x201900 16 2 0 0 1]
    ∧ Spec.NoLineHeld (withCmd failing sIdle) := by
  unfold Spec.Finished Spec.NoLineHeld; decide +kernel

/-- A LAUNCH of three tasks, two a cluster, and a FRONT of two homes, accepted. -/
def launch0 : Command :=
  { marker0 with seq := 4, op := .launch, kernel := some kern, ntask := 3, percl := 2, gang := 3 }

def frontCmd : Command := { launch0 with op := .front, front := some front0, ntask := 0, percl := 1 }

def rect0 : Rect := ⟨2, 1, 3, 2⟩

theorem witness_PlacementsComplete :
    ∀ c ∈ [launch0, frontCmd], (Spec.MayTake (withCmd c sIdle) 1 0 c rect0 ∧ c.phase = .accepted ∧ c.kernel = some kern
      ∧ kern.tensors = [] ∧ kern.nm = 0 ∧ kern.spMap = []) := by
  unfold Spec.MayTake; decide +kernel

theorem witness_PlacementsComplete_tasks :
    1 ≤ launch0.percl ∧ launch0.percl ≤ 8 ∧ launch0.front = none
    ∧ (∀ l, l < 3 → ∀ m, m < 3 → (((withCmd launch0 sIdle).serving rect0).take 2).getD (l / 2) 0 * 8 + l % 2
        = (((withCmd launch0 sIdle).serving rect0).take 2).getD (m / 2) 0 * 8 + m % 2 → l = m)
    ∧ frontCmd.front = some front0 ∧ front0.frozen = false ∧ (∃ b ∈ front0.blocks, b.state ≠ .done)
    ∧ (withCmd frontCmd sIdle).tasksOf 1 0 4 = [] := by decide +kernel

/-- Both streams of the test task stand at a stop, and its command stops. -/
def stopping : Command := { cmd with seq := 0, phase := .stopping }

def sStop : State :=
  let s := (withCmd stopping mA).updCtx 1 (fun c => { c with saveBase := 0x10000 })
  { s with core := { s.core with task := s.core.task.map (fun t => { t with kernel := kern }), a := { s.core.a with stopped := some .wait },
                                 c := { s.core.c with stopped := some .wait, exited := false } } }

/-- The A-stream has not stopped. -/
def sGoing : State := { sStop with core := { sStop.core with a := { sStop.core.a with stopped := none } } }

theorem witness_SavesAndResumesComplete_going :
    sGoing.core.task.map (fun t => (t.ctx, t.queue, t.seq)) = some (1, 0, 0) ∧ sGoing.cmdAt 1 0 0 = some stopping
    ∧ sGoing.saveReady sGoing.core = false := by decide +kernel

/-- Bytes of one page land together, however many they are. -/
theorem locatePage_any (s : State) (w : Who) (acc : Acc) (va m n : Nat) (xs : List Chunk) (h : s.locatePage w acc va m = .ok xs) :
    ∃ cs, s.locatePage w acc va n = .ok cs := by
  unfold State.locatePage at h ⊢
  split at h
  · cases h
  · cases h
  · dsimp only at h ⊢
    split at h
    · cases h
    · split at h
      · cases h
      · split at h
        · cases h
        · rw [if_neg ‹_›, if_neg ‹_›, if_neg ‹_›]
          exact ⟨_, rfl⟩

theorem witness_SavesAndResumesComplete :
    sStop.core.task.map (fun t => (t.ctx, t.queue, t.seq, t.lid, t.kernel)) = some (1, 0, 0, 0, kern) ∧ sStop.cmdAt 1 0 0 = some stopping
    ∧ stopping.parked = false ∧ stopping.front = none ∧ sStop.saveReady sStop.core = true ∧ (∀ x, x < 32 → (sStop.core.getAot x).state ≠ .pinned)
    ∧ sStop.recordAt 1 stopping 0 = 0x10000 ∧ kern.taskSave = 65536 ∧ sStop.tasksOf 1 0 0 = [0] ∧ Spec.NoLineHeld sStop
    ∧ (∀ y ∈ sStop.clusters, y.failing = false) := by
  unfold Spec.NoLineHeld; decide +kernel

theorem witness_SavesAndResumesComplete_record (m : Nat) (hm : m < 65472) : ∃ cs, sStop.fePlace 1 0x10000 (64 + m) = .ok cs := by
  obtain ⟨cs, h⟩ := locatePage_any sStop (feWho 1) .feWrite 0x10000 0 (64 + m) [.phys false 0x210000 0 2 0 0 1]
    (by decide +kernel)
  refine ⟨cs, ?_⟩
  have hk : (aperture (0x10000 : Word)).kind = 1 := by decide +kernel
  have ho : (aperture (0x10000 : Word)).off = 0x10000 := by decide +kernel
  have hl : sStop.locate (feWho 1) .feWrite 0x10000 (64 + m) = .ok cs := by
    simp only [State.locate, hk, ho, State.locateVirtual]
    rw [State.locatePages, if_pos (by omega), h]
  unfold State.fePlace
  rw [if_neg (by rw [hk]; simp; omega), hl]

/-- The saved task of a command of one task, in its record. -/
def savedTask : SavedTask := ⟨0, sStop.core, []⟩

def resuming : Command :=
  { cmd with seq := 5, phase := .saved, clusters := [], held := [], saved := [{ savedTask with core := { sStop.core with task := sStop.core.task.map (fun t => { t with seq := 5 }) } }] }

/-- The record of the saved task stands in its slot. -/
def sSaved : State :=
  let s := (withCmd resuming sIdle).updCtx 1 (fun c => { c with saveBase := 0x10000 })
  { s with pool := Memory.write s.pool 0x210000 (natBytes 0x4B534156 4 ++ natBytes 1 2 ++ natBytes 0 2) }

theorem witness_SavesAndResumesComplete_head : Spec.MayTake sSaved 1 0 resuming ⟨0, 0, 1, 1⟩ :=
  ⟨rfl, rfl, by decide +kernel, by decide +kernel, by decide +kernel, by decide +kernel, by decide +kernel⟩

theorem witness_SavesAndResumesComplete_resume :
    resuming.phase = .saved ∧ resuming.front = none ∧ resuming.ntask = 1 ∧ resuming.percl = 1
    ∧ (maskCores 128).length = 1 ∧ okOf (feRun (recordsOk 1 resuming resuming.saved) sSaved).1 = some true ∧ Spec.NoLineHeld sSaved
    ∧ resuming.saved.map (fun x => (x.lid, x.core.task.map (fun t => t.kernel.nm), x.groups 1)) = [(0, some 0, [])] := by
  unfold Spec.NoLineHeld; decide +kernel

/-- A front whose rectangle is held: it runs on cluster 0 and 1. -/
def running : Command := { frontCmd with phase := .placed, clusters := [0, 1], held := [0, 1], wasPlaced := true }

def stuck : Command :=
  { running with front := some { front0 with rules := [⟨Vector.replicate 8 5, Vector.replicate 8 0xFF⟩],
                                             blocks := front0.blocks.map (fun b => { b with nnbr := 1, nbr := Vector.replicate 8 0 }) } }

theorem witness_LevelUnitEventsComplete :
    (∀ c ∈ [running, stuck], ((withCmd c sIdle).cmdAt 1 0 4 = some c ∧ c.kernel = some kern ∧ c.parked = false))
    ∧ (withCmd running sIdle).unitAt 0 = some (1, 0, running, front0, 0) ∧ front0.nextBlock 0 = some 0 ∧ 0 < front0.blocks.length
    ∧ front0.coreSet.getLsbD 2 = true ∧ ((withCmd running sIdle).coreAt (0 * 8 + 2)).task = none ∧ sIdle.dev.poison = []
    ∧ front0.known[0]? = some [3, 5] ∧ 1 < [3, 5].length ∧ stuck.front.bind (fun f => f.stalledAt) = some 0 ∧ stuck.phase = .placed
    ∧ (∀ k ∈ (withCmd stuck sIdle).allCores, k.task = none)
    ∧ (List.range 8).find? (fun i => front0.coreSet.getLsbD i && ((withCmd stuck sIdle).coreAt (0 * 8 + i)).task.isNone) = some 1
    ∧ stuck.clusters[(front0.block 0).home]? = some 0 := by decide +kernel

/-- The handler of an update task, with a record staged for block 0: one that may be put in place, and one with a reserved field set. -/
def sEdit (w : Vector Word 16) : State :=
  let s := update { front1 with frozen := true, blocks := front1.blocks.map (fun b => { b with state := .idle }) } mA
  { (s.updSys (fun r => { r with lvBlock := 0, lvStaged := w })) with core := { (s.updSys (fun r => { r with lvBlock := 0, lvStaged := w })).core with
      handler := some .a, a := { s.core.a with mode := .sup } } }

def words0 : Vector Word 16 := (front1.block 0).words

theorem witness_LevelUnitEventsComplete_records :
    ∀ p ∈ [(words0, true), (words0.set 12 1, false)], ((sEdit p.1).editsLevels = true
      ∧ Ready (sEdit p.1) ∧ (sEdit p.1).cur.mode = .sup ∧ (sEdit p.1).taskFront.map (fun f => f.1.applyOk (sEdit p.1).core.sys.lvBlock.toNat (sEdit p.1).core.sys.lvStaged) = some p.2) := by
  unfold Ready; decide +kernel

/-- A load from a page that is not there. -/
def sMiss : State := (after (.ld 6 4 0 3 3) (put 4 0x40000000 mA)).getD mA

def faultOf (x : Moved) : Option (Nat × Nat × Nat × Nat × Nat × Word) :=
  match x with
  | .fault ctx p k l b va => some (ctx, p, k, l, b, va)
  | _ => none

def opMiss : LongOp := (sMiss.core.a.flight[0]?).getD opG1

theorem witness_FaultEventsComplete :
    sMiss.core.task.map (fun t => decide (t.ctx < 2 ^ 16)) = some true ∧ sMiss.noReplay = false ∧ sMiss.opAt .a 0 = some opMiss
    ∧ opMiss.work = .load 6 0x40000000 8 true ∧ faultOf (sMiss.opMove .a opMiss) = some (1, 0, 0, 2, 0x40000000, 0x40000000) ∧ (sMiss.clusterAt 0).faults = []
    ∧ (sMiss.dev.fbTail - sMiss.dev.fbHead).toNat < 8 := by decide +kernel

/-- Copy jobs of core 9, and one whose destination its core refuses. -/
def jobOf (pid src dst done : Nat) (next : Nat) : Job :=
  { job0 with pid := pid, shadows := #v[.ofNat 64 src, .ofNat 64 dst, 2, 12, 64, 128, .ofNat 64 done, 0], next := next }

def withJob (cl : Nat) (j : Job) (s : State) : State := s.updCluster cl (fun c => { c with jobs := [j] })

theorem witness_CopyAndDeadlockEventsComplete_copies :
    (∀ n ∈ [0, 20], ((jobOf 0 3 0x101 0 n).state.isParked = false ∧ n < (jobOf 0 3 0x101 0 n).total ∧ (jobOf 0 3 0x101 0 n).req.red = 0
      ∧ (okOf ((withJob 0 (jobOf 0 3 0x101 0 n) mA).nextPiece (jobOf 0 3 0x101 0 n))).map (fun p => ((withJob 0 (jobOf 0 3 0x101 0 n) mA).srcWaits
          (jobOf 0 3 0x101 0 n) p.1, p.2.1.all (fun c => match c with | .spad .. => false | _ => true))) = some (false, true)))
    ∧ (jobOf 9 3 0x101 0 24).total ≤ 24 ∧ 9 ≠ mA.core.pid ∧ ((withJob 1 (jobOf 9 3 0x101 0 24) mA).coreAt 9).task = none
    ∧ (jobOf 9 3 0x101 0 24).req.kind = 0 ∧ (jobOf 9 3 0x101 (3 + 4 * 2 ^ 32) 24).req.kind = 3
    ∧ (jobOf 9 3 0x101 (3 + 4 * 2 ^ 32) 24).req.done / 2 ^ 8 % 64 = 0 ∧ (jobOf 9 3 0x101 (3 + 4 * 2 ^ 32) 24).req.done / 2 ^ 32 = 4
    ∧ (withJob 0 (jobOf 0 3 0x101 0 0) mA).logMode (jobOf 0 3 0x101 0 0).who = 0 ∧ Spec.NoLineHeld (withJob 0 (jobOf 0 3 0x101 0 0) mA)
    ∧ (jobOf 0 3 0x101 0 0).mode = .user ∧ { launch0 with count := 3 }.seq = 4 ∧ launch0.phase = .accepted
    ∧ (match (withJob 0 (jobOf 0 3 0xFFD1000000000000 0 0) mA).nextPiece (jobOf 0 3 0xFFD1000000000000 0 0) with | .error (.deny _) => true | _ => false) = true
    ∧ (jobOf 0 3 0xFFD1000000000000 0 0).ofTask mA.core = true ∧ mA.core.a.exited = false := by
  unfold Spec.NoLineHeld; decide +kernel

/-- A reducing job of core 0. -/
def jobRed (red : Nat) : Job := { jobOf 0 0x100 0x200 0 0 with shadows := #v[0x100, 0x200, 2, 12, 64, 128, 0, .ofNat 64 (red * 64)] }

theorem witness_CopyAndDeadlockEventsComplete_targets :
    (jobOf 9 3 0x101 (spadA 64 + 1) 24).req.kind = 1
    ∧ (withJob 1 (jobOf 9 3 0x101 (spadA 64 + 1) 24) mA).locate (jobOf 9 3 0x101 (spadA 64 + 1) 24).who .atomic
        (jobOf 9 3 0x101 (spadA 64 + 1) 24).req.barrier 8 = .ok [.spad 9 64 8]
    ∧ (withJob 1 (jobOf 9 3 0x101 (spadA 64 + 1) 24) mA).turnFor (executor 9 0 (.atomic .add 8 0 0) [.spad 9 64 8]) (placeOf [.spad 9 64 8]) 9
        mA.dev.cycle.toNat false = true
    ∧ (withJob 1 (jobOf 9 3 0x101 (spadA 64 + 1) 24) mA).logMode (jobOf 9 3 0x101 (spadA 64 + 1) 24).who = 0
    ∧ (jobOf 0 3 0x101 (2 + 63 * 2 ^ 8) 24).req.kind = 2 ∧ (jobOf 0 3 0x101 (2 + 63 * 2 ^ 8) 24).req.ste = false
    ∧ (jobOf 0 3 0x101 (2 + 63 * 2 ^ 8) 24).req.dtid = 63 ∧ (jobOf 0 3 0x101 (2 + 63 * 2 ^ 8) 24).ofTask mA.core = true
    ∧ (∀ red ∈ [1, 2], ((jobRed red).req.red = red ∧ 0 < (jobRed red).total
      ∧ (okOf ((withJob 0 (jobRed red) mA).nextPiece (jobRed red))).map (fun p => ((withJob 0 (jobRed red) mA).srcWaits (jobRed red) p.1,
          (withJob 0 (jobRed red) mA).pieceTurn (jobRed red) p.2.1, p.2.2)) = some (false, true, 4))) := by
  decide +kernel

/-- A request that has waited long enough for both promotions. -/
def sOld : State := { sPend with dev := { sPend.dev with cycle := 3000 } }

/-- The A-stream waits for an entry of q4 and the C-stream for room in q1. -/
def sDead : State :=
  { mA with core := { mA.core with a := { mA.core.a with wait := some (.pop 4 1) }, c := { mA.core.c with wait := some (.push 1), exited := false, mode := .user },
                                   queues := mA.core.queues.set 1 (List.replicate 16 (entry 0 0)) } }

theorem witness_CopyAndDeadlockEventsComplete :
    (∃ r ∈ sOld.core.pending, sOld.core.pending = [r] ∧ r.served = false ∧ r.parked = false ∧ sOld.core.a.exited = false ∧ r.kind.isAtomic = false
      ∧ sOld.locate (r.who sOld.core) .store r.addr r.kind.len = .ok [.phys false 0x200040 8 2 0 0 1]
      ∧ sOld.dev.netAge.toNat ≤ sOld.dev.cycle.toNat - r.born ∧ 64 ≤ sOld.dev.cycle.toNat - r.born)
    ∧ sDead.core.task.isSome = true ∧ sDead.core.handler = none ∧ sDead.core.a.flight = [] ∧ sDead.core.c.flight = [] ∧ sDead.core.pending = [] ∧ sDead.core.a.taken = none
    ∧ sDead.core.a.exited = false ∧ sDead.core.c.exited = false ∧ (∀ x ∈ [StreamId.a, .c], ((sDead.core.str x).mode = .user ∧ (sDead.core.str x).stopped = none))
    ∧ sDead.core.a.wait = some (.pop 4 1) ∧ (sDead.core.getQueue 4).length < 1 ∧ sDead.core.c.wait = some (.push 1)
    ∧ 16 ≤ (sDead.core.getQueue 1).length := by decide +kernel

theorem witness_ContainmentEventsComplete :
    (0x100 : Word).toNat % 16 = 0 ∧ (0x100 : Word).getLsbD 8 = true ∧ mA.dev.rects[0]? = some ⟨15, 0, 15, 0, false, false, true⟩
    ∧ (after (.partReset 0x100) mA).map (fun t => t.dev.rects[0]?) = some (some ⟨15, 0, 15, 0, false, true, true⟩)
    ∧ (then_ (after (.partReset 0x100) mA) (.purgeComplete 0)).map (fun t => t.dev.rects[0]?) = some (some ⟨15, 0, 15, 0, true, true, true⟩) := by
  decide +kernel

/-- The device is ready and tests a cluster on its period. -/
def sTest : State := { mA with dev := { mA.dev with ready := true, iftPeriod := 5 } }

def sMail (cmd : Word) : State := { sTest with dev := { sTest.dev with mbxBusy := true, mbxCmd := cmd } }

theorem witness_TestAndMailboxEventsComplete :
    3 ∉ sTest.heldClusters ∧ sTest.dev.ready = true ∧ sTest.clusterFree 255 = true ∧ (sTest.clusterAt 255).retired = false ∧ sTest.dev.iftPeriod ≠ 0
    ∧ (0x7000001FF : Word).toNat % 256 = 255 ∧ (0x7000001FF : Word).getLsbD 8 = true
    ∧ ((sTest.updCluster 255 (fun c => { c with testing := true })).clusterAt 255).testing = true ∧ sTest.dev.mbxBusy = false
    ∧ (sMail 4).dev.mbxBusy = true ∧ (sMail 4).dev.noFirmware = false ∧ (sMail 4).dev.mbxCmd = 4 ∧ (sMail 4).dev.failRecs = []
    ∧ 5 < (sMail 6).dev.mbxCmd.toNat := by decide +kernel

/-- An image of two retired clusters at most, and a power-on that meets it. -/
def boot (failed : List Nat) : BootInput := ⟨true, 7, failed, false, [1, 2, 3], true, ⟨5, [3], 3, 100, 2⟩, 3⟩

theorem witness_PowerAndLinkEventsComplete :
    State.reset.dev.ready = false ∧ State.reset.dev.safe = false ∧ (boot [4, 9]).fwOk = true ∧ (boot [4, 9]).otherBad = false
    ∧ (boot [4, 9]).configOk = true ∧ State.reset.dev.pendingImage = none ∧ State.reset.dev.cfgHost = false ∧ State.reset.dev.pendingFw = none
    ∧ (boot [4, 9]).failed.length ≤ (boot [4, 9]).config.retireMax ∧ (boot [1, 2, 4]).config.retireMax < (boot [1, 2, 4]).failed.length
    ∧ 4 ∈ (boot [4, 9]).failed ∧ 5 ∉ (boot [4, 9]).config.retired ∧ 1000 % 125 = 0 ∧ 4000 % 125 = 0
    ∧ { mA with dev := { mA.dev with hostPorts := 3 } }.dev.hostPorts ≠ 0 ∧ Config.pooledBytes - 3 + [(1 : Byte), 2, 3].length ≤ Config.pooledBytes := by
  decide +kernel

/-- Reads of the management space: a context number, a queue that is not enabled, and what reset leaves in CR.0, Q.CFG and NET.AGE (R338, R352, R357). -/
theorem witness_RegisterReadsShowWrites :
    (State.reset.queueAt 4095 63).en = false
    ∧ (after (.registerWrite (4095 * 0x10000 + 0x1000 + 63 * 64) 8 0xFF00000000001FFF) State.reset).map
        (fun t => t.readRegister (4095 * 0x10000 + 0x1000 + 63 * 64) 8) = some 0x1FC0
    ∧ (after (.registerWrite 0x600 8 100) State.reset).map (fun t => t.readRegister 0x600 8) = some 600
    ∧ State.reset.readRegister 0x300 8 = 0xF0F001 ∧ State.reset.readRegister 0x308 8 = 0 ∧ State.reset.readRegister 0x11008 8 = 4
    ∧ State.reset.readRegister 0x38 8 = 2048 ∧ State.reset.readRegister 0x3C 8 = BitVec.allOnes 64 := by
  decide +kernel

/-- Device 9 is in the device set of context 1, and a link is up. -/
def sPeer : State := { mA.updCtx 1 (fun c => { c with domSet := [0, 9] }) with dev := { mA.dev with links := 1 } }

theorem witness_CopyAndDeadlockEventsComplete_remote :
    9 ∈ (sPeer.ctxAt 1).domSet ∧ 9 ≠ sPeer.dev.domNum.toNat ∧ sPeer.dev.links ≠ 0 := by decide +kernel

def access (device offset : Nat) : RemoteAccess := ⟨device, 1, true, offset, .write [1, 2, 3, 4]⟩

/-- A store waits while the context's replay log lists another one next for its line. -/
def sHeld : State :=
  let s := (withCmds [{ cmd with ordMode := 2 }] sPend).updCtx 1 (fun c => { c with ordBase := 0x2000, ordSize := 1 })
  { s with pool := Memory.write s.pool 0x202000 (natBytes 2 1 ++ natBytes 0 7 ++ natBytes 0x40 8 ++ natBytes 99 8), dev := { s.dev with cycle := 0x200000 } }

theorem witness_RegisterWritesAndPeersComplete_replay : sHeld.heldLong 1 = true := by decide +kernel

theorem witness_RegisterWritesAndPeersComplete :
    (0x10004 % 8 ≠ 0 ∨ 8 ≠ 8) ∧ (0x1 : Word).getLsbD 0 = true ∧ (mA.ctxAt 4095).en = false ∧ (mA.queueAt 4095 63).en = false
    ∧ 8 ∉ (sPeer.ctxAt 1).domSet ∧ (∀ y ∈ (sPeer.ctxAt 1).queues, ∀ c ∈ y.2.cmds, c.dom = 4 → 8 ∉ c.domSet) ∧ 9 ∈ (sPeer.ctxAt 1).domSet ∧ 9 ≠ sPeer.dev.domNum.toNat ∧ sPeer.dev.links ≠ 0
    ∧ sPeer.apertureOk (remoteWho (access 9 0x100)) (.ofNat 64 (0xFFE0000000000000 + 0x100)) 4 = true
    ∧ registerWindowOk (.ofNat 64 (0xFFE0000000000000 + 0x100)) 4 = true
    ∧ sPeer.locate (remoteWho (access 9 0x100)) .store (.ofNat 64 (0xFFE0000000000000 + 0x100)) 4 = .ok [.spad 0 0x100 4] := by decide +kernel

theorem witness_InstructionsKeepTheirFrames :
    Ready sA ∧ Ready sC ∧ sA.cur.mode = .user ∧ sC.cur.mode = .user ∧ (Instr.addi 5 0 12).bits ≠ 0 ∧ (Instr.vmulH 3 7 1).bits ≠ 0
    ∧ (after (.addi 5 0 12) sA).isSome = true ∧ (after (.vmulH 3 7 1) sC).isSome = true ∧ Spec.registersOnly (.vmulH 3 7 1) = true
    ∧ Spec.registersOnly (.addi 5 0 12) = true := by
  unfold Ready; decide +kernel

/-! ### Single steps, with results of the spec's examples or worked out by hand from its rules -/

/-- The instruction that the reset machine would run next, run by `step`. -/
def ran (bits w : Nat) : Option State :=
  match step (State.reset.withFetchWord bits w) with
  | .next t => some t
  | _ => none

/-- An addi of 12 and a halfword, as the first instruction after reset (R126, R132). -/
theorem test_step_addi : (ran 32 0x00180283).map (fun t => (t.cur.g[5], t.cur.pc)) = some (12, 0x1004) := by decide +kernel

theorem test_step_halfword : (ran 16 0x113C).map (fun t => t.cur.pc) = some 0x1002 := by decide +kernel

/-- 3 − 5 wraps to −2 (R126). -/
theorem test_sub_wraps : (after (.sub 5 1 2) (put 1 3 (put 2 5 sA))).map (fun t => t.g 5) = some 0xFFFFFFFFFFFFFFFE := by decide +kernel

/-- An arithmetic shift takes the low six bits of its count and copies the sign (R126). -/
theorem test_sar_sign : (after (.sar 5 1 2) (put 1 0x8000000000000000 (put 2 65 sA))).map (fun t => t.g 5) = some 0xC000000000000000 := by decide +kernel

/-- −7 divided by 2 leaves −1 (R127). -/
theorem test_rem_sign : (then_ (after (.rem 5 1 2 3) sDiv) (.longOpComplete 0 .a 0 1)).map (fun t => t.g 5) = some 0xFFFFFFFFFFFFFFFF := by decide +kernel

/-- A zero divisor traps with the dividend (R127). -/
theorem test_div_zero : (after (.div 5 1 0 3) sDiv).map (fun t => (t.core.sys.trapCause, t.core.sys.trapVal)) = some (0x0F, 0xFFFFFFFFFFFFFFF9) := by decide +kernel

/-- A write to g0 is discarded (R125). -/
theorem test_g0 : (after (.addi 0 1 1) (put 1 7 sA)).map (fun t => t.g 0) = some 0 := by decide +kernel

/-- The worked barrier of R282: the word after each arrival of a core. -/
theorem test_barrier_example :
    (after (.barx 4 5 1) (sBar 0xFFFE000000000005 0x40002)).map (fun t => bytesNat (Memory.read t.core.spad 64 8)) = some 0x0002000100000005
    ∧ (after (.barW 4 5 1) (sBar 0x0002000100000005 2)).map (fun t => bytesNat (Memory.read t.core.spad 64 8)) = some 0x0002FFFF00000005
    ∧ Spec.arrive 2 0 0x0002FFFF00000005 ≠ 6 := by decide +kernel

/-- A load of one byte is sign-extended (R189). -/
theorem test_ld_sign :
    (then_ (after (.ld 6 4 0 0 3) (withSpad 64 [0x80] (put 4 (spadA 64) mA))) (.longOpComplete 0 .a 0 1)).map (fun t => t.g 6)
      = some 0xFFFFFFFFFFFFFF80 := by decide +kernel

/-- 1.5 in qfx16 with scale 8 squared: clamped to 32,767 at scale 16, with SAT set (R175). -/
theorem test_qfx_square :
    (after (.vmul 5 2 2 0 0 0) { sC with core := sC.core.setV 2 ⟨.ofNat 512 384, mkFmt 11 8⟩ }).map (fun t =>
      (laneOf 11 (t.core.getV 5).bits.toNat 0, (t.core.getV 5).fmt, t.core.sys.fflags.getLsbD 5)) = some (32767, mkFmt 11 16, true) := by decide +kernel

/-- −59/210 in fsl32 (R176, chapter 19), from its numerator and denominator, through fmake and fcvt. -/
theorem test_fsl_example : fslEncode false true 59 210 = 0x9BB000D2 ∧ fslEncode false false 355 113 = 0x26C60071 := by decide +kernel

/-- 1.0 + 2.0 = 3.0 (R246). -/
theorem test_fadd :
    (then_ (after (.fadd 4 1 2 3) (sFl 6 0x3F800000 0x40000000)) (.longOpComplete 0 .c 0 1)).map (fun t => t.core.getF 4)
      = some ⟨0x40400000, mkFmt 6 0⟩ := by decide +kernel

/-- The sums of R229: 2^24 and fifteen ones, by the promotion of the multiply. -/
theorem test_mmac_sums :
    [0, 2, 4].map (fun p => Spec.macElem 0 p (List.replicate 16 (.fin false 1 1)) (.fin false (2 ^ 24) 1 :: List.replicate 15 (.fin false 1 1)) 0)
      = [0x4B800000, 0x4B800008, 0x4B800008] := by decide +kernel

/-- A move of an mmac takes one promotion group, and PROG counts it (R229). -/
theorem test_mmac_progress :
    (then_ (after (.mmacVv 4 0 8 0 3 3) (sMac 0 1)) (.longOpComplete 0 .c 0 1)).map (fun t => t.cur.flight.map (fun o => o.prog)) = some [1] := by
  decide +kernel

/-- vneg of +0 gives +0 in every rounding mode (R221). -/
theorem test_vneg_zero :
    (after (.vneg 5 2 0) ((putV 2 6 0 sC).updSys (fun r => { r with frm := 2 }))).map (fun t => laneOf 6 (t.core.getV 5).bits.toNat 3) = some 0 := by
  decide +kernel

/-- An odd target of a jump traps with cause 0x05 (R134). -/
theorem test_jr_odd : (after (.jr 1) (put 1 0x1001 sA)).map (fun t => (t.core.sys.trapCause, t.core.sys.trapVal, t.cur.mode)) = some (0x05, 0x1001, .sup) := by
  decide +kernel

end Sys2Proof.Tests
end

section
/-! The register of a context, a queue or the device that the host writes and reads in the management space (spec/00_scope.md R5,
spec/25_host_and_power_on.md R351, R352), and the settled statements of spec/00_scope.md. -/

namespace Sys2Proof.Machine

/-! ### Contexts and queues read what was last put there -/

@[simp] theorem State.ctxAt_id (s : State) (id : Nat) : (s.ctxAt id).id = id := by
  unfold State.ctxAt
  cases h : s.contexts.find? (fun c => c.id == id) with
  | none => rfl
  | some c => simpa using List.find?_some h

theorem find?_putCtx (c : Context) (cs : List Context) : (putCtx c cs).find? (fun x => x.id == c.id) = some c := by
  induction cs with
  | nil => simp [putCtx]
  | cons x rest ih =>
    simp only [putCtx]
    split
    · simp
    · split
      · simp
      · next hne => simp [Ne.symm hne, ih]

theorem State.ctxAt_updCtx (s : State) (id : Nat) (f : Context → Context) (h : ∀ c, (f c).id = c.id) :
    (s.updCtx id f).ctxAt id = f (s.ctxAt id) := by
  have hid : (f (s.ctxAt id)).id = id := by rw [h, State.ctxAt_id]
  have hfind := find?_putCtx (f (s.ctxAt id)) s.contexts
  rw [hid] at hfind
  rw [State.ctxAt, State.updCtx_contexts, hfind, Option.getD_some]

theorem find?_putQueue (q : Nat) (v : Queue) (qs : List (Nat × Queue)) : (putQueue q v qs).find? (fun x => x.1 == q) = some (q, v) := by
  induction qs with
  | nil => simp [putQueue]
  | cons x rest ih =>
    simp only [putQueue]
    split
    · simp
    · split
      · simp
      · next hne => simp [Ne.symm hne, ih]

theorem State.queueAt_updQueue (s : State) (ctx q : Nat) (f : Queue → Queue) : (s.updQueue ctx q f).queueAt ctx q = f (s.queueAt ctx q) := by
  have hctx : (s.updQueue ctx q f).ctxAt ctx = { s.ctxAt ctx with queues := putQueue q (f (s.queueAt ctx q)) (s.ctxAt ctx).queues } :=
    State.ctxAt_updCtx _ _ _ (fun _ => rfl)
  rw [State.queueAt, hctx, Context.queueAt, find?_putQueue]
  rfl

/-! ### Fields of a written value -/

/-- A field kept in place is the value under the field's mask. -/
theorem keepBits_eq_and (v : Word) (lo hi : Nat) : keepBits v lo hi = v &&& .ofNat 64 ((2 ^ (hi + 1 - lo) - 1) <<< lo) := by
  apply BitVec.eq_of_getLsbD_eq
  intro i hi64
  simp only [keepBits, bitField, BitVec.getLsbD_ofNat, BitVec.getLsbD_and, Nat.testBit_mul_two_pow, Nat.testBit_mod_two_pow,
    Nat.testBit_div_two_pow, Nat.testBit_shiftLeft, Nat.testBit_two_pow_sub_one, hi64, decide_true, Bool.true_and]
  by_cases hlo : lo ≤ i
  · simp [hlo, BitVec.getLsbD, Bool.and_comm]
  · simp [hlo]

/-- The address field of CTX.TTROOT and its bit 0 (R351). -/
theorem keepBits_ttRoot (v : Word) : keepBits v 12 55 ||| keepBits v 0 0 = v &&& 0x00FFFFFFFFFFF001 := by
  rw [keepBits_eq_and, keepBits_eq_and, ← BitVec.and_or_distrib_left]
  rfl

/-- Bits [hi:0] held in a register of that width read as they stand in the value. -/
theorem zeroExtend_bitField_low (v : Word) (hi : Nat) (h : hi < 64) :
    (BitVec.ofNat (hi + 1) (bitField v.toNat 0 (hi + 1))).zeroExtend 64 = keepBits v 0 hi := by
  have hlt : bitField v.toNat 0 (hi + 1) < 2 ^ (hi + 1) := Nat.mod_lt _ (Nat.two_pow_pos _)
  rw [BitVec.zeroExtend, BitVec.setWidth_ofNat_of_le_of_lt h hlt, keepBits, Nat.sub_zero, pow_zero, Nat.mul_one]

/-! ### Which register an aligned 8-byte access names (R5, R351) -/

theorem exec_registerWrite (off size : Nat) (v : Word) (s : State) :
    exec (.registerWrite off size v) s = execRegisterWrite off size v s := rfl

theorem exec_registerWrite_ignored (s : State) (off size : Nat) (v : Word) (h : off % 8 ≠ 0 ∨ size ≠ 8) :
    exec (.registerWrite off size v) s = .next s := by
  rw [exec_registerWrite, execRegisterWrite, if_pos h]

theorem State.readRegister_ignored (s : State) (off size : Nat) (h : off % 8 ≠ 0 ∨ size ≠ 8) :
    s.readRegister off size = BitVec.allOnes 64 := by
  rw [State.readRegister, if_pos h]
  rfl

/-- Bits [63:16] of the offset name the context, whose region holds its own registers and those of its queues. -/
theorem exec_registerWrite_region (s : State) (ctx off : Nat) (v : Word) (h8 : off % 8 = 0) (hoff : off < 0x10000) :
    exec (.registerWrite (ctx * 0x10000 + off) 8 v) s =
      if ctx = 0 then s.writeDevice off v
      else if 4096 ≤ ctx then .next s
      else if 0x1000 ≤ off ∧ off < 0x2000 then s.writeQueue ctx ((off - 0x1000) / 64) ((off - 0x1000) % 64) v
      else .next (s.updCtx ctx (fun x => x.write off v)) := by
  have hctx : (ctx * 0x10000 + off) / 0x10000 = ctx := by omega
  have hreg : (ctx * 0x10000 + off) % 0x10000 = off := by omega
  rw [exec_registerWrite, execRegisterWrite, if_neg (by omega)]
  simp only [hctx, hreg]

theorem State.readRegister_region (s : State) (ctx off : Nat) (h8 : off % 8 = 0) (hoff : off < 0x10000) :
    s.readRegister (ctx * 0x10000 + off) 8 =
      if ctx = 0 then s.dev.read off
      else if 4096 ≤ ctx then 0
      else if 0x1000 ≤ off ∧ off < 0x2000 then (s.queueAt ctx ((off - 0x1000) / 64)).read ((off - 0x1000) % 64)
      else (s.ctxAt ctx).read off := by
  have hctx : (ctx * 0x10000 + off) / 0x10000 = ctx := by omega
  have hreg : (ctx * 0x10000 + off) % 0x10000 = off := by omega
  rw [State.readRegister, if_neg (by omega)]
  simp only [hctx, hreg]

theorem exec_registerWrite_device (s : State) (off : Nat) (v : Word) (h8 : off % 8 = 0) (hoff : off < 0x10000) :
    exec (.registerWrite off 8 v) s = s.writeDevice off v := by
  simpa using exec_registerWrite_region s 0 off v h8 hoff

theorem State.readRegister_device (s : State) (off : Nat) (h8 : off % 8 = 0) (hoff : off < 0x10000) :
    s.readRegister off 8 = s.dev.read off := by
  simpa using s.readRegister_region 0 off h8 hoff

/-- No write of a register renumbers its context. -/
theorem Context.write_id (c : Context) (off : Nat) (v : Word) : (c.write off v).id = c.id := by
  unfold Context.write Context.writeOrd
  simp only []
  split <;> repeat' split
  all_goals rfl

/-- An aligned offset below 0x1000 of a context's region names a register of the context itself. -/
theorem exec_registerWrite_context (s : State) (ctx off : Nat) (v : Word) (hlo : 1 ≤ ctx) (hhi : ctx ≤ 4095) (h8 : off % 8 = 0)
    (hoff : off < 0x1000) :
    ∃ t, exec (.registerWrite (ctx * 0x10000 + off) 8 v) s = .next t ∧ t.ctxAt ctx = (s.ctxAt ctx).write off v := by
  refine ⟨s.updCtx ctx (fun x => x.write off v), ?_, State.ctxAt_updCtx _ _ _ (fun c => c.write_id off v)⟩
  rw [exec_registerWrite_region s ctx off v h8 (by omega), if_neg (by omega), if_neg (by omega), if_neg (by omega)]

theorem State.readRegister_context (s : State) (ctx off : Nat) (hlo : 1 ≤ ctx) (hhi : ctx ≤ 4095) (h8 : off % 8 = 0)
    (hoff : off < 0x10000) (hq : ¬ (0x1000 ≤ off ∧ off < 0x2000)) :
    s.readRegister (ctx * 0x10000 + off) 8 = (s.ctxAt ctx).read off := by
  rw [s.readRegister_region ctx off h8 hoff, if_neg (by omega), if_neg (by omega), if_neg hq]

/-- Offset 0x1000 + 64 q + reg of a context's region names register `reg` of its queue q. -/
theorem exec_registerWrite_queue (s : State) (off ctx q reg : Nat) (v : Word) (hoff : off = ctx * 0x10000 + (0x1000 + q * 64 + reg))
    (hlo : 1 ≤ ctx) (hhi : ctx ≤ 4095) (hq : q < 64) (hreg : reg < 64) (h8 : reg % 8 = 0) :
    exec (.registerWrite off 8 v) s = s.writeQueue ctx q reg v := by
  have hqn : (0x1000 + q * 64 + reg - 0x1000) / 64 = q := by omega
  have hr : (0x1000 + q * 64 + reg - 0x1000) % 64 = reg := by omega
  rw [hoff, exec_registerWrite_region s ctx _ v (by omega) (by omega), if_neg (by omega), if_neg (by omega), if_pos (by omega), hqn, hr]

theorem State.readRegister_queue (s : State) (off ctx q reg : Nat) (hoff : off = ctx * 0x10000 + (0x1000 + q * 64 + reg))
    (hlo : 1 ≤ ctx) (hhi : ctx ≤ 4095) (hq : q < 64) (hreg : reg < 64) (h8 : reg % 8 = 0) :
    s.readRegister off 8 = (s.queueAt ctx q).read reg := by
  have hqn : (0x1000 + q * 64 + reg - 0x1000) / 64 = q := by omega
  have hr : (0x1000 + q * 64 + reg - 0x1000) % 64 = reg := by omega
  rw [hoff, s.readRegister_region ctx _ (by omega) (by omega), if_neg (by omega), if_neg (by omega), if_pos (by omega), hqn, hr]

/-- Q.BASE of a queue that is not enabled takes the address written (R352). -/
theorem exec_registerWrite_queueBase (s : State) (ctx q : Nat) (v : Word) (hlo : 1 ≤ ctx) (hhi : ctx ≤ 4095) (hq : q < 64)
    (hen : (s.queueAt ctx q).en = false) :
    ∃ t, exec (.registerWrite (ctx * 0x10000 + 0x1000 + q * 64) 8 v) s = .next t
      ∧ t.queueAt ctx q = { s.queueAt ctx q with base := v &&& 0x00FFFFFFFFFFFFC0 } := by
  refine ⟨s.updQueue ctx q (fun x => { x with base := keepBits v 6 55 }), ?_, ?_⟩
  · rw [exec_registerWrite_queue s _ ctx q 0 v (by omega) hlo hhi hq (by omega) rfl, State.writeQueue]
    simp [hen]
  · rw [State.queueAt_updQueue, keepBits_eq_and]
    rfl

/-! ### Offsets that name no register (R351) -/

/-- Ranges of the device region in which R351 and R352 list no register. -/
def deviceUnlisted (off : Nat) : Prop :=
  (0x58 ≤ off ∧ off < 0x100) ∨ (0x180 ≤ off ∧ off < 0x200) ∨ (0x220 ≤ off ∧ off < 0x300) ∨ (0x380 ≤ off ∧ off < 0x400)
    ∨ (0x410 ≤ off ∧ off < 0x500) ∨ (0x508 ≤ off ∧ off < 0x600) ∨ (0x610 ≤ off ∧ off < 0x1000) ∨ (0x1010 ≤ off ∧ off < 0x2000)
    ∨ (0x3000 ≤ off ∧ off < 0x10000)

/-- The equation of the last case asks that the offset is none of the listed ones. -/
theorem Device.read_unlisted (d : Device) (off : Nat) (h : deviceUnlisted off) : d.read off = 0 := by
  unfold deviceUnlisted at h
  rw [Device.read, if_neg (by omega), if_neg (by omega), if_neg (by omega)] <;> omega

theorem State.writeDevice_unlisted (s : State) (off : Nat) (v : Word) (h : deviceUnlisted off) : s.writeDevice off v = .next s := by
  unfold deviceUnlisted at h
  rw [State.writeDevice, if_neg (by omega), if_neg (by omega)] <;> omega

theorem Context.read_unlisted (c : Context) (off : Nat) (h : 0x60 ≤ off) : c.read off = 0 := by
  rw [Context.read] <;> omega

theorem Queue.read_unlisted (x : Queue) (reg : Nat) (h : 0x20 ≤ reg) : x.read reg = 0 := by
  rw [Queue.read] <;> omega

/-- A context's region reads zero past its registers, past its queues and past the registers of each queue, whatever the context. -/
theorem State.readRegister_contextUnlisted (s : State) (ctx off : Nat) (h8 : off % 8 = 0) (hlo : 1 ≤ ctx)
    (h : (0x60 ≤ off ∧ off < 0x1000) ∨ (0x2000 ≤ off ∧ off < 0x10000)
      ∨ (∃ q k, q < 64 ∧ 0x28 ≤ k ∧ k < 0x40 ∧ off = 0x1000 + q * 64 + k)) :
    s.readRegister (ctx * 0x10000 + off) 8 = 0 := by
  by_cases hhi : ctx ≤ 4095
  · rcases h with h | h | ⟨q, k, hq, hk, hk64, rfl⟩
    · rw [State.readRegister_context s ctx off hlo hhi h8 (by omega) (by omega), Context.read_unlisted _ off h.1]
    · rw [State.readRegister_context s ctx off hlo hhi h8 h.2 (by omega), Context.read_unlisted _ off (by omega)]
    · rw [State.readRegister_queue s _ ctx q k (by omega) hlo hhi hq hk64 (by omega), Queue.read_unlisted _ k (by omega)]
  · have hoff : off < 0x10000 := by
      rcases h with h | h | ⟨q, k, hq, hk, hk64, rfl⟩ <;> omega
    rw [s.readRegister_region ctx off h8 hoff, if_neg (by omega), if_pos (by omega)]

/-! ### Registers of the device region that read what a write left (R357, R362) -/

theorem readRegister_netAge_of_write (s t : State) (v : Word) (h : exec (.registerWrite 0x38 8 v) s = .next t) :
    t.readRegister 0x38 8 = .ofNat 64 (max 64 (v.toNat % 65536)) := by
  obtain rfl : s.updDev (fun d => { d with netAge := .ofNat 16 (max 64 (v.toNat % 65536)) }) = t := Host.Outcome.next.inj h
  rw [State.readRegister_device _ 0x38 rfl (by omega)]
  have hlt : max 64 (v.toNat % 65536) < 2 ^ 16 := by omega
  exact BitVec.setWidth_ofNat_of_le_of_lt (by omega : 16 ≤ 64) hlt

theorem readRegister_pwrLimit_of_write (s t : State) (v : Word) (h : exec (.registerWrite 0x600 8 v) s = .next t) :
    t.readRegister 0x600 8 = .ofNat 64 (max 600 (min (v.toNat % 65536) 1950)) := by
  obtain rfl : s.updDev (fun d => { d with pwrLimit := clampWatts (v.toNat % 65536) }) = t := Host.Outcome.next.inj h
  rw [State.readRegister_device _ 0x600 rfl (by omega)]
  have hlt : max 600 (min (v.toNat % 65536) 1950) < 2 ^ 16 := by omega
  exact BitVec.setWidth_ofNat_of_le_of_lt (by omega : 16 ≤ 64) hlt

/-! ### Accesses of a peer (R140, R354) -/

theorem exec_remoteDomainAccess (acc : RemoteAccess) (s : State) : exec (.remoteDomainAccess acc) s = execRemoteDomainAccess acc s := rfl

/-- The context has registered the device in no set, neither the one read last nor that of a level-4 command (R355). -/
theorem State.inDomain_eq_false (s : State) (ctx device : Nat)
    (h : (device ∉ (s.ctxAt ctx).domSet ∧ ∀ y ∈ (s.ctxAt ctx).queues, ∀ c ∈ y.2.cmds, c.dom = 4 → device ∉ c.domSet)
      ∨ device = s.dev.domNum.toNat) : s.inDomain ctx device = false := by
  rcases h with ⟨hset, hcmds⟩ | rfl
  · simpa [State.inDomain, hset] using fun _ => hcmds
  · simp [State.inDomain]

theorem State.inDomain_of_mem (s : State) (ctx device : Nat) (hmem : device ∈ (s.ctxAt ctx).domSet) (hne : device ≠ s.dev.domNum.toNat) :
    s.inDomain ctx device = true := by
  simp [State.inDomain, hmem, hne]

theorem exec_remoteWrite_refused (s : State) (acc : RemoteAccess) (data : List Byte) (hk : acc.kind = .write data)
    (h : s.inDomain acc.ctx acc.device = false ∨ s.dev.links = 0) : exec (.remoteDomainAccess acc) s = .next s := by
  rcases h with h | h <;> simp [exec_remoteDomainAccess, execRemoteDomainAccess, hk, h]

theorem exec_remoteWrite_admitted (s : State) (acc : RemoteAccess) (data : List Byte) (cs : List Chunk) (hk : acc.kind = .write data)
    (hdom : s.inDomain acc.ctx acc.device = true) (hlinks : s.dev.links ≠ 0) (hoff : acc.offset < 2 ^ 40)
    (hap : s.apertureOk (remoteWho acc) (s.remoteAddr acc) data.length = true)
    (hwin : registerWindowOk (s.remoteAddr acc) data.length = true)
    (hloc : s.locate (remoteWho acc) .store (s.remoteAddr acc) data.length = .ok cs) :
    exec (.remoteDomainAccess acc) s = .next (s.pokeAll cs data) := by
  have hlets : (s.dev.links != 0 && s.inDomain acc.ctx acc.device && decide (acc.offset < 2 ^ 40)
      && s.apertureOk (remoteWho acc) (s.remoteAddr acc) data.length && registerWindowOk (s.remoteAddr acc) data.length) = true := by
    simpa [hdom, hap, hwin] using And.intro hlinks hoff
  simp only [exec_remoteDomainAccess, execRemoteDomainAccess, hk]
  rw [if_pos hlets, hloc]

theorem State.remoteAddr_eq (s : State) (acc : RemoteAccess) (hoff : acc.offset < 2 ^ 40) :
    s.remoteAddr acc = .ofNat 64 (0xFFE0000000000000 + s.dev.domNum.toNat * 2 ^ 40 + acc.offset) := by
  rw [State.remoteAddr, Nat.mod_eq_of_lt hoff]
  rfl

/-! ### A replay that diverges (R346) -/

theorem exec_replayDiverge_of_heldLong (s : State) (ctx : Nat) (h : s.heldLong ctx = true) :
    exec (.replayDiverge ctx) s = .next (s.updCtx ctx (fun c => { c with ordDiverged := true })) := by
  change execReplayDiverge ctx s = _
  rw [execReplayDiverge, if_pos h]

/-! ### Device reset (R338) -/

/-- Only rectangle 0 is valid after device reset. -/
theorem reset_rect_invalid (n : Nat) (r : ContRect) (hn : n ≠ 0) (h : State.reset.dev.rects[n]? = some r) : r.valid = false := by
  change (Vector.ofFn (fun n : Fin 16 => ContRect.reset n.val))[n]? = some r at h
  obtain ⟨hlt, rfl⟩ := Vector.getElem?_eq_some_iff.mp h
  simp [ContRect.reset, hn]

end Sys2Proof.Machine

/-! ### The statements -/

namespace Sys2Proof.Proofs

open Sys2Proof.Machine Sys2Proof.Safety

/-- Settles O20: every value is the reset value of its register; that no other rectangle is valid is `reset_rect_invalid`. -/
theorem resetStateValues : Obligations.ResetStateValues := by
  unfold Obligations.ResetStateValues
  refine ⟨?_, State.reset_pool_wf, State.reset_host_wf⟩
  exact ⟨rfl, rfl, rfl, rfl, rfl, rfl, rfl, rfl, rfl, rfl, rfl, rfl, rfl, rfl, rfl, rfl, rfl, rfl, rfl, rfl, rfl, reset_rect_invalid, rfl, rfl, rfl,
    rfl, rfl⟩

/-- Settles O22, from the read-after-write and frame laws of memory and of each register file. -/
theorem memoryAndRegistersKeepValues : Obligations.MemoryAndRegistersKeepValues := by
  unfold Obligations.MemoryAndRegistersKeepValues
  refine ⟨fun m a bs => ⟨Memory.wf_write m a bs, Memory.read_write m a bs, fun x => Memory.get_write_of_not_mem m a x bs,
    bytesNat_natBytes⟩, ?_, ?_, ?_, ?_⟩
  · exact fun st v => ⟨st.getG_zero, st.setG_zero v⟩
  · exact fun st n m v hpos hn => ⟨st.getG_setG n v (by omega) hn, fun hne => st.getG_setG_of_ne n m v hne.symm⟩
  · exact fun k n m r hn => ⟨k.getF_setF n r hn, fun hne => k.getF_setF_of_ne n m r hne.symm⟩
  · exact fun k n m r hn => ⟨k.getV_setV n r hn, fun hne => k.getV_setV_of_ne n m r hne.symm⟩

/-- Settles O58, from the register that each offset names, and from what admits a peer's access. -/
theorem registerWritesAndPeersComplete : Obligations.RegisterWritesAndPeersComplete := by
  unfold Obligations.RegisterWritesAndPeersComplete
  intro s
  refine ⟨fun off size v => exec_registerWrite_ignored s off size v, fun ctx v hlo hhi => ⟨?en, ?ttRoot, ?trapVec, ?base, ?notify⟩,
    fun v => ⟨?replay, ?inval, ?reset, ?fbHead, ?ift⟩, fun acc data hk => ⟨?refused, ?admitted⟩, ?diverge⟩
  case en =>
    intro hv hen
    obtain ⟨t, ht, hctx⟩ := exec_registerWrite_context s ctx 0 v hlo hhi rfl (by omega)
    rw [Nat.add_zero] at ht
    exact ⟨t, ht, by rw [hctx]; simp [Context.write, hv, hen]⟩
  case ttRoot =>
    obtain ⟨t, ht, hctx⟩ := exec_registerWrite_context s ctx 0x08 v hlo hhi rfl (by omega)
    exact ⟨t, ht, by rw [hctx, ← keepBits_ttRoot]; rfl⟩
  case trapVec =>
    obtain ⟨t, ht, hctx⟩ := exec_registerWrite_context s ctx 0x20 v hlo hhi rfl (by omega)
    have hmask : keepBits v 1 63 = v &&& ~~~1#64 := keepBits_eq_and v 1 63
    exact ⟨t, ht, by rw [hctx, ← hmask]; rfl⟩
  case base => exact fun q hq hen => exec_registerWrite_queueBase s ctx q v hlo hhi hq hen
  case notify =>
    exact fun q hq => exec_registerWrite_queue s _ ctx q 0x18 v (by omega) hlo hhi hq (by omega) rfl
  case replay => exact exec_registerWrite_device s 0x20 v rfl (by omega)
  case inval => exact exec_registerWrite_device s 0x28 v rfl (by omega)
  case reset => exact exec_registerWrite_device s 0x30 v rfl (by omega)
  case fbHead => exact exec_registerWrite_device s 0x40 v rfl (by omega)
  case ift => exact exec_registerWrite_device s 0x400 v rfl (by omega)
  case refused =>
    intro h
    rw [← or_assoc] at h
    exact exec_remoteWrite_refused s acc data hk (h.imp_left (s.inDomain_eq_false acc.ctx acc.device))
  case admitted =>
    intro addr cs hmem hne hlinks hoff haddr hap hwin hloc
    rw [← State.remoteAddr_eq s acc hoff] at haddr
    subst haddr
    exact exec_remoteWrite_admitted s acc data cs hk (s.inDomain_of_mem _ _ hmem hne) hlinks hoff hap hwin hloc
  case diverge =>
    exact fun ctx hheld => ⟨_, exec_replayDiverge_of_heldLong s ctx hheld, State.ctxAt_updCtx _ _ _ (fun _ => rfl), rfl, rfl⟩

/-- Settles O59, from the register that each offset names and what a write leaves in it. -/
theorem registerReadsShowWrites : Obligations.RegisterReadsShowWrites := by
  unfold Obligations.RegisterReadsShowWrites
  intro s
  refine ⟨s.readRegister_ignored, rfl, rfl, rfl, ?unlisted, fun ctx off => s.readRegister_contextUnlisted ctx off,
    fun v t => readRegister_netAge_of_write s t v, fun v t => readRegister_pwrLimit_of_write s t v,
    fun ctx v hlo hhi => ⟨?seed, ?ttRoot, ?pasid, fun q hq hen => ⟨?base, ?ack⟩⟩⟩
  case unlisted =>
    intro off h8 h
    have hoff : off < 0x10000 := by omega
    exact ⟨by rw [s.readRegister_device off h8 hoff, Device.read_unlisted _ off h],
      fun v => by rw [exec_registerWrite_device s off v h8 hoff, s.writeDevice_unlisted off v h]⟩
  case seed =>
    obtain ⟨t, ht, hctx⟩ := exec_registerWrite_context s ctx 0x10 v hlo hhi rfl (by omega)
    exact ⟨t, ht, by rw [t.readRegister_context ctx 0x10 hlo hhi rfl (by omega) (by omega), hctx]; rfl⟩
  case ttRoot =>
    obtain ⟨t, ht, hctx⟩ := exec_registerWrite_context s ctx 0x08 v hlo hhi rfl (by omega)
    exact ⟨t, ht, by rw [t.readRegister_context ctx 0x08 hlo hhi rfl (by omega) (by omega), hctx]; exact keepBits_ttRoot v⟩
  case pasid =>
    obtain ⟨t, ht, hctx⟩ := exec_registerWrite_context s ctx 0x50 v hlo hhi rfl (by omega)
    exact ⟨t, ht, by
      rw [t.readRegister_context ctx 0x50 hlo hhi rfl (by omega) (by omega), hctx]
      exact (zeroExtend_bitField_low v 19 (by omega)).trans (keepBits_eq_and v 0 19)⟩
  case base =>
    obtain ⟨t, ht, hqueue⟩ := exec_registerWrite_queueBase s ctx q v hlo hhi hq hen
    exact ⟨t, ht, by rw [t.readRegister_queue _ ctx q 0 (by omega) hlo hhi hq (by omega) rfl, hqueue]; rfl⟩
  case ack =>
    rw [s.readRegister_queue _ ctx q 0x20 (by omega) hlo hhi hq (by omega) rfl, Queue.read_unlisted _ 0x20 (by omega)]

end Sys2Proof.Proofs
end

section
/-! What the command front end changes: the commands of a queue under a sweep over a context, and the accesses that it makes
(spec/02_describing_and_launching.md R30 to R39, R365). -/

namespace Sys2Proof.Machine

/-! ### What a queue reads after an update of the contexts -/

theorem State.ctxAt_congr {s t : State} (h : t.contexts = s.contexts) (ctx : Nat) : t.ctxAt ctx = s.ctxAt ctx := by
  rw [State.ctxAt, State.ctxAt, h]

theorem State.queueAt_congr {s t : State} (h : t.contexts = s.contexts) (ctx q : Nat) : t.queueAt ctx q = s.queueAt ctx q := by
  rw [State.queueAt, State.queueAt, State.ctxAt_congr h]

/-- A queue whose commands are changed one by one: each of the front end's sweeps over commands is one such change per queue. -/
def Queue.mapCmds (x : Queue) (f : Command → Command) : Queue := { x with cmds := x.cmds.map f }

/-- The same for every queue of a context. -/
def Context.mapCmds (c : Context) (f : Command → Command) : Context := { c with queues := c.queues.map (fun y => (y.1, y.2.mapCmds f)) }

theorem Queue.mapCmds_of_empty {x : Queue} (h : x.cmds = []) (f : Command → Command) : x.mapCmds f = x := by
  cases x
  simp_all [Queue.mapCmds]

theorem Context.queueAt_mapCmds (c : Context) (f : Command → Command) (q : Nat) : (c.mapCmds f).queueAt q = (c.queueAt q).mapCmds f := by
  simp only [Context.queueAt, Context.mapCmds, List.find?_map, Option.map_map]
  change ((c.queues.find? (fun x => x.1 == q)).map (fun x => x.2.mapCmds f)).getD .init = _
  cases c.queues.find? (fun x => x.1 == q) <;> rfl

theorem State.queueAt_updCtx_mapCmds (s : State) (ctx q : Nat) (f : Command → Command) :
    (s.updCtx ctx (fun c => c.mapCmds f)).queueAt ctx q = (s.queueAt ctx q).mapCmds f := by
  rw [State.queueAt, State.ctxAt_updCtx s ctx (fun c => c.mapCmds f) (fun _ => rfl), Context.queueAt_mapCmds, State.queueAt]

theorem State.queueAt_of_contexts_map {s t : State} {f : Command → Command} (h : t.contexts = s.contexts.map (fun c => c.mapCmds f)) (ctx q : Nat) :
    t.queueAt ctx q = (s.queueAt ctx q).mapCmds f := by
  have hctx : t.ctxAt ctx = (s.ctxAt ctx).mapCmds f := by
    rw [State.ctxAt, State.ctxAt, h, List.find?_map]
    change ((s.contexts.find? (fun c => c.id == ctx)).map (fun c => c.mapCmds f)).getD _ = _
    cases s.contexts.find? (fun c => c.id == ctx) <;> rfl
  rw [State.queueAt, State.queueAt, hctx, Context.queueAt_mapCmds]

/-- An update of one command is an update of the commands of its queue that bear its number. -/
theorem State.queueAt_updCmd (s : State) (ctx q : Nat) (seq : BitVec 32) (f : Command → Command) :
    (s.updCmd ctx q seq f).queueAt ctx q = (s.queueAt ctx q).mapCmds (fun c => if c.seq == seq then f c else c) :=
  State.queueAt_updQueue s ctx q _

theorem State.cmdAt_of_cmds {s : State} {ctx q : Nat} {c : Command} {rest : List Command} (h : (s.queueAt ctx q).cmds = c :: rest) :
    s.cmdAt ctx q c.seq = some c := by
  simp [State.cmdAt, h]

/-! ### Sweeps over an empty queue -/

theorem State.renameProds_queueAt {s : State} {ctx q : Nat} (h : (s.queueAt ctx q).cmds = []) (n : Nat) (other : Option Nat) :
    (s.renameProds ctx n other).queueAt ctx q = s.queueAt ctx q :=
  (s.queueAt_updCtx_mapCmds ctx q (fun c => c.renameProds n other)).trans (Queue.mapCmds_of_empty h _)

theorem State.spreadToken_queueAt {s : State} {ctx q : Nat} (h : (s.queueAt ctx q).cmds = []) (seq : BitVec 32) :
    (s.spreadToken ctx q seq).queueAt ctx q = s.queueAt ctx q :=
  (s.queueAt_updCtx_mapCmds ctx q (fun c => if c.prods.contains (q, seq) then c.cancel else c)).trans (Queue.mapCmds_of_empty h _)

theorem State.retire_queueAt {s : State} {ctx q : Nat} (h : (s.queueAt ctx q).cmds = []) (cluster : Nat) :
    (s.retire cluster).queueAt ctx q = s.queueAt ctx q :=
  (State.queueAt_of_contexts_map (f := fun c => c.topo cluster) rfl ctx q).trans (Queue.mapCmds_of_empty h _)

theorem State.foldl_retire_keeps (ks : List Nat) (s : State) :
    (ks.foldl State.retire s).pool = s.pool ∧ (ks.foldl State.retire s).host = s.host
      ∧ ∀ ctx q, (s.queueAt ctx q).cmds = [] → (ks.foldl State.retire s).queueAt ctx q = s.queueAt ctx q := by
  induction ks generalizing s with
  | nil => exact ⟨rfl, rfl, fun _ _ _ => rfl⟩
  | cons k ks ih =>
    obtain ⟨hpool, hhost, hqueue⟩ := ih (s.retire k)
    refine ⟨hpool, hhost, fun ctx q h => ?_⟩
    have hk := State.retire_queueAt h k
    rw [List.foldl_cons, hqueue ctx q (by rw [hk, h]), hk]

/-- Clusters that are retired at last leave memory and the queues without commands as they are. -/
theorem State.settleFailing_keeps (s : State) :
    s.settleFailing.pool = s.pool ∧ s.settleFailing.host = s.host
      ∧ ∀ ctx q, (s.queueAt ctx q).cmds = [] → s.settleFailing.queueAt ctx q = s.queueAt ctx q :=
  State.foldl_retire_keeps _ s

/-! ### Accesses of the front end, no line being held by an engine (R199, R365) -/

/-- Nothing but the device's registers and the names of free values has changed. -/
def OnlyDevice (s t : State) : Prop := t = { s with dev := t.dev, free := t.free }

namespace OnlyDevice

theorem refl (s : State) : OnlyDevice s s := rfl

theorem trans {s t u : State} (h : OnlyDevice s t) (h' : OnlyDevice t u) : OnlyDevice s u := by
  unfold OnlyDevice at *
  rw [h', h]

theorem contexts {s t : State} (h : OnlyDevice s t) : t.contexts = s.contexts := by rw [h]
theorem clusters {s t : State} (h : OnlyDevice s t) : t.clusters = s.clusters := by rw [h]
theorem pool {s t : State} (h : OnlyDevice s t) : t.pool = s.pool := by rw [h]
theorem host {s t : State} (h : OnlyDevice s t) : t.host = s.host := by rw [h]

theorem noLineHeld {s t : State} (h : OnlyDevice s t) (hs : Spec.NoLineHeld s) : Spec.NoLineHeld t := by
  rw [Spec.NoLineHeld, h.clusters]
  exact hs

end OnlyDevice

theorem State.recall_of_noLineHeld {s : State} (h : Spec.NoLineHeld s) (by_ : Option Nat) (cs : List Chunk) : s.recall by_ cs = s := by
  have hheld : s.clusters.flatMap (fun c => if by_ = some c.id ∨ c.hot = [] then [] else
      (c.hot.filter (fun x => cs.any (fun y => y.lines.contains x))).map (fun x => (c.id, x))) = [] := by
    rw [List.flatMap_eq_nil_iff]
    intro c hc
    rw [if_pos (.inr (h c hc))]
  rw [State.recall, hheld]
  rfl

theorem State.touch_onlyDevice (s : State) (ctx : Nat) (atomic : Bool) (cs : List Chunk) : OnlyDevice s (s.touch ctx atomic cs) := by
  induction cs generalizing s with
  | nil => exact .refl s
  | cons c cs ih =>
    refine .trans ?_ (ih _)
    cases c with
    | phys hm pa len ord cache page level =>
      dsimp only
      repeat' split
      all_goals rfl
    | spad pid off len => rfl
    | win pid off len => rfl
    | peer dev off len => rfl

theorem State.reach_onlyDevice {s : State} (h : Spec.NoLineHeld s) (ctx : Nat) (atomic : Bool) (cs : List Chunk) :
    OnlyDevice s (s.reach ctx atomic cs) := by
  rw [State.reach, State.recall_of_noLineHeld h]
  exact s.touch_onlyDevice ctx atomic cs

theorem State.feRead_onlyDevice {s : State} (h : Spec.NoLineHeld s) (ctx : Nat) (addr : Word) (n : Nat) :
    OnlyDevice s (s.feRead ctx addr n).2 := by
  rw [State.feRead]
  cases s.feSource ctx addr n with
  | ok cs => exact State.reach_onlyDevice h ctx false cs
  | error e => exact .refl s

theorem State.onlyDevice_of_feRead {s t : State} (h : Spec.NoLineHeld s) {ctx : Nat} {addr : Word} {n : Nat} {r : Except FeFail (List Byte)}
    (hread : s.feRead ctx addr n = (r, t)) : OnlyDevice s t := by
  have hkeeps := State.feRead_onlyDevice h ctx addr n
  rwa [hread] at hkeeps

/-- A fault of the front end stands among the device's records, not among those of a cluster (R365). -/
theorem State.feFault_onlyDevice (s : State) (ctx level base : Nat) (va : Word) : OnlyDevice s (s.feFault ctx level base va) := by
  unfold State.feFault State.recordFault
  simp only [if_pos]
  repeat' split
  all_goals rfl

/-! ### Reads of the front end one after the other -/

theorem feRun_bind {α β : Type} (m : Fe α) (f : α → Fe β) (s : State) :
    feRun (m >>= f) s = match feRun m s with
      | (.ok a, s1) => feRun (f a) s1
      | (.error e, s1) => (.error e, s1) := by
  change (ExceptT.bindCont f (m.run.run s).1).run (m.run.run s).2 = _
  rw [feRun]
  obtain ⟨r, s1⟩ := m.run.run s
  cases r <;> rfl

/-- The reads change nothing but the device, whatever they find. -/
def ReadsOnly {α : Type} (m : Fe α) : Prop := ∀ s, Spec.NoLineHeld s → OnlyDevice s (feRun m s).2

namespace ReadsOnly

variable {α β : Type}

theorem onlyDevice {m : Fe α} (h : ReadsOnly m) {s t : State} (hs : Spec.NoLineHeld s) {r : Except FeFail α} (hrun : feRun m s = (r, t)) :
    OnlyDevice s t := by
  have hkeeps := h s hs
  rwa [hrun] at hkeeps

theorem pure (a : α) : ReadsOnly (Pure.pure a : Fe α) := fun s _ => .refl s

theorem throw (e : FeFail) : ReadsOnly (MonadExcept.throw e : Fe α) := fun s _ => .refl s

theorem get : ReadsOnly (MonadState.get : Fe State) := fun s _ => .refl s

theorem bind {m : Fe α} {f : α → Fe β} (hm : ReadsOnly m) (hf : ∀ a, ReadsOnly (f a)) : ReadsOnly (m >>= f) := by
  intro s hs
  have h := hm s hs
  rw [feRun_bind]
  revert h
  obtain ⟨r, s1⟩ := feRun m s
  intro h
  cases r with
  | ok a => exact h.trans (hf a s1 (h.noLineHeld hs))
  | error e => exact h

theorem need (b : Bool) : ReadsOnly (Machine.need b) := by
  cases b
  · exact throw .bad
  · exact pure ()

/-- A check first, and then more reads: every descriptor's reader is made of these. -/
theorem need_bind {b : Bool} {f : Unit → Fe β} (hf : ReadsOnly (f ())) : ReadsOnly (Machine.need b >>= f) := bind (need b) fun _ => hf

theorem feRead (ctx : Nat) (addr : Word) (n : Nat) : ReadsOnly (Machine.feRead ctx addr n) := fun _ hs => State.feRead_onlyDevice hs ctx addr n

theorem feTable (ctx : Nat) (addr : Word) (size n : Nat) : ReadsOnly (Machine.feTable ctx addr size n) := by
  induction n generalizing addr with
  | zero => exact pure []
  | succ n ih => exact bind (feRead _ _ _) fun _ => bind (ih _) fun _ => pure _

theorem readKernel (ctx : Nat) (addr : Word) : ReadsOnly (Machine.readKernel ctx addr) := by
  refine need_bind <| bind (feRead _ _ _) fun _ => ?_
  iterate 6 refine need_bind ?_
  refine bind (feTable _ _ _ _) fun _ => bind (feTable _ _ _ _) fun _ => bind (feTable _ _ _ _) fun _ => bind (feTable _ _ _ _) fun _ => ?_
  exact need_bind <| need_bind <| need_bind <| pure _

theorem readTeam (ctx : Nat) (addr : Word) : ReadsOnly (Machine.readTeam ctx addr) := by
  refine need_bind <| bind (feRead _ _ _) fun _ => ?_
  exact need_bind <| need_bind <| need_bind <| need_bind <| bind (readKernel _ _) fun _ => pure _

theorem readRules (ctx : Nat) (addr : Word) (used : List Nat) (n : Nat) : ReadsOnly (Machine.readRules ctx addr used n) := by
  induction n with
  | zero => exact pure []
  | succ n ih =>
    refine bind ih fun rest => ?_
    split
    · exact bind (feRead _ _ _) fun _ => need_bind <| pure _
    · exact pure _

theorem readFront (ctx : Nat) (addr : Word) : ReadsOnly (Machine.readFront ctx addr) := by
  refine need_bind <| bind (feRead _ _ _) fun _ => need_bind <| need_bind <| bind (readKernel _ _) fun _ => bind (feTable _ _ _ _) fun _ => ?_
  exact bind (readRules _ _ _ _) fun _ => bind (feTable _ _ _ _) fun _ => need_bind <| need_bind <| need_bind <| pure _

theorem readWork (ctx : Nat) (x : Slot) : ReadsOnly (Machine.readWork ctx x) := by
  unfold Machine.readWork
  split
  · exact readTeam ctx x.desc
  · exact readFront ctx x.desc
  · exact pure _

theorem readSet (ctx : Nat) : ReadsOnly (Machine.readSet ctx) :=
  bind get fun _ => need_bind <| bind (feRead _ _ _) fun _ => need_bind <| pure _

theorem readAll (ctx : Nat) (x : Slot) : ReadsOnly (Machine.readAll ctx x) := by
  refine bind (readWork ctx x) fun w => ?_
  split
  · exact bind (readSet ctx) fun _ => pure _
  · exact pure _

end ReadsOnly

end Sys2Proof.Machine
end

section
/-! Where the front end's accesses land, and what its writes leave (spec/08_memory.md R154 to R156, spec/02_describing_and_launching.md R365). -/

namespace Sys2Proof.Machine

/-! ### Translation reads TT.ROOT and the PASID of a context, and nothing of its queues (R154, R349) -/

section
variable (s : State) (ctx : Nat) (f : Context → Context)
  (hf : ∀ c, (f c).id = c.id ∧ (f c).ttRoot = c.ttRoot ∧ (f c).pasid = c.pasid)
include hf

theorem State.ctxAt_updCtx_translation :
    ((s.updCtx ctx f).ctxAt ctx).ttRoot = (s.ctxAt ctx).ttRoot ∧ ((s.updCtx ctx f).ctxAt ctx).pasid = (s.ctxAt ctx).pasid := by
  rw [State.ctxAt_updCtx s ctx f (fun c => (hf c).1)]
  exact (hf _).2

theorem State.hostServes_updCtx : (s.updCtx ctx f).hostServes ctx = s.hostServes ctx := by
  rw [State.hostServes, (s.ctxAt_updCtx_translation ctx f hf).2]
  rfl

theorem State.physWord_updCtx (hm : Bool) (pa : Nat) : (s.updCtx ctx f).physWord ctx hm pa = s.physWord ctx hm pa := by
  rw [State.physWord, s.hostServes_updCtx ctx f hf]
  rfl

theorem State.walk_updCtx (va level : Nat) (hm : Bool) (table : Nat) :
    (s.updCtx ctx f).walk ctx va level hm table = s.walk ctx va level hm table := by
  induction level generalizing hm table with
  | zero => rw [State.walk, State.walk, s.physWord_updCtx ctx f hf]
  | succ l ih =>
    rw [State.walk, State.walk, s.physWord_updCtx ctx f hf]
    simp only [ih]

theorem State.leafFor_updCtx (va : Nat) : (s.updCtx ctx f).leafFor (feWho ctx) va = s.leafFor (feWho ctx) va := by
  have hroot : ((s.updCtx ctx f).ctxAt (feWho ctx).ctx).ttRoot = (s.ctxAt (feWho ctx).ctx).ttRoot := (s.ctxAt_updCtx_translation ctx f hf).1
  have hwalk := s.walk_updCtx ctx f hf va 4
  rw [State.leafFor, hroot]
  simp only [show (feWho ctx).ctx = ctx from rfl, hwalk]
  rfl

theorem State.locatePage_updCtx (acc : Acc) (va len : Nat) :
    (s.updCtx ctx f).locatePage (feWho ctx) acc va len = s.locatePage (feWho ctx) acc va len := by
  have hserves : (s.updCtx ctx f).hostServes (feWho ctx).ctx = s.hostServes (feWho ctx).ctx := s.hostServes_updCtx ctx f hf
  rw [State.locatePage, State.locatePage, s.leafFor_updCtx ctx f hf]
  simp only [hserves]

theorem State.locatePages_updCtx (acc : Acc) (k va n : Nat) :
    (s.updCtx ctx f).locatePages (feWho ctx) acc k va n = s.locatePages (feWho ctx) acc k va n := by
  induction k generalizing va n with
  | zero => exact s.locatePage_updCtx ctx f hf acc va n
  | succ k ih => simp only [State.locatePages, ih, s.locatePage_updCtx ctx f hf]

theorem State.fePlace_updCtx (addr : Word) (n : Nat) : (s.updCtx ctx f).fePlace ctx addr n = s.fePlace ctx addr n := by
  rw [State.fePlace, State.fePlace]
  split
  · rfl
  · next h =>
    have hkind : (aperture addr).kind = 1 := by omega
    simp only [State.locate, hkind, State.locateVirtual, s.locatePages_updCtx ctx f hf]

end

/-! ### What the front end writes (R365) -/

/-- The bytes of a write, before any poison is cleared. -/
def State.put (s : State) (bs : List Byte) : Chunk → State
  | .phys true pa _ _ _ _ _ => { s with host := Memory.write s.host pa bs }
  | .phys false pa _ _ _ _ _ => { s with pool := Memory.write s.pool pa bs }
  | .spad pid off _ => s.updCore pid (fun k => { k with spad := Memory.write k.spad off bs })
  | .win pid off _ => s.updCore pid (fun k => k.setWin off bs)
  | .peer _ _ _ => s

theorem State.poke_eq_put (s : State) (c : Chunk) (bs : List Byte) : ∃ d, s.poke c bs = { s.put bs c with dev := d } := by
  have hput : s.poke c bs = if (s.put bs c).dev.poison.isEmpty then s.put bs c
      else { s.put bs c with dev := { (s.put bs c).dev with poison := (s.put bs c).dev.poison.filter (fun u => !c.covers u) } } := by
    cases c with
    | phys hm pa len ord cache page level => cases hm <;> rfl
    | spad pid off len => rfl
    | win pid off len => rfl
    | peer dev off len => rfl
  rw [hput]
  split
  · exact ⟨_, rfl⟩
  · exact ⟨_, rfl⟩

/-- What a write leaves in memory depends on memory alone. -/
theorem State.poke_memory {s t : State} (hpool : t.pool = s.pool) (hhost : t.host = s.host) (c : Chunk) (bs : List Byte) :
    (t.poke c bs).pool = (s.poke c bs).pool ∧ (t.poke c bs).host = (s.poke c bs).host := by
  obtain ⟨_, ht⟩ := t.poke_eq_put c bs
  obtain ⟨_, hs⟩ := s.poke_eq_put c bs
  rw [ht, hs]
  cases c with
  | phys hm pa len ord cache page level => cases hm <;> simp [State.put, hpool, hhost]
  | spad pid off len => simp [State.put, hpool, hhost]
  | win pid off len => simp [State.put, hpool, hhost]
  | peer dev off len => exact ⟨hpool, hhost⟩

theorem State.pokeAll_memory {s t : State} (hpool : t.pool = s.pool) (hhost : t.host = s.host) (cs : List Chunk) (bs : List Byte) :
    (t.pokeAll cs bs).pool = (s.pokeAll cs bs).pool ∧ (t.pokeAll cs bs).host = (s.pokeAll cs bs).host := by
  induction cs generalizing s t bs with
  | nil => exact ⟨hpool, hhost⟩
  | cons c cs ih =>
    obtain ⟨hp, hh⟩ := State.poke_memory hpool hhost c (bs.take _)
    exact ih hp hh _

theorem State.poke_contexts (s : State) (c : Chunk) (bs : List Byte) : (s.poke c bs).contexts = s.contexts := by
  obtain ⟨_, hs⟩ := s.poke_eq_put c bs
  rw [hs]
  cases c with
  | phys hm pa len ord cache page level => cases hm <;> rfl
  | spad pid off len => exact State.updCore_contexts ..
  | win pid off len => exact State.updCore_contexts ..
  | peer dev off len => rfl

theorem State.pokeAll_contexts (s : State) (cs : List Chunk) (bs : List Byte) : (s.pokeAll cs bs).contexts = s.contexts := by
  induction cs generalizing s bs with
  | nil => rfl
  | cons c cs ih => exact (ih _ _).trans (s.poke_contexts _ _)

/-- A write of the front end of bytes that it does not compute from those that stand there. -/
theorem State.fePut_const {s : State} (h : Spec.NoLineHeld s) (ctx : Nat) (cs : List Chunk) (bs : List Byte) :
    (s.fePut ctx false cs (fun _ => bs)).contexts = s.contexts ∧ (s.fePut ctx false cs (fun _ => bs)).pool = (s.pokeAll cs bs).pool
      ∧ (s.fePut ctx false cs (fun _ => bs)).host = (s.pokeAll cs bs).host := by
  have hreach := State.reach_onlyDevice h ctx false cs
  exact ⟨(State.pokeAll_contexts _ _ _).trans hreach.contexts, State.pokeAll_memory hreach.pool hreach.host cs bs⟩

end Sys2Proof.Machine
end

section
/-! The completion of a command (spec/24_retirement.md R333 to R335, spec/02_describing_and_launching.md R35, R40). -/

namespace Sys2Proof.Machine

/-! ### The end of a command that is alone in its queue (R333 to R335) -/

/-- A queue after its one command has completed (R35, R40). -/
def Queue.afterEnd (x : Queue) (seq : BitVec 32) (st : CmdStatus) : Queue :=
  { x.freeze seq st with cmds := [], kept := Spec.keepLast x (seq, st) }

/-- A disabled queue does not freeze, and nothing freezes when a command ends ok (R30, R40). -/
theorem Queue.freeze_eq_self {x : Queue} {st : CmdStatus} (h : st = .ok ∨ x.en = false) (seq : BitVec 32) : x.freeze seq st = x := by
  rw [Queue.freeze, if_pos (by simpa using h)]

theorem Queue.freeze_error {x : Queue} (hen : x.en = true) (hfrozen : x.frozen = false) (seq : BitVec 32) :
    x.freeze seq .error = { x with frozen := true, err := 4, errSeq := seq } := by
  simp [Queue.freeze, hen, hfrozen, CmdStatus.err]

theorem Queue.settle_freeze_alone (x : Queue) {c : Command} {st : CmdStatus} (hphase : c.phase = .completed st) :
    ({ x with cmds := [c] }.freeze c.seq st).settle = x.afterEnd c.seq st := by
  unfold Queue.afterEnd Queue.freeze
  split
  · simp [Queue.settle, hphase, Spec.keepLast]
  · split <;> simp [Queue.settle, hphase, Spec.keepLast]

/-- Which commands stood in the queue does not matter once they are gone. -/
theorem Queue.afterEnd_withCmds (x : Queue) (cs : List Command) (seq : BitVec 32) (st : CmdStatus) :
    ({ x with cmds := cs } : Queue).afterEnd seq st = x.afterEnd seq st := by
  unfold Queue.afterEnd Queue.freeze
  split
  · rfl
  · split <;> rfl

/-- A command that has completed and holds nothing any more (R333). -/
def Command.ended (c : Command) (st : CmdStatus) : Command :=
  { c with phase := .completed st, clusters := [], held := [], claim := [], slot := none, teamMap := [], saved := [] }

/-- The command is marked as completed, its queue freezes or not and moves its completion point, and the clusters note the status. -/
def State.leaveQueue (s : State) (ctx q : Nat) (seq : BitVec 32) (st : CmdStatus) : State :=
  let s1 := (s.updCmd ctx q seq (fun y => y.ended st)).updQueue ctx q (fun x => (x.freeze seq st).settle)
  { s1 with clusters := s1.clusters.map (fun k => k.noteEnd ctx q seq st) }

/-- A completion record, where the command asks for one, is aligned and finds its page, and no engine holds a line (R199, R365). -/
def RecordLands (s : State) (ctx : Nat) (c : Command) : Prop :=
  c.hostDone = true → c.doneRec.toNat % 16 = 0 ∧ Spec.NoLineHeld s ∧ ∃ cs, s.fePlace ctx c.doneRec 16 = .ok cs

section
variable {s : State} {ctx q : Nat} {c c' : Command} {st : CmdStatus}

theorem State.leaveQueue_queueAt {seq : BitVec 32} (hcmds : (s.queueAt ctx q).cmds = [c']) (hseq : c'.seq = seq) :
    (s.leaveQueue ctx q seq st).queueAt ctx q = (s.queueAt ctx q).afterEnd seq st := by
  subst hseq
  have hended : (s.updCmd ctx q c'.seq (fun y => y.ended st)).queueAt ctx q = { s.queueAt ctx q with cmds := [c'.ended st] } := by
    rw [State.queueAt_updCmd]
    simp [Queue.mapCmds, hcmds]
  have hsettle : (s.leaveQueue ctx q c'.seq st).queueAt ctx q
      = (((s.updCmd ctx q c'.seq (fun y => y.ended st)).queueAt ctx q).freeze c'.seq st).settle :=
    State.queueAt_updQueue (s.updCmd ctx q c'.seq (fun y => y.ended st)) ctx q (fun x => (x.freeze c'.seq st).settle)
  rw [hsettle, hended]
  exact Queue.settle_freeze_alone (s.queueAt ctx q) (c := c'.ended st) rfl

/-- Steps 5 and 6 of R333 for a command without an interrupt and without a saved task. -/
theorem State.retireCmd_eq (hirq : c.irq = false) (hsaved : c.saved = []) :
    s.retireCmd ctx q c st = if st = .ok then (s.leaveQueue ctx q c.seq st).settleFailing
      else (s.leaveQueue ctx q c.seq st).settleFailing.spreadToken ctx q c.seq := by
  have hdrop : (if c.irq = true then s.raiseMsi (max 2 (s.queueAt ctx q).msiv.toNat) else s).dropSaved ctx c.saved = s := by
    rw [hirq, hsaved]
    rfl
  unfold State.retireCmd
  simp only [hdrop]
  rfl

theorem State.retireCmd_alone (hcmds : (s.queueAt ctx q).cmds = [c']) (hseq : c'.seq = c.seq) (hirq : c.irq = false) (hsaved : c.saved = []) :
    (s.retireCmd ctx q c st).queueAt ctx q = (s.queueAt ctx q).afterEnd c.seq st
      ∧ (s.retireCmd ctx q c st).pool = s.pool ∧ (s.retireCmd ctx q c st).host = s.host := by
  have hleft := s.leaveQueue_queueAt (st := st) hcmds hseq
  have hempty : ((s.leaveQueue ctx q c.seq st).queueAt ctx q).cmds = [] := by
    rw [hleft]
    rfl
  obtain ⟨hpool, hhost, hqueue⟩ := (s.leaveQueue ctx q c.seq st).settleFailing_keeps
  have hsettled := hqueue ctx q hempty
  rw [State.retireCmd_eq hirq hsaved]
  split
  · exact ⟨hsettled.trans hleft, hpool, hhost⟩
  · refine ⟨?_, hpool, hhost⟩
    rw [State.spreadToken_queueAt (by rw [hsettled, hempty]), hsettled, hleft]

/-- Step 3 of R333 where no record is added to: the command was never placed, or its kernel names no tensor. -/
theorem State.addStats_noRecord (hcmds : (s.queueAt ctx q).cmds = [c])
    (hnone : c.wasPlaced = false ∨ ∀ k, c.kernel = some k → k.tensors = []) :
    ∃ s1 c1, s.addStats ctx q c st = .ok s1 ∧ s1.queueAt ctx q = { s.queueAt ctx q with cmds := [c1] } ∧ c1.seq = c.seq
      ∧ s1.pool = s.pool ∧ s1.host = s.host ∧ s1.dev = s.dev ∧ s1.clusters = s.clusters
      ∧ ∀ addr n, s1.fePlace ctx addr n = s.fePlace ctx addr n := by
  cases hk : c.kernel with
  | none => exact ⟨s, c, by rw [State.addStats, hk], by rw [← hcmds], rfl, rfl, rfl, rfl, rfl, fun _ _ => rfl⟩
  | some k =>
    refine ⟨s.updCmd ctx q c.seq (fun y => { y with kernel := y.kernel.map (fun k => { k with tensors := [] }) }),
      { c with kernel := c.kernel.map (fun k => { k with tensors := [] }) }, ?_, ?_, rfl, rfl, rfl, rfl, rfl, ?_⟩
    · rw [State.addStats, hk]
      rcases hnone with hplaced | htensors
      · simp [hplaced]
      · simp [htensors k hk, firstFault]
    · rw [State.queueAt_updCmd]
      simp [Queue.mapCmds, hcmds]
    · exact s.fePlace_updCtx ctx _ (fun _ => ⟨rfl, rfl, rfl⟩)

/-- Step 4 of R333 with an aligned record whose page is there, or with none to write. -/
theorem State.writeDone_ok (hdone : RecordLands s ctx c) :
    ∃ s1, s.writeDone ctx q c st = .ok s1 ∧ s1.contexts = s.contexts
      ∧ (c.hostDone = false → s1.pool = s.pool ∧ s1.host = s.host)
      ∧ (c.hostDone = true → ∀ cs, s.fePlace ctx c.doneRec 16 = .ok cs →
        s1.pool = (s.pokeAll cs (c.record st s.dev.cycle)).pool ∧ s1.host = (s.pokeAll cs (c.record st s.dev.cycle)).host) := by
  cases hd : c.hostDone with
  | false => exact ⟨s, by simp [State.writeDone, hd], rfl, fun _ => ⟨rfl, rfl⟩, by simp⟩
  | true =>
    obtain ⟨halign, hheld, cs, hcs⟩ := hdone hd
    obtain ⟨hctxs, hmem⟩ := State.fePut_const hheld ctx cs (c.record st s.dev.cycle)
    refine ⟨_, by simp [State.writeDone, hd, halign, hcs], hctxs, by simp, fun _ cs' hcs' => ?_⟩
    obtain rfl : cs = cs' := Except.ok.inj (hcs.symm.trans hcs')
    exact hmem

theorem Queue.inOrder_alone {x : Queue} (hcmds : x.cmds = [c]) : x.inOrder c = true := by
  simp [Queue.inOrder, hcmds]

/-- A command completes once nothing of it is left (R333). -/
theorem State.completeCmd_eq {s1 s2 : State} (hcmds : (s.queueAt ctx q).cmds = [c]) (hphase : c.phase = .ending st) (hfin : Spec.Finished s ctx q c)
    (hstats : s.addStats ctx q c st = .ok s1) (hdone : s1.writeDone ctx q c st = .ok s2) :
    s.completeCmd ctx q c.seq = s2.retireCmd ctx q c st := by
  obtain ⟨htasks, hdrained, hparked, -, -⟩ := hfin
  have hstop : (if st = .cancelled then [].foldl State.stopCancelled s else s) = s := ite_self s
  simp only [State.completeCmd, State.cmdAt_of_cmds hcmds, hphase, hstop, hparked, htasks, hdrained, Queue.inOrder_alone hcmds, hstats, hdone]
  rfl

theorem State.completeCmd_alone (hcmds : (s.queueAt ctx q).cmds = [c]) (hphase : c.phase = .ending st) (hfin : Spec.Finished s ctx q c)
    (hnone : c.wasPlaced = false ∨ ∀ k, c.kernel = some k → k.tensors = [])
    (hdone : RecordLands s ctx c) :
    (s.completeCmd ctx q c.seq).queueAt ctx q = (s.queueAt ctx q).afterEnd c.seq st
      ∧ (c.hostDone = false → (s.completeCmd ctx q c.seq).pool = s.pool ∧ (s.completeCmd ctx q c.seq).host = s.host)
      ∧ (c.hostDone = true → ∀ cs, s.fePlace ctx c.doneRec 16 = .ok cs →
        (s.completeCmd ctx q c.seq).pool = (s.pokeAll cs (c.record st s.dev.cycle)).pool
          ∧ (s.completeCmd ctx q c.seq).host = (s.pokeAll cs (c.record st s.dev.cycle)).host) := by
  obtain ⟨s1, c1, hstats, hq1, hseq1, hpool1, hhost1, hdev1, hclusters1, hplace1⟩ := s.addStats_noRecord (st := st) hcmds hnone
  have hdone1 : RecordLands s1 ctx c := by
    rw [RecordLands, Spec.NoLineHeld, hclusters1, hplace1]
    exact hdone
  obtain ⟨s2, hwrite, hctxs2, hplain, hrec⟩ := s1.writeDone_ok (q := q) (st := st) hdone1
  have hq2 : s2.queueAt ctx q = { s.queueAt ctx q with cmds := [c1] } := (State.queueAt_congr hctxs2 ctx q).trans hq1
  have ⟨_, _, _, hirq, hsaved⟩ := hfin
  obtain ⟨hqueue, hpool, hhost⟩ := s2.retireCmd_alone (ctx := ctx) (q := q) (c' := c1) (st := st) (by rw [hq2]) hseq1 hirq hsaved
  rw [State.completeCmd_eq hcmds hphase hfin hstats hwrite, hpool, hhost]
  refine ⟨?_, fun hd => ?_, fun hd cs hcs => ?_⟩
  · rw [hqueue, hq2, Queue.afterEnd_withCmds]
  · obtain ⟨hp, hh⟩ := hplain hd
    exact ⟨hp.trans hpool1, hh.trans hhost1⟩
  · obtain ⟨hp, hh⟩ := hrec hd cs ((hplace1 _ _).trans hcs)
    obtain ⟨hp', hh'⟩ := State.pokeAll_memory hpool1 hhost1 cs (c.record st s1.dev.cycle)
    rw [hp, hh, hp', hh', hdev1]
    exact ⟨rfl, rfl⟩

end
end Sys2Proof.Machine
end

section
/-! Queues that are enabled, disabled and acknowledged, markers and failed commands
(spec/02_describing_and_launching.md R24, R29 to R34, R40). -/

namespace Sys2Proof.Machine

/-! ### Events of a queue (R24, R29, R30, R34, R40) -/

section
variable {s : State} {ctx q : Nat} {c : Command}

theorem ctxId_eq_true (hlo : 1 ≤ ctx) (hhi : ctx ≤ 4095) : ctxId ctx = true := by simp [ctxId, hlo, hhi]

theorem exec_queueEnable (hsafe : s.dev.safe = false) (hlo : 1 ≤ ctx) (hhi : ctx ≤ 4095) (hq : q < 64) (hen : (s.queueAt ctx q).en = false)
    (hcmds : (s.queueAt ctx q).cmds = []) :
    exec (.queueEnable ctx q) s = .next ((s.renameProds ctx q none).updQueue ctx q Queue.restart) := by
  change execQueueEnable ctx q s = _
  simp [execQueueEnable, State.setAside, hsafe, ctxId_eq_true hlo hhi, hen, hcmds, hq]

theorem exec_queueAck (hfrozen : (s.queueAt ctx q).frozen = true) :
    exec (.queueAck ctx q (s.queueAt ctx q).errSeq) s = .next (s.updQueue ctx q Queue.ack) := by
  change execQueueAck ctx q _ s = _
  simp [execQueueAck, hfrozen]

theorem exec_seedWrite (hlo : 1 ≤ ctx) (hhi : ctx ≤ 4095) (v : Word) :
    exec (.seedWrite ctx v) s = .next (s.updCtx ctx (fun c => { c with seed := v })) :=
  if_pos (ctxId_eq_true hlo hhi)

theorem Command.cancel_accepted (h : c.phase = .accepted) : c.cancel = { c with phase := .ending .cancelled, parked := false, claim := [] } := by
  simp [Command.cancel, h]

theorem Command.cancel_cancelled (h : c.phase = .ending .cancelled) : c.cancel = c := by
  cases c
  simp_all [Command.cancel]

/-- A queue that is disabled with one accepted command: it fetches no more, and the command is to end as cancelled (R30). -/
def Queue.disabledWith (x : Queue) (c : Command) : Queue :=
  { x with en := false, stale := none, parked := false, head := x.nextSeq, fetched := none, cmds := [c.cancel] }

/-- The machine with a queue disabled and the commands cancelled that can no longer run, before any of them completes (R30). -/
def State.disabled (s : State) (ctx q : Nat) : State :=
  (s.updQueue ctx q (fun y =>
    { y with
      en := false, stale := none, parked := false, head := y.nextSeq, fetched := none
      cmds := y.cmds.map (fun c => if c.phase = .accepted then c.cancel else c) })).updCtx ctx
    (fun d => d.mapCmds (fun c => if c.namesAhead q (s.queueAt ctx q).nextSeq then c.cancel else c))

theorem State.disabled_queueAt (hcmds : (s.queueAt ctx q).cmds = [c]) (hphase : c.phase = .accepted) :
    (s.disabled ctx q).queueAt ctx q = (s.queueAt ctx q).disabledWith c := by
  have hagain : c.cancel.cancel = c.cancel := Command.cancel_cancelled (by rw [Command.cancel_accepted hphase])
  rw [State.disabled, State.queueAt_updCtx_mapCmds, State.queueAt_updQueue]
  simp [Queue.mapCmds, Queue.disabledWith, hcmds, hphase, hagain]

theorem exec_queueDisable (hsafe : s.dev.safe = false) (hq : q < 64) (hen : (s.queueAt ctx q).en = true)
    (hcmds : (s.queueAt ctx q).cmds = [c]) (hphase : c.phase = .accepted) :
    exec (.queueDisable ctx q) s = .next ((s.disabled ctx q).completeCmd ctx q c.seq) := by
  have hacts : (s.dev.safe || decide (64 ≤ q) || !(s.queueAt ctx q).en) = false := by simp [hsafe, hen, hq]
  have hgone : (s.queueAt ctx q).cmds.filter (fun d => d.phase == .accepted) = [c] := by simp [hcmds, hphase]
  change execQueueDisable ctx q s = _
  simp only [execQueueDisable, hacts, hgone]
  rfl

/-- Disabling a queue completes the accepted command that waits in it as cancelled (R30). -/
theorem State.disabled_completeCmd (hcmds : (s.queueAt ctx q).cmds = [c]) (hphase : c.phase = .accepted)
    (hdone : c.hostDone = false) (hplaced : c.wasPlaced = false) (hfin : Spec.Finished s ctx q c) :
    ((s.disabled ctx q).completeCmd ctx q c.seq).queueAt ctx q = ((s.queueAt ctx q).disabledWith c).afterEnd c.seq .cancelled := by
  have hq := State.disabled_queueAt hcmds hphase
  have hcancel := Command.cancel_accepted hphase
  have hseq : c.cancel.seq = c.seq := by rw [hcancel]
  have hfin' : Spec.Finished (s.disabled ctx q) ctx q c.cancel := by
    obtain ⟨htasks, hdrained, -, hirq, hsaved⟩ := hfin
    rw [hcancel]
    exact ⟨htasks, hdrained, rfl, hirq, hsaved⟩
  obtain ⟨hqueue, -⟩ := State.completeCmd_alone (s := s.disabled ctx q) (c := c.cancel) (st := .cancelled) (by rw [hq]; rfl) (by rw [hcancel])
    hfin' (.inl (by rw [hcancel]; exact hplaced)) (by simp [RecordLands, hcancel, hdone])
  rw [hseq, hq] at hqueue
  exact hqueue

theorem Queue.headCmd_alone {x : Queue} (hcmds : x.cmds = [c]) (hphase : c.phase = .accepted) : x.headCmd = some c := by
  simp [Queue.headCmd, hcmds, hphase]

/-- A MARKER without producers at the head of its queue (R32). -/
theorem exec_marker (hcmds : (s.queueAt ctx q).cmds = [c]) (hen : (s.queueAt ctx q).en = true) (hfrozen : (s.queueAt ctx q).frozen = false)
    (hop : c.op = .marker) (hphase : c.phase = .accepted) (hcount : c.count = 0) (hprods : c.prods = []) (hparked : c.parked = false) :
    exec (.marker ctx q) s = .next ((s.updCmd ctx q c.seq (fun y => { y with phase := .ending .ok })).completeCmd ctx q c.seq) := by
  have hready : s.cmdReady ctx q c = true := by
    simp [State.cmdReady, State.prodsOk, State.producers, hen, hfrozen, hcount, hprods, hparked]
  change execMarker ctx q s = _
  simp [execMarker, Queue.headCmd_alone hcmds hphase, hop, hready]

theorem State.marker_completeCmd (hcmds : (s.queueAt ctx q).cmds = [c]) (hkernel : c.kernel = none) (hdone : c.hostDone = false)
    (hfin : Spec.Finished s ctx q c) :
    ((s.updCmd ctx q c.seq (fun y => { y with phase := .ending .ok })).completeCmd ctx q c.seq).queueAt ctx q
      = (s.queueAt ctx q).afterEnd c.seq .ok := by
  have hq : (s.updCmd ctx q c.seq (fun y => { y with phase := .ending .ok })).queueAt ctx q
      = { s.queueAt ctx q with cmds := [{ c with phase := .ending .ok }] } := by
    rw [State.queueAt_updCmd]
    simp [Queue.mapCmds, hcmds]
  obtain ⟨hqueue, -⟩ := State.completeCmd_alone (s := s.updCmd ctx q c.seq (fun y => { y with phase := .ending .ok }))
    (c := { c with phase := .ending .ok }) (st := .ok) (by rw [hq]) rfl hfin (.inr (by simp [hkernel])) (by simp [RecordLands, hdone])
  rw [hq, Queue.afterEnd_withCmds] at hqueue
  exact hqueue

end

theorem Command.record_error {c : Command} {cause lid : Nat} (hfirst : c.first = some (cause, lid)) (cycle : Word) :
    c.record .error cycle = natBytes c.seq.toNat 4 ++ natBytes 1 1 ++ natBytes cause 1 ++ natBytes lid 2 ++ natBytes cycle.toNat 8 := by
  simp [Command.record, hfirst, CmdStatus.code]

end Sys2Proof.Machine

namespace Sys2Proof.Proofs

open Sys2Proof.Machine Sys2Proof.Safety

/-- Settles O49: each event's next state, and the queue that a command leaves when it is alone in it (`State.completeCmd_alone`).
That an acknowledgement acts while EN is 0 is the model's choice (log entry 84), and so is that a disable moves the head back over a fetched slot. -/
theorem queueEventsComplete : Obligations.QueueEventsComplete := by
  unfold Obligations.QueueEventsComplete
  intro s ctx q x hx hlo hhi hq hsafe
  subst hx
  refine ⟨?enable, ?disable, ?ack, ?seed, ?marker, ?failed⟩
  case enable =>
    intro hen hcmds
    refine ⟨_, exec_queueEnable hsafe hlo hhi hq hen hcmds, ?_⟩
    rw [State.queueAt_updQueue, State.renameProds_queueAt hcmds, Queue.restart, ← hcmds]
  case disable =>
    intro hen c hcmds hphase hdone hplaced hfin
    refine ⟨_, exec_queueDisable hsafe hq hen hcmds hphase, ?_⟩
    rw [State.disabled_completeCmd hcmds hphase hdone hplaced hfin, Queue.afterEnd, Queue.freeze_eq_self (.inr rfl)]
    rfl
  case ack =>
    refine fun hfrozen => ⟨fun herrs => ⟨_, exec_queueAck hfrozen, ?_⟩, fun sq e rest herrs => ⟨_, exec_queueAck hfrozen, ?_⟩⟩
    · rw [State.queueAt_updQueue, Queue.ack, herrs]
    · rw [State.queueAt_updQueue, Queue.ack, herrs]
  case seed =>
    exact fun v => ⟨_, exec_seedWrite hlo hhi v, State.ctxAt_updCtx _ _ (fun c => { c with seed := v }) (fun _ => rfl), rfl, rfl⟩
  case marker =>
    intro c hcmds hen hfrozen hop hphase hcount hprods hkernel hdone hfin
    have ⟨_, _, hparked, _, _⟩ := hfin
    refine ⟨_, exec_marker hcmds hen hfrozen hop hphase hcount hprods hparked, ?_⟩
    rw [State.marker_completeCmd hcmds hkernel hdone hfin, Queue.afterEnd, Queue.freeze_eq_self (.inl rfl)]
  case failed =>
    intro c cause lid hcmds hen hfrozen hphase hfirst hfin htensors hrec
    obtain ⟨hqueue, hplain, hmem⟩ := State.completeCmd_alone hcmds hphase hfin (.inr htensors) hrec
    refine ⟨s.completeCmd ctx q c.seq, rfl, ?_, hplain, ?_⟩
    · rw [hqueue, Queue.afterEnd, Queue.freeze_error hen hfrozen]
    · intro hd cs p hcs hp
      rw [hp, ← Command.record_error hfirst]
      exact hmem hd cs hcs

end Sys2Proof.Proofs
end

section
/-! Command slots: how they are read at the head of a queue and accepted (spec/02_describing_and_launching.md R24 to R28, R31, R365). -/

namespace Sys2Proof.Machine

/-! ### The fields of a slot (R25) -/

theorem slotField_eq_bitField (bs : List Byte) (k lo n : Nat) : Spec.slotField bs k lo n = bitField (wordAt bs k) lo n := rfl

/-- The slot bears the running number of the head. -/
theorem slotOf_seq_eq_iff (bs : List Byte) (n : BitVec 32) : (slotOf bs).seq = n ↔ Spec.slotField bs 0 0 32 = n.toNat := by
  rw [← BitVec.toNat_inj]
  simp [slotOf, slotField_eq_bitField, bitField]

theorem bitField_bit (w lo n i : Nat) (h : i < n) : bitField w lo n / 2 ^ i % 2 = bitField w (lo + i) 1 := by
  have hsplit : 2 ^ n = 2 ^ i * 2 ^ (n - i) := by rw [← Nat.pow_add, Nat.add_sub_cancel' h.le]
  have hdvd : 2 ∣ 2 ^ (n - i) := dvd_pow_self 2 (by omega)
  rw [bitField, bitField, hsplit, Nat.mod_mul_right_div_self, Nat.mod_mod_of_dvd _ hdvd, Nat.div_div_eq_div_mul, ← Nat.pow_add, pow_one]

theorem slotOf_flag (bs : List Byte) (i : Nat) (h : i < 8) : (slotOf bs).flags / 2 ^ i % 2 = Spec.slotField bs 0 (40 + i) 1 :=
  bitField_bit _ 40 8 i h

theorem slotOf_named_of_nprod {bs : List Byte} (h : Spec.slotField bs 0 56 3 = 0) : (slotOf bs).named = [] := by
  have h0 : (slotOf bs).nprod = 0 := h
  rw [Slot.named, h0, List.take_zero, List.map_nil]

theorem opOf_eq (n : Nat) (hlo : 1 ≤ n) (hhi : n ≤ 3) : opOf n = if n = 1 then .launch else if n = 2 then .front else .marker := by
  interval_cases n <;> rfl

/-- A command as the slot's bytes give it (R25): one that names no producer and is neither a NOP nor a bad one. -/
structure Command.FromSlot (c : Command) (bs : List Byte) : Prop where
  early : c.early = decide (Spec.slotField bs 0 40 1 = 1)
  hostDone : c.hostDone = decide (Spec.slotField bs 0 41 1 = 1)
  irq : c.irq = decide (Spec.slotField bs 0 42 1 = 1)
  preempt : c.preempt = decide (Spec.slotField bs 0 43 1 = 1)
  count : c.count = Spec.slotField bs 0 48 8
  args : c.args.toNat = Spec.slotField bs 2 0 64
  doneRec : c.doneRec.toNat = Spec.slotField bs 3 0 64

theorem Slot.command_fromSlot (bs : List Byte) (c : Context) (w : Work0) (set : List Nat) (phase : CmdPhase) (clock : Nat) :
    ((slotOf bs).command c w set phase clock).FromSlot bs where
  early := congrArg (· == 1) (by simpa using slotOf_flag bs 0 (by omega))
  hostDone := congrArg (· == 1) (by simpa using slotOf_flag bs 1 (by omega))
  irq := congrArg (· == 1) (by simpa using slotOf_flag bs 2 (by omega))
  preempt := congrArg (· == 1) (by simpa using slotOf_flag bs 3 (by omega))
  count := rfl
  args := by simp [Slot.command, slotOf, slotField_eq_bitField, bitField]
  doneRec := by simp [Slot.command, slotOf, slotField_eq_bitField, bitField]

/-! ### Notify values (R26, R28) -/

/-- The read-ordering mark of a notify write is counted (R28). -/
def State.countRelaxed (s : State) (relaxed : Bool) : State :=
  if relaxed then { s with dev := { s.dev with roCount := s.dev.roCount + 1 } } else s

theorem State.countRelaxed_contexts (s : State) (relaxed : Bool) : (s.countRelaxed relaxed).contexts = s.contexts := by cases relaxed <;> rfl

theorem State.countRelaxed_roCount (s : State) (relaxed : Bool) :
    (s.countRelaxed relaxed).dev.roCount = s.dev.roCount + (if relaxed then 1 else 0) := by
  cases relaxed
  · exact (BitVec.add_zero _).symm
  · rfl

section
variable {s : State} {ctx q : Nat}

theorem exec_notifyWrite (v : BitVec 32) (relaxed : Bool) :
    exec (.notifyWrite ctx q v relaxed) s =
      if !((s.countRelaxed relaxed).ctxAt ctx).en || !((s.countRelaxed relaxed).queueAt ctx q).live
          || decide (sdiff v ((s.countRelaxed relaxed).queueAt ctx q).notify ≤ 0) then .next (s.countRelaxed relaxed)
      else if (2 ^ ((s.countRelaxed relaxed).queueAt ctx q).log2 : Int) ≤ sdiff v ((s.countRelaxed relaxed).queueAt ctx q).head
        then .next ((s.countRelaxed relaxed).updQueue ctx q (fun x => { x with qerr := true, err := 2 }))
      else .next ((s.countRelaxed relaxed).updQueue ctx q (fun x => { x with notify := v })) := rfl

/-- A newer notify value acts on the queue alone, by its distance from the head (R26). -/
theorem exec_notifyWrite_newer (hctx : (s.ctxAt ctx).en = true) (hlive : (s.queueAt ctx q).live = true) (v : BitVec 32) (relaxed : Bool)
    (hnew : 0 < sdiff v (s.queueAt ctx q).notify) :
    ∃ t, exec (.notifyWrite ctx q v relaxed) s = .next t ∧ t.dev.roCount = s.dev.roCount + (if relaxed then 1 else 0)
      ∧ (sdiff v (s.queueAt ctx q).head < 2 ^ (s.queueAt ctx q).log2 → t.queueAt ctx q = { s.queueAt ctx q with notify := v })
      ∧ (2 ^ (s.queueAt ctx q).log2 ≤ sdiff v (s.queueAt ctx q).head → t.queueAt ctx q = { s.queueAt ctx q with qerr := true, err := 2 }) := by
  have hcontexts := s.countRelaxed_contexts relaxed
  have hqueue : (s.countRelaxed relaxed).queueAt ctx q = s.queueAt ctx q := State.queueAt_congr hcontexts ctx q
  rw [exec_notifyWrite, State.ctxAt_congr hcontexts ctx, hqueue, if_neg (by simp [hctx, hlive, hnew])]
  split
  · next hring =>
    refine ⟨_, rfl, s.countRelaxed_roCount relaxed, fun h => absurd h (not_lt.mpr hring), fun _ => ?_⟩
    rw [State.queueAt_updQueue, hqueue]
  · next hring =>
    refine ⟨_, rfl, s.countRelaxed_roCount relaxed, fun _ => ?_, fun h => absurd h hring⟩
    rw [State.queueAt_updQueue, hqueue]

/-! ### Reads of the slot at the head (R24, R26, R27, R348) -/

/-- With both host ports down no slot is due (R348). -/
theorem State.slotDue_of_portsDown (h : s.dev.hostPorts = 0) : s.slotDue ctx q = false := by
  simp [State.slotDue, State.hostUp, h]

theorem State.slotDue_of_notified (hready : s.dev.ready = true) (hports : s.dev.hostPorts ≠ 0) (hctx : (s.ctxAt ctx).en = true)
    (hlive : (s.queueAt ctx q).live = true) (hparked : (s.queueAt ctx q).parked = false)
    (hnotify : 0 ≤ sdiff (s.queueAt ctx q).notify (s.queueAt ctx q).head) : s.slotDue ctx q = true := by
  have hup : s.hostUp = true := bne_iff_ne.mpr hports
  simp [State.slotDue, hup, hready, hctx, hlive, hparked, hnotify]

theorem Queue.staleRead_first {x : Queue} (h : x.stale = none) : x.staleRead = { x with stale := some 0 } := by
  rw [Queue.staleRead, h]

/-- A slot that is still stale is read again, up to 8 times (R27). -/
theorem Queue.staleRead_again {x : Queue} {n : Nat} (h : x.stale = some n) :
    x.staleRead = if n + 1 < 8 then { x with stale := some (n + 1) } else { x with qerr := true, err := 1, stale := none } := by
  rw [Queue.staleRead, h]
  simp only [← not_lt, ite_not]

theorem State.ctxAt_updQueue (s : State) (ctx q : Nat) (f : Queue → Queue) : (s.updQueue ctx q f).ctxAt ctx
    = { s.ctxAt ctx with queues := putQueue q (f (s.queueAt ctx q)) (s.ctxAt ctx).queues } :=
  State.ctxAt_updCtx _ _ _ (fun _ => rfl)

/-- The event that reads the slot of a queue: SLOT_READ, or STALE_SLOT_REREAD once a stale one has been read (R27). -/
def ReadsSlot (x : Queue) (ctx q : Nat) (e : Instr) : Prop :=
  (e = .slotRead ctx q ∧ x.stale = none) ∨ (e = .staleSlotReread ctx q ∧ x.stale.isSome = true)

theorem exec_of_readsSlot {e : Instr} (he : ReadsSlot (s.queueAt ctx q) ctx q e) (hdue : s.slotDue ctx q = true) :
    exec e s = .next (s.readSlot ctx q) := by
  rcases he with ⟨rfl, hstale⟩ | ⟨rfl, hstale⟩
  · exact if_pos (by simp [hdue, hstale])
  · exact if_pos (by simp [hdue, hstale])

theorem exec_slotRead_notDue (hdue : s.slotDue ctx q = false) :
    exec (.slotRead ctx q) s = .next s ∧ exec (.staleSlotReread ctx q) s = .next s :=
  ⟨if_neg (by simp [hdue]), if_neg (by simp [hdue])⟩

section
variable {bs : List Byte} {s1 : State} (hfetched : (s.queueAt ctx q).fetched = none)
  (hread : s.feRead ctx (s.queueAt ctx q).headAddr 64 = (.ok bs, s1))
include hfetched hread

theorem State.readSlot_current (hseq : (slotOf bs).seq = (s.queueAt ctx q).head) :
    s.readSlot ctx q = (s1.updQueue ctx q (fun y => y.take bs)).acceptFetched ctx q bs := by
  simp only [State.readSlot, hfetched, hread, hseq, if_true]

theorem State.readSlot_stale (hseq : (slotOf bs).seq ≠ (s.queueAt ctx q).head) : s.readSlot ctx q = s1.updQueue ctx q Queue.staleRead := by
  simp only [State.readSlot, hfetched, hread, hseq, if_false]

end

/-! ### Acceptance (R31, R35, R365) -/

/-- The command of a slot that has been accepted and waits for its placement (R31). -/
def State.acceptedCmd (s : State) (ctx : Nat) (bs : List Byte) (w : Work0) : Command :=
  (slotOf bs).command (s.ctxAt ctx) w [] .accepted s.dev.clock

theorem State.enterCmd_queueAt (s : State) (ctx q : Nat) (c : Command) :
    (s.enterCmd ctx q c).queueAt ctx q = { s.queueAt ctx q with fetched := none, cmds := (s.queueAt ctx q).cmds ++ [c] } :=
  State.queueAt_updQueue s ctx q (fun y => { y with fetched := none, cmds := y.cmds ++ [c] })

theorem State.completeCmd_of_cmdAt_none {seq : BitVec 32} (h : s.cmdAt ctx q seq = none) : s.completeCmd ctx q seq = s := by
  simp only [State.completeCmd, h]

theorem State.completeCmd_of_accepted {seq : BitVec 32} {c : Command} (h : s.cmdAt ctx q seq = some c) (hphase : c.phase = .accepted) :
    s.completeCmd ctx q seq = s := by
  simp only [State.completeCmd, h, hphase]

section
variable {bs : List Byte} {s0 : State} (hheld : Spec.NoLineHeld s) (hok : (slotOf bs).ok q = true)
  (hnew : ∀ c ∈ (s.queueAt ctx q).cmds, c.seq ≠ (slotOf bs).seq)
include hheld hok hnew

/-- A read of the descriptor meets a missing page: the slot stays fetched, and the queue waits for a replay-all (R365). -/
theorem State.acceptFetched_fault {l b : Nat} {va : Word} (hrun : feRun (readAll ctx (slotOf bs)) s = (.error (.fault l b va), s0)) :
    (s.acceptFetched ctx q bs).queueAt ctx q = { s.queueAt ctx q with parked := true } := by
  have hfault : ((s0.feFault ctx l b va).updQueue ctx q (fun y => { y with parked := true })).queueAt ctx q
      = { s.queueAt ctx q with parked := true } := by
    have hkeeps := ((ReadsOnly.readAll ctx (slotOf bs)).onlyDevice hheld hrun).trans (s0.feFault_onlyDevice ctx l b va)
    rw [State.queueAt_updQueue, State.queueAt_congr hkeeps.contexts]
  have haccept : s.acceptSlot ctx q (slotOf bs) = (s0.feFault ctx l b va).updQueue ctx q (fun y => { y with parked := true }) := by
    simp [State.acceptSlot, hok, hrun]
  rw [State.acceptFetched, haccept, State.completeCmd_of_cmdAt_none, hfault]
  simpa [State.cmdAt, hfault] using hnew

/-- The descriptor reads well: the command enters its queue as accepted (R31). -/
theorem State.acceptFetched_ok {w : Work0} (hrun : feRun (readAll ctx (slotOf bs)) s = (.ok (w, none), s0))
    (hnamed : (slotOf bs).named = []) (hop : opOf (slotOf bs).op ≠ .nop) :
    (s.acceptFetched ctx q bs).queueAt ctx q
      = { s.queueAt ctx q with fetched := none, cmds := (s.queueAt ctx q).cmds ++ [s.acceptedCmd ctx bs w] } := by
  have hphase : s0.firstPhase ctx (s.acceptedCmd ctx bs w) = .accepted := by
    simp [State.firstPhase, State.producers, State.acceptedCmd, Slot.command, hnamed, hop]
  have haccept : s.acceptSlot ctx q (slotOf bs) = s0.enterCmd ctx q (s.acceptedCmd ctx bs w) := by
    have hphased : s.acceptSlot ctx q (slotOf bs)
        = s0.enterCmd ctx q { s.acceptedCmd ctx bs w with phase := s0.firstPhase ctx (s.acceptedCmd ctx bs w) } := by
      simp only [State.acceptSlot, hok, hrun]
      rfl
    rw [hphased, hphase]
    rfl
  have henter : (s0.enterCmd ctx q (s.acceptedCmd ctx bs w)).queueAt ctx q
      = { s.queueAt ctx q with fetched := none, cmds := (s.queueAt ctx q).cmds ++ [s.acceptedCmd ctx bs w] } := by
    rw [State.enterCmd_queueAt, State.queueAt_congr ((ReadsOnly.readAll ctx (slotOf bs)).onlyDevice hheld hrun).contexts]
  have hfind : (s0.enterCmd ctx q (s.acceptedCmd ctx bs w)).cmdAt ctx q (slotOf bs).seq = some (s.acceptedCmd ctx bs w) := by
    rw [State.cmdAt, henter, List.find?_append, List.find?_eq_none.mpr (by simpa using hnew)]
    simp [State.acceptedCmd, Slot.command]
  rw [State.acceptFetched, haccept, State.completeCmd_of_accepted hfind rfl, henter]

end

end

end Sys2Proof.Machine

namespace Sys2Proof.Proofs

open Sys2Proof.Machine Sys2Proof.Safety

/-- Settles O48: what a notify value does (`exec_notifyWrite_newer`), and what becomes of the slot at the head: stale (`State.readSlot_stale`), its
descriptor parked (`State.acceptFetched_fault`) or accepted (`State.acceptFetched_ok`). -/
theorem commandSlotsAreRead : Obligations.CommandSlotsAreRead := by
  unfold Obligations.CommandSlotsAreRead
  intro s ctx q x hx hctx hen hqerr
  subst hx
  have hlive : (s.queueAt ctx q).live = true := by simp [Queue.live, hen, hqerr]
  refine ⟨fun v relaxed hnew => exec_notifyWrite_newer hctx hlive v relaxed hnew,
    fun hports => exec_slotRead_notDue (State.slotDue_of_portsDown hports), ?_⟩
  intro bs s1 hready hports hparked hfetched hnotify hheld hread
  have hdue := State.slotDue_of_notified hready hports hctx hlive hparked hnotify
  have hdev1 := State.onlyDevice_of_feRead hheld hread
  refine ⟨fun hseq => ?stale, ?current⟩
  case stale =>
    rw [Ne, ← slotOf_seq_eq_iff] at hseq
    have hslot : (s.readSlot ctx q).queueAt ctx q = (s.queueAt ctx q).staleRead := by
      rw [State.readSlot_stale hfetched hread hseq, State.queueAt_updQueue, State.queueAt_congr hdev1.contexts]
    refine ⟨fun hstale => ⟨_, exec_of_readsSlot (.inl ⟨rfl, hstale⟩) hdue, ?_⟩,
      fun n hstale => ⟨_, exec_of_readsSlot (.inr ⟨rfl, by simp [hstale]⟩) hdue, ?_⟩⟩
    · rw [hslot, Queue.staleRead_first hstale]
    · rw [hslot, Queue.staleRead_again hstale]
  case current =>
    intro op nprod w r s2 hseq hop hlo hhi hok hrun hnew hnprod hzero e he
    subst hop hnprod
    have hseq' := (slotOf_seq_eq_iff bs _).mpr hseq
    have hstep := exec_of_readsSlot he hdue
    rw [State.readSlot_current hfetched hread hseq'] at hstep
    have htaken : (s1.updQueue ctx q (fun y => y.take bs)).queueAt ctx q = (s.queueAt ctx q).take bs := by
      rw [State.queueAt_updQueue, State.queueAt_congr hdev1.contexts]
    have hseed : ((s1.updQueue ctx q (fun y => y.take bs)).ctxAt ctx).seed = (s.ctxAt ctx).seed := by
      rw [State.ctxAt_updQueue, State.ctxAt_congr hdev1.contexts]
    have hheld' : Spec.NoLineHeld (s1.updQueue ctx q (fun y => y.take bs)) := hdev1.noLineHeld hheld
    generalize s1.updQueue ctx q (fun y => y.take bs) = s' at hrun hstep htaken hseed hheld'
    have hnew' : ∀ c ∈ (s'.queueAt ctx q).cmds, c.seq ≠ (slotOf bs).seq := by
      rw [htaken, hseq']
      exact hnew
    refine ⟨fun l b va hr => ⟨_, hstep, ?_⟩, fun hr => ⟨_, s'.acceptedCmd ctx bs w, hstep, ?_⟩⟩
    · rw [State.acceptFetched_fault hheld' hok hnew' (hr ▸ hrun), htaken]
      rfl
    · have hnamed := slotOf_named_of_nprod hzero
      have hop := opOf_eq (slotOf bs).op hlo hhi
      have hfields : (s'.acceptedCmd ctx bs w).FromSlot bs := Slot.command_fromSlot bs _ _ _ _ _
      refine ⟨?_, hseq', rfl, hop, hfields.early, hfields.hostDone, hfields.irq, hfields.preempt, hfields.count, hfields.args, hfields.doneRec,
        hnamed, hseed, rfl, rfl, rfl⟩
      rw [State.acceptFetched_ok hheld' hok hnew' (hr ▸ hrun) hnamed (by rw [hop]; split_ifs <;> decide), htaken, Queue.take, ← hfetched]

end Sys2Proof.Proofs
end

section
/-! The placement of teams and fronts: cores that start a task, and what a placement leaves in its command
(spec/02_describing_and_launching.md R32, spec/03_placement.md R41 to R46, spec/04_time_levels.md R61). -/

namespace Sys2Proof.Machine

/-! ### Cores read what was last put there -/

@[simp] theorem State.coreAt_pid (s : State) (pid : Nat) : (s.coreAt pid).pid = pid := by
  unfold State.coreAt
  split
  · assumption
  · cases h : s.cores.find? (fun k => k.pid == pid) with
    | none => rfl
    | some k => simpa using List.find?_some h

theorem find?_putCore (k : Core) (ks : List Core) : (putCore k ks).find? (fun x => x.pid == k.pid) = some k := by
  induction ks with
  | nil => simp [putCore]
  | cons x rest ih =>
    simp only [putCore]
    split
    · simp
    · split
      · simp
      · next hne => simp [Ne.symm hne, ih]

theorem find?_putCore_of_ne (k : Core) (ks : List Core) {pid : Nat} (h : k.pid ≠ pid) :
    (putCore k ks).find? (fun x => x.pid == pid) = ks.find? (fun x => x.pid == pid) := by
  induction ks with
  | nil => simp [putCore, h]
  | cons x rest ih =>
    simp only [putCore]
    split
    · simp [h]
    · split
      · next heq => simp [h, ← heq]
      · simp [List.find?_cons, ih]

theorem State.coreAt_setCore (s : State) (k : Core) : (s.setCore k).coreAt k.pid = k := by
  unfold State.setCore
  split
  · exact if_pos rfl
  · next hne => rw [State.coreAt, if_neg hne, find?_putCore, Option.getD_some]

theorem State.coreAt_setCore_of_ne (s : State) (k : Core) {pid : Nat} (h : k.pid ≠ pid) : (s.setCore k).coreAt pid = s.coreAt pid := by
  unfold State.setCore
  split
  · next heq => rw [State.coreAt, State.coreAt, if_neg h, if_neg (heq ▸ h)]
  · simp only [State.coreAt, find?_putCore_of_ne k s.cores h]

theorem State.coreAt_updCore (s : State) (pid : Nat) (f : Core → Core) (hf : ∀ k, (f k).pid = k.pid) :
    (s.updCore pid f).coreAt pid = f (s.coreAt pid) := by
  have h := s.coreAt_setCore (f (s.coreAt pid))
  rwa [hf, State.coreAt_pid] at h

theorem State.coreAt_updCore_of_ne (s : State) {pid p : Nat} (f : Core → Core) (hf : ∀ k, (f k).pid = k.pid) (h : p ≠ pid) :
    (s.updCore pid f).coreAt p = s.coreAt p :=
  s.coreAt_setCore_of_ne _ (by rw [hf, State.coreAt_pid]; exact h.symm)

theorem State.coreAt_congr {s t : State} (hcore : t.core = s.core) (hcores : t.cores = s.cores) (pid : Nat) : t.coreAt pid = s.coreAt pid := by
  rw [State.coreAt, State.coreAt, hcore, hcores]

/-! ### A task starts (R32, R41) -/

theorem entryStream_startsAt (pc v : Word) : Spec.StartsAt (entryStream pc [(1, v)]) pc [(1, v)] := by
  have hentry : entryStream pc [(1, v)] = ({ Stream.init with pc := pc }).setG 1 v := rfl
  rw [hentry]
  refine ⟨by simp, by simp [Stream.init], by simp [Stream.init], by simp [Stream.init], by simp [Stream.init], ?_, fun n hn hne => ?_⟩
  · simpa using Stream.getG_setG _ 1 v (by omega) (by omega)
  · have h1 : 1 ≠ n := hne (1, v) (List.mem_singleton.mpr rfl)
    rw [Stream.getG_setG_of_ne _ 1 n v h1]
    simp [Stream.getG, Stream.init, hn]

theorem Core.begin_startsClear (k : Core) (x : Start) : Spec.StartsClear (k.begin x) := by
  refine ⟨rfl, fun n hn => ?_, fun n hn => ?_, fun q => ?_⟩
  · simp [Core.getF, Core.begin, hn]
  · simp [Core.getV, Core.begin, hn]
  · by_cases hq : q < 8 <;> simp [Core.getQueue, Core.begin, hq]

/-- What a placement leaves everywhere but in the cores on which it starts tasks. -/
structure StartsOnly (s t : State) (pids : List Nat) : Prop where
  contexts : t.contexts = s.contexts
  pool : t.pool = s.pool
  host : t.host = s.host
  others : ∀ p, p ∉ pids → t.coreAt p = s.coreAt p

theorem StartsOnly.trans {s t u : State} {ps qs : List Nat} (h : StartsOnly s t ps) (h' : StartsOnly t u qs) : StartsOnly s u (ps ++ qs) where
  contexts := h'.contexts.trans h.contexts
  pool := h'.pool.trans h.pool
  host := h'.host.trans h.host
  others p hp := by
    obtain ⟨hps, hqs⟩ := not_or.mp (List.mem_append.not.mp hp)
    exact (h'.others p hqs).trans (h.others p hps)

theorem StartsOnly.mono {s t : State} {ps qs : List Nat} (h : StartsOnly s t ps) (hsub : ps ⊆ qs) : StartsOnly s t qs :=
  { h with others := fun p hp => h.others p fun hmem => hp (hsub hmem) }

theorem State.updCore_startsOnly (s : State) (pid : Nat) (f : Core → Core) (hf : ∀ k, (f k).pid = k.pid) :
    StartsOnly s (s.updCore pid f) [pid] where
  contexts := by simp
  pool := by simp
  host := by simp
  others p hp := s.coreAt_updCore_of_ne f hf (List.ne_of_not_mem_cons hp)

theorem State.cleanUnits_startsOnly (s : State) (gone : PoisonUnit → Bool) : StartsOnly s (s.cleanUnits gone) [] := by
  unfold State.cleanUnits
  split
  · exact ⟨rfl, rfl, rfl, fun _ _ => rfl⟩
  · exact ⟨rfl, rfl, rfl, fun _ _ => State.coreAt_congr rfl rfl _⟩

/-- With no tile to prepare and no region to fill, a task starts without an access to memory (R18, R234). -/
theorem State.startTask_plain (s : State) (pid : Nat) (x : Start) (h : Spec.Plain x.task.kernel) :
    ∃ t, s.startTask pid x = .ok t ∧ StartsOnly s t [pid] ∧ t.coreAt pid = (s.coreAt pid).begin x := by
  obtain ⟨-, hnm, hsp⟩ := h
  have htiles : s.makeTiles pid x.task.kernel.nm x.task.ctx = .ok (s.updCore pid (fun k => k)) := by
    rw [hnm]
    rfl
  have hprep := s.updCore_startsOnly pid (fun k => k) (fun _ => rfl)
  have hbegin := (s.updCore pid (fun k => k)).updCore_startsOnly pid (fun k => k.begin x) (fun _ => rfl)
  have hclean := ((s.updCore pid (fun k => k)).updCore pid (fun k => k.begin x)).cleanUnits_startsOnly
    (startClears pid x.task.kernel.nm (((s.updCore pid (fun k => k)).coreAt pid).lastCtx != x.task.ctx))
  refine ⟨_, ?_, ((hprep.trans hbegin).trans hclean).mono (by simp), ?_⟩
  · rw [State.startTask, htiles]
    simp only [hsp, State.initRegions]
  · rw [hclean.others pid List.not_mem_nil, State.coreAt_updCore _ pid (fun k => k.begin x) (fun _ => rfl),
      State.coreAt_updCore s pid (fun k => k) (fun _ => rfl)]

/-- Tasks that start on different cores each find their own core as `Core.begin` leaves it. -/
theorem State.startAll_plain (s : State) (xs : List (Nat × Start)) (hplain : ∀ y ∈ xs, Spec.Plain y.2.task.kernel)
    (hpids : (xs.map (·.1)).Nodup) :
    ∃ t, s.startAll xs = .ok t ∧ StartsOnly s t (xs.map (·.1)) ∧ ∀ y ∈ xs, t.coreAt y.1 = (s.coreAt y.1).begin y.2 := by
  induction xs generalizing s with
  | nil => exact ⟨s, rfl, ⟨rfl, rfl, rfl, fun _ _ => rfl⟩, by simp⟩
  | cons y ys ih =>
    obtain ⟨hnot, hys⟩ := List.nodup_cons.mp hpids
    obtain ⟨s1, hstart, honly, hcore⟩ := s.startTask_plain y.1 y.2 (hplain y List.mem_cons_self)
    obtain ⟨t, hall, honly', hcores⟩ := ih s1 (fun z hz => hplain z (List.mem_cons_of_mem y hz)) hys
    refine ⟨t, by rw [State.startAll, hstart]; exact hall, honly.trans honly', fun z hz => ?_⟩
    rcases List.mem_cons.mp hz with rfl | hz
    · rw [honly'.others z.1 hnot, hcore]
    · have hne : z.1 ≠ y.1 := by
        intro heq
        exact hnot (List.mem_map.mpr ⟨z, hz, heq⟩)
      rw [hcores z hz, honly.others z.1 (by simpa using hne)]

/-! ### What a placement leaves in the command (R43, R45) -/

section
variable {s t : State} {ctx q : Nat} {seq : BitVec 32}

/-- Commands that keep their numbers are found where they were. -/
theorem State.cmdAt_of_mapCmds {f : Command → Command} (h : t.queueAt ctx q = (s.queueAt ctx q).mapCmds f) (hf : ∀ c, (f c).seq = c.seq) :
    t.cmdAt ctx q seq = (s.cmdAt ctx q seq).map f := by
  have hmap : t.cmdAt ctx q seq = ((s.queueAt ctx q).cmds.map f).find? (fun c => c.seq == seq) := by
    rw [State.cmdAt, h]
    rfl
  rw [hmap, List.find?_map]
  simp only [Function.comp_def, hf]
  rfl

theorem State.cmdAt_congr (h : t.contexts = s.contexts) : t.cmdAt ctx q seq = s.cmdAt ctx q seq := by
  rw [State.cmdAt, State.cmdAt, State.queueAt_congr h]

theorem State.cmdAt_seq {c : Command} (h : s.cmdAt ctx q seq = some c) : c.seq = seq := by
  simpa using List.find?_some h

theorem State.cmdAt_updCmd {f : Command → Command} (hf : ∀ c, c.seq = seq → (f c).seq = seq) {c : Command} (h : s.cmdAt ctx q seq = some c) :
    (s.updCmd ctx q seq f).cmdAt ctx q seq = some (f c) := by
  have hkeeps : ∀ d : Command, (if d.seq == seq then f d else d).seq = d.seq := by
    intro d
    split
    · next heq => rw [hf d (by simpa using heq), eq_of_beq heq]
    · rfl
  rw [State.cmdAt_of_mapCmds (s.queueAt_updCmd ctx q seq f) hkeeps, h]
  simp [State.cmdAt_seq h]

end

/-- Updates of clusters leave everything else (R343). -/
theorem State.foldl_updCluster_keeps (s : State) (cls : List Nat) (f : Cluster → Cluster) :
    (cls.foldl (fun t c => t.updCluster c f) s).core = s.core ∧ (cls.foldl (fun t c => t.updCluster c f) s).cores = s.cores
      ∧ (cls.foldl (fun t c => t.updCluster c f) s).contexts = s.contexts ∧ (cls.foldl (fun t c => t.updCluster c f) s).pool = s.pool
      ∧ (cls.foldl (fun t c => t.updCluster c f) s).host = s.host := by
  induction cls generalizing s with
  | nil => exact ⟨rfl, rfl, rfl, rfl, rfl⟩
  | cons c cls ih => exact ih (s.updCluster c f)

/-- The end of a placement: the clusters remember their holder, claims on them are void, and the rotation goes on (R33, R343). -/
theorem State.noteHold_placedNow (s : State) (cls : List Nat) (h : HeldBy) (ctx q : Nat) :
    ((s.noteHold cls h).placedNow ctx q).core = s.core ∧ ((s.noteHold cls h).placedNow ctx q).cores = s.cores
      ∧ ((s.noteHold cls h).placedNow ctx q).pool = s.pool ∧ ((s.noteHold cls h).placedNow ctx q).host = s.host
      ∧ ((s.noteHold cls h).placedNow ctx q).contexts = s.contexts.map (fun x => x.mapCmds (fun c => c.voidClaim cls)) := by
  obtain ⟨hcore, hcores, hcontexts, hpool, hhost⟩ := State.foldl_updCluster_keeps
    { s with contexts := s.contexts.map (fun x => x.mapCmds (fun c => c.voidClaim cls)) } cls
    (fun x => { x with history := if x.history.contains (h, 0xFF) then x.history else x.history ++ [(h, 0xFF)] })
  exact ⟨hcore, hcores, hpool, hhost, hcontexts⟩

theorem Command.voidClaim_seq (c : Command) (cls : List Nat) : (c.voidClaim cls).seq = c.seq := by
  unfold Command.voidClaim
  split <;> rfl

theorem Command.voidClaim_of_noClaim {c : Command} (h : c.claim = []) (cls : List Nat) : c.voidClaim cls = c := by
  simp [Command.voidClaim, h]

section
variable {s : State} {ctx q : Nat} {c : Command} {r : Rect} {k : Kernel}

/-- A command that has been placed and claims nothing is kept by the end of the placement. -/
theorem State.cmdAt_noteHold_placedNow {seq : BitVec 32} {c1 : Command} (h : s.cmdAt ctx q seq = some c1) (hclaim : c1.claim = []) (cls : List Nat)
    (by_ : HeldBy) : ((s.noteHold cls by_).placedNow ctx q).cmdAt ctx q seq = some c1 := by
  obtain ⟨-, -, -, -, hcontexts⟩ := s.noteHold_placedNow cls by_ ctx q
  rw [State.cmdAt_of_mapCmds (State.queueAt_of_contexts_map hcontexts ctx q) (fun d => d.voidClaim_seq cls), h, Option.map_some,
    Command.voidClaim_of_noClaim hclaim]

theorem State.offer_of_mayTake (h : Spec.MayTake s ctx q c r) (hphase : c.phase = .accepted) (place : State → Command → State) :
    s.offer ctx q c.op r place = place s c := by
  obtain ⟨hhead, -, hasks, hready, hnever, hqual, hturn⟩ := h
  simp [State.offer, hhead, hphase, hasks, hready, hnever, hqual, hturn]

theorem State.withCounts_plain (hk : k.tensors = []) (go : List (BitVec 64) → State → State) : s.withCounts ctx q c k go = go [] s := by
  rw [State.withCounts, hk]
  rfl

/-- The machine in which the command has taken its rectangle and no task has started yet. -/
def State.taken (s : State) (ctx q : Nat) (c : Command) (r : Rect) : State := s.updCmd ctx q c.seq (fun _ => s.takeRect ctx c r [])

theorem State.taken_cmdAt (h : s.cmdAt ctx q c.seq = some c) : (s.taken ctx q c r).cmdAt ctx q c.seq = some (s.takeRect ctx c r []) :=
  State.cmdAt_updCmd (f := fun _ => s.takeRect ctx c r []) (fun _ _ => rfl) h

/-- The tasks of a team with the cores that they start on (R45, R46). -/
def State.teamStarts (s : State) (ctx q : Nat) (c : Command) (k : Kernel) : List (Nat × Start) :=
  (c.places.zipIdx).map (fun x => (x.1, c.teamStart ctx q k (s.ctxAt ctx).trapVec x.2))

theorem State.placeTeam_plain (hkernel : c.kernel = some k) (hplain : Spec.Plain k) {t : State}
    (hstart : (s.taken ctx q c r).startAll (s.teamStarts ctx q (s.takeRect ctx c r []) k) = .ok t) :
    s.placeTeam ctx q c r = (t.noteHold (s.serving r) ⟨ctx, q, true, c.seq⟩).placedNow ctx q := by
  simp only [State.placeTeam, hkernel, State.withCounts_plain hplain.1]
  change (match (s.taken ctx q c r).startAll (s.teamStarts ctx q (s.takeRect ctx c r []) k) with
    | .ok s1 => _
    | .park report => _
    | .bad => _) = _
  rw [hstart]
  rfl

theorem State.placeFront_plain (hkernel : c.kernel = some k) (hplain : Spec.Plain k) :
    s.placeFront ctx q c r
      = (((s.taken ctx q c r).noteHold (s.serving r) ⟨ctx, q, false, c.seq⟩).placedNow ctx q).frontEnd ctx q c.seq := by
  simp only [State.placeFront, hkernel, State.withCounts_plain hplain.1]
  rfl

/-- LAUNCH of a team whose tasks all start (R43). -/
theorem exec_launch_plain (htake : Spec.MayTake s ctx q c r) (hphase : c.phase = .accepted) (hop : c.op = .launch) (hkernel : c.kernel = some k)
    (hplain : Spec.Plain k) {t : State} (hstart : (s.taken ctx q c r).startAll (s.teamStarts ctx q (s.takeRect ctx c r []) k) = .ok t) :
    exec (.launch ctx q r) s = .next ((t.noteHold (s.serving r) ⟨ctx, q, true, c.seq⟩).placedNow ctx q) := by
  rw [← State.placeTeam_plain hkernel hplain hstart, ← State.offer_of_mayTake htake hphase (fun t c => t.placeTeam ctx q c r), hop]
  rfl

/-- FRONT, whose placement starts no task (R61). -/
theorem exec_front_plain (htake : Spec.MayTake s ctx q c r) (hphase : c.phase = .accepted) (hop : c.op = .front) (hkernel : c.kernel = some k)
    (hplain : Spec.Plain k) :
    exec (.front ctx q r) s
      = .next ((((s.taken ctx q c r).noteHold (s.serving r) ⟨ctx, q, false, c.seq⟩).placedNow ctx q).frontEnd ctx q c.seq) := by
  rw [← State.placeFront_plain hkernel hplain, ← State.offer_of_mayTake htake hphase (fun t c => t.placeFront ctx q c r), hop]
  rfl

end

/-! ### A front with a block left to do (R61, R75) -/

/-- While none of its tasks runs, the end of a front is a change of its command alone, and none for a front that runs and has a block left. -/
theorem State.frontEnd_of_noTask {s : State} {ctx q : Nat} {seq : BitVec 32} (htasks : s.tasksOf ctx q seq = []) :
    ∃ g : Command → Command, s.frontEnd ctx q seq = s.updCmd ctx q seq g ∧ (∀ c, (g c).seq = c.seq)
      ∧ ∀ c f, c.front = some f → f.frozen = false → (∃ b ∈ f.blocks, b.state ≠ .done) → g c = c := by
  have hlive : s.allCores.any (fun k => k.runs ctx q seq) = false := by
    rw [← Bool.not_eq_true, List.any_eq_true]
    rintro ⟨k, hk, hruns⟩
    exact absurd (List.map_eq_nil_iff.mp htasks) (List.ne_nil_of_mem (List.mem_filter.mpr ⟨hk, hruns⟩))
  refine ⟨_, if_neg (by rw [Bool.not_eq_true]; exact hlive), fun c => ?_, fun c f hf hfrozen hblock => ?_⟩
  · repeat' split
    all_goals rfl
  · have hdone : f.blocks.all (fun b => b.state == .done) = false := by simpa using hblock
    simp [hf, hfrozen, hdone]

/-! ### The members of a team (R43, R45) -/

section
variable {s : State} {ctx q : Nat} {c : Command} {r : Rect} {k : Kernel}

/-- The core of each logical id, in the order of R45. -/
theorem State.takeRect_places (hfront : c.front = none) (ws : List (BitVec 64)) :
    (s.takeRect ctx c r ws).places = (List.range c.ntask).map (fun l =>
      ((s.serving r).take ((c.ntask + c.percl - 1) / c.percl)).getD (l / c.percl) 0 * 8 + l % c.percl) := by
  simp [State.takeRect, Command.groups, hfront]

theorem State.teamStarts_fst : (s.teamStarts ctx q c k).map (·.1) = c.places := by
  simp [State.teamStarts, Function.comp_def]

theorem State.mem_teamStarts {pid : Nat → Nat} {n l : Nat} (hplaces : c.places = (List.range n).map pid) (hl : l < n) :
    (pid l, c.teamStart ctx q k (s.ctxAt ctx).trapVec l) ∈ s.teamStarts ctx q c k := by
  have hmem : (pid l, l) ∈ c.places.zipIdx := by
    rw [List.mk_mem_zipIdx_iff_getElem?, hplaces]
    simp [hl]
  exact List.mem_map_of_mem hmem

theorem State.teamStarts_kernel {y : Nat × Start} (h : y ∈ s.teamStarts ctx q c k) : y.2.task.kernel = k := by
  obtain ⟨x, -, rfl⟩ := List.mem_map.mp h
  rfl

end

end Sys2Proof.Machine

namespace Sys2Proof.Proofs

open Sys2Proof.Machine Sys2Proof.Safety

/-- Settles O50: the command as `State.takeRect` leaves it, and the cores of the team as `Core.begin` leaves them.
That a FRONT keeps the records read at its acceptance is the model's choice (log entry 70). -/
theorem placementsComplete : Obligations.PlacementsComplete := by
  unfold Obligations.PlacementsComplete
  intro s ctx q c r k htake hphase hkernel hplain
  have ⟨_, hcmd, _⟩ := htake
  have htaken := State.taken_cmdAt (r := r) hcmd
  refine ⟨fun cls pid hop hfront hlo hhi hcls hpid hinj => ?launch, fun f hop hfront hfrozen hblock htasks => ?front⟩
  case launch =>
    subst hcls hpid
    have hplaces := State.takeRect_places (s := s) (ctx := ctx) (r := r) hfront []
    have hnodup : ((s.teamStarts ctx q (s.takeRect ctx c r []) k).map (·.1)).Nodup := by
      rw [State.teamStarts_fst, hplaces]
      exact List.Nodup.map_on (fun l hl m hm => hinj l m (List.mem_range.mp hl) (List.mem_range.mp hm)) List.nodup_range
    have hkernels : ∀ y ∈ s.teamStarts ctx q (s.takeRect ctx c r []) k, Spec.Plain y.2.task.kernel := fun y hy => by
      rw [State.teamStarts_kernel hy]
      exact hplain
    obtain ⟨t, hstart, honly, hcores⟩ := (s.taken ctx q c r).startAll_plain _ hkernels hnodup
    obtain ⟨hcore, hcores', hpool, hhost, -⟩ := t.noteHold_placedNow (s.serving r) ⟨ctx, q, true, c.seq⟩ ctx q
    refine ⟨_, s.takeRect ctx c r [], exec_launch_plain htake hphase hop hkernel hplain hstart,
      State.cmdAt_noteHold_placedNow ((State.cmdAt_congr honly.contexts).trans htaken) rfl _ _, rfl, rfl, ?clusters, ?teamMap,
      hpool.trans honly.pool, hhost.trans honly.host, fun l hl => ?task⟩
    case clusters => simp [State.takeRect, Command.groups, hfront]
    case teamMap =>
      change (s.takeRect ctx c r []).places.map some = _
      rw [hplaces, List.map_map]
      rfl
    case task =>
      have hbegun := hcores _ (State.mem_teamStarts hplaces hl)
      rw [State.coreAt_congr hcore hcores', hbegun]
      exact ⟨_, rfl, rfl, rfl, rfl, rfl, rfl, rfl, Core.begin_startsClear _ _, entryStream_startsAt _ _, entryStream_startsAt _ _, rfl, rfl, rfl⟩
  case front =>
    obtain ⟨hcore, hcores, hpool, hhost, -⟩ := (s.taken ctx q c r).noteHold_placedNow (s.serving r) ⟨ctx, q, false, c.seq⟩ ctx q
    have hplaced := State.cmdAt_noteHold_placedNow htaken rfl (s.serving r) ⟨ctx, q, false, c.seq⟩
    have hidle : (((s.taken ctx q c r).noteHold (s.serving r) ⟨ctx, q, false, c.seq⟩).placedNow ctx q).tasksOf ctx q c.seq = [] := by
      rw [← htasks, State.tasksOf, State.tasksOf, State.allCores, State.allCores, hcore, hcores]
      rfl
    obtain ⟨g, hend, hseq, hkeep⟩ := State.frontEnd_of_noTask hidle
    have hexec := exec_front_plain htake hphase hop hkernel hplain
    rw [hend] at hexec
    have hcmd' := State.cmdAt_updCmd (fun d hd => (hseq d).trans hd) hplaced
    rw [hkeep (s.takeRect ctx c r []) f hfront hfrozen hblock] at hcmd'
    refine ⟨_, s.takeRect ctx c r [], hexec, hcmd', rfl, rfl, ?_, hfront, hcore, hcores, hpool, hhost⟩
    simp [State.takeRect, Command.groups, hfront]

end Sys2Proof.Proofs
end

section
/-! The in-field test of clusters, what is lost with one that fails, and the mailbox (spec/03_placement.md R56,
spec/24_retirement.md R342, R343, spec/25_host_and_power_on.md R361). -/

namespace Sys2Proof.Machine

/-! ### Clusters read what was last put there -/

@[simp] theorem State.clusterAt_id (s : State) (id : Nat) : (s.clusterAt id).id = id := by
  unfold State.clusterAt
  cases h : s.clusters.find? (fun c => c.id == id) with
  | none => rfl
  | some c => simpa using List.find?_some h

theorem find?_putCluster (c : Cluster) (cs : List Cluster) : (putCluster c cs).find? (fun x => x.id == c.id) = some c := by
  induction cs with
  | nil => simp [putCluster]
  | cons x rest ih =>
    simp only [putCluster]
    split
    · simp
    · split
      · simp
      · next hne => simp [Ne.symm hne, ih]

theorem find?_putCluster_of_ne (c : Cluster) (cs : List Cluster) {id : Nat} (h : c.id ≠ id) :
    (putCluster c cs).find? (fun x => x.id == id) = cs.find? (fun x => x.id == id) := by
  induction cs with
  | nil => simp [putCluster, h]
  | cons x rest ih =>
    simp only [putCluster]
    split
    · simp [h]
    · split
      · next heq => simp [h, ← heq]
      · simp [List.find?_cons, ih]

theorem State.clusterAt_updCluster (s : State) (id : Nat) (f : Cluster → Cluster) (hf : ∀ c, (f c).id = c.id) :
    (s.updCluster id f).clusterAt id = f (s.clusterAt id) := by
  have hfind := find?_putCluster (f (s.clusterAt id)) s.clusters
  rw [hf, State.clusterAt_id] at hfind
  rw [State.clusterAt, State.updCluster_clusters, hfind, Option.getD_some]

theorem State.clusterAt_updCluster_of_ne (s : State) {id n : Nat} (f : Cluster → Cluster) (hf : ∀ c, (f c).id = c.id) (h : n ≠ id) :
    (s.updCluster id f).clusterAt n = s.clusterAt n := by
  rw [State.clusterAt, State.updCluster_clusters, find?_putCluster_of_ne _ _ (by rw [hf, State.clusterAt_id]; exact h.symm), State.clusterAt]

theorem State.clusterAt_congr {s t : State} (h : t.clusters = s.clusters) (id : Nat) : t.clusterAt id = s.clusterAt id := by
  rw [State.clusterAt, State.clusterAt, h]

theorem State.raiseMsi_clusterAt (s : State) (v id : Nat) : (s.raiseMsi v).clusterAt id = s.clusterAt id := State.clusterAt_congr rfl id

/-- A cluster that differs from one in service with nothing in it stands in the list. -/
theorem State.clusterAt_mem {s : State} {id : Nat} (h : s.clusterAt id ≠ Cluster.init id) : s.clusterAt id ∈ s.clusters := by
  unfold State.clusterAt at h ⊢
  cases hfind : s.clusters.find? (fun c => c.id == id) with
  | none => simp [hfind] at h
  | some c => exact List.mem_of_find?_eq_some hfind

/-! ### Clusters that are retired (R56) -/

theorem State.heldClusters_congr {s t : State} (h : t.contexts = s.contexts) : t.heldClusters = s.heldClusters := by
  rw [State.heldClusters, State.heldClusters, h]

theorem Core.topo_task_isSome (k : Core) : k.topo.task.isSome = k.task.isSome := by
  unfold Core.topo
  cases h : k.task <;> simp [h]

theorem Core.topo_evtTopo {k : Core} (h : k.task.isSome = true) : k.topo.sys.evtTopo = true := by
  obtain ⟨t, ht⟩ := Option.isSome_iff_exists.mp h
  simp [Core.topo, ht]

theorem State.retire_clusterAt (s : State) (c : Nat) : (s.retire c).clusterAt c = { s.clusterAt c with retired := true, failing := false } :=
  (State.clusterAt_congr rfl c).trans
    (s.clusterAt_updCluster c (fun x => { x with retired := true, failing := false }) (fun _ => rfl))

theorem State.retire_clusterAt_of_ne (s : State) {c n : Nat} (h : n ≠ c) : (s.retire c).clusterAt n = s.clusterAt n :=
  (State.clusterAt_congr rfl n).trans
    (s.clusterAt_updCluster_of_ne (fun x => { x with retired := true, failing := false }) (fun _ => rfl) h)

theorem State.retireAll_dev (s : State) (cs : List Nat) : (cs.foldl State.retire s).dev = s.dev := by
  induction cs generalizing s with
  | nil => rfl
  | cons c cs ih => exact ih (s.retire c)

theorem State.retireAll_testing (s : State) (cs : List Nat) (n : Nat) :
    ((cs.foldl State.retire s).clusterAt n).testing = (s.clusterAt n).testing := by
  induction cs generalizing s with
  | nil => rfl
  | cons c cs ih =>
    rw [List.foldl_cons, ih]
    by_cases h : n = c
    · rw [h, State.retire_clusterAt]
    · rw [State.retire_clusterAt_of_ne s h]

theorem State.retireAll_retired (s : State) (cs : List Nat) (n : Nat) (h : n ∈ cs ∨ (s.clusterAt n).retired = true) :
    ((cs.foldl State.retire s).clusterAt n).retired = true := by
  induction cs generalizing s with
  | nil => exact h.resolve_left List.not_mem_nil
  | cons c cs ih =>
    refine ih (s.retire c) ?_
    by_cases hn : n = c
    · exact .inr (by rw [hn, State.retire_clusterAt])
    · exact h.imp (fun hmem => (List.mem_cons.mp hmem).resolve_left hn) (fun hret => by rwa [State.retire_clusterAt_of_ne s hn])

/-- TOPO is set in the task of a core once a cluster has been retired (R56). -/
theorem State.retireAll_evtTopo (s : State) (cs : List Nat) (htask : s.core.task.isSome = true)
    (h : cs ≠ [] ∨ s.core.sys.evtTopo = true) : (cs.foldl State.retire s).core.sys.evtTopo = true := by
  induction cs generalizing s with
  | nil => exact h.resolve_left (fun hne => hne rfl)
  | cons c cs ih => exact ih (s.retire c) ((s.core.topo_task_isSome).trans htask) (.inr (Core.topo_evtTopo htask))

/-- Nothing is pre-empted for the loss of a cluster that nothing holds (R56). -/
theorem State.evacuate_of_not_held {s : State} {c : Nat} (h : c ∉ s.heldClusters) : s.evacuate c = s := by
  have hnone : s.holders.filter (fun x => x.2.2.held.contains c) = [] := by
    refine List.filter_eq_nil_iff.mpr fun x hx hin => h ?_
    simp only [State.holders, List.mem_flatMap, List.mem_map, List.mem_filter] at hx
    obtain ⟨y, hy, z, hz, d, ⟨hd, -⟩, rfl⟩ := hx
    simp only [State.heldClusters, List.mem_flatMap]
    exact ⟨y, hy, z, hz, d, hd, by simpa using hin⟩
  rw [State.evacuate, hnone, List.foldl_nil]

/-- The clusters that are to be retired and that nothing holds any more (R56). -/
def State.lostClusters (s : State) : List Nat := (s.clusters.filter (fun c => c.failing && !s.heldClusters.contains c.id)).map (·.id)

theorem State.settleFailing_eq (s : State) : s.settleFailing = s.lostClusters.foldl State.retire s := rfl

theorem State.mem_lostClusters {s : State} {c : Nat} (hfail : (s.clusterAt c).failing = true) (h : c ∉ s.heldClusters) : c ∈ s.lostClusters := by
  have hlisted : s.clusterAt c ∈ s.clusters := State.clusterAt_mem fun heq => by simp [heq, Cluster.init] at hfail
  refine List.mem_map.mpr ⟨s.clusterAt c, List.mem_filter.mpr ⟨hlisted, ?_⟩, State.clusterAt_id _ _⟩
  simpa [hfail] using h

/-- A cluster that nothing holds is retired as soon as it is lost (R56). -/
theorem State.loseCluster_of_not_held {s : State} {c : Nat} (h : c ∉ s.heldClusters) :
    (s.loseCluster c).dev = s.dev ∧ ((s.loseCluster c).clusterAt c).testing = (s.clusterAt c).testing
      ∧ ((s.loseCluster c).clusterAt c).retired = true
      ∧ (s.core.task.isSome = true → (s.loseCluster c).core.sys.evtTopo = true) := by
  have hat := s.clusterAt_updCluster c (fun x => { x with failing := true }) (fun _ => rfl)
  have hlost : c ∈ (s.updCluster c (fun x => { x with failing := true })).lostClusters :=
    State.mem_lostClusters (by rw [hat]) (by rwa [State.heldClusters_congr rfl])
  rw [State.loseCluster, State.evacuate_of_not_held h, State.settleFailing_eq]
  exact ⟨State.retireAll_dev _ _, (State.retireAll_testing _ _ _).trans (by rw [hat]), State.retireAll_retired _ _ _ (.inl hlost),
    fun htask => State.retireAll_evtTopo _ _ htask (.inl (List.ne_nil_of_mem hlost))⟩

/-! ### The events of the in-field test (R342, R343) -/

section
variable {s : State} {c : Nat}

theorem State.testable_of_free (hc : c < 256) (hfree : s.clusterFree c = true) (hret : (s.clusterAt c).retired = false) :
    s.testable c = true := by
  simp [State.testable, hc, hfree, hret]

theorem exec_iftPeriodic (hready : s.dev.ready = true) (htest : s.testable c = true) (hperiod : s.dev.iftPeriod ≠ 0) :
    exec (.iftPeriodic c) s = .next (s.updCluster c (fun x => { x with testing := true, testDue := false })) := by
  have hdue : (s.dev.ready && s.testable c && (s.dev.iftPeriod != 0 || (s.clusterAt c).testDue)) = true := by
    rw [hready, htest, bne_iff_ne.mpr hperiod]
    rfl
  exact if_pos hdue

/-- The device once IFT.CTL has been written (R342). -/
def Device.withIftCtl (d : Device) (v : Word) : Device := { d with iftPeriod := v.extractLsb' 32 32, iftCluster := .ofNat 8 (v.toNat % 256) }

theorem exec_iftNow (v : Word) (hnow : v.getLsbD 8 = true) (hready : s.dev.ready = true) (htest : s.testable (v.toNat % 256) = true)
    (hret : (s.clusterAt (v.toNat % 256)).retired = false) :
    exec (.iftNow v) s = .next ((s.updDev (fun d => d.withIftCtl v)).updCluster (v.toNat % 256)
      (fun x => { x with testing := true, testDue := false })) := by
  have hwrite : ∀ d : Device, { d with iftPeriod := .ofNat 32 (v.toNat / 2 ^ 32), iftCluster := .ofNat 8 (v.toNat % 256) } = d.withIftCtl v := by
    intro d
    simp [Device.withIftCtl, BitVec.extractLsb', Nat.shiftRight_eq_div_pow]
  have htest' : (s.updDev (fun d => d.withIftCtl v)).testable (v.toNat % 256) = true := htest
  have hready' : (s.updDev (fun d => d.withIftCtl v)).dev.ready = true := hready
  change execIftNow v s = _
  simp only [execIftNow, hwrite, hnow, hret, hready', htest']
  rfl

/-- The machine as a test of a cluster leaves it, before its outcome counts (R342, R343). -/
def State.tested (s : State) (c : Nat) (history : List (HeldBy × BitVec 8)) : State :=
  (s.updCluster c (fun x => { x with testing := false, history := history })).updDev (fun d => { d with iftLast := .ofNat 8 c })

theorem State.tested_clusterAt (s : State) (c : Nat) (history : List (HeldBy × BitVec 8)) :
    (s.tested c history).clusterAt c = { s.clusterAt c with testing := false, history := history } :=
  (State.clusterAt_congr rfl c).trans
    (s.clusterAt_updCluster c (fun x => { x with testing := false, history := history }) (fun _ => rfl))

theorem exec_iftTestComplete_pass (h : (s.clusterAt c).testing = true) :
    exec (.iftTestComplete c true) s = .next ((s.tested c []).updDev (fun d => { d with iftPass := d.iftPass + 1 })) := by
  change execIftTestComplete c true s = _
  simp [execIftTestComplete, h, State.tested]

/-- The machine once a cluster has failed its test, before the cluster is lost (R342, R343). -/
def State.failedTest (s : State) (c : Nat) : State :=
  (s.tested c (s.clusterAt c).history).updDev
    (fun d => { d with iftFail := d.iftFail + 1, failRecs := d.failRecs ++ [(s.clusterAt c).failure d.cycle] })

theorem exec_iftTestComplete_fail (h : (s.clusterAt c).testing = true) :
    exec (.iftTestComplete c false) s = .next (((s.failedTest c).loseCluster c).raiseMsi 1) := by
  change execIftTestComplete c false s = _
  simp [execIftTestComplete, h, State.failedTest, State.tested, State.updCluster]

end

/-! ### The mailbox (R361) -/

theorem State.mailbox_of_idle {s : State} (h : s.dev.mbxBusy = false) (code : Word) :
    s.mailbox code = { s with dev := { s.dev with mbxBusy := true, mbxCmd := code } } := by
  simp [State.mailbox, h, State.updDev]

theorem State.mailbox_of_busy {s : State} (h : s.dev.mbxBusy = true) (code : Word) : s.mailbox code = s := by
  simp [State.mailbox, h]

theorem exec_mailboxResponse {s : State} (h : s.dev.mbxBusy = true) (r : MailboxReply) :
    exec (.mailboxResponse r) s = .next (s.updDev (fun d => d.answer r)) := by
  change execMailboxResponse r s = _
  simp [execMailboxResponse, h]

theorem Device.read_respond (d : Device) (result : BitVec 8) (data : List Byte) :
    Memory.read (d.respond result data).mbxData 0 data.length = data := Memory.read_write _ _ _

theorem Device.answer_mbxBusy (d : Device) (r : MailboxReply) : (d.answer r).mbxBusy = false := by
  simp only [Device.answer]
  repeat' split
  all_goals rfl

section
variable {d : Device} (r : MailboxReply) (hfw : d.noFirmware = false)
include hfw

theorem Device.answer_getTest (h : d.mbxCmd = 1) : d.answer r = d.respond 0 d.selfTest := by
  simp [Device.answer, hfw, h]

theorem Device.answer_setConfig (h : d.mbxCmd = 2) :
    d.answer r = if r.sigOk then { d with pendingImage := some r.image }.respond 0 [] else d.respond 1 [] := by
  simp [Device.answer, hfw, h]

theorem Device.answer_attest (h : d.mbxCmd = 3) : d.answer r = d.respond 0 r.report := by
  simp [Device.answer, hfw, h]

theorem Device.answer_getFailrec_none (h : d.mbxCmd = 4) (hrecs : d.failRecs = []) : d.answer r = d.respond 3 [] := by
  simp [Device.answer, hfw, h, hrecs]

theorem Device.answer_getFailrec_some (h : d.mbxCmd = 4) {e : FailRecord} {rest : List FailRecord} (hrecs : d.failRecs = e :: rest) :
    d.answer r = { d with failRecs := rest }.respond 0 e.bytes := by
  simp [Device.answer, hfw, h, hrecs]

theorem Device.answer_fwUpdate (h : d.mbxCmd = 5) :
    d.answer r = if r.sigOk then { d with pendingFw := some r.fwRev }.respond 0 [] else d.respond 1 [] := by
  simp [Device.answer, hfw, h]

theorem Device.answer_unknown (h : 5 < d.mbxCmd.toNat) : d.answer r = d.respond 2 [] := by
  simp only [Device.answer, hfw, Bool.false_and, Bool.false_eq_true, if_false]
  split
  case h_6 => rfl
  all_goals omega

end

end Sys2Proof.Machine

namespace Sys2Proof.Proofs

open Sys2Proof.Machine Sys2Proof.Safety

/-- Settles O56: a test begins on a cluster that is free, and one that fails is retired at once when nothing holds it (`State.loseCluster_of_not_held`);
the mailbox answers each code (`Device.answer`). RESULT 3 for GET-FAILREC with no unread record is the model's reading (log entry 48). -/
theorem testAndMailboxEventsComplete : Obligations.TestAndMailboxEventsComplete := by
  unfold Obligations.TestAndMailboxEventsComplete
  refine fun s => ⟨fun c hc hready hfree hret => ⟨?periodic, ?now⟩, fun c hc htesting => ⟨?pass, ?fail⟩, ?command, fun r hbusy hfw => ?response⟩
  case periodic =>
    intro hperiod
    refine ⟨_, exec_iftPeriodic hready (State.testable_of_free hc hfree hret) hperiod, ?_, rfl, rfl⟩
    rw [s.clusterAt_updCluster c (fun x => { x with testing := true, testDue := false }) (fun _ => rfl)]
  case now =>
    rintro v rfl hnow
    refine ⟨_, exec_iftNow v hnow hready (State.testable_of_free hc hfree hret) hret, ?_, rfl, rfl⟩
    rw [State.clusterAt_updCluster _ _ (fun x => { x with testing := true, testDue := false }) (fun _ => rfl)]
  case pass =>
    have hat : ((s.tested c []).updDev (fun d => { d with iftPass := d.iftPass + 1 })).clusterAt c = _ := s.tested_clusterAt c []
    exact ⟨_, exec_iftTestComplete_pass htesting, by rw [hat], by rw [hat], by rw [hat], rfl⟩
  case fail =>
    intro hheld
    have hat : (s.failedTest c).clusterAt c = _ := s.tested_clusterAt c (s.clusterAt c).history
    have hfree : c ∉ (s.failedTest c).heldClusters := by rwa [State.heldClusters_congr rfl]
    obtain ⟨hdev, htest, hret, htopo⟩ := State.loseCluster_of_not_held hfree
    refine ⟨_, (s.clusterAt c).failure s.dev.cycle, exec_iftTestComplete_fail htesting, ?_, ?_, fun htask => ?_, ?_, rfl, rfl, rfl⟩
    · rw [State.raiseMsi_clusterAt, htest, hat]
    · rw [State.raiseMsi_clusterAt, hret]
    · rw [State.raiseMsi_core, htopo htask]
    · rw [State.raiseMsi_dev, hdev]
      rfl
  case command =>
    have hcode : ∀ (i : Instr) (code : Word), exec i s = .next (s.mailbox code) →
        (s.dev.mbxBusy = false → exec i s = .next { s with dev := { s.dev with mbxBusy := true, mbxCmd := code } })
          ∧ (s.dev.mbxBusy = true → exec i s = .next s) :=
      fun i code h => ⟨fun hidle => by rw [h, State.mailbox_of_idle hidle], fun hbusy => by rw [h, State.mailbox_of_busy hbusy]⟩
    simp only [List.forall_mem_cons, List.not_mem_nil, false_imp_iff, implies_true, and_true]
    exact ⟨hcode _ _ rfl, hcode _ _ rfl, hcode _ _ rfl, hcode _ _ rfl, hcode _ _ rfl⟩
  case response =>
    refine ⟨_, exec_mailboxResponse hbusy r, Device.answer_mbxBusy _ r, rfl, rfl, rfl, fun h => ?getTest, fun h => ?setConfig, fun h => ?attest,
      fun h => ⟨fun hrecs => ?noRecord, fun e rest hrecs => ?record⟩, fun h => ?fwUpdate, fun h => ?unknown⟩
    all_goals rw [State.updDev_dev]
    case getTest => rw [Device.answer_getTest r hfw h]; exact ⟨rfl, Device.read_respond _ _ _⟩
    case setConfig => rw [Device.answer_setConfig r hfw h]; cases r.sigOk <;> simp [Device.respond]
    case attest => rw [Device.answer_attest r hfw h]; exact ⟨rfl, Device.read_respond _ _ _⟩
    case noRecord => rw [Device.answer_getFailrec_none r hfw h hrecs]; rfl
    case record => rw [Device.answer_getFailrec_some r hfw h hrecs]; exact ⟨rfl, rfl, Device.read_respond _ _ _⟩
    case fwUpdate => rw [Device.answer_fwUpdate r hfw h]; cases r.sigOk <;> simp [Device.respond]
    case unknown => rw [Device.answer_unknown r hfw h]; rfl

end Sys2Proof.Proofs
end

section
/-! A result delivered in an IEEE format fits the format's bits (spec/09_number_formats.md R165, R170). -/

namespace Sys2Proof.Machine

/-- n/d lies below the power of two after its own. -/
theorem lt_two_zpow_floorLog2 {n d : Nat} (hd : 0 < d) : (n : ℚ) < d * 2 ^ (floorLog2 n d + 1) := by
  have hdq : (0 : ℚ) < d := by exact_mod_cast hd
  have hnq : (n : ℚ) < 2 ^ ((Nat.log2 n : ℤ) + 1) := by exact_mod_cast Nat.lt_log2_self
  have hdl : (2 : ℚ) ^ (Nat.log2 d : ℤ) ≤ d := by exact_mod_cast Nat.log2_self_le hd.ne'
  have hlog : (n : ℚ) < d * 2 ^ ((Nat.log2 n : ℤ) - Nat.log2 d + 1) := by
    calc (n : ℚ) < 2 ^ ((Nat.log2 n : ℤ) + 1) := hnq
      _ = 2 ^ (Nat.log2 d : ℤ) * 2 ^ ((Nat.log2 n : ℤ) - Nat.log2 d + 1) := by rw [← zpow_add₀ two_ne_zero]; ring_nf
      _ ≤ d * 2 ^ ((Nat.log2 n : ℤ) - Nat.log2 d + 1) := by gcongr
  simp only [floorLog2]
  split
  case isTrue hpos =>
    split
    case isTrue => exact hlog
    case isFalse hlt =>
      have hcast : (n : ℚ) < d * 2 ^ ((Nat.log2 n : ℤ) - Nat.log2 d).toNat := by exact_mod_cast Nat.lt_of_not_le hlt
      rw [sub_add_cancel, ← Int.toNat_of_nonneg hpos, zpow_natCast]
      exact hcast
  case isFalse hneg =>
    split
    case isTrue => exact hlog
    case isFalse hlt =>
      have hcast : (n : ℚ) * 2 ^ (-((Nat.log2 n : ℤ) - Nat.log2 d)).toNat < d := by exact_mod_cast Nat.lt_of_not_le hlt
      have hexp : ((Nat.log2 n : ℤ) - Nat.log2 d) = -((-((Nat.log2 n : ℤ) - Nat.log2 d)).toNat : ℤ) := by omega
      rw [sub_add_cancel, hexp, zpow_neg, zpow_natCast, ← div_eq_mul_inv, lt_div_iff₀ (by positivity)]
      simpa using hcast

/-- A magnitude below 2^k quanta is cut to fewer than 2^k. -/
theorem cutAt_fst_lt {n d : Nat} {q : Int} (k : Nat) (more : Bool) (hd : 0 < d) (h : (n : ℚ) < d * 2 ^ (q + k)) : (cutAt n d q more).1 < 2 ^ k := by
  rw [zpow_add₀ two_ne_zero, zpow_natCast] at h
  simp only [cutAt]
  split
  case isTrue hq =>
    have hexp : q = -((-q).toNat : ℤ) := by omega
    rw [hexp, zpow_neg, zpow_natCast, mul_comm, inv_mul_eq_div, div_mul_eq_mul_div, lt_div_iff₀ (by positivity)] at h
    rw [Nat.div_lt_iff_lt_mul hd]
    exact_mod_cast h
  case isFalse hq =>
    have hexp : q = (q.toNat : ℤ) := by omega
    rw [hexp, zpow_natCast] at h
    rw [Nat.div_lt_iff_lt_mul (by positivity)]
    have hcast : (n : ℚ) < 2 ^ k * (d * 2 ^ q.toNat) := by linarith
    exact_mod_cast hcast

/-- At a quantum `p` places below the leading one or above it, `p + 1` bits are left. -/
theorem cutAt_fst_lt_of_quantum (n d : Nat) {q : Int} (p : Nat) (more : Bool) (hq : floorLog2 n d - p ≤ q) :
    (cutAt n d q more).1 < 2 ^ (p + 1) := by
  rcases Nat.eq_zero_or_pos d with rfl | hd
  · simp [cutAt]
  · have hexp : floorLog2 n d + 1 ≤ q + ((p + 1 : Nat) : ℤ) := by omega
    refine cutAt_fst_lt (p + 1) more hd ?_
    calc (n : ℚ) < d * 2 ^ (floorLog2 n d + 1) := lt_two_zpow_floorLog2 hd
      _ ≤ d * 2 ^ (q + ((p + 1 : Nat) : ℤ)) := by gcongr; norm_num

theorem IeeeFmt.expMax_mul_add (f : IeeeFmt) : f.expMax * 2 ^ f.fbits + 2 ^ f.fbits = f.signBit := by
  have hpos : 0 < 2 ^ f.ebits := by positivity
  rw [IeeeFmt.expMax, IeeeFmt.signBit, ← Nat.succ_mul, Nat.succ_eq_add_one, Nat.sub_add_cancel hpos, pow_add]

theorem IeeeFmt.sign_le (f : IeeeFmt) (neg : Bool) : (if neg then f.signBit else 0) ≤ f.signBit := by
  cases neg <;> simp

/-- The exponent and fraction of a finite pattern stay below its sign bit. -/
theorem IeeeFmt.exponent_mul_lt (f : IeeeFmt) {e m : Nat} (he : e = 0 ∨ e < f.expMax) (hm : m < 2 ^ f.fbits) : e * 2 ^ f.fbits + m < f.signBit := by
  have hmax := f.expMax_mul_add
  rcases he with rfl | he
  · omega
  · have hmul : (e + 1) * 2 ^ f.fbits ≤ f.expMax * 2 ^ f.fbits := Nat.mul_le_mul_right _ he
    rw [Nat.succ_mul] at hmul
    omega

/-- A significand that rounds up to the next power of two takes the next exponent. -/
theorem carried_lt (p m : Nat) (q : Int) (up : Bool) (h : m < 2 ^ (p + 1)) :
    (if (if up then m + 1 else m) = 2 ^ (p + 1) then (2 ^ p, q + 1) else (if up then m + 1 else m, q)).1 < 2 ^ (p + 1) := by
  have htwo : 2 ^ (p + 1) = 2 * 2 ^ p := pow_succ' 2 p
  have hpow : 0 < 2 ^ p := by positivity
  cases up <;> simp only [Bool.false_eq_true, if_true, if_false] <;> split <;> omega

/-- The pattern of a significand and an exponent, or of what an overflow delivers, as `roundIeee` puts it together. -/
theorem IeeeFmt.assembled_lt (f : IeeeFmt) (neg toInf : Bool) (x : Nat × Int) (e1 e2 e3 : Eff) (hx : x.1 < 2 ^ (f.fbits + 1)) :
    (if x.1 < 2 ^ f.fbits then ((if neg then f.signBit else 0) + x.1, e1)
      else if (f.expMax : Int) ≤ x.2 + f.fbits + f.bias then (if toInf then f.infPat neg else f.maxPat neg, e2)
      else ((if neg then f.signBit else 0) + (x.2 + f.fbits + f.bias).toNat * 2 ^ f.fbits + (x.1 - 2 ^ f.fbits), e3)).1 < 2 * f.signBit := by
  have hsign := f.sign_le neg
  have hmax := f.expMax_mul_add
  have hpow : 0 < 2 ^ f.fbits := by positivity
  have htwo : 2 ^ (f.fbits + 1) = 2 * 2 ^ f.fbits := pow_succ' 2 f.fbits
  split
  case isTrue hsmall => simp only; omega
  case isFalse hnormal =>
    split
    case isTrue => cases toInf <;> simp only [IeeeFmt.infPat, IeeeFmt.maxPat, Bool.false_eq_true, if_true, if_false] <;> omega
    case isFalse hexp =>
      have hfinite := f.exponent_mul_lt (e := (x.2 + f.fbits + f.bias).toNat) (m := x.1 - 2 ^ f.fbits) (by omega) (by omega)
      simp only
      omega

theorem roundIeee_fst_lt (f : IeeeFmt) (mode : Nat) (neg : Bool) (n d : Nat) : (roundIeee f mode neg n d).1 < 2 * f.signBit := by
  simp only [roundIeee]
  exact f.assembled_lt neg _ _ _ _ _ (carried_lt f.fbits _ _ _ (cutAt_fst_lt_of_quantum n d f.fbits false (le_max_left _ _)))

theorem deliverIeee_fst_lt (f : IeeeFmt) (mode : Nat) (flush : Bool) (x : Exact) : (deliverIeee f mode flush x).1 < 2 * f.signBit := by
  have hmax := f.expMax_mul_add
  have hpow : 0 < 2 ^ f.fbits := by positivity
  have hhalf : 2 ^ (f.fbits - 1) ≤ 2 ^ f.fbits := Nat.pow_le_pow_right (by omega) (by omega)
  have hzero : ∀ neg, f.zeroPat neg ≤ f.signBit := f.sign_le
  cases x with
  | nan nv => simp only [deliverIeee, IeeeFmt.qnan]; omega
  | nar code nv => simp only [deliverIeee, IeeeFmt.qnan]; omega
  | inf neg dz =>
    have hsign := f.sign_le neg
    simp only [deliverIeee, IeeeFmt.infPat]
    omega
  | fin neg n d =>
    have hsign := hzero neg
    have hround := roundIeee_fst_lt f mode neg n d
    simp only [deliverIeee]
    split
    · simp only; omega
    · split
      · simp only; omega
      · exact hround

end Sys2Proof.Machine
end

section
/-! Gangs: how their members compare, meet or trap, and how one joint multiply-accumulate goes on in all of them
(spec/03_placement.md R49, spec/12_matrix_instructions.md R222, R227). -/

namespace Sys2Proof.Machine

/-! ### Events of one core, and what they leave in the others -/

theorem State.coreAt_self (s : State) : s.coreAt s.core.pid = s.core := if_pos rfl

theorem State.select_self (s : State) : s.select s.core.pid = s := if_pos rfl

theorem State.select_core (s : State) (pid : Nat) : (s.select pid).core = s.coreAt pid := by
  unfold State.select
  split
  · next h => rw [← h, State.coreAt_self]
  · rfl

theorem State.coreAt_select (s : State) (pid p : Nat) : (s.select pid).coreAt p = s.coreAt p := by
  unfold State.select
  split
  · rfl
  · next hne =>
    by_cases hp : pid = p
    · exact if_pos ((s.coreAt_pid pid).trans hp) |>.trans (by rw [hp])
    · have hpid : (s.coreAt pid).pid ≠ p := by rwa [State.coreAt_pid]
      refine (if_neg hpid).trans ?_
      by_cases hown : s.core.pid = p
      · simp only [← hown, find?_putCore, Option.getD_some, State.coreAt_self]
      · have hkept : (s.cores.filter (fun k => k.pid != pid)).find? (fun k => k.pid == p) = s.cores.find? (fun k => k.pid == p) := by
          rw [List.find?_filter]
          congr 1
          funext k
          by_cases hk : k.pid = p
          · simp [hk, Ne.symm hp]
          · simp [hk]
        refine Eq.trans ?_ (if_neg hown).symm
        simp only [find?_putCore_of_ne _ _ hown, hkept]

theorem State.coreAt_updThis (s : State) {f : Core → Core} (hf : (f s.core).pid = s.core.pid) : (s.updThis f).coreAt s.core.pid = f s.core :=
  if_pos hf

theorem State.coreAt_updThis_of_ne (s : State) {f : Core → Core} (hf : (f s.core).pid = s.core.pid) {p : Nat} (h : p ≠ s.core.pid) :
    (s.updThis f).coreAt p = s.coreAt p := by
  have hne : (f s.core).pid ≠ p := by rw [hf]; exact h.symm
  exact (if_neg hne).trans (if_neg h.symm).symm

theorem State.coreAt_onCore (s : State) (pid p : Nat) (f : State → State) : (s.onCore pid f).coreAt p = (f (s.select pid)).coreAt p :=
  State.coreAt_select _ _ _

/-- An event that changes the core it selects in one way leaves that core so, and the others as they were. -/
theorem State.coreAt_onCore_updThis (s : State) (pid : Nat) {f : State → State} {g : Core → Core} (hg : ∀ k, (g k).pid = k.pid)
    (hf : f (s.select pid) = (s.select pid).updThis g) :
    (s.onCore pid f).coreAt pid = g (s.coreAt pid) ∧ ∀ p, p ≠ pid → (s.onCore pid f).coreAt p = s.coreAt p := by
  have hpid : (s.select pid).core.pid = pid := by rw [State.select_core, State.coreAt_pid]
  refine ⟨?_, fun p hp => ?_⟩
  · have hown := (s.select pid).coreAt_updThis (hg (s.select pid).core)
    rw [hpid, State.select_core] at hown
    rw [State.coreAt_onCore, hf, hown]
  · rw [State.coreAt_onCore, hf, State.coreAt_updThis_of_ne _ (hg _) (by rwa [hpid]), State.coreAt_select]

/-- A sweep over different cores that changes each one as it finds it, and no other. -/
theorem State.coreAt_foldl_each {α : Type} (key : α → Nat) (step : State → α → State) (new : α → Core) (s : State) (xs : List α)
    (hkeys : (xs.map key).Nodup)
    (hstep : ∀ a ∈ xs, ∀ x : State, x.coreAt (key a) = s.coreAt (key a) →
      (step x a).coreAt (key a) = new a ∧ ∀ p, p ≠ key a → (step x a).coreAt p = x.coreAt p) :
    (∀ a ∈ xs, (xs.foldl step s).coreAt (key a) = new a) ∧ ∀ p, p ∉ xs.map key → (xs.foldl step s).coreAt p = s.coreAt p := by
  induction xs generalizing s with
  | nil => exact ⟨by simp, fun _ _ => rfl⟩
  | cons a xs ih =>
    obtain ⟨hnot, hrest⟩ := List.nodup_cons.mp hkeys
    obtain ⟨hnew, hothers⟩ := hstep a List.mem_cons_self s rfl
    have hother : ∀ b ∈ xs, (step s a).coreAt (key b) = s.coreAt (key b) := fun b hb =>
      hothers _ fun heq => hnot (heq ▸ List.mem_map_of_mem hb)
    obtain ⟨heach, hframe⟩ := ih (step s a) hrest fun b hb x hx => hstep b (List.mem_cons_of_mem a hb) x (hx.trans (hother b hb))
    refine ⟨fun b hb => ?_, fun p hp => ?_⟩
    · rcases List.mem_cons.mp hb with rfl | hb
      · exact (hframe _ hnot).trans hnew
      · exact heach b hb
    · obtain ⟨hpa, hps⟩ := not_or.mp (List.mem_cons.not.mp hp)
      exact (hframe p hps).trans (hothers p hpa)

/-! ### An instruction alone in its stream -/

theorem Core.setOp_pid (k : Core) (x : StreamId) (id : Nat) (f : LongOp → LongOp) : (k.setOp x id f).pid = k.pid := by simp [Core.setOp]

theorem Core.setOp_tiles (k : Core) (x : StreamId) (id : Nat) (f : LongOp → LongOp) : (k.setOp x id f).tiles = k.tiles := by simp [Core.setOp]

theorem Core.setOp_flight_alone {k : Core} {o : LongOp} (h : k.c.flight = [o]) (f : LongOp → LongOp) : (k.setOp .c o.id f).c.flight = [f o] := by
  simp [Core.setOp, Core.updStr, Core.setStr, Core.str, h]

theorem Core.dropOp_flight_alone {k : Core} {o : LongOp} (h : k.c.flight = [o]) : (k.dropOp .c o.id).c.flight = [] := by
  simp [Core.dropOp, Core.updStr, Core.setStr, Core.str, h]

/-- A late trap of user code with a cause that says nothing of an access or of poison waits to be taken (R364). -/
theorem State.opTrap_user (s : State) (x : StreamId) {op : LongOp} {cause : Nat} (val : Word) (hmode : op.mode = .user)
    (hpoison : cause ≠ 0x12) (haccess : cause ≠ 0x07) :
    s.opTrap x op cause val = s.updThis (fun k => k.setOp x op.id (fun o => { o with status := .trapped cause val })) := by
  simp [State.opTrap, hmode, hpoison, haccess]

/-! ### How members compare (R49, R121) -/

theorem bitField_eq_extract (x : BitVec 32) (lo w : Nat) : bitField x.toNat lo w = (x.extractLsb' lo w).toNat := by
  simp [bitField, Nat.shiftRight_eq_div_pow]

theorem jointFunction_mod (x : BitVec 32) : jointFunction x % 64 = (x.extractLsb' 1 6).toNat := by
  have hlt : bitField x.toNat 1 6 < 64 := Nat.mod_lt _ (by norm_num)
  rw [← bitField_eq_extract]
  simp only [jointFunction]
  split <;> [split; skip] <;> omega

/-- The number by which the model compares two joint instructions says whether they have one major and one function. -/
theorem jointFunction_eq_iff (x y : BitVec 32) : jointFunction x = jointFunction y ↔ Spec.SameFunction x y := by
  by_cases hmajor : x.extractLsb' 1 6 = y.extractLsb' 1 6
  · have hbit : ∀ z : BitVec 32, (z.extractLsb' 31 1 = 1 ↔ bitField z.toNat 31 1 = 1) := fun z => by
      rw [bitField_eq_extract, ← BitVec.toNat_inj]
      rfl
    have h44 : x.extractLsb' 1 6 = 44 ↔ bitField x.toNat 1 6 = 44 := by
      rw [bitField_eq_extract, ← BitVec.toNat_inj]
      rfl
    have hlt : ∀ z : BitVec 32, bitField z.toNat 31 1 < 2 := fun z => Nat.mod_lt _ (by norm_num)
    have hx := hlt x
    have hy := hlt y
    simp only [Spec.SameFunction, hmajor, true_and]
    rw [← hmajor]
    simp only [h44, hbit, ← BitVec.toNat_inj, jointFunction]
    rw [← BitVec.toNat_inj, ← bitField_eq_extract, ← bitField_eq_extract] at hmajor
    simp only [← bitField_eq_extract, ← hmajor]
    split_ifs <;> omega
  · refine iff_of_false (fun heq => hmajor ?_) (fun hsame => hmajor hsame.1)
    rw [← BitVec.toNat_inj, ← jointFunction_mod, ← jointFunction_mod, heq]

theorem Core.brings_of_atJoint {k : Core} {o : LongOp} (h : Spec.AtJoint k o) : k.brings = some o := by
  obtain ⟨hflight, -, hstatus, hstopped, hhandler, hmoving, -⟩ := h
  simp [Core.brings, Stream.atGang, hflight, hstatus, hstopped, hhandler, hmoving]

theorem gangCores_nodup (cluster : Nat) (mask : BitVec 8) : (gangCores cluster mask).Nodup := by
  refine List.Nodup.map (fun i j hij => ?_) (List.nodup_range.filter _)
  simpa using hij

theorem State.gangRight_iff (s : State) (k : Core) (op : LongOp) :
    s.gangRight k op = true ↔ op.members.getLsbD k.cidx = true ∧ ∀ p ∈ gangCores k.cluster op.members, p = k.pid ∨ sameTeam k (s.coreAt p) = true := by
  simp [State.gangRight]

theorem State.gangAgrees_iff (s : State) (k : Core) (op : LongOp) :
    s.gangAgrees k op = true ↔ s.gangRight k op = true ∧ ∀ p ∈ gangCores k.cluster op.members,
      ((s.coreAt p).brings.map (fun o => (o.members, jointFunction o.word))) = some (op.members, jointFunction op.word) := by
  simp only [State.gangAgrees, Bool.and_eq_true, List.all_eq_true, beq_iff_eq]

/-- A core waits at a joint instruction, and no other gang is about to take it away from this one (R49; log entry 72). -/
def State.staysWith (s : State) (op : LongOp) (p : Nat) : Bool :=
  match (s.coreAt p).brings with
  | some o => o.members == op.members || !s.gangAgrees (s.coreAt p) o
  | none => false

theorem State.gangStands_eq (s : State) (k : Core) (op : LongOp) :
    s.gangStands k op = if !s.gangRight k op then .fail else if s.gangAgrees k op then .meet
      else if (gangCores k.cluster op.members).all (s.staysWith op) then .fail else .wait := rfl

section
variable {s : State} {op : LongOp} {joint : Nat → LongOp}

/-- The mask names every core of the gang rightly, and all their instructions are of one kind (R49). -/
theorem State.gangAgrees_of_same (hright : s.gangRight s.core op = true)
    (hbrings : ∀ p ∈ gangCores s.core.cluster op.members, (s.coreAt p).brings = some (joint p))
    (hsame : ∀ p ∈ gangCores s.core.cluster op.members, (joint p).members = op.members ∧ Spec.SameFunction op.word (joint p).word) :
    s.gangAgrees s.core op = true := by
  refine (s.gangAgrees_iff s.core op).mpr ⟨hright, fun p hp => ?_⟩
  obtain ⟨hmembers, hfunction⟩ := hsame p hp
  rw [hbrings p hp, Option.map_some, hmembers, (jointFunction_eq_iff _ _).mpr hfunction]

/-- A wrong mask, or members that all wait for this gang and do not agree, make a mismatch (R49; log entry 72). -/
theorem State.gangStands_fail
    (hbrings : s.gangRight s.core op = true → ∀ p ∈ gangCores s.core.cluster op.members, (s.coreAt p).brings = some (joint p))
    (h : s.gangRight s.core op = false
      ∨ ((∃ p ∈ gangCores s.core.cluster op.members, (joint p).members ≠ op.members ∨ ¬ Spec.SameFunction op.word (joint p).word)
        ∧ ∀ p ∈ gangCores s.core.cluster op.members, (joint p).members ≠ op.members → s.gangAgrees (s.coreAt p) (joint p) = false)) :
    s.gangStands s.core op = .fail := by
  cases hright : s.gangRight s.core op with
  | false => simp [State.gangStands_eq, hright]
  | true =>
    obtain ⟨⟨p, hp, hdiffer⟩, hthere⟩ := h.resolve_left (by simp [hright])
    have hdisagrees : s.gangAgrees s.core op = false := by
      refine Bool.eq_false_iff.mpr fun hagrees => ?_
      have hlike := ((s.gangAgrees_iff s.core op).mp hagrees).2 p hp
      rw [hbrings hright p hp, Option.map_some, Option.some_inj, Prod.mk.injEq] at hlike
      exact hdiffer.elim (fun hne => hne hlike.1) (fun hne => hne ((jointFunction_eq_iff _ _).mp hlike.2.symm))
    have hall : (gangCores s.core.cluster op.members).all (s.staysWith op) = true := by
      refine List.all_eq_true.mpr fun q hq => ?_
      by_cases hm : (joint q).members = op.members
      · simp [State.staysWith, hbrings hright q hq, hm]
      · simp [State.staysWith, hbrings hright q hq, hthere q hq hm]
    simp [State.gangStands_eq, hright, hdisagrees, hall]

/-- The joint instruction at which a core waits begins (R49). -/
def Core.beginJoint (k : Core) : Core :=
  match k.brings with
  | some o => k.setOp .c o.id (fun o => { o with status := .running, met := true })
  | none => k

theorem Core.beginJoint_pid (k : Core) : k.beginJoint.pid = k.pid := by
  unfold Core.beginJoint
  split
  · exact Core.setOp_pid _ _ _ _
  · rfl

theorem Core.beginJoint_tiles (k : Core) : k.beginJoint.tiles = k.tiles := by
  unfold Core.beginJoint
  split
  · exact Core.setOp_tiles _ _ _ _
  · rfl

theorem Core.beginJoint_flight {k : Core} {o : LongOp} (h : Spec.AtJoint k o) :
    k.beginJoint.c.flight = [{ o with status := .running, met := true }] := by
  have hbrings := Core.brings_of_atJoint h
  simp only [Core.beginJoint, hbrings]
  exact Core.setOp_flight_alone h.1 _

theorem exec_gangMeet_meet (hbrings : s.core.brings = some op) (hagrees : s.gangAgrees s.core op = true) :
    exec (.gangMeet s.core.pid) s = .next ((gangCores s.core.cluster op.members).foldl (fun x p => x.updCore p Core.beginJoint) s) := by
  have hright := ((s.gangAgrees_iff s.core op).mp hagrees).1
  have hstands : s.gangStands s.core op = .meet := by simp [State.gangStands_eq, hright, hagrees]
  change execGangMeet s.core.pid s = _
  simp only [execGangMeet, State.coreAt_self, hbrings, hstands]
  rfl

/-- What a meeting leaves in each core (R49). -/
theorem State.coreAt_gangBegun (s : State) (cluster : Nat) (mask : BitVec 8) :
    (∀ p ∈ gangCores cluster mask, ((gangCores cluster mask).foldl (fun x p => x.updCore p Core.beginJoint) s).coreAt p = (s.coreAt p).beginJoint)
      ∧ ∀ p, p ∉ gangCores cluster mask → ((gangCores cluster mask).foldl (fun x p => x.updCore p Core.beginJoint) s).coreAt p = s.coreAt p := by
  have hsweep := State.coreAt_foldl_each id (fun x p => x.updCore p Core.beginJoint) (fun p => (s.coreAt p).beginJoint) s (gangCores cluster mask)
    (by rw [List.map_id]; exact gangCores_nodup cluster mask)
    (fun p _ x hx => ⟨(x.coreAt_updCore p _ Core.beginJoint_pid).trans (congrArg Core.beginJoint hx),
      fun q hq => x.coreAt_updCore_of_ne _ Core.beginJoint_pid hq⟩)
  rwa [List.map_id] at hsweep

/-- The cores whose instructions trap when a gang that core `own` waits for does not match: those that the mask names and the own one (R49). -/
def gangSet (own : Core) (op : LongOp) : List Nat :=
  if (gangCores own.cluster op.members).contains own.pid then gangCores own.cluster op.members else own.pid :: gangCores own.cluster op.members

theorem mem_gangSet {own : Core} {op : LongOp} {p : Nat} : p ∈ gangSet own op ↔ p ∈ gangCores own.cluster op.members ∨ p = own.pid := by
  unfold gangSet
  split
  next h =>
    have hin : own.pid ∈ gangCores own.cluster op.members := List.contains_iff_mem.mp h
    exact ⟨.inl, fun hp => hp.elim id (fun heq => heq ▸ hin)⟩
  next => rw [List.mem_cons, or_comm]

theorem gangSet_nodup (own : Core) (op : LongOp) : (gangSet own op).Nodup := by
  unfold gangSet
  split
  next => exact gangCores_nodup _ _
  next h => exact List.nodup_cons.mpr ⟨fun hin => h (List.contains_iff_mem.mpr hin), gangCores_nodup _ _⟩

theorem exec_gangMeet_fail (hbrings : s.core.brings = some op) (hstands : s.gangStands s.core op = .fail) :
    exec (.gangMeet s.core.pid) s = .next (s.gangFail s.core (gangSet s.core op)) := by
  change execGangMeet s.core.pid s = _
  simp only [execGangMeet, State.coreAt_self, hbrings, hstands]
  rfl

/-- An instruction with a late trap of cause 0x13 and its own word (R49). -/
def LongOp.mismatched (o : LongOp) : LongOp := { o with status := .trapped 0x13 (o.word.zeroExtend 64) }

/-- The joint instruction at which a core waits traps for a mismatch (R49). -/
def State.mismatchOn (s : State) (p : Nat) : State :=
  match (s.coreAt p).brings with
  | some o => s.onCore p (fun s1 => s1.opTrap .c o 0x13 (o.word.zeroExtend 64))
  | none => s

theorem State.gangFail_eq (s : State) (own : Core) (pids : List Nat) :
    s.gangFail own pids = (pids.filter (fun p => p == own.pid || sameTeam own (s.coreAt p))).foldl State.mismatchOn s := rfl

theorem State.coreAt_mismatchOn {p : Nat} {o : LongOp} (h : Spec.AtJoint (s.coreAt p) o) :
    (s.mismatchOn p).coreAt p = (s.coreAt p).setOp .c o.id (fun y => { y with status := .trapped 0x13 (o.word.zeroExtend 64) })
      ∧ ∀ q, q ≠ p → (s.mismatchOn p).coreAt q = s.coreAt q := by
  have ⟨_, _, _, _, _, _, hmode⟩ := h
  simp only [State.mismatchOn, Core.brings_of_atJoint h]
  exact s.coreAt_onCore_updThis p (fun k => Core.setOp_pid _ _ _ _) (State.opTrap_user _ _ _ hmode (by decide) (by decide))

/-- What a mismatch leaves in the cores whose instructions trap, and in the others (R49). -/
theorem State.coreAt_gangFail {own : Core} {pids : List Nat} (hnodup : pids.Nodup)
    (hjoint : ∀ p ∈ pids, p = own.pid ∨ sameTeam own (s.coreAt p) = true → Spec.AtJoint (s.coreAt p) (joint p)) :
    (∀ p ∈ pids, p = own.pid ∨ sameTeam own (s.coreAt p) = true → ((s.gangFail own pids).coreAt p).c.flight = [(joint p).mismatched]
        ∧ ((s.gangFail own pids).coreAt p).tiles = (s.coreAt p).tiles)
      ∧ ∀ p, ¬ (p ∈ pids ∧ (p = own.pid ∨ sameTeam own (s.coreAt p) = true)) → (s.gangFail own pids).coreAt p = s.coreAt p := by
  have hmem : ∀ p, p ∈ pids.filter (fun p => p == own.pid || sameTeam own (s.coreAt p))
      ↔ p ∈ pids ∧ (p = own.pid ∨ sameTeam own (s.coreAt p) = true) := fun p => by simp [List.mem_filter]
  obtain ⟨heach, hframe⟩ := State.coreAt_foldl_each id State.mismatchOn
    (fun p => (s.coreAt p).setOp .c (joint p).id (fun o => { o with status := .trapped 0x13 ((joint p).word.zeroExtend 64) })) s
    (pids.filter (fun p => p == own.pid || sameTeam own (s.coreAt p))) (by rw [List.map_id]; exact hnodup.filter _)
    (fun p hp x hx => by
      obtain ⟨hin, hteam⟩ := (hmem p).mp hp
      have hx' : x.coreAt p = s.coreAt p := hx
      have hat := hjoint p hin hteam
      rw [← hx'] at hat ⊢
      exact State.coreAt_mismatchOn hat)
  rw [List.map_id] at hframe
  rw [State.gangFail_eq]
  refine ⟨fun p hp hteam => ?_, fun p hp => hframe p fun hin => hp ((hmem p).mp hin)⟩
  have ⟨hflight, _⟩ := hjoint p hp hteam
  have hcore := heach p ((hmem p).mpr ⟨hp, hteam⟩)
  rw [id] at hcore
  rw [hcore]
  exact ⟨Core.setOp_flight_alone hflight _, Core.setOp_tiles _ _ _ _⟩

/-- Where the mask is right and the members' instructions go together, each of them begins (R49). -/
theorem exec_gangMeet_begins (hown : Spec.AtJoint s.core op) (hself : op.members.getLsbD s.core.cidx = true)
    (hteam : ∀ p ∈ gangCores s.core.cluster op.members, p = s.core.pid ∨ sameTeam s.core (s.coreAt p) = true)
    (hjoint : ∀ p ∈ gangCores s.core.cluster op.members, Spec.AtJoint (s.coreAt p) (joint p))
    (hsame : ∀ p ∈ gangCores s.core.cluster op.members, (joint p).members = op.members ∧ Spec.SameFunction op.word (joint p).word) :
    ∃ t, exec (.gangMeet s.core.pid) s = .next t
      ∧ (∀ p ∈ gangCores s.core.cluster op.members, (t.coreAt p).c.flight = [{ joint p with status := .running, met := true }])
      ∧ ∀ p, (t.coreAt p).tiles = (s.coreAt p).tiles ∧ (p ∉ gangCores s.core.cluster op.members → t.coreAt p = s.coreAt p) := by
  have hright : s.gangRight s.core op = true := (s.gangRight_iff s.core op).mpr ⟨hself, hteam⟩
  have hagrees := State.gangAgrees_of_same hright (fun p hp => Core.brings_of_atJoint (hjoint p hp)) hsame
  obtain ⟨heach, hframe⟩ := s.coreAt_gangBegun s.core.cluster op.members
  refine ⟨_, exec_gangMeet_meet (Core.brings_of_atJoint hown) hagrees, fun p hp => ?_, fun p => ⟨?_, hframe p⟩⟩
  · rw [heach p hp, Core.beginJoint_flight (hjoint p hp)]
  · by_cases hp : p ∈ gangCores s.core.cluster op.members
    · rw [heach p hp, Core.beginJoint_tiles]
    · rw [hframe p hp]

/-- Where the gang does not match, every member's instruction traps and nothing else changes (R49). -/
theorem exec_gangMeet_traps (hown : Spec.AtJoint s.core op) (hstands : s.gangStands s.core op = .fail)
    (hjoint : ∀ p ∈ gangSet s.core op, p = s.core.pid ∨ sameTeam s.core (s.coreAt p) = true → Spec.AtJoint (s.coreAt p) (joint p)) :
    ∃ t, exec (.gangMeet s.core.pid) s = .next t
      ∧ (∀ p ∈ gangSet s.core op, p = s.core.pid ∨ sameTeam s.core (s.coreAt p) = true → (t.coreAt p).c.flight = [(joint p).mismatched])
      ∧ ∀ p, (t.coreAt p).tiles = (s.coreAt p).tiles
        ∧ (p ≠ s.core.pid → p ∉ gangCores s.core.cluster op.members ∨ sameTeam s.core (s.coreAt p) = false → t.coreAt p = s.coreAt p) := by
  obtain ⟨heach, hframe⟩ := State.coreAt_gangFail (gangSet_nodup s.core op) hjoint
  refine ⟨_, exec_gangMeet_fail (Core.brings_of_atJoint hown) hstands, fun p hp hteam => (heach p hp hteam).1, fun p => ⟨?_, fun hne hout => ?_⟩⟩
  · by_cases hp : p ∈ gangSet s.core op ∧ (p = s.core.pid ∨ sameTeam s.core (s.coreAt p) = true)
    · exact (heach p hp.1 hp.2).2
    · rw [hframe p hp]
  · refine hframe p fun ⟨hin, hteam⟩ => ?_
    have hsame := hteam.resolve_left hne
    exact hout.elim (fun hnot => (mem_gangSet.mp hin).elim hnot hne) (fun hforeign => by simp [hforeign] at hsame)

/-- A mask that leaves out its own core or names one that runs no task of the team is wrong by itself (R49; log entry 72). -/
theorem State.gangRight_eq_false (h : op.members.getLsbD s.core.cidx = false
    ∨ ∃ p ∈ gangCores s.core.cluster op.members, p ≠ s.core.pid ∧ sameTeam s.core (s.coreAt p) = false) : s.gangRight s.core op = false := by
  refine Bool.eq_false_iff.mpr fun hright => ?_
  obtain ⟨hself, hteam⟩ := (s.gangRight_iff s.core op).mp hright
  rcases h with hmask | ⟨p, hp, hne, hforeign⟩
  · simp [hself] at hmask
  · have hsame := (hteam p hp).resolve_left hne
    simp [hforeign] at hsame

end

end Sys2Proof.Machine
end

section
/-! One promotion group of a joint multiply-accumulate, in every member of its gang (spec/12_matrix_instructions.md R222, R226 to R229). -/

namespace Sys2Proof.Machine

/-! ### The elements of a promotion group (R227) -/

theorem intPat_lt (t : Int) (w : Nat) : intPat t w < 2 ^ w := by
  have hpos : (0 : Int) < 2 ^ w := by positivity
  have hlt := Int.emod_lt_of_pos t hpos
  have hnonneg := Int.emod_nonneg t hpos.ne'
  unfold intPat
  zify
  rwa [Int.toNat_of_nonneg hnonneg]

theorem sumProducts_fst_lt (adds : List Val) (ps : List (Val × Val)) : (sumProducts adds ps).1 < 2 ^ 32 :=
  deliverIeee_fst_lt .fp32 0 false _

theorem qsat_fst (t : Int) (w : Nat) : (qsat t w).1 = min (max t (-(2 ^ (w - 1)))) (2 ^ (w - 1) - 1) := by
  have hpos : (0 : Int) < 2 ^ (w - 1) := by positivity
  simp only [qsat]
  split
  case isTrue h => simp only; omega
  case isFalse =>
    split <;> (simp only; omega)

/-- The products of a promotion group: B need not be cut where A ends. -/
theorem zip_take_take {α β : Type} (xs : List α) (ys : List β) (n : Nat) : (xs.take n).zip (ys.take n) = (xs.take n).zip ys := by
  induction n generalizing xs ys with
  | zero => simp
  | succ n ih => cases xs <;> cases ys <;> simp [ih]

theorem mmacElem_fst (f p g : Nat) (a b : List Val) (c : Nat) : (mmacElem f p g a b c).1 = Spec.macGroup f p a b c g := by
  simp only [mmacElem, Spec.macGroup]
  split
  case isTrue => simp only [groupInt, qsat_fst, zip_take_take]
  case isFalse => rfl

theorem macGroup_lt (f p g : Nat) (a b : List Val) (c : Nat) : Spec.macGroup f p a b c g < 2 ^ 32 := by
  unfold Spec.macGroup
  split
  · exact intPat_lt _ _
  · exact sumProducts_fst_lt _ _

/-! ### A tile takes a promotion group (R226 to R228) -/

theorem Tile.at_withTag (t : Tile) {g : TileTag} (hg : g ≠ .raw) (i j : Nat) : (t.withTag g).at i j = t.at i j := by
  unfold Tile.withTag
  split
  next hraw =>
    simp only [Tile.at, hg, hraw, if_true, if_false]
    by_cases h : 16 * i + j < 256 <;> simp [h]
  next => rfl

theorem Tile.withTag_tag_ne_raw (t : Tile) {g : TileTag} (hg : g ≠ .raw) : (t.withTag g).tag ≠ .raw := by
  unfold Tile.withTag
  split
  · exact hg
  · assumption

/-- The first `n` elements of a tile put one after another, row-major, with the effects of each. -/
def Tile.putAll (t : Tile) (value : Nat → Nat × Eff) (n : Nat) : Tile × Eff :=
  (List.range n).foldl (fun acc m => (acc.1.put (m / 16) (m % 16) (value m).1, acc.2.join (value m).2)) (t, Eff.none)

theorem Tile.putAll_succ (t : Tile) (value : Nat → Nat × Eff) (n : Nat) :
    (t.putAll value (n + 1)).1 = (t.putAll value n).1.put (n / 16) (n % 16) (value n).1 := by
  rw [Tile.putAll, List.range_succ, List.foldl_append]
  rfl

theorem Tile.putAll_tag (t : Tile) (value : Nat → Nat × Eff) (n : Nat) : (t.putAll value n).1.tag = t.tag := by
  induction n with
  | zero => rfl
  | succ n ih => rw [Tile.putAll_succ]; exact ih

theorem Tile.putAll_elems (t : Tile) (value : Nat → Nat × Eff) {n m : Nat} (hm : m < n) (hlt : m < 256) :
    (t.putAll value n).1.elems[m]? = some (.ofNat 32 (value m).1) := by
  induction n with
  | zero => omega
  | succ n ih =>
    have hplace : 16 * (n / 16) + n % 16 = n := Nat.div_add_mod n 16
    rw [Tile.putAll_succ, Tile.put, hplace, Vector.getElem?_setIfInBounds]
    by_cases hmn : n = m
    · simp [hmn, hlt]
    · rw [if_neg hmn, ih (by omega)]

theorem Tile.putAll_at (t : Tile) (value : Nat → Nat × Eff) (htag : t.tag ≠ .raw) {i j : Nat} (hi : i < 16) (hj : j < 16)
    (hlt : (value (16 * i + j)).1 < 2 ^ 32) : (t.putAll value 256).1.at i j = (value (16 * i + j)).1 := by
  have helem := t.putAll_elems value (n := 256) (m := 16 * i + j) (by omega) (by omega)
  rw [Tile.at, Tile.putAll_tag, if_neg htag, helem, Option.getD_some, BitVec.toNat_ofNat, Nat.mod_eq_of_lt hlt]

/-- The tag of the tiles into which a format accumulates (R228). -/
def accTag (f : Nat) : TileTag := if f = 2 then .i32 else .fp32

theorem accTag_ne_raw (f : Nat) : accTag f ≠ .raw := by
  unfold accTag
  split <;> decide

/-- Element `m`, row-major, of a tile after a promotion group, with its effects. -/
def groupValue (f p g : Nat) (t : Tile) (a b : List (List Val)) (m : Nat) : Nat × Eff :=
  mmacElem f p g ((a[m / 16]?).getD []) ((b[m % 16]?).getD []) ((t.withTag (accTag f)).at (m / 16) (m % 16))

theorem mmacTileStep_eq (f p g : Nat) (t : Tile) (a b : List (List Val)) :
    mmacTileStep f p g t a b = (t.withTag (accTag f)).putAll (groupValue f p g t a b) 256 := rfl

theorem mmacTileStep_at (f p g : Nat) (t : Tile) (a b : List (List Val)) {i j : Nat} (hi : i < 16) (hj : j < 16) :
    (mmacTileStep f p g t a b).1.at i j = Spec.macGroup f p ((a[i]?).getD []) ((b[j]?).getD []) (t.at i j) g := by
  have hrow : (16 * i + j) / 16 = i := by omega
  have hcol : (16 * i + j) % 16 = j := by omega
  have hvalue : (groupValue f p g t a b (16 * i + j)).1 = Spec.macGroup f p ((a[i]?).getD []) ((b[j]?).getD []) (t.at i j) g := by
    rw [groupValue, hrow, hcol, mmacElem_fst, Tile.at_withTag t (accTag_ne_raw f)]
  rw [mmacTileStep_eq, Tile.putAll_at _ _ (t.withTag_tag_ne_raw (accTag_ne_raw f)) hi hj (by rw [hvalue]; exact macGroup_lt _ _ _ _ _ _), hvalue]

/-! ### The members of a gang that has met (R49, R222) -/

/-- What a core brings to the next move of a gang: the core whose instruction moves, or another member. -/
def State.gangHead (s : State) (op : LongOp) (p : Nat) : Option (Nat × LongOp) :=
  match (if p = s.core.pid then some op else s.partner s.core op p) with
  | some o => if (s.coreAt p).atHead o then some (p, o) else none
  | none => none

theorem State.gangHeads_eq (s : State) (op : LongOp) : s.gangHeads op = (gangCores s.core.cluster op.members).mapM (s.gangHead op) := rfl

theorem State.gangHead_some {s : State} {op : LongOp} {p : Nat} {h : Nat × LongOp} (hsome : s.gangHead op p = some h) :
    h.1 = p ∧ (s.coreAt p).atHead h.2 = true ∧ (p ≠ s.core.pid → (s.partner s.core op p).isSome = true) := by
  unfold State.gangHead at hsome
  split at hsome
  next o ho =>
    obtain ⟨hhead, heq⟩ := Option.ite_none_right_eq_some.mp hsome
    cases heq
    exact ⟨rfl, hhead, fun hne => by rw [if_neg hne] at ho; rw [ho]; rfl⟩
  next => cases hsome

/-- A map that may fail and does not has an answer for every element, in their order. -/
theorem mapM_some {α β : Type} {f : α → Option β} {xs : List α} {ys : List β} (h : xs.mapM f = some ys) :
    List.Forall₂ (fun x y => f x = some y) xs ys := by
  induction xs generalizing ys with
  | nil => cases h; exact .nil
  | cons x xs ih =>
    simp only [List.mapM_cons, Option.bind_eq_bind, Option.bind_eq_some_iff] at h
    obtain ⟨y, hy, zs, hzs, hcons⟩ := h
    cases hcons
    exact .cons hy (ih hzs)

/-- What a gang brings is one instruction of each core that the mask names, in their order, and no other member's is missing. -/
theorem State.gangHeads_each {s : State} {op : LongOp} {pids : List Nat} {heads : List (Nat × LongOp)}
    (h : List.Forall₂ (fun p x => s.gangHead op p = some x) pids heads) :
    heads.map (·.1) = pids ∧ ∀ p ∈ pids, p ≠ s.core.pid → (s.partner s.core op p).isSome = true := by
  induction h with
  | nil => exact ⟨rfl, by simp⟩
  | cons hhead _ ih =>
    obtain ⟨hpid, -, hpartner⟩ := State.gangHead_some hhead
    exact ⟨by rw [List.map_cons, ih.1, hpid], List.forall_mem_cons.mpr ⟨hpartner, ih.2⟩⟩

theorem State.gangHeads_nodup {s : State} {op : LongOp} {heads : List (Nat × LongOp)} (h : s.gangHeads op = some heads) :
    (heads.map (·.1)).Nodup := by
  rw [(State.gangHeads_each (mapM_some h)).1]
  exact gangCores_nodup _ _

theorem State.gangLost_of_heads {s : State} {op : LongOp} {heads : List (Nat × LongOp)} (h : s.gangHeads op = some heads) :
    s.gangLost op = false := by
  have hpartner := (State.gangHeads_each (mapM_some h)).2
  simp only [State.gangLost, State.partners, List.any_map, List.any_eq_false, List.mem_filter, bne_iff_ne, and_imp, Function.comp]
  intro p hp hne
  simp [Option.isNone_iff_eq_none, Option.isSome_iff_ne_none.mp (hpartner p hp hne)]

/-- Two machines whose cores are the same, whatever order they stand in. -/
structure SameCores (s t : State) : Prop where
  core : t.core = s.core
  coreAt : ∀ p, t.coreAt p = s.coreAt p
  dev : t.dev = s.dev

theorem SameCores.trans {s t u : State} (h : SameCores s t) (h' : SameCores t u) : SameCores s u :=
  ⟨h'.core.trans h.core, fun p => (h'.coreAt p).trans (h.coreAt p), h'.dev.trans h.dev⟩

theorem SameCores.gangHeads {s t : State} (h : SameCores s t) (op : LongOp) : t.gangHeads op = s.gangHeads op := by
  have hhead : t.gangHead op = s.gangHead op := by
    funext p
    simp only [State.gangHead, State.partner, h.core, h.coreAt]
  rw [State.gangHeads_eq, State.gangHeads_eq, h.core, hhead]

/-- A core selected and the other one selected again. -/
theorem State.sameCores_select_back (s : State) (p : Nat) : SameCores s ((s.select p).select s.core.pid) where
  core := by rw [State.select_core, State.coreAt_select, State.coreAt_self]
  coreAt q := by rw [State.coreAt_select, State.coreAt_select]
  dev := by rw [State.select_dev, State.select_dev]

theorem State.tileForeign_congr {s t : State} (h : t.core = s.core) (d : Nat) : t.tileForeign d = s.tileForeign d := by
  rw [State.tileForeign, State.tileForeign, State.taskCtx, State.taskCtx, h]

/-- A tile of the running task is used as it is (R235). -/
theorem State.useTile_of_owned {s : State} {d : Nat} (hforeign : s.tileForeign d = false) (howned : (s.core.getAot d).state = .owned) :
    s.useTile d = .ok s 0 := by
  simp [State.useTile, State.claimTile, hforeign, howned]

theorem TileTag.clash_accTag (f : Nat) : (accTag f).clash f = none := by
  by_cases h : f = 2 <;> simp [accTag, TileTag.clash, h]

/-- A member of a gang that can take the next promotion group of its multiply-accumulate: its instruction is alone in its stream, has a group left, and
accumulates into a tile of its own task that may take the result (R227, R228, R235). -/
structure MacMember (s : State) (p : Nat) (o : LongOp) (f pr d : Nat) (a b : MOperand) : Prop where
  work : o.work = .mmac f pr d a b
  owned : ((s.coreAt p).getAot d).state = .owned
  own : (s.select p).tileForeign d = false
  alone : (s.coreAt p).c.flight = [o]
  left : o.prog < mmacGroups f pr
  tag : ((s.coreAt p).getTile d).tag = .raw ∨ ((s.coreAt p).getTile d).tag = accTag f

section
variable {s t : State} {p : Nat} {o : LongOp} {f pr d : Nat} {a b : MOperand}

theorem MacMember.congr (h : MacMember s p o f pr d a b) (hsame : SameCores s t) : MacMember t p o f pr d a b := by
  obtain ⟨hwork, howned, hown, halone, hleft, htag⟩ := h
  rw [← hsame.coreAt] at howned halone htag
  refine ⟨hwork, howned, ?_, halone, hleft, htag⟩
  rwa [State.tileForeign_congr (s := s.select p) (by rw [State.select_core, State.select_core, hsame.coreAt])]

theorem MacMember.useTiles (h : MacMember s p o f pr d a b) : (s.select p).useTiles ((s.select p).core.jointTiles o) = .ok (s.select p) 0 := by
  obtain ⟨hwork, howned, hown, -⟩ := h
  rw [← State.select_core] at howned
  simp [Core.jointTiles, hwork, State.useTiles, State.useTile_of_owned hown howned]

theorem MacMember.lateTag (h : MacMember s p o f pr d a b) : (s.coreAt p).lateTag o = none := by
  have hclash : ((s.coreAt p).getTile d).tag.clash f = none := by
    rcases h.tag with hraw | hacc
    · rw [hraw]; rfl
    · rw [hacc, TileTag.clash_accTag]
  simp [Core.lateTag, h.work, hclash]

end

theorem State.badTile_of_clean {s : State} (h : s.dev.poison = []) (ts : List Nat) : s.badTile ts = none := by
  simp [State.badTile, h]

/-- Nothing stops the members' tiles from being used, and their cores stay as they are. -/
theorem State.readyTiles_mmac {s : State} {heads : List (Nat × LongOp)} (hclean : s.dev.poison = [])
    (hmac : ∀ h ∈ heads, ∃ f pr d a b, MacMember s h.1 h.2 f pr d a b) : ∃ t, s.readyTiles heads = .on t ∧ SameCores s t := by
  induction heads generalizing s with
  | nil => exact ⟨s, rfl, rfl, fun _ => rfl, rfl⟩
  | cons h heads ih =>
    obtain ⟨p, o⟩ := h
    obtain ⟨f, pr, d, a, b, hhead⟩ := hmac (p, o) List.mem_cons_self
    have hsame := s.sameCores_select_back p
    have htag : (s.select p).core.lateTag o = none := by rw [State.select_core]; exact hhead.lateTag
    have hbad : (s.select p).badTile ((s.select p).core.jointTiles o) = none := State.badTile_of_clean (by rw [State.select_dev, hclean]) _
    obtain ⟨t, hready, ht⟩ := ih (s := (s.select p).select s.core.pid) (by rw [hsame.dev, hclean]) fun h' hmem => by
      obtain ⟨f', pr', d', a', b', hm⟩ := hmac h' (List.mem_cons_of_mem _ hmem)
      exact ⟨f', pr', d', a', b', hm.congr hsame⟩
    refine ⟨t, ?_, hsame.trans ht⟩
    rw [State.readyTiles]
    simp only [hhead.useTiles, htag, hbad]
    exact hready

/-! ### One member takes a promotion group (R222, R227, R229) -/

theorem Core.completeOp_pid (k : Core) (x : StreamId) (op : LongOp) (e : Eff) : (k.completeOp x op e).pid = k.pid := by
  simp [Core.completeOp, Core.dropOp]

theorem Core.completeOp_tiles (k : Core) (x : StreamId) (op : LongOp) (e : Eff) : (k.completeOp x op e).tiles = k.tiles := by
  simp [Core.completeOp, Core.dropOp]

theorem Core.completeOp_flight_alone {k : Core} {o : LongOp} (h : k.c.flight = [o]) (e : Eff) : (k.completeOp .c o e).c.flight = [] :=
  Core.dropOp_flight_alone h

/-- The streams of a core have exited, or not, as they had. -/
def SameExits (k k' : Core) : Prop := k'.a.exited = k.a.exited ∧ k'.c.exited = k.c.exited

theorem Core.setOp_sameExits (k : Core) (x : StreamId) (id : Nat) (f : LongOp → LongOp) : SameExits k (k.setOp x id f) := by
  cases x <;> exact ⟨rfl, rfl⟩

theorem Core.completeOp_sameExits (k : Core) (x : StreamId) (op : LongOp) (e : Eff) : SameExits k (k.completeOp x op e) := by
  cases x <;> exact ⟨rfl, rfl⟩

/-- The rows of an operand of a multiply-accumulate as values (R226). -/
def Core.macRows (k : Core) (f : Nat) (m : MOperand) : List (List Val) :=
  (List.range 16).map (fun r => rowValues f (k.operandRow (mmacRowBytes f) m r))

theorem Core.macRows_get (k : Core) (f : Nat) (m : MOperand) {r : Nat} (hr : r < 16) :
    ((k.macRows f m)[r]?).getD [] = rowValues f (k.operandRow (mmacRowBytes f) m r) := by
  simp [Core.macRows, hr]

/-- The tile of a member after its next promotion group, and the group's effects. -/
def Core.macStep (k : Core) (o : LongOp) (f pr d : Nat) (b : MOperand) (rows : List (List Val)) : Tile × Eff :=
  mmacTileStep f pr o.prog (k.getTile d) rows (k.macRows f b)

section
variable {k : Core} {o : LongOp} {f pr d : Nat} {a b : MOperand} (rows : List (List Val))

theorem Core.mmacMember_last (hwork : o.work = .mmac f pr d a b) (hleft : o.prog < mmacGroups f pr) :
    k.mmacMember o rows true = (k.setTile d (k.macStep o f pr d b rows).1).completeOp .c o (k.macStep o f pr d b rows).2 := by
  simp only [Core.mmacMember, hwork, if_pos hleft, if_true]
  rfl

theorem Core.mmacMember_more (hwork : o.work = .mmac f pr d a b) (hleft : o.prog < mmacGroups f pr) :
    k.mmacMember o rows false = (k.setTile d (k.macStep o f pr d b rows).1).setOp .c o.id
      (fun y => { y.gather (k.macStep o f pr d b rows).2 with prog := min (o.prog + 1) (mmacGroups f pr) }) := by
  simp only [Core.mmacMember, hwork, if_pos hleft, Bool.false_eq_true, if_false]
  rfl

theorem Core.mmacMember_tiles (hwork : o.work = .mmac f pr d a b) (hleft : o.prog < mmacGroups f pr) (last : Bool) :
    (k.mmacMember o rows last).tiles = (k.setTile d (k.macStep o f pr d b rows).1).tiles := by
  cases last
  · rw [Core.mmacMember_more rows hwork hleft, Core.setOp_tiles]
  · rw [Core.mmacMember_last rows hwork hleft, Core.completeOp_tiles]

theorem Core.mmacMember_flight_last (hwork : o.work = .mmac f pr d a b) (hleft : o.prog < mmacGroups f pr) (halone : k.c.flight = [o]) :
    (k.mmacMember o rows true).c.flight = [] := by
  rw [Core.mmacMember_last rows hwork hleft]
  exact Core.completeOp_flight_alone (k := k.setTile d _) halone _

theorem Core.mmacMember_flight_more (hwork : o.work = .mmac f pr d a b) (hleft : o.prog < mmacGroups f pr) (halone : k.c.flight = [o]) :
    (k.mmacMember o rows false).c.flight.map (fun y => y.prog) = [o.prog + 1] := by
  rw [Core.mmacMember_more rows hwork hleft, Core.setOp_flight_alone (k := k.setTile d _) halone, List.map_singleton, Nat.min_eq_left hleft]

end

theorem Core.mmacMember_pid (k : Core) (o : LongOp) (rows : List (List Val)) (last : Bool) : (k.mmacMember o rows last).pid = k.pid := by
  simp only [Core.mmacMember]
  split
  · split
    · rw [Core.completeOp_pid, Core.setTile_pid]
    · rw [Core.setOp_pid, Core.setTile_pid]
  · rfl

theorem Core.mmacMember_sameExits (k : Core) (o : LongOp) (rows : List (List Val)) (last : Bool) : SameExits k (k.mmacMember o rows last) := by
  simp only [Core.mmacMember]
  split
  · split
    · exact Core.completeOp_sameExits _ _ _ _
    · exact Core.setOp_sameExits _ _ _ _
  · exact ⟨rfl, rfl⟩

/-! ### The whole gang takes a promotion group (R222) -/

/-- Every member is at its last promotion group. -/
def lastGroup (heads : List (Nat × LongOp)) : Bool := heads.all (fun h => decide (h.2.work.groups ≤ h.2.prog + 1))

theorem State.mmacGang_eq {s : State} {heads : List (Nat × LongOp)} {lead : Nat} {lop : LongOp} {f pr d : Nat} {a b : MOperand}
    (hclean : s.dev.poison = []) (hlead : heads.head? = some (lead, lop)) (hwork : lop.work = .mmac f pr d a b) :
    s.mmacGang heads = heads.foldl (fun x h => x.updCore h.1 (fun k => k.mmacMember h.2 ((s.coreAt lead).macRows f a) (lastGroup heads))) s := by
  cases heads with
  | nil => cases hlead
  | cons h rest =>
    cases hlead
    have hnone : ∀ us : List PoisonUnit, us.find? (fun u => s.dev.poison.contains u) = none := fun us => by simp [hclean]
    simp only [State.mmacGang, hwork, hnone]
    rfl

/-- The members' cores as one promotion group of a gang leaves them (R222). -/
def State.groupDone (s : State) (heads : List (Nat × LongOp)) (rows : List (List Val)) : State :=
  heads.foldl (fun x h => x.updCore h.1 (fun k => k.mmacMember h.2 rows (lastGroup heads))) s

theorem State.coreAt_groupDone (s : State) {heads : List (Nat × LongOp)} (rows : List (List Val)) (hnodup : (heads.map (·.1)).Nodup) :
    ∀ h ∈ heads, (s.groupDone heads rows).coreAt h.1 = (s.coreAt h.1).mmacMember h.2 rows (lastGroup heads) :=
  (State.coreAt_foldl_each Prod.fst _ _ s heads hnodup fun h _ x hx =>
    ⟨(x.coreAt_updCore h.1 _ (fun k => k.mmacMember_pid h.2 rows (lastGroup heads))).trans
        (congrArg (fun k => Core.mmacMember k h.2 rows (lastGroup heads)) hx),
      fun _ hp => x.coreAt_updCore_of_ne _ (fun k => k.mmacMember_pid h.2 rows (lastGroup heads)) hp⟩).1

theorem State.updCore_core_pid (s : State) (p : Nat) (f : Core → Core) : (s.updCore p f).core.pid = s.core.pid := by
  unfold State.updCore State.setCore
  split
  next h => exact h.symm
  next => rfl

theorem State.groupDone_core_pid (s : State) (heads : List (Nat × LongOp)) (rows : List (List Val)) :
    (s.groupDone heads rows).core.pid = s.core.pid := by
  unfold State.groupDone
  generalize lastGroup heads = last
  induction heads generalizing s with
  | nil => rfl
  | cons h heads ih => exact (ih _).trans (s.updCore_core_pid h.1 _)

/-- The core whose instruction moves is a member, and none of its streams exits. -/
theorem State.groupDone_sameExits {s : State} {heads : List (Nat × LongOp)} (rows : List (List Val)) (hnodup : (heads.map (·.1)).Nodup)
    {op : LongOp} (hin : (s.core.pid, op) ∈ heads) : SameExits s.core (s.groupDone heads rows).core := by
  have hown := s.coreAt_groupDone rows hnodup _ hin
  rw [State.coreAt_self, ← s.groupDone_core_pid heads rows, State.coreAt_self] at hown
  rw [hown]
  exact Core.mmacMember_sameExits _ _ _ _

/-- A task of which a stream has not exited has not ended (R41). -/
theorem State.settleEnd_of_not_exited {s : State} (h : ¬ (s.core.a.exited = true ∧ s.core.c.exited = true)) : s.settleEnd = s := by
  have hgoes : ¬ (s.core.task.isSome && s.core.a.exited && s.core.c.exited) = true := by
    simpa [and_assoc] using fun _ ha => Bool.eq_false_iff.mpr fun hc => h ⟨ha, hc⟩
  exact if_neg hgoes

/-! ### One move of a joint multiply-accumulate -/

section
variable {s : State} {op lop : LongOp} {heads : List (Nat × LongOp)} {lead : Nat} {lf lp ld : Nat} {la lb : MOperand}

theorem State.gangMove_mmac (hclean : s.dev.poison = []) (hheads : s.gangHeads op = some heads) (hlead : heads.head? = some (lead, lop))
    (hlwork : lop.work = .mmac lf lp ld la lb) (hown : ∃ f pr d a b, op.work = .mmac f pr d a b) (hseen : s.gangUnseen heads = false)
    (hmoves : ∀ h ∈ heads, (s.coreAt h.1).selfMoves h.2 = true) (hmac : ∀ h ∈ heads, ∃ f pr d a b, MacMember s h.1 h.2 f pr d a b) :
    ∃ t, SameCores s t ∧ s.gangMove op = .on (t.groupDone heads ((s.coreAt lead).macRows lf la)) := by
  obtain ⟨t, hready, hsame⟩ := State.readyTiles_mmac hclean hmac
  obtain ⟨f, pr, d, a, b, hwork⟩ := hown
  have hgoes : (!heads.all (fun h => (s.coreAt h.1).selfMoves h.2) || s.gangUnseen heads) = false := by
    rw [List.all_eq_true.mpr hmoves, hseen]
    rfl
  have hnotFast : s.fastBad s.core op = false := by simp [State.fastBad, Work.fastTile, hwork]
  have hstill : (t.gangHeads op).isNone = false := by rw [hsame.gangHeads, hheads]; rfl
  refine ⟨t, hsame, ?_⟩
  rw [State.groupDone, ← hsame.coreAt lead, ← State.mmacGang_eq (by rw [hsame.dev, hclean]) hlead hlwork]
  simp only [State.gangMove, State.gangLost_of_heads hheads, hheads, hnotFast, hgoes, hready, hstill, hwork]
  rfl

/-- A multiply-accumulate that is alone in its stream moves with its gang. -/
theorem State.opMove_mmac (hclean : s.dev.poison = []) (hwork : ∃ f pr d a b, op.work = .mmac f pr d a b) (halone : s.core.c.flight = [op])
    (hmoves : s.core.selfMoves op = true) : s.opMove .c op = s.gangMove op := by
  obtain ⟨f, pr, d, a, b, hwork⟩ := hwork
  have hmatrix : (Work.mmac f pr d a b).isMatrix = true := rfl
  have hpoison : s.popPoisoned op = false := by simp [State.popPoisoned, hclean]
  have hhead : s.core.matrixHead = some op := by simp [Core.matrixHead, halone, hwork, hmatrix]
  simp [State.opMove, hmoves, hpoison, State.matrixMove, hhead, hwork, hmatrix]

/-- LONG_OP_COMPLETE moves an instruction that is alone in the C-stream of the core whose turn it is (R364). -/
theorem exec_longOpComplete_alone {t : State} (halone : s.core.c.flight = [op]) (hwork : ∃ f pr d a b, op.work = .mmac f pr d a b)
    (hmove : s.opMove .c op = .on t) : exec (.longOpComplete s.core.pid .c 0 1) s = .next (t.settleEnd.select s.core.pid) := by
  obtain ⟨f, pr, d, a, b, hwork⟩ := hwork
  have hat : s.opAt .c 0 = some op := by simp [State.opAt, Core.str, halone]
  have hfind : (s.core.str .c).flight.find? (fun o => o.id == op.id) = some op := by simp [Core.str, halone]
  have hlist : s.takeList .c op = (s, op) := by simp [State.takeList, hwork]
  have hgoes : s.goOn .c op.id 1 = t := by simp only [State.goOn, hfind, hlist, hmove]
  change execLongOpComplete s.core.pid .c 0 1 s = _
  simp only [execLongOpComplete, State.onCore, State.select_self, hat, hgoes]

/-- One move of a gang's multiply-accumulate is one promotion group in each member's core (R222, R227). -/
theorem exec_longOpComplete_gang (hclean : s.dev.poison = []) (hheads : s.gangHeads op = some heads) (hlead : heads.head? = some (lead, lop))
    (hlwork : lop.work = .mmac lf lp ld la lb) (hin : (s.core.pid, op) ∈ heads) (hseen : s.gangUnseen heads = false)
    (hmoves : ∀ h ∈ heads, (s.coreAt h.1).selfMoves h.2 = true) (hexits : ¬ (s.core.a.exited = true ∧ s.core.c.exited = true))
    (hmac : ∀ h ∈ heads, ∃ f pr d a b, MacMember s h.1 h.2 f pr d a b) :
    ∃ t, exec (.longOpComplete s.core.pid .c 0 1) s = .next t
      ∧ ∀ h ∈ heads, t.coreAt h.1 = (s.coreAt h.1).mmacMember h.2 ((s.coreAt lead).macRows lf la) (lastGroup heads) := by
  have hnodup := State.gangHeads_nodup hheads
  obtain ⟨f, pr, d, a, b, hown⟩ := hmac _ hin
  have hwork : ∃ f pr d a b, op.work = .mmac f pr d a b := ⟨f, pr, d, a, b, hown.work⟩
  have halone : s.core.c.flight = [op] := by
    rw [← s.coreAt_self]
    exact hown.alone
  have hself : s.core.selfMoves op = true := by
    rw [← s.coreAt_self]
    exact hmoves _ hin
  obtain ⟨t, hsame, hgang⟩ := State.gangMove_mmac hclean hheads hlead hlwork hwork hseen hmoves hmac
  obtain ⟨ha, hc⟩ := State.groupDone_sameExits (s := t) ((s.coreAt lead).macRows lf la) hnodup (by rw [hsame.core]; exact hin)
  have hend : (t.groupDone heads ((s.coreAt lead).macRows lf la)).settleEnd = t.groupDone heads ((s.coreAt lead).macRows lf la) :=
    State.settleEnd_of_not_exited (by rwa [ha, hc, hsame.core])
  refine ⟨_, exec_longOpComplete_alone halone hwork ((State.opMove_mmac hclean hwork halone hself).trans hgang), fun h hh => ?_⟩
  rw [State.coreAt_select, hend, t.coreAt_groupDone _ hnodup h hh, hsame.coreAt]

end

end Sys2Proof.Machine

namespace Sys2Proof.Proofs

open Sys2Proof.Machine Sys2Proof.Safety

/-- Settles O43: a gang whose members agree begins (`exec_gangMeet_begins`), any other traps (`exec_gangMeet_traps`), and one move of its
multiply-accumulate changes each member's core as `Core.mmacMember` does. That a wrong MASK is found at once is the model's choice (log entry 72), and
that the whole gang moves together is its reading (log entry 24). -/
theorem gangsMeet : Obligations.GangsMeet := by
  unfold Obligations.GangsMeet
  refine ⟨?meet, ?run⟩
  case meet =>
    rintro s op pids joint rfl hown hjoint
    have hat : Spec.AtJoint s.core op := by
      have hself := hjoint _ (.inr rfl) (.inl rfl)
      rwa [State.coreAt_self, hown] at hself
    refine ⟨fun hself hteam hsame => exec_gangMeet_begins hat hself hteam (fun p hp => hjoint p (.inl hp) (hteam p hp)) hsame, fun hwrong => ?_⟩
    have hstands : s.gangStands s.core op = .fail :=
      State.gangStands_fail (joint := joint)
        (fun hright p hp => Core.brings_of_atJoint (hjoint p (.inl hp) (((s.gangRight_iff s.core op).mp hright).2 p hp)))
        ((or_assoc.mpr hwrong).imp_left State.gangRight_eq_false)
    obtain ⟨t, ht, htrap, hkeep⟩ := exec_gangMeet_traps hat hstands (fun p hp => hjoint p (mem_gangSet.mp hp))
    exact ⟨t, ht, fun p hp => htrap p (mem_gangSet.mpr hp), hkeep⟩
  case run =>
    intro s heads op lop lead lf lp ld la lb halone _ hclean hheads hlead hin hlwork hseen hmoves hexits hmembers
    have hmac : ∀ h ∈ heads, ∃ f pr d a b, MacMember s h.1 h.2 f pr d a b := fun h hh => by
      obtain ⟨f, pr, d, a, b, hwork, -, howned, hforeign, hflight, hleft, htag⟩ := hmembers h hh
      exact ⟨f, pr, d, a, b, hwork, howned, hforeign, hflight, hleft, htag⟩
    obtain ⟨t, ht, hcores⟩ := exec_longOpComplete_gang hclean hheads hlead hlwork hin hseen hmoves hexits hmac
    refine ⟨t, ht, fun h hh hf hp hd ha hb hwork => ?_⟩
    obtain ⟨f, pr, d, a, b, hm⟩ := hmac h hh
    cases hm.work.symm.trans hwork
    rw [hcores h hh]
    refine ⟨fun hall => ?last, fun hmore => ?more, _, Core.mmacMember_tiles _ hwork hm.left _, fun r j hr hj => ?element⟩
    case last =>
      have hlast : lastGroup heads = true := List.all_eq_true.mpr fun x hx => decide_eq_true (hall x hx).le
      rw [hlast, Core.mmacMember_flight_last _ hwork hm.left hm.alone]
    case more =>
      have hlast : lastGroup heads = false := by
        refine Bool.eq_false_iff.mpr fun hall => ?_
        have hle := of_decide_eq_true (List.all_eq_true.mp hall h hh)
        rw [hwork] at hle
        exact absurd hmore (Nat.not_lt.mpr hle)
      rw [hlast, Core.mmacMember_flight_more _ hwork hm.left hm.alone]
    case element =>
      rw [Core.macStep, mmacTileStep_at _ _ _ _ _ _ hr hj, Core.macRows_get _ _ _ hr, Core.macRows_get _ _ _ hj]

end Sys2Proof.Proofs
end

section
/-! Level units: the blocks of a front and the levels that a home unit knows after an update, the tasks that a front starts, and the records that its
handlers edit (spec/04_time_levels.md R63 to R70, R80). -/

namespace Sys2Proof.Machine

/-! ### Blocks and known levels read what was last put there -/

/-- The model's update at one place is the library's. -/
theorem modifyAt_eq_modify {α : Type} (g : α → α) (n : Nat) (xs : List α) : modifyAt g n xs = xs.modify n g := by
  induction xs generalizing n with
  | nil => simp [modifyAt]
  | cons x xs ih => cases n <;> simp [modifyAt, ih]

section
variable {f : Front} {b : Nat}

theorem Front.block_setBlock (hb : b < f.blocks.length) (g : Block → Block) : (f.setBlock b g).block b = g (f.block b) := by
  simp [Front.block, Front.setBlock, modifyAt_eq_modify, hb]

theorem Front.block_setBlock_of_ne {x : Nat} (hx : x ≠ b) (g : Block → Block) : (f.setBlock b g).block x = f.block x := by
  rw [Front.block, Front.setBlock, modifyAt_eq_modify, List.getElem?_modify_ne g f.blocks hx.symm, Front.block]

theorem Front.knownAt_learn {h : Nat} {ls : List (BitVec 32)} (hls : f.known[h]? = some ls) (hb : b < ls.length) (l : BitVec 32) :
    (f.learn h b l).knownAt h b = l := by
  simp [Front.knownAt, Front.learn, modifyAt_eq_modify, hls, hb]

/-- What a unit learns of a block changes no other level that it knows. -/
theorem Front.knownAt_learn_of_ne_block {x : Nat} (hx : x ≠ b) (h j : Nat) (l : BitVec 32) : (f.learn h b l).knownAt j x = f.knownAt j x := by
  simp only [Front.knownAt, Front.learn, modifyAt_eq_modify, List.getElem?_modify]
  cases f.known[j]? with
  | none => rfl
  | some ls =>
    by_cases hj : h = j
    · simp [hj, List.getElem?_modify_ne _ ls hx.symm]
    · simp [hj]

/-- What a unit learns reaches no other unit (R65). -/
theorem Front.knownAt_learn_of_ne_home {h j : Nat} (hj : j ≠ h) (x : Nat) (l : BitVec 32) : (f.learn h b l).knownAt j x = f.knownAt j x := by
  rw [Front.knownAt, Front.learn, modifyAt_eq_modify, List.getElem?_modify_ne _ f.known hj.symm, Front.knownAt]

end

/-- Dispatch withdraws the oldest entry of the ring (R63, R69). -/
theorem Block.dispatch_withdraws_oldest (x : Block) (pid : Nat) : (x.dispatch pid).valid.getLsbD (x.hdepth - 1) = false := by
  have hbit : (x.dispatch pid).valid.getLsbD (x.hdepth - 1)
      = (x.valid.getLsbD (x.hdepth - 1) && (decide (x.hdepth - 1 < 4) && !(decide (x.hdepth - 1 < 4)))) := by
    simp only [Block.dispatch, BitVec.getLsbD_and, BitVec.getLsbD_not, BitVec.getLsbD_ofNat, Nat.testBit_two_pow_self, Bool.and_true]
  rw [hbit, Bool.and_not_self, Bool.and_false]

/-! ### Streams that start with several registers (R32, R69) -/

/-- A field that no register write changes is as it was after any number of them. -/
theorem Stream.foldl_setG_keeps {α : Type} (field : Stream → α) (hfield : ∀ st n v, field (Stream.setG st n v) = field st) (st : Stream)
    (regs : List (Nat × Word)) : field (regs.foldl (fun st r => st.setG r.1 r.2) st) = field st := by
  induction regs generalizing st with
  | nil => rfl
  | cons r regs ih => exact (ih _).trans (hfield _ _ _)

theorem Stream.getG_foldl_setG_of_ne (st : Stream) (regs : List (Nat × Word)) {n : Nat} (hn : ∀ p ∈ regs, p.1 ≠ n) :
    (regs.foldl (fun st r => st.setG r.1 r.2) st).getG n = st.getG n := by
  induction regs generalizing st with
  | nil => rfl
  | cons r regs ih =>
    rw [List.foldl_cons, ih _ fun p hp => hn p (List.mem_cons_of_mem r hp), Stream.getG_setG_of_ne _ _ _ _ (hn r List.mem_cons_self)]

/-- Of registers that are all different, each holds what was written to it. -/
theorem Stream.getG_foldl_setG (st : Stream) (regs : List (Nat × Word)) (hkeys : ∀ p ∈ regs, p.1 ≠ 0 ∧ p.1 < 32)
    (hnodup : (regs.map (·.1)).Nodup) : ∀ p ∈ regs, (regs.foldl (fun st r => st.setG r.1 r.2) st).getG p.1 = p.2 := by
  induction regs generalizing st with
  | nil => simp
  | cons r regs ih =>
    obtain ⟨hnot, hrest⟩ := List.nodup_cons.mp hnodup
    intro p hp
    rw [List.foldl_cons]
    rcases List.mem_cons.mp hp with rfl | hp
    · obtain ⟨hzero, hlt⟩ := hkeys p List.mem_cons_self
      rw [Stream.getG_foldl_setG_of_ne _ _ fun r hr heq => hnot (List.mem_map.mpr ⟨r, hr, heq⟩), Stream.getG_setG _ _ _ hzero hlt]
    · exact ih _ (fun r' hr' => hkeys r' (List.mem_cons_of_mem r hr')) hrest p hp

/-- A stream starts at its entry with its first registers, whatever registers they are. -/
theorem entryStream_startsAt_of_nodup (pc : Word) {regs : List (Nat × Word)} (hkeys : ∀ p ∈ regs, p.1 ≠ 0 ∧ p.1 < 32)
    (hnodup : (regs.map (·.1)).Nodup) : Spec.StartsAt (entryStream pc regs) pc regs := by
  have hkeep := fun {α : Type} (field : Stream → α) hfield =>
    Stream.foldl_setG_keeps field hfield { Stream.init with pc := pc } regs
  refine ⟨hkeep Stream.pc (by simp), hkeep Stream.mode (by simp), hkeep Stream.exited (by simp), hkeep Stream.flight (by simp),
    hkeep Stream.wins (by simp), Stream.getG_foldl_setG _ regs hkeys hnodup, fun n hn hne => ?_⟩
  rw [entryStream, Stream.getG_foldl_setG_of_ne _ _ hne]
  simp [Stream.getG, Stream.init, hn]

/-! ### The front of a command, and the front of a task -/

section
variable {s : State} {ctx q : Nat} {c : Command} {f : Front}

theorem State.cmdAt_updFront {seq : BitVec 32} (hcmd : s.cmdAt ctx q seq = some c) (hfront : c.front = some f) (g : Front → Front) :
    (s.updFront ctx q seq g).cmdAt ctx q seq = some { c with front := some (g f) } := by
  rw [State.updFront, State.cmdAt_updCmd (f := fun c => { c with front := c.front.map g }) (fun _ h => h) hcmd, hfront, Option.map_some]

/-- The front of a task comes from the command of the task. -/
theorem State.taskFront_eq_some {b : Nat} (h : s.taskFront = some (f, b)) :
    ∃ tk c, s.core.task = some tk ∧ s.cmdAt tk.ctx tk.queue tk.seq = some c ∧ c.front = some f
      ∧ (tk.kind = .update b ∨ tk.kind = .stall b) := by
  unfold State.taskFront at h
  split at h
  · cases h
  · next tk htask =>
    split at h
    · next b' f' hkind hfront =>
      cases h
      obtain ⟨c, hcmd, hfront⟩ := Option.bind_eq_some_iff.mp hfront
      exact ⟨tk, c, htask, hcmd, hfront, .inl hkind⟩
    · next b' f' hkind hfront =>
      cases h
      obtain ⟨c, hcmd, hfront⟩ := Option.bind_eq_some_iff.mp hfront
      exact ⟨tk, c, htask, hcmd, hfront, .inr hkind⟩
    · cases h

theorem State.taskFront_updTaskFront {b : Nat} (h : s.taskFront = some (f, b)) (g : Front → Front) :
    (s.updTaskFront g).taskFront = some (g f, b) := by
  obtain ⟨tk, c, htask, hcmd, hfront, hkind⟩ := State.taskFront_eq_some h
  have hupd : s.updTaskFront g = s.updFront tk.ctx tk.queue tk.seq g := by rw [State.updTaskFront, htask]
  have hcmd1 := State.cmdAt_updFront hcmd hfront g
  rw [State.taskFront, hupd, State.updFront_core, htask]
  rcases hkind with hkind | hkind <;> simp [hkind, hcmd1]

end

/-! ### Tasks that a front starts (R67, R69) -/

section
variable {s t : State} {ctx q : Nat} {c : Command} {f : Front} {k : Kernel} {b : Nat}

/-- The update task starts at the block's entries with its place in the front (R69). -/
theorem Command.updateStart_streams (c : Command) (ctx q : Nat) (k : Kernel) (f : Front) (b : Nat) (vec : Word) (cidx : Nat) (j : Core) :
    Spec.StartsAt (j.begin (c.updateStart ctx q k f b vec cidx)).a (f.block b).ua
        [(1, .ofNat 64 b), (2, .ofNat 64 (f.block b).level.toNat), (3, .ofNat 64 (f.block b).step.toNat), (5, c.args),
         (4, ((f.block b).raddr[(f.block b).hdepth - 1]?).getD 0)]
      ∧ Spec.StartsAt (j.begin (c.updateStart ctx q k f b vec cidx)).c (f.block b).uc
        [(1, .ofNat 64 b), (2, .ofNat 64 (f.block b).level.toNat), (3, .ofNat 64 (f.block b).step.toNat), (5, c.args)] := by
  rw [BitVec.ofNat_toNat, BitVec.ofNat_toNat]
  exact ⟨entryStream_startsAt_of_nodup _ (by simp [Command.updateStart]) (by simp [Command.updateStart]),
    entryStream_startsAt_of_nodup _ (by simp [Command.updateStart]) (by simp [Command.updateStart])⟩

/-- LEVEL_DISPATCH whose task starts (R69). -/
theorem exec_levelDispatch {cluster cidx h : Nat} (hunit : s.unitAt cluster = some (ctx, q, c, f, h)) (hnext : f.nextBlock h = some b)
    (hkernel : c.kernel = some k) (hset : f.coreSet.getLsbD cidx = true) (hcidx : cidx < 8)
    (hidle : (s.coreAt (cluster * 8 + cidx)).task = none) (hparked : c.parked = false) (hclean : s.dev.poison = [])
    (hstart : s.startTask (cluster * 8 + cidx) (c.updateStart ctx q k f b (s.ctxAt ctx).trapVec cidx) = .ok t) :
    exec (.levelDispatch cluster cidx) s
      = .next (t.updFront ctx q c.seq (fun f => f.setBlock b (fun x => x.dispatch (cluster * 8 + cidx)))) := by
  change execLevelDispatch cluster cidx s = _
  simp [execLevelDispatch, hunit, hnext, hkernel, hset, hcidx, hidle, hparked, hclean, hstart]

/-- COMMIT_ARRIVAL of a block of the front (R65). -/
theorem exec_commitArrival {cluster h : Nat} (hunit : s.unitAt cluster = some (ctx, q, c, f, h)) (hb : b < f.blocks.length) :
    exec (.commitArrival cluster b) s = .next (s.updFront ctx q c.seq (fun f => f.learn h b (f.levelOf b))) := by
  change execCommitArrival cluster b s = _
  simp [execCommitArrival, hunit, hb]

theorem State.no_core_updates {seq : BitVec 32}
    (h : ∀ k ∈ s.allCores, ∀ tk x, k.task = some tk → tk.ctx = ctx → tk.queue = q → tk.seq = seq → tk.kind ≠ .update x) :
    s.allCores.any (fun k => k.updates ctx q seq) = false := by
  refine List.any_eq_false.mpr fun k hk hupd => ?_
  obtain ⟨hruns, hkind⟩ := Bool.and_eq_true_iff.mp hupd
  unfold Core.runs at hruns
  cases htask : k.task with
  | none => simp [htask] at hruns
  | some tk =>
    simp only [htask, Bool.and_eq_true, beq_iff_eq] at hruns hkind
    obtain ⟨⟨hctx, hq⟩, hseq⟩ := hruns
    cases hk' : tk.kind with
    | update x => exact h k hk tk x htask hctx hq hseq hk'
    | team => simp [hk'] at hkind
    | stall x => simp [hk'] at hkind

/-- A front that a stall has frozen (R67, R79). -/
def Front.stallFrozen (f : Front) (b : Nat) : Front := { f with frozen := true, stalled := true, freezer := some (0x0E, b) }

/-- STALL whose task starts (R67). -/
theorem exec_stall {i cl : Nat} (hcmd : s.cmdAt ctx q c.seq = some c) (hfront : c.front = some f) (hkernel : c.kernel = some k)
    (hstalled : f.stalledAt = some b) (hphase : c.phase = .placed) (hparked : c.parked = false)
    (hupdates : s.allCores.any (fun k => k.updates ctx q c.seq) = false) (hcl : c.clusters[(f.block b).home]? = some cl)
    (hcore : (List.range 8).find? (fun i => f.coreSet.getLsbD i && (s.coreAt (cl * 8 + i)).task.isNone) = some i)
    (hstart : s.startTask (cl * 8 + i) (c.frontStart ctx q k f b (.stall b) (s.ctxAt ctx).trapVec i) = .ok t) :
    exec (.stall ctx q c.seq) s
      = .next ((t.updCore (cl * 8 + i) (fun x => x.stallEntry b)).updFront ctx q c.seq (fun f => f.stallFrozen b)) := by
  change execStall ctx q c.seq s = _
  simp [execStall, Front.stallFrozen, hcmd, hfront, hkernel, hstalled, hphase, hparked, hupdates, hcl, hcore, hstart]

end

/-! ### Records edited (R80) -/

theorem exec_lvRecordStage {s : State} {f : Front} {b0 : Nat} (hedits : s.editsLevels = true) (hfront : s.taskFront = some (f, b0)) (b : BitVec 16) :
    exec (.lvRecordStage b) s = .next (s.updSys (fun r =>
      { r with lvBlock := b, lvChosen := true,
               lvStaged := if b.toNat < f.blocks.length then (f.block b.toNat).words else Vector.replicate 16 allOnes64 })) := by
  change execLvRecordStage b s = _
  simp [execLvRecordStage, hedits, State.stageRecord, hfront]

theorem exec_lvRecordApply {s : State} {f : Front} {b0 : Nat} (hedits : s.editsLevels = true) (hfront : s.taskFront = some (f, b0)) :
    exec .lvRecordApply s = .next (if f.applyOk s.core.sys.lvBlock.toNat s.core.sys.lvStaged then
      (s.updTaskFront (fun f => f.apply s.core.sys.lvBlock.toNat s.core.sys.lvStaged)).updSys (fun r => { r with lvRefused := false })
      else s.updSys (fun r => { r with lvRefused := true })) := by
  change execLvRecordApply s = _
  simp [execLvRecordApply, hedits, State.applyRecord, hfront]

/-- Of the checks on a staged record (R80): the block is one of the front, and keeps its home. -/
theorem Front.applyOk_block {f : Front} {b : Nat} {w : Vector Word 16} (h : f.applyOk b w = true) :
    b < f.blocks.length ∧ (blockOf w).home = (f.block b).home := by
  simp only [Front.applyOk, Bool.and_eq_true, decide_eq_true_eq, beq_iff_eq] at h
  obtain ⟨⟨⟨⟨⟨⟨⟨⟨hb, -⟩, -⟩, hhome⟩, -⟩, -⟩, -⟩, -⟩, -⟩ := h
  exact ⟨hb, hhome⟩

theorem Front.block_apply {f : Front} {b : Nat} (hb : b < f.blocks.length) (w : Vector Word 16) :
    (f.apply b w).block b
      = { blockOf w with state := (f.block b).state, core := (f.block b).core, newSlot := (f.block b).newSlot } :=
  Front.block_setBlock hb _

theorem Front.block_apply_of_ne {f : Front} {b x : Nat} (hx : x ≠ b) (w : Vector Word 16) : (f.apply b w).block x = f.block x :=
  Front.block_setBlock_of_ne hx _

/-- The first word of a record holds the block's level and step (R58). -/
theorem blockOf_level_step (w : Vector Word 16) :
    (blockOf w).level = (w[0]).truncate 32 ∧ (blockOf w).step = (w[0]).extractLsb' 32 16 := by
  constructor <;> apply BitVec.eq_of_toNat_eq <;> simp [blockOf, bitField, Nat.shiftRight_eq_div_pow]

end Sys2Proof.Machine

namespace Sys2Proof.Proofs

open Sys2Proof.Machine Sys2Proof.Safety

/-- Settles O52: a dispatch and a stall start their task as `Core.begin` leaves its core, and then change one front; an arrival and a record edit
change the front alone. When a level reaches another unit is the agenda's choice (log entry 53), and some fields of a stall task are the model's
reading (log entry 47). -/
theorem levelUnitEventsComplete : Obligations.LevelUnitEventsComplete := by
  unfold Obligations.LevelUnitEventsComplete
  refine ⟨fun s ctx q c f k hcmd hfront hkernel hplain hparked => ⟨?dispatch, ?arrival, ?stall⟩,
    fun s f b0 hedits htask => ⟨?stage, fun b w hb hw => ?apply⟩⟩
  case dispatch =>
    intro cluster cidx h b hunit hnext hb hset hcidx hidle hclean
    obtain ⟨t, hstart, honly, hcore⟩ :=
      s.startTask_plain (cluster * 8 + cidx) (c.updateStart ctx q k f b (s.ctxAt ctx).trapVec cidx) hplain
    have hcmd1 := State.cmdAt_updFront ((State.cmdAt_congr honly.contexts).trans hcmd) hfront
      (fun f => f.setBlock b (fun x => x.dispatch (cluster * 8 + cidx)))
    refine ⟨_, _, f.setBlock b (fun x => x.dispatch (cluster * 8 + cidx)),
      { (c.updateStart ctx q k f b (s.ctxAt ctx).trapVec cidx).task with since := (s.coreAt (cluster * 8 + cidx)).nextId + 1 },
      exec_levelDispatch hunit hnext hkernel hset hcidx hidle hparked hclean hstart, hcmd1, rfl, ?_⟩
    rw [State.coreAt_congr (State.updFront_core ..) (State.updFront_cores ..), hcore, Front.block_setBlock hb]
    obtain ⟨ha, hc⟩ := c.updateStart_streams ctx q k f b (s.ctxAt ctx).trapVec cidx (s.coreAt (cluster * 8 + cidx))
    exact ⟨rfl, rfl, rfl, rfl, Core.begin_startsClear _ _, ha, hc, rfl, rfl, Block.dispatch_withdraws_oldest _ _,
      fun x hx => Front.block_setBlock_of_ne hx _, rfl, honly.pool, honly.host⟩
  case arrival =>
    intro cluster b h ls hunit hls hlearn hb
    exact ⟨_, _, f.learn h b (f.levelOf b), exec_commitArrival hunit hb,
      State.cmdAt_updFront hcmd hfront (fun f => f.learn h b (f.levelOf b)), rfl, Front.knownAt_learn hls hlearn _,
      fun x hx => Front.knownAt_learn_of_ne_block hx h h _, fun j x hj => Front.knownAt_learn_of_ne_home hj x _, rfl, rfl, rfl⟩
  case stall =>
    intro b i cl hstalled hphase hupdates hcl hfind
    obtain ⟨t, hstart, honly, hcore⟩ :=
      s.startTask_plain (cl * 8 + i) (c.frontStart ctx q k f b (.stall b) (s.ctxAt ctx).trapVec i) hplain
    have hcmd1 := State.cmdAt_updFront (s := t.updCore (cl * 8 + i) (fun x => x.stallEntry b))
      ((State.cmdAt_congr ((State.updCore_contexts ..).trans honly.contexts)).trans hcmd) hfront (fun f => f.stallFrozen b)
    refine ⟨_, _, f.stallFrozen b, exec_stall hcmd hfront hkernel hstalled hphase hparked (State.no_core_updates hupdates) hcl hfind hstart,
      hcmd1, rfl, rfl, rfl, ?_⟩
    rw [State.coreAt_congr (State.updFront_core ..) (State.updFront_cores ..),
      State.coreAt_updCore t _ (fun x => x.stallEntry b) (fun _ => rfl), hcore]
    exact ⟨rfl, rfl, rfl, rfl, rfl, rfl⟩
  case stage => exact exec_lvRecordStage hedits htask
  case apply =>
    subst hb hw
    refine ⟨fun hok => ?placed, fun hrefused => ?refused⟩
    case placed =>
      obtain ⟨hb, hhome⟩ := Front.applyOk_block hok
      obtain ⟨hlevel, hstep⟩ := blockOf_level_step s.core.sys.lvStaged
      refine ⟨_, f.apply s.core.sys.lvBlock.toNat s.core.sys.lvStaged, b0, (exec_lvRecordApply hedits htask).trans (by rw [if_pos hok]), ?_,
        State.taskFront_updTaskFront htask _, rfl, fun x hx => Front.block_apply_of_ne hx _, ?_⟩
      · simp
      · rw [Front.block_apply hb]
        exact ⟨hlevel, hstep, rfl, rfl, rfl, hhome, by simp⟩
    case refused => rw [exec_lvRecordApply hedits htask, hrefused]; rfl

end Sys2Proof.Proofs
end

section
/-! Fetch, issue and lookahead windows. -/

namespace Sys2Proof.Machine

open Sys2Proof.Safety

/-! ### What a fetch leaves (R82, R199) -/

theorem State.fetchReach_onlyDevice {s : State} (h : Spec.NoLineHeld s) (pc : Word) : OnlyDevice s (s.fetchReach pc) := by
  unfold State.fetchReach
  split
  · rw [State.recall_of_noLineHeld h]
    exact s.touch_onlyDevice _ _ _
  · exact .refl s

/-- Where no engine holds a line a fetch changes neither the cores nor memory. -/
theorem State.toFetch_onlyDevice {s : State} (h : Spec.NoLineHeld s) : OnlyDevice s s.toFetch := by
  have hlo := State.fetchReach_onlyDevice h s.cur.pc
  unfold State.toFetch
  split
  · exact .refl s
  · dsimp only
    split
    · split
      · exact hlo.trans (State.fetchReach_onlyDevice (hlo.noLineHeld h) _)
      · exact hlo
    · exact hlo

theorem OnlyDevice.core {s t : State} (h : OnlyDevice s t) : t.core = s.core := by rw [h]

/-- A halfword with bit 0 clear is an instruction by itself (R82). -/
theorem State.fetch_half {s : State} {lo : List Byte} {i : Instr} {n : Nat} (hlo : s.fetchHalf s.cur.pc = .ok lo)
    (heven : bytesNat lo % 2 = 0) (hdec : decode lo = .ok i n) : s.fetch = .instr i := by
  simp [State.fetch, hlo, heven, hdec]

/-- Any other halfword is the first of two (R82). -/
theorem State.fetch_pair {s : State} {lo hi : List Byte} {i : Instr} {n : Nat} (hlo : s.fetchHalf s.cur.pc = .ok lo)
    (hodd : bytesNat lo % 2 = 1) (hhi : s.fetchHalf (s.cur.pc + 2) = .ok hi) (hdec : decode (lo ++ hi) = .ok i n) : s.fetch = .instr i := by
  have hne : ¬ bytesNat lo % 2 = 0 := by omega
  simp only [State.fetch, hlo, if_neg hne, hhi, hdec]

/-- The stream whose turn it is issues what it fetches. -/
theorem step_stream {s : State} {pid : Nat} {x : StreamId} {rest : List Turn} {i : Instr} (hagenda : s.agenda = .stream pid x :: rest)
    (hfetch : ((({ s with agenda := rest }).select pid).onStream x).toFetch.fetch = .instr i) :
    step s = exec i ((({ s with agenda := rest }).select pid).onStream x).toFetch := by
  simp [step, State.turnNow, hagenda, State.take, State.fetched, hfetch, Todo.go]

/-- An event that comes from the device or from outside happens. -/
theorem step_event {s : State} {e : Instr} {rest : List Turn} (hagenda : s.agenda = .event e :: rest) (hout : outside e = true) :
    step s = exec e { s with agenda := rest } := by
  simp [step, State.turnNow, hagenda, State.take, hout, Todo.go]

/-- Four rows of the table without an encoding are parts of an instruction; any other such row comes from the device or from outside. -/
theorem outside_or_part (e : Instr) : outside e = (e.bits == 0) ∨ (∃ b, e = .lvRecordStage b) ∨ e = .lvRecordApply
    ∨ (∃ w, e = .illegalInstruction w) ∨ ∃ va, e = .fetchProtectionFault va := by
  cases e with
  | lvRecordStage b => exact .inr (.inl ⟨b, rfl⟩)
  | lvRecordApply => exact .inr (.inr (.inl rfl))
  | illegalInstruction w => exact .inr (.inr (.inr (.inl ⟨w, rfl⟩)))
  | fetchProtectionFault va => exact .inr (.inr (.inr (.inr ⟨va, rfl⟩)))
  | _ => exact .inl rfl

theorem outside_of_bits {e : Instr} (hbits : e.bits = 0) (hstage : ∀ b, e ≠ .lvRecordStage b) (happly : e ≠ .lvRecordApply)
    (hillegal : ∀ w, e ≠ .illegalInstruction w) (hfault : ∀ va, e ≠ .fetchProtectionFault va) : outside e = true := by
  obtain h | ⟨b, h⟩ | h | ⟨w, h⟩ | ⟨va, h⟩ := outside_or_part e
  · rw [h, hbits]; rfl
  · exact absurd h (hstage b)
  · exact absurd h happly
  · exact absurd h (hillegal w)
  · exact absurd h (hfault va)

end Sys2Proof.Machine

namespace Sys2Proof.Proofs

open Sys2Proof.Machine Sys2Proof.Safety

/-- Settles O19, from the two forms of a fetch and from what a fetch leaves where no engine holds a line. -/
theorem stepRunsDecodedInstruction : Obligations.StepRunsDecodedInstruction := by
  unfold Obligations.StepRunsDecodedInstruction
  refine ⟨fun s s1 pid x rest lo hi i n hagenda hs1 hlo => ⟨fun hhot => ?frame, fun heven hdec => ?half, fun hodd hhi hdec => ?pair⟩,
    fun s e rest hagenda hbits hstage happly hillegal hfault => step_event hagenda (outside_of_bits hbits hstage happly hillegal hfault)⟩
  case frame =>
    have hheld : Spec.NoLineHeld ((({ s with agenda := rest }).select pid).onStream x) := by
      simpa [Spec.NoLineHeld, State.onStream] using hhot
    have honly := State.toFetch_onlyDevice hheld
    subst hs1
    exact ⟨honly.core, honly.pool.trans (by simp [State.onStream]), honly.host.trans (by simp [State.onStream])⟩
  case half =>
    subst hs1
    exact step_stream hagenda (State.fetch_half hlo heven hdec)
  case pair =>
    subst hs1
    exact step_stream hagenda (State.fetch_pair hlo hodd hhi hdec)

end Sys2Proof.Proofs
end

section
/-! Taking a trap, and what lookahead windows hold back (spec/05_fetch_and_issue.md R87, R88, spec/20_interruption.md R309, R310). -/

namespace Sys2Proof.Machine

open Sys2Proof.Safety

/-! ### A trap of user mode (R309) -/

/-- A trap of user mode at the address at which the stream stands: no register, tile or byte of memory changes. -/
theorem State.takeTrap_trapped (s : State) (cause : Nat) (val ip : Word) (named : Option Nat) (waits : Bool) (hm : s.cur.mode = .user)
    (hc : cause ≠ 0x12) : Spec.Trapped s (s.takeTrap cause val s.cur.pc ip named waits) cause val := by
  rw [State.takeTrap_user s cause val _ _ _ _ hm hc]
  generalize hk : s.core.enterHandler cause val (trapPoint s s.cur.pc ip named waits) = k
  obtain ⟨hf, hv, htiles, -, hspad, -, -, hsel, -, -⟩ := s.core.enterHandler_keeps cause val (trapPoint s s.cur.pc ip named waits)
  obtain ⟨hg, hother, hmode, hpc, hcause, hval, htpc⟩ := s.core.enterHandler_streams cause val (trapPoint s s.cur.pc ip named waits)
  have hqueues := s.core.enterHandler_queues cause val (trapPoint s s.cur.pc ip named waits)
  obtain ⟨hcore, -, -, hpool, hhost, -⟩ := ({ s with core := k } : State).freeze_keeps cause
  have hstamp : (({ s with core := k } : State).freeze cause).stampTrap.core
      = { k with task := k.task.map (fun t => { t with trapAt := (({ s with core := k } : State).freeze cause).dev.clock }) } := by
    rw [State.stampTrap, State.updTask, hcore]
  rw [hk] at hf hv htiles hspad hsel hg hother hmode hpc hcause hval htpc hqueues
  have hcur : (({ s with core := k } : State).freeze cause).stampTrap.cur = k.str s.core.sel := by rw [State.cur, hstamp, ← hsel]; rfl
  rw [Spec.Trapped, hcur, hstamp]
  exact ⟨hcause, hval, htpc, hsel, hpc, hmode, hg, hother, hf, hv, htiles, hqueues, hspad, hpool, hhost⟩

theorem State.trapAt_trapped {s : State} {cause : Nat} (val : Word) (hq : s.quiet = true) (hm : s.cur.mode = .user) (hc : cause ≠ 0x12) :
    Spec.Trapped s (s.trapAt cause val) cause val := by
  rw [State.trapAt, if_pos hq]
  exact s.takeTrap_trapped cause val s.cur.pc none false hm hc

/-! ### What holds an instruction back (R87, R88) -/

/-- With no trap due and nothing poisoned, an admitted instruction without memory accesses meets the windows and the incomplete instructions of its
stream, and then does what its meaning says. -/
theorem issue_windows (fm : Form) (s : State) (k : State → Res) (hissue : s.canIssue = true) (hdue : s.dueTrap.isNone = true)
    (hpoison : s.dev.poison = []) (hw : fm.instr.wellFormed = true) (hs : fm.streams.admits s.core.sel = true) (hi : fm.illegal = false)
    (hp : fm.priv = false) (hmem : fm.mem = .none) :
    (∀ w, s.cur.broken fm = some w → issue fm s k = .next (s.trapAt 0x03 w.pc))
    ∧ (s.cur.broken fm = none →
      (s.cur.awaits fm = true → issue fm s k = .next (s.waitAt .depend))
      ∧ ∀ t, s.cur.awaits fm = false → k (s.issued fm.instr) = .done t → issue fm s k = .next t) := by
  have hact : s.canAct = true := by
    rw [State.canIssue, Bool.and_eq_true] at hissue
    exact hissue.1
  have hdue' : s.dueTrap = none := by simpa using hdue
  have huse : s.poisonedUse fm = none := by simp [State.poisonedUse, hpoison]
  refine ⟨fun w hb => ?_, fun hb => ⟨fun ha => ?_, fun t ha hk => ?_⟩⟩
  · simp [issue, hact, hdue', hissue, hw, hs, hi, hp, hb]
  · simp [issue, hact, hdue', hissue, hw, hs, hi, hp, hb, ha]
  · simp [issue, hact, hdue', hissue, hw, hs, hi, hp, hb, ha, hmem, huse, hk, hpoison]

/-- The g registers that operands name: g0 is no register (R86). -/
theorem flatMap_gRegs (ns : List (BitVec 5)) : ns.flatMap gRegs = (ns.filter (fun n => n ≠ 0)).map (fun n => Reg.g n.toNat) := by
  induction ns with
  | nil => rfl
  | cons n ns ih =>
    by_cases hn : n = 0
    · rw [List.flatMap_cons, ih, gRegs, if_pos hn, List.filter_cons_of_neg (by simpa using hn), List.nil_append]
    · rw [List.flatMap_cons, ih, gRegs, if_neg hn, List.filter_cons_of_pos (by simpa using hn), List.map_cons, List.singleton_append]

end Sys2Proof.Machine

namespace Sys2Proof.Proofs

open Sys2Proof.Machine Sys2Proof.Safety

/-- Settles O12: `issue_windows` on the registers that add names. -/
theorem lookaheadWindows : Obligations.LookaheadWindows := by
  unfold Obligations.LookaheadWindows
  intro s d a b uses hissue hdue hpoison hmode huses
  obtain rfl : uses = gRegs d ++ [a, b].flatMap gRegs := huses.trans (flatMap_gRegs [d, a, b]).symm
  obtain ⟨hbroken, hfree⟩ := issue_windows { instr := .add d a b, streams := .both, uses := gRegs d ++ [a, b].flatMap gRegs } s
    (fun s1 => .done (s1.setG d (s1.g a + s1.g b))) hissue hdue hpoison rfl rfl rfl rfl rfl
  have hmeets : ∀ dests : List Reg, meets (gRegs d ++ [a, b].flatMap gRegs) dests false
      = (gRegs d ++ [a, b].flatMap gRegs).any (fun r => dests.contains r) := fun dests => by simp [meets]
  simp only [Stream.broken, Stream.awaits, Bool.false_and, hmeets] at hbroken hfree
  refine ⟨fun w hw => ⟨fun hq => ⟨_, hbroken w hw, State.trapAt_trapped _ hq hmode (by decide)⟩, fun hq => ⟨_, hbroken w hw, ?_⟩⟩,
    fun hnone => ⟨(hfree hnone).1, fun hfl => ?_⟩⟩
  · simp [State.trapAt, hq]
  · have hdone := (hfree hnone).2 _ hfl rfl
    rwa [State.issued_g, State.issued_g] at hdone

end Sys2Proof.Proofs
end

section
/-! An EXIT that ends a task: a drain of the killed task still runs (spec/20_interruption.md R319, spec/24_retirement.md R363). -/

namespace Sys2Proof.Machine

open Sys2Proof.Safety

/-- An incomplete instruction of user code that is not joint. -/
def LongOp.ofUser (id : Nat) (status : OpStatus) (work : Work) : LongOp :=
  { id := id, pc := 0x1000, word := 0, dests := [], joint := false, part := true, prog := 0, status := status, work := work, tensor := 0, frm := 0,
    frmFsl := 0, mode := .user, members := 1, ordinal := 0, born := 0, promoted := false, netPromoted := false, flags := 0,
    counts := Counts.zero, seen := 0, met := false, past := false, list := [] }

/-- The A-stream stands at its EXIT. The C-stream has exited behind an mspill that stood parked, and that was refused when it was tried again (R364);
behind it stands a drain of tile 3 to scratchpad. -/
def State.exitsBehindRefusal : State :=
  let k := (State.reset.core.ready .a).setTile 3 ⟨.fp32, (Vector.replicate 256 0).set 0 7⟩
  { State.reset with core := { k with c := { k.c with
      flight := [.ofUser 1 (.trapped 0x07 0x4000) (.mspill 1), .ofUser 2 .running (.mdrain 3 (.scratch ⟨0, 0, 0, 0, 64, false⟩) none)] } } }

theorem State.exitsBehindRefusal_ready :
    Ready exitsBehindRefusal ∧ exitsBehindRefusal.core.sel = .a ∧ exitsBehindRefusal.cur.mode = .user := by
  unfold Ready
  decide +kernel

/-- The tag of tile 3 after an instruction, when a next state follows. -/
def tileTagAfter (i : Instr) (s : State) : Option TileTag :=
  match exec i s with
  | .next t => some (t.core.getTile 3).tag
  | _ => none

/-- The refusal kills the task, and its drain goes on to its end: the tile is left raw. -/
theorem State.exitsBehindRefusal_drains : tileTagAfter .exit exitsBehindRefusal = some .raw := by decide +kernel

end Sys2Proof.Machine

namespace Sys2Proof.Proofs

open Sys2Proof.Machine Sys2Proof.Safety

/-- Refutes O60: where the C-stream has exited with a refused instruction behind it, the A-stream's exit in user mode kills the task (R363), whose
drain to scratchpad runs to its end (R319) and zeroes its tile (R231): a tile has changed, and scratchpad with it. -/
theorem not_instructionsKeepTheirFrames : ¬ Obligations.InstructionsKeepTheirFrames := by
  unfold Obligations.InstructionsKeepTheirFrames
  intro hkeeps
  obtain ⟨hready, hsel, hmode⟩ := State.exitsBehindRefusal_ready
  have hdrains := State.exitsBehindRefusal_drains
  obtain ⟨t, ht⟩ : ∃ t, exec .exit State.exitsBehindRefusal = .next t := show ∃ t, execExit _ = .next t from issue_next _ _ _
  obtain ⟨-, -, htiles, -⟩ := (hkeeps .exit _ t (by decide) hready hmode ht).1 hsel
  have htag : (t.core.getTile 3).tag = .fp32 := by
    rw [Core.getTile, htiles]
    decide +kernel
  rw [tileTagAfter, ht] at hdrains
  simp [htag] at hdrains

end Sys2Proof.Proofs
end

section
/-! Lanes of a register: where they lie, and what a packed, a masked and a padded register hold in each of them
(spec/05_fetch_and_issue.md R97, R99, spec/09_number_formats.md R172, R173). -/

namespace Sys2Proof.Machine

/-! ### Fields of a number -/

theorem testBit_bitField (v lo w i : Nat) : (bitField v lo w).testBit i = (decide (i < w) && v.testBit (lo + i)) := by
  rw [bitField, Nat.testBit_mod_two_pow, Nat.testBit_div_two_pow, Nat.add_comm]

/-- A field is read off the bits that lie in it. -/
theorem bitField_congr {u v lo w : Nat} (h : ∀ i, lo ≤ i → i < lo + w → u.testBit i = v.testBit i) : bitField u lo w = bitField v lo w := by
  apply Nat.eq_of_testBit_eq
  intro i
  rw [testBit_bitField, testBit_bitField]
  by_cases hi : i < w
  · rw [h (lo + i) (by omega) (by omega)]
  · simp [hi]

theorem bitField_lt (v lo w : Nat) : bitField v lo w < 2 ^ w := Nat.mod_lt _ (by positivity)

/-- A value put above lower bits is what a field there reads. -/
theorem testBit_add_mul {a lo : Nat} (ha : a < 2 ^ lo) (x i : Nat) :
    (a + x * 2 ^ lo).testBit i = if i < lo then a.testBit i else x.testBit (i - lo) := by
  rw [Nat.add_comm, Nat.mul_comm]
  exact Nat.testBit_two_pow_mul_add x ha i

/-- A field replaced: the bits below and above it stay. -/
theorem testBit_setField (v lo w x i : Nat) :
    (setField v lo w x).testBit i = if lo ≤ i ∧ i < lo + w then x.testBit (i - lo) else v.testBit i := by
  have hlow : v % 2 ^ lo < 2 ^ lo := Nat.mod_lt _ (by positivity)
  have hsplit : v = v % 2 ^ lo + (bitField v lo w + v / 2 ^ (lo + w) * 2 ^ w) * 2 ^ lo := by
    have h1 := Nat.mod_add_div v (2 ^ lo)
    have h2 := Nat.mod_add_div (v / 2 ^ lo) (2 ^ w)
    rw [Nat.div_div_eq_div_mul, ← pow_add] at h2
    rw [bitField, Nat.mul_comm (v / 2 ^ (lo + w)), h2, Nat.mul_comm, h1]
  have hset : setField v lo w x = v % 2 ^ lo + (x % 2 ^ w + v / 2 ^ (lo + w) * 2 ^ w) * 2 ^ lo := by
    rw [setField]
    conv_lhs => rw [hsplit]
    rw [show bitField (v % 2 ^ lo + (bitField v lo w + v / 2 ^ (lo + w) * 2 ^ w) * 2 ^ lo) lo w = bitField v lo w by rw [← hsplit]]
    rw [Nat.add_mul, Nat.add_mul]
    omega
  have hx : x % 2 ^ w < 2 ^ w := Nat.mod_lt _ (by positivity)
  rw [hset, testBit_add_mul hlow, testBit_add_mul hx, Nat.testBit_mod_two_pow, Nat.testBit_mod_two_pow, Nat.testBit_div_two_pow]
  by_cases h1 : i < lo
  · simp [h1, Nat.not_le.mpr h1]
  · by_cases h2 : i - lo < w
    · have h3 : i < lo + w := by omega
      simp [h1, h2, h3, Nat.not_lt.mp h1]
    · have h3 : ¬ i < lo + w := by omega
      have h4 : i - lo - w + (lo + w) = i := by omega
      simp [h1, h2, h3, h4]

theorem bitField_setField_same (v lo w x : Nat) : bitField (setField v lo w x) lo w = x % 2 ^ w := by
  apply Nat.eq_of_testBit_eq
  intro i
  rw [testBit_bitField, testBit_setField, Nat.testBit_mod_two_pow]
  by_cases hi : i < w <;> simp [hi]

theorem bitField_setField_of_disjoint {lo w lo' w' : Nat} (h : lo + w ≤ lo' ∨ lo' + w' ≤ lo) (v x : Nat) :
    bitField (setField v lo' w' x) lo w = bitField v lo w := by
  refine bitField_congr fun i hlo hhi => ?_
  rw [testBit_setField, if_neg (by omega)]

theorem setField_lt {v lo w n : Nat} (hv : v < 2 ^ n) (hw : lo + w ≤ n) (x : Nat) : setField v lo w x < 2 ^ n := by
  refine Nat.lt_pow_two_of_testBit _ fun i hi => ?_
  rw [testBit_setField, if_neg (by omega)]
  exact Nat.testBit_lt_two_pow (hv.trans_le (Nat.pow_le_pow_right (by omega) hi))

/-! ### Fields packed one above the other -/

/-- Fields of a layout put together, field i holding `x i`. -/
def packFields (lo w x : Nat → Nat) (n : Nat) : Nat := (List.range n).foldl (fun acc i => acc + x i % 2 ^ w i * 2 ^ lo i) 0

/-- Each field of the layout lies above the one before. -/
def Rising (lo w : Nat → Nat) (n : Nat) : Prop := ∀ i j, i < j → j < n → lo i + w i ≤ lo j

theorem packFields_succ (lo w x : Nat → Nat) (n : Nat) : packFields lo w x (n + 1) = packFields lo w x n + x n % 2 ^ w n * 2 ^ lo n := by
  simp [packFields, List.range_succ]

theorem packFields_lt {lo w x : Nat → Nat} {n m : Nat} (hrise : Rising lo w n) (hend : ∀ i, i < n → lo i + w i ≤ m) :
    packFields lo w x n < 2 ^ m := by
  induction n generalizing m with
  | zero => exact Nat.two_pow_pos m
  | succ n ih =>
    have hbelow : packFields lo w x n < 2 ^ lo n := ih (fun i j hij hj => hrise i j hij (by omega)) fun i hi => hrise i n hi (by omega)
    have hx : x n % 2 ^ w n < 2 ^ w n := Nat.mod_lt _ (by positivity)
    rw [packFields_succ]
    calc packFields lo w x n + x n % 2 ^ w n * 2 ^ lo n < (x n % 2 ^ w n + 1) * 2 ^ lo n := by rw [Nat.succ_mul]; omega
      _ ≤ 2 ^ w n * 2 ^ lo n := Nat.mul_le_mul_right _ hx
      _ = 2 ^ (lo n + w n) := by rw [← pow_add, Nat.add_comm]
      _ ≤ 2 ^ m := Nat.pow_le_pow_right (by omega) (hend n (by omega))

/-- Each field reads what was put there. -/
theorem bitField_packFields {lo w x : Nat → Nat} {n l : Nat} (hrise : Rising lo w n) (hl : l < n) :
    bitField (packFields lo w x n) (lo l) (w l) = x l % 2 ^ w l := by
  induction n with
  | zero => omega
  | succ n ih =>
    have hrise' : Rising lo w n := fun i j hij hj => hrise i j hij (by omega)
    have hbelow : packFields lo w x n < 2 ^ lo n := packFields_lt hrise' fun i hi => hrise i n hi (by omega)
    rw [packFields_succ]
    rcases Nat.lt_succ_iff_lt_or_eq.mp hl with hlt | rfl
    · have hup := hrise l n hlt (by omega)
      rw [← ih hrise' hlt]
      refine bitField_congr fun i _ hi => ?_
      rw [testBit_add_mul hbelow, if_pos (by omega)]
    · apply Nat.eq_of_testBit_eq
      intro i
      rw [testBit_bitField, testBit_add_mul hbelow, if_neg (by omega), Nat.add_sub_cancel_left, Nat.testBit_mod_two_pow, ← Bool.and_assoc,
        Bool.and_self]

/-! ### Where lanes lie (R97, R172, R173) -/

/-- Bits of a register that its lanes and groups cover: all but the padding of a BE register. -/
def laneSpan (tag : Nat) : Nat := if isBe tag then 8 * beBytes tag * beGroups tag else 512

theorem laneSpan_le (tag : Nat) : laneSpan tag ≤ 512 := by
  unfold laneSpan beBytes beGroups
  split_ifs <;> omega

theorem lanesOf_of_not_be {tag : Nat} (h : isBe tag = false) : lanesOf tag = 512 / laneBits tag := by
  unfold lanesOf
  split
  · exact absurd h (by decide)
  · exact absurd h (by decide)
  · exact absurd h (by decide)
  · rfl

theorem be_cases {tag : Nat} (h : isBe tag = true) : tag = 8 ∨ tag = 9 ∨ tag = 10 := by simpa [isBe, or_assoc] using h

theorem lane_end_le {tag l : Nat} (h : l < lanesOf tag) : (laneAt tag l).1 + (laneAt tag l).2 ≤ laneSpan tag := by
  cases hbe : isBe tag with
  | false =>
    rw [lanesOf_of_not_be hbe] at h
    simpa [laneAt, laneSpan, hbe, Nat.mul_succ] using (Nat.mul_comm _ _).trans_le (Nat.mul_le_of_le_div _ _ _ h)
  | true =>
    rcases be_cases hbe with rfl | rfl | rfl <;> simp [laneAt, laneSpan, lanesOf, isBe, beBytes, beM, beGroups] at h ⊢ <;> omega

theorem lanes_rising (tag : Nat) : Rising (fun l => (laneAt tag l).1) (fun l => (laneAt tag l).2) (lanesOf tag) := by
  intro i j hij hj
  cases hbe : isBe tag with
  | false => simpa [laneAt, hbe, Nat.mul_succ] using Nat.mul_le_mul_left (laneBits tag) hij
  | true =>
    rcases be_cases hbe with rfl | rfl | rfl <;> simp [laneAt, isBe, beBytes, beM] <;> omega

theorem lanes_disjoint {tag i j : Nat} (hi : i < lanesOf tag) (hj : j < lanesOf tag) (h : i ≠ j) :
    (laneAt tag i).1 + (laneAt tag i).2 ≤ (laneAt tag j).1 ∨ (laneAt tag j).1 + (laneAt tag j).2 ≤ (laneAt tag i).1 := by
  rcases Nat.lt_or_gt_of_ne h with hlt | hgt
  · exact .inl (lanes_rising tag i j hlt hj)
  · exact .inr (lanes_rising tag j i hgt hi)

/-! ### What a lane reads -/

theorem laneOf_lt (tag bits l : Nat) : laneOf tag bits l < 2 ^ (laneAt tag l).2 := bitField_lt _ _ _

/-- A lane is read off the bits that lanes cover. -/
theorem laneOf_congr {tag l u v : Nat} (hl : l < lanesOf tag) (h : ∀ i, i < laneSpan tag → u.testBit i = v.testBit i) :
    laneOf tag u l = laneOf tag v l :=
  bitField_congr fun i _ hi => h i (hi.trans_le (lane_end_le hl))

/-- Lanes lie in the 512 bits of a register. -/
theorem laneOf_ofNat (tag bits : Nat) {l : Nat} (hl : l < lanesOf tag) : laneOf tag (BitVec.ofNat 512 bits).toNat l = laneOf tag bits l :=
  laneOf_congr hl fun i hi => by rw [BitVec.testBit_toNat, BitVec.getLsbD_ofNat, decide_eq_true (hi.trans_le (laneSpan_le tag)), Bool.true_and]

/-- Cleared padding is no lane's. -/
theorem laneOf_clearPad (bits : Nat) {tag l : Nat} (hl : l < lanesOf tag) : laneOf tag (clearPad tag bits) l = laneOf tag bits l := by
  cases hbe : isBe tag with
  | false => simp [clearPad, hbe]
  | true =>
    refine laneOf_congr hl fun i hi => ?_
    rw [laneSpan, if_pos hbe] at hi
    rw [clearPad, if_pos hbe, Nat.testBit_mod_two_pow, decide_eq_true hi, Bool.true_and]

theorem clearPad_le (tag bits : Nat) : clearPad tag bits ≤ bits := by
  unfold clearPad
  split
  · exact Nat.mod_le _ _
  · exact le_rfl

/-- A result put together lane by lane reads each of them. -/
theorem laneOf_buildLanes (tag : Nat) (f : Nat → Nat) {l : Nat} (hl : l < lanesOf tag) :
    laneOf tag (buildLanes tag f) l = f l % 2 ^ (laneAt tag l).2 :=
  bitField_packFields (lanes_rising tag) hl

theorem buildLanes_lt (tag : Nat) (f : Nat → Nat) : buildLanes tag f < 2 ^ 512 :=
  packFields_lt (lanes_rising tag) fun _ hi => (lane_end_le hi).trans (laneSpan_le tag)

/-- Masking visits lane after lane; it has decided those below `n` (R99). -/
theorem laneOf_maskLanes_upto (tag full old mask : Nat) (free : Bool) {n l : Nat} (hn : n ≤ lanesOf tag) (hl : l < lanesOf tag) :
    laneOf tag (maskLanes tag n full old mask free) l
      = if n ≤ l ∨ mask.testBit l = true then laneOf tag full l else if free then 2 ^ (laneAt tag l).2 - 1 else laneOf tag old l := by
  induction n with
  | zero => simp [maskLanes]
  | succ n ih =>
    have hstep : maskLanes tag (n + 1) full old mask free
        = if mask.testBit n then maskLanes tag n full old mask free
          else setField (maskLanes tag n full old mask free) (laneAt tag n).1 (laneAt tag n).2
            (if free then 2 ^ (laneAt tag n).2 - 1 else laneOf tag old n) := by
      simp [maskLanes, List.range_succ, laneOf]
    have hbelow := ih (by omega)
    rw [hstep]
    rcases eq_or_ne l n with rfl | hne
    · have hfill : (if free then 2 ^ (laneAt tag l).2 - 1 else laneOf tag old l) < 2 ^ (laneAt tag l).2 := by
        have hpos : 0 < 2 ^ (laneAt tag l).2 := by positivity
        split
        · omega
        · exact laneOf_lt _ _ _
      by_cases hbit : mask.testBit l = true
      · simpa [hbit] using hbelow
      · have hdecided : ¬ (l + 1 ≤ l ∨ mask.testBit l = true) := not_or.mpr ⟨by omega, hbit⟩
        rw [if_neg hbit, if_neg hdecided, laneOf, bitField_setField_same, Nat.mod_eq_of_lt hfill]
    · have hkeep : ∀ x, laneOf tag (setField (maskLanes tag n full old mask free) (laneAt tag n).1 (laneAt tag n).2 x) l
          = laneOf tag (maskLanes tag n full old mask free) l := fun x =>
        bitField_setField_of_disjoint (lanes_disjoint hl (by omega) hne) _ _
      have hle : n + 1 ≤ l ↔ n ≤ l := by omega
      simp only [hle]
      split
      · exact hbelow
      · exact (hkeep _).trans hbelow

theorem laneOf_maskLanes (tag full old mask : Nat) (free : Bool) {l : Nat} (hl : l < lanesOf tag) :
    laneOf tag (maskLanes tag (lanesOf tag) full old mask free) l
      = if mask.testBit l = true then laneOf tag full l else if free then 2 ^ (laneAt tag l).2 - 1 else laneOf tag old l := by
  rw [laneOf_maskLanes_upto tag full old mask free le_rfl hl]
  simp [Nat.not_le.mpr hl]

end Sys2Proof.Machine
end

section
/-! Vector instructions: what they take at issue, and what one that nothing holds back does (spec/05_fetch_and_issue.md R90 to R99,
spec/11_vector_instructions.md R205). -/

namespace Sys2Proof.Machine

open Sys2Proof.Safety

/-! ### The value under its mask (R99) -/

/-- A lane of a masked result. -/
theorem VecForm.laneOf_result (v : VecForm) (k : Core) (fmt : BitVec 16) {o : VOut} (hn : o.n ≤ lanesOf (tagOf fmt)) {l : Nat}
    (hl : l < lanesOf (tagOf fmt)) :
    laneOf (tagOf fmt) (v.result k fmt o).1.bits.toNat l
      = if v.mask.on = false ∨ o.n ≤ l ∨ (k.getV v.mask.reg).bits.getLsbD l = true then laneOf (tagOf fmt) o.bits l
        else if v.mask.free = true ∨ 24 ≤ v.dst.toNat then 2 ^ (laneAt (tagOf fmt) l).2 - 1
        else laneOf (tagOf fmt) (k.getV v.dst.toNat).bits.toNat l := by
  simp only [VecForm.result]
  rw [laneOf_ofNat _ _ hl]
  cases hon : v.mask.on with
  | false => simp [laneOf_clearPad _ hl]
  | true => simp [laneOf_maskLanes_upto _ _ _ _ _ hn hl, laneOf_clearPad _ hl, BitVec.testBit_toNat]

/-- With no mask the result is written whole. -/
theorem VecForm.toNat_result (v : VecForm) (k : Core) (fmt : BitVec 16) {o : VOut} (hmask : v.mask.on = false) (hbits : o.bits < 2 ^ 512) :
    (v.result k fmt o).1.bits.toNat = clearPad (tagOf fmt) o.bits := by
  simp only [VecForm.result, hmask, Bool.false_eq_true, if_false]
  exact Nat.mod_eq_of_lt ((clearPad_le _ _).trans_lt hbits)

theorem Eff.join_none (e : Eff) : e.join Eff.none = e := by simp [Eff.join, Eff.none]

/-- A result without effects raises nothing, whichever lanes are active. -/
theorem VOut.total_plain (tag bits : Nat) (active : Nat → Bool) : (VOut.plain tag bits).total active = Eff.none := by
  simp only [VOut.total, VOut.plain]
  generalize List.range (lanesOf tag) = ls
  induction ls with
  | nil => rfl
  | cons l ls ih => rwa [List.foldl_cons, Eff.join_none, ite_self]

/-! ### Sources (R90 to R92) -/

/-- Only queues, and the streams' records of what they have popped, have changed. -/
def OnlyQueues (s t : State) : Prop :=
  ∃ qs x y, t = { s with core := { s.core with queues := qs, a := { s.core.a with seen := x }, c := { s.core.c with seen := y } } }

namespace OnlyQueues

theorem refl (s : State) : OnlyQueues s s := ⟨s.core.queues, s.core.a.seen, s.core.c.seen, rfl⟩

theorem trans {s t u : State} (h : OnlyQueues s t) (h' : OnlyQueues t u) : OnlyQueues s u := by
  obtain ⟨_, _, _, rfl⟩ := h
  obtain ⟨_, _, _, rfl⟩ := h'
  exact ⟨_, _, _, rfl⟩

variable {s t : State}

theorem core_v (h : OnlyQueues s t) : t.core.v = s.core.v := by obtain ⟨_, _, _, rfl⟩ := h; rfl
theorem core_f (h : OnlyQueues s t) : t.core.f = s.core.f := by obtain ⟨_, _, _, rfl⟩ := h; rfl
theorem core_sys (h : OnlyQueues s t) : t.core.sys = s.core.sys := by obtain ⟨_, _, _, rfl⟩ := h; rfl
theorem core_sel (h : OnlyQueues s t) : t.core.sel = s.core.sel := by obtain ⟨_, _, _, rfl⟩ := h; rfl
theorem core_pid (h : OnlyQueues s t) : t.core.pid = s.core.pid := by obtain ⟨_, _, _, rfl⟩ := h; rfl
theorem core_nextId (h : OnlyQueues s t) : t.core.nextId = s.core.nextId := by obtain ⟨_, _, _, rfl⟩ := h; rfl
theorem core_handler (h : OnlyQueues s t) : t.core.handler = s.core.handler := by obtain ⟨_, _, _, rfl⟩ := h; rfl
theorem core_task (h : OnlyQueues s t) : t.core.task = s.core.task := by obtain ⟨_, _, _, rfl⟩ := h; rfl
theorem dev (h : OnlyQueues s t) : t.dev = s.dev := by obtain ⟨_, _, _, rfl⟩ := h; rfl

/-- The issuing stream is the same but for its record. -/
theorem cur (h : OnlyQueues s t) : ∃ seen, t.cur = { s.cur with seen := seen } := by
  obtain ⟨_, x, y, rfl⟩ := h
  unfold State.cur
  cases hx : s.core.sel
  · exact ⟨x, rfl⟩
  · exact ⟨y, rfl⟩

end OnlyQueues

/-- A pop changes the queue and the stream's record. -/
theorem onlyQueues_pop (s : State) (q : Nat) (e : QEntry) (es : List QEntry) :
    OnlyQueues s { s with core := (s.core.setQueue q es).saw s.core.sel [e] } := by
  cases hx : s.core.sel <;> exact ⟨_, _, _, rfl⟩

theorem onlyQueues_taken {s t : State} {ns : List (BitVec 5)} {xs : List VReg} {there : Bool} (h : Spec.Taken s ns t xs there) : OnlyQueues s t := by
  induction ns generalizing s xs there with
  | nil =>
    obtain ⟨rfl, -, -⟩ := h
    exact .refl _
  | cons n ns ih =>
    rcases h with ⟨-, rest, -, htaken⟩ | ⟨-, e, es, rest, more, -, -, -, htaken⟩
    · exact ih htaken
    · exact (onlyQueues_pop s (n.toNat - 24) e es).trans (ih htaken)

/-- A register is read as it stands. -/
theorem State.takeV_reg {s t : State} {n : BitVec 5} {ns : List (BitVec 5)} {srcs : List Src} (hreg : n.toNat < 24)
    (htake : s.takeV ns = .ok t srcs) : s.takeV (n :: ns) = .ok t (⟨s.core.getV n.toNat, none⟩ :: srcs) := by
  refine (if_pos hreg).trans ?_
  rw [htake]

/-- The oldest entry of a queue that no older instruction takes entries of is popped. -/
theorem State.takeV_pop {s t u : State} {n : BitVec 5} {ns : List (BitVec 5)} {srcs : List Src} {e : QEntry} (hqueue : 24 ≤ n.toNat)
    (hclaimed : s.core.claimed (n.toNat - 24) = false) (hpop : s.popQ (n.toNat - 24) = some (t, e)) (htake : t.takeV ns = .ok u srcs) :
    s.takeV (n :: ns) = .ok u (⟨⟨e.bits, e.fmt⟩, some (n.toNat - 24, e)⟩ :: srcs) := by
  refine (if_neg (Nat.not_lt.mpr hqueue)).trans ((if_neg (by rw [hclaimed]; exact Bool.false_ne_true)).trans ?_)
  rw [hpop]
  simp only [htake]

/-- With nothing incomplete in the stream the model's sources are the spec's. -/
theorem State.takeV_taken {s t : State} {ns : List (BitVec 5)} {xs : List VReg} {there : Bool} (h : Spec.Taken s ns t xs there)
    (hfree : s.core.c.flight = []) : ∃ srcs, s.takeV ns = .ok t srcs ∧ srcs.map (·.reg) = xs ∧ srcs.all Src.ready = there := by
  induction ns generalizing s xs there with
  | nil =>
    obtain ⟨rfl, rfl, rfl⟩ := h
    exact ⟨[], rfl, rfl, rfl⟩
  | cons n ns ih =>
    rcases h with ⟨hreg, rest, rfl, htaken⟩ | ⟨hqueue, e, es, rest, more, hentries, rfl, rfl, htaken⟩
    · obtain ⟨srcs, htake, hregs, hready⟩ := ih htaken hfree
      exact ⟨⟨s.core.getV n.toNat, none⟩ :: srcs, State.takeV_reg hreg htake, by simp [hregs], by simp [Src.ready, hready]⟩
    · have hpopped : ({ s with core := (s.core.setQueue (n.toNat - 24) es).saw s.core.sel [e] } : State).core.c.flight = [] := by
        cases hx : s.core.sel <;> simpa [Core.saw, Core.updStr, Core.setStr, Core.str] using hfree
      obtain ⟨srcs, htake, hregs, hready⟩ := ih htaken hpopped
      have hclaimed : s.core.claimed (n.toNat - 24) = false := by simp [Core.claimed, hfree]
      have hpop : s.popQ (n.toNat - 24) = some ({ s with core := (s.core.setQueue (n.toNat - 24) es).saw s.core.sel [e] }, e) := by
        simp [State.popQ, hentries]
      exact ⟨_, State.takeV_pop hqueue hclaimed hpop htake, by simp [hregs], by simp [Src.ready, hready]⟩

/-! ### What a vector instruction that nothing holds back does (R205) -/

section
variable {v : VecForm} {tags : List (BitVec 16) → Option (BitVec 16)} {run : State → BitVec 16 → List VReg → VOut}
variable {s s2 : State} {xs : List VReg} {there : Bool}

/-- The stream issues, its sources are there or reserved, its destination has room. -/
structure VecReady (v : VecForm) (s s2 : State) (xs : List VReg) (there : Bool) : Prop where
  ready : ReadyC s
  wf : v.instr.wellFormed = true
  q3 : s.popsQ3 v.srcs = false
  taken : Spec.Taken (s.issued v.instr) v.srcs s2 xs there
  room : s.canPut v.dst = true

theorem readyC_flight (h : ReadyC s) : s.core.c.flight = [] := by
  obtain ⟨hsel, -, -, -, hflight, -⟩ := h
  simpa [State.cur, hsel, Core.str] using hflight

theorem readyC_issued_flight (h : ReadyC s) (i : Instr) : (s.issued i).core.c.flight = [] := by
  have hcur : (s.issued i).cur.flight = s.cur.flight := by simp [Stream.advance]
  obtain ⟨hsel, -, -, -, hflight, -⟩ := h
  rw [hflight] at hcur
  simpa [State.cur, hsel, Core.str] using hcur

theorem readyC_admits (h : ReadyC s) : Streams.admits .cOnly s.core.sel = true := by rw [h.1]; rfl

theorem readyC_pushClaimed (h : ReadyC s) (q : Nat) : s.core.pushClaimed q = false := by simp [Core.pushClaimed, readyC_flight h]

/-- What execVec asks of its sources and of its destination, met: its result follows the tags and the filled entries. -/
theorem execVec_ready (h : VecReady v s s2 xs there) : ∃ srcs, srcs.map (·.reg) = xs ∧ srcs.all Src.ready = there ∧
    execVec v tags run s = match tags (xs.map (·.fmt)) with
      | none => .next (s.trapAt 0x04 (tagValOf v.instr (xs.map (·.fmt))))
      | some fmt => .next (if there then s2.finishV v s.cur.pc (v.result s.core fmt (run s fmt xs)).1 (v.result s.core fmt (run s fmt xs)).2
          else s2.launchLate s v.instr v.la (vRegs v.dst) (if v.dst.toNat < 24 then none else some (v.dst.toNat - 24, fmt)) srcs) := by
  obtain ⟨srcs, htake, rfl, rfl⟩ := State.takeV_taken h.taken (readyC_issued_flight h.ready v.instr)
  refine ⟨srcs, rfl, rfl, ?_⟩
  have hfmts : srcs.map (fun x => x.reg.fmt) = (srcs.map (·.reg)).map (·.fmt) := by rw [List.map_map]; rfl
  rw [execVec, issue_ready _ s _ h.ready.2 h.wf (readyC_admits h.ready) h.q3 (by simp)]
  simp only [htake, readyC_pushClaimed h.ready, h.room, hfmts, Bool.and_false, Bool.false_eq_true, if_false, Bool.not_true]
  cases tags ((srcs.map (·.reg)).map (·.fmt)) with
  | none => rfl
  | some fmt => cases srcs.all Src.ready <;> rfl

end

end Sys2Proof.Machine
end

section
/-! The lane by lane instructions: each computes the lanes that the spec gives it (spec/11_vector_instructions.md R206 to R211, R213 to R216, R220,
R221). -/

namespace Sys2Proof.Machine

/-! ### Sources as the model and as the spec read them -/

theorem fm_eq_srcFmt (xs : List VReg) (j : Nat) : Spec.fm xs j = srcFmt xs j := by
  unfold Spec.fm srcFmt
  cases xs[j]? <;> rfl

theorem at_eq_laneOf (xs : List VReg) (j l : Nat) : Spec.at_ xs j l = laneOf (tagOf (srcFmt xs j)) (srcBits xs j) l := by
  unfold Spec.at_ srcFmt srcBits
  cases xs[j]? with
  | none => simp [laneOf, bitField]
  | some x => rfl

/-! ### What a tag rule says of the sources that it accepts (R98, R205) -/

theorem oneFmt_tags {accept : Nat → Bool} {xs : List VReg} {fmt : BitVec 16} (h : oneFmt accept (xs.map (·.fmt)) = some fmt) :
    srcFmt xs 0 = fmt ∧ accept (tagOf fmt) = true := by
  rcases xs with _ | ⟨x, xs⟩
  · cases h
  · simp only [List.map_cons, oneFmt, Option.ite_none_right_eq_some, Option.some.injEq] at h
    obtain ⟨haccept, rfl⟩ := h
    exact ⟨rfl, haccept⟩

theorem pairFmt_tags {accept : Nat → Bool} {scales : Bool} {xs : List VReg} {fmt : BitVec 16}
    (h : pairFmt accept scales (xs.map (·.fmt)) = some fmt) :
    srcFmt xs 0 = fmt ∧ tagOf (srcFmt xs 1) = tagOf fmt ∧ accept (tagOf fmt) = true := by
  rcases xs with _ | ⟨x, _ | ⟨y, xs⟩⟩
  · cases h
  · cases h
  · simp only [List.map_cons, pairFmt, Option.ite_none_right_eq_some, Option.some.injEq, Bool.and_eq_true, beq_iff_eq] at h
    obtain ⟨⟨⟨haccept, htag⟩, -⟩, rfl⟩ := h
    exact ⟨rfl, htag, haccept⟩

theorem tripleFmt_tags {accept : Nat → Bool} {xs : List VReg} {fmt : BitVec 16} (h : tripleFmt accept (xs.map (·.fmt)) = some fmt) :
    srcFmt xs 0 = fmt ∧ tagOf (srcFmt xs 1) = tagOf fmt ∧ tagOf (srcFmt xs 2) = tagOf fmt := by
  rcases xs with _ | ⟨x, _ | ⟨y, _ | ⟨z, xs⟩⟩⟩
  · cases h
  · cases h
  · cases h
  · simp only [List.map_cons, tripleFmt, Option.ite_none_right_eq_some, Option.some.injEq, Bool.and_eq_true, beq_iff_eq] at h
    obtain ⟨⟨⟨-, hy⟩, hz⟩, rfl⟩ := h
    exact ⟨rfl, hy, hz⟩

theorem permFmt_tags {xs : List VReg} {fmt : BitVec 16} (h : permFmt (xs.map (·.fmt)) = some fmt) : srcFmt xs 0 = fmt := by
  rcases xs with _ | ⟨x, _ | ⟨y, xs⟩⟩
  · cases h
  · cases h
  · simp only [List.map_cons, permFmt, Option.ite_none_right_eq_some, Option.some.injEq] at h
    exact h.2

/-- A format word carries the tag that it is made of (R96). -/
theorem tagOf_mkFmt {tag : Nat} (h : tag < 16) (scale : Int) : tagOf (mkFmt tag scale) = tag := by
  have hscale := intPat_lt scale 6
  unfold mkFmt tagOf
  split
  · rw [BitVec.toNat_ofNat]
    omega
  · rw [BitVec.toNat_ofNat]
    omega

/-- A product has the tag of its sources (R175). -/
theorem mulFmt_tags {xs : List VReg} {fmt : BitVec 16} (h : mulFmt (xs.map (·.fmt)) = some fmt) :
    tagOf (srcFmt xs 0) = tagOf fmt ∧ tagOf (srcFmt xs 1) = tagOf fmt := by
  rcases xs with _ | ⟨x, _ | ⟨y, xs⟩⟩
  · cases h
  · cases h
  · simp only [List.map_cons] at h
    cases hpair : pairFmt arithTag false (x.fmt :: y.fmt :: xs.map (·.fmt)) with
    | none => simp [mulFmt, hpair] at h
    | some f =>
      obtain ⟨hx, hy, -⟩ := pairFmt_tags (xs := x :: y :: xs) hpair
      simp only [mulFmt, hpair, Option.some.injEq] at h
      have hf : tagOf fmt = tagOf f := by
        rw [← h]
        split
        · exact tagOf_mkFmt (Nat.mod_lt _ (by decide)) _
        · rfl
      exact ⟨by rw [hx, hf], by rw [hy, hf]⟩

/-! ### A result that holds given lanes -/

/-- The lanes and effects of a result are those of `g`, whose values the lanes hold modulo their width. -/
def Computes (fmt : BitVec 16) (out : VOut) (g : Nat → Nat × Eff) : Prop :=
  out.n = lanesOf (tagOf fmt) ∧ ∀ l, l < lanesOf (tagOf fmt) →
    laneOf (tagOf fmt) out.bits l = (g l).1 % 2 ^ (laneAt (tagOf fmt) l).2 ∧ out.eff l = (g l).2

theorem computes_lanes {fmt : BitVec 16} {f g : Nat → Nat × Eff}
    (h : ∀ l, l < lanesOf (tagOf fmt) → (f l).1 % 2 ^ (laneAt (tagOf fmt) l).2 = (g l).1 % 2 ^ (laneAt (tagOf fmt) l).2 ∧ (f l).2 = (g l).2) :
    Computes fmt (VOut.lanes (tagOf fmt) f) g :=
  ⟨rfl, fun l hl => ⟨(laneOf_buildLanes _ _ hl).trans (h l hl).1, (h l hl).2⟩⟩

theorem computes_lanes_of_eq {fmt : BitVec 16} {f g : Nat → Nat × Eff} (h : ∀ l, f l = g l) : Computes fmt (VOut.lanes (tagOf fmt) f) g :=
  computes_lanes fun l _ => by rw [h l]; exact ⟨rfl, rfl⟩

section
variable {s : State} {xs : List VReg} {fmt : BitVec 16}

theorem lanewise1_computes (f : BitVec 16 → Nat → Nat × Eff) (h : srcFmt xs 0 = fmt) :
    Computes fmt (lanewise1 f s fmt xs) (fun l => f (Spec.fm xs 0) (Spec.at_ xs 0 l)) := by
  subst h
  exact computes_lanes_of_eq fun l => by rw [fm_eq_srcFmt, at_eq_laneOf]

theorem lanewise2_computes (f : BitVec 16 → BitVec 16 → Nat → Nat → Nat × Eff)
    (hx : tagOf (srcFmt xs 0) = tagOf fmt) (hy : tagOf (srcFmt xs 1) = tagOf fmt) :
    Computes fmt (lanewise2 f s fmt xs) (fun l => f (Spec.fm xs 0) (Spec.fm xs 1) (Spec.at_ xs 0 l) (Spec.at_ xs 1 l)) := by
  simp only [lanewise2, hx]
  exact computes_lanes_of_eq fun l => by rw [fm_eq_srcFmt, fm_eq_srcFmt, at_eq_laneOf, at_eq_laneOf, hx, hy]

/-- One source. -/
theorem oneFmt_computes {accept : Nat → Bool} (f : BitVec 16 → Nat → Nat × Eff) (h : oneFmt accept (xs.map (·.fmt)) = some fmt) :
    Computes fmt (lanewise1 f s fmt xs) (fun l => f (Spec.fm xs 0) (Spec.at_ xs 0 l)) :=
  lanewise1_computes f (oneFmt_tags h).1

/-- Two sources of one tag. -/
theorem pairFmt_computes {accept : Nat → Bool} {scales : Bool} (f : BitVec 16 → BitVec 16 → Nat → Nat → Nat × Eff)
    (h : pairFmt accept scales (xs.map (·.fmt)) = some fmt) :
    Computes fmt (lanewise2 f s fmt xs) (fun l => f (Spec.fm xs 0) (Spec.fm xs 1) (Spec.at_ xs 0 l) (Spec.at_ xs 1 l)) := by
  obtain ⟨hx, hy, -⟩ := pairFmt_tags h
  exact lanewise2_computes f (by rw [hx]) hy

/-- The factors of a product. -/
theorem mulFmt_computes (f : BitVec 16 → BitVec 16 → Nat → Nat → Nat × Eff) (h : mulFmt (xs.map (·.fmt)) = some fmt) :
    Computes fmt (lanewise2 f s fmt xs) (fun l => f (Spec.fm xs 0) (Spec.fm xs 1) (Spec.at_ xs 0 l) (Spec.at_ xs 1 l)) :=
  lanewise2_computes f (mulFmt_tags h).1 (mulFmt_tags h).2

end

end Sys2Proof.Machine
end

section
/-! Every lane by lane instruction is a vector form that computes the lanes which the spec gives it (spec/11_vector_instructions.md R206 to R216,
R220, R221). -/

namespace Sys2Proof.Machine

open Sys2Proof.Safety

/-! ### Shifts by the whole count (R208) -/

theorem shiftLane_left (w a c : Nat) : shiftLane w 0 a c % 2 ^ w = a * 2 ^ c % 2 ^ w := by
  by_cases hc : w ≤ c
  · have hdvd : 2 ^ w ∣ a * 2 ^ c := (Nat.pow_dvd_pow 2 hc).trans (Dvd.intro_left a rfl)
    simp [shiftLane, hc, Nat.mod_eq_zero_of_dvd hdvd]
  · simp [shiftLane, hc]

theorem shiftLane_right {w a c : Nat} (ha : a < 2 ^ w) : shiftLane w 1 a c = a / 2 ^ c := by
  by_cases hc : w ≤ c
  · simp [shiftLane, hc, Nat.div_eq_of_lt (ha.trans_le (Nat.pow_le_pow_right (by decide) hc))]
  · simp [shiftLane, hc]

theorem patInt_bounds (p : Nat) {w : Nat} (hw : 0 < w) : -2 ^ (w - 1) ≤ patInt p w ∧ patInt p w < 2 ^ (w - 1) := by
  obtain ⟨n, rfl⟩ : ∃ n, w = n + 1 := ⟨w - 1, by omega⟩
  have hp : p % 2 ^ (n + 1) < 2 ^ (n + 1) := Nat.mod_lt _ (by positivity)
  have hcast : (p : Int) % 2 ^ (n + 1) = ((p % 2 ^ (n + 1) : Nat) : Int) := by push_cast; rfl
  have hpow : (2 : Int) ^ (n + 1) = 2 * ((2 ^ n : Nat) : Int) := by push_cast; ring
  have hhalf : (2 : Int) ^ n = ((2 ^ n : Nat) : Int) := by push_cast; rfl
  have hnat : 2 ^ (n + 1) = 2 * 2 ^ n := pow_succ' 2 n
  simp only [patInt, Nat.add_sub_cancel, hcast, hhalf]
  split <;> omega

/-- Beyond the width an arithmetic shift leaves the sign alone. -/
theorem ediv_two_pow_of_width_le {x : Int} {w c : Nat} (hw : 0 < w) (hlow : -2 ^ (w - 1) ≤ x) (hhigh : x < 2 ^ (w - 1)) (hc : w ≤ c) :
    x / 2 ^ c = if x < 0 then -1 else 0 := by
  have hpow : (2 : Int) ^ (w - 1) ≤ 2 ^ c := pow_le_pow_right₀ (by decide) (by omega)
  split
  · exact Int.ediv_eq_neg_one_of_neg_of_le (by assumption) (by omega)
  · exact Int.ediv_eq_zero_of_lt (by omega) (by omega)

theorem shiftLane_arith {w a c : Nat} (hw : 0 < w) : shiftLane w 2 a c = intPat (patInt a w / 2 ^ c) w := by
  obtain ⟨hlow, hhigh⟩ := patInt_bounds a hw
  have hmin : patInt a w / 2 ^ min c w = patInt a w / 2 ^ c := by
    rcases Nat.le_total c w with hc | hc
    · rw [Nat.min_eq_left hc]
    · rw [Nat.min_eq_right hc, ediv_two_pow_of_width_le hw hlow hhigh hc, ediv_two_pow_of_width_le hw hlow hhigh le_rfl]
  simp [shiftLane, hmin]

/-- The integer tags have plain lanes. -/
theorem laneAt_of_isInt {tag : Nat} (h : isInt tag = true) (l : Nat) : (laneAt tag l).2 = laneBits tag ∧ 0 < laneBits tag := by
  simp only [isInt, Bool.or_eq_true, beq_iff_eq] at h
  rcases h with (rfl | rfl) | rfl <;> simp [laneAt, isBe, laneBits]

/-! ### The lanes of the other families -/

section
variable {s : State} {xs : List VReg} {fmt : BitVec 16}

/-- A shift, whose sources have one integer tag, by the lane function that the spec gives it. -/
theorem shift_computes {kind : Nat} {g : Nat → Nat → Nat → Nat}
    (hg : ∀ w a c, 0 < w → a < 2 ^ w → shiftLane w kind a c % 2 ^ w = g w a c % 2 ^ w)
    (h : pairFmt isInt false (xs.map (·.fmt)) = some fmt) :
    Computes fmt (lanewise2 (fun f _ a c => (shiftLane (laneBits (tagOf f)) kind a c, Eff.none)) s fmt xs)
      (fun l => (g (laneBits (tagOf (Spec.fm xs 0))) (Spec.at_ xs 0 l) (Spec.at_ xs 1 l), Eff.none)) := by
  obtain ⟨rfl, hy, hint⟩ := pairFmt_tags h
  refine computes_lanes fun l _ => ⟨?_, rfl⟩
  obtain ⟨hwidth, hpos⟩ := laneAt_of_isInt hint l
  have hlt := laneOf_lt (tagOf (srcFmt xs 0)) (srcBits xs 0) l
  rw [hwidth] at hlt ⊢
  rw [fm_eq_srcFmt, at_eq_laneOf, at_eq_laneOf, hy]
  exact hg _ _ _ hpos hlt

/-- A fused multiply and add of three sources of one tag (R207). -/
theorem fma_computes {sub : Bool} {md : Modes} (h : tripleFmt isIeee (xs.map (·.fmt)) = some fmt) :
    Computes fmt (VOut.lanes (tagOf fmt) fun l => fmaLane md (tagOf fmt) sub (laneOf (tagOf fmt) (srcBits xs 0) l)
        (laneOf (tagOf fmt) (srcBits xs 1) l) (laneOf (tagOf fmt) (srcBits xs 2) l))
      (fun l => fmaLane md (tagOf (Spec.fm xs 0)) sub (Spec.at_ xs 0 l) (Spec.at_ xs 1 l) (Spec.at_ xs 2 l)) := by
  obtain ⟨rfl, hy, hz⟩ := tripleFmt_tags h
  exact computes_lanes_of_eq fun l => by rw [fm_eq_srcFmt, at_eq_laneOf, at_eq_laneOf, at_eq_laneOf, hy, hz]

/-- A selection by the bits of a register (R211). -/
theorem select_computes {m : BitVec 512} (h : pairFmt noBe false (xs.map (·.fmt)) = some fmt) :
    Computes fmt (VOut.lanes (tagOf fmt) fun l => (laneOf (tagOf fmt) (srcBits xs (if m.toNat.testBit l then 1 else 0)) l, Eff.none))
      (fun l => (if m.getLsbD l then Spec.at_ xs 1 l else Spec.at_ xs 0 l, Eff.none)) := by
  obtain ⟨rfl, hy, -⟩ := pairFmt_tags h
  refine computes_lanes_of_eq fun l => ?_
  rw [at_eq_laneOf, at_eq_laneOf, hy, BitVec.testBit_toNat]
  split <;> rfl

/-- A permutation by the lanes of the second source (R211). -/
theorem perm_computes (h : permFmt (xs.map (·.fmt)) = some fmt) :
    Computes fmt (VOut.lanes (tagOf fmt) fun l => (laneOf (tagOf fmt) (srcBits xs 0) ((if l < lanesOf (tagOf (srcFmt xs 1)) then
        laneOf (tagOf (srcFmt xs 1)) (srcBits xs 1) l else 0) % lanesOf (tagOf fmt)), Eff.none))
      (fun l => (Spec.at_ xs 0 ((if l < lanesOf (tagOf (Spec.fm xs 1)) then Spec.at_ xs 1 l else 0) % lanesOf (tagOf (Spec.fm xs 0))),
        Eff.none)) := by
  obtain rfl := permFmt_tags h
  exact computes_lanes_of_eq fun l => by rw [fm_eq_srcFmt, fm_eq_srcFmt, at_eq_laneOf, at_eq_laneOf]

/-- A slide towards higher lanes (R211). -/
theorem slideUp_computes {n : Nat} (h : oneFmt noBe (xs.map (·.fmt)) = some fmt) :
    Computes fmt (slideOut true n s fmt xs) (fun l => (if l < n then 0 else Spec.at_ xs 0 (l - n), Eff.none)) := by
  obtain ⟨rfl, -⟩ := oneFmt_tags h
  refine computes_lanes_of_eq fun l => ?_
  rw [at_eq_laneOf, if_pos rfl]
  by_cases hl : l < n
  · rw [if_pos hl, if_neg (Nat.not_le.mpr hl)]
  · rw [if_neg hl, if_pos (Nat.not_lt.mp hl)]

/-- A slide towards lower lanes (R211). -/
theorem slideDown_computes {n : Nat} (h : oneFmt noBe (xs.map (·.fmt)) = some fmt) :
    Computes fmt (slideOut false n s fmt xs)
      (fun l => (if l + n < lanesOf (tagOf (Spec.fm xs 0)) then Spec.at_ xs 0 (l + n) else 0, Eff.none)) := by
  obtain ⟨rfl, -⟩ := oneFmt_tags h
  exact computes_lanes_of_eq fun l => by rw [fm_eq_srcFmt, at_eq_laneOf, if_neg Bool.false_ne_true]

/-- A conversion, lane by lane of the source; the lanes beyond are zero (R215). -/
theorem convert_computes {tag : BitVec 4} {md : Modes} {conv : Nat → Val → Nat × Eff} (h : cvtFmt md tag (xs.map (·.fmt)) = some fmt) :
    Computes fmt (convertLanes tag.toNat conv xs)
      (fun l => if l < lanesOf (tagOf (Spec.fm xs 0)) then conv l (valueOf (Spec.fm xs 0) (Spec.at_ xs 0 l)) else (0, Eff.none)) := by
  obtain ⟨f, -, hfmt⟩ := Option.map_eq_some_iff.mp h
  have htag : tagOf fmt = tag.toNat := by rw [← hfmt, tagOf_mkFmt tag.isLt]
  rw [convertLanes, ← htag]
  exact computes_lanes_of_eq fun l => by rw [fm_eq_srcFmt, at_eq_laneOf]

end

/-! ### The vector form of a lane by lane instruction -/

/-- The instruction is the vector form `v`, whose results are the lanes of `o`. -/
structure LaneForm (s : State) (i : Instr) (o : Spec.LaneOp) (v : VecForm) (run : State → BitVec 16 → List VReg → VOut) : Prop where
  exec : exec i s = execVec v o.fmt run s
  instr : v.instr = i
  srcs : v.srcs = o.srcs
  dst : v.dst = o.dst
  mask : v.mask = .of o.me o.k o.pol
  long : v.la.isSome = o.long
  lanes : ∀ fmt xs, o.fmt (xs.map (·.fmt)) = some fmt → Computes fmt (run s fmt xs) (o.lane xs)

/-- Every lane by lane instruction has a form. -/
theorem laneOp_form {s : State} {i : Instr} {o : Spec.LaneOp} (h : Spec.laneOp s i = some o) : ∃ v run, LaneForm s i o v run := by
  cases i with
  | vadd d a b k pol me =>
    cases h
    exact ⟨_, _, rfl, rfl, rfl, rfl, rfl, rfl, fun _ _ => pairFmt_computes fun f _ => addLane s.modes f false⟩
  | vaddH d a m =>
    cases h
    exact ⟨_, _, rfl, rfl, rfl, rfl, rfl, rfl, fun _ _ => pairFmt_computes fun f _ => addLane s.modes f false⟩
  | vsub d a b k pol me =>
    cases h
    exact ⟨_, _, rfl, rfl, rfl, rfl, rfl, rfl, fun _ _ => pairFmt_computes fun f _ => addLane s.modes f true⟩
  | vsubH d a m =>
    cases h
    exact ⟨_, _, rfl, rfl, rfl, rfl, rfl, rfl, fun _ _ => pairFmt_computes fun f _ => addLane s.modes f true⟩
  | vdiv d a b k pol me =>
    cases h
    exact ⟨_, _, rfl, rfl, rfl, rfl, rfl, rfl, fun _ _ => pairFmt_computes fun f _ => divLane s.modes (tagOf f)⟩
  | vmin d a b k pol me =>
    cases h
    exact ⟨_, _, rfl, rfl, rfl, rfl, rfl, rfl, fun _ _ => pairFmt_computes fun f _ => pickLane f false⟩
  | vminH d a m =>
    cases h
    exact ⟨_, _, rfl, rfl, rfl, rfl, rfl, rfl, fun _ _ => pairFmt_computes fun f _ => pickLane f false⟩
  | vmax d a b k pol me =>
    cases h
    exact ⟨_, _, rfl, rfl, rfl, rfl, rfl, rfl, fun _ _ => pairFmt_computes fun f _ => pickLane f true⟩
  | vmaxH d a m =>
    cases h
    exact ⟨_, _, rfl, rfl, rfl, rfl, rfl, rfl, fun _ _ => pairFmt_computes fun f _ => pickLane f true⟩
  | vrsub d a m =>
    cases h
    exact ⟨_, _, rfl, rfl, rfl, rfl, rfl, rfl, fun _ _ => pairFmt_computes fun f _ => addLane s.modes f true⟩
  | vmul d a b k pol me =>
    cases h
    exact ⟨_, _, rfl, rfl, rfl, rfl, rfl, rfl, fun _ _ => mulFmt_computes (mulLane s.modes)⟩
  | vmulH d a m =>
    cases h
    exact ⟨_, _, rfl, rfl, rfl, rfl, rfl, rfl, fun _ _ => mulFmt_computes (mulLane s.modes)⟩
  | vneg d a m =>
    cases h
    exact ⟨_, _, rfl, rfl, rfl, rfl, rfl, rfl, fun _ _ => oneFmt_computes (negLane s.modes)⟩
  | vabs d a m =>
    cases h
    exact ⟨_, _, rfl, rfl, rfl, rfl, rfl, rfl, fun _ _ => oneFmt_computes absLane⟩
  | vrelu d a m =>
    cases h
    exact ⟨_, _, rfl, rfl, rfl, rfl, rfl, rfl, fun _ _ => oneFmt_computes fun f x => pickLane f true x 0⟩
  | vfma d a b k pol me =>
    cases h
    exact ⟨_, _, vectorFma.eq_def _ _ s, rfl, rfl, rfl, rfl, rfl, fun _ _ => fma_computes⟩
  | vfms d a b k pol me =>
    cases h
    exact ⟨_, _, vectorFma.eq_def _ _ s, rfl, rfl, rfl, rfl, rfl, fun _ _ => fma_computes⟩
  | vshl d a b k pol me =>
    cases h
    exact ⟨_, _, rfl, rfl, rfl, rfl, rfl, rfl, fun _ _ => shift_computes (g := fun _ a c => a * 2 ^ c) fun w a c _ _ => shiftLane_left w a c⟩
  | vshr d a b k pol me =>
    cases h
    exact ⟨_, _, rfl, rfl, rfl, rfl, rfl, rfl, fun _ _ =>
      shift_computes (g := fun _ a c => a / 2 ^ c) fun _ _ _ _ ha => by rw [shiftLane_right ha]⟩
  | vsar d a b k pol me =>
    cases h
    exact ⟨_, _, rfl, rfl, rfl, rfl, rfl, rfl, fun _ _ =>
      shift_computes (g := fun w a c => intPat (patInt a w / 2 ^ c) w) fun _ _ _ hw _ => by rw [shiftLane_arith hw]⟩
  | vsel d a b k =>
    cases h
    exact ⟨_, _, vectorSelect.eq_def _ _ s, rfl, rfl, rfl, rfl, rfl, fun _ _ => select_computes⟩
  | vselH d a =>
    cases h
    exact ⟨_, _, vectorSelect.eq_def _ _ s, rfl, rfl, rfl, rfl, rfl, fun _ _ => select_computes⟩
  | vperm d a b k pol me =>
    cases h
    exact ⟨_, _, execVperm.eq_def _ _ _ _ _ _ s, rfl, rfl, rfl, rfl, rfl, fun _ _ => perm_computes⟩
  | vslideUp d a n k pol me =>
    cases h
    exact ⟨_, _, rfl, rfl, rfl, rfl, rfl, rfl, fun _ _ => slideUp_computes⟩
  | vslideDown d a n k pol me =>
    cases h
    exact ⟨_, _, rfl, rfl, rfl, rfl, rfl, rfl, fun _ _ => slideDown_computes⟩
  | vidx d k tag pol me =>
    cases h
    exact ⟨_, _, execVidx.eq_def _ _ _ _ _ s, rfl, rfl, rfl, rfl, rfl, fun _ _ _ => computes_lanes_of_eq fun _ => rfl⟩
  | vrng d a k tag pol me =>
    cases h
    exact ⟨_, _, execVrng.eq_def _ _ _ _ _ _ s, rfl, rfl, rfl, rfl, rfl, fun _ _ _ => computes_lanes_of_eq fun _ => rfl⟩
  | vrcp d a k pol me la =>
    cases h
    exact ⟨_, _, rfl, rfl, rfl, rfl, rfl, rfl, fun _ _ => oneFmt_computes fun f => specialLane 0 s.modes (tagOf f)⟩
  | vrsq d a k pol me la =>
    cases h
    exact ⟨_, _, rfl, rfl, rfl, rfl, rfl, rfl, fun _ _ => oneFmt_computes fun f => specialLane 1 s.modes (tagOf f)⟩
  | vsqrt d a k pol me la =>
    cases h
    exact ⟨_, _, rfl, rfl, rfl, rfl, rfl, rfl, fun _ _ => oneFmt_computes fun f => specialLane 2 s.modes (tagOf f)⟩
  | vexp2 d a k pol me la =>
    cases h
    exact ⟨_, _, rfl, rfl, rfl, rfl, rfl, rfl, fun _ _ => oneFmt_computes fun f => specialLane 3 s.modes (tagOf f)⟩
  | vlog2 d a k pol me la =>
    cases h
    exact ⟨_, _, rfl, rfl, rfl, rfl, rfl, rfl, fun _ _ => oneFmt_computes fun f => specialLane 4 s.modes (tagOf f)⟩
  | vtanh d a k pol me la =>
    cases h
    exact ⟨_, _, rfl, rfl, rfl, rfl, rfl, rfl, fun _ _ => oneFmt_computes fun f => specialLane 5 s.modes (tagOf f)⟩
  | vsigm d a k pol me la =>
    cases h
    exact ⟨_, _, rfl, rfl, rfl, rfl, rfl, rfl, fun _ _ => oneFmt_computes fun f => specialLane 6 s.modes (tagOf f)⟩
  | vcvt d a k tag pol me la =>
    cases h
    exact ⟨_, _, execVcvt.eq_def _ _ _ _ _ _ _ s, rfl, rfl, rfl, rfl, rfl, fun _ _ => convert_computes⟩
  | vcvts d a k tag pol me la =>
    rcases hbe : isBe tag.toNat with _ | _
    · cases (if_neg (Bool.eq_false_iff.mp hbe)).symm.trans h
      exact ⟨_, _, if_neg (Bool.eq_false_iff.mp hbe), rfl, rfl, rfl, rfl, rfl, fun _ _ => convert_computes⟩
    · cases (if_pos hbe).symm.trans h
  | _ => cases h

end Sys2Proof.Machine
end

section
/-! A short vector instruction whose sources are there (spec/05_fetch_and_issue.md R90 to R99, spec/11_vector_instructions.md R205 to R212). -/

namespace Sys2Proof.Machine

open Sys2Proof.Safety

namespace LaneForm

variable {s s2 : State} {i : Instr} {o : Spec.LaneOp} {v : VecForm} {run : State → BitVec 16 → List VReg → VOut} {xs : List VReg} {there : Bool}
  {fmt : BitVec 16}

/-- A lane is active for the model where the spec computes it. -/
theorem active (h : LaneForm s i o v run) (l : Nat) : v.mask.active (s.core.getV v.mask.reg).bits.toNat l = o.active s l := by
  rw [h.mask, MaskSel.active, Spec.LaneOp.active, BitVec.testBit_toNat]
  rcases BitVec.eq_zero_or_eq_one o.me with hme | hme <;> simp [MaskSel.of, hme]

/-- The result under its mask is the one that the spec gives. -/
theorem yields (h : LaneForm s i o v run) (hfmt : o.fmt (xs.map (·.fmt)) = some fmt) :
    o.Yields s xs (v.result s.core fmt (run s fmt xs)).1 (v.result s.core fmt (run s fmt xs)).2 := by
  obtain ⟨hn, hlanes⟩ := h.lanes fmt xs hfmt
  refine ⟨hfmt, fun l hl => ?_, ?_⟩
  · have hl : l < lanesOf (tagOf fmt) := hl
    refine (VecForm.laneOf_result v s.core fmt hn.le hl).trans ?_
    have hcond : (v.mask.on = false ∨ (run s fmt xs).n ≤ l ∨ (s.core.getV v.mask.reg).bits.getLsbD l = true) ↔ o.active s l = true := by
      rw [← h.active l, MaskSel.active, BitVec.testBit_toNat, Bool.or_eq_true, Bool.not_eq_true', hn]
      simp [Nat.not_le.mpr hl]
    simp only [hcond]
    simp only [(hlanes l hl).1, Spec.LaneOp.rest, h.dst, h.mask, MaskSel.of, beq_iff_eq]
    rfl
  · have heff : ∀ l ∈ List.range (lanesOf (tagOf fmt)), (run s fmt xs).eff l = (o.lane xs l).2 := fun l hl =>
      (hlanes l (List.mem_range.mp hl)).2
    simp only [VecForm.result, VOut.total, hn, h.active]
    exact List.foldl_ext _ _ _ fun acc l hl => by rw [heff l hl]

theorem vecReady (h : LaneForm s i o v run) (hready : ReadyC s) (hwf : i.wellFormed = true) (hq3 : s.popsQ3 o.srcs = false)
    (htaken : Spec.Taken (s.issued i) o.srcs s2 xs there) (hroom : s.canPut o.dst = true) : VecReady v s s2 xs there where
  ready := hready
  wf := by rw [h.instr]; exact hwf
  q3 := by rw [h.srcs]; exact hq3
  taken := by rw [h.instr, h.srcs]; exact htaken
  room := by rw [h.dst]; exact hroom

/-- Issued with its sources there: the result is delivered at once, or on its way. -/
theorem exec_there (h : LaneForm s i o v run) (hready : VecReady v s s2 xs true) (hfmt : o.fmt (xs.map (·.fmt)) = some fmt) :
    Machine.exec i s = .next (s2.finishV v s.cur.pc (v.result s.core fmt (run s fmt xs)).1 (v.result s.core fmt (run s fmt xs)).2) := by
  obtain ⟨_, -, -, hexec⟩ := execVec_ready (tags := o.fmt) (run := run) hready
  rw [h.exec, hexec, hfmt]
  rfl

/-- A short form writes or pushes its result at once. -/
theorem exec_short (h : LaneForm s i o v run) (hready : VecReady v s s2 xs true) (hfmt : o.fmt (xs.map (·.fmt)) = some fmt)
    (hshort : o.long = false) :
    Machine.exec i s = .next (Spec.put s2 o.dst (v.result s.core fmt (run s fmt xs)).1 (v.result s.core fmt (run s fmt xs)).2) := by
  have hla : v.la = none := by simpa [hshort] using h.long
  rw [h.exec_there hready hfmt, State.finishV, hla, ← h.dst]
  rfl

end LaneForm

end Sys2Proof.Machine
end

section
/-! A vector instruction that issues and is incomplete afterwards: what stands when it has issued, and what its LONG_OP_COMPLETE does
(spec/05_fetch_and_issue.md R85, R87, R91, R92). -/

namespace Sys2Proof.Machine

open Sys2Proof.Safety

/-! ### The stream that issues goes on -/

section
variable {s : State}

theorem readyC_not_exited (h : ReadyC s) : s.core.c.exited = false := by
  obtain ⟨hsel, hissue, -⟩ := h
  simp only [State.canIssue, State.canAct, Bool.and_eq_true, Bool.not_eq_true'] at hissue
  obtain ⟨⟨⟨⟨⟨-, hexited⟩, -⟩, -⟩, -⟩, -⟩ := hissue
  simpa [State.cur, hsel, Core.str] using hexited

/-- In user mode no handler runs. -/
theorem readyC_handler (h : ReadyC s) (hmode : s.cur.mode = .user) : s.core.handler = none := by
  obtain ⟨-, hissue, -⟩ := h
  simp only [State.canIssue, State.canAct, Bool.and_eq_true] at hissue
  obtain ⟨⟨⟨-, hhandler⟩, -⟩, -⟩ := hissue
  cases hh : s.core.handler with
  | none => rfl
  | some x => simp [hh, hmode] at hhandler

/-- In user mode no trap of cause 0x16 is due: it would come first (R55). -/
theorem readyC_movedDue (h : ReadyC s) (hmode : s.cur.mode = .user) {t : Task} (htask : s.core.task = some t) : t.movedDue = none := by
  obtain ⟨hsel, hissue, hdue, -⟩ := h
  simp only [State.canIssue, State.canAct, Bool.and_eq_true] at hissue
  obtain ⟨⟨-, hmoved⟩, -⟩ := hissue
  cases hold : t.movedDue with
  | none => rfl
  | some old =>
    have hexited : s.core.a.exited = true := by simpa [htask, hold, hsel] using hmoved
    simp [State.dueTrap, hmode, htask, hold, hexited] at hdue

/-- What it issues does not stand still for a handler or for a trap of cause 0x16 (R55, R89). -/
theorem readyC_freezes (h : ReadyC s) {k : Core} {op : LongOp} (hhandler : k.handler = s.core.handler) (htask : k.task = s.core.task)
    (hmode : op.mode = s.cur.mode) (hstops : op.work.stopsBetween = false) : k.freezes op = false := by
  cases hm : s.cur.mode with
  | sup => simp [Core.freezes, hmode, hm, hstops]
  | user =>
    have hmoving : k.moving = false := by
      rw [Core.moving, hhandler, htask, readyC_handler h hm]
      cases ht : s.core.task with
      | none => rfl
      | some t => simp [readyC_movedDue h hm ht]
    simp [Core.freezes, hhandler, readyC_handler h hm, hmoving, hstops]

end

/-! ### What is reserved at issue (R91, R92) -/

/-- The entry that a queue destination takes, not yet filled. -/
def State.reserve (s : State) (d : BitVec 5) (fmt : BitVec 16) : State := if d.toNat < 24 then s else s.pushQ (d.toNat - 24) false 0 fmt

section
variable (s : State) (d : BitVec 5) (fmt : BitVec 16)

theorem State.reserve_core_sel : (s.reserve d fmt).core.sel = s.core.sel := by unfold State.reserve; split <;> rfl
theorem State.reserve_core_c : (s.reserve d fmt).core.c = s.core.c := by unfold State.reserve; split <;> rfl
theorem State.reserve_core_v : (s.reserve d fmt).core.v = s.core.v := by unfold State.reserve; split <;> rfl
theorem State.reserve_core_f : (s.reserve d fmt).core.f = s.core.f := by unfold State.reserve; split <;> rfl
theorem State.reserve_core_sys : (s.reserve d fmt).core.sys = s.core.sys := by unfold State.reserve; split <;> rfl
theorem State.reserve_core_pid : (s.reserve d fmt).core.pid = s.core.pid := by unfold State.reserve; split <;> rfl
theorem State.reserve_core_handler : (s.reserve d fmt).core.handler = s.core.handler := by unfold State.reserve; split <;> rfl
theorem State.reserve_core_task : (s.reserve d fmt).core.task = s.core.task := by unfold State.reserve; split <;> rfl
theorem State.reserve_dev : (s.reserve d fmt).dev = s.dev := by unfold State.reserve; split <;> rfl

variable {d}

theorem State.reserve_queues_of_reg (h : d.toNat < 24) : (s.reserve d fmt).core.queues = s.core.queues := by rw [State.reserve, if_pos h]

theorem State.reserve_queue (h : 24 ≤ d.toNat) :
    (s.reserve d fmt).core.getQueue (d.toNat - 24) = s.core.getQueue (d.toNat - 24) ++ [⟨s.core.nextId, false, 0, fmt⟩] := by
  have hq : d.toNat - 24 < 8 := by have := d.isLt; omega
  rw [State.reserve, if_neg (Nat.not_lt.mpr h)]
  simp [State.pushQ, Core.getQueue, Core.setQueue, hq]

end

/-- Where a vector result goes: a register, or the entry reserved for it. -/
def State.landing (s : State) (d : BitVec 5) (bits : BitVec 512) (fmt : BitVec 16) : RegWrite :=
  if d.toNat < 24 then .v d.toNat ⟨bits, fmt⟩ else .q s.core.nextId bits

theorem State.launchLate_eq (s was : State) (i : Instr) (la : Option (BitVec 4)) (d : BitVec 5) (fmt : BitVec 16) (xs : List Src) :
    s.launchLate was i la (vRegs d) (if d.toNat < 24 then none else some (d.toNat - 24, fmt)) xs
      = (s.reserve d fmt).launchOp i was.cur.pc ((la.map (·.toNat)).getD 0) (vRegs d)
          (.late i (xs.filterMap Src.entry) was.snap (if d.toNat < 24 then none else some s.core.nextId)) := by
  by_cases hd : d.toNat < 24 <;> simp only [State.launchLate, State.reserve, hd, ↓reduceIte]

theorem State.finishV_long (s : State) {v : VecForm} {la : BitVec 4} (hla : v.la = some la) (pc : Word) (r : VReg) (e : Eff) :
    s.finishV v pc r e = (s.reserve v.dst r.fmt).launchOp v.instr pc la.toNat (vRegs v.dst)
      (.deliver [s.landing v.dst r.bits r.fmt] e.flags e.counts 0) := by
  by_cases hd : v.dst.toNat < 24 <;> simp only [State.finishV, State.reserve, State.landing, vRegs, hla, hd, ↓reduceIte]

/-- The C-stream with `op` as its one incomplete instruction, which took the next id. -/
def State.withOp (s : State) (op : LongOp) (wins : List Win) : State :=
  { s with core := { s.core with c := { s.core.c with flight := [op], wins := wins }, nextId := s.core.nextId + 1 } }

/-- An instruction launched in an empty C-stream. -/
structure Launched (s : State) (dests : List Reg) (work : Work) (op : LongOp) : Prop where
  dests : op.dests = dests
  work : op.work = work
  status : op.status = .running
  mode : op.mode = s.cur.mode

theorem State.launchOp_alone {s : State} (hsel : s.core.sel = .c) (hfree : s.core.c.flight = []) (i : Instr) (pc : Word) (la : Nat) (dests : List Reg)
    (work : Work) : ∃ op wins, s.launchOp i pc la dests work = s.withOp op wins ∧ Launched s dests work op := by
  refine ⟨?op, ?wins, ?launch, ?facts⟩
  case launch =>
    simp only [State.launchOp, State.withOp, State.updCur, Core.updStr, Core.setStr, Core.str, hsel, hfree]
    rfl
  case facts => exact ⟨rfl, rfl, rfl, rfl⟩

/-! ### What stands when it has issued -/

section
variable {s s2 : State} {i : Instr} {xs : List VReg} {there : Bool} {srcs : List (BitVec 5)} {d : BitVec 5} {fmt : BitVec 16}

/-- The state t in which a vector instruction that issued from s stands incomplete, as `op`; s2 is the state after its sources were popped. -/
structure Issued (s s2 : State) (i : Instr) (d : BitVec 5) (fmt : BitVec 16) (t : State) (op : LongOp) : Prop where
  pc : t.cur.pc = (s.issued i).cur.pc
  g : t.cur.g = s.cur.g
  v : t.core.v = s.core.v
  f : t.core.f = s.core.f
  flight : t.core.c.flight = [op]
  sel : t.core.sel = .c
  exited : t.core.c.exited = false
  pid : t.core.pid = s.core.pid
  clean : t.dev.poison = []
  fflags : t.core.sys.fflags = s.core.sys.fflags
  thawed : op.work.stopsBetween = false → t.core.freezes op = false
  status : op.status = .running
  dests : op.dests = vRegs d
  inReg : d.toNat < 24 → t.core.queues = s2.core.queues
  inQueue : 28 ≤ d.toNat → t.core.getQueue (d.toNat - 24) = s2.core.getQueue (d.toNat - 24) ++ [⟨s.core.nextId, false, 0, fmt⟩]

theorem issued_fflags (s : State) (i : Instr) : (s.issued i).core.sys.fflags = s.core.sys.fflags := by
  rw [State.issued_core_sys]
  unfold saveAt
  cases s.core.sel <;> dsimp only <;> split <;> simp

/-- A vector instruction with nothing incomplete in its stream, launched when its sources are popped and its entry is reserved. -/
theorem issued_of_launch (hready : ReadyC s) (htaken : Spec.Taken (s.issued i) srcs s2 xs there) (pc : Word) (la : Nat) (work : Work) :
    ∃ op, op.work = work ∧ Issued s s2 i d fmt ((s2.reserve d fmt).launchOp i pc la (vRegs d) work) op := by
  have hpops := onlyQueues_taken htaken
  have hsel2 : s2.core.sel = .c := by rw [hpops.core_sel, State.issued_core_sel, hready.1]
  obtain ⟨seen, hcur⟩ := hpops.cur
  have hc2 : s2.core.c = { (s.issued i).cur with seen := seen } := by rw [← hcur, State.cur, hsel2]; rfl
  have hfree : s2.core.c.flight = [] := by rw [hc2, State.issued_cur]; exact hready.2.2.2.2.1
  obtain ⟨op, wins, hlaunch, hop⟩ := State.launchOp_alone (s := s2.reserve d fmt) (by rw [State.reserve_core_sel, hsel2])
    (by rw [State.reserve_core_c, hfree]) i pc la (vRegs d) work
  refine ⟨op, hop.work, ?_⟩
  have hmode : op.mode = s.cur.mode := by
    rw [hop.mode, State.cur, State.reserve_core_sel, hsel2]
    simp [Core.str, State.reserve_core_c, hc2, Stream.advance]
  rw [hlaunch]
  have htcur : ((s2.reserve d fmt).withOp op wins).cur = { (s2.reserve d fmt).core.c with flight := [op], wins := wins } := by
    simp [State.withOp, State.cur, State.reserve_core_sel, hsel2, Core.str]
  rw [State.reserve_core_c, hc2] at htcur
  constructor
  case pc => rw [htcur]
  case g => rw [htcur, State.issued_cur]; rfl
  case v => exact (State.reserve_core_v ..).trans (hpops.core_v.trans (State.issued_core_v ..))
  case f => exact (State.reserve_core_f ..).trans (hpops.core_f.trans (State.issued_core_f ..))
  case flight => rfl
  case sel => exact (State.reserve_core_sel ..).trans hsel2
  case exited =>
    have hcore : s.cur = s.core.c := by rw [State.cur, hready.1]; rfl
    refine (congrArg Stream.exited ((State.reserve_core_c ..).trans hc2)).trans ?_
    rw [State.issued_cur, hcore]
    exact readyC_not_exited hready
  case pid => exact (State.reserve_core_pid ..).trans (hpops.core_pid.trans (State.issued_core_pid ..))
  case clean => exact (congrArg _ ((State.reserve_dev ..).trans (hpops.dev.trans (State.issued_dev ..)))).trans hready.2.2.2.2.2.2
  case fflags => exact (congrArg _ (State.reserve_core_sys ..)).trans ((congrArg _ hpops.core_sys).trans (issued_fflags ..))
  case thawed =>
    refine readyC_freezes hready ?_ ?_ hmode
    · exact (State.reserve_core_handler ..).trans (hpops.core_handler.trans (State.issued_core_handler ..))
    · exact (State.reserve_core_task ..).trans (hpops.core_task.trans (State.issued_core_task ..))
  case status => exact hop.status
  case dests => exact hop.dests
  case inReg => exact State.reserve_queues_of_reg s2 fmt
  case inQueue =>
    intro hd
    refine (State.reserve_queue s2 fmt (by omega)).trans ?_
    rw [hpops.core_nextId, State.issued_core_nextId]

end

/-! ### LONG_OP_COMPLETE of an instruction that stands alone (R87) -/

section
variable {t : State} {op : LongOp}

/-- One move, where it can make one. -/
theorem exec_longOpComplete_moves {u : State} (halone : t.core.c.flight = [op]) (hlist : t.takeList .c op = (t, op)) (hmove : t.opMove .c op = .on u)
    (hexited : u.core.c.exited = false) (hpid : u.core.pid = t.core.pid) : exec (.longOpComplete t.core.pid .c 0 1) t = .next u := by
  have hat : t.opAt .c 0 = some op := by simp [State.opAt, Core.str, halone]
  have hfind : (t.core.str .c).flight.find? (fun o => o.id == op.id) = some op := by simp [Core.str, halone]
  have hgoes : t.goOn .c op.id 1 = u := by simp only [State.goOn, hfind, hlist, hmove]
  have hend : u.settleEnd = u := State.settleEnd_of_not_exited (by simp [hexited])
  change execLongOpComplete t.core.pid .c 0 1 t = _
  simp only [execLongOpComplete, State.onCore, State.select_self, hat, hgoes, hend]
  rw [← hpid, State.select_self]

/-- None, where it cannot. -/
theorem exec_longOpComplete_still (halone : t.core.c.flight = [op]) (hlist : t.takeList .c op = (t, op)) (hmove : t.opMove .c op = .still)
    (hexited : t.core.c.exited = false) : exec (.longOpComplete t.core.pid .c 0 1) t = .next t := by
  have hat : t.opAt .c 0 = some op := by simp [State.opAt, Core.str, halone]
  have hfind : (t.core.str .c).flight.find? (fun o => o.id == op.id) = some op := by simp [Core.str, halone]
  have hgoes : t.goOn .c op.id 1 = t := by simp only [State.goOn, hfind, hlist, hmove]
  have hend : t.settleEnd = t := State.settleEnd_of_not_exited (by simp [hexited])
  change execLongOpComplete t.core.pid .c 0 1 t = _
  simp only [execLongOpComplete, State.onCore, State.select_self, hat, hgoes, hend]

/-- While an entry that it popped is not filled it makes no move (R92). -/
theorem opMove_late_unfilled {i : Instr} {es : List (Nat × QEntry)} {snap : Snap} {entry : Option Nat} (hwork : op.work = .late i es snap entry)
    (hunfilled : es.all (fun e => e.2.filled) = false) : t.opMove .c op = .still := by
  have hself : t.core.selfMoves op = false := by
    simp only [Core.selfMoves, hwork, Work.popped, List.all_map, Bool.and_eq_false_iff]
    exact .inr hunfilled
  have hfast : t.fastBad t.core op = false := by simp [State.fastBad, Work.fastTile, hwork]
  simp only [State.opMove, hself, hfast, hwork]
  rfl

/-- A result computed at issue is delivered by the one move (R85). -/
theorem opMove_deliver {ws : List RegWrite} {flags : BitVec 6} {c : Counts} (hwork : op.work = .deliver ws flags c 0) (hstatus : op.status = .running)
    (hfreezes : t.core.freezes op = false) (hclean : t.dev.poison = []) :
    t.opMove .c op = .on (t.updThis (fun k => k.deliverAll .c op ws flags c 0)) := by
  have hself : t.core.selfMoves op = true := by simp [Core.selfMoves, hwork, hstatus, hfreezes, Work.popped]
  have hpoison : t.popPoisoned op = false := by simp [State.popPoisoned, hclean]
  simp only [State.opMove, hself, hpoison, hwork, State.plainMove]
  rfl

end

end Sys2Proof.Machine
end

section
/-! A lane by lane instruction whose sources are not all there, and O34. -/

namespace Sys2Proof.Machine

open Sys2Proof.Safety

/-- The entries among the sources are filled when the sources are there. -/
theorem entries_filled (srcs : List Src) : (srcs.filterMap Src.entry).all (fun e => e.2.filled) = srcs.all Src.ready := by
  induction srcs with
  | nil => rfl
  | cons x srcs ih => cases hx : x.entry <;> simp [hx, Src.ready, ih]

namespace LaneForm

variable {s s2 : State} {i : Instr} {o : Spec.LaneOp} {v : VecForm} {run : State → BitVec 16 → List VReg → VOut} {xs : List VReg}
  {fmt : BitVec 16}

/-- One that popped an entry not yet filled stands incomplete with the entries that it popped (R92). -/
theorem exec_unfilled (h : LaneForm s i o v run) (hready : VecReady v s s2 xs false) (hfmt : o.fmt (xs.map (·.fmt)) = some fmt) :
    ∃ t op es entry, Machine.exec i s = .next t ∧ Issued s s2 i o.dst fmt t op ∧ op.work = .late i es s.snap entry
      ∧ es.all (fun e => e.2.filled) = false := by
  obtain ⟨srcs, -, hunready, hexec⟩ := execVec_ready (tags := o.fmt) (run := run) hready
  obtain ⟨op, hwork, hissued⟩ := issued_of_launch (fmt := fmt) (d := o.dst) hready.ready hready.taken s.cur.pc ((v.la.map (·.toNat)).getD 0)
    (.late i (srcs.filterMap Src.entry) s.snap (if o.dst.toNat < 24 then none else some s2.core.nextId))
  rw [h.instr] at hissued
  refine ⟨_, op, _, _, ?_, hissued, hwork, (entries_filled srcs).trans hunready⟩
  rw [h.exec, hexec, hfmt]
  simp only [Bool.false_eq_true, if_false, State.launchLate_eq, h.instr, h.dst]

end LaneForm

end Sys2Proof.Machine

namespace Sys2Proof.Proofs

open Sys2Proof.Machine Sys2Proof.Safety

/-- Settles O34: every lane by lane instruction is a vector form that computes the lanes given (`laneOp_form`); with its sources there it delivers
them under the mask (`LaneForm.exec_short`, `LaneForm.yields`), and without it stands incomplete (`LaneForm.exec_unfilled`). -/
theorem vectorLanesComplete : Obligations.VectorLanesComplete := by
  unfold Obligations.VectorLanesComplete
  refine ⟨?unfilled, ?short⟩
  case unfilled =>
    intro i s s2 o xs fmt hready hwf hop hq3 htaken hroom hfmt
    obtain ⟨v, run, h⟩ := laneOp_form hop
    obtain ⟨t, op, es, entry, hexec, hissued, hwork, hunfilled⟩ := h.exec_unfilled (h.vecReady hready hwf hq3 htaken hroom) hfmt
    have hlist : t.takeList .c op = (t, op) := State.takeList_plain t .c op (by simp [hwork]) (by simp [hwork])
    refine ⟨t, op, hexec, hissued.pc, hissued.g, hissued.v, hissued.f, ?_, hissued.dests, hissued.inReg,
      fun hd => ⟨_, hissued.inQueue hd, rfl, rfl⟩, ?_⟩
    · rw [State.cur, hissued.sel]
      exact hissued.flight
    · rw [← hissued.pid]
      exact exec_longOpComplete_still hissued.flight hlist (opMove_late_unfilled hwork hunfilled) hissued.exited
  case short =>
    intro i s s2 o xs fmt hready hwf hop hshort hq3 htaken hroom hfmt
    obtain ⟨v, run, h⟩ := laneOp_form hop
    exact ⟨_, _, h.exec_short (h.vecReady hready hwf hq3 htaken hroom) hfmt hshort, h.yields hfmt⟩

end Sys2Proof.Proofs
end

section
/-! What the LONG_OP_COMPLETE of a vector instruction delivers, and O35 (spec/05_fetch_and_issue.md R85, R91, R92). -/

namespace Sys2Proof.Machine

open Sys2Proof.Safety

/-! ### Delivery of a vector result -/

/-- A vector result goes to a v register or to an entry. -/
def RegWrite.isVector : RegWrite → Bool
  | .v _ _ => true
  | .q _ _ => true
  | _ => false

theorem State.landing_isVector (s : State) (d : BitVec 5) (bits : BitVec 512) (fmt : BitVec 16) : (s.landing d bits fmt).isVector = true := by
  unfold State.landing
  split <;> rfl

/-- The entry with the id given, filled with `bits`. -/
def QEntry.filledBy (id : Nat) (bits : BitVec 512) (e : QEntry) : QEntry := if e.id = id then { e with filled := true, bits := bits } else e

theorem Core.getQueue_fillEntry (k : Core) (id : Nat) (bits : BitVec 512) (q : Nat) :
    (k.fillEntry id bits).getQueue q = (k.getQueue q).map (QEntry.filledBy id bits) := by
  simp only [Core.getQueue, Core.fillEntry]
  by_cases hq : q < 8 <;> simp [hq, QEntry.filledBy]

/-- Entries with other ids stay. -/
theorem map_filledBy_of_ne {n : Nat} {bits : BitVec 512} {es : List QEntry} (h : ∀ e ∈ es, e.id ≠ n) : es.map (QEntry.filledBy n bits) = es :=
  (List.map_congr_left (g := fun e => e) fun e he => if_neg (h e he)).trans (List.map_id' es)

section
variable {k : Core} {op : LongOp} {w : RegWrite} {flags : BitVec 6} {c : Counts}

theorem Core.deliver_vector (hw : w.isVector = true) : (k.deliver .c w).c.g = k.c.g ∧ (k.deliver .c w).c.exited = k.c.exited
    ∧ (k.deliver .c w).f = k.f ∧ (k.deliver .c w).sys = k.sys ∧ (k.deliver .c w).pid = k.pid ∧ (k.deliver .c w).sel = k.sel
    ∧ (k.deliver .c w).c.flight.map (·.id) = k.c.flight.map (·.id) := by
  cases w with
  | g _ _ => cases hw
  | f _ _ => cases hw
  | v n r => exact ⟨rfl, rfl, rfl, rfl, rfl, rfl, rfl⟩
  | q id bits => exact ⟨rfl, rfl, rfl, rfl, rfl, rfl, by simp [Core.deliver, Core.fillEntry]⟩

theorem Core.deliverAll_one : k.deliverAll .c op [w] flags c 0 = ((k.deliver .c w).raise op.tensor flags c).dropOp .c op.id := by
  simp [Core.deliverAll, Core.raisePivots]

/-- An instruction alone in its stream delivers a vector result: it is gone, and no other register has changed. -/
theorem Core.deliverAll_vector (hw : w.isVector = true) (halone : k.c.flight = [op]) :
    (k.deliverAll .c op [w] flags c 0).c.flight = [] ∧ (k.deliverAll .c op [w] flags c 0).c.g = k.c.g
    ∧ (k.deliverAll .c op [w] flags c 0).c.exited = k.c.exited ∧ (k.deliverAll .c op [w] flags c 0).f = k.f
    ∧ (k.deliverAll .c op [w] flags c 0).sys.fflags = k.sys.fflags ||| flags ∧ (k.deliverAll .c op [w] flags c 0).pid = k.pid
    ∧ (k.deliverAll .c op [w] flags c 0).sel = k.sel := by
  obtain ⟨hg, hexited, hf, hsys, hpid, hsel, hflight⟩ := Core.deliver_vector (k := k) hw
  rw [Core.deliverAll_one]
  refine ⟨?_, hg, hexited, hf, ?_, hpid, hsel⟩
  · rw [halone, List.map_cons, List.map_nil] at hflight
    obtain ⟨o, ho, hid⟩ := List.map_eq_singleton_iff.mp hflight
    simp [Core.dropOp, Core.updStr, Core.setStr, Core.str, Core.raise, ho, hid]
  · exact congrArg (fun r : SysRegs => r.fflags ||| flags) hsys

end

/-! ### What popping leaves in the queues -/

/-- What is left in a queue stood there before. -/
theorem mem_getQueue_of_taken {s t : State} {ns : List (BitVec 5)} {xs : List VReg} {there : Bool} (h : Spec.Taken s ns t xs there)
    {q : Nat} {y : QEntry} (hy : y ∈ t.core.getQueue q) : y ∈ s.core.getQueue q := by
  induction ns generalizing s xs there with
  | nil =>
    obtain ⟨rfl, -, -⟩ := h
    exact hy
  | cons n ns ih =>
    rcases h with ⟨-, rest, -, htaken⟩ | ⟨-, e, es, rest, more, hentries, -, -, htaken⟩
    · exact ih htaken
    · have hleft : y ∈ (s.core.setQueue (n.toNat - 24) es).getQueue q := by
        have hmem := ih htaken
        cases hx : s.core.sel <;> · rw [hx] at hmem; exact hmem
      by_cases hq : n.toNat - 24 = q
      · subst hq
        have hqueue : n.toNat - 24 < 8 := by have := n.isLt; omega
        rw [hentries]
        simp only [Core.getQueue, Core.setQueue_queues, Vector.getElem?_setIfInBounds_self_of_lt hqueue, Option.getD_some] at hleft
        exact List.mem_cons_of_mem e hleft
      · simpa only [Core.getQueue, Core.setQueue_queues, Vector.getElem?_setIfInBounds_ne hq] using hleft

/-! ### A long-latency form (R85, R213 to R216) -/

namespace LaneForm

variable {s s2 : State} {i : Instr} {o : Spec.LaneOp} {v : VecForm} {run : State → BitVec 16 → List VReg → VOut} {xs : List VReg}
  {fmt : BitVec 16}

/-- It issues, with its entry reserved and its result on the way. -/
theorem exec_long (h : LaneForm s i o v run) (hready : VecReady v s s2 xs true) (hfmt : o.fmt (xs.map (·.fmt)) = some fmt) (hlong : o.long = true)
    {r : VReg} {e : Eff} (hresult : v.result s.core fmt (run s fmt xs) = (r, e)) :
    ∃ t op, Machine.exec i s = .next t ∧ Issued s s2 i o.dst r.fmt t op
      ∧ op.work = .deliver [s2.landing o.dst r.bits r.fmt] e.flags e.counts 0 := by
  obtain ⟨la, hla⟩ := Option.isSome_iff_exists.mp (h.long.trans hlong)
  obtain ⟨op, hwork, hissued⟩ := issued_of_launch (fmt := r.fmt) (d := o.dst) hready.ready hready.taken s.cur.pc la.toNat
    (.deliver [s2.landing o.dst r.bits r.fmt] e.flags e.counts 0)
  rw [h.instr] at hissued
  refine ⟨_, op, ?_, hissued, hwork⟩
  rw [h.exec_there hready hfmt, hresult, State.finishV_long s2 hla, h.instr, h.dst]

end LaneForm

/-- Its LONG_OP_COMPLETE delivers the result (R85). -/
theorem Issued.completes {s s2 t : State} {i : Instr} {d : BitVec 5} {fmt : BitVec 16} {op : LongOp} (h : Issued s s2 i d fmt t op) {w : RegWrite}
    (hw : w.isVector = true) {flags : BitVec 6} {c : Counts} (hwork : op.work = .deliver [w] flags c 0) :
    exec (.longOpComplete s.core.pid .c 0 1) t = .next (t.updThis fun k => k.deliverAll .c op [w] flags c 0) := by
  obtain ⟨-, -, hexited, -, -, hpid, -⟩ := Core.deliverAll_vector (flags := flags) (c := c) hw h.flight
  rw [← h.pid]
  exact exec_longOpComplete_moves h.flight (State.takeList_plain t .c op (by simp [hwork]) (by simp [hwork]))
    (opMove_deliver hwork h.status (h.thawed (by rw [hwork]; rfl)) h.clean) (hexited.trans h.exited) hpid

/-- The register, or the reserved entry, takes the result (R85, R91, R92). -/
theorem Issued.lands {s s2 t : State} {i : Instr} {d : BitVec 5} {r : VReg} {op : LongOp} (h : Issued s s2 i d r.fmt t op)
    (hid : s2.core.nextId = s.core.nextId) (hids : ∀ q, ∀ y ∈ s2.core.getQueue q, y.id < s.core.nextId) (flags : BitVec 6) (c : Counts) :
    Spec.Lands s s2 t (t.updThis fun k => k.deliverAll .c op [s2.landing d r.bits r.fmt] flags c 0) d r := by
  refine ⟨fun hd => ⟨h.inReg hd, ?_, ?_⟩, 
    fun hd => ⟨?_, ⟨_, false, 0, r.fmt⟩, ⟨s.core.nextId, true, r.bits, r.fmt⟩, h.inQueue hd, rfl, rfl, ?_, rfl, rfl, rfl⟩⟩
  · rw [State.landing, if_pos hd, ← h.inReg hd, State.updThis, Core.deliverAll_one]
    rfl
  · rw [State.landing, if_pos hd, State.updThis, Core.deliverAll_one]
    exact congrArg (fun v : Vector VReg 24 => v.setIfInBounds d.toNat r) h.v
  · rw [State.landing, if_neg (by omega), State.updThis, Core.deliverAll_one]
    exact h.v
  · rw [State.landing, if_neg (by omega), State.updThis, Core.deliverAll_one, hid]
    refine (Core.getQueue_fillEntry t.core s.core.nextId r.bits (d.toNat - 24)).trans ?_
    rw [h.inQueue hd, List.map_append, map_filledBy_of_ne fun e he => (hids _ e he).ne]
    simp [QEntry.filledBy]

end Sys2Proof.Machine

namespace Sys2Proof.Proofs

open Sys2Proof.Machine Sys2Proof.Safety

/-- Settles O35: a long-latency vector form issues with its entry reserved (`LaneForm.exec_long`), and its LONG_OP_COMPLETE delivers the result of the
values that stood at issue (`Issued.completes`, `Issued.lands`). -/
theorem longVectorLanesComplete : Obligations.LongVectorLanesComplete := by
  unfold Obligations.LongVectorLanesComplete
  intro i s s2 o xs fmt hready hwf hop hlong hq3 htaken hroom hfmt hids
  obtain ⟨v, run, h⟩ := laneOp_form hop
  have hyields := h.yields hfmt
  obtain ⟨⟨r, e⟩, hresult⟩ : ∃ x, v.result s.core fmt (run s fmt xs) = x := ⟨_, rfl⟩
  rw [hresult] at hyields
  obtain ⟨t, op, hexec, hissued, hwork⟩ := h.exec_long (h.vecReady hready hwf hq3 htaken hroom) hfmt hlong hresult
  have hw := s2.landing_isVector o.dst r.bits r.fmt
  obtain ⟨hflight, hg, -, hf, hfflags, -, hsel⟩ := Core.deliverAll_vector (flags := e.flags) (c := e.counts) hw hissued.flight
  have hid : s2.core.nextId = s.core.nextId := (onlyQueues_taken htaken).core_nextId.trans (State.issued_core_nextId ..)
  have hids2 : ∀ q, ∀ y ∈ s2.core.getQueue q, y.id < s.core.nextId := fun q y hy => hids q y (by
    have hmem := mem_getQueue_of_taken htaken hy
    rwa [Core.getQueue, State.issued_core_queues] at hmem)
  have hcur : t.cur = t.core.c := by rw [State.cur, hissued.sel]; rfl
  have hcur' : (t.updThis fun k => k.deliverAll .c op [s2.landing o.dst r.bits r.fmt] e.flags e.counts 0).cur
      = (t.core.deliverAll .c op [s2.landing o.dst r.bits r.fmt] e.flags e.counts 0).c := by
    rw [State.cur, State.updThis, hsel, hissued.sel]
    rfl
  refine ⟨t, _, r, e, hexec, hissued.v, hissued.g, hissued.f, ?_, hyields, hissued.completes hw hwork, ?_, ?_, hf.trans hissued.f,
    hfflags.trans (by rw [hissued.fflags]), hissued.lands hid hids2 e.flags e.counts⟩
  · simp [hcur, hissued.flight]
  · rw [hcur', hflight]
  · rw [hcur', hg, ← hissued.g, hcur]

end Sys2Proof.Proofs
end

section
/-! Tags that are not accepted (spec/05_fetch_and_issue.md R98). -/

namespace Sys2Proof.Machine

open Sys2Proof.Safety

/-- TRAP.VAL of a tag mismatch as a number. -/
theorem tagVal_eq (i : Instr) (f1 f2 : BitVec 16) :
    tagVal i f1 f2 = .ofNat 64 ((encode i).toNat * 2 ^ 32 + f2.toNat * 2 ^ 16 + f1.toNat) := by
  have hi := (encode i).isLt
  have h1 := f1.isLt
  have h2 := f2.isLt
  have hupper : (encode i).toNat * 2 ^ 32 ||| f2.toNat * 2 ^ 16 = ((encode i).toNat * 2 ^ 16 + f2.toNat) * 2 ^ 16 := by
    rw [Nat.mul_comm _ (2 ^ 32), ← Nat.two_pow_add_eq_or_of_lt (by omega)]
    ring
  have hall : ((encode i).toNat * 2 ^ 16 + f2.toNat) * 2 ^ 16 ||| f1.toNat = (encode i).toNat * 2 ^ 32 + f2.toNat * 2 ^ 16 + f1.toNat := by
    rw [Nat.mul_comm _ (2 ^ 16), ← Nat.two_pow_add_eq_or_of_lt h1]
    ring
  apply BitVec.eq_of_toNat_eq
  simp only [tagVal, BitVec.toNat_or, BitVec.toNat_shiftLeft, BitVec.toNat_setWidth, BitVec.toNat_ofNat, Nat.shiftLeft_eq]
  rw [Nat.mod_eq_of_lt (a := (encode i).toNat) (by omega), Nat.mod_eq_of_lt (a := f2.toNat) (by omega), Nat.mod_eq_of_lt (a := f1.toNat) (by omega),
    Nat.mod_eq_of_lt (a := (encode i).toNat * 2 ^ 32) (by omega), Nat.mod_eq_of_lt (a := f2.toNat * 2 ^ 16) (by omega), hupper, hall,
    Nat.mod_eq_of_lt (by omega)]

theorem tagValOf_eq (i : Instr) (xs : List VReg) : tagValOf i (xs.map (·.fmt))
    = .ofNat 64 ((encode i).toNat * 2 ^ 32 + (Spec.fm xs 1).toNat * 2 ^ 16 + (Spec.fm xs 0).toNat) := by
  rw [tagValOf, tagVal_eq, Spec.fm, Spec.fm, List.getElem?_map, List.getElem?_map]

theorem readyC_quiet {s : State} (h : ReadyC s) : s.quiet = true := by
  obtain ⟨-, -, -, -, hflight, -⟩ := h
  have hcur : (s.core.str s.core.sel).flight = [] := hflight
  simp [State.quiet, State.quietOn, hcur]

/-- A lane by lane instruction traps before anything is popped or written (R98). -/
theorem LaneForm.exec_badTags {s s2 : State} {i : Instr} {o : Spec.LaneOp} {v : VecForm} {run : State → BitVec 16 → List VReg → VOut}
    {xs : List VReg} {there : Bool} (h : LaneForm s i o v run) (hready : VecReady v s s2 xs there) (hfmt : o.fmt (xs.map (·.fmt)) = none) :
    Machine.exec i s = .next (s.trapAt 0x04 (tagValOf i (xs.map (·.fmt)))) := by
  obtain ⟨_, -, -, hexec⟩ := execVec_ready (tags := o.fmt) (run := run) hready
  rw [h.exec, hexec, hfmt, h.instr]

end Sys2Proof.Machine
end

section
/-! The whole-register vector instructions (spec/11_vector_instructions.md R209, R211, R221). -/

namespace Sys2Proof.Machine

open Sys2Proof.Safety

theorem bitsOf_eq_srcBits (xs : List VReg) (j : Nat) : (Spec.bitsOf xs j).toNat = srcBits xs j := by
  unfold Spec.bitsOf srcBits
  cases xs[j]? <;> rfl

/-- Each source gives a value. -/
theorem length_of_taken {s t : State} {ns : List (BitVec 5)} {xs : List VReg} {there : Bool} (h : Spec.Taken s ns t xs there) :
    xs.length = ns.length := by
  induction ns generalizing s xs there with
  | nil =>
    obtain ⟨-, rfl, -⟩ := h
    rfl
  | cons n ns ih =>
    rcases h with ⟨-, rest, rfl, htaken⟩ | ⟨-, e, es, rest, more, -, rfl, -, htaken⟩ <;> simp [ih htaken]

theorem ne_nil_of_taken {s t : State} {ns : List (BitVec 5)} {xs : List VReg} {there : Bool} (h : Spec.Taken s ns t xs there) (hns : ns ≠ []) :
    xs ≠ [] := by
  have hlen := length_of_taken h
  rintro rfl
  exact hns (List.length_eq_zero_iff.mp hlen.symm)

/-- Any tag is accepted of a source that is there. -/
theorem oneFmt_any {xs : List VReg} (h : xs ≠ []) : oneFmt (fun _ => true) (xs.map (·.fmt)) = some (Spec.fm xs 0) := by
  rcases xs with _ | ⟨x, xs⟩
  · exact absurd rfl h
  · rfl

/-- A tag but BE is accepted of one. -/
theorem oneFmt_noBe {xs : List VReg} (h : xs ≠ []) (hbe : isBe (tagOf (Spec.fm xs 0)) = false) :
    oneFmt noBe (xs.map (·.fmt)) = some (Spec.fm xs 0) := by
  rcases xs with _ | ⟨x, xs⟩
  · exact absurd rfl h
  · exact if_pos (congrArg (!·) hbe)

/-- A register alone is a source that is there. -/
theorem taken_reg {s : State} {n : BitVec 5} (h : n.toNat < 24) : Spec.Taken s [n] s [s.core.getV n.toNat] true :=
  .inl ⟨h, [], rfl, rfl, rfl, rfl⟩

/-- A masked value of no flags is masked as R99 says. -/
theorem VecForm.masked_result {v : VecForm} {s : State} {k : BitVec 2} {pol me : BitVec 1} (hmask : v.mask = .of me k pol) (fmt : BitVec 16)
    {bits : Nat} (hbits : bits < 2 ^ 512) :
    Spec.Masked s v.dst k pol me (clearPad (tagOf fmt) bits) (v.result s.core fmt (VOut.plain (tagOf fmt) bits)).1 := by
  refine ⟨fun hme => VecForm.toNat_result v s.core fmt (by simp [hmask, MaskSel.of, hme]) hbits, fun l hl => ?_⟩
  have hl : l < lanesOf (tagOf fmt) := hl
  have hcond : (v.mask.on = false ∨ (VOut.plain (tagOf fmt) bits).n ≤ l ∨ (s.core.getV v.mask.reg).bits.getLsbD l = true)
      ↔ (me = 0 ∨ (s.core.getV k.toNat).bits.getLsbD l = true) := by
    have hn : ¬ (VOut.plain (tagOf fmt) bits).n ≤ l := Nat.not_le.mpr hl
    rcases BitVec.eq_zero_or_eq_one me with hme | hme <;> simp [hmask, MaskSel.of, hme, hn]
  refine (VecForm.laneOf_result v s.core fmt le_rfl hl).trans ?_
  simp only [hcond]
  simp only [hmask, MaskSel.of, beq_iff_eq]
  exact congrArg₂ _ (laneOf_clearPad bits hl).symm rfl

/-- The instruction is the short vector form `v`, whose result is the 512 bits given, without flags. -/
structure PlainForm (s : State) (i : Instr) (srcs : List (BitVec 5)) (d : BitVec 5) (mask : MaskSel) (tags : List (BitVec 16) → Option (BitVec 16))
    (full : State → BitVec 16 → List VReg → Nat) (v : VecForm) : Prop where
  exec : exec i s = execVec v tags (fun s fmt xs => VOut.plain (tagOf fmt) (full s fmt xs)) s
  instr : v.instr = i
  srcs : v.srcs = srcs
  dst : v.dst = d
  mask : v.mask = mask
  short : v.la = none

/-- It writes or pushes those bits under its mask. -/
theorem PlainForm.completes {s s2 : State} {i : Instr} {srcs : List (BitVec 5)} {d : BitVec 5} {k : BitVec 2} {pol me : BitVec 1}
    {tags : List (BitVec 16) → Option (BitVec 16)} {full : State → BitVec 16 → List VReg → Nat} {v : VecForm} {xs : List VReg}
    {fmt : BitVec 16} (h : PlainForm s i srcs d (.of me k pol) tags full v) (hready : ReadyC s) (hwf : i.wellFormed = true) (hq3 : s.popsQ3 srcs = false)
    (htaken : Spec.Sources (s.issued i) srcs s2 xs) (hroom : s.canPut d = true) (htags : tags (xs.map (·.fmt)) = some fmt)
    (hbits : full s fmt xs < 2 ^ 512) :
    ∃ r, Machine.exec i s = .next (Spec.put s2 d r Eff.none) ∧ r.fmt = fmt
      ∧ Spec.Masked s d k pol me (clearPad (tagOf fmt) (full s fmt xs)) r := by
  obtain ⟨_, -, -, hexec⟩ := execVec_ready (v := v) (s := s) (s2 := s2) (xs := xs) (there := true) (tags := tags)
    (run := fun s fmt xs => VOut.plain (tagOf fmt) (full s fmt xs))
    ⟨hready, by rw [h.instr]; exact hwf, by rw [h.srcs]; exact hq3, by rw [h.instr, h.srcs]; exact htaken, by rw [h.dst]; exact hroom⟩
  refine ⟨(v.result s.core fmt (VOut.plain (tagOf fmt) (full s fmt xs))).1, ?_, rfl, ?_⟩
  · rw [h.exec, hexec, htags]
    simp only [State.finishV, h.short, h.dst, if_true]
    rw [VecForm.result, VOut.total_plain]
    rfl
  · rw [← h.dst]
    exact VecForm.masked_result h.mask fmt hbits

/-- The whole-register instructions are such forms. -/
theorem wholeOp_form {s : State} {i : Instr} {srcs : List (BitVec 5)} {d : BitVec 5} {k : BitVec 2} {pol me : BitVec 1}
    {g : BitVec 512 → BitVec 512 → BitVec 512} (h : Spec.wholeOp s i = some (srcs, d, k, pol, me, g)) :
    srcs ≠ [] ∧ ∃ full v, PlainForm s i srcs d (.of me k pol) (oneFmt fun _ => true) full v
      ∧ ∀ s fmt xs, full s fmt xs = (g (Spec.bitsOf xs 0) (Spec.bitsOf xs 1)).toNat := by
  cases i with
  | vand d a b k pol me =>
    cases h
    exact ⟨List.cons_ne_nil _ _, _, _, ⟨vectorBits.eq_def _ _ s, rfl, rfl, rfl, rfl, rfl⟩, fun _ _ xs => by simp [bitsOf_eq_srcBits]⟩
  | vandH d a m =>
    cases h
    exact ⟨List.cons_ne_nil _ _, _, _, ⟨vectorBits.eq_def _ _ s, rfl, rfl, rfl, rfl, rfl⟩, fun _ _ xs => by simp [bitsOf_eq_srcBits]⟩
  | vor d a b k pol me =>
    cases h
    exact ⟨List.cons_ne_nil _ _, _, _, ⟨vectorBits.eq_def _ _ s, rfl, rfl, rfl, rfl, rfl⟩, fun _ _ xs => by simp [bitsOf_eq_srcBits]⟩
  | vorH d a m =>
    cases h
    exact ⟨List.cons_ne_nil _ _, _, _, ⟨vectorBits.eq_def _ _ s, rfl, rfl, rfl, rfl, rfl⟩, fun _ _ xs => by simp [bitsOf_eq_srcBits]⟩
  | vxor d a b k pol me =>
    cases h
    exact ⟨List.cons_ne_nil _ _, _, _, ⟨vectorBits.eq_def _ _ s, rfl, rfl, rfl, rfl, rfl⟩, fun _ _ xs => by simp [bitsOf_eq_srcBits]⟩
  | vxorH d a m =>
    cases h
    exact ⟨List.cons_ne_nil _ _, _, _, ⟨vectorBits.eq_def _ _ s, rfl, rfl, rfl, rfl, rfl⟩, fun _ _ xs => by simp [bitsOf_eq_srcBits]⟩
  | vmov d a k pol me =>
    cases h
    exact ⟨List.cons_ne_nil _ _, _, _, ⟨vectorMove.eq_def _ s, rfl, rfl, rfl, rfl, rfl⟩, fun _ _ xs => (bitsOf_eq_srcBits xs 0).symm⟩
  | vmovH d a m =>
    cases h
    exact ⟨List.cons_ne_nil _ _, _, _, ⟨vectorMove.eq_def _ s, rfl, rfl, rfl, rfl, rfl⟩, fun _ _ xs => (bitsOf_eq_srcBits xs 0).symm⟩
  | _ => cases h

end Sys2Proof.Machine
end

section
/-! vcmp, vcompress, vpopm, vsplat, vzero and vswap (spec/11_vector_instructions.md R210 to R212, R221), and O36. -/

namespace Sys2Proof.Machine

open Sys2Proof.Safety

section
variable {s s2 : State} {xs : List VReg}

/-! ### vcmp (R210) -/

theorem lanesOf_le (tag : Nat) : lanesOf tag ≤ 512 := by
  unfold lanesOf
  split
  · decide
  · decide
  · decide
  · exact Nat.div_le_self 512 _

theorem cmpLane_lt (fmt : BitVec 16) (u : Bool) (c a b : Nat) : (cmpLane fmt u c a b).1 < 2 := by
  unfold cmpLane
  dsimp only
  split_ifs <;> simp

theorem bitField_one (v l : Nat) : bitField v l 1 = (v.testBit l).toNat := by
  rw [bitField, pow_one, Nat.toNat_testBit]

/-- Bits packed from bit 0 on. -/
theorem testBit_foldl_bits {n : Nat} {x : Nat → Nat} (hx : ∀ i, x i < 2) (l : Nat) :
    ((List.range n).foldl (fun acc i => acc + x i * 2 ^ i) 0).testBit l = (decide (l < n) && x l == 1) := by
  have hpack : (List.range n).foldl (fun acc i => acc + x i * 2 ^ i) 0 = packFields (fun i => i) (fun _ => 1) x n := by
    unfold packFields
    congr 1
    funext acc i
    rw [pow_one, Nat.mod_eq_of_lt (hx i)]
  have hrise : Rising (fun i => i) (fun _ => 1) n := fun i j hij _ => hij
  rw [hpack]
  by_cases hl : l < n
  · have hfield := bitField_packFields (x := x) hrise hl
    rw [bitField_one, pow_one, Nat.mod_eq_of_lt (hx l)] at hfield
    cases hbit : (packFields (fun i => i) (fun _ => 1) x n).testBit l <;> simp [hbit] at hfield <;> simp [hl, ← hfield]
  · have hlt : packFields (fun i => i) (fun _ => 1) x n < 2 ^ l := packFields_lt hrise fun i hi => by omega
    simp [Nat.testBit_lt_two_pow hlt, hl]

/-- Lanes of a mask are its bits (R97). -/
theorem laneOf_mask (bits l : Nat) : laneOf 15 bits l = (bits.testBit l).toNat := by
  rw [← bitField_one]
  simp [laneOf, laneAt, isBe, laneBits]

theorem tagOf_mask : tagOf (mkFmt 15 0) = 15 := tagOf_mkFmt (by decide) 0

/-- A bit of a masked mask. -/
theorem VecForm.getLsbD_result (v : VecForm) (k : Core) {o : VOut} (hn : o.n ≤ 512) {l : Nat} (hl : l < 512) :
    (v.result k (mkFmt 15 0) o).1.bits.getLsbD l
      = if v.mask.on = false ∨ o.n ≤ l ∨ (k.getV v.mask.reg).bits.getLsbD l = true then o.bits.testBit l
        else if v.mask.free = true ∨ 24 ≤ v.dst.toNat then true else (k.getV v.dst.toNat).bits.getLsbD l := by
  have hlane := v.laneOf_result k (mkFmt 15 0) (o := o) (l := l) (by rw [tagOf_mask]; exact hn) (by rw [tagOf_mask]; exact hl)
  have hwidth : (laneAt 15 l).2 = 1 := rfl
  simp only [tagOf_mask, laneOf_mask, hwidth, BitVec.testBit_toNat] at hlane
  have hinj : ∀ x y : Bool, x.toNat = y.toNat → x = y := by decide
  refine hinj _ _ (hlane.trans ?_)
  split_ifs <;> rfl

/-- The bits and the effects of a comparison before its mask. -/
def cmpOut (u : Bool) (c : Nat) (xs : List VReg) : VOut :=
  let t := tagOf (srcFmt xs 0)
  let r := fun i => cmpLane (srcFmt xs 0) u c (laneOf t (srcBits xs 0) i) (laneOf t (srcBits xs 1) i)
  ⟨lanesOf t, (List.range (lanesOf t)).foldl (fun acc i => acc + (r i).1 * 2 ^ i) 0, fun i => (r i).2⟩

theorem exec_vcmp_eq (s : State) (d a b : BitVec 5) (c : BitVec 4) (k : BitVec 2) (u pol me : BitVec 1) :
    exec (.vcmp d a b c k u pol me) s = execVec (formV (.vcmp d a b c k u pol me) d a b k pol me)
      (fun fs => (pairFmt (cmpTag (u == 1)) true fs).map (fun _ => mkFmt 15 0)) (fun _ _ xs => cmpOut (u == 1) c.toNat xs) s :=
  execVcmp.eq_def d a b c k u pol me s

theorem testBit_cmpOut {u : Bool} {c : Nat} (htags : tagOf (srcFmt xs 1) = tagOf (srcFmt xs 0)) (l : Nat) :
    (cmpOut u c xs).bits.testBit l
      = (decide (l < lanesOf (tagOf (Spec.fm xs 0))) && (cmpLane (Spec.fm xs 0) u c (Spec.at_ xs 0 l) (Spec.at_ xs 1 l)).1 == 1) := by
  rw [fm_eq_srcFmt, at_eq_laneOf, at_eq_laneOf, htags]
  exact testBit_foldl_bits (fun i => cmpLane_lt _ _ _ _ _) l

theorem exec_vcmp {d a b : BitVec 5} {c : BitVec 4} {k : BitVec 2} {u pol me : BitVec 1} (hready : ReadyC s)
    (hwf : (Instr.vcmp d a b c k u pol me).wellFormed = true) (hq3 : s.popsQ3 [a, b] = false)
    (htaken : Spec.Sources (s.issued (.vcmp d a b c k u pol me)) [a, b] s2 xs) (hroom : s.canPut d = true)
    (htags : pairFmt (cmpTag (u == 1)) true (xs.map (·.fmt)) ≠ none) :
    ∃ r e, exec (.vcmp d a b c k u pol me) s = .next (Spec.put s2 d r e) ∧ r.fmt = mkFmt 15 0
      ∧ ∀ l, l < 512 → r.bits.getLsbD l
        = if lanesOf (tagOf (Spec.fm xs 0)) ≤ l then false
          else if me = 0 ∨ (s.core.getV k.toNat).bits.getLsbD l = true then
            (cmpLane (Spec.fm xs 0) (u == 1) c.toNat (Spec.at_ xs 0 l) (Spec.at_ xs 1 l)).1 == 1
          else if pol = 1 ∨ 24 ≤ d.toNat then true else (s.core.getV d.toNat).bits.getLsbD l := by
  obtain ⟨f, hpair⟩ := Option.ne_none_iff_exists'.mp htags
  obtain ⟨hx, hy, -⟩ := pairFmt_tags hpair
  obtain ⟨_, -, -, hexec⟩ := execVec_ready (v := formV (.vcmp d a b c k u pol me) d a b k pol me) (s := s)
    (tags := fun fs => (pairFmt (cmpTag (u == 1)) true fs).map (fun _ => mkFmt 15 0)) (run := fun _ _ xs => cmpOut (u == 1) c.toNat xs)
    ⟨hready, hwf, hq3, htaken, hroom⟩
  rw [hpair] at hexec
  refine ⟨_, _, (exec_vcmp_eq ..).trans hexec, rfl, fun l hl => ?_⟩
  refine (VecForm.getLsbD_result _ s.core (lanesOf_le _) hl).trans ?_
  rw [testBit_cmpOut (hy.trans (by rw [hx])) l]
  by_cases hlane : l < lanesOf (tagOf (Spec.fm xs 0))
  · have hn : ¬ (cmpOut (u == 1) c.toNat xs).n ≤ l := by rw [fm_eq_srcFmt] at hlane; exact Nat.not_le.mpr hlane
    simp only [hn, hlane, Nat.not_le.mpr hlane, formV, MaskSel.of]
    rcases BitVec.eq_zero_or_eq_one me with rfl | rfl <;> simp
  · have hn : (cmpOut (u == 1) c.toNat xs).n ≤ l := by rw [fm_eq_srcFmt] at hlane; exact Nat.not_lt.mp hlane
    rw [if_pos (.inr (.inl hn)), if_pos (Nat.not_lt.mp hlane), decide_eq_false hlane, Bool.false_and]

/-! ### vpopm (R212) -/

theorem foldl_count (p : Nat → Bool) (ls : List Nat) (n : Nat) :
    ls.foldl (fun acc l => if p l then acc + 1 else acc) n = n + (ls.filter p).length := by
  induction ls generalizing n with
  | nil => rfl
  | cons l ls ih =>
    rw [List.foldl_cons, ih, List.filter_cons]
    split
    · rw [List.length_cons]
      omega
    · rfl

theorem exec_vpopm {d a : BitVec 5} (hready : ReadyC s) (hwf : (Instr.vpopm d a).wellFormed = true) (hq3 : s.popsQ3 [a] = false)
    (htaken : Spec.Sources (s.issued (.vpopm d a)) [a] s2 xs) :
    exec (.vpopm d a) s = .next (s2.setG d (.ofNat 64 ((List.range 512).filter (fun x => (Spec.bitsOf xs 0).getLsbD x)).length)) := by
  obtain ⟨srcs, htake, rfl, hthere⟩ := State.takeV_taken htaken (readyC_issued_flight hready _)
  refine (execVpopm.eq_def d a s).trans (issue_done _ s _ _ hready.2 hwf (readyC_admits hready) hq3 Bool.false_ne_true.elim ?_)
  simp only [htake, hthere, Bool.not_true, Bool.false_eq_true, if_false]
  have hbits : ((srcs[0]?).map (fun x => x.reg.bits.toNat)).getD 0 = (Spec.bitsOf (srcs.map (·.reg)) 0).toNat := by
    rw [Spec.bitsOf, List.getElem?_map]
    cases srcs[0]? <;> simp
  have hbit : (fun l => (((srcs[0]?).map (fun x : Src => x.reg.bits.toNat)).getD 0).testBit l)
      = fun l => (Spec.bitsOf (srcs.map (·.reg)) 0).getLsbD l := by
    rw [hbits]
    exact funext fun l => BitVec.testBit_toNat _
  rw [foldl_count, Nat.zero_add]
  exact congrArg (fun p : Nat → Bool => Res.done (s2.setG d (.ofNat 64 ((List.range 512).filter p).length))) hbit

/-! ### vsplat (R211) -/

/-- All lanes of a tag but BE have one width (R97). -/
theorem laneAt_width {tag : Nat} (hbe : isBe tag = false) (l : Nat) : (laneAt tag l).2 = laneBits tag := by simp [laneAt, hbe]

/-- The tags of an f register are no BE tags (R97). -/
theorem isBe_of_fRegTag {t : Nat} (h : fRegTag t = true) : isBe t = false := by
  simp only [fRegTag, Bool.or_eq_true, beq_iff_eq] at h
  rcases h with ((((rfl | rfl) | rfl) | rfl) | rfl) | rfl <;> rfl

theorem splatBits_lt (r : FReg) : splatBits r < 2 ^ 512 := by
  unfold splatBits
  split <;> exact buildLanes_lt _ _

/-- An f register's value stands in every lane. -/
theorem laneOf_splatBits (r : FReg) (h : fRegTag (tagOf r.fmt) = true) {l : Nat} (hl : l < lanesOf (if tagOf r.fmt = 0 then 7 else tagOf r.fmt)) :
    laneOf (if tagOf r.fmt = 0 then 7 else tagOf r.fmt) (splatBits r) l
      = r.bits.toNat % 2 ^ laneBits (if tagOf r.fmt = 0 then 7 else tagOf r.fmt) := by
  have hbe : isBe (if tagOf r.fmt = 0 then 7 else tagOf r.fmt) = false := by
    split
    · rfl
    · exact isBe_of_fRegTag h
  have hsplat : splatBits r = buildLanes (if tagOf r.fmt = 0 then 7 else tagOf r.fmt) (fun _ => r.bits.toNat) := by
    unfold splatBits
    split <;> rfl
  rw [hsplat, laneOf_buildLanes _ _ hl, laneAt_width hbe]

theorem exec_vsplat {d a : BitVec 5} {k : BitVec 2} {pol me : BitVec 1} (hready : ReadyC s) (hwf : (Instr.vsplat d a k pol me).wellFormed = true)
    (hroom : s.canPut d = true) (htag : fRegTag (tagOf (s.core.getF a.toNat).fmt) = true) :
    ∃ r, exec (.vsplat d a k pol me) s = .next ((s.issued (.vsplat d a k pol me)).putV d r) ∧ r.fmt = (s.core.getF a.toNat).fmt
      ∧ Spec.Masked s d k pol me (splatBits (s.core.getF a.toNat)) r := by
  have hf : (s.issued (.vsplat d a k pol me)).core.getF a.toNat = s.core.getF a.toNat := by rw [Core.getF, State.issued_core_f]; rfl
  have hput : (s.issued (.vsplat d a k pol me)).canPut d = true := by
    rwa [State.canPut, State.hasRoom, Core.getQueue, State.issued_core_queues]
  have hclaimed : (s.issued (.vsplat d a k pol me)).core.pushClaimed (d.toNat - 24) = false := by
    simp [Core.pushClaimed, readyC_issued_flight hready]
  have hpad : clearPad (tagOf (s.core.getF a.toNat).fmt) (splatBits (s.core.getF a.toNat)) = splatBits (s.core.getF a.toNat) := by
    rw [clearPad, isBe_of_fRegTag htag]
    rfl
  have hmasked := VecForm.masked_result (v := { instr := .vsplat d a k pol me, srcs := [], dst := d, mask := .of me k pol }) (s := s) rfl
    (s.core.getF a.toNat).fmt (splatBits_lt (s.core.getF a.toNat))
  rw [hpad] at hmasked
  refine ⟨_, (execVsplat.eq_def d a k pol me s).trans (issue_done _ s _ _ hready.2 hwf (readyC_admits hready) rfl Bool.false_ne_true.elim ?_), rfl,
    hmasked⟩
  simp only [hf, hput, hclaimed, htag, Bool.and_false, Bool.not_true, Bool.false_eq_true, if_false]
  simp only [VecForm.result, Core.getV, State.issued_core_v]

/-! ### vzero and vswap (R105, R221) -/

theorem zeroOf_lt (tag : Nat) : zeroOf tag < 2 ^ 512 := by
  unfold zeroOf
  split_ifs
  · exact buildLanes_lt _ _
  · exact buildLanes_lt _ _
  · positivity

/-- A halfword form names registers alone (R105). -/
theorem vzero_operands {d a : BitVec 5} {m : BitVec 1} (hwf : (Instr.vzero d a m).wellFormed = true) : d.toNat < 24 ∧ a.toNat < 24 := by
  have hregs : (!WF.vReg d || !WF.vReg a) = false := by
    cases hbad : (!WF.vReg d || !WF.vReg a) with
    | false => rfl
    | true => simp [Instr.wellFormed, Instr.illFormed, hbad, WF.firstOf] at hwf
  simpa [WF.vReg, Nat.lt_succ_iff] using hregs

theorem popsQ3_reg (s : State) {n : BitVec 5} (h : n.toNat < 24) : s.popsQ3 [n] = false := by
  have hne : ¬ 27#5 = n := by
    rintro rfl
    exact absurd h (by decide)
  simp [State.popsQ3, hne]

theorem exec_vzero {d a : BitVec 5} {m : BitVec 1} (hready : ReadyC s) (hwf : (Instr.vzero d a m).wellFormed = true) :
    ∃ r, exec (.vzero d a m) s = .next (Spec.put (s.issued (.vzero d a m)) d r Eff.none) ∧ r.fmt = (s.core.getV a.toNat).fmt
      ∧ Spec.Masked s d 0 0 m (clearPad (tagOf r.fmt) (zeroOf (tagOf r.fmt))) r := by
  obtain ⟨hd, ha⟩ := vzero_operands hwf
  have hv : (s.issued (.vzero d a m)).core.getV a.toNat = s.core.getV a.toNat := by rw [Core.getV, State.issued_core_v]; rfl
  have htaken := taken_reg (s := s.issued (.vzero d a m)) ha
  rw [hv] at htaken
  have hform : PlainForm s (.vzero d a m) [a] d (.of m 0 0) (oneFmt fun _ => true) (fun _ fmt _ => zeroOf (tagOf fmt))
      (formH1 (.vzero d a m) d a m) :=
    ⟨execVzero.eq_def d a m s, rfl, rfl, rfl, rfl, rfl⟩
  obtain ⟨r, hexec, hr, hmasked⟩ := hform.completes hready hwf (popsQ3_reg s ha) htaken (by simp [State.canPut, hd])
    (oneFmt_any (List.cons_ne_nil _ _)) (zeroOf_lt _)
  exact ⟨r, hexec, hr, by rw [hr]; exact hmasked⟩

theorem exec_vswap {d a : BitVec 5} (hready : ReadyC s) (hwf : (Instr.vswap d a).wellFormed = true) :
    exec (.vswap d a) s = .next (((s.issued (.vswap d a)).setV d.toNat (s.core.getV a.toNat)).setV a.toNat (s.core.getV d.toNat)) := by
  refine (execVswap.eq_def d a s).trans (issue_done _ s _ _ hready.2 hwf (readyC_admits hready) rfl Bool.false_ne_true.elim ?_)
  simp only [Core.getV, State.issued_core_v]

end

end Sys2Proof.Machine
end

section
/-! vcompress (spec/11_vector_instructions.md R212), and O36. -/

namespace Sys2Proof.Machine

open Sys2Proof.Safety

/-! ### Packing the kept lanes -/

/-- The lanes of a list packed from lane 0 on. -/
theorem foldl_pack {tag bits : Nat} (hbe : isBe tag = false) (kept : List Nat) {n : Nat} (hn : n ≤ kept.length) :
    (kept.take n).foldl (fun (acc : Nat × Nat) i => (acc.1 + laneOf tag bits i * 2 ^ (laneAt tag acc.2).1, acc.2 + 1)) (0, 0)
      = (packFields (fun l => (laneAt tag l).1) (fun l => (laneAt tag l).2) (fun l => laneOf tag bits (kept.getD l 0)) n, n) := by
  induction n with
  | zero => rfl
  | succ n ih =>
    have hlane := laneOf_lt tag bits (kept.getD n 0)
    rw [laneAt_width hbe, ← laneAt_width hbe n] at hlane
    rw [List.take_add_one, List.foldl_append, ih (by omega), packFields_succ, Nat.mod_eq_of_lt hlane]
    simp [List.getElem?_eq_getElem (show n < kept.length by omega), List.getD_eq_getElem?_getD]

/-- The lanes whose mask bit is set. -/
def keptLanes (tag mask : Nat) : List Nat := (List.range (lanesOf tag)).filter (fun l => mask.testBit l)

theorem keptLanes_length_le (tag mask : Nat) : (keptLanes tag mask).length ≤ lanesOf tag := by
  simpa [keptLanes] using List.length_filter_le (fun l => mask.testBit l) (List.range (lanesOf tag))

theorem compressLanes_eq {tag : Nat} (hbe : isBe tag = false) (bits mask : Nat) :
    compressLanes tag bits mask = (packFields (fun l => (laneAt tag l).1) (fun l => (laneAt tag l).2)
      (fun l => laneOf tag bits ((keptLanes tag mask).getD l 0)) (keptLanes tag mask).length, (keptLanes tag mask).length) := by
  rw [← foldl_pack hbe (keptLanes tag mask) le_rfl, List.take_length, keptLanes, List.foldl_filter]
  rfl

/-- The packed lanes, and above them what the mask form leaves. -/
def compressOut (s : State) (d : BitVec 5) (k : BitVec 2) (pol : BitVec 1) (fmt : BitVec 16) (xs : List VReg) : Nat :=
  let t := tagOf fmt
  let (full, n) := compressLanes t (srcBits xs 0) (s.core.getV k.toNat).bits.toNat
  maskLanes t (lanesOf t) full (s.core.getV d.toNat).bits.toNat (2 ^ n - 1) (pol == 1 || decide (24 ≤ d.toNat))

theorem laneOf_compressOut (s : State) (d : BitVec 5) (k : BitVec 2) (pol : BitVec 1) {fmt : BitVec 16} (xs : List VReg)
    (hbe : isBe (tagOf fmt) = false) {l : Nat} (hl : l < lanesOf (tagOf fmt)) :
    laneOf (tagOf fmt) (compressOut s d k pol fmt xs) l = match (keptLanes (tagOf fmt) (s.core.getV k.toNat).bits.toNat)[l]? with
      | some j => laneOf (tagOf fmt) (srcBits xs 0) j
      | none => if pol = 1 ∨ 24 ≤ d.toNat then 2 ^ laneBits (tagOf fmt) - 1 else laneOf (tagOf fmt) (s.core.getV d.toNat).bits.toNat l := by
  rw [compressOut, compressLanes_eq hbe]
  dsimp only
  rw [laneOf_maskLanes _ _ _ _ _ hl]
  generalize hkept : keptLanes (tagOf fmt) (s.core.getV k.toNat).bits.toNat = kept
  have hlen : kept.length ≤ lanesOf (tagOf fmt) := hkept ▸ keptLanes_length_le _ _
  rw [Nat.testBit_two_pow_sub_one]
  by_cases hk : l < kept.length
  · have hrise : Rising (fun l => (laneAt (tagOf fmt) l).1) (fun l => (laneAt (tagOf fmt) l).2) kept.length := fun i j hij hj =>
      lanes_rising (tagOf fmt) i j hij (by omega)
    have hlane := laneOf_lt (tagOf fmt) (srcBits xs 0) kept[l]
    rw [laneAt_width hbe, ← laneAt_width hbe l] at hlane
    rw [if_pos (decide_eq_true hk), List.getElem?_eq_getElem hk]
    refine (bitField_packFields hrise hk).trans ?_
    rw [List.getD_eq_getElem?_getD, List.getElem?_eq_getElem hk, Option.getD_some, Nat.mod_eq_of_lt hlane]
  · rw [if_neg (by simpa using hk), List.getElem?_eq_none (by omega)]
    simp [laneAt_width hbe]

theorem maskLanes_lt {tag n full : Nat} (old mask : Nat) (free : Bool) (hn : n ≤ lanesOf tag) (hfull : full < 2 ^ 512) :
    maskLanes tag n full old mask free < 2 ^ 512 := by
  induction n with
  | zero => simpa [maskLanes] using hfull
  | succ n ih =>
    have hbelow := ih (by omega)
    have hend : (laneAt tag n).1 + (laneAt tag n).2 ≤ 512 := (lane_end_le hn).trans (laneSpan_le tag)
    rw [maskLanes, List.range_succ, List.foldl_append]
    simp only [List.foldl_cons, List.foldl_nil]
    split
    · exact hbelow
    · exact setField_lt hbelow hend _

theorem compressOut_lt (s : State) (d : BitVec 5) (k : BitVec 2) (pol : BitVec 1) {fmt : BitVec 16} (xs : List VReg)
    (hbe : isBe (tagOf fmt) = false) : compressOut s d k pol fmt xs < 2 ^ 512 := by
  rw [compressOut, compressLanes_eq hbe]
  have hlen := keptLanes_length_le (tagOf fmt) (s.core.getV k.toNat).bits.toNat
  exact maskLanes_lt _ _ _ le_rfl (packFields_lt (fun i j hij hj => lanes_rising (tagOf fmt) i j hij (by omega))
    fun i hi => (lane_end_le (by omega)).trans (laneSpan_le _))

theorem exec_vcompress {s s2 : State} {xs : List VReg} {d a : BitVec 5} {k : BitVec 2} {pol : BitVec 1} (hready : ReadyC s)
    (hwf : (Instr.vcompress d a k pol).wellFormed = true) (hq3 : s.popsQ3 [a] = false)
    (htaken : Spec.Sources (s.issued (.vcompress d a k pol)) [a] s2 xs) (hroom : s.canPut d = true) (hbe : isBe (tagOf (Spec.fm xs 0)) = false) :
    ∃ r, exec (.vcompress d a k pol) s = .next (Spec.put s2 d r Eff.none) ∧ r.fmt = Spec.fm xs 0
      ∧ r.bits.toNat = compressOut s d k pol r.fmt xs := by
  have hform : PlainForm s (.vcompress d a k pol) [a] d (.of 0 0 0) (oneFmt noBe) (fun s fmt xs => compressOut s d k pol fmt xs)
      { instr := .vcompress d a k pol, srcs := [a], dst := d, extra := [.v k.toNat] } :=
    ⟨execVcompress.eq_def d a k pol s, rfl, rfl, rfl, rfl, rfl⟩
  obtain ⟨r, hexec, hr, hmasked, -⟩ := hform.completes hready hwf hq3 htaken hroom
    (oneFmt_noBe (ne_nil_of_taken htaken (List.cons_ne_nil _ _)) hbe)
    (compressOut_lt s d k pol xs hbe)
  refine ⟨r, hexec, hr, ?_⟩
  rw [hmasked rfl, clearPad, hbe, hr]
  rfl

/-! ### The canonical zero (R221) -/

theorem zeroOf_of_not_isFsl {tag : Nat} (h : isFsl tag = false) : zeroOf tag = 0 := by
  simp only [isFsl, Bool.or_eq_false_iff, beq_eq_false_iff_ne] at h
  rw [zeroOf, if_neg h.1, if_neg h.2]

theorem laneOf_zeroOf {tag : Nat} (h : isFsl tag = true) {l : Nat} (hl : l < lanesOf tag) :
    laneOf tag (zeroOf tag) l = fslEncode (tag == 14) false 0 1 % 2 ^ laneBits tag := by
  simp only [isFsl, Bool.or_eq_true, beq_iff_eq] at h
  rcases h with rfl | rfl
  · have hzero : zeroOf 13 = buildLanes 13 fun _ => fslEncode false false 0 1 := if_pos rfl
    have hdouble : ((13 : Nat) == 14) = false := rfl
    rw [hzero, hdouble, laneOf_buildLanes _ _ hl, laneAt_width rfl]
  · have hzero : zeroOf 14 = buildLanes 14 fun _ => fslEncode true false 0 1 := (if_neg (by decide)).trans (if_pos rfl)
    have hdouble : ((14 : Nat) == 14) = true := rfl
    rw [hzero, hdouble, laneOf_buildLanes _ _ hl, laneAt_width rfl]

end Sys2Proof.Machine

namespace Sys2Proof.Proofs

open Sys2Proof.Machine Sys2Proof.Safety

/-- Settles O36: a lane by lane instruction whose tags are not accepted traps before it takes anything (`LaneForm.exec_badTags`), and the
whole-register forms do what the spec says of each. -/
theorem wholeVectorsCompleteOrTagsTrap : Obligations.WholeVectorsCompleteOrTagsTrap := by
  unfold Obligations.WholeVectorsCompleteOrTagsTrap
  refine ⟨?tags, ?whole⟩
  case tags =>
    intro i s s2 o xs hready hwf hmode hop hq3 htaken hroom hfmt
    obtain ⟨v, run, h⟩ := laneOp_form hop
    refine ⟨_, h.exec_badTags (h.vecReady hready hwf hq3 htaken hroom) hfmt, ?_⟩
    rw [← tagValOf_eq]
    exact State.trapAt_trapped _ (readyC_quiet hready) hmode (by decide)
  case whole =>
    intro i s s2 xs hready hwf
    refine ⟨?bits, ?vcmp, ?vcompress, ?vpopm, ?vsplat, ?vzero, ?vswap⟩
    case bits =>
      intro srcs d k pol me g hop hq3 htaken hroom
      obtain ⟨hsrcs, full, v, h, hfull⟩ := wholeOp_form hop
      obtain ⟨r, hexec, hr, hmasked⟩ := h.completes hready hwf hq3 htaken hroom (oneFmt_any (ne_nil_of_taken htaken hsrcs))
        (by rw [hfull]; exact BitVec.isLt _)
      rw [hfull, ← hr] at hmasked
      exact ⟨r, hexec, hr, hmasked⟩
    case vcmp =>
      rintro d a b c k u pol me rfl hq3 htaken hroom htags
      exact exec_vcmp hready hwf hq3 htaken hroom htags
    case vcompress =>
      rintro d a k pol rfl hq3 htaken hroom hbe
      obtain ⟨r, hexec, hr, hbits⟩ := exec_vcompress hready hwf hq3 htaken hroom hbe
      refine ⟨r, _, hexec, hr, rfl, fun n hn => ?_⟩
      rw [hbits, laneOf_compressOut s d k pol xs (by rw [hr]; exact hbe) hn, keptLanes]
      simp only [BitVec.testBit_toNat, at_eq_laneOf, ← fm_eq_srcFmt, hr] <;> rfl
    case vpopm =>
      rintro d a rfl hq3 htaken
      exact exec_vpopm hready hwf hq3 htaken
    case vsplat =>
      rintro d a k pol me t rfl hroom htag rfl
      obtain ⟨r, hexec, hr, hmasked⟩ := exec_vsplat hready hwf hroom htag
      exact ⟨r, _, hexec, hr, hmasked, fun l hl => laneOf_splatBits _ htag hl⟩
    case vzero =>
      rintro d a m rfl
      obtain ⟨r, hexec, hr, hmasked⟩ := exec_vzero hready hwf
      refine ⟨r, _, hexec, hr, hmasked, ?_, ?_⟩
      · intro hfsl
        rw [zeroOf_of_not_isFsl hfsl, clearPad, Nat.zero_mod, ite_self]
      · intro hfsl l hl
        rw [laneOf_clearPad _ hl, laneOf_zeroOf hfsl hl]
    case vswap =>
      rintro d a rfl
      exact exec_vswap hready hwf

end Sys2Proof.Proofs
end

section

/-! ## The layout of the encodings (R102 to R121)

Each instruction's encoding is a row of fields, lowest bits first. The tables of rows below are tied to the model by `encNat_eq_pack`:
    the encoding of an
instruction is its row, packed. Both directions between bytes and instructions then go through one predicate,
    that a number holds the fields of a row. -/

namespace Sys2Proof.Layout

/-- A field of a word: its width and its bits. -/
abbrev Field := (w : Nat) × BitVec w

/-- The word that holds fields side by side, the first in the lowest bits. -/
def pack : List Field → Nat
  | [] => 0
  | f :: fs => f.2.toNat + 2 ^ f.1 * pack fs

/-- From bit `p` on a number holds the fields, lowest first, and nothing above them. -/
def Holds (n : Nat) : Nat → List Field → Prop
  | p, [] => n / 2 ^ p = 0
  | p, f :: fs => BitVec.ofNat f.1 (n / 2 ^ p) = f.2 ∧ Holds n (p + f.1) fs

theorem holds_iff {n p : Nat} {fs : List Field} : Holds n p fs ↔ n / 2 ^ p = pack fs := by
  induction fs generalizing p with
  | nil => rfl
  | cons f fs ih =>
    rw [Holds, ih, pack, Nat.pow_add, ← Nat.div_div_eq_div_mul]
    have hdiv := Nat.mod_add_div (n / 2 ^ p) (2 ^ f.1)
    constructor
    · rintro ⟨hlow, hhigh⟩
      rw [← hlow, ← hhigh, BitVec.toNat_ofNat, hdiv]
    · intro h
      refine ⟨BitVec.eq_of_toNat_eq ?_, ?_⟩
      · rw [h, BitVec.toNat_ofNat, Nat.add_mul_mod_self_left, Nat.mod_eq_of_lt f.2.isLt]
      · rw [h, Nat.add_mul_div_left _ _ (Nat.two_pow_pos _), Nat.div_eq_of_lt f.2.isLt, Nat.zero_add]

/-- Above each field from bit `p` on a number holds what the later fields pack. -/
def Above (n : Nat) : Nat → List Field → Prop
  | _, [] => True
  | p, f :: fs => n / 2 ^ (p + f.1) = pack fs ∧ Above n (p + f.1) fs

theorem Holds.above {n p : Nat} {fs : List Field} (h : Holds n p fs) : Above n p fs := by
  induction fs generalizing p with
  | nil => trivial
  | cons f fs ih => exact ⟨holds_iff.1 h.2, ih h.2⟩

/-- Format A. -/
abbrev formatA (maj fn : BitVec 6) (la : BitVec 4) (rs2 rs1 rd : BitVec 5) : List Field :=
  [⟨1, 1⟩, ⟨6, maj⟩, ⟨5, rd⟩, ⟨5, rs1⟩, ⟨5, rs2⟩, ⟨4, la⟩, ⟨6, fn⟩]

/-- Format A with a tag in the low bits of rs2. -/
abbrev formatAt (maj fn : BitVec 6) (la tag : BitVec 4) (rs1 rd : BitVec 5) : List Field :=
  [⟨1, 1⟩, ⟨6, maj⟩, ⟨5, rd⟩, ⟨5, rs1⟩, ⟨4, tag⟩, ⟨1, 0⟩, ⟨4, la⟩, ⟨6, fn⟩]

/-- Format I. -/
abbrev formatI (maj : BitVec 6) (imm : BitVec 15) (rs1 rd : BitVec 5) : List Field :=
  [⟨1, 1⟩, ⟨6, maj⟩, ⟨5, rd⟩, ⟨5, rs1⟩, ⟨15, imm⟩]

/-- Format I as major 5 divides it: a function above a shift count. -/
abbrev formatSh (maj : BitVec 6) (op : BitVec 9) (cnt : BitVec 6) (rs1 rd : BitVec 5) : List Field :=
  [⟨1, 1⟩, ⟨6, maj⟩, ⟨5, rd⟩, ⟨5, rs1⟩, ⟨6, cnt⟩, ⟨9, op⟩]

/-- Format I as major 6 divides it: an unsigned flag above the immediate. -/
abbrev formatCi (maj : BitVec 6) (u : BitVec 1) (imm : BitVec 14) (rs1 rd : BitVec 5) : List Field :=
  [⟨1, 1⟩, ⟨6, maj⟩, ⟨5, rd⟩, ⟨5, rs1⟩, ⟨14, imm⟩, ⟨1, u⟩]

/-- Format U. -/
abbrev formatU (maj : BitVec 6) (imm : BitVec 20) (rd : BitVec 5) : List Field :=
  [⟨1, 1⟩, ⟨6, maj⟩, ⟨5, rd⟩, ⟨20, imm⟩]

/-- Format B. -/
abbrev formatB (maj : BitVec 6) (off : BitVec 12) (cc : BitVec 3) (rs2 rs1 : BitVec 5) : List Field :=
  [⟨1, 1⟩, ⟨6, maj⟩, ⟨5, rs1⟩, ⟨5, rs2⟩, ⟨3, cc⟩, ⟨12, off⟩]

/-- Format J. -/
abbrev formatJ (maj : BitVec 6) (off : BitVec 25) : List Field :=
  [⟨1, 1⟩, ⟨6, maj⟩, ⟨25, off⟩]

/-- Format L. -/
abbrev formatL (maj : BitVec 6) (off : BitVec 9) (sz : BitVec 2) (la : BitVec 4) (rs1 rd : BitVec 5) : List Field :=
  [⟨1, 1⟩, ⟨6, maj⟩, ⟨5, rd⟩, ⟨5, rs1⟩, ⟨4, la⟩, ⟨2, sz⟩, ⟨9, off⟩]

/-- Format ST. -/
abbrev formatSt (maj : BitVec 6) (off : BitVec 13) (sz : BitVec 2) (rs1 rs2 : BitVec 5) : List Field :=
  [⟨1, 1⟩, ⟨6, maj⟩, ⟨5, rs2⟩, ⟨5, rs1⟩, ⟨2, sz⟩, ⟨13, off⟩]

/-- Format Q. -/
abbrev formatQ (maj : BitVec 6) (off : BitVec 9) (la : BitVec 4) (rs1 : BitVec 5) (tag : BitVec 4) (q : BitVec 3) : List Field :=
  [⟨1, 1⟩, ⟨6, maj⟩, ⟨3, q⟩, ⟨4, tag⟩, ⟨5, rs1⟩, ⟨4, la⟩, ⟨9, off⟩]

/-- Format Q as majors 21 and 22 divide it: store flag, element size and a second source above the lookahead. -/
abbrev formatQe (maj : BitVec 6) (st : BitVec 1) (esz : BitVec 3) (rs2 : BitVec 5) (la : BitVec 4) (rs1 : BitVec 5) (tag : BitVec 4) (q : BitVec 3) :
    List Field :=
  [⟨1, 1⟩, ⟨6, maj⟩, ⟨3, q⟩, ⟨4, tag⟩, ⟨5, rs1⟩, ⟨4, la⟩, ⟨5, rs2⟩, ⟨3, esz⟩, ⟨1, st⟩]

/-- Format L as major 23 divides it for a queue: tag and short offset above the kind. -/
abbrev formatLq (maj : BitVec 6) (tag : BitVec 4) (off : BitVec 5) (kind : BitVec 2) (la : BitVec 4) (rs1 : BitVec 5) (q : BitVec 3) : List Field :=
  [⟨1, 1⟩, ⟨6, maj⟩, ⟨3, q⟩, ⟨2, 0⟩, ⟨5, rs1⟩, ⟨4, la⟩, ⟨2, kind⟩, ⟨5, off⟩, ⟨4, tag⟩]

/-- Format X. -/
abbrev formatX (maj : BitVec 6) (w ret : BitVec 1) (op : BitVec 4) (sc : BitVec 3) (rs2 rs1 rd : BitVec 5) : List Field :=
  [⟨1, 1⟩, ⟨6, maj⟩, ⟨5, rd⟩, ⟨5, rs1⟩, ⟨5, rs2⟩, ⟨3, sc⟩, ⟨4, op⟩, ⟨1, ret⟩, ⟨1, w⟩, ⟨1, 0⟩]

/-- Format S. -/
abbrev formatS (maj : BitVec 6) (imm : BitVec 9) (kind sc : BitVec 3) (rs1 rd : BitVec 5) : List Field :=
  [⟨1, 1⟩, ⟨6, maj⟩, ⟨5, rd⟩, ⟨5, rs1⟩, ⟨3, sc⟩, ⟨3, kind⟩, ⟨9, imm⟩]

/-- Format S as major 26 divides it: a job register number in the low bits of the immediate. -/
abbrev formatCp (maj : BitVec 6) (k kind sc : BitVec 3) (rs1 rd : BitVec 5) : List Field :=
  [⟨1, 1⟩, ⟨6, maj⟩, ⟨5, rd⟩, ⟨5, rs1⟩, ⟨3, sc⟩, ⟨3, kind⟩, ⟨3, k⟩, ⟨6, 0⟩]

/-- Format V. -/
abbrev formatV (maj : BitVec 6) (ext : BitVec 2) (pol : BitVec 1) (mk : BitVec 2) (me : BitVec 1) (fn : BitVec 4) (vs2 vs1 vd : BitVec 5) :
    List Field :=
  [⟨1, 1⟩, ⟨6, maj⟩, ⟨5, vd⟩, ⟨5, vs1⟩, ⟨5, vs2⟩, ⟨4, fn⟩, ⟨1, me⟩, ⟨2, mk⟩, ⟨1, pol⟩, ⟨2, ext⟩]

/-- Format V as vcmp divides its ext: an unordered flag below a zero. -/
abbrev formatVc (maj : BitVec 6) (u pol : BitVec 1) (mk : BitVec 2) (me : BitVec 1) (fn : BitVec 4) (vs2 vs1 vd : BitVec 5) : List Field :=
  [⟨1, 1⟩, ⟨6, maj⟩, ⟨5, vd⟩, ⟨5, vs1⟩, ⟨5, vs2⟩, ⟨4, fn⟩, ⟨1, me⟩, ⟨2, mk⟩, ⟨1, pol⟩, ⟨1, u⟩, ⟨1, 0⟩]

/-- Format V with a tag in the low bits of vs2. -/
abbrev formatVt (maj : BitVec 6) (ext : BitVec 2) (pol : BitVec 1) (mk : BitVec 2) (me : BitVec 1) (fn tag : BitVec 4) (vs1 vd : BitVec 5) :
    List Field :=
  [⟨1, 1⟩, ⟨6, maj⟩, ⟨5, vd⟩, ⟨5, vs1⟩, ⟨4, tag⟩, ⟨1, 0⟩, ⟨4, fn⟩, ⟨1, me⟩, ⟨2, mk⟩, ⟨1, pol⟩, ⟨2, ext⟩]

/-- Format W. -/
abbrev formatW (maj : BitVec 6) (ext : BitVec 3) (pol : BitVec 1) (mk : BitVec 2) (me : BitVec 1) (fn la : BitVec 4) (vs1 vd : BitVec 5) :
    List Field :=
  [⟨1, 1⟩, ⟨6, maj⟩, ⟨5, vd⟩, ⟨5, vs1⟩, ⟨4, la⟩, ⟨4, fn⟩, ⟨1, me⟩, ⟨2, mk⟩, ⟨1, pol⟩, ⟨3, ext⟩]

/-- Format W as major 36 divides its ext: the scalar-destination flag below zeros. -/
abbrev formatR (maj : BitVec 6) (f pol : BitVec 1) (mk : BitVec 2) (me : BitVec 1) (fn la : BitVec 4) (vs1 vd : BitVec 5) : List Field :=
  [⟨1, 1⟩, ⟨6, maj⟩, ⟨5, vd⟩, ⟨5, vs1⟩, ⟨4, la⟩, ⟨4, fn⟩, ⟨1, me⟩, ⟨2, mk⟩, ⟨1, pol⟩, ⟨1, f⟩, ⟨2, 0⟩]

/-- Format W as vredq divides it: an entry count in place of the mask fields. -/
abbrev formatRq (maj : BitVec 6) (f : BitVec 1) (n fn la : BitVec 4) (vs1 vd : BitVec 5) : List Field :=
  [⟨1, 1⟩, ⟨6, maj⟩, ⟨5, vd⟩, ⟨5, vs1⟩, ⟨4, la⟩, ⟨4, fn⟩, ⟨4, n⟩, ⟨1, f⟩, ⟨2, 0⟩]

/-- Format M. -/
abbrev formatM (maj : BitVec 6) (f p : BitVec 3) (la : BitVec 4) (sb sa md : BitVec 5) : List Field :=
  [⟨1, 1⟩, ⟨6, maj⟩, ⟨5, md⟩, ⟨5, sa⟩, ⟨5, sb⟩, ⟨4, la⟩, ⟨3, p⟩, ⟨3, f⟩]

/-- Format M as fwdelta divides it: a fractional count in place of fn and p. -/
abbrev formatFw (maj : BitVec 6) (f : BitVec 5) (la : BitVec 4) (sb sa md : BitVec 5) : List Field :=
  [⟨1, 1⟩, ⟨6, maj⟩, ⟨5, md⟩, ⟨5, sa⟩, ⟨5, sb⟩, ⟨4, la⟩, ⟨5, f⟩, ⟨1, 0⟩]

/-- Format H (R105). -/
abbrev formatH (m : BitVec 1) (vs vd : BitVec 5) (op : BitVec 4) : List Field :=
  [⟨1, 0⟩, ⟨4, op⟩, ⟨5, vd⟩, ⟨5, vs⟩, ⟨1, m⟩]

/-- The fields of the scalar and link instructions, majors 0 to 14. -/
def scalarFields : Instr → List Field
  | .add d a b => formatA 0 0 0 b a d
  | .sub d a b => formatA 0 1 0 b a d
  | .mul d a b la => formatA 0 2 la b a d
  | .mulh d a b la => formatA 0 3 la b a d
  | .div d a b la => formatA 0 4 la b a d
  | .divu d a b la => formatA 0 5 la b a d
  | .rem d a b la => formatA 0 6 la b a d
  | .remu d a b la => formatA 0 7 la b a d
  | .and d a b => formatA 0 8 0 b a d
  | .or d a b => formatA 0 9 0 b a d
  | .xor d a b => formatA 0 10 0 b a d
  | .shl d a b => formatA 0 11 0 b a d
  | .shr d a b => formatA 0 12 0 b a d
  | .sar d a b => formatA 0 13 0 b a d
  | .slt d a b => formatA 0 14 0 b a d
  | .sltu d a b => formatA 0 15 0 b a d
  | .min d a b => formatA 0 16 0 b a d
  | .max d a b => formatA 0 17 0 b a d
  | .clz d a => formatA 0 18 0 0 a d
  | .ctz d a => formatA 0 19 0 0 a d
  | .popc d a => formatA 0 20 0 0 a d
  | .gcd d a b la => formatA 0 21 la b a d
  | .addi d a imm => formatI 1 imm a d
  | .andi d a imm => formatI 2 imm a d
  | .ori d a imm => formatI 3 imm a d
  | .xori d a imm => formatI 4 imm a d
  | .shli d a c => formatSh 5 0 c a d
  | .shri d a c => formatSh 5 64 c a d
  | .sari d a c => formatSh 5 128 c a d
  | .slti d a imm => formatCi 6 0 imm a d
  | .sltiu d a imm => formatCi 6 1 imm a d
  | .lui d imm => formatU 7 imm d
  | .adpc d imm => formatU 8 imm d
  | .bcc a b off c => formatB 9 off c b a
  | .br off => formatJ 10 off
  | .call off => formatJ 11 off
  | .jr a => formatA 12 0 0 0 a 0
  | .callr a => formatA 12 1 0 0 a 0
  | .ret => formatA 12 2 0 0 0 0
  | .qput q a => formatA 12 3 0 q a 0
  | .qget q d => formatA 12 4 0 q 0 d
  | .sysrd d imm => formatS 13 imm 0 0 0 d
  | .syswr a imm => formatS 13 imm 1 0 a 0
  | .svc imm => formatS 13 imm 2 0 0 0
  | .trap imm => formatS 13 imm 3 0 0 0
  | .tret => formatS 13 0 4 0 0 0
  | .exit => formatS 13 0 5 0 0 0
  | .nop => formatS 13 0 6 0 0 0
  | .safept imm => formatS 13 imm 7 0 0 0
  | .gtol d a => formatA 14 0 0 0 a d
  | .ltog d a b => formatA 14 1 0 b a d
  | .inap d a => formatA 14 2 0 0 a d
  | .teama d a b => formatA 14 3 0 b a d
  | _ => []

/-- The fields of the synchronisation, memory, engine and level instructions, majors 15 to 27. -/
def memoryFields : Instr → List Field
  | .fence sc => formatS 15 0 0 sc 0 0
  | .fenceAcq sc => formatS 15 1 0 sc 0 0
  | .fenceRel sc => formatS 15 2 0 sc 0 0
  | .bar a n sc => formatS 15 0 1 sc a n
  | .barW a n sc => formatS 15 1 1 sc a n
  | .barw a g sc => formatS 15 0 2 sc a g
  | .barx a n sc => formatS 15 0 3 sc a n
  | .dsync sc => formatS 15 0 4 sc 0 0
  | .gsync sc => formatS 15 0 5 sc 0 0
  | .waitp => formatS 15 0 6 0 0 0
  | .trig => formatS 15 0 7 0 0 0
  | .ld d a off sz la => formatL 16 off sz la a d
  | .ldz d a off sz la => formatL 17 off sz la a d
  | .st a b off sz => formatSt 18 off sz a b
  | .ldq q a off tag la => formatQ 19 off la a tag q
  | .stq q a off => formatQ 20 off 0 a 0 q
  | .ldqs q a b tag esz la => formatQe 21 0 esz b la a tag q
  | .stqs q a b esz => formatQe 21 1 esz b 0 a 0 q
  | .ldqx q a b tag esz la => formatQe 22 0 esz b la a tag q
  | .stqx q a b esz => formatQe 22 1 esz b 0 a 0 q
  | .lds d a off la => formatL 23 off 0 la a d
  | .sts a b off => formatL 23 off 1 0 a b
  | .ldsq q a off tag la => formatLq 23 tag off 2 la a q
  | .stsq q a off => formatLq 23 0 off 3 0 a q
  | .atomicAdd d a b w rt sc => formatX 24 w rt 0 sc b a d
  | .atomicAnd d a b w rt sc => formatX 24 w rt 1 sc b a d
  | .atomicOr d a b w rt sc => formatX 24 w rt 2 sc b a d
  | .atomicXor d a b w rt sc => formatX 24 w rt 3 sc b a d
  | .atomicMin d a b w rt sc => formatX 24 w rt 4 sc b a d
  | .atomicMax d a b w rt sc => formatX 24 w rt 5 sc b a d
  | .atomicSwp d a b w rt sc => formatX 24 w rt 6 sc b a d
  | .atomicCas d a b w rt sc => formatX 24 w rt 7 sc b a d
  | .radd a b w sc => formatX 24 w 0 8 sc b a 0
  | .tdef a b => formatA 25 0 0 b a 0
  | .tstat d a => formatA 25 1 0 0 a d
  | .twait a => formatA 25 2 0 0 a 0
  | .trel a => formatA 25 3 0 0 a 0
  | .cpset a k => formatCp 26 k 0 0 a 0
  | .cpgo d => formatCp 26 0 1 0 0 d
  | .cpwait a => formatCp 26 0 2 0 a 0
  | .cpprobe d a => formatCp 26 0 3 0 a d
  | .lvget d a => formatA 27 0 0 0 a d
  | .lvnbr d a => formatA 27 1 0 0 a d
  | .lvread d a b la => formatA 27 2 la b a d
  | .lvtake => formatA 27 3 0 0 0 0
  | .lvret => formatA 27 4 0 0 0 0
  | .lvstep a => formatA 27 5 0 0 a 0
  | .lvcommit => formatA 27 6 0 0 0 0
  | .lvthaw d a => formatA 27 7 0 0 a d
  | _ => []

/-- The fields of the float instructions, majors 28 to 30. -/
def floatFields : Instr → List Field
  | .fadd d a b la => formatA 28 0 la b a d
  | .fsub d a b la => formatA 28 1 la b a d
  | .fmul d a b la => formatA 28 2 la b a d
  | .fdiv d a b la => formatA 28 3 la b a d
  | .fsqrt d a la => formatA 28 4 la 0 a d
  | .fma d a b la => formatA 28 5 la b a d
  | .fmin d a b => formatA 28 6 0 b a d
  | .fmax d a b => formatA 28 7 0 b a d
  | .fabs d a => formatA 28 8 0 0 a d
  | .fneg d a => formatA 28 9 0 0 a d
  | .feq d a b => formatA 28 10 0 b a d
  | .flt d a b => formatA 28 11 0 b a d
  | .fle d a b => formatA 28 12 0 b a d
  | .fcvt d a tag la => formatAt 28 13 la tag a d
  | .f2g d a la => formatA 28 14 la 0 a d
  | .g2f d a tag la => formatAt 28 15 la tag a d
  | .fmvg d a => formatA 28 16 0 0 a d
  | .gmvf d a tag => formatAt 28 17 0 tag a d
  | .fnum d a => formatA 29 0 0 0 a d
  | .fden d a => formatA 29 1 0 0 a d
  | .fmake d a b la => formatA 29 2 la b a d
  | .fmed d a b la => formatA 29 3 la b a d
  | .frnd d a b la => formatA 29 4 la b a d
  | .fnbr d a b la => formatA 29 5 la b a d
  | .fli d imm => formatU 30 imm d
  | _ => []

/-- The fields of the short vector instructions, majors 31 to 33. -/
def vectorFields : Instr → List Field
  | .vadd d a b k pol me => formatV 31 0 pol k me 0 b a d
  | .vsub d a b k pol me => formatV 31 0 pol k me 1 b a d
  | .vmul d a b k pol me => formatV 31 0 pol k me 2 b a d
  | .vfma d a b k pol me => formatV 31 0 pol k me 3 b a d
  | .vfms d a b k pol me => formatV 31 0 pol k me 4 b a d
  | .vdiv d a b k pol me => formatV 31 0 pol k me 5 b a d
  | .vmin d a b k pol me => formatV 31 0 pol k me 6 b a d
  | .vmax d a b k pol me => formatV 31 0 pol k me 7 b a d
  | .vand d a b k pol me => formatV 31 0 pol k me 8 b a d
  | .vor d a b k pol me => formatV 31 0 pol k me 9 b a d
  | .vxor d a b k pol me => formatV 31 0 pol k me 10 b a d
  | .vshl d a b k pol me => formatV 31 0 pol k me 11 b a d
  | .vshr d a b k pol me => formatV 31 0 pol k me 12 b a d
  | .vsar d a b k pol me => formatV 31 0 pol k me 13 b a d
  | .vcmp d a b c k u pol me => formatVc 32 u pol k me c b a d
  | .vmov d a k pol me => formatV 33 0 pol k me 0 0 a d
  | .vsel d a b k => formatV 33 0 0 k 1 1 b a d
  | .vperm d a b k pol me => formatV 33 0 pol k me 2 b a d
  | .vslideUp d a n k pol me => formatV 33 0 pol k me 3 n a d
  | .vslideDown d a n k pol me => formatV 33 1 pol k me 3 n a d
  | .vsplat d a k pol me => formatV 33 0 pol k me 4 0 a d
  | .vidx d k tag pol me => formatVt 33 0 pol k me 5 tag 0 d
  | .vcompress d a k pol => formatV 33 0 pol k 1 6 0 a d
  | .vpopm d a => formatV 33 0 0 0 0 7 0 a d
  | _ => []

/-- The fields of the long vector and the matrix instructions, majors 34 to 44. -/
def longFields : Instr → List Field
  | .vrcp d a k pol me la => formatW 34 0 pol k me 0 la a d
  | .vrsq d a k pol me la => formatW 34 0 pol k me 1 la a d
  | .vsqrt d a k pol me la => formatW 34 0 pol k me 2 la a d
  | .vexp2 d a k pol me la => formatW 34 0 pol k me 3 la a d
  | .vlog2 d a k pol me la => formatW 34 0 pol k me 4 la a d
  | .vtanh d a k pol me la => formatW 34 0 pol k me 5 la a d
  | .vsigm d a k pol me la => formatW 34 0 pol k me 6 la a d
  | .vcvt d a k tag pol me la => formatW 35 0 pol k me tag la a d
  | .vcvts d a k tag pol me la => formatW 35 1 pol k me tag la a d
  | .vpack d a tag la => formatW 35 2 0 0 0 tag la a d
  | .vunpack d a la => formatW 35 3 0 0 0 6 la a d
  | .vredadd d a k f pol me la => formatR 36 f pol k me 0 la a d
  | .vredmax d a k f pol me la => formatR 36 f pol k me 1 la a d
  | .vredmin d a k f pol me la => formatR 36 f pol k me 2 la a d
  | .vredq d a n f la => formatRq 36 f n 3 la a d
  | .vrng d a k tag pol me => formatVt 37 0 pol k me 0 tag a d
  | .vpivot d a b k me => formatV 38 0 0 k me 0 b a d
  | .vpivotR d a b k me => formatV 38 1 0 k me 0 b a d
  | .velim d a b k pol me => formatV 38 0 pol k me 1 b a d
  | .vreg d a b => formatV 38 0 0 0 0 2 b a d
  | .mmacVv d a b f p la => formatM 39 f p la b a d
  | .mmacSv d a b f p la => formatM 40 f p la b a d
  | .mmacVs d a b f p la => formatM 41 f p la b a d
  | .mmacSs d a b f p la => formatM 42 f p la b a d
  | .mzero d la => formatA 43 0 la 0 0 d
  | .mload d a la => formatA 43 1 la 0 a d
  | .mstore d a la => formatA 43 2 la 0 a d
  | .mdrain d a b la => formatA 43 3 la b a d
  | .hret => formatA 43 4 0 0 0 0
  | .mpin d a b => formatA 43 5 0 b a d
  | .mfree d => formatA 43 6 0 0 0 d
  | .mspill d la => formatA 43 7 la 0 0 d
  | .mfill d la => formatA 43 8 la 0 0 d
  | .mown d a la => formatA 43 9 la 0 a d
  | .fwdelta d a b f la => formatFw 44 f la b a d
  | .fwchunk d n la => formatM 44 4 n la 0 0 d
  | .fwread d a la => formatA 44 40 la 0 a d
  | _ => []

/-- The fields of the halfwords (R105). -/
def halfFields : Instr → List Field
  | .vaddH d a m => formatH m a d 0
  | .vsubH d a m => formatH m a d 1
  | .vmulH d a m => formatH m a d 2
  | .vminH d a m => formatH m a d 3
  | .vmaxH d a m => formatH m a d 4
  | .vandH d a m => formatH m a d 5
  | .vorH d a m => formatH m a d 6
  | .vxorH d a m => formatH m a d 7
  | .vmovH d a m => formatH m a d 8
  | .vneg d a m => formatH m a d 9
  | .vabs d a m => formatH m a d 10
  | .vselH d a => formatH 0 a d 11
  | .vrelu d a m => formatH m a d 12
  | .vrsub d a m => formatH m a d 13
  | .vzero d a m => formatH m a d 14
  | .vswap d a => formatH 0 a d 15
  | _ => []

/-- The fields of an instruction's encoding; none for an event. -/
def fields (i : Instr) : List Field :=
  scalarFields i ++ (memoryFields i ++ (floatFields i ++ (vectorFields i ++ (longFields i ++ halfFields i))))

theorem encNat_eq_pack (i : Instr) : i.encNat = pack (fields i) := by
  cases i
  all_goals dsimp only [Instr.encNat, fields, scalarFields, memoryFields, floatFields, vectorFields, longFields, halfFields, List.nil_append,
      List.cons_append, pack]
  all_goals simp +arith only [BitVec.reduceToNat, Nat.reducePow]

/-! What the fields say of an encoding: its length, its parity and its bound. -/

/-- How many bits fields take side by side. -/
def width : List Field → Nat
  | [] => 0
  | f :: fs => f.1 + width fs

theorem pack_lt (fs : List Field) : pack fs < 2 ^ width fs := by
  induction fs with
  | nil => exact Nat.one_pos
  | cons f fs ih =>
    rw [pack, width, Nat.pow_add]
    calc f.2.toNat + 2 ^ f.1 * pack fs
        < 2 ^ f.1 * (pack fs + 1) := by rw [Nat.mul_add, Nat.mul_one, Nat.add_comm]; exact Nat.add_lt_add_left f.2.isLt _
      _ ≤ 2 ^ f.1 * 2 ^ width fs := Nat.mul_le_mul_left _ ih

theorem width_fields (i : Instr) : width (fields i) = i.bits := by
  cases i
  all_goals dsimp only [Instr.bits, fields, scalarFields, memoryFields, floatFields, vectorFields, longFields, halfFields, List.nil_append,
      List.cons_append, width]

theorem encNat_lt (i : Instr) : i.encNat < 2 ^ i.bits := by
  rw [encNat_eq_pack, ← width_fields]
  exact pack_lt (fields i)

/-- Bit 0 of an encoding tells its length (R102): it is set in a word and clear in a halfword. -/
theorem length_cases (i : Instr) :
    (i.bits = 32 ∧ (fields i).head? = some ⟨1, 1⟩) ∨ (i.bits = 16 ∧ (fields i).head? = some ⟨1, 0⟩) ∨ i.bits = 0 := by
  cases i
  all_goals dsimp only [Instr.bits, fields, scalarFields, memoryFields, floatFields, vectorFields, longFields, halfFields, List.nil_append,
      List.cons_append, List.head?]
  all_goals simp only [Nat.reduceEqDiff, true_and, false_and, true_or, or_true]

theorem bits_of_half {i : Instr} (hi : halfFields i ≠ []) : i.bits = 16 := by
  cases i
  all_goals dsimp only [halfFields] at hi
  all_goals try exact absurd rfl hi
  all_goals dsimp only [Instr.bits]

theorem pack_mod_two {fs : List Field} {b : BitVec 1} (h : fs.head? = some ⟨1, b⟩) : pack fs % 2 = b.toNat := by
  obtain ⟨fs, rfl⟩ := List.head?_eq_some_iff.1 h
  exact (Nat.add_mul_mod_self_left _ _ _).trans (Nat.mod_eq_of_lt b.isLt)

/-! A number that holds an instruction's fields is decoded as that instruction. -/

/-- The major field selects the family. In it the guard of each earlier row asks for another value of a fixed field, and the row's own guard holds. -/
theorem word_of_scalar {i : Instr} {n : Nat} (hi : scalarFields i ≠ []) (h : Holds n 0 (fields i)) : Dec.word n = some i := by
  have ha := h.above
  have hm : n / 2 % 64 = (BitVec.ofNat 6 (n / 2)).toNat := rfl
  cases i
  all_goals dsimp only [scalarFields] at hi
  all_goals try exact absurd rfl hi
  all_goals dsimp only [fields, scalarFields, memoryFields, floatFields, vectorFields, longFields, halfFields, List.nil_append, List.cons_append,
      Holds, Above, pack] at h ha
  all_goals simp only [Nat.reducePow, Nat.reduceAdd, Nat.div_one, BitVec.reduceToNat, Nat.reduceMul, Nat.mul_zero, Nat.add_zero, Nat.zero_add] at h ha
  all_goals simp only [h, BitVec.reduceToNat] at hm
  all_goals rw [Dec.word, hm]
  all_goals dsimp only [Dec.major0, Dec.major1, Dec.major2, Dec.major3, Dec.major4, Dec.major5, Dec.major6, Dec.major7, Dec.major8, Dec.major9,
      Dec.major10, Dec.major11, Dec.major12, Dec.major13, Dec.major14]
  all_goals simp only [↓h, ha, ↓reduceIte, Nat.reduceEqDiff, Nat.reduceMod, Nat.add_mul_mod_self_left, Nat.mul_mod_right, false_and, and_true]
  all_goals clear h hm
  all_goals repeat rw [if_neg (by omega)]
  all_goals try rw [if_pos (by omega)]

theorem word_of_memory {i : Instr} {n : Nat} (hi : memoryFields i ≠ []) (h : Holds n 0 (fields i)) : Dec.word n = some i := by
  have ha := h.above
  have hm : n / 2 % 64 = (BitVec.ofNat 6 (n / 2)).toNat := rfl
  cases i
  all_goals dsimp only [memoryFields] at hi
  all_goals try exact absurd rfl hi
  all_goals dsimp only [fields, scalarFields, memoryFields, floatFields, vectorFields, longFields, halfFields, List.nil_append, List.cons_append,
      Holds, Above, pack] at h ha
  all_goals simp only [Nat.reducePow, Nat.reduceAdd, Nat.div_one, BitVec.reduceToNat, Nat.reduceMul, Nat.mul_zero, Nat.add_zero, Nat.zero_add] at h ha
  all_goals simp only [h, BitVec.reduceToNat] at hm
  all_goals rw [Dec.word, hm]
  all_goals dsimp only [Dec.major15, Dec.major16, Dec.major17, Dec.major18, Dec.major19, Dec.major20, Dec.major21, Dec.major22, Dec.major23,
      Dec.major24, Dec.major25, Dec.major26, Dec.major27]
  all_goals simp only [↓h, ha, ↓reduceIte, Nat.reduceEqDiff, Nat.reduceMod, Nat.add_mul_mod_self_left, Nat.mul_mod_right, and_false, false_and,
      and_true, true_and]
  all_goals clear h hm
  all_goals repeat rw [if_neg (by omega)]
  all_goals try rw [if_pos (by omega)]

theorem word_of_float {i : Instr} {n : Nat} (hi : floatFields i ≠ []) (h : Holds n 0 (fields i)) : Dec.word n = some i := by
  have ha := h.above
  have hm : n / 2 % 64 = (BitVec.ofNat 6 (n / 2)).toNat := rfl
  cases i
  all_goals dsimp only [floatFields] at hi
  all_goals try exact absurd rfl hi
  all_goals dsimp only [fields, scalarFields, memoryFields, floatFields, vectorFields, longFields, halfFields, List.nil_append, List.cons_append,
      Holds, Above, pack] at h ha
  all_goals simp only [Nat.reducePow, Nat.reduceAdd, Nat.div_one, BitVec.reduceToNat, Nat.reduceMul, Nat.mul_zero, Nat.add_zero, Nat.zero_add] at h ha
  all_goals simp only [h, BitVec.reduceToNat] at hm
  all_goals rw [Dec.word, hm]
  all_goals dsimp only [Dec.major28, Dec.major29, Dec.major30]
  all_goals simp only [↓h, ha, ↓reduceIte, Nat.reduceEqDiff, Nat.reduceMod, Nat.add_mul_mod_self_left, Nat.mul_mod_right, false_and, and_true]
  all_goals clear h hm
  all_goals repeat rw [if_neg (by omega)]

theorem word_of_vector {i : Instr} {n : Nat} (hi : vectorFields i ≠ []) (h : Holds n 0 (fields i)) : Dec.word n = some i := by
  have ha := h.above
  have hm : n / 2 % 64 = (BitVec.ofNat 6 (n / 2)).toNat := rfl
  cases i
  all_goals dsimp only [vectorFields] at hi
  all_goals try exact absurd rfl hi
  all_goals dsimp only [fields, scalarFields, memoryFields, floatFields, vectorFields, longFields, halfFields, List.nil_append, List.cons_append,
      Holds, Above, pack] at h ha
  all_goals simp only [Nat.reducePow, Nat.reduceAdd, Nat.div_one, BitVec.reduceToNat, Nat.reduceMul, Nat.mul_zero, Nat.add_zero, Nat.zero_add] at h ha
  all_goals simp only [h, BitVec.reduceToNat] at hm
  all_goals rw [Dec.word, hm]
  all_goals dsimp only [Dec.major31, Dec.major32, Dec.major33]
  all_goals simp only [↓h, ha, ↓reduceIte, Nat.reduceEqDiff, Nat.reduceMod, Nat.add_mul_mod_self_left, Nat.mul_mod_right, and_false, false_and,
      and_true, true_and]
  all_goals clear h hm
  all_goals repeat rw [if_neg (by omega)]
  all_goals try rw [if_pos (by omega)]

theorem word_of_long {i : Instr} {n : Nat} (hi : longFields i ≠ []) (h : Holds n 0 (fields i)) : Dec.word n = some i := by
  have ha := h.above
  have hm : n / 2 % 64 = (BitVec.ofNat 6 (n / 2)).toNat := rfl
  cases i
  all_goals dsimp only [longFields] at hi
  all_goals try exact absurd rfl hi
  all_goals dsimp only [fields, scalarFields, memoryFields, floatFields, vectorFields, longFields, halfFields, List.nil_append, List.cons_append,
      Holds, Above, pack] at h ha
  all_goals simp only [Nat.reducePow, Nat.reduceAdd, Nat.div_one, BitVec.reduceToNat, Nat.reduceMul, Nat.mul_zero, Nat.add_zero, Nat.zero_add] at h ha
  all_goals simp only [h, BitVec.reduceToNat] at hm
  all_goals rw [Dec.word, hm]
  all_goals dsimp only [Dec.major34, Dec.major35, Dec.major36, Dec.major37, Dec.major38, Dec.major39, Dec.major40, Dec.major41, Dec.major42,
      Dec.major43, Dec.major44]
  all_goals simp only [↓h, ha, ↓reduceIte, Nat.reduceEqDiff, Nat.reduceMod, Nat.add_mul_mod_self_left, Nat.mul_mod_right, and_false, false_and,
      and_true, true_and]
  all_goals clear h hm
  all_goals repeat rw [if_neg (by omega)]
  all_goals try rw [if_pos (by omega)]

theorem half_of_fields {i : Instr} {n : Nat} (hb : i.bits = 16) (h : Holds n 0 (fields i)) : Dec.half n = some i := by
  cases i
  all_goals dsimp only [Instr.bits] at hb
  all_goals try exact absurd hb (by decide)
  all_goals dsimp only [fields, scalarFields, memoryFields, floatFields, vectorFields, longFields, halfFields, List.nil_append, List.cons_append,
      Holds] at h
  all_goals simp only [Nat.reducePow, Nat.reduceAdd, Nat.div_one] at h
  all_goals obtain ⟨hbit, hop, hd, ha, hm, hz⟩ := h
  all_goals have hlow : n % 32 = n % 2 + 2 * (n / 2 % 16) := by omega
  all_goals have htop : n / 32768 = (BitVec.ofNat 1 (n / 32768)).toNat := by rw [BitVec.toNat_ofNat]; omega
  all_goals simp only [← BitVec.toNat_inj, BitVec.toNat_ofNat, BitVec.reduceToNat, Nat.reducePow] at hbit hop
  all_goals rw [hbit, hop] at hlow
  all_goals rw [hm] at htop
  all_goals simp only [Dec.half, hlow, hd, ha, ↓hm, htop, BitVec.reduceToNat, Nat.reduceMul, Nat.reduceAdd, Nat.reduceEqDiff, ↓reduceIte, and_true,
      and_false]

/-! The instruction that a number is decoded as has that number's fields, and so that number as its encoding. -/

/-- Whatever instruction a decoder answers for the number, it is `len` bits long and the number holds its fields. -/
def Reads (n len : Nat) (answer : Option Instr) : Prop := ∀ i, answer = some i → i.bits = len ∧ Holds n 0 (fields i)

theorem Reads.none (n len : Nat) : Reads n len none := nofun

theorem Reads.some {n len : Nat} {i : Instr} (hb : i.bits = len) (hi : Holds n 0 (fields i)) : Reads n len (some i) := by
  rintro _ ⟨⟩
  exact ⟨hb, hi⟩

theorem Reads.row {n len : Nat} {c : Prop} [Decidable c] {i : Instr} {rest : Option Instr} (hb : i.bits = len)
    (hi : c → Holds n 0 (fields i)) (hr : Reads n len rest) : Reads n len (if c then Option.some i else rest) := by
  split
  · exact .some hb (hi ‹_›)
  · exact hr

/-- Each row of a family asks by its guard for the row's fixed fields, and takes its operands from the others. -/
theorem reads_low {n m : Nat} (h32 : n / 4294967296 = 0) (h1 : n % 2 = 1) (hm : n / 2 % 64 = m) (hlo : 0 ≤ m) (hhi : m ≤ 27) :
    Reads n 32 (Dec.word n) := by
  interval_cases m
  all_goals rw [Dec.word, hm]
  all_goals dsimp only [Dec.major0, Dec.major1, Dec.major2, Dec.major3, Dec.major4, Dec.major5, Dec.major6, Dec.major7, Dec.major8, Dec.major9,
      Dec.major10, Dec.major11, Dec.major12, Dec.major13, Dec.major14, Dec.major15, Dec.major16, Dec.major17, Dec.major18, Dec.major19, Dec.major20,
          Dec.major21, Dec.major22, Dec.major23, Dec.major24, Dec.major25, Dec.major26, Dec.major27]
  all_goals repeat' refine Reads.row rfl (fun hc => ?_) ?_
  all_goals try exact .none n 32
  all_goals try refine Reads.some rfl ?_
  all_goals dsimp only [fields, scalarFields, memoryFields, floatFields, vectorFields, longFields, halfFields, List.nil_append, List.cons_append,
      Holds]
  all_goals simp only [← BitVec.toNat_inj, BitVec.toNat_ofNat, BitVec.reduceToNat, Nat.reducePow, Nat.reduceAdd, Nat.div_one, true_and, and_true,
      Nat.reduceMod, *]
  all_goals clear h1 hm h32
  all_goals omega

theorem reads_high {n m : Nat} (h32 : n / 4294967296 = 0) (h1 : n % 2 = 1) (hm : n / 2 % 64 = m) (hlo : 28 ≤ m) (hhi : m ≤ 44) :
    Reads n 32 (Dec.word n) := by
  interval_cases m
  all_goals rw [Dec.word, hm]
  all_goals dsimp only [Dec.major28, Dec.major29, Dec.major30, Dec.major31, Dec.major32, Dec.major33, Dec.major34, Dec.major35, Dec.major36,
      Dec.major37, Dec.major38, Dec.major39, Dec.major40, Dec.major41, Dec.major42, Dec.major43, Dec.major44]
  all_goals repeat' refine Reads.row rfl (fun hc => ?_) ?_
  all_goals try exact .none n 32
  all_goals try refine Reads.some rfl ?_
  all_goals dsimp only [fields, scalarFields, memoryFields, floatFields, vectorFields, longFields, halfFields, List.nil_append, List.cons_append,
      Holds]
  all_goals simp only [← BitVec.toNat_inj, BitVec.toNat_ofNat, BitVec.reduceToNat, Nat.reducePow, Nat.reduceAdd, Nat.div_one, true_and, and_true,
      Nat.reduceMod, *]
  all_goals clear h1 hm h32
  all_goals omega

theorem reads_word {n : Nat} (h32 : n / 4294967296 = 0) (h1 : n % 2 = 1) : Reads n 32 (Dec.word n) := by
  obtain ⟨m, hm⟩ : ∃ m, n / 2 % 64 = m := ⟨_, rfl⟩
  rcases Nat.lt_or_ge m 28 with hlow | hmid
  · exact reads_low h32 h1 hm (Nat.zero_le m) (Nat.le_of_lt_succ hlow)
  rcases Nat.lt_or_ge m 45 with hhigh | hnone
  · exact reads_high h32 h1 hm hmid (Nat.le_of_lt_succ hhigh)
  have hword : Dec.word n = none := by
    unfold Dec.word
    split
    case h_46 => rfl
    all_goals omega
  rw [hword]
  exact .none n 32

theorem reads_half {n : Nat} (h16 : n / 65536 = 0) (h0 : n % 2 = 0) : Reads n 16 (Dec.half n) := by
  unfold Dec.half
  repeat' refine Reads.row rfl (fun hc => ?_) ?_
  all_goals try exact .none n 16
  all_goals dsimp only [fields, scalarFields, memoryFields, floatFields, vectorFields, longFields, halfFields, List.nil_append, List.cons_append,
      Holds]
  all_goals simp only [← BitVec.toNat_inj, BitVec.toNat_ofNat, BitVec.reduceToNat, Nat.reducePow, Nat.reduceAdd, Nat.div_one, true_and, and_true,
      Nat.reduceMod, *]
  all_goals omega

/-! The decoder between bytes and numbers. -/

theorem word_of_fields {i : Instr} {n : Nat} (hb : i.bits = 32) (h : Holds n 0 (fields i)) : Dec.word n = some i := by
  have hfields : fields i ≠ [] := by
    intro hnil
    rw [← width_fields, hnil] at hb
    exact absurd hb (by decide)
  simp only [fields, ne_eq, List.append_eq_nil_iff, not_and_or] at hfields
  rcases hfields with hi | hi | hi | hi | hi | hi
  · exact word_of_scalar hi h
  · exact word_of_memory hi h
  · exact word_of_float hi h
  · exact word_of_vector hi h
  · exact word_of_long hi h
  · exact absurd hb (by rw [bits_of_half hi]; decide)

theorem holds_encNat (i : Instr) : Holds i.encNat 0 (fields i) := by
  rw [holds_iff, encNat_eq_pack, Nat.pow_zero, Nat.div_one]

theorem Holds.eq_encNat {n : Nat} {i : Instr} (h : Holds n 0 (fields i)) : n = i.encNat := by
  rw [encNat_eq_pack, ← holds_iff.1 h, Nat.pow_zero, Nat.div_one]

theorem wordBytes_of_bytes (b0 b1 b2 b3 : Byte) :
    wordBytes (b0.toNat + 256 * b1.toNat + 65536 * (b2.toNat + 256 * b3.toNat)) = [b0, b1, b2, b3] := by
  simp only [wordBytes, List.cons.injEq, ← BitVec.toNat_inj, BitVec.toNat_ofNat]
  have h0 := b0.isLt
  have h1 := b1.isLt
  have h2 := b2.isLt
  have h3 := b3.isLt
  refine ⟨?_, ?_, ?_, ?_, trivial⟩ <;> omega

theorem take_wordBytes (b0 b1 : Byte) : (wordBytes (b0.toNat + 256 * b1.toNat)).take 2 = [b0, b1] := by
  have h := wordBytes_of_bytes b0 b1 0 0
  exact congrArg (List.take 2) h

theorem decode_word {n : Nat} (hlt : n < 2 ^ 32) (h1 : n % 2 = 1) {i : Instr} (hi : Dec.word n = some i) (rest : List Byte) :
    decode (wordBytes n ++ rest) = .ok i 4 := by
  have hodd : ¬ (n % 256 + 256 * (n / 256 % 256)) % 2 = 0 := by omega
  have hval : n % 256 + 256 * (n / 256 % 256) + 65536 * (n / 65536 % 256 + 256 * (n / 16777216 % 256)) = n := by omega
  simp only [wordBytes, List.cons_append, List.nil_append, decode, BitVec.toNat_ofNat, Nat.reducePow, if_neg hodd, hval, hi]

theorem decode_half {n : Nat} (hlt : n < 2 ^ 16) (h0 : n % 2 = 0) {i : Instr} (hi : Dec.half n = some i) (rest : List Byte) :
    decode ((wordBytes n).take 2 ++ rest) = .ok i 2 := by
  have heven : (n % 256 + 256 * (n / 256 % 256)) % 2 = 0 := by omega
  have hval : n % 256 + 256 * (n / 256 % 256) = n := by omega
  simp only [wordBytes, List.take_succ_cons, List.take_zero, List.cons_append, List.nil_append, decode, BitVec.toNat_ofNat,
    Nat.reducePow, hval, if_pos h0, hi]

theorem encNat_mod_two {i : Instr} {b : BitVec 1} (h : (fields i).head? = some ⟨1, b⟩) : i.encNat % 2 = b.toNat := by
  rw [encNat_eq_pack, pack_mod_two h]

theorem decode_encodeBytes {i : Instr} (hb : i.bits ≠ 0) (rest : List Byte) : decode (encodeBytes i ++ rest) = .ok i (i.bits / 8) := by
  have hlt := encNat_lt i
  rcases length_cases i with ⟨h32, hhead⟩ | ⟨h16, hhead⟩ | h0
  · have hword := decode_word (h32 ▸ hlt) (encNat_mod_two hhead) (word_of_fields h32 (holds_encNat i)) rest
    rw [encodeBytes, h32]
    exact hword
  · have hhalf := decode_half (h16 ▸ hlt) (encNat_mod_two hhead) (half_of_fields h16 (holds_encNat i)) rest
    rw [encodeBytes, h16]
    exact hhalf
  · exact absurd h0 hb

theorem Reads.ok {n len : Nat} {answer : Option Instr} {j i : Instr} (h : Reads n len answer) {m k : Nat} (hj : answer = Option.some j)
    (hok : DecodeResult.ok j k = .ok i m) (hk : k = len / 8) : m = i.bits / 8 ∧ encodeBytes i = (wordBytes n).take m := by
  obtain ⟨rfl, rfl⟩ := DecodeResult.ok.inj hok
  obtain ⟨hb, hfields⟩ := h j hj
  rw [encodeBytes, hb, ← hfields.eq_encNat, hk]
  exact ⟨rfl, rfl⟩

theorem encodeBytes_of_decode {bs : List Byte} {i : Instr} {n : Nat} (h : decode bs = .ok i n) :
    n = i.bits / 8 ∧ encodeBytes i = bs.take n := by
  rcases bs with _ | ⟨b0, _ | ⟨b1, rest⟩⟩
  · exact absurd h nofun
  · exact absurd h nofun
  have h0 := b0.isLt
  have h1 := b1.isLt
  unfold decode at h
  dsimp only at h
  split at h
  next heven =>
    split at h
    next j hj =>
      obtain ⟨hn, hbytes⟩ := (reads_half (by omega) heven).ok hj h rfl
      obtain rfl : 2 = n := (DecodeResult.ok.inj h).2
      exact ⟨hn, hbytes.trans (take_wordBytes b0 b1)⟩
    next => exact absurd h nofun
  next hodd =>
    split at h
    next b2 b3 _ =>
      have h2 := b2.isLt
      have h3 := b3.isLt
      split at h
      next j hj =>
        obtain ⟨hn, hbytes⟩ := (reads_word (by omega) (by omega)).ok hj h rfl
        obtain rfl : 4 = n := (DecodeResult.ok.inj h).2
        rw [wordBytes_of_bytes] at hbytes
        exact ⟨hn, hbytes⟩
      next => exact absurd h nofun
    next => exact absurd h nofun

end Sys2Proof.Layout

namespace Sys2Proof.Proofs
open Sys2Proof.Layout

/-- Settles O16: each of the encodings' two lengths is decoded by its own decoder, which finds the row whose fields the number holds. -/
theorem encodingsDecodeBack : Obligations.EncodingsDecodeBack := by
  intro i rest hbits _
  exact decode_encodeBytes hbits rest

/-- Settles O17: a row's guard and operands, taken from a number, say that the number holds the fields of the row. -/
theorem decodedBytesAreTheEncoding : Obligations.DecodedBytesAreTheEncoding :=
  fun _ _ _ => encodeBytes_of_decode

/-- Settles O15, by running the decoder and the encoder on the written words. -/
theorem writtenWordsDecode : Obligations.WrittenWordsDecode := by
  unfold Obligations.WrittenWordsDecode
  decide +kernel

end Sys2Proof.Proofs
end

section
/-! ## Fetches that find no instruction (spec/06_encoding.md R122, spec/05_fetch_and_issue.md R82) -/

namespace Sys2Proof.Machine

open Sys2Proof.Safety

theorem ready_quiet {s : State} (h : Ready s) : s.quiet = true := by
  obtain ⟨-, -, -, hflight, -, -⟩ := h
  have hstream : (s.core.str s.core.sel).flight = [] := hflight
  rw [State.quiet, State.quietOn, hstream, List.all_nil]

theorem ready_dueTrap {s : State} (h : Ready s) : s.dueTrap = none := by
  obtain ⟨-, hdue, -, -, -, -⟩ := h
  exact Option.isNone_iff_eq_none.1 hdue

theorem ready_canAct {s : State} (h : Ready s) : s.canAct = true := by
  obtain ⟨hissue, -, -, -, -, -⟩ := h
  rw [State.canIssue, Bool.and_eq_true] at hissue
  exact hissue.1

/-- What a fetch ends in happens at once to a stream that nothing holds back. -/
theorem State.atFetch_ready {s : State} (h : Ready s) (k : State → State) : s.atFetch k = k s := by
  rw [State.atFetch, ready_canAct h, ready_dueTrap h, h.1]
  rfl

theorem step_reject {s : State} {pid : Nat} {x : StreamId} {rest : List Turn} {w : BitVec 32} (hagenda : s.agenda = .stream pid x :: rest)
    (hfetch : ((({ s with agenda := rest }).select pid).onStream x).toFetch.fetch = .reject w) :
    step s = exec (.illegalInstruction w) ((({ s with agenda := rest }).select pid).onStream x).toFetch := by
  simp [step, State.turnNow, hagenda, State.take, State.fetched, hfetch, Todo.go]

theorem step_refused {s : State} {pid : Nat} {x : StreamId} {rest : List Turn} {va : Word} (hagenda : s.agenda = .stream pid x :: rest)
    (hfetch : ((({ s with agenda := rest }).select pid).onStream x).toFetch.fetch = .trap 0x07 va) :
    step s = exec (.fetchProtectionFault va) ((({ s with agenda := rest }).select pid).onStream x).toFetch := by
  simp [step, State.turnNow, hagenda, State.take, State.fetched, hfetch, Todo.go]

theorem exec_illegalInstruction {s : State} {w : BitVec 32} (h : Ready s) (hfetch : s.fetch = .reject w) :
    exec (.illegalInstruction w) s = .next (s.trapAt 0x01 (w.zeroExtend 64)) := by
  show execIllegalInstruction w s = _
  rw [execIllegalInstruction, if_pos hfetch, State.atFetch_ready h]

theorem exec_fetchProtectionFault {s : State} {va : Word} (h : Ready s) (hfetch : s.fetch = .trap 0x07 va) :
    exec (.fetchProtectionFault va) s = .next (s.trapAt 0x07 va) := by
  show execFetchProtectionFault va s = _
  rw [execFetchProtectionFault, if_pos hfetch, State.atFetch_ready h]

end Sys2Proof.Machine

namespace Sys2Proof.Proofs

open Sys2Proof.Machine Sys2Proof.Safety

/-- Settles O18: the fetch that the step tries is the one that the event it becomes finds again, and both end in the trap. -/
theorem rejectedFetchesTrap : Obligations.RejectedFetchesTrap := by
  rintro s s1 pid x rest hagenda rfl hready hmode
  refine ⟨fun w hfetch => ⟨step_reject hagenda hfetch, _, exec_illegalInstruction hready hfetch, ?_⟩,
    fun va hfetch => ⟨step_refused hagenda hfetch, _, exec_fetchProtectionFault hready hfetch, ?_⟩⟩
  · exact State.trapAt_trapped _ (ready_quiet hready) hmode (by decide)
  · exact State.trapAt_trapped _ (ready_quiet hready) hmode (by decide)

end Sys2Proof.Proofs
end

section
/-! ## Illegal and privileged encodings (spec/06_encoding.md R107, R122, R123)

Every instruction with an encoding is an issue of itself, and an issue checks the instruction's form, stream and privilege before anything else. -/

namespace Sys2Proof.Machine

open Sys2Proof.Layout Sys2Proof.Safety

/-- The streams in which an instruction's meaning issues it; the float, vector and matrix instructions are those of the last row. -/
def streams : Instr → Streams
  | .add _ _ _ | .sub _ _ _ | .mul _ _ _ _ | .mulh _ _ _ _ | .div _ _ _ _ | .divu _ _ _ _ | .rem _ _ _ _ | .remu _ _ _ _ | .and _ _ _ | .or _ _ _ |
    .xor _ _ _ | .shl _ _ _ | .shr _ _ _ | .sar _ _ _ | .slt _ _ _ | .sltu _ _ _ | .min _ _ _ | .max _ _ _ | .clz _ _ | .ctz _ _ | .popc _ _ |
    .gcd _ _ _ _ | .addi _ _ _ | .andi _ _ _ | .ori _ _ _ | .xori _ _ _ | .shli _ _ _ | .shri _ _ _ | .sari _ _ _ | .slti _ _ _ | .sltiu _ _ _ |
    .lui _ _ | .adpc _ _ | .bcc _ _ _ _ | .br _ | .call _ | .jr _ | .callr _ | .ret | .sysrd _ _ | .syswr _ _ | .svc _ | .trap _ | .tret | .exit |
    .nop | .safept _ | .lvret | .lvthaw _ _ => .both
  | .qput _ _ | .qget _ _ | .gtol _ _ | .ltog _ _ _ | .inap _ _ | .teama _ _ _ | .fence _ | .fenceAcq _ | .fenceRel _ | .bar _ _ _ | .barW _ _ _ |
    .barw _ _ _ | .barx _ _ _ | .dsync _ | .gsync _ | .waitp | .trig | .ld _ _ _ _ _ | .ldz _ _ _ _ _ | .st _ _ _ _ | .ldq _ _ _ _ _ | .stq _ _ _ |
    .ldqs _ _ _ _ _ _ | .stqs _ _ _ _ | .ldqx _ _ _ _ _ _ | .stqx _ _ _ _ | .lds _ _ _ _ | .sts _ _ _ | .ldsq _ _ _ _ _ | .stsq _ _ _ |
    .atomicAdd _ _ _ _ _ _ | .atomicAnd _ _ _ _ _ _ | .atomicOr _ _ _ _ _ _ | .atomicXor _ _ _ _ _ _ | .atomicMin _ _ _ _ _ _ |
    .atomicMax _ _ _ _ _ _ | .atomicSwp _ _ _ _ _ _ | .atomicCas _ _ _ _ _ _ | .radd _ _ _ _ | .tdef _ _ | .tstat _ _ | .twait _ | .trel _ |
    .cpset _ _ | .cpgo _ | .cpwait _ | .cpprobe _ _ | .lvget _ _ | .lvnbr _ _ | .lvread _ _ _ _ | .lvstep _ | .lvcommit => .aOnly
  | _ => .cOnly

/-- An answer is that of an issue of the instruction in the given streams. -/
def Issues (i : Instr) (x : Streams) (s : State) (r : Out) : Prop := ∃ fm k, r = issue fm s k ∧ fm.instr = i ∧ fm.streams = x

theorem issues_of (fm : Form) (s : State) (k : State → Res) : Issues fm.instr fm.streams s (issue fm s k) := ⟨fm, k, rfl, rfl, rfl⟩

/-! The shared operations issue the instruction that they are given. -/

theorem shortG_issues (i d reads f s) : Issues i .both s (shortG i d reads f s) :=
  issues_of _ s _

theorem longG_issues (i d a b la f s) : Issues i .both s (longG i d a b la f s) :=
  issues_of _ s _

theorem longDiv_issues (i d a b la f s) : Issues i .both s (longDiv i d a b la f s) :=
  issues_of _ s _

theorem callSup_issues (i cause code s) : Issues i .both s (callSup i cause code s) :=
  issues_of _ s _

theorem fenceOp_issues (i acq rel sc s) : Issues i .aOnly s (fenceOp i acq rel sc s) :=
  issues_of _ s _

theorem barrierArrive_issues (i a n sc units waits s) : Issues i .aOnly s (barrierArrive i a n sc units waits s) :=
  issues_of _ s _

theorem scalarLoad_issues (i sext d a off sz la s) : Issues i .aOnly s (scalarLoad i sext d a off sz la s) :=
  issues_of _ s _

theorem elemLoad_issues (i q a b tag esz la plan s) : Issues i .aOnly s (elemLoad i q a b tag esz la plan s) :=
  issues_of _ s _

theorem elemStore_issues (i q a b esz plan s) : Issues i .aOnly s (elemStore i q a b esz plan s) :=
  issues_of _ s _

theorem atomicOp_issues (i op d a b w rt sc s) : Issues i .aOnly s (atomicOp i op d a b w rt sc s) :=
  issues_of _ s _

theorem tileWait_issues (i a after s) : Issues i .aOnly s (tileWait i a after s) :=
  issues_of _ s _

theorem longF_issues (i d a b two la ok run s) : Issues i .cOnly s (longF i d a b two la ok run s) :=
  issues_of _ s _

theorem shortF_issues (i d a b two ok run s) : Issues i .cOnly s (shortF i d a b two ok run s) :=
  issues_of _ s _

theorem fCompare_issues (i d a b c s) : Issues i .cOnly s (fCompare i d a b c s) :=
  issues_of _ s _

theorem fPart_issues (i d a f s) : Issues i .cOnly s (fPart i d a f s) :=
  issues_of _ s _

theorem fRational_issues (i d a b la run s) : Issues i .cOnly s (fRational i d a b la run s) :=
  issues_of _ s _

theorem execVec_issues (v tags run s) : Issues v.instr .cOnly s (execVec v tags run s) :=
  issues_of _ s _

theorem vectorFma_issues (v sub s) : Issues v.instr .cOnly s (vectorFma v sub s) := by
  unfold vectorFma
  exact execVec_issues ..

theorem vectorBits_issues (v f s) : Issues v.instr .cOnly s (vectorBits v f s) := by
  unfold vectorBits
  exact execVec_issues ..

theorem vectorMove_issues (v s) : Issues v.instr .cOnly s (vectorMove v s) := by
  unfold vectorMove
  exact execVec_issues ..

theorem vectorSelect_issues (v sel s) : Issues v.instr .cOnly s (vectorSelect v sel s) := by
  unfold vectorSelect
  exact execVec_issues ..

theorem vectorReduce_issues (i d a k f pol me la run s) : Issues i .cOnly s (vectorReduce i d a k f pol me la run s) := by
  unfold vectorReduce
  exact issues_of _ s _

theorem vectorPivot_issues (i r d a b k me s) : Issues i .cOnly s (vectorPivot i r d a b k me s) := by
  unfold vectorPivot
  exact issues_of _ s _

theorem mmacOp_issues (i scA scB d a b f p la s) : Issues i .cOnly s (mmacOp i scA scB d a b f p la s) := by
  unfold mmacOp
  exact issues_of _ s _

theorem tileMove_issues (i u d a la work s) : Issues i .cOnly s (tileMove i u d a la work s) :=
  issues_of _ s _

theorem groupMove_issues (i d la work s) : Issues i .cOnly s (groupMove i d la work s) :=
  issues_of _ s _

/-- Every instruction with an encoding means an issue of that instruction. -/
theorem exec_issues (i : Instr) (s : State) (hb : i.bits ≠ 0) : Issues i (streams i) s (exec i s) := by
  cases i
  all_goals dsimp only [Instr.bits, streams, exec] at hb ⊢
  case add | sub | and | or | xor | shl | shr | sar | slt | sltu | min | max | clz | ctz | popc | addi | andi | ori | xori | shli | shri | sari |
    slti | sltiu | lui | adpc =>
    exact shortG_issues ..
  case mul | mulh | gcd =>
    exact longG_issues ..
  case div | divu | rem | remu =>
    exact longDiv_issues ..
  case svc | trap =>
    exact callSup_issues ..
  case fence | fenceAcq | fenceRel =>
    exact fenceOp_issues ..
  case bar | barW | barx =>
    exact barrierArrive_issues ..
  case ld | ldz =>
    exact scalarLoad_issues ..
  case ldqs | ldqx =>
    exact elemLoad_issues ..
  case stqs | stqx =>
    exact elemStore_issues ..
  case atomicAdd | atomicAnd | atomicOr | atomicXor | atomicMin | atomicMax | atomicSwp | atomicCas | radd =>
    exact atomicOp_issues ..
  case twait | trel =>
    exact tileWait_issues ..
  case fadd | fsub | fmul | fdiv | fsqrt | fma | fcvt | fmed =>
    exact longF_issues ..
  case fmin | fmax | fabs | fneg =>
    exact shortF_issues ..
  case feq | flt | fle =>
    exact fCompare_issues ..
  case fnum | fden =>
    exact fPart_issues ..
  case frnd | fnbr =>
    exact fRational_issues ..
  case vadd | vsub | vmul | vdiv | vmin | vmax | vshl | vshr | vsar | vcmp | vperm | vslideUp | vslideDown | vidx | vcompress | vrcp | vrsq | vsqrt
    | vexp2 | vlog2 | vtanh | vsigm | vcvt | vpack | vrng | vaddH | vsubH | vmulH | vminH | vmaxH | vneg | vabs | vrelu | vrsub | vzero =>
    exact execVec_issues ..
  case vfma | vfms =>
    exact vectorFma_issues ..
  case vand | vor | vxor | vandH | vorH | vxorH =>
    exact vectorBits_issues ..
  case vmov | vmovH =>
    exact vectorMove_issues ..
  case vsel | vselH =>
    exact vectorSelect_issues ..
  case vredadd | vredmax | vredmin =>
    exact vectorReduce_issues ..
  case vpivot | vpivotR =>
    exact vectorPivot_issues ..
  case mmacVv | mmacSv | mmacVs | mmacSs =>
    exact mmacOp_issues ..
  case mload | mstore =>
    exact tileMove_issues ..
  case mspill | mfill =>
    exact groupMove_issues ..
  case vcvts =>
    unfold execVcvts
    dsimp only
    split
    all_goals exact execVec_issues ..
  case bcc | br | call | jr | callr | qput | qget | sysrd | safept | gtol | ltog | inap | teama | barw | st | stq | sts | stsq | tdef | tstat |
    cpset | cpwait | cpprobe | lvget | lvnbr | lvstep | lvthaw | f2g | g2f | fmvg | gmvf | fmake | fli | vsplat | vpopm | vswap | ret | tret | exit |
    nop | waitp | trig | lvtake | lvret | lvcommit | hret =>
    exact issues_of _ s _
  case syswr | dsync | gsync | ldq | lds | ldsq | cpgo | lvread | vunpack | vredq | velim | vreg | mzero | mdrain | mpin | mfree | mown | fwdelta |
    fwchunk | fwread =>
    dsimp -zeta only [execSyswr, execDsync, execGsync, execLdq, execLds, execLdsq, execCpgo, execLvread, execVunpack, execVredq, execVelim,
      execVreg, execMzero, execMdrain, execMpin, execMfree, execMown, execFwdelta, execFwchunk, execFwread]
    exact issues_of _ s _
  all_goals exact absurd rfl hb

theorem encode_toNat (i : Instr) : (encode i).toNat = i.encNat := by
  have hlt := encNat_lt i
  have hle : 2 ^ i.bits ≤ 2 ^ 32 := Nat.pow_le_pow_right (by decide) (by obtain ⟨h, -⟩ | ⟨h, -⟩ | h := length_cases i <;> omega)
  rw [encode, BitVec.toNat_ofNat, Nat.mod_eq_of_lt (Nat.lt_of_lt_of_le hlt hle)]

theorem major_eq (i : Instr) : Spec.major i = (BitVec.ofNat 6 (i.encNat / 2)).toNat := by
  rw [Spec.major, encode_toNat, BitVec.toNat_ofNat]

theorem fnField_eq (i : Instr) : Spec.fnField i = (BitVec.ofNat 6 (i.encNat / 2 ^ 26)).toNat := by
  have hlt := (encode i).isLt
  rw [encode_toNat] at hlt
  rw [Spec.fnField, encode_toNat, BitVec.toNat_ofNat, Nat.mod_eq_of_lt (by omega)]

theorem streams_of_half {i : Instr} (hb : i.bits = 16) : streams i = .cOnly := by
  cases i
  all_goals dsimp only [Instr.bits] at hb
  all_goals try exact absurd hb (by decide)
  all_goals dsimp only [streams]

theorem streams_admits_word {i : Instr} (hb : i.bits = 32) (y : StreamId) : (streams i).admits y = Spec.admits i y := by
  have h := holds_encNat i
  have hmaj := major_eq i
  have hfn := fnField_eq i
  generalize i.encNat = n at h hmaj hfn
  unfold Spec.admits
  cases i
  all_goals dsimp only [Instr.bits] at hb
  all_goals try exact absurd hb (by decide)
  all_goals dsimp only [Instr.bits, streams, fields, scalarFields, memoryFields, floatFields, vectorFields, longFields, halfFields, List.nil_append,
      List.cons_append, Holds] at h ⊢
  all_goals simp only [Nat.reducePow, Nat.reduceAdd, Nat.div_one] at h hfn
  all_goals simp only [h, BitVec.reduceToNat] at hmaj hfn
  all_goals rw [hmaj, hfn]
  all_goals cases y
  all_goals rfl

/-- The streams of the table are those that the spec's majors give (R106, R107, R117). -/
theorem streams_admits {i : Instr} (hb : i.bits ≠ 0) (y : StreamId) : (streams i).admits y = Spec.admits i y := by
  obtain ⟨h, -⟩ | ⟨h, -⟩ | h := length_cases i
  · exact streams_admits_word h y
  · unfold Spec.admits
    rw [streams_of_half h, h]
    cases y
    · rfl
    · rfl
  · exact absurd h hb

/-- An instruction that the stream does not admit, or that is ill-formed, traps before anything else is looked at (R107, R122). -/
theorem issue_illegal (fm : Form) (s : State) (k : State → Res) (h : Ready s)
    (hbad : fm.instr.wellFormed = false ∨ fm.streams.admits s.core.sel = false) :
    issue fm s k = .next (s.trapAt 0x01 (Spec.wordVal fm.instr)) := by
  have hcond : (!fm.instr.wellFormed || !fm.streams.admits s.core.sel || fm.illegal) = true := by
    obtain hbad | hbad := hbad
    · rw [hbad]; rfl
    · rw [hbad, Bool.not_false, Bool.or_true, Bool.true_or]
  rw [issue, ready_canAct h, ready_dueTrap h, h.1]
  simp only [Bool.not_true, Bool.false_eq_true, if_false, if_pos hcond, Spec.wordVal]

/-- A privileged encoding in user mode traps once the instruction itself is in order (R122, R123). -/
theorem issue_privileged (fm : Form) (s : State) (k : State → Res) (h : Ready s) (hmode : s.cur.mode = .user) (hw : fm.instr.wellFormed = true)
    (hs : fm.streams = .both) (hi : fm.illegal = false) (hp : fm.priv = true) :
    issue fm s k = .next (s.trapAt 0x02 (Spec.wordVal fm.instr)) := by
  rw [issue, ready_canAct h, ready_dueTrap h, h.1, hw, hs, hi, hp, hmode]
  rfl

theorem sysPriv_eq (n : Nat) : sysPriv n = Spec.supRegister n := by
  simp only [sysPriv, Spec.supRegister, Bool.decide_and]

/-- The privileged instructions are those whose form says so. -/
theorem exec_privileged {i : Instr} {s : State} (hi : Spec.privileged i = true) (hw : i.wellFormed = true) (h : Ready s)
    (hmode : s.cur.mode = .user) : exec i s = .next (s.trapAt 0x02 (Spec.wordVal i)) := by
  cases i
  all_goals dsimp only [Spec.privileged] at hi
  case tret =>
    unfold exec execTret
    exact issue_privileged _ s _ h hmode hw rfl rfl rfl
  case lvthaw d a =>
    unfold exec execLvthaw
    exact issue_privileged _ s _ h hmode hw rfl (by rw [hmode]; rfl) rfl
  case sysrd d i =>
    unfold exec execSysrd
    exact issue_privileged _ s _ h hmode hw rfl rfl ((sysPriv_eq _).trans hi)
  case syswr a i =>
    unfold exec execSyswr
    exact issue_privileged _ s _ h hmode hw rfl rfl ((sysPriv_eq _).trans hi)
  all_goals contradiction

end Sys2Proof.Machine

namespace Sys2Proof.Proofs

open Sys2Proof.Machine Sys2Proof.Safety

/-- Settles O11: every instruction with an encoding is an issue in the streams of its major, and an issue checks the instruction before anything else. -/
theorem illegalAndPrivilegedEncodingsTrap : Obligations.IllegalAndPrivilegedEncodingsTrap := by
  refine ⟨fun i s hbits hready hmode hbad => ?illegal, fun i s hpriv hwf hready hmode => ?privileged⟩
  case illegal =>
    obtain ⟨fm, k, hexec, rfl, hstreams⟩ := exec_issues i s hbits
    rw [← streams_admits hbits, ← hstreams] at hbad
    exact ⟨_, hexec.trans (issue_illegal fm s k hready hbad), State.trapAt_trapped _ (ready_quiet hready) hmode (by decide)⟩
  case privileged =>
    exact ⟨_, exec_privileged hpriv hwf hready hmode, State.trapAt_trapped _ (ready_quiet hready) hmode (by decide)⟩

end Sys2Proof.Proofs
end

section
/-! What stands past an instruction and before its own effect (spec/07_scalar_instructions.md R132, spec/21_system_instructions.md R326,
spec/20_interruption.md R310). -/

namespace Sys2Proof.Machine

/-! ### Where a stream stands when no access is parked (R277, R310) -/

/-- With no access parked no fence waits for a parked store. -/
theorem State.parkedStore_of_noneParked {s : State} (h : Spec.noneParked s) (x : StreamId) (scope born : Nat) :
    s.parkedStore s.core x scope born = false := by
  obtain ⟨hpending, hflight⟩ := h
  simp only [State.parkedStore, Bool.or_eq_false_iff, List.any_eq_false]
  refine ⟨fun r hr => by simp [hpending r hr], fun op hop => ?_⟩
  have hmem : op ∈ s.core.a.flight ++ s.core.c.flight := by cases x <;> simp_all [Core.str]
  cases hstatus : op.status with
  | parked va => exact absurd hstatus (hflight op hmem va)
  | _ => simp

/-- A stream then stands at its resume address. -/
theorem State.standAt_of_noneParked {s : State} (h : Spec.noneParked s) (x : StreamId) : (s.standAt s.core x).1 = (s.core.str x).resumePc := by
  have hfence : s.parkedFence s.core x = none := by
    simp [State.parkedFence, State.fenceParked, State.parkedStore_of_noneParked h]
  rw [State.standAt, Stream.resumePc, hfence]
  cases (s.core.str x).standing <;> rfl

/-! ### The stream past the instruction, and the handler that begins there (R89, R310) -/

/-- The machine with the issuing stream past the instruction, before a handler begins and the issue is counted. -/
def State.passed (s : State) (i : Instr) : State :=
  s.updCur (fun st => { st with fence := st.fence.filter (fun f => !s.fenceOpen .user f) }.advance i)

theorem State.passed_str_other (s : State) (i : Instr) : (s.passed i).core.str s.core.sel.other = s.core.str s.core.sel.other :=
  Core.str_updStr_other ..

theorem State.passed_noneParked {s : State} (i : Instr) (h : Spec.noneParked s) : Spec.noneParked (s.passed i) := by
  unfold Spec.noneParked State.passed at *
  cases hx : s.core.sel <;> simpa [Core.updStr, Core.setStr, Core.str, hx, Stream.advance] using h

/-- The counter of a stream's issues counts one more (R326). -/
def SysRegs.countIssue (x : StreamId) (r : SysRegs) : SysRegs :=
  match x with
  | .a => { r with cntIssA := r.cntIssA + 1 }
  | .c => { r with cntIssC := r.cntIssC + 1 }

theorem SysRegs.countIssue_trapSave (x : StreamId) (r : SysRegs) : (r.countIssue x).trapSave = r.trapSave := by cases x <;> rfl

/-- The issue is counted and a handler's first instruction notes where the other stream stands; nothing else is left to do. -/
theorem State.issued_eq_passed (s : State) (i : Instr) :
    s.issued i = (if Spec.handlerStarts s then (s.passed i).beginHandler else s.passed i).updSys (SysRegs.countIssue s.core.sel) := by
  have hpassed : (s.updCur (fun st => { st with fence := st.fence.filter (fun f => !s.fenceOpen .user f) })).updCur (fun st => st.advance i)
      = s.passed i := by simp [State.passed, State.updCur]
  have hon : (s.passed i).core.handlerOn = s.core.handlerOn := Core.updStr_handlerOn ..
  have hmode : (s.updCur (fun st => { st with fence := st.fence.filter (fun f => !s.fenceOpen .user f) })).cur.mode = s.cur.mode := by simp
  have hsel : (s.updCur (fun st => { st with fence := st.fence.filter (fun f => !s.fenceOpen .user f) })).core.sel = s.core.sel := by simp
  have hbegins : (if s.cur.mode = .sup then (s.passed i).beginHandler else s.passed i)
      = if Spec.handlerStarts s then (s.passed i).beginHandler else s.passed i := by
    cases hm : s.cur.mode <;> cases ho : s.core.handlerOn <;> simp [Spec.handlerStarts, hm, ho, State.beginHandler, hon]
  simp only [State.issued, State.advance, hpassed, hmode, hsel, hbegins]
  cases s.core.sel <;> rfl

/-- Where a handler begins, the other stream has its resume address, the name that goes with it, and its issue point. -/
theorem State.beginHandler_str_other {s : State} (h : s.core.handlerOn = false) :
    s.beginHandler.core.str s.core.sel.other = { s.core.str s.core.sel.other with
      resume := ((s.standAt s.core s.core.sel.other).1, (s.core.str s.core.sel.other).pc), named := (s.standAt s.core s.core.sel.other).2 } := by
  simp only [State.beginHandler, h, Bool.false_eq_true, if_false]
  exact Core.str_updStr s.core s.core.sel.other _

theorem State.issued_cur_pc (s : State) (i : Instr) : (s.issued i).cur.pc = s.cur.pc + Instr.step i := by rw [State.issued_cur]; rfl

/-- An encoding of 32 bits is four bytes long (R82). -/
theorem Instr.step_of_word {i : Instr} (h : i.bits = 32) : Instr.step i = 4 := by rw [Instr.step, h]; rfl

theorem State.issued_cur_g (s : State) (i : Instr) : (s.issued i).cur.g = s.cur.g := by rw [State.issued_cur]; rfl

section
variable {s : State} (i : Instr)

/-- Past any instruction but a handler's first the other stream is as it was. -/
theorem State.issued_other_of_not_starts (h : Spec.handlerStarts s = false) :
    (s.issued i).core.str s.core.sel.other = s.core.str s.core.sel.other ∧ (s.issued i).core.sys.trapSave = s.core.sys.trapSave := by
  rw [State.issued_eq_passed, h]
  refine ⟨s.passed_str_other i, (SysRegs.countIssue_trapSave ..).trans ?_⟩
  exact congrArg SysRegs.trapSave (Core.updStr_sys ..)

/-- Past a handler's first instruction it is as the handler found it. -/
theorem State.issued_other_of_starts (h : Spec.handlerStarts s = true) :
    (s.issued i).core.str s.core.sel.other = { s.core.str s.core.sel.other with
        resume := (((s.passed i).standAt (s.passed i).core s.core.sel.other).1, (s.core.str s.core.sel.other).pc)
        named := ((s.passed i).standAt (s.passed i).core s.core.sel.other).2 }
    ∧ (s.issued i).core.sys.trapSave = ((s.passed i).standAt (s.passed i).core s.core.sel.other).1 := by
  have hon : (s.passed i).core.handlerOn = false := by
    simp only [Spec.handlerStarts, Bool.and_eq_true, Bool.not_eq_true'] at h
    exact (Core.updStr_handlerOn ..).trans h.2
  have hsel : (s.passed i).core.sel = s.core.sel := Core.updStr_sel ..
  have hother := State.beginHandler_str_other hon
  rw [hsel, s.passed_str_other i] at hother
  rw [State.issued_eq_passed, h]
  refine ⟨hother, (SysRegs.countIssue_trapSave ..).trans ?_⟩
  simp [hon, hsel]

/-- TRAP.SAVE and the kept resume address of the other stream are those of the rule, where no access is parked when a handler starts (R310). -/
theorem State.issued_resume (h : Spec.handlerStarts s = true → Spec.noneParked s) :
    ((s.issued i).core.str s.core.sel.other).resume = Spec.otherResume s ∧ (s.issued i).core.sys.trapSave = Spec.trapSave s := by
  cases hstarts : Spec.handlerStarts s with
  | false =>
    obtain ⟨hother, hsave⟩ := State.issued_other_of_not_starts i hstarts
    simp [hother, hsave, Spec.otherResume, Spec.trapSave, hstarts]
  | true =>
    obtain ⟨hother, hsave⟩ := State.issued_other_of_starts i hstarts
    have hstand := State.standAt_of_noneParked (State.passed_noneParked i (h hstarts)) s.core.sel.other
    rw [s.passed_str_other i] at hstand
    simp [hother, hsave, Spec.otherResume, Spec.trapSave, hstarts, hstand]

/-- Of the other stream nothing changes but where it is to resume. -/
theorem State.issued_other_but_resume :
    (s.issued i).core.str s.core.sel.other = { s.core.str s.core.sel.other with
      resume := ((s.issued i).core.str s.core.sel.other).resume, named := ((s.issued i).core.str s.core.sel.other).named } := by
  cases hstarts : Spec.handlerStarts s with
  | false => rw [(State.issued_other_of_not_starts i hstarts).1]
  | true => rw [(State.issued_other_of_starts i hstarts).1]

theorem saveAt_eq (s : State) : saveAt s i = { s.core.sys with trapSave := (saveAt s i).trapSave } := by
  unfold saveAt
  dsimp only
  split <;> rfl

/-- The issuing stream's counter counts the instruction (R326). -/
theorem State.issued_counts :
    (s.core.sel = .a → (s.issued i).core.sys
      = { s.core.sys with cntIssA := s.core.sys.cntIssA + 1, trapSave := (s.issued i).core.sys.trapSave })
    ∧ (s.core.sel = .c → (s.issued i).core.sys
      = { s.core.sys with cntIssC := s.core.sys.cntIssC + 1, trapSave := (s.issued i).core.sys.trapSave }) := by
  have hsave := saveAt_eq i (s.updCur (fun st => { st with fence := st.fence.filter (fun f => !s.fenceOpen .user f) }))
  rw [State.updCur_core, Core.updStr_sys] at hsave
  constructor
  all_goals
    intro hsel
    rw [State.issued_core_sys, hsel]
    dsimp only
    rw [hsave]

end

end Sys2Proof.Machine

namespace Sys2Proof.Proofs

open Sys2Proof.Machine

/-- Settles O1: the issuing stream advances, its counter counts, and a handler's first instruction notes where the other stream stands. -/
theorem instructionAdvancesStream : Obligations.InstructionAdvancesStream := by
  unfold Obligations.InstructionAdvancesStream
  intro i s
  obtain ⟨hcountA, hcountC⟩ := State.issued_counts (s := s) i
  exact ⟨s.issued_cur_pc i, s.issued_cur_g i, fun h => (State.issued_other_of_not_starts i h).1, State.issued_other_but_resume i,
    State.issued_resume i, hcountA, hcountC, by simp⟩

end Sys2Proof.Proofs
end

section
/-! The short integer and immediate instructions (spec/07_scalar_instructions.md R125, R126, R129 to R131). -/

namespace Sys2Proof.Machine

open Sys2Proof.Safety

/-! ### Values as the rules count them -/

theorem w64_toInt_add (x y : Word) : w64 (x.toInt + y.toInt) = x + y := by rw [w64, BitVec.ofInt_add, BitVec.ofInt_toInt, BitVec.ofInt_toInt]

theorem w64_toInt_sub (x y : Word) : w64 (x.toInt - y.toInt) = x - y := by
  rw [w64, Int.sub_eq_add_neg, BitVec.ofInt_add, BitVec.ofInt_neg, BitVec.ofInt_toInt, BitVec.ofInt_toInt, BitVec.sub_eq_add_neg]

theorem w64_natCast (n : Nat) : w64 n = BitVec.ofNat 64 n := BitVec.ofInt_natCast ..

/-- An immediate is added as the integer that it holds (R129, R132). -/
theorem w64_add_toInt {n : Nat} (x : Word) (imm : BitVec n) : w64 (x.toInt + imm.toInt) = x + imm.signExtend 64 := by
  rw [w64, BitVec.ofInt_add, BitVec.ofInt_toInt]
  rfl

theorem boolWord_decide (p : Prop) [Decidable p] : boolWord (decide p) = if p then 1 else 0 := by
  by_cases hp : p <;> simp [boolWord, hp]

/-- A count of six bits is its own remainder by 64. -/
theorem count_mod (c : BitVec 6) : c.toNat % 64 = c.toNat := Nat.mod_eq_of_lt c.isLt

/-- Zeros from the top: the first position, counted from the top, of a one bit. -/
theorem find?_testBit_top (x n : Nat) : ((List.range n).find? (fun k => x.testBit (n - 1 - k))).getD n = leadingZeros x n := by
  induction n with
  | zero => rfl
  | succ n ih =>
    have hshift : (fun k => x.testBit (n + 1 - 1 - k)) ∘ Nat.succ = fun k => x.testBit (n - 1 - k) := by
      funext k
      simp only [Function.comp, Nat.add_sub_cancel, Nat.sub_sub, Nat.succ_eq_add_one, Nat.add_comm]
    rw [List.range_succ_eq_map, List.find?_cons, leadingZeros, List.find?_map, hshift, ← ih]
    cases htop : x.testBit n
    · cases (List.range n).find? (fun k => x.testBit (n - 1 - k)) <;> simp [htop, Nat.add_comm]
    · simp [htop]

/-- Zeros from the bottom: the first position of a one bit. -/
theorem find?_testBit (x n : Nat) : ((List.range n).find? (fun k => x.testBit k)).getD n = trailingZeros x n := by
  induction n generalizing x with
  | zero => rfl
  | succ n ih =>
    have hshift : (fun k => x.testBit k) ∘ Nat.succ = fun k => (x / 2).testBit k := by
      funext k
      simp [Nat.testBit_succ]
    rw [List.range_succ_eq_map, List.find?_cons, trailingZeros, List.find?_map, hshift, ← ih, Nat.testBit_zero]
    by_cases hodd : x % 2 = 1
    · simp [hodd]
    · cases (List.range n).find? (fun k => (x / 2).testBit k) <;> simp [hodd, Nat.add_comm]

/-- One bits are the positions that hold one. -/
theorem length_filter_testBit (x n : Nat) : ((List.range n).filter (fun k => x.testBit k)).length = onesBelow x n := by
  induction n with
  | zero => rfl
  | succ n ih =>
    rw [List.range_succ, List.filter_append, List.length_append, ih, onesBelow, Nat.add_comm]
    cases hbit : x.testBit n <;> simp [hbit]

/-- The constant of format U is its field times 4,096 (R131). -/
theorem upperImm_eq (imm : BitVec 20) : upperImm imm = w64 (imm.toInt * 4096) := by
  have hlt := imm.isLt
  have hnat : ((imm.zeroExtend 32) <<< 12).toNat = imm.toNat * 4096 := by
    simp only [BitVec.toNat_shiftLeft, BitVec.truncate_eq_setWidth, BitVec.toNat_setWidth, Nat.shiftLeft_eq]
    omega
  have hint : ((imm.zeroExtend 32) <<< 12).toInt = imm.toInt * 4096 := by
    rw [BitVec.toInt_eq_toNat_cond, BitVec.toInt_eq_toNat_cond, hnat]
    split <;> split <;> omega
  rw [upperImm, BitVec.signExtend, hint]

/-! ### A short instruction that nothing holds back -/

/-- It writes its value, computed from the registers that it finds. -/
theorem shortG_ready {i : Instr} {d : BitVec 5} {reads : List (BitVec 5)} {f : State → Word} {s : State} {v : Word} (h : Ready s)
    (hw : i.wellFormed = true) (hv : f (s.issued i) = v) : shortG i d reads f s = .next ((s.issued i).setG d v) := by
  subst hv
  exact issue_done _ s _ _ h hw rfl rfl (by simp) rfl

/-- Each of the short integer and immediate instructions is such an instruction, and its value is the one of its rule. -/
theorem exec_scalar {i : Instr} {s : State} {d : BitVec 5} {v : Word} (hi : Spec.scalarResult s i = some (d, v)) :
    ∃ reads f, exec i s = shortG i d reads f s ∧ i.wellFormed = true ∧ f (s.issued i) = v := by
  cases i
  all_goals cases hi
  all_goals
    dsimp only [exec, execAdd, execSub, execAnd, execOr, execXor, execShl, execShr, execSar, execSlt, execSltu, execMin, execMax, execClz, execCtz,
      execPopc, execAddi, execAndi, execOri, execXori, execShli, execShri, execSari, execSlti, execSltiu, execLui, execAdpc]
    refine ⟨_, _, rfl, rfl, ?_⟩
  case lui => exact upperImm_eq _
  case adpc => rw [upperImm_eq, w64, w64, BitVec.ofInt_add, BitVec.ofInt_natCast, BitVec.ofNat_toNat, BitVec.setWidth_eq]
  all_goals simp only [State.issued_g]
  case add => exact (w64_toInt_add _ _).symm
  case sub => exact (w64_toInt_sub _ _).symm
  case shl | shr => exact (w64_natCast _).symm
  case slt | sltu | slti | sltiu => exact boolWord_decide _
  case clz => exact congrArg (BitVec.ofNat 64) (find?_testBit_top _ 64).symm
  case ctz => exact congrArg (BitVec.ofNat 64) (find?_testBit _ 64).symm
  case popc => exact congrArg (BitVec.ofNat 64) (length_filter_testBit _ 64).symm
  case addi => exact (w64_add_toInt _ _).symm
  case shli => rw [shiftLeft, count_mod, w64_natCast]
  case shri => rw [shiftRight, count_mod, w64_natCast]
  case sari => rw [shiftArith, count_mod]
  case sar | andi | ori | xori => rfl

end Sys2Proof.Machine

namespace Sys2Proof.Proofs

open Sys2Proof.Machine Sys2Proof.Safety

/-- Settles O2: each is a short instruction, whose value is the one of its rule. -/
theorem scalarResultsComplete : Obligations.ScalarResultsComplete := by
  unfold Obligations.ScalarResultsComplete
  intro i s d v h hi
  obtain ⟨reads, f, hexec, hw, hv⟩ := exec_scalar hi
  exact hexec.trans (shortG_ready h hw hv)

end Sys2Proof.Proofs
end

section
/-! Traps at issue, and results that a later LONG_OP_COMPLETE delivers to a g register, in either stream (spec/05_fetch_and_issue.md R85, R87, R92,
spec/20_interruption.md R309). -/

namespace Sys2Proof.Machine

open Sys2Proof.Safety

/-! ### What an unprivileged instruction that nothing holds back does (R123, R309) -/

/-- It completes where its meaning does. -/
theorem issue_completes {fm : Form} {s t : State} {k : State → Res} (h : Ready s) (hw : fm.instr.wellFormed = true)
    (hs : fm.streams.admits s.core.sel = true) (hi : fm.illegal = false) (hp : fm.priv = false) (hk : k (s.issued fm.instr) = .done t) :
    issue fm s k = .next t := issue_done fm s t k h hw hs hi (by simp [hp]) hk

/-- It waits where its meaning does. -/
theorem issue_waits {fm : Form} {s : State} {k : State → Res} {w : Wait} (h : Ready s) (hw : fm.instr.wellFormed = true)
    (hs : fm.streams.admits s.core.sel = true) (hi : fm.illegal = false) (hp : fm.priv = false) (hk : k (s.issued fm.instr) = .wait w) :
    issue fm s k = .next (s.waitAt w) := by
  rw [issue_ready fm s k h hw hs hi (by simp [hp]), hk]

/-- Where its meaning traps, it takes the trap at its own address. -/
theorem issue_traps {fm : Form} {s : State} {k : State → Res} {c : Nat} {v : Word} (h : Ready s) (hmode : s.cur.mode = .user)
    (hw : fm.instr.wellFormed = true) (hs : fm.streams.admits s.core.sel = true) (hi : fm.illegal = false) (hp : fm.priv = false) (hc : c ≠ 0x12)
    (hk : k (s.issued fm.instr) = .trap c v) : ∃ t, issue fm s k = .next t ∧ Spec.Trapped s t c v := by
  refine ⟨s.trapAt c v, ?_, State.trapAt_trapped v (ready_quiet h) hmode hc⟩
  rw [issue_ready fm s k h hw hs hi (by simp [hp]), hk]

/-! ### The issuing stream goes on -/

/-- In `t` the issuing stream has nothing incomplete, and goes on as in `s`. -/
structure Continues (s t : State) : Prop where
  flight : t.cur.flight = []
  exited : t.cur.exited = false
  mode : t.cur.mode = s.cur.mode
  handler : t.core.handler = s.core.handler
  task : t.core.task = s.core.task
  clean : t.dev.poison = []

section
variable {s : State}

theorem ready_not_exited (h : Ready s) : s.cur.exited = false := by
  have hact := ready_canAct h
  simp only [State.canAct, Bool.and_eq_true, Bool.not_eq_true'] at hact
  obtain ⟨⟨⟨⟨-, hexited⟩, -⟩, -⟩, -⟩ := hact
  exact hexited

/-- In user mode no handler runs. -/
theorem ready_handler (h : Ready s) (hmode : s.cur.mode = .user) : s.core.handler = none := by
  have hact := ready_canAct h
  simp only [State.canAct, Bool.and_eq_true] at hact
  obtain ⟨⟨-, hhandler⟩, -⟩ := hact
  cases hh : s.core.handler with
  | none => rfl
  | some x => simp [hh, hmode] at hhandler

/-- In user mode no trap of cause 0x16 is due: it would come first (R55). -/
theorem ready_movedDue (h : Ready s) (hmode : s.cur.mode = .user) {t : Task} (htask : s.core.task = some t) : t.movedDue = none := by
  have hact := ready_canAct h
  simp only [State.canAct, Bool.and_eq_true] at hact
  obtain ⟨-, hmoved⟩ := hact
  cases hold : t.movedDue with
  | none => rfl
  | some old =>
    have hfront : (s.core.sel == .a || s.core.a.exited) = true := by simpa [htask, hold] using hmoved
    have hdue := ready_dueTrap h
    simp [State.dueTrap, hmode, htask, hold, hfront] at hdue

theorem Continues.issued (h : Ready s) (i : Instr) : Continues s (s.issued i) := by
  have hexited := ready_not_exited h
  obtain ⟨-, -, -, hflight, -, hclean⟩ := h
  constructor
  case flight => rw [State.issued_cur]; exact hflight
  case exited => rw [State.issued_cur]; exact hexited
  case mode => rw [State.issued_cur]; rfl
  case handler => exact State.issued_core_handler ..
  case task => exact State.issued_core_task ..
  case clean => rw [State.issued_dev]; exact hclean

/-- What is issued there does not stand still for a handler or for a trap of cause 0x16 (R55, R89). -/
theorem Continues.freezes {t : State} (h : Ready s) (ht : Continues s t) {op : LongOp} (hmode : op.mode = s.cur.mode)
    (hstops : op.work.stopsBetween = false) : t.core.freezes op = false := by
  cases hm : s.cur.mode with
  | sup => simp [Core.freezes, hmode, hm, hstops]
  | user =>
    have hmoving : t.core.moving = false := by
      rw [Core.moving, ht.handler, ht.task, ready_handler h hm]
      cases htask : s.core.task with
      | none => rfl
      | some x => simp [ready_movedDue h hm htask]
    simp [Core.freezes, ht.handler, ready_handler h hm, hmoving, hstops]

end

/-! ### An instruction alone in the issuing stream -/

/-- The one incomplete instruction of the issuing stream is running, and nothing makes it stand still. -/
structure Alone (t : State) (op : LongOp) : Prop where
  flight : t.cur.flight = [op]
  exited : t.cur.exited = false
  clean : t.dev.poison = []
  status : op.status = .running
  thawed : t.core.freezes op = false

/-- The registers, the place and the mode of the issuing stream are those that it was launched with. -/
theorem State.launchOp_cur (s : State) (i : Instr) (pc : Word) (la : Nat) (dests : List Reg) (work : Work) :
    ∃ op wins, (s.launchOp i pc la dests work).cur = { s.cur with flight := s.cur.flight ++ [op], wins := wins }
      ∧ op.work = work ∧ op.dests = dests ∧ op.status = .running ∧ op.mode = s.cur.mode := by
  refine ⟨?op, ?wins, ?cur, ?facts⟩
  case cur => exact State.updCur_cur s _
  case facts => exact ⟨rfl, rfl, rfl, rfl⟩

theorem State.launchOp_g (s : State) (i : Instr) (pc : Word) (la : Nat) (dests : List Reg) (work : Work) :
    (s.launchOp i pc la dests work).cur.g = s.cur.g := by
  obtain ⟨op, wins, hcur, -⟩ := s.launchOp_cur i pc la dests work
  rw [hcur]

theorem State.launchOp_pid (s : State) (i : Instr) (pc : Word) (la : Nat) (dests : List Reg) (work : Work) :
    (s.launchOp i pc la dests work).core.pid = s.core.pid := Core.updStr_pid ..

theorem State.launchOp_sel (s : State) (i : Instr) (pc : Word) (la : Nat) (dests : List Reg) (work : Work) :
    (s.launchOp i pc la dests work).core.sel = s.core.sel := Core.updStr_sel ..

theorem State.launchOp_queues (s : State) (i : Instr) (pc : Word) (la : Nat) (dests : List Reg) (work : Work) :
    (s.launchOp i pc la dests work).core.queues = s.core.queues := Core.updStr_queues ..

/-- An instruction launched where the stream goes on is alone in it. -/
theorem Continues.launch {s t : State} (h : Ready s) (ht : Continues s t) (i : Instr) (pc : Word) (la : Nat) (dests : List Reg) {work : Work}
    (hstops : work.stopsBetween = false) :
    ∃ op, Alone (t.launchOp i pc la dests work) op ∧ op.work = work ∧ op.dests = dests := by
  obtain ⟨op, wins, hcur, hwork, hdests, hstatus, hmode⟩ := t.launchOp_cur i pc la dests work
  have hfreezes : t.core.freezes op = false := ht.freezes h (hmode.trans ht.mode) (by rw [hwork, hstops])
  refine ⟨op, ⟨?_, ?_, ht.clean, hstatus, ?_⟩, hwork, hdests⟩
  · rw [hcur, ht.flight, List.nil_append]
  · rw [hcur]; exact ht.exited
  · unfold Core.freezes Core.moving at hfreezes ⊢
    rw [hwork, hstops] at hfreezes ⊢
    simpa [State.launchOp] using hfreezes

/-! ### LONG_OP_COMPLETE of a result for a g register (R85, R87, R92) -/

/-- The instruction's data is there, and all that is left is to write `v` to g register `n`. -/
def Work.GivesG (w : Work) (n : Nat) (v : Word) : Prop :=
  w = .deliver [.g n v] 0 Counts.zero 0 ∨ ∃ e, w = .qget n e ∧ e.filled = true ∧ e.bits.truncate 64 = v

/-- Delivering to a g register changes the register and the list of incomplete instructions of its stream. -/
theorem Core.deliverAll_g (k : Core) (x : StreamId) (op : LongOp) (n : Nat) (v : Word) :
    (k.deliverAll x op [.g n v] 0 Counts.zero 0).str x
        = { (k.str x).setG n v with flight := (k.str x).flight.filter (fun o => o.id != op.id) }
      ∧ (k.deliverAll x op [.g n v] 0 Counts.zero 0).pid = k.pid ∧ (k.deliverAll x op [.g n v] 0 Counts.zero 0).sel = k.sel := by
  simp [Core.deliverAll, Core.raisePivots, Core.deliver, Core.dropOp]

section
variable {t : State} {op : LongOp} {n : Nat} {v : Word}

/-- The one move that it makes. -/
theorem Alone.opMove (h : Alone t op) (hwork : op.work.GivesG n v) (x : StreamId) :
    t.opMove x op = .on (t.updThis (fun k => k.deliverAll x op [.g n v] 0 Counts.zero 0)) := by
  have hpoison : t.popPoisoned op = false := by simp [State.popPoisoned, h.clean]
  have hself : t.core.selfMoves op = true := by
    obtain hwork | ⟨e, hwork, hfilled, -⟩ := hwork
    · simp [Core.selfMoves, hwork, h.status, h.thawed, Work.popped]
    · simp [Core.selfMoves, hwork, h.status, h.thawed, Work.popped, hfilled]
  obtain hwork | ⟨e, hwork, -, rfl⟩ := hwork
  all_goals
    simp only [State.opMove, hself, hpoison, hwork, State.plainMove]
    rfl

/-- An incomplete instruction without a list, at the place named, makes its one move. -/
theorem exec_longOpComplete_on {u : State} {x : StreamId} (halone : (t.core.str x).flight = [op]) (hlist : t.takeList x op = (t, op))
    (hmove : t.opMove x op = .on u) (hexited : (u.core.str x).exited = false) (hpid : u.core.pid = t.core.pid) :
    exec (.longOpComplete t.core.pid x 0 1) t = .next u := by
  have hat : t.opAt x 0 = some op := by simp [State.opAt, halone]
  have hfind : (t.core.str x).flight.find? (fun o => o.id == op.id) = some op := by simp [halone]
  have hgoes : t.goOn x op.id 1 = u := by simp only [State.goOn, hfind, hlist, hmove]
  have hend : u.settleEnd = u := State.settleEnd_of_not_exited (by cases x <;> simp_all [Core.str])
  change execLongOpComplete t.core.pid x 0 1 t = _
  simp only [execLongOpComplete, State.onCore, State.select_self, hat, hgoes, hend]
  rw [← hpid, State.select_self]

/-- Its completion writes the register, whatever the registers hold by then. -/
theorem Alone.completes (h : Alone t op) (hwork : op.work.GivesG n v) :
    ∃ u, exec (.longOpComplete t.core.pid t.core.sel 0 1) t = .next u ∧ u.cur.flight = [] ∧ u.cur.g = (t.cur.setG n v).g := by
  obtain ⟨hstr, hpid, hsel⟩ := t.core.deliverAll_g t.core.sel op n v
  have hflight : (t.core.str t.core.sel).flight = [op] := h.flight
  have hexited : (t.core.str t.core.sel).exited = false := h.exited
  have hlist : t.takeList t.core.sel op = (t, op) := by
    obtain hwork | ⟨e, hwork, -⟩ := hwork
    all_goals exact State.takeList_plain t _ op (by simp [hwork]) (by simp [hwork])
  have hcur : (t.updThis (fun k => k.deliverAll t.core.sel op [.g n v] 0 Counts.zero 0)).cur
      = { t.cur.setG n v with flight := [] } := by
    rw [State.cur, State.updThis, hsel, hstr, hflight]
    simp [State.cur]
  refine ⟨_, exec_longOpComplete_on hflight hlist (h.opMove hwork t.core.sel) ?_ hpid, ?_, ?_⟩
  · rw [State.updThis, hstr]
    simpa using hexited
  · rw [hcur]
  · rw [hcur]

end

end Sys2Proof.Machine
end

section
/-! The long-latency integer instructions (spec/07_scalar_instructions.md R125 to R128). -/

namespace Sys2Proof.Machine

open Sys2Proof.Safety

/-! ### Values as the rules count them -/

theorem w64_toInt_mul (x y : Word) : w64 (x.toInt * y.toInt) = x * y := by rw [w64, BitVec.ofInt_mul, BitVec.ofInt_toInt, BitVec.ofInt_toInt]

/-- A dividend less the divisor's multiple below it is the remainder. -/
theorem w64_sub_mul_div (x y : Nat) : w64 ((x : Int) - y * ((x / y : Nat) : Int)) = BitVec.ofNat 64 (x % y) := by
  have hmod : (x : Int) - y * ((x / y : Nat) : Int) = ((x % y : Nat) : Int) := by
    rw [Int.natCast_mod, Int.natCast_div, Int.emod_def]
  rw [hmod, w64_natCast]

section
variable {s : State} {i : Instr} {d a b : BitVec 5} {la : BitVec 4} {f : Word → Word → Word}

/-- An instruction that computed its value at issue leaves the registers alone, and its completion writes the value. -/
theorem launchG_completes (h : Ready s) (i : Instr) (d : BitVec 5) (la : BitVec 4) (v : Word) {t : State}
    (ht : t = (s.issued i).launchG i s.cur.pc d la v) :
    t.cur.flight ≠ [] ∧ t.cur.g = s.cur.g
      ∧ ∃ u, exec (.longOpComplete s.core.pid s.core.sel 0 1) t = .next u ∧ u.cur.flight = [] ∧ u.cur.g = (t.cur.setG d.toNat v).g := by
  subst ht
  obtain ⟨op, halone, hwork, -⟩ := (Continues.issued h i).launch h i s.cur.pc la.toNat (gRegs d)
    (work := .deliver [.g d.toNat v] 0 Counts.zero 0) rfl
  refine ⟨?_, ?_, ?_⟩
  · exact fun hnil => List.cons_ne_nil op [] (halone.flight.symm.trans hnil)
  · exact (State.launchOp_g ..).trans (State.issued_cur_g s i)
  · have hcomplete := halone.completes (n := d.toNat) (v := v) (.inl hwork)
    rwa [State.launchOp_pid, State.launchOp_sel, State.issued_core_pid, State.issued_core_sel] at hcomplete

theorem longG_ready (h : Ready s) (hw : i.wellFormed = true) :
    longG i d a b la f s = .next ((s.issued i).launchG i s.cur.pc d la (f (s.g a) (s.g b))) :=
  issue_completes h hw rfl rfl rfl (by simp only [State.issued_g])

theorem longDiv_ready (h : Ready s) (hw : i.wellFormed = true) (hb : s.g b ≠ 0) :
    longDiv i d a b la f s = .next ((s.issued i).launchG i s.cur.pc d la (f (s.g a) (s.g b))) :=
  issue_completes h hw rfl rfl rfl (by simp only [State.issued_g, if_neg hb])

/-- A zero divisor traps, with the dividend as TRAP.VAL (R127). -/
theorem longDiv_zero (h : Ready s) (hmode : s.cur.mode = .user) (hw : i.wellFormed = true) (hb : s.g b = 0) :
    ∃ t, longDiv i d a b la f s = .next t ∧ Spec.Trapped s t 0x0F (s.g a) :=
  issue_traps h hmode hw rfl rfl rfl (by decide) (by simp only [State.issued_g, if_pos hb])

end

/-- The division functions differ in the value that they compute alone. -/
theorem exec_div {i : Instr} {s : State} {d : BitVec 5} {x y v : Word} (hi : Spec.divResult s i = some (d, x, y, v)) :
    ∃ a b la f, exec i s = longDiv i d a b la f s ∧ i.wellFormed = true ∧ x = s.g a ∧ y = s.g b ∧ v = f (s.g a) (s.g b) := by
  cases i
  all_goals cases hi
  all_goals dsimp only [exec, execDiv, execDivu, execRem, execRemu]
  case div | rem => exact ⟨_, _, _, _, rfl, rfl, rfl, rfl, rfl⟩
  case divu => exact ⟨_, _, _, _, rfl, rfl, rfl, rfl, w64_natCast _⟩
  case remu => exact ⟨_, _, _, _, rfl, rfl, rfl, rfl, w64_sub_mul_div _ _⟩

theorem exec_long {i : Instr} {s : State} {d : BitVec 5} {v : Word} (hi : Spec.longResult s i = some (d, v)) :
    ∃ a b la f, exec i s = longG i d a b la f s ∧ i.wellFormed = true ∧ v = f (s.g a) (s.g b) := by
  cases i
  all_goals cases hi
  all_goals dsimp only [exec, execMul, execMulh, execGcd]
  case mul => exact ⟨_, _, _, _, rfl, rfl, w64_toInt_mul _ _⟩
  case mulh | gcd => exact ⟨_, _, _, _, rfl, rfl, rfl⟩

end Sys2Proof.Machine

namespace Sys2Proof.Proofs

open Sys2Proof.Machine Sys2Proof.Safety

/-- Settles O3: the value is computed at issue and delivered by the completion of an instruction that stands alone in its stream; a zero divisor
traps at issue. -/
theorem longIntegersComplete : Obligations.LongIntegersComplete := by
  unfold Obligations.LongIntegersComplete
  refine ⟨fun i s d v h hi => ?long, fun i s d x y v h hi hy => ?div, fun i s d x y v h hmode hi hy => ?zero⟩
  case long =>
    obtain ⟨a, b, la, f, hexec, hw, rfl⟩ := exec_long hi
    obtain ⟨hflight, hg, u, hcomplete⟩ := launchG_completes h i d la (f (s.g a) (s.g b)) rfl
    exact ⟨_, u, hexec.trans (longG_ready h hw), hflight, hg, hcomplete⟩
  case div =>
    obtain ⟨a, b, la, f, hexec, hw, rfl, rfl, rfl⟩ := exec_div hi
    obtain ⟨hflight, hg, u, hcomplete⟩ := launchG_completes h i d la (f (s.g a) (s.g b)) rfl
    exact ⟨_, u, hexec.trans (longDiv_ready h hw hy), hflight, hg, hcomplete⟩
  case zero =>
    obtain ⟨a, b, la, f, hexec, hw, rfl, rfl, rfl⟩ := exec_div hi
    obtain ⟨t, ht, hcause, hval, hpc, -, hvec, hsup, hg, -⟩ := longDiv_zero h hmode hw hy
    exact ⟨t, hexec.trans ht, hcause, hval, hpc, hvec, hsup, hg⟩

end Sys2Proof.Proofs
end

section
/-! Branches, jumps and calls (spec/07_scalar_instructions.md R132 to R134). -/

namespace Sys2Proof.Machine

open Sys2Proof.Safety

/-- The model's test of a condition is the rule's; it holds for no reserved condition (R110). -/
theorem branchTaken_iff (c : BitVec 3) (x y : Word) : branchTaken c x y = true ↔ Spec.branchHolds c x y := by
  have hc : c = 0 ∨ c = 1 ∨ c = 2 ∨ c = 3 ∨ c = 4 ∨ c = 5 ∨ c = 6 ∨ c = 7 := by revert c; decide
  obtain rfl | rfl | rfl | rfl | rfl | rfl | rfl | rfl := hc
  all_goals simp [branchTaken, Spec.branchHolds]

/-- A relative target counts halfwords (R132). -/
theorem w64_target {n : Nat} (pc : Word) (off : BitVec n) : w64 (pc.toInt + 2 * off.toInt) = pc + 2 * off.signExtend 64 := by
  rw [w64, BitVec.ofInt_add, BitVec.ofInt_toInt, BitVec.ofInt_mul]
  rfl

theorem jumpTo_even {x : Word} (h : x.toNat % 2 = 0) (s : State) : jumpTo x s = .done (s.setPc x) := if_neg (by omega)

theorem jumpTo_odd {x : Word} (h : x.toNat % 2 = 1) (s : State) : jumpTo x s = .trap 0x05 x := if_pos h

section
variable {s : State} (h : Ready s)
include h

theorem exec_bcc (a b : BitVec 5) (off : BitVec 12) {c : BitVec 3} (hc : c.toNat < 6) :
    exec (.bcc a b off c) s = .next (if branchTaken c (s.g a) (s.g b) then (s.issued (.bcc a b off c)).setPc (s.cur.pc + 2 * off.signExtend 64)
      else s.issued (.bcc a b off c)) := by
  have hw : (Instr.bcc a b off c).wellFormed = true := by simp [Instr.wellFormed, Instr.illFormed, WF.firstOf, Nat.not_le.mpr hc]
  change execBcc a b off c s = _
  exact issue_completes h hw rfl rfl rfl (by simp only [State.issued_g])

theorem exec_br (off : BitVec 25) : exec (.br off) s = .next ((s.issued (.br off)).setPc (s.cur.pc + 2 * off.signExtend 64)) := by
  change execBr off s = _
  exact issue_completes h rfl rfl rfl rfl rfl

theorem exec_call (off : BitVec 25) :
    exec (.call off) s = .next (((s.issued (.call off)).setG 31 (s.cur.pc + 4)).setPc (s.cur.pc + 2 * off.signExtend 64)) := by
  change execCall off s = _
  exact issue_completes h rfl rfl rfl rfl rfl

/-- To an even target the three jumps go, callr with its link written. -/
theorem exec_jump_even :
    (∀ a, (s.g a).toNat % 2 = 0 → exec (.jr a) s = .next ((s.issued (.jr a)).setPc (s.g a)))
    ∧ (∀ a, (s.g a).toNat % 2 = 0 → exec (.callr a) s = .next (((s.issued (.callr a)).setG 31 (s.cur.pc + 4)).setPc (s.g a)))
    ∧ ((s.g 31).toNat % 2 = 0 → exec .ret s = .next ((s.issued .ret).setPc (s.g 31))) := by
  refine ⟨fun a heven => ?jr, fun a heven => ?callr, fun heven => ?ret⟩
  case jr =>
    change execJr a s = _
    exact issue_completes h rfl rfl rfl rfl (by simp only [State.issued_g, jumpTo_even heven])
  case callr =>
    change execCallr a s = _
    exact issue_completes h rfl rfl rfl rfl (by simp only [State.issued_g, jumpTo_even heven, linkReg])
  case ret =>
    change execRet s = _
    exact issue_completes h rfl rfl rfl rfl (by simp only [State.issued_g, linkReg, jumpTo_even heven])

/-- At an odd target each of them traps. -/
theorem exec_jump_odd (hmode : s.cur.mode = .user) {i : Instr} {x : Word}
    (hi : (∃ a, (i = .jr a ∨ i = .callr a) ∧ x = s.g a) ∨ (i = .ret ∧ x = s.g 31)) (hodd : x.toNat % 2 = 1) :
    ∃ t, exec i s = .next t ∧ Spec.Trapped s t 0x05 x := by
  obtain ⟨a, rfl | rfl, rfl⟩ | ⟨rfl, rfl⟩ := hi
  · change ∃ t, execJr a s = .next t ∧ _
    exact issue_traps h hmode rfl rfl rfl rfl (by decide) (by simp only [State.issued_g, jumpTo_odd hodd])
  · change ∃ t, execCallr a s = .next t ∧ _
    exact issue_traps h hmode rfl rfl rfl rfl (by decide) (by simp only [State.issued_g, jumpTo_odd hodd])
  · change ∃ t, execRet s = .next t ∧ _
    exact issue_traps h hmode rfl rfl rfl rfl (by decide) (by simp only [State.issued_g, linkReg, jumpTo_odd hodd])

end

end Sys2Proof.Machine

namespace Sys2Proof.Proofs

open Sys2Proof.Machine Sys2Proof.Safety

/-- Settles O4: what each control instruction leaves, with the conditions and targets as the rules count them. -/
theorem branchesAndJumpsComplete : Obligations.BranchesAndJumpsComplete := by
  unfold Obligations.BranchesAndJumpsComplete
  refine ⟨fun s h => ⟨fun a b off c hc => ⟨fun hholds => ?taken, fun hfails => ?passed⟩, fun off => ?br, fun off => ?call⟩, fun s h => ?jumps⟩
  case taken => rw [exec_bcc h a b off hc, if_pos ((branchTaken_iff c _ _).mpr hholds), w64_target]
  case passed =>
    refine ⟨_, ?_, rfl, ?_⟩
    · rw [exec_bcc h a b off hc, if_neg (mt (branchTaken_iff c _ _).mp hfails)]
    · rw [State.issued_cur_pc, Instr.step_of_word rfl]
  case br => rw [exec_br h, w64_target]
  case call => rw [exec_call h, w64_target]
  case jumps =>
    obtain ⟨hjr, hcallr, hret⟩ := exec_jump_even h
    refine ⟨hjr, hcallr, hret, fun hmode i x hi hodd => ?_⟩
    obtain ⟨t, ht, hcause, hval, hpc, -, -, -, hg, -⟩ := exec_jump_odd h hmode hi hodd
    exact ⟨t, ht, hcause, hval, hpc, hg⟩

end Sys2Proof.Proofs
end

section
/-! A scalar through a queue (spec/07_scalar_instructions.md R136, R137, spec/05_fetch_and_issue.md R92). -/

namespace Sys2Proof.Machine

open Sys2Proof.Safety

/-! ### Queues past an instruction, a push and a pop -/

theorem State.issued_getQueue (s : State) (i : Instr) (q : Nat) : (s.issued i).core.getQueue q = s.core.getQueue q := by
  rw [Core.getQueue, Core.getQueue, State.issued_core_queues]

theorem Core.getQueue_setQueue (k : Core) {q : Nat} (hq : q < 8) (es : List QEntry) : (k.setQueue q es).getQueue q = es := by
  simp [Core.getQueue, hq]

theorem State.pushQ_getQueue (s : State) {q : Nat} (hq : q < 8) (filled : Bool) (bits : BitVec 512) (fmt : BitVec 16) :
    (s.pushQ q filled bits fmt).core.getQueue q = s.core.getQueue q ++ [⟨s.core.nextId, filled, bits, fmt⟩] :=
  s.core.getQueue_setQueue hq _

theorem State.popQ_nil {s : State} {q : Nat} (h : s.core.getQueue q = []) : s.popQ q = none := by rw [State.popQ, h]

/-- A pop takes the oldest entry, and changes its queue and the stream's record. -/
theorem State.popQ_cons {s : State} {q : Nat} {e : QEntry} {rest : List QEntry} (hq : q < 8) (h : s.core.getQueue q = e :: rest) :
    ∃ t, s.popQ q = some (t, e) ∧ OnlyQueues s t ∧ t.core.getQueue q = rest := by
  refine ⟨_, by rw [State.popQ, h], onlyQueues_pop s q e rest, ?_⟩
  rw [Core.getQueue, Core.saw, Core.updStr_queues]
  exact s.core.getQueue_setQueue hq rest

/-- What the stream does goes on behind a pop as before it. -/
theorem Continues.onlyQueues {s t u : State} (ht : Continues s t) (h : OnlyQueues t u) : Continues s u := by
  obtain ⟨seen, hcur⟩ := h.cur
  exact ⟨by rw [hcur]; exact ht.flight, by rw [hcur]; exact ht.exited, by rw [hcur]; exact ht.mode, h.core_handler.trans ht.handler,
    h.core_task.trans ht.task, by rw [h.dev]; exact ht.clean⟩

theorem OnlyQueues.cur_g {s t : State} (h : OnlyQueues s t) : t.cur.g = s.cur.g := by
  obtain ⟨seen, hcur⟩ := h.cur
  rw [hcur]

/-- A g register file takes a write whatever else its stream holds. -/
theorem Stream.setG_g_congr {x y : Stream} (h : x.g = y.g) (n : Nat) (v : Word) : (x.setG n v).g = (y.setG n v).g := by
  unfold Stream.setG
  split
  · exact h
  · rw [h]

/-! ### The data of a popped entry arrives (R92) -/

/-- The qget that popped the entry has its data, and is alone in its stream as before. -/
theorem Alone.fillEntry {t : State} {op : LongOp} (h : Alone t op) {n : Nat} {e : QEntry} (hwork : op.work = .qget n e) (bits : BitVec 512) :
    ∃ op', Alone { t with core := t.core.fillEntry e.id bits } op' ∧ op'.work = .qget n { e with filled := true, bits := bits } := by
  have hfilled : op.work.mapEntries (QEntry.filledBy e.id bits) = .qget n { e with filled := true, bits := bits } := by
    rw [hwork, Work.mapEntries, QEntry.filledBy, if_pos rfl]
  have hstr : ∀ x, (t.core.fillEntry e.id bits).str x = { t.core.str x with
      flight := (t.core.str x).flight.map (fun op => { op with work := op.work.mapEntries (QEntry.filledBy e.id bits) })
      taken := ((t.core.fillEntry e.id bits).str x).taken } := by intro x; cases x <;> rfl
  have hflight : (t.core.str t.core.sel).flight = [op] := h.flight
  have hfreezes := h.thawed
  refine ⟨{ op with work := op.work.mapEntries (QEntry.filledBy e.id bits) }, ⟨?_, ?_, h.clean, h.status, ?_⟩, hfilled⟩
  · exact (congrArg Stream.flight (hstr t.core.sel)).trans (by rw [hflight]; rfl)
  · exact (congrArg Stream.exited (hstr t.core.sel)).trans h.exited
  · unfold Core.freezes at hfreezes ⊢
    rw [hfilled]
    rw [hwork] at hfreezes
    exact hfreezes

theorem Core.fillEntry_cur_g (t : State) (id : Nat) (bits : BitVec 512) : ({ t with core := t.core.fillEntry id bits } : State).cur.g = t.cur.g := by
  unfold State.cur
  cases hx : t.core.sel <;> simp [Core.fillEntry, Core.str, hx]

/-! ### qput and qget -/

section
variable {s : State} {q : BitVec 5}

theorem qput_wellFormed (hq : q.toNat ≤ 3) (a : BitVec 5) : (Instr.qput q a).wellFormed = true := by
  simp [Instr.wellFormed, Instr.illFormed, WF.firstOf, Nat.not_lt.mpr hq]

theorem qget_wellFormed (hlow : 4 ≤ q.toNat) (hhigh : q.toNat ≤ 7) (d : BitVec 5) : (Instr.qget q d).wellFormed = true := by
  simp [Instr.wellFormed, Instr.illFormed, WF.firstOf, hlow, hhigh]

theorem readyA_admits (h : ReadyA s) : Streams.admits .aOnly s.core.sel = true := by rw [h.1]; rfl

/-- Outside an update task q3 is as legal as the others (R76). -/
theorem qput_legal (hq3 : s.isUpdate = true → q.toNat ≠ 3) : (s.isUpdate && q == 3) = false := by
  cases hup : s.isUpdate with
  | false => rfl
  | true => simpa [BitVec.toNat_inj] using mt (congrArg BitVec.toNat) (hq3 hup)

/-- A queue holds sixteen entries (R90). -/
theorem State.hasRoom_eq (s : State) (n : Nat) : s.hasRoom n = decide ((s.core.getQueue n).length < 16) := rfl

theorem exec_qput_room (h : ReadyA s) (hq : q.toNat ≤ 3) (hq3 : s.isUpdate = true → q.toNat ≠ 3) (hroom : (s.core.getQueue q.toNat).length < 16)
    (a : BitVec 5) : exec (.qput q a) s = .next ((s.issued (.qput q a)).pushQ q.toNat true ((s.g a).zeroExtend 512) 0) := by
  change execQput q a s = _
  refine issue_completes h.2 (qput_wellFormed hq a) (readyA_admits h) (qput_legal hq3) rfl ?_
  simp only [State.hasRoom_eq, hroom, decide_true, if_true, State.issued_g]

theorem exec_qput_full (h : ReadyA s) (hq : q.toNat ≤ 3) (hq3 : s.isUpdate = true → q.toNat ≠ 3) (hfull : 16 ≤ (s.core.getQueue q.toNat).length)
    (a : BitVec 5) : exec (.qput q a) s = .next (s.waitAt (.push q.toNat)) := by
  change execQput q a s = _
  refine issue_waits h.2 (qput_wellFormed hq a) (readyA_admits h) (qput_legal hq3) rfl ?_
  simp only [State.hasRoom_eq, Nat.not_lt.mpr hfull, decide_false, Bool.false_eq_true, if_false]

theorem exec_qget_empty (h : ReadyA s) (hlow : 4 ≤ q.toNat) (hhigh : q.toNat ≤ 7) (hempty : s.core.getQueue q.toNat = []) (d : BitVec 5) :
    exec (.qget q d) s = .next (s.waitAt (.pop q.toNat 1)) := by
  change execQget q d s = _
  refine issue_waits h.2 (qget_wellFormed hlow hhigh d) (readyA_admits h) rfl rfl ?_
  simp only [State.popQ_nil ((s.issued_getQueue (.qget q d) q.toNat).trans hempty)]

/-- It pops the oldest entry: one that is filled is written at once, any other is waited for. -/
theorem exec_qget_pops (h : ReadyA s) (hlow : 4 ≤ q.toNat) (hhigh : q.toNat ≤ 7) {e : QEntry} {rest : List QEntry}
    (hentries : s.core.getQueue q.toNat = e :: rest) (d : BitVec 5) :
    ∃ p, OnlyQueues (s.issued (.qget q d)) p ∧ p.core.getQueue q.toNat = rest
      ∧ exec (.qget q d) s = .next (if e.filled then p.setG d (e.bits.truncate 64)
        else p.launchOp (.qget q d) s.cur.pc 0 (gRegs d) (.qget d.toNat e)) := by
  obtain ⟨p, hpop, honly, hrest⟩ := State.popQ_cons (by omega) ((s.issued_getQueue (.qget q d) q.toNat).trans hentries)
  refine ⟨p, honly, hrest, ?_⟩
  change execQget q d s = _
  refine issue_completes h.2 (qget_wellFormed hlow hhigh d) (readyA_admits h) rfl rfl ?_
  simp only [hpop]
  cases e.filled <;> rfl

/-- The qget that waits for its entry's data stands alone in its stream (R92). -/
theorem qget_alone (h : ReadyA s) {d : BitVec 5} {p t : State} (honly : OnlyQueues (s.issued (.qget q d)) p) {e : QEntry}
    (ht : t = p.launchOp (.qget q d) s.cur.pc 0 (gRegs d) (.qget d.toNat e)) :
    (∃ op, Alone t op ∧ op.work = .qget d.toNat e ∧ op.dests = gRegs d)
      ∧ t.cur.g = s.cur.g ∧ t.core.pid = s.core.pid ∧ t.core.sel = .a ∧ t.core.queues = p.core.queues := by
  subst ht
  refine ⟨((Continues.issued h.2 (.qget q d)).onlyQueues honly).launch h.2 (.qget q d) s.cur.pc 0 (gRegs d) rfl, ?_, ?_, ?_, ?_⟩
  · rw [State.launchOp_g, honly.cur_g, State.issued_cur_g]
  · rw [State.launchOp_pid, honly.core_pid, State.issued_core_pid]
  · rw [State.launchOp_sel, honly.core_sel, State.issued_core_sel, h.1]
  · exact State.launchOp_queues ..

/-- g0 is no destination that anything would wait for (R86). -/
theorem gRegs_contains (d : BitVec 5) : (gRegs d).contains (.g d.toNat) = decide (d ≠ 0) := by
  by_cases hd : d = 0 <;> simp [gRegs, hd]

/-- Once the data has come, the qget that waits for it writes its register. -/
theorem Alone.qget_completes {t : State} {op : LongOp} (h : Alone t op) {n : Nat} {e : QEntry} (hwork : op.work = .qget n e) (bits : BitVec 512) :
    ∃ u, exec (.longOpComplete t.core.pid t.core.sel 0 1) { t with core := t.core.fillEntry e.id bits } = .next u
      ∧ u.cur.flight = [] ∧ u.cur.g = (t.cur.setG n (bits.truncate 64)).g := by
  obtain ⟨op', halone, hwork'⟩ := h.fillEntry hwork bits
  obtain ⟨u, hexec, hflight, hg⟩ := halone.completes (n := n) (v := bits.truncate 64) (.inr ⟨_, hwork', rfl, rfl⟩)
  exact ⟨u, hexec, hflight, hg.trans (Stream.setG_g_congr (Core.fillEntry_cur_g t e.id bits) _ _)⟩

end

end Sys2Proof.Machine

namespace Sys2Proof.Proofs

open Sys2Proof.Machine Sys2Proof.Safety

/-- Settles O5: the push, the pop of a filled entry, the qget that stands alone in its stream until its entry is filled, and the two waits. -/
theorem queueScalarsComplete : Obligations.QueueScalarsComplete := by
  unfold Obligations.QueueScalarsComplete
  refine fun s h => ⟨fun q a hq hq3 hroom => ?push, fun q a hq hq3 hfull => exec_qput_full h hq hq3 hfull a,
    fun q d e rest hlow hhigh hentries => ?pop, fun q d hlow hhigh hempty => exec_qget_empty h hlow hhigh hempty d⟩
  case push =>
    have hpushed := (s.issued (.qput q a)).pushQ_getQueue (q := q.toNat) (by omega) true ((s.g a).zeroExtend 512) 0
    rw [State.issued_getQueue] at hpushed
    exact ⟨_, _, exec_qput_room h hq hq3 hroom a, hpushed, rfl, rfl, rfl⟩
  case pop =>
    obtain ⟨p, honly, hrest, hexec⟩ := exec_qget_pops h hlow hhigh hentries d
    cases hfilled : e.filled with
    | true =>
      rw [hfilled, if_pos rfl] at hexec
      refine ⟨_, hexec, ?_, fun _ => ?_, fun hnot => absurd hnot (by decide)⟩
      · rw [Core.getQueue, State.setG_core, Core.updStr_queues]
        exact hrest
      · rw [State.setG_cur]
        exact Stream.setG_g_congr (honly.cur_g.trans (s.issued_cur_g _)) _ _
    | false =>
      rw [hfilled, if_neg (by decide)] at hexec
      obtain ⟨⟨op, halone, hwork, hdests⟩, hg, hpid, hsel, hqueues⟩ := qget_alone h honly (e := e) rfl
      refine ⟨_, hexec, ?_, fun hnot => absurd hnot (by decide), fun _ => ⟨hg, ?_, fun bits => ?_⟩⟩
      · rw [Core.getQueue, hqueues]
        exact hrest
      · rw [halone.flight, List.any_cons, List.any_nil, Bool.or_false, hdests, gRegs_contains]
      · obtain ⟨u, hcomplete, hflight, hug⟩ := halone.qget_completes hwork bits
        rw [hpid, hsel] at hcomplete
        exact ⟨u, hcomplete, hflight, hug.trans (Stream.setG_g_congr hg _ _)⟩

end Sys2Proof.Proofs
end

section
/-! Generic addresses and the instructions that translate them (spec/07_scalar_instructions.md R138, R139). -/

namespace Sys2Proof.Machine

open Sys2Proof.Safety

/-! ### The kinds -/

/-- The numbers of the aperture kinds. -/
abbrev IsKind (k : Nat) : Prop := 1 ≤ k ∧ k ≤ 6

theorem isKind_cases {k : Nat} (h : IsKind k) : k = 1 ∨ k = 2 ∨ k = 3 ∨ k = 4 ∨ k = 5 ∨ k = 6 := by
  omega

/-- An offset of a kind stays below the place of its index. -/
theorem apLimit_le {k : Nat} (h : IsKind k) : apLimit k ≤ 2 ^ apShift k := by
  obtain rfl | rfl | rfl | rfl | rfl | rfl := isKind_cases h
  all_goals decide

/-- The index of a kind fits the field of a descriptor. -/
theorem apIndex_le {k : Nat} (h : IsKind k) : 2 ^ apIndexBits k ≤ 2048 := by
  obtain rfl | rfl | rfl | rfl | rfl | rfl := isKind_cases h
  all_goals decide

/-- The rule's table and the model's functions name the same limits, and place an index alike. -/
theorem apertureRow_of_isKind {k : Nat} (h : IsKind k) : ∃ shift, Spec.apertureRow k = some (apBase k, shift, 2 ^ apIndexBits k, apLimit k)
    ∧ ∀ ix < 2 ^ apIndexBits k, ix * 2 ^ shift = ix * 2 ^ apShift k := by
  have hsingle : ∀ ix < 2 ^ 0, ∀ m n, ix * m = ix * n := fun ix hix m n => by
    obtain rfl : ix = 0 := by omega
    rw [Nat.zero_mul, Nat.zero_mul]
  obtain rfl | rfl | rfl | rfl | rfl | rfl := isKind_cases h
  exacts [⟨0, rfl, fun ix hix => hsingle ix hix _ _⟩, ⟨40, rfl, fun _ _ => rfl⟩, ⟨0, rfl, fun ix hix => hsingle ix hix _ _⟩,
    ⟨20, rfl, fun _ _ => rfl⟩, ⟨20, rfl, fun _ _ => rfl⟩, ⟨24, rfl, fun _ _ => rfl⟩]

theorem isKind_of_apertureRow {k : Nat} {r : Nat × Nat × Nat × Nat} (h : Spec.apertureRow k = some r) : IsKind k := by
  unfold Spec.apertureRow at h
  split at h
  case h_7 => contradiction
  all_goals omega

/-- A row of the rule's table, as the model's functions give it. -/
theorem apertureRow_eq_some {k base shift ixEnd offEnd : Nat} (h : Spec.apertureRow k = some (base, shift, ixEnd, offEnd)) :
    base = apBase k ∧ ixEnd = 2 ^ apIndexBits k ∧ offEnd = apLimit k ∧ ∀ ix < 2 ^ apIndexBits k, ix * 2 ^ shift = ix * 2 ^ apShift k := by
  obtain ⟨shift', hrow, hplace⟩ := apertureRow_of_isKind (isKind_of_apertureRow h)
  rw [h, Option.some.injEq, Prod.mk.injEq, Prod.mk.injEq, Prod.mk.injEq] at hrow
  obtain ⟨rfl, rfl, rfl, rfl⟩ := hrow
  exact ⟨rfl, rfl, rfl, hplace⟩

/-- An address of a kind, by the model's functions (R138). -/
theorem hasKind_iff {x : Word} {k ix off : Nat} : Spec.hasKind x k ix off
    ↔ IsKind k ∧ ix < 2 ^ apIndexBits k ∧ off < apLimit k ∧ x.toNat = apBase k + ix * 2 ^ apShift k + off := by
  constructor
  · rintro ⟨base, shift, ixEnd, offEnd, hrow, hix, hoff, hx⟩
    obtain ⟨rfl, rfl, rfl, hplace⟩ := apertureRow_eq_some hrow
    exact ⟨isKind_of_apertureRow hrow, hix, hoff, by rw [hx, hplace ix hix]⟩
  · rintro ⟨hk, hix, hoff, hx⟩
    obtain ⟨shift, hrow, hplace⟩ := apertureRow_of_isKind hk
    exact ⟨_, _, _, _, hrow, hix, hoff, by rw [hx, hplace ix hix]⟩

/-! ### The kind of an address -/

theorem matchKind_eq_some {a k : Nat} (hk : IsKind k) {p : Aperture} : matchKind a k = some p
    ↔ p.kind = k ∧ p.index < 2 ^ apIndexBits k ∧ p.off < apLimit k ∧ a = apBase k + p.index * 2 ^ apShift k + p.off := by
  have hpos : 0 < 2 ^ apShift k := Nat.two_pow_pos _
  have hle := apLimit_le hk
  obtain ⟨kind, index, off⟩ := p
  constructor
  · intro h
    unfold matchKind at h
    dsimp only at h
    split at h
    case isFalse => contradiction
    case isTrue hbase =>
      split at h
      case isFalse => contradiction
      case isTrue hfits =>
        simp only [Option.some.injEq, Aperture.mk.injEq] at h
        obtain ⟨rfl, rfl, rfl⟩ := h
        have hsplit := Nat.div_add_mod' (a - apBase k) (2 ^ apShift k)
        exact ⟨rfl, hfits.1, hfits.2, by dsimp only; omega⟩
  · rintro ⟨rfl, hix, hoff, rfl⟩
    dsimp only at *
    have hrest : apBase kind + index * 2 ^ apShift kind + off - apBase kind = off + index * 2 ^ apShift kind := by omega
    have hdiv : (off + index * 2 ^ apShift kind) / 2 ^ apShift kind = index := by
      rw [Nat.add_mul_div_right _ _ hpos, Nat.div_eq_of_lt (hoff.trans_le hle), Nat.zero_add]
    have hmod : (off + index * 2 ^ apShift kind) % 2 ^ apShift kind = off := by
      rw [Nat.add_mul_mod_self_right, Nat.mod_eq_of_lt (hoff.trans_le hle)]
    rw [matchKind, if_pos (by omega), hrest]
    dsimp only
    rw [hdiv, hmod, if_pos ⟨hix, hoff⟩]

/-- The kind, index and offset that the model gives an address are those that the rule gives it. -/
theorem matchKind_iff_hasKind {x : Word} {k : Nat} (hk : IsKind k) {p : Aperture} :
    matchKind x.toNat k = some p ↔ p.kind = k ∧ Spec.hasKind x p.kind p.index p.off := by
  rw [matchKind_eq_some hk]
  constructor
  · rintro ⟨rfl, h⟩
    exact ⟨rfl, hasKind_iff.mpr ⟨hk, h⟩⟩
  · rintro ⟨rfl, h⟩
    exact ⟨rfl, (hasKind_iff.mp h).2⟩

/-- No two apertures share an address. -/
theorem hasKind_unique {x : Word} {k ix off k' ix' off' : Nat} (h : Spec.hasKind x k ix off) (h' : Spec.hasKind x k' ix' off') :
    k = k' ∧ ix = ix' ∧ off = off' := by
  obtain ⟨hk, hix, hoff, hx⟩ := hasKind_iff.mp h
  obtain ⟨hk', hix', hoff', hx'⟩ := hasKind_iff.mp h'
  have hkinds : k = k' := by
    obtain rfl | rfl | rfl | rfl | rfl | rfl := isKind_cases hk
    all_goals
      obtain rfl | rfl | rfl | rfl | rfl | rfl := isKind_cases hk'
      all_goals simp only [apIndexBits, apLimit, apBase, apShift] at hix hoff hx hix' hoff' hx'; omega
  subst hkinds
  have hp := (matchKind_eq_some hk (p := ⟨k, ix, off⟩)).mpr ⟨rfl, hix, hoff, rfl⟩
  have hp' := (matchKind_eq_some hk (p := ⟨k, ix', off'⟩)).mpr ⟨rfl, hix', hoff', rfl⟩
  rw [← hx] at hp
  rw [← hx', hp] at hp'
  simpa using hp'

/-- The low addresses are those of kind 1. -/
theorem hasKind_one_iff {x : Word} {ix off : Nat} : Spec.hasKind x 1 ix off ↔ ix = 0 ∧ off = x.toNat ∧ x.toNat < 2 ^ 56 := by
  rw [hasKind_iff]
  simp only [apIndexBits, apLimit, apBase, apShift]
  omega

/-- What the model answers for an address: its kind, or none where the rule gives it none. -/
theorem aperture_cases (x : Word) : Spec.hasKind x (aperture x).kind (aperture x).index (aperture x).off
    ∨ (aperture x = ⟨0, 0, 0⟩ ∧ ∀ k ix off, ¬ Spec.hasKind x k ix off) := by
  unfold aperture
  dsimp only
  split
  case isTrue hlow => exact .inl (hasKind_one_iff.mpr ⟨rfl, rfl, hlow⟩)
  case isFalse hhigh =>
    cases hfound : ((((matchKind x.toNat 2).or (matchKind x.toNat 3)).or (matchKind x.toNat 4)).or
        ((matchKind x.toNat 5).or (matchKind x.toNat 6))) with
    | some p =>
      simp only [Option.or_eq_some_iff] at hfound
      have hkind : ∃ k, IsKind k ∧ matchKind x.toNat k = some p := by
        obtain ((h | ⟨-, h⟩) | ⟨-, h⟩) | ⟨-, h | ⟨-, h⟩⟩ := hfound
        exacts [⟨2, by decide, h⟩, ⟨3, by decide, h⟩, ⟨4, by decide, h⟩, ⟨5, by decide, h⟩, ⟨6, by decide, h⟩]
      obtain ⟨k, hk, hp⟩ := hkind
      exact .inl ((matchKind_iff_hasKind hk).mp hp).2
    | none =>
      simp only [Option.or_eq_none_iff] at hfound
      obtain ⟨⟨⟨h2, h3⟩, h4⟩, h5, h6⟩ := hfound
      refine .inr ⟨rfl, fun k ix off hkind => ?_⟩
      have hk := (hasKind_iff.mp hkind).1
      have hp := (matchKind_iff_hasKind hk (p := ⟨k, ix, off⟩)).mpr ⟨rfl, hkind⟩
      obtain rfl | rfl | rfl | rfl | rfl | rfl := isKind_cases hk
      · exact hhigh (hasKind_one_iff.mp hkind).2.2
      all_goals simp_all

theorem aperture_of_hasKind {x : Word} {k ix off : Nat} (h : Spec.hasKind x k ix off) : aperture x = ⟨k, ix, off⟩ := by
  obtain hfound | ⟨-, hnone⟩ := aperture_cases x
  · obtain ⟨hk, hix, hoff⟩ := hasKind_unique hfound h
    rw [← hk, ← hix, ← hoff]
  · exact absurd h (hnone k ix off)

theorem aperture_of_no_kind {x : Word} (h : ∀ k ix off, ¬ Spec.hasKind x k ix off) : aperture x = ⟨0, 0, 0⟩ := by
  obtain hfound | ⟨hzero, -⟩ := aperture_cases x
  · exact absurd hfound (h _ _ _)
  · exact hzero

theorem kind_ne_zero {x : Word} {k ix off : Nat} (h : Spec.hasKind x k ix off) : k ≠ 0 := by
  obtain ⟨⟨hpos, -⟩, -⟩ := hasKind_iff.mp h
  omega

/-! ### The address of a descriptor and an offset (R139) -/

section
variable {size : Nat} {off desc : Word}

/-- A descriptor in the range of its kind: the offset alone can be at fault. -/
theorem buildAddress_of_descriptor {k ix : Nat} (hk : IsKind k) (hix : ix < 2 ^ apIndexBits k) (hteam : k = 5 → ix < size)
    (hdesc : desc.toNat = k + ix * 2 ^ 16) : buildAddress size off desc = if apLimit k ≤ off.toNat then .error off
      else .ok (.ofNat 64 (apBase k + ix * 2 ^ apShift k + off.toNat)) := by
  have hle := apIndex_le hk
  have hkind : desc.toNat % 16 = k := by omega
  have hindex : desc.toNat / 65536 % 2048 = ix := by omega
  unfold buildAddress
  rw [hkind, hindex, if_neg (by omega), if_neg (by omega)]

/-- Any other descriptor is at fault itself. -/
theorem buildAddress_of_no_descriptor
    (h : ∀ k ix, IsKind k → ix < 2 ^ apIndexBits k → (k = 5 → ix < size) → desc.toNat ≠ k + ix * 2 ^ 16) :
    buildAddress size off desc = .error desc := by
  have hno := h (desc.toNat % 16) (desc.toNat / 65536 % 2048)
  unfold buildAddress
  dsimp only
  split
  · rfl
  · split
    · rfl
    · next hfields hrange =>
      exact absurd (by omega) (hno (by omega) (by omega) (by omega))

end

/-! ### The instructions, with nothing to hold them back -/

section
variable {s : State}

theorem State.issued_taskSize (s : State) (i : Instr) : (s.issued i).taskSize = s.taskSize := by
  rw [State.taskSize, State.taskSize, State.issued_core_task]

theorem State.issued_isUpdate (s : State) (i : Instr) : (s.issued i).isUpdate = s.isUpdate := by
  rw [State.isUpdate, State.isUpdate, State.issued_core_task]

theorem exec_inap (h : ReadyA s) (d a : BitVec 5) :
    exec (.inap d a) s = .next ((s.issued (.inap d a)).setG d (aperture (s.g a)).descriptor) := by
  change execInap d a s = _
  exact issue_completes h.2 rfl (readyA_admits h) rfl rfl (by simp only [State.issued_g])

theorem exec_gtol (h : ReadyA s) (d : BitVec 5) {a : BitVec 5} (hkind : (aperture (s.g a)).kind ≠ 0) :
    exec (.gtol d a) s = .next ((s.issued (.gtol d a)).setG d (.ofNat 64 (aperture (s.g a)).off)) := by
  change execGtol d a s = _
  exact issue_completes h.2 rfl (readyA_admits h) rfl rfl (by simp only [State.issued_g, if_neg hkind])

theorem exec_gtol_traps (h : ReadyA s) (hmode : s.cur.mode = .user) (d : BitVec 5) {a : BitVec 5} (hkind : (aperture (s.g a)).kind = 0) :
    ∃ t, exec (.gtol d a) s = .next t ∧ Spec.Trapped s t 0x06 (s.g a) := by
  change ∃ t, execGtol d a s = .next t ∧ _
  exact issue_traps h.2 hmode rfl (readyA_admits h) rfl rfl (by decide) (by simp only [State.issued_g, if_pos hkind])

theorem exec_ltog (h : ReadyA s) (d : BitVec 5) {a b : BitVec 5} {v : Word} (hbuild : buildAddress s.taskSize (s.g a) (s.g b) = .ok v) :
    exec (.ltog d a b) s = .next ((s.issued (.ltog d a b)).setG d v) := by
  change execLtog d a b s = _
  exact issue_completes h.2 rfl (readyA_admits h) rfl rfl (by simp only [State.issued_g, State.issued_taskSize, hbuild])

theorem exec_ltog_traps (h : ReadyA s) (hmode : s.cur.mode = .user) (d : BitVec 5) {a b : BitVec 5} {v : Word}
    (hbuild : buildAddress s.taskSize (s.g a) (s.g b) = .error v) : ∃ t, exec (.ltog d a b) s = .next t ∧ Spec.Trapped s t 0x06 v := by
  change ∃ t, execLtog d a b s = .next t ∧ _
  exact issue_traps h.2 hmode rfl (readyA_admits h) rfl rfl (by decide) (by simp only [State.issued_g, State.issued_taskSize, hbuild])

theorem exec_teama (h : ReadyA s) (d : BitVec 5) {a b : BitVec 5} (hup : s.isUpdate = false) (hid : (s.g a).toNat < s.taskSize)
    (hoff : (s.g b).toNat < 0x60000) :
    exec (.teama d a b) s = .next ((s.issued (.teama d a b)).setG d (0xFFF2000000000000 + s.g a * 0x100000 + s.g b)) := by
  change execTeama d a b s = _
  exact issue_completes h.2 rfl (readyA_admits h) rfl rfl (by
    simp only [State.issued_g, State.issued_taskSize, State.issued_isUpdate, hup, Bool.false_eq_true, if_false, Nat.not_le.mpr hid,
      Nat.not_le.mpr hoff])

/-- In an update task, or for a logical id outside the team, the id is at fault. -/
theorem exec_teama_traps_id (h : ReadyA s) (hmode : s.cur.mode = .user) (d b : BitVec 5) {a : BitVec 5}
    (hbad : s.isUpdate = true ∨ s.taskSize ≤ (s.g a).toNat) : ∃ t, exec (.teama d a b) s = .next t ∧ Spec.Trapped s t 0x06 (s.g a) := by
  change ∃ t, execTeama d a b s = .next t ∧ _
  refine issue_traps h.2 hmode rfl (readyA_admits h) rfl rfl (by decide) ?_
  simp only [State.issued_g, State.issued_taskSize, State.issued_isUpdate]
  by_cases hup : s.isUpdate = true
  · rw [if_pos hup]
  · rw [if_neg hup, if_pos (hbad.resolve_left hup)]

theorem exec_teama_traps_off (h : ReadyA s) (hmode : s.cur.mode = .user) (d : BitVec 5) {a b : BitVec 5} (hup : s.isUpdate = false)
    (hid : (s.g a).toNat < s.taskSize) (hoff : 0x60000 ≤ (s.g b).toNat) : ∃ t, exec (.teama d a b) s = .next t ∧ Spec.Trapped s t 0x06 (s.g b) := by
  change ∃ t, execTeama d a b s = .next t ∧ _
  refine issue_traps h.2 hmode rfl (readyA_admits h) rfl rfl (by decide) ?_
  simp only [State.issued_g, State.issued_taskSize, State.issued_isUpdate, hup, Bool.false_eq_true, if_false, Nat.not_le.mpr hid, if_pos hoff]

end

/-- The team address as the rule adds it up (R139). -/
theorem teamAddress_eq (x y : Word) : 0xFFF2000000000000 + x * 0x100000 + y = BitVec.ofNat 64 (0xFFF2000000000000 + x.toNat * 2 ^ 20 + y.toNat) := by
  rw [BitVec.ofNat_add, BitVec.ofNat_add, BitVec.ofNat_mul, BitVec.ofNat_toNat, BitVec.ofNat_toNat, BitVec.setWidth_eq, BitVec.setWidth_eq]
  rfl

end Sys2Proof.Machine

namespace Sys2Proof.Proofs

open Sys2Proof.Machine Sys2Proof.Safety

/-- Settles O6: the kind that the model finds for an address is the rule's, a descriptor in range leads back to its address, and each way out of
the limits is the trap of its operand; on the C-stream each is illegal by O11. -/
theorem addressInstructionsComplete : Obligations.AddressInstructionsComplete := by
  unfold Obligations.AddressInstructionsComplete
  refine ⟨fun s h => ⟨fun d a k ix off hkind => ?kind, fun d a hnone => ?none, fun d a b k ix x hkind hteam hdesc => ?ltog,
    fun d a b hup hid hoff => ?teama⟩, fun s h hmode i v hi => ?traps, fun s i h hmode hi => ?illegal⟩
  case kind =>
    have hap := aperture_of_hasKind hkind
    refine ⟨?_, ?_⟩
    · rw [exec_gtol h d (by rw [hap]; exact kind_ne_zero hkind), hap]
    · rw [exec_inap h, hap]
      rfl
  case none => rw [exec_inap h, aperture_of_no_kind hnone]; rfl
  case ltog =>
    obtain ⟨hk, hix, hoff, hx⟩ := hasKind_iff.mp hkind
    refine exec_ltog h d ?_
    rw [buildAddress_of_descriptor hk hix hteam hdesc, if_neg (Nat.not_le.mpr hoff), ← hx, BitVec.ofNat_toNat, BitVec.setWidth_eq]
  case teama => rw [exec_teama h d hup hid hoff, teamAddress_eq]
  case traps =>
    have htrap : ∃ t, exec i s = .next t ∧ Spec.Trapped s t 0x06 v := by
      obtain ⟨d, a, rfl, rfl, hnone⟩ | ⟨d, a, b, rfl, rfl, hnone⟩
        | ⟨d, a, b, k, ix, base, shift, ixEnd, offEnd, rfl, rfl, hrow, hix, hteam, hdesc, hoff⟩
        | ⟨d, a, b, rfl, rfl, hbad⟩ | ⟨d, a, b, rfl, rfl, hup, hid, hoff⟩ := hi
      · exact exec_gtol_traps h hmode d (by rw [aperture_of_no_kind hnone])
      · refine exec_ltog_traps h hmode d (buildAddress_of_no_descriptor fun k ix hk hix hteam => ?_)
        obtain ⟨shift, hrow, -⟩ := apertureRow_of_isKind hk
        exact hnone k ix _ _ _ _ hrow hix hteam
      · obtain ⟨-, rfl, rfl, -⟩ := apertureRow_eq_some hrow
        refine exec_ltog_traps h hmode d ?_
        rw [buildAddress_of_descriptor (isKind_of_apertureRow hrow) hix hteam hdesc, if_pos hoff]
      · exact exec_teama_traps_id h hmode d b hbad
      · exact exec_teama_traps_off h hmode d hup hid hoff
    obtain ⟨t, ht, hcause, hval, hpc, -, -, -, hg, -⟩ := htrap
    exact ⟨t, ht, hcause, hval, hpc, hg⟩
  case illegal =>
    have haOnly : i.bits ≠ 0 ∧ streams i = .aOnly := by
      obtain ⟨d, a, b, rfl | rfl | rfl | rfl⟩ := hi
      all_goals exact ⟨by simp [Instr.bits], rfl⟩
    obtain ⟨hbits, hstreams⟩ := haOnly
    have hadmits : Spec.admits i s.core.sel = false := by rw [← streams_admits hbits, hstreams, h.1]; rfl
    obtain ⟨t, ht, hcause, hval, hpc, -, -, -, hg, -⟩ := illegalAndPrivilegedEncodingsTrap.1 i s hbits h.2 hmode (.inr hadmits)
    exact ⟨t, ht, hcause, hval, hpc, hg⟩

end Sys2Proof.Proofs
end

section
/-! What a store changes of the three kinds of memory, and that its bytes are read back (spec/08_memory.md R157, spec/10_memory_instructions.md R187). -/

namespace Sys2Proof.Machine

/-! ### Reading a run of bytes -/

theorem Memory.read_congr {m n : Memory} {a len : Nat} (h : ∀ x, a ≤ x → x < a + len → Memory.get n x = Memory.get m x) :
    Memory.read n a len = Memory.read m a len := by
  induction len generalizing a with
  | zero => rfl
  | succ len ih =>
    rw [Memory.read, Memory.read, h a (by omega) (by omega), ih fun x hlo hhi => h x (by omega) (by omega)]

theorem Memory.read_write_of_disjoint (m : Memory) {a b len : Nat} (bs : List Byte) (h : ∀ x, a ≤ x → x < a + len → x < b ∨ b + bs.length ≤ x) :
    Memory.read (Memory.write m b bs) a len = Memory.read m a len :=
  Memory.read_congr fun x hlo hhi => Memory.get_write_of_not_mem m b x bs (h x hlo hhi)

theorem Memory.get_write_take (m : Memory) {a x n : Nat} (bs : List Byte) (h : x < a ∨ a + n ≤ x) :
    Memory.get (Memory.write m a (bs.take n)) x = Memory.get m x :=
  Memory.get_write_of_not_mem m a x _ (by have := bs.length_take_le n; omega)

/-! ### A window write leaves the scratchpad (R141) -/

/-- The same core, with the same scratchpad. -/
def Core.SameSpad (k k1 : Core) : Prop := k1.pid = k.pid ∧ k1.spad = k.spad

theorem Core.setFull_sameSpad (k : Core) (w : Nat) (b : Bool) : k.SameSpad (k.setFull w b) := ⟨rfl, rfl⟩

theorem Core.SameSpad.foldl {α : Type} {step : Core → α → Core} (hstep : ∀ (k : Core) x, k.SameSpad (step k x)) (xs : List α) (k : Core) :
    k.SameSpad (xs.foldl step k) := by
  induction xs generalizing k with
  | nil => exact ⟨rfl, rfl⟩
  | cons x xs ih => exact ⟨(ih _).1.trans (hstep k x).1, (ih _).2.trans (hstep k x).2⟩

theorem Core.SameSpad.ite {k a b : Core} {p : Prop} [Decidable p] (ha : k.SameSpad a) (hb : k.SameSpad b) : k.SameSpad (if p then a else b) := by
  split
  · exact ha
  · exact hb

theorem Core.setStreams_sameSpad (k : Core) (a c : Stream) : k.SameSpad { k with a := a, c := c } := ⟨rfl, rfl⟩

theorem Core.setF_sameSpad (k : Core) (n : Nat) (r : FReg) : k.SameSpad (k.setF n r) := ⟨k.setF_pid .., k.setF_spad ..⟩

theorem Core.setV_sameSpad (k : Core) (n : Nat) (r : VReg) : k.SameSpad (k.setV n r) := ⟨k.setV_pid .., k.setV_spad ..⟩

theorem Core.setRegSlot_sameSpad (k : Core) (off : Nat) (v : Word) : k.SameSpad (k.setRegSlot off v) := by
  unfold Core.setRegSlot
  exact .ite (k.setStreams_sameSpad ..) (.ite (k.setStreams_sameSpad ..) (.ite (k.setF_sameSpad ..) (.ite (k.setF_sameSpad ..)
    (.ite (k.setV_sameSpad ..) (.ite (k.setV_sameSpad ..) ⟨rfl, rfl⟩)))))

theorem Core.setTileByte_sameSpad (k : Core) (off : Nat) (b : Byte) : k.SameSpad (k.setTileByte off b) := ⟨k.setTile_pid .., k.setTile_spad ..⟩

theorem Core.setWinByte_sameSpad (k : Core) (off : Nat) (b : Byte) : k.SameSpad (k.setWinByte off b) :=
  .ite (k.setTileByte_sameSpad ..) (.ite (k.setRegSlot_sameSpad ..) (.ite ⟨rfl, rfl⟩ (.foldl (fun k _ => k.setFull_sameSpad ..) _ _)))

theorem Core.setWin_sameSpad (k : Core) (off : Nat) (bs : List Byte) : k.SameSpad (k.setWin off bs) :=
  .ite (k.setRegSlot_sameSpad ..) (.foldl (fun k _ => k.setWinByte_sameSpad ..) _ _)

/-! ### What a write to one chunk leaves (R157) -/

/-- The byte `x` of pooled memory (`host = false`) or of host memory is none of the chunk's. -/
def Chunk.OffPhys (c : Chunk) (host : Bool) (x : Nat) : Prop :=
  ∀ hm pa len o k p l, c = .phys hm pa len o k p l → hm = !host ∨ x < pa ∨ pa + len ≤ x

/-- The byte `x` of the scratchpad of `pid` is none of the chunk's. -/
def Chunk.OffSpad (c : Chunk) (pid x : Nat) : Prop := ∀ off len, c = .spad pid off len → x < off ∨ off + len ≤ x

theorem State.get_poke_pool (s : State) {c : Chunk} {x : Nat} (h : c.OffPhys false x) (bs : List Byte) :
    Memory.get (s.poke c (bs.take c.span.len)).pool x = Memory.get s.pool x := by
  obtain ⟨d, hd⟩ := s.poke_eq_put c (bs.take c.span.len)
  rw [hd]
  cases c with
  | phys hm pa len o k p l =>
    cases hm with
    | true => rfl
    | false => exact Memory.get_write_take _ _ ((h _ _ _ _ _ _ _ rfl).resolve_left (by decide))
  | spad pid off len => simp [State.put]
  | win pid off len => simp [State.put]
  | peer dev off len => rfl

theorem State.get_poke_host (s : State) {c : Chunk} {x : Nat} (h : c.OffPhys true x) (bs : List Byte) :
    Memory.get (s.poke c (bs.take c.span.len)).host x = Memory.get s.host x := by
  obtain ⟨d, hd⟩ := s.poke_eq_put c (bs.take c.span.len)
  rw [hd]
  cases c with
  | phys hm pa len o k p l =>
    cases hm with
    | true => exact Memory.get_write_take _ _ ((h _ _ _ _ _ _ _ rfl).resolve_left (by decide))
    | false => rfl
  | spad pid off len => simp [State.put]
  | win pid off len => simp [State.put]
  | peer dev off len => rfl

/-- A write to one core's scratchpad or windows, read at any core. -/
theorem State.get_updCore_spad (s : State) {pid p x : Nat} {f : Core → Core} (hpid : ∀ k, (f k).pid = k.pid)
    (hget : p = pid → ∀ k, Memory.get (f k).spad x = Memory.get k.spad x) :
    Memory.get ((s.updCore pid f).coreAt p).spad x = Memory.get (s.coreAt p).spad x := by
  by_cases hp : p = pid
  · subst hp
    rw [s.coreAt_updCore p f hpid, hget rfl]
  · rw [s.coreAt_updCore_of_ne f hpid hp]

theorem State.get_poke_spad (s : State) {c : Chunk} {p x : Nat} (h : c.OffSpad p x) (bs : List Byte) :
    Memory.get ((s.poke c (bs.take c.span.len)).coreAt p).spad x = Memory.get (s.coreAt p).spad x := by
  obtain ⟨d, hd⟩ := s.poke_eq_put c (bs.take c.span.len)
  rw [hd]
  have hdev : ∀ u : State, ({ u with dev := d } : State).coreAt p = u.coreAt p := fun u => State.coreAt_congr rfl rfl p
  rw [hdev]
  cases c with
  | phys hm pa len o k q l => cases hm <;> exact congrArg (fun k : Core => Memory.get k.spad x) (State.coreAt_congr rfl rfl p)
  | spad pid off len =>
    refine s.get_updCore_spad (fun _ => rfl) fun hp k => ?_
    exact Memory.get_write_take _ _ (h off len (by rw [hp]))
  | win pid off len =>
    refine s.get_updCore_spad (fun k => (k.setWin_sameSpad ..).1) fun _ k => ?_
    rw [(k.setWin_sameSpad ..).2]
  | peer dev off len => rfl

/-! ### What a write to the chunks of an access leaves (R187) -/

theorem State.pokeAll_cons (s : State) (c : Chunk) (cs : List Chunk) (bs : List Byte) :
    s.pokeAll (c :: cs) bs = (s.poke c (bs.take c.span.len)).pokeAll cs (bs.drop c.span.len) := by
  cases c <;> rfl

/-- What every chunk's write leaves, the whole access leaves. -/
theorem State.pokeAll_keeps {α : Type} (view : State → α) {cs : List Chunk}
    (h : ∀ c ∈ cs, ∀ (s : State) (bs : List Byte), view (s.poke c (bs.take c.span.len)) = view s) (s : State) (bs : List Byte) :
    view (s.pokeAll cs bs) = view s := by
  induction cs generalizing s bs with
  | nil => rfl
  | cons c cs ih =>
    obtain ⟨hc, hcs⟩ := List.forall_mem_cons.mp h
    rw [State.pokeAll_cons, ih hcs, hc]

/-! ### What was written is read back (R187) -/

/-- A chunk of a page or of a scratchpad: one that holds bytes as they were written. -/
def Chunk.IsMemory (c : Chunk) : Prop := (∃ hm pa len o k p l, c = .phys hm pa len o k p l) ∨ ∃ pid off len, c = .spad pid off len

/-- The span that two chunks do not share, as bytes. -/
theorem overlap_eq_false {x y : Span} (h : overlap [x] [y] = false) (hplace : x.place = y.place) (z : Nat) (hlo : x.lo ≤ z) (hhi : z < x.lo + x.len) :
    z < y.lo ∨ y.lo + y.len ≤ z := by
  simp only [overlap, List.any_cons, List.any_nil, Bool.or_false, Bool.or_eq_false_iff, hplace, beq_self_eq_true, Bool.true_and,
    Bool.and_eq_false_iff, decide_eq_false_iff_not] at h
  omega

theorem State.peek_poke_of_disjoint (s : State) {c e : Chunk} (hc : c.IsMemory) (h : overlap [c.span] [e.span] = false) (bs : List Byte) :
    (s.poke e (bs.take e.span.len)).peek c = s.peek c := by
  rcases hc with ⟨hm, pa, len, o, k, p, l, rfl⟩ | ⟨pid, off, len, rfl⟩
  · have hoff : ∀ x, pa ≤ x → x < pa + len → e.OffPhys hm x := by
      rintro x hlo hhi hm' pa' len' _ _ _ _ rfl
      by_cases hsame : hm' = hm
      · subst hsame
        exact .inr (overlap_eq_false h rfl x hlo hhi)
      · exact .inl (Bool.eq_not.mpr hsame)
    cases hm with
    | true => exact Memory.read_congr fun x hlo hhi => s.get_poke_host (hoff x hlo hhi) bs
    | false => exact Memory.read_congr fun x hlo hhi => s.get_poke_pool (hoff x hlo hhi) bs
  · refine Memory.read_congr fun x hlo hhi => s.get_poke_spad ?_ bs
    rintro off' len' rfl
    exact overlap_eq_false h rfl x hlo hhi

theorem State.peek_poke_self (s : State) {c : Chunk} (hc : c.IsMemory) {bs : List Byte} (hlen : bs.length = c.span.len) :
    (s.poke c bs).peek c = bs := by
  obtain ⟨d, hd⟩ := s.poke_eq_put c bs
  rw [hd]
  rcases hc with ⟨hm, pa, len, o, k, p, l, rfl⟩ | ⟨pid, off, len, rfl⟩
  · obtain rfl : bs.length = len := hlen
    cases hm with
    | true => exact Memory.read_write s.host pa bs
    | false => exact Memory.read_write s.pool pa bs
  · obtain rfl : bs.length = len := hlen
    have hcore := s.coreAt_updCore pid (fun k => { k with spad := Memory.write k.spad off bs }) fun _ => rfl
    calc Memory.read ((s.updCore pid fun k => { k with spad := Memory.write k.spad off bs }).coreAt pid).spad off bs.length
        = Memory.read (Memory.write (s.coreAt pid).spad off bs) off bs.length := by rw [hcore]
      _ = bs := Memory.read_write ..

theorem State.peekAll_pokeAll (s : State) {cs : List Chunk} {bs : List Byte} (hlen : (cs.map (fun c => c.span.len)).sum = bs.length)
    (hmem : ∀ c ∈ cs, c.IsMemory) (hdisj : cs.Pairwise (fun x y => overlap [x.span] [y.span] = false)) :
    (s.pokeAll cs bs).peekAll cs = bs := by
  induction cs generalizing s bs with
  | nil => exact (List.length_eq_zero_iff.mp hlen.symm).symm
  | cons c cs ih =>
    obtain ⟨hc, hcs⟩ := List.forall_mem_cons.mp hmem
    obtain ⟨hhead, htail⟩ := List.pairwise_cons.mp hdisj
    have hsum : c.span.len + (cs.map (fun c => c.span.len)).sum = bs.length := by simpa using hlen
    have hfirst : (s.pokeAll (c :: cs) bs).peek c = bs.take c.span.len := by
      rw [State.pokeAll_cons, State.pokeAll_keeps (·.peek c) fun e he s bs => s.peek_poke_of_disjoint hc (hhead e he) bs]
      exact s.peek_poke_self hc (by rw [List.length_take]; omega)
    have hrest : (s.pokeAll (c :: cs) bs).peekAll cs = bs.drop c.span.len := by
      rw [State.pokeAll_cons]
      exact ih _ (by rw [List.length_drop]; omega) hcs htail
    calc (s.pokeAll (c :: cs) bs).peekAll (c :: cs)
        = (s.pokeAll (c :: cs) bs).peek c ++ (s.pokeAll (c :: cs) bs).peekAll cs := List.flatMap_cons
      _ = bs := by rw [hfirst, hrest, List.take_append_drop]

end Sys2Proof.Machine

namespace Sys2Proof.Proofs
open Sys2Proof.Machine Sys2Proof.Safety

/-- Settles O27: a write to one chunk leaves every byte outside it, so an access leaves every byte outside its chunks, and the bytes of its first
chunk stand when the later ones, which share none with it, have been written. -/
theorem storesTouchOnlyTheirBytes : Obligations.StoresTouchOnlyTheirBytes := by
  unfold Obligations.StoresTouchOnlyTheirBytes
  refine ⟨fun s cs bs hlen hmem hdisj => s.peekAll_pokeAll hlen hmem hdisj, fun s cs bs x => ⟨fun h => ?_, fun h => ?_, fun pid h => ?_⟩⟩
  · exact State.pokeAll_keeps (fun t => Memory.get t.pool x) (fun c hc s bs => s.get_poke_pool (h c hc) bs) s bs
  · exact State.pokeAll_keeps (fun t => Memory.get t.host x) (fun c hc s bs => s.get_poke_host (h c hc) bs) s bs
  · exact State.pokeAll_keeps (fun t => Memory.get (t.coreAt pid).spad x) (fun c hc s bs => s.get_poke_spad (h c hc) bs) s bs

end Sys2Proof.Proofs
end

section
/-! Faults that park, the fault buffer, replay and invalidation (spec/08_memory.md R158 to R163). -/

namespace Sys2Proof.Machine

/-! ### A fault is recorded (R160 to R162) -/

@[simp] theorem State.recordFault_core (s : State) (ctx cluster cidx : Nat) (st : StreamId) (kind level base : Nat) (va : Word) :
    (s.recordFault ctx cluster cidx st kind level base va).core = s.core := by
  unfold State.recordFault
  dsimp only
  split_ifs <;> rfl

/-- The entry of the fault buffer for a load of the A-stream (R161). -/
def faultEntry (ctx cluster cidx level : Nat) (va : Word) : BitVec 128 :=
  .ofNat 128 (va.toNat + 2 ^ 64 * (ctx + (cidx * 2 ^ 24 + cluster * 2 ^ 16) + level * 2 ^ 32))

theorem extractLsb'_ofNat_eq {n lo w x : Nat} (h : n % 2 ^ 128 / 2 ^ lo % 2 ^ w = x % 2 ^ w) :
    (BitVec.ofNat 128 n).extractLsb' lo w = .ofNat w x := by
  apply BitVec.eq_of_toNat_eq
  rw [BitVec.extractLsb'_toNat, BitVec.toNat_ofNat, BitVec.toNat_ofNat, Nat.shiftRight_eq_div_pow, h]

theorem faultEntry_fields {ctx cluster cidx : Nat} (hctx : ctx < 2 ^ 16) (hcluster : cluster < 256) (hcidx : cidx < 8) (level : Nat) (va : Word) :
    (faultEntry ctx cluster cidx level va).truncate 64 = va ∧ (faultEntry ctx cluster cidx level va).extractLsb' 64 16 = .ofNat 16 ctx
      ∧ (faultEntry ctx cluster cidx level va).extractLsb' 80 8 = .ofNat 8 cluster
      ∧ (faultEntry ctx cluster cidx level va).extractLsb' 88 3 = .ofNat 3 cidx ∧ (faultEntry ctx cluster cidx level va).extractLsb' 92 4 = 0 := by
  have hva := va.isLt
  unfold faultEntry
  refine ⟨?_, extractLsb'_ofNat_eq ?_, extractLsb'_ofNat_eq ?_, extractLsb'_ofNat_eq ?_, extractLsb'_ofNat_eq (x := 0) ?_⟩
  · apply BitVec.eq_of_toNat_eq
    rw [BitVec.truncate_eq_setWidth, BitVec.toNat_setWidth, BitVec.toNat_ofNat]
    omega
  all_goals omega

/-- The first fault of its region, with room in the records and in the buffer. -/
theorem State.recordFault_first {s : State} {cluster : Nat} (hnone : (s.clusterAt cluster).faults = [])
    (hroom : (s.dev.fbTail - s.dev.fbHead).toNat < 8) (ctx cidx level base : Nat) (va : Word) :
    (s.recordFault ctx cluster cidx .a 0 level base va).dev.fbTail = s.dev.fbTail + 1
      ∧ (s.recordFault ctx cluster cidx .a 0 level base va).dev.fbSlots
        = s.dev.fbSlots.setIfInBounds (s.dev.fbTail.toNat % 8) (faultEntry ctx cluster cidx level va) := by
  have hfull : ((s.dev.fbTail - s.dev.fbHead).toNat == 8) = false := beq_eq_false_iff_ne.mpr (by omega)
  have hrecords : decide (Config.faultRecords ≤ 0) = false := by decide
  have hentry : faultEntry ctx cluster cidx level va
      = .ofNat 128 (va.toNat + 2 ^ 64 * (ctx + (0 + cidx * 2 ^ 24 + cluster * 2 ^ 16) + 0 * 2 ^ 28 + level * 2 ^ 32)) := by
    simp [faultEntry]
  unfold State.recordFault
  simp only [hnone, hfull, hrecords, hentry, List.any_nil, List.length_nil, Bool.or_self, Bool.false_eq_true, if_false, reduceCtorEq,
    OfNat.zero_ne_ofNat]
  split <;> exact ⟨rfl, rfl⟩

theorem State.opFault_replays {s : State} (h : s.noReplay = false) (x : StreamId) (op : LongOp) (ctx p kind level base : Nat) (va : Word) :
    s.opFault x op ctx p kind level base va = (s.recordFault ctx (p / 8) (p % 8) x kind level base va).updThis
      (fun k => k.setOp x op.id (fun o => { o with status := .parked va })) := by
  unfold State.opFault
  simp only [h, Bool.false_eq_true, if_false]

/-- A load of the selected core meets a missing page. -/
theorem exec_pageFaultPark_load {s : State} {x : StreamId} {idx : Nat} {op : LongOp} {d : Nat} {addr : Word} {size : Nat} {sext : Bool}
    {ctx p kind level base : Nat} {va : Word} (hat : s.opAt x idx = some op) (hwork : op.work = .load d addr size sext)
    (hmove : s.opMove x op = .fault ctx p kind level base va) (hreplay : s.noReplay = false) :
    exec (.pageFaultPark s.core.pid x idx) s
      = .next ((s.recordFault ctx (p / 8) (p % 8) x kind level base va).updThis
          (fun k => k.setOp x op.id (fun o => { o with status := .parked va }))) := by
  have hlist : s.takeList x op = (s, op) := by
    unfold State.takeList
    rw [hwork]
  have hself : ∀ t : State, t.core.pid = s.core.pid → t.select s.core.pid = t := fun t ht => ht ▸ t.select_self
  have hpid : (s.opFault x op ctx p kind level base va).core.pid = s.core.pid := by
    rw [State.opFault_replays hreplay]
    simp [State.updThis, Core.setOp_pid]
  rw [← State.opFault_replays hreplay]
  calc exec (.pageFaultPark s.core.pid x idx) s = execPageFaultPark s.core.pid x idx s := rfl
    _ = .next ((s.opFault x op ctx p kind level base va).select s.core.pid) := by
      simp only [execPageFaultPark, State.onCore, State.select_self, hat, hwork, hlist, hmove]
    _ = _ := by rw [hself _ hpid]

/-! ### Replay (R163) -/

@[simp] theorem LongOp.retry_status_ne_parked (op : LongOp) (va : Word) : op.retry.status ≠ .parked va := by
  unfold LongOp.retry
  split
  · exact fun h => by cases h
  · next hne => exact hne va

@[simp] theorem Stream.retry_wait_ne_parked (st : Stream) (va : Word) : st.retry.wait ≠ some (.parked va) := by
  unfold Stream.retry
  dsimp only
  split
  · exact fun h => by cases h
  · next hne => exact hne va

@[simp] theorem Job.retry_state_isParked (j : Job) : j.retry.state.isParked = false := by
  unfold Job.retry
  split
  · rfl
  · next hne =>
    cases hstate : j.state with
    | parked a b => exact absurd hstate (hne a b)
    | queued => rfl
    | running => rfl

/-- Nothing of a core is parked. -/
theorem Core.retry_unparked (k : Core) :
    (∀ r ∈ k.retry.pending, r.parked = false) ∧ (∀ op ∈ k.retry.a.flight ++ k.retry.c.flight, ∀ va, op.status ≠ .parked va)
      ∧ (∀ va, k.retry.a.wait ≠ some (.parked va)) ∧ ∀ va, k.retry.c.wait ≠ some (.parked va) := by
  refine ⟨fun r hr => ?_, fun op hop va => ?_, k.a.retry_wait_ne_parked, k.c.retry_wait_ne_parked⟩
  · obtain ⟨_, _, rfl⟩ := List.mem_map.mp hr
    rfl
  · have hflight : op ∈ (k.a.flight ++ k.c.flight).map LongOp.retry := by simpa [Core.retry, Stream.retry] using hop
    obtain ⟨o, _, rfl⟩ := List.mem_map.mp hflight
    exact o.retry_status_ne_parked va

theorem State.replayAll_cores (s : State) {k : Core} (h : k ∈ s.replayAll.core :: s.replayAll.cores) : ∃ k0, k = Core.retry k0 := by
  rcases List.mem_cons.mp h with rfl | h
  · exact ⟨_, rfl⟩
  · obtain ⟨k0, _, rfl⟩ := List.mem_map.mp h
    exact ⟨k0, rfl⟩

theorem State.replayAll_clusters (s : State) {c : Cluster} (h : c ∈ s.replayAll.clusters) :
    c.faults = [] ∧ ∀ j ∈ c.jobs, j.state.isParked = false := by
  obtain ⟨_, _, rfl⟩ := List.mem_map.mp h
  refine ⟨rfl, fun j hj => ?_⟩
  obtain ⟨j0, _, rfl⟩ := List.mem_map.mp hj
  exact j0.retry_state_isParked

theorem State.replayAll_contexts (s : State) {x : Context} (h : x ∈ s.replayAll.contexts) {y : Nat × Queue} (hy : y ∈ x.queues) :
    y.2.parked = false ∧ ∀ c ∈ y.2.cmds, c.parked = false := by
  obtain ⟨_, _, rfl⟩ := List.mem_map.mp h
  obtain ⟨_, _, rfl⟩ := List.mem_map.mp hy
  refine ⟨rfl, fun c hc => ?_⟩
  obtain ⟨_, _, rfl⟩ := List.mem_map.mp hc
  rfl

/-! ### Invalidation (R158) -/

theorem invalHits_eq_true (v : Word) (ctx base bytes : Nat) : invalHits v ctx base bytes = true ↔
    ctx = v.toNat / 2 ^ 48 % 2 ^ 16
      ∧ base < v.toNat / 2 ^ 8 % 2 ^ 40 * 2 ^ 16 / 2 ^ levelShift (v.toNat / 2 ^ 4 % 8) * 2 ^ levelShift (v.toNat / 2 ^ 4 % 8)
          + 2 ^ levelShift (v.toNat / 2 ^ 4 % 8)
      ∧ v.toNat / 2 ^ 8 % 2 ^ 40 * 2 ^ 16 / 2 ^ levelShift (v.toNat / 2 ^ 4 % 8) * 2 ^ levelShift (v.toNat / 2 ^ 4 % 8) < base + bytes := by
  unfold invalHits bitField
  rw [show (65536 : Nat) = 2 ^ 16 by rfl, show (2 : Nat) ^ 3 = 8 by rfl, Bool.and_eq_true, Bool.and_eq_true, beq_iff_eq, decide_eq_true_eq, decide_eq_true_eq, and_assoc]

end Sys2Proof.Machine

namespace Sys2Proof.Proofs
open Sys2Proof.Machine Sys2Proof.Safety

/-- Settles O53: a fault parks its access with the record of `recordFault_first`, REPLAY.ALL is `retry` on every part of the machine, and an
invalidation filters the TLBs by `invalHits`. -/
theorem faultEventsComplete : Obligations.FaultEventsComplete := by
  unfold Obligations.FaultEventsComplete
  intro s
  refine ⟨?_, ?_, ?_, ?_, ?_⟩
  · intro idx op d addr va size ctx p level base sext _ hreplay hctx hp hat hwork hmove
    refine ⟨_, _, exec_pageFaultPark_load hat hwork hmove hreplay, rfl, rfl, fun hnone hroom => ?_⟩
    obtain ⟨htail, hslots⟩ := State.recordFault_first hnone hroom ctx (p % 8) level base va
    refine ⟨htail, faultEntry ctx (p / 8) (p % 8) level va, ?_, faultEntry_fields hctx (by omega) (by omega) level va⟩
    have hslot : s.dev.fbTail.toNat % 8 < 8 := Nat.mod_lt _ (by decide)
    show (s.recordFault ctx (p / 8) (p % 8) .a 0 level base va).dev.fbSlots[s.dev.fbTail.toNat % 8]? = _
    rw [hslots, Vector.getElem?_setIfInBounds_self_of_lt hslot]
  · exact ⟨_, rfl, rfl, rfl, rfl, fun k hk => (s.replayAll_cores hk).elim fun k0 h => h ▸ k0.retry_unparked,
      fun c hc => s.replayAll_clusters hc, fun x hx y hy => s.replayAll_contexts hx hy, rfl, rfl, rfl, rfl, rfl⟩
  · rintro v h rfl
    show execFbHeadWrite v s = _
    unfold execFbHeadWrite State.writeFbHead
    split <;> rfl
  · intro v
    show execTtInval v s = _
    unfold execTtInval
    split <;> rfl
  · intro v hv
    have hexec : exec .ttInvalDone s = execTtInvalDone s := rfl
    rw [hexec, execTtInvalDone, hv]
    refine ⟨_, rfl, rfl, rfl, rfl, fun e => ?_⟩
    rw [← invalHits_eq_true v e.ctx e.base (2 ^ levelShift e.level), Bool.not_eq_true]
    exact List.mem_filter.trans (by rw [Bool.not_eq_true'])

end Sys2Proof.Proofs
end

section
/-! The instructions of the tile table (spec/08_memory.md R146 to R149, spec/10_memory_instructions.md R200). -/

namespace Sys2Proof.Machine

open Sys2Proof.Safety

/-! ### Entries of the tile table -/

theorem State.issued_getEntry (s : State) (i : Instr) (n : Nat) : (s.issued i).core.getEntry n = s.core.getEntry n := by
  rw [Core.getEntry, Core.getEntry, State.issued_core_tileTab]

theorem Core.getEntry_setEntry (k : Core) {n : Nat} (h : n < 64) (e : TileEntry) : (k.setEntry n e).getEntry n = e := by
  rw [Core.getEntry, Core.setEntry, Vector.getElem?_setIfInBounds_self_of_lt h, Option.getD_some]

theorem Core.getEntry_setEntry_of_ne (k : Core) {m n : Nat} (h : m ≠ n) (e : TileEntry) : (k.setEntry m e).getEntry n = k.getEntry n := by
  rw [Core.getEntry, Core.getEntry, Core.setEntry, Vector.getElem?_setIfInBounds_ne h]

/-- The machine with one tile-table entry of the selected core replaced. -/
def State.putEntry (s : State) (n : Nat) (e : TileEntry) : State := { s with core := s.core.setEntry n e }

/-- The machine with the tile of an entry given up (R149). -/
def State.emptyEntry (s : State) (n : Nat) : State := s.putEntry n { s.core.getEntry n with state := .empty }

theorem State.putEntry_cur (s : State) (n : Nat) (e : TileEntry) : (s.putEntry n e).cur = s.cur := rfl

/-- A tile is not busy where no job uses it (R147). -/
theorem TileEntry.busy_eq_false {e : TileEntry} (h : e.state = .empty ∨ e.state = .ready) : e.busy = false := by
  unfold TileEntry.busy
  rcases h with h | h <;> rw [h] <;> rfl

/-- What tdef makes of its two operands (R148, R200). -/
theorem tdefEntry_eq_some {a b : Nat} {e : TileEntry} (h : tdefEntry a b = some e) :
    e = ⟨.ready, bitField a 2 2, 0, 0, bitField a 16 19, bitField b 0 16, bitField b 16 16, bitField b 32 16⟩ := by
  unfold tdefEntry at h
  dsimp only at h
  split_ifs at h
  exact (Option.some.inj h).symm

/-! ### The instructions -/

/-- An issued instruction that then replaces one entry keeps everything else. -/
theorem State.issued_putEntry_keeps (s : State) (i : Instr) (n : Nat) (e : TileEntry) :
    Spec.Past s ((s.issued i).putEntry n e) i ∧ Spec.KeepsRegisters s ((s.issued i).putEntry n e)
      ∧ Spec.KeepsElsewhere s ((s.issued i).putEntry n e) ∧ ((s.issued i).putEntry n e).core.spad = s.core.spad := by
  have hother : ((s.issued i).core.str s.core.sel.other).g = (s.core.str s.core.sel.other).g := by
    rw [State.issued_other_but_resume]
  have hcur : ((s.issued i).putEntry n e).cur.g = s.cur.g := by rw [State.putEntry_cur, State.issued_cur_g]
  exact ⟨⟨rfl, rfl⟩, ⟨s.issued_core_sel i, hcur, hother, s.issued_core_f i, s.issued_core_v i, s.issued_core_tiles i, s.issued_core_aot i⟩,
    ⟨s.issued_cores i, s.issued_clusters i, s.issued_contexts i, s.issued_pool i, s.issued_host i, s.issued_dev i⟩, s.issued_core_spad i⟩

section
variable {s : State}

theorem exec_tdef (h : ReadyA s) {a b : BitVec 5} {e : TileEntry} (he : tdefEntry (s.g a).toNat (s.g b).toNat = some e)
    (hfree : (s.core.getEntry (bitField (s.g a).toNat 8 6)).busy = false) :
    exec (.tdef a b) s = .next ((s.issued (.tdef a b)).putEntry (bitField (s.g a).toNat 8 6) e) := by
  change execTdef a b s = _
  exact issue_completes h.2 rfl (readyA_admits h) rfl rfl (by
    simp only [State.issued_g, State.issued_getEntry, he, hfree, Bool.false_eq_true, if_false, State.putEntry])

theorem exec_tstat (h : ReadyA s) (d a : BitVec 5) :
    exec (.tstat d a) s = .next ((s.issued (.tstat d a)).setG d (.ofNat 64 (s.core.getEntry (tileId (s.g a))).low)) := by
  change execTstat d a s = _
  exact issue_completes h.2 rfl (readyA_admits h) rfl rfl (by simp only [State.issued_g, State.issued_getEntry])

/-- A wait on a ready tile goes on. -/
theorem tileWait_ready (h : ReadyA s) {i : Instr} (hw : i.wellFormed = true) {a : BitVec 5} (after : State → Nat → State)
    (hready : (s.core.getEntry (tileId (s.g a))).state = .ready) : tileWait i a after s = .next (after (s.issued i) (tileId (s.g a))) :=
  issue_completes h.2 hw (readyA_admits h) rfl rfl (by simp only [State.issued_g, State.issued_getEntry, hready])

/-- A wait on an empty tile traps. -/
theorem tileWait_empty (h : ReadyA s) (hmode : s.cur.mode = .user) {i : Instr} (hw : i.wellFormed = true) {a : BitVec 5}
    (after : State → Nat → State) (hempty : (s.core.getEntry (tileId (s.g a))).state = .empty) :
    ∃ t, tileWait i a after s = .next t ∧ Spec.Trapped s t 0x0B (.ofNat 64 (tileId (s.g a))) :=
  issue_traps h.2 hmode hw (readyA_admits h) rfl rfl (by decide) (by simp only [State.issued_g, State.issued_getEntry, hempty])

theorem exec_twait (a : BitVec 5) : exec (.twait a) s = tileWait (.twait a) a (fun t _ => t) s := rfl

theorem exec_trel (a : BitVec 5) : exec (.trel a) s = tileWait (.trel a) a State.emptyEntry s := rfl

theorem exec_trel_ready (h : ReadyA s) {a : BitVec 5} (hready : (s.core.getEntry (tileId (s.g a))).state = .ready) :
    exec (.trel a) s = .next ((s.issued (.trel a)).putEntry (tileId (s.g a)) { s.core.getEntry (tileId (s.g a)) with state := .empty }) := by
  rw [exec_trel, tileWait_ready h rfl State.emptyEntry hready, State.emptyEntry, State.issued_getEntry]

end

end Sys2Proof.Machine

namespace Sys2Proof.Proofs
open Sys2Proof.Machine Sys2Proof.Safety

/-- Settles O31: tdef and trel replace one entry, and twait and trel share the wait `tileWait`. -/
theorem tileInstructionsComplete : Obligations.TileInstructionsComplete := by
  unfold Obligations.TileInstructionsComplete
  intro s a b d h
  have htile : tileId (s.g a) < 64 := Nat.mod_lt _ (by decide)
  refine ⟨?tdef, exec_tstat h d a, fun hready => ⟨?twait, ?trel⟩, fun hempty hmode i hi => ?empty⟩
  case tdef =>
    rintro e _ he rfl hstate
    refine ⟨exec_tdef h he (TileEntry.busy_eq_false hstate), ?_⟩
    obtain rfl := tdefEntry_eq_some he
    exact ⟨rfl, rfl, rfl, congrArg (· % 2 ^ 16) (Nat.div_one _), rfl, rfl⟩
  case twait => exact (exec_twait a).trans (tileWait_ready h rfl _ hready)
  case trel =>
    obtain ⟨hpast, hregs, helse, hspad⟩ := s.issued_putEntry_keeps (.trel a) (tileId (s.g a)) { s.core.getEntry (tileId (s.g a)) with state := .empty }
    refine ⟨_, exec_trel_ready h hready, hpast, hregs, helse, hspad, ?_, fun k hk hne => ?_⟩
    · exact congrArg TileEntry.state (Core.getEntry_setEntry _ htile _)
    · exact (Core.getEntry_setEntry_of_ne _ (Ne.symm hne) _).trans (s.issued_getEntry _ k)
  case empty =>
    rcases hi with rfl | rfl
    · rw [exec_twait]
      exact tileWait_empty h hmode rfl _ hempty
    · rw [exec_trel]
      exact tileWait_empty h hmode rfl _ hempty

end Sys2Proof.Proofs
end

section
/-! Every step keeps pooled and host memory in canonical form (spec/08_memory.md R140, spec/00_scope.md R4): one lemma per operation of the model that
leaves a machine behind, in the order of the model. -/

namespace Sys2Proof.Machine

/-! ### Memories in canonical form, and the updates that touch neither -/

theorem State.physOk_congr {s t : State} (hp : t.pool = s.pool) (hh : t.host = s.host) : t.PhysOk ↔ s.PhysOk := by
  rw [State.PhysOk, State.PhysOk, hp, hh]

@[simp] theorem State.physOk_mk (core : Core) (cores : List Core) (clusters : List Cluster) (contexts : List Context) (pool host : Memory)
    (dev : Device) (agenda : List Turn) (free : Nat) :
    State.PhysOk ⟨core, cores, clusters, contexts, pool, host, dev, agenda, free⟩ ↔ Memory.wf pool = true ∧ Memory.wf host = true := Iff.rfl

@[simp] theorem State.wf_and_wf (s : State) : (Memory.wf s.pool = true ∧ Memory.wf s.host = true) ↔ s.PhysOk := Iff.rfl

@[simp] theorem State.physOk_ite (c : Prop) [Decidable c] (s t : State) :
    (if c then s else t).PhysOk ↔ if c then s.PhysOk else t.PhysOk := by split <;> rfl

theorem State.foldl_physOk {α : Type} {f : State → α → State} (hf : ∀ s x, s.PhysOk → (f s x).PhysOk) {s : State} (h : s.PhysOk) (xs : List α) :
    (xs.foldl f s).PhysOk :=
  List.foldlRecOn xs f h fun s hs x _ => hf s x hs

section
variable (s : State)

@[simp] theorem State.updCur_physOk (f : Stream → Stream) : (s.updCur f).PhysOk ↔ s.PhysOk := Iff.rfl
@[simp] theorem State.setG_physOk (n : BitVec 5) (v : Word) : (s.setG n v).PhysOk ↔ s.PhysOk := Iff.rfl
@[simp] theorem State.setF_physOk (n : Nat) (r : FReg) : (s.setF n r).PhysOk ↔ s.PhysOk := Iff.rfl
@[simp] theorem State.setV_physOk (n : Nat) (r : VReg) : (s.setV n r).PhysOk ↔ s.PhysOk := Iff.rfl
@[simp] theorem State.setPc_physOk (pc : Word) : (s.setPc pc).PhysOk ↔ s.PhysOk := Iff.rfl
@[simp] theorem State.updSys_physOk (f : SysRegs → SysRegs) : (s.updSys f).PhysOk ↔ s.PhysOk := Iff.rfl
@[simp] theorem State.updTask_physOk (f : Task → Task) : (s.updTask f).PhysOk ↔ s.PhysOk := Iff.rfl
@[simp] theorem State.updThis_physOk (f : Core → Core) : (s.updThis f).PhysOk ↔ s.PhysOk := Iff.rfl
@[simp] theorem State.onStream_physOk (x : StreamId) : (s.onStream x).PhysOk ↔ s.PhysOk := Iff.rfl
@[simp] theorem State.updCluster_physOk (id : Nat) (f : Cluster → Cluster) : (s.updCluster id f).PhysOk ↔ s.PhysOk := Iff.rfl
@[simp] theorem State.updCtx_physOk (id : Nat) (f : Context → Context) : (s.updCtx id f).PhysOk ↔ s.PhysOk := Iff.rfl
@[simp] theorem State.updQueue_physOk (ctx q : Nat) (f : Queue → Queue) : (s.updQueue ctx q f).PhysOk ↔ s.PhysOk := Iff.rfl
@[simp] theorem State.updCmd_physOk (ctx q : Nat) (seq : BitVec 32) (f : Command → Command) : (s.updCmd ctx q seq f).PhysOk ↔ s.PhysOk := Iff.rfl
@[simp] theorem State.updFront_physOk (ctx q : Nat) (seq : BitVec 32) (f : Front → Front) : (s.updFront ctx q seq f).PhysOk ↔ s.PhysOk := Iff.rfl
@[simp] theorem State.updPin_physOk (ctx : Nat) (key : BitVec 32) (f : PinKey → PinKey) : (s.updPin ctx key f).PhysOk ↔ s.PhysOk := Iff.rfl
@[simp] theorem State.updDev_physOk (f : Device → Device) : (s.updDev f).PhysOk ↔ s.PhysOk := Iff.rfl
@[simp] theorem State.raiseMsi_physOk (v : Nat) : (s.raiseMsi v).PhysOk ↔ s.PhysOk := Iff.rfl
@[simp] theorem State.setRect_physOk (n : Nat) (r : ContRect) : (s.setRect n r).PhysOk ↔ s.PhysOk := Iff.rfl
@[simp] theorem State.raise_physOk (e : Eff) : (s.raise e).PhysOk ↔ s.PhysOk := Iff.rfl
@[simp] theorem State.updCore_physOk (pid : Nat) (f : Core → Core) : (s.updCore pid f).PhysOk ↔ s.PhysOk :=
  State.physOk_congr (s.updCore_pool pid f) (s.updCore_host pid f)
@[simp] theorem State.select_physOk (pid : Nat) : (s.select pid).PhysOk ↔ s.PhysOk := State.physOk_congr (s.select_pool pid) (s.select_host pid)
@[simp] theorem State.updTaskFront_physOk (f : Front → Front) : (s.updTaskFront f).PhysOk ↔ s.PhysOk :=
  State.physOk_congr (s.updTaskFront_pool f) (s.updTaskFront_host f)

@[simp] theorem State.touch_physOk (ctx : Nat) (atomic : Bool) (cs : List Chunk) : (s.touch ctx atomic cs).PhysOk ↔ s.PhysOk :=
  have h := s.touch_onlyDevice ctx atomic cs
  State.physOk_congr h.pool h.host

@[simp] theorem State.cleanTile_physOk (pid t : Nat) : (State.cleanTile pid s t).PhysOk ↔ s.PhysOk := by simp [State.cleanTile]
@[simp] theorem State.cleanWords_physOk (words : List Nat) : (s.cleanWords words).PhysOk ↔ s.PhysOk := by simp [State.cleanWords]
@[simp] theorem State.cleanRegs_physOk (rs : List Reg) : (s.cleanRegs rs).PhysOk ↔ s.PhysOk := by simp [State.cleanRegs]
@[simp] theorem State.cleanUnits_physOk (gone : PoisonUnit → Bool) : (s.cleanUnits gone).PhysOk ↔ s.PhysOk := by simp [State.cleanUnits]
@[simp] theorem State.poisonUnits_physOk (us : List PoisonUnit) : (s.poisonUnits us).PhysOk ↔ s.PhysOk := Iff.rfl

/-! ### Ends of tasks, traps and waits -/

@[simp] theorem State.recordFault_physOk (ctx cluster cidx : Nat) (st : StreamId) (kind level base : Nat) (va : Word) :
    (s.recordFault ctx cluster cidx st kind level base va).PhysOk ↔ s.PhysOk := by
  simp [State.recordFault]

theorem State.takeRecord_physOk {s t : State} {pid first ctx : Nat} {p : PinKey} {held : Bool} {bs : List Byte}
    (ht : s.takeRecord pid first ctx p held bs = some t) (h : s.PhysOk) : t.PhysOk := by
  unfold State.takeRecord at ht
  simp only [] at ht
  split at ht
  · cases ht
  · cases ht
    rw [State.updPin_physOk]
    exact State.foldl_physOk (fun s t h => (s.cleanTile_physOk pid t).mpr h) ((s.updCore_physOk _ _).mpr h) _

theorem State.drainTile_physOk {s : State} (h : s.PhysOk) (op : LongOp) (d : Nat) : (s.drainTile op d).1.PhysOk := by
  unfold State.drainTile
  dsimp only
  split
  · exact h
  split
  · exact h
  split
  · exact h
  split
  · exact h
  · simpa using h
  split
  · exact h
  · next ht => simpa using State.takeRecord_physOk ht ((s.touch_physOk _ _ _).mpr h)

theorem State.finishDrain_physOk {s : State} (h : s.PhysOk) (op : LongOp) : (s.finishDrain op).PhysOk := by
  unfold State.finishDrain
  split
  · next d _ _ =>
    have hdrain := State.drainTile_physOk h op d
    split
    · next heq => rwa [heq] at hdrain
    · next heq =>
      rw [heq] at hdrain
      simpa using hdrain
  · exact h

@[simp] theorem State.frontEnd_physOk (ctx q : Nat) (seq : BitVec 32) : (s.frontEnd ctx q seq).PhysOk ↔ s.PhysOk := by simp [State.frontEnd]

@[simp] theorem State.leave_physOk : s.leave.PhysOk ↔ s.PhysOk := by
  unfold State.leave
  split <;> simp

@[simp] theorem State.exitTrigger_physOk : s.exitTrigger.PhysOk ↔ s.PhysOk := by
  unfold State.exitTrigger
  split <;> simp

@[simp] theorem State.freeze_physOk (cause : Nat) : (s.freeze cause).PhysOk ↔ s.PhysOk :=
  have ⟨_, _, _, hpool, hhost, _⟩ := s.freeze_keeps cause
  State.physOk_congr hpool hhost

@[simp] theorem State.beginHandler_physOk : s.beginHandler.PhysOk ↔ s.PhysOk := State.physOk_congr s.beginHandler_pool s.beginHandler_host

@[simp] theorem State.stopHere_physOk : s.stopHere.PhysOk ↔ s.PhysOk := Iff.rfl

@[simp] theorem State.returnFromTrap_physOk : s.returnFromTrap.PhysOk ↔ s.PhysOk := Iff.rfl

@[simp] theorem State.stampTrap_physOk : s.stampTrap.PhysOk ↔ s.PhysOk := Iff.rfl

end

section
variable {s : State} (h : s.PhysOk)
include h

theorem State.endTask_physOk (killed : Option Nat) : (s.endTask killed).PhysOk := by
  have hdrains : (if killed.isSome then s.core.c.flight.foldl State.finishDrain s.leave else s.leave).PhysOk := by
    split
    · exact State.foldl_physOk (fun s op h => State.finishDrain_physOk h op) (s.leave_physOk.mpr h) _
    · exact s.leave_physOk.mpr h
  unfold State.endTask
  split
  · exact h
  · dsimp only
    split <;> simpa using hdrains

theorem State.killTask_physOk (cause : Nat) : (s.killTask cause).PhysOk := by
  unfold State.killTask
  split
  · split <;> simpa using State.endTask_physOk h (some cause)
  · exact h

theorem State.settleEnd_physOk : s.settleEnd.PhysOk := by
  unfold State.settleEnd
  split
  · dsimp only
    split
    · exact State.killTask_physOk (by simpa using h) _
    · have hexit : s.leave.exitTrigger.PhysOk := by simpa using h
      simp [State.endTask_physOk hexit, hexit]
  · exact h

theorem State.killRect_physOk (n cause : Nat) (who : Option (Nat × Nat × BitVec 32 × Nat)) : (s.killRect n cause who).PhysOk := by
  unfold State.killRect
  simp only
  split <;> exact h

theorem State.consumePoison_physOk (val pc : Word) : (s.consumePoison val pc).PhysOk := by
  unfold State.consumePoison
  dsimp only
  split
  · exact State.killRect_physOk (by simpa using h) ..
  · exact h

theorem State.doubleTrap_physOk : s.doubleTrap.PhysOk := State.killTask_physOk h _

theorem State.takeTrap_physOk (cause : Nat) (val pc point : Word) (named : Option Nat) (waits : Bool) :
    (s.takeTrap cause val pc point named waits).PhysOk := by
  unfold State.takeTrap
  dsimp only
  split
  · exact State.consumePoison_physOk h val pc
  split
  · exact State.doubleTrap_physOk h
  · simpa using h

theorem State.waitAt_physOk (w : Wait) : (s.waitAt w).PhysOk := by
  unfold State.waitAt
  dsimp only
  split
  · exact h
  split
  · exact h
  split
  · exact State.settleEnd_physOk (by simpa using h)
  split
  · split
    · exact State.takeTrap_physOk (by simpa using h) ..
    · simpa using h
  · exact h

theorem State.trapAt_physOk (cause : Nat) (val : Word) : (s.trapAt cause val).PhysOk := by
  unfold State.trapAt
  split
  · exact State.takeTrap_physOk h ..
  · exact h

theorem State.parkAt_physOk (kind level base : Nat) (va : Word) : (s.parkAt kind level base va).PhysOk := by
  have hfault := fun ctx cl ci st => (s.recordFault_physOk ctx cl ci st kind level base va).mpr h
  unfold State.parkAt
  dsimp only
  split
  · split
    · exact State.trapAt_physOk (hfault ..) ..
    · exact State.trapAt_physOk h ..
  · exact State.waitAt_physOk (hfault ..) _

theorem State.dueTrap_physOk {t : State} (ht : s.dueTrap = some t) : t.PhysOk := by
  unfold State.dueTrap at ht
  dsimp only at ht
  repeat' split at ht
  all_goals cases ht
  · exact State.doubleTrap_physOk h
  · exact State.takeTrap_physOk (by simpa using h) ..
  · exact State.takeTrap_physOk h ..
  · exact h
  · exact State.takeTrap_physOk (by simpa using h) ..
  · exact h
  · exact h

end

end Sys2Proof.Machine
end

section
/-! Accesses where they are performed, the order log, and the events of stores and atomics keep the canonical form (spec/14_ordering.md R261 to R270,
spec/24_retirement.md R344 to R346). -/

namespace Sys2Proof.Machine

/-- Every machine that performing an access leaves has its memories in canonical form. -/
def Served.PhysOk : Served → Prop
  | .ok s _ => s.PhysOk
  | _ => True

section
variable (s : State)

@[simp] theorem State.tried_physOk : s.tried.PhysOk ↔ s.PhysOk := Iff.rfl
@[simp] theorem State.countAccess_physOk : s.countAccess.PhysOk ↔ s.PhysOk := Iff.rfl
@[simp] theorem State.ackId_physOk (id : Nat) : (s.ackId id).PhysOk ↔ s.PhysOk := Iff.rfl

@[simp] theorem State.servedAt_physOk (e : Executor) (place : Nat × Nat) (pid : Nat) : (s.servedAt e place pid).PhysOk ↔ s.PhysOk := by
  cases e <;> rfl

@[simp] theorem State.setBits_physOk (pid w n : Nat) (b : Bool) : (s.setBits pid w n b).PhysOk ↔ s.PhysOk := by simp [State.setBits]

end

section
variable {s : State} (h : s.PhysOk)
include h

theorem State.onCore_physOk (pid : Nat) {f : State → State} (hf : ∀ t, t.PhysOk → (f t).PhysOk) : (s.onCore pid f).PhysOk := by
  rw [State.onCore, State.select_physOk]
  exact hf _ ((s.select_physOk pid).mpr h)

theorem State.readBytes_physOk {w : Who} {acc : Acc} {addr : Word} {n : Nat} {t : State} {bs : List Byte}
    (ht : s.readBytes w acc addr n = .ok t bs) : t.PhysOk := by
  unfold State.readBytes at ht
  repeat' split at ht
  all_goals cases ht
  simpa using h

theorem State.writeBytes_physOk {w : Who} {acc : Acc} {addr : Word} {bs out : List Byte} {t : State}
    (ht : s.writeBytes w acc addr bs = .ok t out) : t.PhysOk := by
  unfold State.writeBytes at ht
  split at ht
  all_goals cases ht
  exact State.pokeAll_physOk _ _ _ (by simpa using h)

theorem State.doAtomic_physOk (w : Who) (op : AtomicOp) (n : Nat) (addr v c : Word) : (s.doAtomic w op n addr v c).PhysOk := by
  unfold State.doAtomic
  split
  · trivial
  · trivial
  split
  · trivial
  dsimp only
  split
  · exact State.pokeAll_physOk _ _ _ (by simpa using h)
  · exact (State.touch_physOk ..).mpr h

theorem State.doRequest_physOk (k : Core) (r : Request) : (s.doRequest k r).PhysOk := by
  unfold State.doRequest
  split
  · exact State.doAtomic_physOk h ..
  · split
    · next ht => exact State.writeBytes_physOk h ht
    all_goals trivial

/-! ### The order log (R345, R346) -/

theorem State.readEntries_physOk (w : Who) (n : Nat) : (s.readEntries w n).PhysOk := by
  refine State.foldl_physOk (fun t i ht => ?_) h _
  split
  · next hread => exact State.readBytes_physOk ht hread
  · exact ht

theorem State.logServedAt_physOk (k : LogKind) (r : Served0) (place : Word) : (s.logServedAt k r place).PhysOk := by
  unfold State.logServedAt
  dsimp only
  split
  · split
    · exact h
    · rw [State.updCtx_physOk]
      split
      · next hwrite => exact State.writeBytes_physOk h hwrite
      · exact h
  split
  · split
    · exact (State.updCtx_physOk ..).mpr (State.readEntries_physOk h _ _)
    · exact h
  · exact h

theorem State.logServed_physOk (k : LogKind) (r : Served0) (addr : Word) (cs : List Chunk) : (s.logServed k r addr cs).PhysOk := by
  unfold State.logServed
  split
  · exact h
  · exact State.foldl_physOk (fun t place ht => State.logServedAt_physOk ht k r place) h _

/-! ### Accesses that end in a trap, or park (R159, R363, R364) -/

theorem State.opTrap_physOk (x : StreamId) (op : LongOp) (cause : Nat) (val : Word) : (s.opTrap x op cause val).PhysOk := by
  have htried : (if cause = 0x07 then s.tried else s).PhysOk := by simpa using h
  unfold State.opTrap
  split
  · exact State.consumePoison_physOk (by simpa using h) ..
  · dsimp only
    split
    · exact State.doubleTrap_physOk htried
    · exact htried

theorem State.opFault_physOk (x : StreamId) (op : LongOp) (ctx pid kind level base : Nat) (va : Word) :
    (s.opFault x op ctx pid kind level base va).PhysOk := by
  unfold State.opFault
  dsimp only
  split
  · exact State.opTrap_physOk (by simpa using h) ..
  · simpa using h

theorem State.refuse_physOk (sup : Bool) (cause : Nat) (addr : Word) : (s.refuse sup cause addr).PhysOk := by
  have htried : (if cause = 0x07 then s.tried else s).PhysOk := by simpa using h
  unfold State.refuse
  split
  · exact State.consumePoison_physOk h ..
  split
  · exact State.doubleTrap_physOk htried
  split
  · exact htried
  · exact h

theorem State.refuseDead_physOk (cause : Nat) : (s.refuseDead cause).PhysOk := by
  unfold State.refuseDead
  split
  · split
    · exact State.killRect_physOk h ..
    · exact h
  · simpa using h

theorem State.askRefused_physOk (a : Ask) (cause : Nat) : (s.askRefused a cause).PhysOk := by
  unfold State.askRefused
  split
  · dsimp only
    split
    · exact State.refuse_physOk (by simpa using h) ..
    · exact State.refuseDead_physOk (by simpa using h) _
  · split
    · exact State.opTrap_physOk h ..
    · exact h

theorem State.askFault_physOk (a : Ask) (level base : Nat) (va : Word) : (s.askFault a level base va).PhysOk := by
  unfold State.askFault
  split
  · dsimp only
    split
    · exact State.askRefused_physOk (by simpa using h) ..
    · simpa using h
  · split
    · exact State.opFault_physOk h ..
    · exact h

/-! ### Serving (R198, R199, R269) -/

/-- What serving at an executor leaves beside the access itself: the log's entry, the engine's order, and the line that the engine then holds. -/
theorem State.afterServing_physOk (e : Executor) (r : Served0) (a : Ask) (cs : List Chunk) :
    State.PhysOk (match e with
      | .engine c => ((match e.log with
        | some k => s.logServed k r a.addr cs
        | none => s).servedAt e (placeOf cs) a.pid).updCluster c (fun x => x.hold cs)
      | _ => match e.log with
        | some k => s.logServed k r a.addr cs
        | none => s) := by
  cases e with
  | home _ => exact State.logServed_physOk h ..
  | engine _ => exact (State.servedAt_physOk ..).mpr (State.logServed_physOk h ..)
  | direct => exact h

theorem State.perform_physOk (a : Ask) (cs : List Chunk) : (s.perform a cs).PhysOk := by
  unfold State.perform
  dsimp only
  generalize s.executorNow a.pid a.sc a.kind cs = e
  rcases a.kind with data | ⟨op, n, v, c⟩
  · exact State.afterServing_physOk (State.pokeAll_physOk _ _ _ ((State.touch_physOk ..).mpr h)) e _ a cs
  · have hatomic := State.doAtomic_physOk h a.who op n a.addr v c
    revert hatomic
    dsimp only
    cases s.doAtomic a.who op n a.addr v c with
    | ok s1 old => exact fun h1 => State.afterServing_physOk h1 e _ a cs
    | refused c => exact fun _ => State.askRefused_physOk h ..
    | fault l b va => exact fun _ => State.askFault_physOk h ..

end

theorem State.drainLine_physOk {s : State} (h : s.PhysOk) (cluster : Nat) (place : Nat × Nat) (n : Nat) : (s.drainLine cluster place n).PhysOk := by
  induction n generalizing s with
  | zero => exact h
  | succ n ih =>
    unfold State.drainLine
    split
    · exact h
    split
    · exact ih (State.onCore_physOk h _ fun t ht => State.perform_physOk ht ..)
    · exact h

section
variable {s : State} (h : s.PhysOk)
include h

theorem State.giveUp_physOk (cluster : Nat) (place : Nat × Nat) : (s.giveUp cluster place).PhysOk :=
  State.drainLine_physOk h cluster place _

theorem State.recall_physOk (by_ : Option Nat) (cs : List Chunk) : (s.recall by_ cs).PhysOk :=
  State.foldl_physOk (fun _ x ht => State.giveUp_physOk ht x.1 x.2) h _

theorem State.recallAt_physOk (by_ : Option Nat) (w : Who) (acc : Acc) (addr : Word) (n : Nat) : (s.recallAt by_ w acc addr n).PhysOk := by
  unfold State.recallAt
  split
  · exact State.recall_physOk h ..
  · exact h

theorem State.serve_physOk (a : Ask) (here : Executor → Bool) : (s.serve a here).PhysOk := by
  unfold State.serve
  split
  · exact h
  split
  · dsimp only
    split
    · split
      · exact State.perform_physOk (State.recall_physOk h ..) ..
      · exact State.recall_physOk h ..
    · exact h
  · exact State.askRefused_physOk h ..
  · exact State.askFault_physOk h ..

theorem State.onAsk_physOk (pid : Nat) (ref : ReqRef) {f : Ask → State → State} (hf : ∀ a t, t.PhysOk → (f a t).PhysOk) :
    (s.onAsk pid ref f).PhysOk := by
  refine State.onCore_physOk h pid fun t ht => ?_
  split
  · exact State.settleEnd_physOk (hf _ _ ht)
  · exact ht

end

end Sys2Proof.Machine
end

section
/-! Instructions as they issue keep the canonical form: the frame of an issue, and what each shape of instruction does in it (spec/06_encoding.md R123). -/

namespace Sys2Proof.Machine

/-- A step's answer, where it is a next state, has its memories in canonical form. -/
def Out.PhysOk : Out → Prop
  | .next s => s.PhysOk
  | _ => True

/-- Every machine that an instruction leaves past its checks has its memories in canonical form. -/
def Res.PhysOk : Res → Prop
  | .done s => s.PhysOk
  | .after s _ _ => s.PhysOk
  | .hold s _ => s.PhysOk
  | _ => True

@[simp] theorem Res.physOk_done (s : State) : (Res.done s).PhysOk ↔ s.PhysOk := Iff.rfl
@[simp] theorem Res.physOk_after (s : State) (c : Nat) (v : Word) : (Res.after s c v).PhysOk ↔ s.PhysOk := Iff.rfl
@[simp] theorem Res.physOk_hold (s : State) (w : Wait) : (Res.hold s w).PhysOk ↔ s.PhysOk := Iff.rfl
@[simp] theorem Res.physOk_trap (c : Nat) (v : Word) : (Res.trap c v).PhysOk := trivial
@[simp] theorem Res.physOk_wait (w : Wait) : (Res.wait w).PhysOk := trivial
@[simp] theorem Res.physOk_park (kind level base : Nat) (va : Word) : (Res.park kind level base va).PhysOk := trivial

@[simp] theorem Res.physOk_ite (c : Prop) [Decidable c] (r r' : Res) : (if c then r else r').PhysOk ↔ if c then r.PhysOk else r'.PhysOk := by
  split <;> rfl

theorem Res.PhysOk.ite {c : Prop} [Decidable c] {r r' : Res} (h : r.PhysOk) (h' : r'.PhysOk) : (if c then r else r').PhysOk := by
  split
  · exact h
  · exact h'

/-! ### Registers, queues and long-latency instructions -/

section
variable (s : State)

@[simp] theorem State.issued_physOk (i : Instr) : (s.issued i).PhysOk ↔ s.PhysOk := State.physOk_congr (s.issued_pool i) (s.issued_host i)
@[simp] theorem State.launchOp_physOk (i : Instr) (pc : Word) (la : Nat) (dests : List Reg) (work : Work) (joint part : Bool) (status : OpStatus) :
    (s.launchOp i pc la dests work joint part status).PhysOk ↔ s.PhysOk := Iff.rfl
@[simp] theorem State.launchG_physOk (i : Instr) (pc : Word) (d : BitVec 5) (la : BitVec 4) (v : Word) :
    (s.launchG i pc d la v).PhysOk ↔ s.PhysOk := Iff.rfl
@[simp] theorem State.pushQ_physOk (q : Nat) (filled : Bool) (bits : BitVec 512) (fmt : BitVec 16) :
    (s.pushQ q filled bits fmt).PhysOk ↔ s.PhysOk := by simp [State.pushQ]
@[simp] theorem State.putV_physOk (d : BitVec 5) (r : VReg) : (s.putV d r).PhysOk ↔ s.PhysOk := by simp [State.putV]
@[simp] theorem State.pushFence_physOk (acq rel : Bool) (sc : Nat) (pc : Word) : (s.pushFence acq rel sc pc).PhysOk ↔ s.PhysOk := Iff.rfl
@[simp] theorem State.acquire_physOk (sc : Nat) : (s.acquire sc).PhysOk ↔ s.PhysOk := Iff.rfl

@[simp] theorem State.finishV_physOk (v : VecForm) (pc : Word) (r : VReg) (e : Eff) : (s.finishV v pc r e).PhysOk ↔ s.PhysOk := by
  unfold State.finishV
  split
  · simp
  · split <;> rfl

@[simp] theorem State.launchLate_physOk (was : State) (i : Instr) (la : Option (BitVec 4)) (dests : List Reg) (push : Option (Nat × BitVec 16))
    (xs : List Src) : (s.launchLate was i la dests push xs).PhysOk ↔ s.PhysOk := by
  cases push <;> rfl

end

section
variable {s : State} (h : s.PhysOk)
include h

theorem State.popQ_physOk {q : Nat} {x : State × QEntry} (hx : s.popQ q = some x) : x.1.PhysOk := by
  unfold State.popQ at hx
  split at hx
  · cases hx
  · cases hx
    exact h

omit h in
theorem State.takeV_physOk {s : State} (h : s.PhysOk) {ns : List (BitVec 5)} {t : State} {xs : List Src} (ht : s.takeV ns = .ok t xs) :
    t.PhysOk := by
  induction ns generalizing s t xs with
  | nil =>
    obtain ⟨rfl, -⟩ := Took.ok.inj (show Took.ok s [] = .ok t xs from ht)
    exact h
  | cons n ns ih =>
    by_cases hreg : n.toNat < 24
    · have hreads := (if_pos hreg).symm.trans ht
      split at hreads
      · next hrest =>
        obtain ⟨rfl, -⟩ := Took.ok.inj hreads
        exact ih h hrest
      · cases hreads
    · have hpops := (if_neg hreg).symm.trans ht
      split at hpops
      · cases hpops
      split at hpops
      · cases hpops
      · next hpop =>
        split at hpops
        · next hrest =>
          obtain ⟨rfl, -⟩ := Took.ok.inj hpops
          exact ih (State.popQ_physOk h hpop) hrest
        · cases hpops

/-! ### The frame of an issue -/

theorem State.standHere_physOk : s.standHere.PhysOk := by
  unfold State.standHere
  split <;> exact State.waitAt_physOk h _

/-- What an issue leaves is what the instruction leaves past it, or a trap or a wait before it. -/
theorem issue_physOk (fm : Form) {k : State → Res} (hk : ∀ t, t.PhysOk → (k t).PhysOk) : (issue fm s k).PhysOk := by
  have hres := hk (s.issued fm.instr) ((s.issued_physOk _).mpr h)
  unfold issue
  split
  · exact h
  split
  · next hdue => exact State.dueTrap_physOk h hdue
  split
  · exact State.standHere_physOk h
  dsimp only
  split
  · exact State.trapAt_physOk h ..
  split
  · exact State.trapAt_physOk h ..
  split
  · exact State.trapAt_physOk h ..
  split
  · exact State.waitAt_physOk h _
  split
  · exact State.waitAt_physOk h _
  split
  · exact State.trapAt_physOk h ..
  revert hres
  cases k (s.issued fm.instr) with
  | done t =>
    intro ht
    dsimp only
    split
    · exact ht
    split
    · exact State.trapAt_physOk h ..
    · exact (State.cleanRegs_physOk ..).mpr ht
  | trap c v => exact fun _ => State.trapAt_physOk h ..
  | after t c v => exact fun ht => State.takeTrap_physOk ht ..
  | wait w => exact fun _ => State.waitAt_physOk h w
  | hold t w => exact fun ht => State.waitAt_physOk ht w
  | park kind level base va => exact fun _ => State.parkAt_physOk h ..

omit h in
theorem State.partRoom_physOk {s : State} (was : Option Wait) {k : Res} (hk : k.PhysOk) : (s.partRoom was k).PhysOk := by
  unfold State.partRoom
  split
  · trivial
  · exact hk

theorem jumpTo_physOk (t : Word) : (jumpTo t s).PhysOk := by
  simpa [jumpTo] using fun _ => h

/-! ### The shapes of scalar, vector and float instructions -/

theorem shortG_physOk (i : Instr) (d : BitVec 5) (reads : List (BitVec 5)) (f : State → Word) : (shortG i d reads f s).PhysOk :=
  issue_physOk h _ fun _ ht => ht

theorem longG_physOk (i : Instr) (d a b : BitVec 5) (la : BitVec 4) (f : Word → Word → Word) : (longG i d a b la f s).PhysOk :=
  issue_physOk h _ fun _ ht => ht

theorem longDiv_physOk (i : Instr) (d a b : BitVec 5) (la : BitVec 4) (f : Word → Word → Word) : (longDiv i d a b la f s).PhysOk :=
  issue_physOk h _ fun _ ht => by simp [ht]

theorem execVec_physOk (v : VecForm) (tags : List (BitVec 16) → Option (BitVec 16)) (run : State → BitVec 16 → List VReg → VOut) :
    (execVec v tags run s).PhysOk := by
  refine issue_physOk h _ fun t ht => ?_
  split
  · trivial
  · next htake =>
    have h2 := State.takeV_physOk ht htake
    split
    · trivial
    split
    · trivial
    split
    · trivial
    · simp [h2]

theorem vectorReduce_physOk (i : Instr) (d a : BitVec 5) (k : BitVec 2) (f pol me : BitVec 1) (la : BitVec 4)
    (run : Modes → Nat → List Val → List Int → Nat × Eff) : (vectorReduce i d a k f pol me la run s).PhysOk := by
  unfold vectorReduce
  dsimp only
  refine issue_physOk h _ fun t ht => ?_
  split
  · trivial
  · next htake =>
    have h2 := State.takeV_physOk ht htake
    split
    · exact h2
    split
    · trivial
    · simp [h2]

theorem longF_physOk (i : Instr) (d a b : BitVec 5) (two : Bool) (la : BitVec 4) (ok : FArgs → Option (BitVec 16))
    (run : Modes → FArgs → Nat × Eff) : (longF i d a b two la ok run s).PhysOk := by
  refine issue_physOk h _ fun t ht => ?_
  dsimp only
  split
  · trivial
  · exact ht

theorem shortF_physOk (i : Instr) (d a b : BitVec 5) (two : Bool) (ok : FArgs → Option (BitVec 16)) (run : FArgs → Nat × Eff) :
    (shortF i d a b two ok run s).PhysOk := by
  refine issue_physOk h _ fun t ht => ?_
  dsimp only
  split
  · trivial
  · exact ht

theorem fCompare_physOk (i : Instr) (d a b : BitVec 5) (c : Nat) : (fCompare i d a b c s).PhysOk := by
  refine issue_physOk h _ fun t ht => ?_
  dsimp only
  split
  · trivial
  · simp [ht]

theorem fPart_physOk (i : Instr) (d a : BitVec 5) (f : Val → Word) : (fPart i d a f s).PhysOk :=
  issue_physOk h _ fun t ht => by simp [ht]

theorem fRational_physOk (i : Instr) (d a b : BitVec 5) (la : BitVec 4) (run : Modes → Bool → Val → Word → Nat × Eff) :
    (fRational i d a b la run s).PhysOk :=
  issue_physOk h _ fun t ht => by simp [ht]

theorem vectorPivot_physOk (i : Instr) (regularise : Bool) (d a b : BitVec 5) (k : BitVec 2) (me : BitVec 1) :
    (vectorPivot i regularise d a b k me s).PhysOk := by
  unfold vectorPivot
  dsimp only
  refine issue_physOk h _ fun t ht => ?_
  split
  · trivial
  split
  · exact ht
  · simp [ht]

end

end Sys2Proof.Machine
end

section
/-! The instructions of the A-stream that use memory, tiles, copy units, fences, barriers and levels keep the canonical form (spec/10_memory_instructions.md,
spec/15_sync_instructions.md), and so do the system and trap instructions (spec/21_system_instructions.md). -/

namespace Sys2Proof.Machine

section
variable {s : State} (h : s.PhysOk)
include h

/-! ### Loads, stores and atomics -/

theorem State.issueStore_physOk (addr : Word) (kind : ReqKind) (sc : Nat) : (s.issueStore addr kind sc).PhysOk := by
  unfold State.issueStore
  dsimp only
  split
  · simp [h]
  split
  · simp [h]
  split
  · trivial
  · exact State.pokeAll_physOk _ _ _ h

theorem scalarLoad_physOk (i : Instr) (sext : Bool) (d a : BitVec 5) (off : BitVec 9) (sz : BitVec 2) (la : BitVec 4) :
    (scalarLoad i sext d a off sz la s).PhysOk := by
  refine issue_physOk h _ fun t ht => ?_
  dsimp only
  split
  · trivial
  · exact ht

theorem execSt_physOk (a b : BitVec 5) (off : BitVec 13) (sz : BitVec 2) : (execSt a b off sz s).PhysOk := by
  refine issue_physOk h _ fun t ht => ?_
  dsimp only
  split
  · trivial
  · exact State.issueStore_physOk ht ..

theorem execLdq_physOk (q : BitVec 3) (a : BitVec 5) (off : BitVec 9) (tag la : BitVec 4) : (execLdq q a off tag la s).PhysOk := by
  unfold execLdq
  dsimp only
  refine issue_physOk h _ fun t ht => ?_
  split
  · trivial
  split
  · trivial
  · exact ht

theorem execStq_physOk (q : BitVec 3) (a : BitVec 5) (off : BitVec 9) : (execStq q a off s).PhysOk := by
  refine issue_physOk h _ fun t ht => ?_
  dsimp only
  split
  · trivial
  · next hpop =>
    have h2 := State.popQ_physOk ht hpop
    split
    · trivial
    split
    · exact State.issueStore_physOk h2 ..
    · simp [h2]

/-- The plan of an element form, where there is one, comes with its memories in canonical form. -/
def Planned.PhysOk : Planned → Prop
  | .ok s _ => s.PhysOk
  | _ => True

theorem State.planStrided_physOk (i : Instr) (base sel : Word) : (s.planStrided i base sel).PhysOk := by
  unfold State.planStrided
  dsimp only
  split
  · trivial
  split
  · split
    · trivial
    split
    · trivial
    · simpa [Planned.PhysOk] using h
    · trivial
  · exact h

theorem State.planIndexed_physOk (base list : Word) : (s.planIndexed base list).PhysOk := by
  unfold State.planIndexed
  split
  · trivial
  · exact h

theorem elemLoad_physOk (i : Instr) (q : BitVec 3) (a b : BitVec 5) (tag : BitVec 4) (esz : BitVec 3) (la : BitVec 4) {plan : State → Planned}
    (hplan : ∀ t, t.PhysOk → (plan t).PhysOk) : (elemLoad i q a b tag esz la plan s).PhysOk := by
  refine issue_physOk h _ fun t ht => ?_
  split
  · trivial
  · refine State.partRoom_physOk _ ?_
    have hp := hplan t ht
    split
    · trivial
    · trivial
    · next heq =>
      rw [heq] at hp
      exact hp

theorem elemStore_physOk (i : Instr) (q : BitVec 3) (a b : BitVec 5) (esz : BitVec 3) {plan : State → Planned}
    (hplan : ∀ t, t.PhysOk → (plan t).PhysOk) : (elemStore i q a b esz plan s).PhysOk := by
  refine issue_physOk h _ fun t ht => ?_
  split
  · trivial
  · next hpop =>
    refine State.partRoom_physOk _ ?_
    have hp := hplan _ (State.popQ_physOk ht hpop)
    split
    · trivial
    · trivial
    · next heq =>
      rw [heq] at hp
      have h3 : State.PhysOk _ := hp
      dsimp only
      split
      · exact h3
      · trivial

theorem execLds_physOk (d a : BitVec 5) (off : BitVec 9) (la : BitVec 4) : (execLds d a off la s).PhysOk := by
  unfold execLds
  dsimp only
  refine issue_physOk h _ fun t ht => ?_
  split
  · trivial
  · exact ht

theorem execLdsq_physOk (q : BitVec 3) (a off : BitVec 5) (tag la : BitVec 4) : (execLdsq q a off tag la s).PhysOk := by
  unfold execLdsq
  dsimp only
  refine issue_physOk h _ fun t ht => ?_
  split
  · trivial
  split
  · trivial
  · exact ht

theorem State.denyAt_physOk (addr : Word) : (s.denyAt addr).PhysOk := by simp [State.denyAt, h]

theorem State.syncStore_physOk {before : State} (hb : before.PhysOk) (addr : Word) (data : List Byte) :
    (s.syncStore before addr data).PhysOk := by
  have hpoke := fun cs => State.pokeAll_physOk (s.touch s.who.ctx false cs) cs data ((State.touch_physOk ..).mpr h)
  unfold State.syncStore
  dsimp only
  split
  · exact State.denyAt_physOk hb addr
  · trivial
  · split
    · exact hb
    split
    · exact hb
    split
    · split
      · exact hpoke _
      · exact hb
    split
    · trivial
    split
    · exact hb
    · exact State.logServed_physOk ((State.setBits_physOk ..).mpr (hpoke _)) ..

theorem execSts_physOk (a b : BitVec 5) (off : BitVec 9) : (execSts a b off s).PhysOk := by
  refine issue_physOk h _ fun t ht => ?_
  dsimp only
  split
  · trivial
  · exact State.syncStore_physOk ((State.countAccess_physOk _).mpr ht) h ..

theorem State.takeSync_physOk {q : Nat} {x : State × QEntry} (hx : s.takeSync q = some x) : x.1.PhysOk := by
  unfold State.takeSync at hx
  split at hx
  · cases hx
    exact h
  · exact State.popQ_physOk h hx

theorem State.keepTaken_physOk (q : Nat) (e : QEntry) : (s.keepTaken q e).PhysOk := by
  unfold State.keepTaken
  split
  · exact h
  split
  · next hpop => exact State.popQ_physOk h hpop
  · exact h

theorem execStsq_physOk (q : BitVec 3) (a off : BitVec 5) : (execStsq q a off s).PhysOk := by
  refine issue_physOk h _ fun t ht => ?_
  dsimp only
  split
  · trivial
  · next htake =>
    have h2 := State.takeSync_physOk ht htake
    have hkeep := fun e => State.keepTaken_physOk h (queueNo q) e
    split
    · trivial
    split
    · trivial
    split
    · exact State.syncStore_physOk ((State.countAccess_physOk _).mpr h2) (hkeep _) ..
    · exact hkeep _

theorem atomicOp_physOk (i : Instr) (op : AtomicOp) (d a b : BitVec 5) (w rt : BitVec 1) (sc : BitVec 3) :
    (atomicOp i op d a b w rt sc s).PhysOk := by
  refine issue_physOk h _ fun t ht => ?_
  dsimp only
  split
  · trivial
  split
  · exact ht
  · exact State.issueStore_physOk ht ..

/-! ### Tiles and copies -/

theorem execTdef_physOk (a b : BitVec 5) : (execTdef a b s).PhysOk := by
  refine issue_physOk h _ fun t ht => ?_
  dsimp only
  split
  · trivial
  · simp [ht]

theorem tileWait_physOk (i : Instr) (a : BitVec 5) {after : State → Nat → State} (hafter : ∀ t n, t.PhysOk → (after t n).PhysOk) :
    (tileWait i a after s).PhysOk := by
  refine issue_physOk h _ fun t ht => ?_
  dsimp only
  split
  · trivial
  · exact hafter _ _ ht
  · trivial

theorem execCpgo_physOk (d : BitVec 5) : (execCpgo d s).PhysOk := by
  unfold execCpgo
  dsimp only
  refine issue_physOk h _ fun t ht => ?_
  split
  · trivial
  split
  · trivial
  split
  · trivial
  split
  · trivial
  split
  · trivial
  · have haccept : ∀ c id born, (t.acceptJob c d id born).PhysOk := fun _ _ _ => ht
    simp [ht, haccept]

theorem execCpwait_physOk (a : BitVec 5) : (execCpwait a s).PhysOk := issue_physOk h _ fun t ht => by simp [ht]

/-! ### Fences, barriers, domains and gangs -/

theorem fenceOp_physOk (i : Instr) (acq rel : Bool) (sc : BitVec 3) : (fenceOp i acq rel sc s).PhysOk := issue_physOk h _ fun _ ht => ht

theorem State.waitOn_physOk (cs : List Chunk) (w : Wait) : (s.waitOn cs w).PhysOk := by simp [State.waitOn, h]

omit h in
theorem State.barrierAt_error_physOk {before : State} (hb : before.PhysOk) {addr : Word} {r : Res} (hr : s.barrierAt before addr = .error r) :
    r.PhysOk := by
  unfold State.barrierAt at hr
  split at hr
  all_goals cases hr
  · exact State.denyAt_physOk hb addr
  · trivial

theorem barrierGo_physOk {t : State} (ht : t.PhysOk) (addr : Word) (cs : List Chunk) (n units sc : Nat) (waits : Bool) :
    (barrierGo s t addr cs n units sc waits).PhysOk := by
  have harrive : ∀ x : State, x.PhysOk → ∀ w, ((((x.countAccess.touch s.who.ctx true cs).pokeAll cs w).servedAt (barrierEngine s.core.pid cs)
      (placeOf cs) s.core.pid).logServed .engine s.nowServed addr cs).PhysOk := by
    intro x hx w
    refine State.logServed_physOk ?_ _ _ _ _
    rw [State.servedAt_physOk]
    exact State.pokeAll_physOk _ _ _ (by simpa using hx)
  have hask : (s.askOn addr cs).PhysOk := State.waitOn_physOk ((State.updCur_physOk ..).mpr h) ..
  unfold barrierGo
  dsimp only
  split
  · trivial
  split
  · trivial
  split
  · exact hask
  split
  · trivial
  · exact hask
  split
  · exact harrive s h _
  · simp [harrive t ht]

theorem barrierRest_physOk {t : State} (ht : t.PhysOk) (addr : Word) (cs : List Chunk) (gen : BitVec 32) (stopped : Bool) (sc : Nat) :
    (barrierRest s t addr cs gen stopped sc).PhysOk := by
  unfold barrierRest
  dsimp only
  split
  · trivial
  split
  · trivial
  · simp [ht, State.waitOn_physOk h]

theorem barrierArrive_physOk (i : Instr) (a n : BitVec 5) (sc : BitVec 3) (units : Word → Nat) (waits : Bool) :
    (barrierArrive i a n sc units waits s).PhysOk := by
  refine issue_physOk h _ fun t ht => ?_
  dsimp only
  split
  · trivial
  split
  · next hr => exact State.barrierAt_error_physOk h hr
  split
  · simp [barrierRest_physOk h ht, barrierGo_physOk h ht]
  · simp [barrierGo_physOk h ht]

theorem execBarw_physOk (a g : BitVec 5) (sc : BitVec 3) : (execBarw a g sc s).PhysOk := by
  refine issue_physOk h _ fun t ht => ?_
  dsimp only
  split
  · trivial
  split
  · next hr => exact State.barrierAt_error_physOk h hr
  split
  · trivial
  split
  · trivial
  · simp [ht, State.waitOn_physOk h]

theorem State.dsyncTry_physOk (ctx q : Nat) (seq : BitVec 32) (level key : Nat) : (s.dsyncTry ctx q seq level key).PhysOk := by
  have hcomplete : ∀ c, (s.dsyncComplete ctx q c level key).PhysOk := fun c => by simp [State.dsyncComplete, h.1, h.2]
  unfold State.dsyncTry
  split
  · simp [hcomplete, h]
  · exact h

theorem execDsync_physOk (sc : BitVec 3) : (execDsync sc s).PhysOk := by
  unfold execDsync
  dsimp only
  refine issue_physOk h _ fun t ht => ?_
  split
  · simp [ht]
  · split
    · trivial
    split
    · exact ht
    · have hgo : ∀ x : State, x.PhysOk → ∀ f ctx q seq level key, ((x.updCmd ctx q seq f).dsyncTry ctx q seq level key).PhysOk :=
        fun x hx f ctx q seq level key => State.dsyncTry_physOk (s := x.updCmd ctx q seq f) hx ..
      split
      · exact hgo s h ..
      · exact hgo _ ((State.acquire_physOk ..).mpr ht) ..
  · exact ht

theorem State.failGsync_physOk (pids : List Nat) : (s.failGsync pids).PhysOk := by
  refine State.foldl_physOk (fun t p ht => ?_) h _
  dsimp only
  split
  · split
    · exact State.onCore_physOk ht _ fun u hu => State.doubleTrap_physOk hu
    · exact (State.updCore_physOk ..).mpr ht
  · exact ht

theorem execGsync_physOk (sc : BitVec 3) : (execGsync sc s).PhysOk := by
  unfold execGsync
  dsimp only
  refine issue_physOk h _ fun t ht => ?_
  have hfail : ∀ pids v, Res.PhysOk (if s.quiet then .after (s.failGsync pids) 0x13 v else .wait .drain) := fun pids v => by
    simp [State.failGsync_physOk h pids]
  split
  · exact ht
  split
  · trivial
  split
  · exact ht
  split
  · exact hfail ..
  split
  · trivial
  split
  · exact State.foldl_physOk (fun u p hu => (State.updCore_physOk ..).mpr hu) ((State.acquire_physOk ..).mpr ht) _
  · exact hfail ..

theorem execWaitp_physOk : (execWaitp s).PhysOk := by
  refine issue_physOk h _ fun t ht => ?_
  dsimp only
  split
  · simp [ht]
  · exact ht

theorem execTrig_physOk : (execTrig s).PhysOk := by
  refine issue_physOk h _ fun t ht => ?_
  split
  · trivial
  split
  · split <;> exact ht
  · exact ht

/-! ### Levels of update tasks -/

theorem execLvget_physOk (d a : BitVec 5) : (execLvget d a s).PhysOk := by
  refine issue_physOk h _ fun t ht => ?_
  split
  · trivial
  dsimp only
  split
  · trivial
  split
  · exact ht
  · trivial

theorem execLvnbr_physOk (d a : BitVec 5) : (execLvnbr d a s).PhysOk := by
  refine issue_physOk h _ fun t ht => ?_
  split
  · trivial
  · simp [ht]

theorem execLvread_physOk (d a b : BitVec 5) (la : BitVec 4) : (execLvread d a b la s).PhysOk := by
  unfold execLvread
  dsimp only
  refine issue_physOk h _ fun t ht => Res.PhysOk.ite trivial ?_
  split
  · trivial
  · simp [ht]
  · split
    · trivial
    split
    · trivial
    · exact jumpTo_physOk (by simpa using ht) _

theorem execLvtake_physOk : (execLvtake s).PhysOk := by
  refine issue_physOk h _ fun t ht => ?_
  split
  · trivial
  · next hpop =>
    have h2 := State.popQ_physOk ht hpop
    dsimp only
    split
    · trivial
    split
    · exact h2
    · exact jumpTo_physOk (by simpa using h2) _

theorem execLvret_physOk : (execLvret s).PhysOk := issue_physOk h _ fun _ ht => jumpTo_physOk ((State.updCur_physOk ..).mpr ht) _

theorem execLvstep_physOk (a : BitVec 5) : (execLvstep a s).PhysOk := by
  refine issue_physOk h _ fun t ht => ?_
  dsimp only
  split
  · trivial
  split
  · exact ht
  · simpa using ht

theorem execLvcommit_physOk : (execLvcommit s).PhysOk := by
  refine issue_physOk h _ fun t ht => ?_
  split
  · simp [ht]
  · exact ht

theorem execLvthaw_physOk (d a : BitVec 5) : (execLvthaw d a s).PhysOk := by
  refine issue_physOk h _ fun t ht => ?_
  split
  · exact ht
  · simp [ht]

theorem State.stageRecord_physOk (b : BitVec 16) : (s.stageRecord b).PhysOk := h

theorem State.applyRecord_physOk : s.applyRecord.PhysOk := by
  unfold State.applyRecord
  dsimp only
  split
  · simp [h]
  · exact h

/-! ### System and trap instructions -/

theorem State.writeRsel_physOk (v : Word) : (s.writeRsel v).PhysOk := by
  have hstaged : (if (v.truncate 16 : BitVec 16) ≠ s.core.sys.lvBlock ∨ !s.core.sys.lvChosen then s.stageRecord (v.truncate 16) else s).PhysOk := by
    split
    · exact State.stageRecord_physOk h _
    · exact h
  unfold State.writeRsel
  dsimp only
  split
  · exact State.applyRecord_physOk ((State.updSys_physOk ..).mpr hstaged)
  · exact hstaged

omit h in
@[simp] theorem State.replayAll_physOk (s : State) : s.replayAll.PhysOk ↔ s.PhysOk := Iff.rfl

omit h in
@[simp] theorem State.writeFbHead_physOk (s : State) (v : BitVec 4) : (s.writeFbHead v).PhysOk ↔ s.PhysOk := by
  unfold State.writeFbHead
  split <;> rfl

theorem State.writeSup_physOk (i : Nat) (v : Word) : (s.writeSup i v).PhysOk := by
  have hsys : ∀ f, (s.updSys f).PhysOk := fun f => (State.updSys_physOk ..).mpr h
  unfold State.writeSup
  split
  · split <;> exact h
  · exact hsys _
  · exact hsys _
  · exact hsys _
  · split
    · exact State.writeRsel_physOk h v
    · exact h
  · split
    · exact hsys _
    · exact h
  · exact hsys _
  · exact (State.writeFbHead_physOk ..).mpr h
  · split <;> exact h
  · split
    · exact (State.replayAll_physOk s).mpr h
    · exact h
  · exact hsys _
  · exact hsys _
  · exact hsys _
  · exact hsys _
  · exact h

theorem State.writeSys_physOk (i : Nat) (v : Word) : (s.writeSys i v).PhysOk := by
  simp [State.writeSys, State.writeSup_physOk h, h]

theorem execSyswr_physOk (a : BitVec 5) (imm : BitVec 9) : (execSyswr a imm s).PhysOk := by
  unfold execSyswr
  dsimp only
  exact issue_physOk h _ fun t ht => by simp [State.writeSys_physOk ht]

theorem callSup_physOk (i : Instr) (cause : Nat) (code : BitVec 9) : (callSup i cause code s).PhysOk :=
  issue_physOk h _ fun t ht => by simp [ht]

theorem State.endFromHandler_physOk : s.endFromHandler.PhysOk := State.endTask_physOk h _

theorem execTret_physOk : (execTret s).PhysOk := issue_physOk h _ fun t ht => by simp [State.endFromHandler_physOk ht, ht]

theorem execExit_physOk : (execExit s).PhysOk := by
  refine issue_physOk h _ fun t ht => ?_
  split
  · exact State.endFromHandler_physOk ht
  split
  · trivial
  · exact State.settleEnd_physOk ((State.updCur_physOk ..).mpr ht)

theorem execSafept_physOk (imm : BitVec 9) : (execSafept imm s).PhysOk := by
  refine issue_physOk h _ fun t ht => ?_
  dsimp only
  split
  · exact ht
  split
  · exact State.settleEnd_physOk (by simpa using ht)
  · simp [ht]

end

end Sys2Proof.Machine
end

section
/-! Tiles, groups and the matrix instructions as they issue keep the canonical form (spec/12_matrix_instructions.md R222 to R243). -/

namespace Sys2Proof.Machine

/-! ### Groups are spilled, filled and taken (R234 to R238) -/

/-- Every machine that an operation on a group leaves has its memories in canonical form. -/
def GroupRes.PhysOk : GroupRes → Prop
  | .ok s _ => s.PhysOk
  | .trap s _ _ => s.PhysOk
  | .fault s _ _ _ _ _ _ => s.PhysOk
  | .held _ _ => True

theorem GroupRes.PhysOk.of_ok {r : GroupRes} {s : State} {v : Word} (h : r.PhysOk) (hr : r = .ok s v) : s.PhysOk := by
  subst hr
  exact h

theorem GroupRes.PhysOk.of_trap {r : GroupRes} {s : State} {c : Nat} {v : Word} (h : r.PhysOk) (hr : r = .trap s c v) : s.PhysOk := by
  subst hr
  exact h

theorem GroupRes.PhysOk.of_fault {r : GroupRes} {s : State} {ctx pid kind level base : Nat} {va : Word} (h : r.PhysOk)
    (hr : r = .fault s ctx pid kind level base va) : s.PhysOk := by
  subst hr
  exact h

theorem GroupRes.PhysOk.ite {c : Prop} [Decidable c] {r r' : GroupRes} (h : r.PhysOk) (h' : r'.PhysOk) : (if c then r else r').PhysOk := by
  split
  · exact h
  · exact h'

@[simp] theorem State.claimTile_physOk (s : State) (t : Nat) : (s.claimTile t).PhysOk ↔ s.PhysOk := by
  unfold State.claimTile
  split <;> rfl

@[simp] theorem State.clearGroup_physOk (s : State) (pid : Nat) (e : AotEntry) : (s.clearGroup pid e).PhysOk ↔ s.PhysOk := by
  simp [State.clearGroup]

@[simp] theorem State.holdGroup_physOk (s : State) (pid first ctx : Nat) (key : BitVec 32) : (s.holdGroup pid first ctx key).PhysOk ↔ s.PhysOk := by
  simp [State.holdGroup]

section
variable {s : State} (h : s.PhysOk)
include h

theorem State.recordServed_physOk (own : Bool) (addr : Word) (cs : List Chunk) : (s.recordServed own addr cs).PhysOk := by
  unfold State.recordServed
  split
  · exact State.logServed_physOk h ..
  · exact h

theorem State.spillGroup_physOk (pid first : Nat) (own : Bool) : (s.spillGroup pid first own).PhysOk := by
  unfold State.spillGroup
  dsimp only
  split
  · exact h
  · exact h
  split
  · trivial
  · refine (State.updPin_physOk ..).mpr ((State.updCore_physOk ..).mpr (State.recordServed_physOk ?_ ..))
    rw [State.poisonUnits_physOk]
    refine State.pokeAll_physOk _ _ _ ?_
    rw [State.touch_physOk]
    exact State.recall_physOk h ..

theorem State.fillGroup_physOk (pid first ctx : Nat) (p : PinKey) (held own : Bool) : (s.fillGroup pid first ctx p held own).PhysOk := by
  have hrecall := fun cs => State.recall_physOk h none cs
  unfold State.fillGroup
  split
  · exact h
  · exact h
  split
  · trivial
  dsimp only
  split
  · exact h
  split
  · next htake => exact State.takeRecord_physOk htake (State.recordServed_physOk ((State.touch_physOk ..).mpr (hrecall _)) ..)
  · exact h

theorem State.fillHere_physOk (pid first : Nat) : (s.fillHere pid first).PhysOk := by
  unfold State.fillHere
  dsimp only
  split
  · exact State.fillGroup_physOk h ..
  · exact h

theorem State.checkTile_physOk (t : Nat) : (s.checkTile t).PhysOk := by
  unfold State.checkTile
  split
  · exact h
  · exact (State.claimTile_physOk ..).mpr h

theorem State.useTile_physOk (t : Nat) : (s.useTile t).PhysOk := by
  unfold State.useTile
  dsimp only
  split
  · exact h
  split
  · exact State.fillHere_physOk h ..
  · exact (State.claimTile_physOk ..).mpr h

end

theorem State.evictRun_physOk {s : State} (h : s.PhysOk) (pid first : Nat) (own lax : Bool) (n : Nat) : (s.evictRun pid first own lax n).PhysOk := by
  induction n generalizing s first with
  | zero => exact h
  | succ n ih =>
    have hspill := fun f => State.spillGroup_physOk h pid f own
    unfold State.evictRun
    dsimp only
    split
    · split
      · next hr => exact ih ((State.clearGroup_physOk ..).mpr ((hspill _).of_ok hr)) _
      · next hr =>
        split
        · exact ih ((State.clearGroup_physOk ..).mpr h) _
        · exact (hspill _).of_trap hr
      · exact hspill _
    · exact ih ((State.clearGroup_physOk ..).mpr h) _
    · exact ih h _

section
variable {s : State} (h : s.PhysOk)
include h

/-- A group that has to leave another core leaves it with its memories in canonical form. -/
theorem State.awayGroup_physOk (p : PinKey) (old : Nat) {done : State → State} (hdone : ∀ t, t.PhysOk → (done t).PhysOk) :
    GroupRes.PhysOk (if p.state = AotState.pinned then
      match s.spillGroup old p.first true with
      | .ok t _ => .ok (done t) 0
      | r => r
    else .ok (done s) 0) := by
  have hspill := State.spillGroup_physOk h old p.first true
  split
  · split
    · next hr => exact hdone _ (hspill.of_ok hr)
    · exact hspill
  · exact hdone _ h

theorem State.ownGroup_physOk (key : BitVec 32) : (s.ownGroup key).PhysOk := by
  have hfill := fun first p => State.fillGroup_physOk h s.core.pid first s.taskCtx p true true
  unfold State.ownGroup
  dsimp only
  split
  · exact h
  · refine GroupRes.PhysOk.ite h (GroupRes.PhysOk.ite ?_ ?_)
    · split
      · split
        · next hr => exact (State.holdGroup_physOk ..).mpr ((hfill _ _).of_ok hr)
        · exact hfill _ _
      · exact (State.holdGroup_physOk ..).mpr h
    split
    · exact h
    · next p _ _ run evict _ =>
      have hevict : GroupRes.PhysOk (if evict then s.evictRun s.core.pid run true false p.count else .ok s 0) :=
        GroupRes.PhysOk.ite (State.evictRun_physOk h ..) h
      split
      · next hr => exact hevict.of_trap hr
      · next hr => exact hevict.of_fault hr
      · trivial
      · next s1 _ hr =>
        have h1 : s1.PhysOk := hevict.of_ok hr
        have hlast : ∀ t : State, t.PhysOk → GroupRes.PhysOk (match t.fillGroup s.core.pid run s.taskCtx p true true with
            | .ok u _ => .ok u (.ofNat 64 run)
            | r => r) := fun t ht => by
          have hfilled := State.fillGroup_physOk ht s.core.pid run s.taskCtx p true true
          split
          · next hr => exact hfilled.of_ok hr
          · exact hfilled
        cases p.core with
        | none => exact hlast _ h1
        | some old =>
          have haway := fun done hdone => State.awayGroup_physOk h1 p old (done := done) hdone
          dsimp only
          split
          · next hr => exact (haway _ fun t ht => by simpa using ht).of_trap hr
          · next hr => exact (haway _ fun t ht => by simpa using ht).of_fault hr
          · trivial
          · next hr => exact hlast _ ((haway _ fun t ht => by simpa using ht).of_ok hr)

end

theorem State.prepareTiles_physOk {s : State} (h : s.PhysOk) (pid nm ctx : Nat) : (s.prepareTiles pid nm ctx).PhysOk := by
  have hevict := State.evictRun_physOk h pid 0 false true nm
  unfold State.prepareTiles
  split
  · next hr => exact (State.updCore_physOk ..).mpr (hevict.of_ok hr)
  · exact hevict

/-! ### Matrix instructions as they issue (R222 to R242) -/

/-- A v operand of a matrix form, where it is there, comes with its memories in canonical form. -/
def TookMat.PhysOk : TookMat → Prop
  | .ok s _ _ => s.PhysOk
  | .wait _ => True

theorem TookMat.physOk_ok {s : State} (h : s.PhysOk) (m : MOperand) (fs : List (BitVec 16)) : (TookMat.ok s m fs).PhysOk := h

theorem TookMat.PhysOk.of_ok {r : TookMat} {s : State} {m : MOperand} {fs : List (BitVec 16)} (h : r.PhysOk) (hr : r = .ok s m fs) : s.PhysOk := by
  subst hr
  exact h

theorem TookMat.PhysOk.ite {c : Prop} [Decidable c] {r r' : TookMat} (h : r.PhysOk) (h' : r'.PhysOk) : (if c then r else r').PhysOk := by
  split
  · exact h
  · exact h'

theorem GroupRes.issue_physOk {r : GroupRes} (hr : r.PhysOk) {k : State → Res} (hk : ∀ t, t.PhysOk → (k t).PhysOk) : (r.issue k).PhysOk := by
  cases r with
  | ok s v => exact hk s hr
  | trap s c v => trivial
  | fault s ctx pid kind l b va => trivial
  | held a n => trivial

@[simp] theorem State.countLayouts_physOk (s : State) (xs : List PairRead) : (s.countLayouts xs).PhysOk ↔ s.PhysOk := Iff.rfl

@[simp] theorem State.callDrain_physOk (s : State) (op d r : Nat) (handler ret : Word) : (s.callDrain op d r handler ret).PhysOk ↔ s.PhysOk := by
  simp [State.callDrain]

@[simp] theorem State.rowLeft_physOk (s : State) (id d r : Nat) (dst : DrainDst) : (s.rowLeft id d r dst).PhysOk ↔ s.PhysOk := Iff.rfl

theorem fastGroup_physOk {s : State} (h : s.PhysOk) (md : Nat) (val : Word) {k : State → Res} (hk : ∀ t, t.PhysOk → (k t).PhysOk) :
    (fastGroup s md val k).PhysOk := by
  unfold fastGroup
  split
  · trivial
  split
  · exact hk s h
  dsimp only
  split
  · trivial
  split
  · trivial
  · exact hk s h

section
variable {s : State} (h : s.PhysOk)
include h

theorem State.takeMat_physOk (n : BitVec 5) (count : Nat) : (s.takeMat n count).PhysOk := by
  unfold State.takeMat
  split
  · exact h
  dsimp only
  split
  · trivial
  split
  · trivial
  · exact h

theorem State.putRow_physOk {dst : DrainDst} {r : Nat} {row : VReg} {t : State} (ht : s.putRow dst r row = some t) : t.PhysOk := by
  unfold State.putRow at ht
  split at ht
  · split at ht
    · cases ht
      exact (State.pushQ_physOk ..).mpr h
    · cases ht
  · cases ht
    exact (State.cleanWords_physOk ..).mpr h

theorem mmacOp_physOk (i : Instr) (scA scB : Bool) (d a b : BitVec 5) (f p : BitVec 3) (la : BitVec 4) :
    (mmacOp i scA scB d a b f p la s).PhysOk := by
  unfold mmacOp
  dsimp only
  refine issue_physOk h _ fun t ht => ?_
  split
  · trivial
  next hA =>
  have h2 := TookMat.PhysOk.of_ok (.ite (TookMat.physOk_ok ht ..) (.ite (TookMat.physOk_ok ht ..) (State.takeMat_physOk ht ..))) hA
  split
  · trivial
  next hB =>
  have h3 := TookMat.PhysOk.of_ok (.ite (TookMat.physOk_ok h2 ..) (State.takeMat_physOk h2 ..)) hB
  refine Res.PhysOk.ite trivial ?_
  split
  · trivial
  split
  · trivial
  · refine State.partRoom_physOk _ (GroupRes.issue_physOk (State.checkTile_physOk h3 _) fun u hu => ?_)
    split
    · trivial
    · exact hu

theorem execMzero_physOk (d : BitVec 5) (la : BitVec 4) : (execMzero d la s).PhysOk := by
  unfold execMzero
  dsimp only
  exact issue_physOk h _ fun t ht => GroupRes.issue_physOk (State.checkTile_physOk ht _) fun _ hu => hu

theorem tileMove_physOk (i : Instr) (u : PairUse) (d a : BitVec 5) (la : BitVec 4) (work : Pair → Work) :
    (tileMove i u d a la work s).PhysOk := by
  refine issue_physOk h _ fun t ht => ?_
  dsimp only
  split
  · trivial
  split
  · trivial
  · refine GroupRes.issue_physOk (State.checkTile_physOk ht _) fun u hu => ?_
    split
    · trivial
    · exact hu

theorem execMdrain_physOk (d a b : BitVec 5) (la : BitVec 4) : (execMdrain d a b la s).PhysOk := by
  unfold execMdrain
  dsimp only
  refine issue_physOk h _ fun t ht => ?_
  split
  · trivial
  refine Res.PhysOk.ite trivial (Res.PhysOk.ite trivial (State.partRoom_physOk _ (Res.PhysOk.ite trivial ?_)))
  refine GroupRes.issue_physOk (.ite (State.useTile_physOk ht _) (State.checkTile_physOk ht _)) fun u hu => Res.PhysOk.ite trivial ?_
  split
  · simp [hu]
  · simp [hu]

theorem execHret_physOk : (execHret s).PhysOk := by
  refine issue_physOk h _ fun t ht => ?_
  split
  · trivial
  split
  · exact ht
  refine Res.PhysOk.ite trivial ?_
  split
  · split
    · trivial
    · next hput =>
      have h2 := State.putRow_physOk ht hput
      simp [h2]
  · exact ht

theorem execMpin_physOk (d a b : BitVec 5) : (execMpin d a b s).PhysOk := by
  unfold execMpin
  dsimp only
  refine issue_physOk h _ fun t ht => Res.PhysOk.ite trivial (Res.PhysOk.ite trivial (Res.PhysOk.ite trivial ?_))
  split
  · trivial
  · exact Res.PhysOk.ite trivial (Res.PhysOk.ite trivial (Res.PhysOk.ite trivial ht))

theorem execMfree_physOk (d : BitVec 5) : (execMfree d s).PhysOk := by
  unfold execMfree
  dsimp only
  refine issue_physOk h _ fun t ht => Res.PhysOk.ite trivial ?_
  split
  · trivial
  · exact ht

theorem groupMove_physOk (i : Instr) (d : BitVec 5) (la : BitVec 4) (work : Work) : (groupMove i d la work s).PhysOk := by
  refine issue_physOk h _ fun t ht => ?_
  split
  · trivial
  · exact ht

theorem execMown_physOk (d a : BitVec 5) (la : BitVec 4) : (execMown d a la s).PhysOk := by
  unfold execMown
  dsimp only
  exact issue_physOk h _ fun t ht => Res.PhysOk.ite trivial ht

theorem execFwdelta_physOk (d a b f : BitVec 5) (la : BitVec 4) : (execFwdelta d a b f la s).PhysOk := by
  unfold execFwdelta
  dsimp only
  refine issue_physOk h _ fun t ht => ?_
  split
  · trivial
  next hk =>
  have h2 := TookMat.PhysOk.of_ok (.ite (State.takeMat_physOk ht ..) (TookMat.physOk_ok ht ..)) hk
  split
  · trivial
  next hv =>
  have h3 := (State.takeMat_physOk h2 ..).of_ok hv
  exact Res.PhysOk.ite trivial (fastGroup_physOk h3 _ _ fun _ hu => hu)

theorem execFwread_physOk (d a : BitVec 5) (la : BitVec 4) : (execFwread d a la s).PhysOk := by
  unfold execFwread
  dsimp only
  refine issue_physOk h _ fun t ht => ?_
  split
  · trivial
  next hq =>
  have h2 := TookMat.PhysOk.of_ok (.ite (State.takeMat_physOk ht ..) (TookMat.physOk_ok ht ..)) hq
  exact Res.PhysOk.ite trivial (Res.PhysOk.ite trivial (Res.PhysOk.ite trivial (fastGroup_physOk h2 _ _ fun u hu => by simpa using hu)))

theorem execFwchunk_physOk (d : BitVec 5) (n : BitVec 3) (la : BitVec 4) : (execFwchunk d n la s).PhysOk := by
  unfold execFwchunk
  dsimp only
  exact issue_physOk h _ fun t ht => State.partRoom_physOk _ (fastGroup_physOk ht _ _ fun _ hu => hu)

end

end Sys2Proof.Machine
end

section
/-! The copy units keep the canonical form (spec/10_memory_instructions.md R203, R204). -/

namespace Sys2Proof.Machine

theorem State.PhysOk.ite {c : Prop} [Decidable c] {s t : State} (h : s.PhysOk) (h' : t.PhysOk) : (if c then s else t).PhysOk := by
  split
  · exact h
  · exact h'

@[simp] theorem State.updJob_physOk (s : State) (cluster idx : Nat) (f : Job → Job) : (s.updJob cluster idx f).PhysOk ↔ s.PhysOk := Iff.rfl

@[simp] theorem State.decrement_physOk (s : State) (ctx q : Nat) (seq : BitVec 32) : (s.decrement ctx q seq).PhysOk ↔ s.PhysOk := by
  unfold State.decrement
  dsimp only
  split
  · split
    · rfl
    · split <;> rfl
  · split <;> rfl

@[simp] theorem State.dropJob_physOk (s : State) (cluster idx : Nat) (j : Job) : (s.dropJob cluster idx j).PhysOk ↔ s.PhysOk := by
  simp [State.dropJob]

theorem State.enginePokeAll_physOk {s : State} (h : s.PhysOk) (cs : List Chunk) (bs : List Byte) : (s.enginePokeAll cs bs).PhysOk := by
  induction cs generalizing s bs with
  | nil => exact h
  | cons c cs ih =>
    refine ih ?_ _
    unfold State.enginePoke
    split
    · exact State.poke_physOk _ _ _ ((State.updCore_physOk ..).mpr h)
    · exact State.poke_physOk _ _ _ h

section
variable {s : State} (h : s.PhysOk)
include h

theorem State.jobServed_physOk (j : Job) (red : Bool) (addr : Word) (cs : List Chunk) : (s.jobServed j red addr cs).PhysOk := by
  unfold State.jobServed
  split
  · exact State.logServed_physOk h ..
  · exact h

theorem State.movePiece_physOk (cluster idx : Nat) (j : Job) (src dst : List Chunk) (n : Nat) : (s.movePiece cluster idx j src dst n).PhysOk := by
  have hpoke : ∀ bs, (((s.touch j.ctx false src).touch j.ctx (j.req.red != 0) dst).enginePokeAll dst bs).PhysOk := fun bs =>
    State.enginePokeAll_physOk (by simpa using h) _ _
  unfold State.movePiece
  dsimp only
  rw [State.updJob_physOk, State.servedAt_physOk]
  refine State.jobServed_physOk (State.foldl_physOk (fun t y ht => State.jobServed_physOk ht ..) ?_ _) ..
  exact State.PhysOk.ite (hpoke _) (hpoke _)

theorem State.failJob_physOk (cluster idx : Nat) (j : Job) (cause : Nat) (addr : Word) : (s.failJob cluster idx j cause addr).PhysOk := by
  refine State.onCore_physOk ((State.dropJob_physOk ..).mpr h) _ fun t ht => ?_
  refine State.PhysOk.ite (State.settleEnd_physOk (State.refuse_physOk ((State.onStream_physOk ..).mpr ht) ..)) ?_
  exact State.PhysOk.ite ((State.tried_physOk _).mpr ht) ht

theorem State.finishJob_physOk (cluster idx : Nat) (j : Job) : (s.finishJob cluster idx j).PhysOk := by
  have hback : ∀ t : State, t.PhysOk → (t.onCore j.pid State.settleEnd).PhysOk := fun t ht =>
    State.onCore_physOk ht _ fun _ hu => State.settleEnd_physOk hu
  unfold State.finishJob
  dsimp only
  split
  · split
    · next cs _ =>
      refine hback _ ?_
      rw [State.dropJob_physOk, State.servedAt_physOk]
      refine State.logServed_physOk ?_ ..
      have hpoke : ∀ bs, ((if peerChunk cs then s.tried else s).pokeAll cs bs).PhysOk := fun bs =>
        State.pokeAll_physOk _ _ _ (State.PhysOk.ite ((State.tried_physOk _).mpr h) h)
      exact State.PhysOk.ite (hpoke _) (hpoke _)
    · exact State.failJob_physOk h ..
    · exact h
  · exact hback _ (by simpa using h)
  · exact hback _ (by simpa using h)

theorem State.parkJob_physOk (cluster idx : Nat) (j : Job) (write : Bool) (level base : Nat) (va : Word) :
    (s.parkJob cluster idx j write level base va).PhysOk := by
  unfold State.parkJob
  dsimp only
  exact State.PhysOk.ite (State.failJob_physOk (by simpa using h) ..) (by simpa using h)

end

theorem State.jobOn_physOk {s : State} (h : s.PhysOk) (cluster idx n : Nat) : (s.jobOn cluster idx n).PhysOk := by
  induction n generalizing s with
  | zero => exact h
  | succ n ih =>
    unfold State.jobOn
    split
    · exact h
    split
    · exact h
    split
    · split
      · exact State.PhysOk.ite (State.finishJob_physOk h ..) h
      · exact State.finishJob_physOk h ..
    split
    · have hrecall := fun by_ cs => State.recall_physOk h by_ cs
      dsimp only
      refine State.PhysOk.ite h (State.PhysOk.ite (hrecall _ _) (ih ?_))
      exact State.movePiece_physOk (hrecall _ _) ..
    · exact State.failJob_physOk h ..
    · exact State.parkJob_physOk h ..
    · exact h

theorem execCopyJobFaultEnd_physOk {s : State} (h : s.PhysOk) (cluster idx : Nat) : (execCopyJobFaultEnd cluster idx s).PhysOk := by
  unfold execCopyJobFaultEnd
  split
  · exact h
  split
  · exact h
  split
  · exact State.failJob_physOk h ..
  · split
    · exact State.parkJob_physOk h ..
    · exact h
  · exact h

end Sys2Proof.Machine
end

section
/-! The front end's reads and writes, the acceptance and the completion of commands, and the queue events keep the canonical form
(spec/02_describing_and_launching.md R17 to R40, spec/24_retirement.md R333 to R335). -/

namespace Sys2Proof.Machine

/-! ### Accesses of the front end (R365) -/

@[simp] theorem State.feFault_physOk (s : State) (ctx level base : Nat) (va : Word) : (s.feFault ctx level base va).PhysOk ↔ s.PhysOk :=
  s.recordFault_physOk ..

section
variable {s : State} (h : s.PhysOk)
include h

theorem State.reach_physOk (ctx : Nat) (atomic : Bool) (cs : List Chunk) : (s.reach ctx atomic cs).PhysOk := by
  rw [State.reach, State.touch_physOk]
  exact State.recall_physOk h none cs

theorem State.feRead_physOk (ctx : Nat) (addr : Word) (n : Nat) : (s.feRead ctx addr n).2.PhysOk := by
  unfold State.feRead
  split
  · exact State.reach_physOk h ctx false _
  · exact h

theorem State.fePut_physOk (ctx : Nat) (atomic : Bool) (cs : List Chunk) (f : List Byte → List Byte) : (s.fePut ctx atomic cs f).PhysOk :=
  State.pokeAll_physOk _ _ _ (State.reach_physOk h ctx atomic cs)

end

/-- Whatever the reads find, they leave memories in canonical form. -/
def KeepsMemory {α : Type} (m : Fe α) : Prop := ∀ s, s.PhysOk → (feRun m s).2.PhysOk

namespace KeepsMemory

variable {α β : Type}

theorem of_feRun {m : Fe α} (hm : KeepsMemory m) {s t : State} {r : Except FeFail α} (h : s.PhysOk) (hrun : feRun m s = (r, t)) : t.PhysOk := by
  have hkeeps := hm s h
  rwa [hrun] at hkeeps

theorem pure (a : α) : KeepsMemory (Pure.pure a : Fe α) := fun _ h => h

theorem get : KeepsMemory (MonadState.get : Fe State) := fun _ h => h

theorem bind {m : Fe α} {f : α → Fe β} (hm : KeepsMemory m) (hf : ∀ a, KeepsMemory (f a)) : KeepsMemory (m >>= f) := by
  intro s h
  have h1 := hm s h
  rw [feRun_bind]
  revert h1
  obtain ⟨r, s1⟩ := feRun m s
  intro h1
  cases r with
  | ok a => exact hf a s1 h1
  | error e => exact h1

/-- A check first, and then more reads. -/
theorem need_bind {b : Bool} {f : Unit → Fe β} (hf : KeepsMemory (f ())) : KeepsMemory (Machine.need b >>= f) := by
  refine bind ?_ fun _ => hf
  cases b with
  | false => exact fun _ h => h
  | true => exact pure ()

theorem feRead (ctx : Nat) (addr : Word) (n : Nat) : KeepsMemory (Machine.feRead ctx addr n) := fun _ h => State.feRead_physOk h ctx addr n

theorem feTable (ctx : Nat) (addr : Word) (size n : Nat) : KeepsMemory (Machine.feTable ctx addr size n) := by
  induction n generalizing addr with
  | zero => exact pure []
  | succ n ih => exact bind (feRead _ _ _) fun _ => bind (ih _) fun _ => pure _

theorem readKernel (ctx : Nat) (addr : Word) : KeepsMemory (Machine.readKernel ctx addr) := by
  refine need_bind <| bind (feRead _ _ _) fun _ => need_bind <| need_bind <| need_bind <| need_bind <| need_bind <| need_bind ?_
  refine bind (feTable _ _ _ _) fun _ => bind (feTable _ _ _ _) fun _ => bind (feTable _ _ _ _) fun _ => bind (feTable _ _ _ _) fun _ => ?_
  exact need_bind <| need_bind <| need_bind <| pure _

theorem readTeam (ctx : Nat) (addr : Word) : KeepsMemory (Machine.readTeam ctx addr) := by
  refine need_bind <| bind (feRead _ _ _) fun _ => need_bind <| need_bind <| need_bind <| need_bind ?_
  exact bind (readKernel _ _) fun _ => pure _

theorem readRules (ctx : Nat) (addr : Word) (used : List Nat) (n : Nat) : KeepsMemory (Machine.readRules ctx addr used n) := by
  induction n with
  | zero => exact pure []
  | succ n ih =>
    refine bind ih fun _ => ?_
    split
    · exact bind (feRead _ _ _) fun _ => need_bind <| pure _
    · exact pure _

theorem readFront (ctx : Nat) (addr : Word) : KeepsMemory (Machine.readFront ctx addr) := by
  refine need_bind <| bind (feRead _ _ _) fun _ => need_bind <| need_bind <| bind (readKernel _ _) fun _ => bind (feTable _ _ _ _) fun _ => ?_
  exact bind (readRules _ _ _ _) fun _ => bind (feTable _ _ _ _) fun _ => need_bind <| need_bind <| need_bind <| pure _

theorem readWork (ctx : Nat) (x : Slot) : KeepsMemory (Machine.readWork ctx x) := by
  unfold Machine.readWork
  split
  · exact readTeam _ _
  · exact readFront _ _
  · exact pure _

theorem readAll (ctx : Nat) (x : Slot) : KeepsMemory (Machine.readAll ctx x) := by
  have hset : KeepsMemory (Machine.readSet ctx) := bind get fun _ => need_bind <| bind (feRead _ _ _) fun _ => need_bind <| pure _
  refine bind (readWork ctx x) fun _ => ?_
  split
  · exact bind hset fun _ => pure _
  · exact pure _

theorem of_next {g : State → Except FeFail α × State} (hg : ∀ s, s.PhysOk → (g s).2.PhysOk) : KeepsMemory (ExceptT.mk g) := hg

theorem readCounts (ctx : Nat) (area : Word) (n : Nat) : KeepsMemory (Machine.readCounts ctx area n) := by
  induction n generalizing area with
  | zero => exact pure []
  | succ n ih =>
    refine bind (of_next fun s h => ?_) fun _ => bind (ih _) fun _ => pure _
    have hread := State.feRead_physOk h ctx area 8
    revert hread
    obtain ⟨r, t⟩ := s.feRead ctx area 8
    intro ht
    rcases r with (_ | _) | _ <;> exact ht

theorem recordOk (ctx : Nat) (c : Command) (lid : Nat) : KeepsMemory (Machine.recordOk ctx c lid) := by
  refine bind get fun _ => bind (feRead _ _ _) fun _ => ?_
  dsimp only
  split
  · exact bind (feRead _ _ _) fun _ => pure _
  · exact bind (pure _) fun _ => pure _

end KeepsMemory

/-! ### The end of a command (R333 to R335) -/

section
variable (s : State)

@[simp] theorem State.dropSaved_physOk (ctx : Nat) (saved : List SavedTask) : (s.dropSaved ctx saved).PhysOk ↔ s.PhysOk := by
  simp [State.dropSaved]

@[simp] theorem State.spreadToken_physOk (ctx q : Nat) (seq : BitVec 32) : (s.spreadToken ctx q seq).PhysOk ↔ s.PhysOk := Iff.rfl

@[simp] theorem State.wfail_physOk (ctx q : Nat) : (s.wfail ctx q).PhysOk ↔ s.PhysOk := Iff.rfl

@[simp] theorem State.settleFailing_physOk : s.settleFailing.PhysOk ↔ s.PhysOk :=
  have ⟨hpool, hhost, _⟩ := s.settleFailing_keeps
  State.physOk_congr hpool hhost

@[simp] theorem State.retireCmd_physOk (ctx q : Nat) (c : Command) (st : CmdStatus) : (s.retireCmd ctx q c st).PhysOk ↔ s.PhysOk := by
  simp [State.retireCmd]

@[simp] theorem State.renameProds_physOk (ctx q : Nat) (other : Option Nat) : (s.renameProds ctx q other).PhysOk ↔ s.PhysOk := Iff.rfl

@[simp] theorem State.setAside_physOk (ctx q : Nat) : (s.setAside ctx q).PhysOk ↔ s.PhysOk := by
  unfold State.setAside
  dsimp only
  split <;> rfl

@[simp] theorem State.enterCmd_physOk (ctx q : Nat) (c : Command) : (s.enterCmd ctx q c).PhysOk ↔ s.PhysOk := Iff.rfl

end

section
variable {s : State} (h : s.PhysOk)
include h

theorem State.stopCancelled_physOk (pid : Nat) : (s.stopCancelled pid).PhysOk := by
  refine State.onCore_physOk h pid fun t ht => ?_
  split
  · exact ht
  · exact State.settleEnd_physOk ht

theorem State.addRecord_physOk (ctx q : Nat) (place : Except FeFail (List Chunk)) (c : Counts) (ok : Bool) :
    (s.addRecord ctx q place c ok).PhysOk := by
  cases place with
  | ok cs => exact State.fePut_physOk h ..
  | error e => exact (State.wfail_physOk ..).mpr h

theorem State.addStats_physOk {ctx q : Nat} {c : Command} {st : CmdStatus} {t : State} (ht : s.addStats ctx q c st = .ok t) : t.PhysOk := by
  unfold State.addStats at ht
  split at ht
  · cases ht
    exact h
  dsimp only at ht
  split at ht
  · cases ht
    exact h
  split at ht
  · cases ht
  · cases ht
    rw [State.updCmd_physOk]
    exact State.foldl_physOk (fun u p hu => State.addRecord_physOk hu ..) h _

theorem State.writeDone_physOk {ctx q : Nat} {c : Command} {st : CmdStatus} {t : State} (ht : s.writeDone ctx q c st = .ok t) : t.PhysOk := by
  unfold State.writeDone at ht
  split at ht
  · cases ht
    exact h
  split at ht
  · cases ht
    exact h
  split at ht
  · cases ht
    exact State.fePut_physOk h ..
  · cases ht
    exact h
  · cases ht

theorem State.completeCmd_physOk (ctx q : Nat) (seq : BitVec 32) : (s.completeCmd ctx q seq).PhysOk := by
  have hstopped : ∀ st : CmdStatus, (if st = .cancelled then (s.tasksOf ctx q seq).foldl State.stopCancelled s else s).PhysOk := fun _ =>
    State.PhysOk.ite (State.foldl_physOk (fun _ pid ht => State.stopCancelled_physOk ht pid) h _) h
  unfold State.completeCmd
  split
  · exact h
  split
  · next st _ =>
    have h0 := hstopped st
    dsimp only
    refine State.PhysOk.ite h0 ?_
    split
    · exact h0
    split
    · simpa using h0
    · next hstats =>
      have h1 := State.addStats_physOk h0 hstats
      split
      · simpa using h1
      · next hdone => simpa using State.writeDone_physOk h1 hdone
  · exact h

/-! ### Slots and queues (R24 to R32) -/

theorem State.acceptSlot_physOk (ctx q : Nat) (x : Slot) : (s.acceptSlot ctx q x).PhysOk := by
  have hreads := KeepsMemory.readAll ctx x
  unfold State.acceptSlot
  dsimp only
  split
  · exact h
  split
  · next hrun => exact (State.enterCmd_physOk ..).mpr (hreads.of_feRun h hrun)
  · next hrun => simpa using hreads.of_feRun h hrun
  · next hrun =>
    have h0 := hreads.of_feRun h hrun
    rw [State.enterCmd_physOk]
    split
    · exact h0
    · exact h0

theorem State.acceptFetched_physOk (ctx q : Nat) (bs : List Byte) : (s.acceptFetched ctx q bs).PhysOk :=
  State.completeCmd_physOk (State.acceptSlot_physOk h ..) ..

theorem State.readSlot_physOk (ctx q : Nat) : (s.readSlot ctx q).PhysOk := by
  have hread : ∀ addr r t, s.feRead ctx addr 64 = (r, t) → t.PhysOk := fun addr r t hr => by
    have hkeeps := State.feRead_physOk h ctx addr 64
    rwa [hr] at hkeeps
  unfold State.readSlot
  dsimp only
  split
  · exact State.acceptFetched_physOk h ..
  split
  · next hr => exact (State.updQueue_physOk ..).mpr (hread _ _ _ hr)
  · next hr => simpa using hread _ _ _ hr
  · next hr =>
    exact State.PhysOk.ite (State.acceptFetched_physOk ((State.updQueue_physOk ..).mpr (hread _ _ _ hr)) ..)
      ((State.updQueue_physOk ..).mpr (hread _ _ _ hr))

theorem execSlotRead_physOk (ctx q : Nat) : (execSlotRead ctx q s).PhysOk := by
  unfold execSlotRead
  split
  · exact State.readSlot_physOk h ..
  · exact h

theorem execStaleSlotReread_physOk (ctx q : Nat) : (execStaleSlotReread ctx q s).PhysOk := by
  unfold execStaleSlotReread
  split
  · exact State.readSlot_physOk h ..
  · exact h

theorem execNotifyWrite_physOk (ctx q : Nat) (v : BitVec 32) (relaxed : Bool) : (execNotifyWrite ctx q v relaxed s).PhysOk := by
  unfold execNotifyWrite
  extract_lets _ s1 x
  have h1 : s1.PhysOk := State.PhysOk.ite h h
  split
  · exact h1
  split
  · exact h1
  · exact h1

theorem execMarker_physOk (ctx q : Nat) : (execMarker ctx q s).PhysOk := by
  unfold execMarker
  split
  · split
    · exact State.completeCmd_physOk ((State.updCmd_physOk ..).mpr h) ..
    · exact h
  · exact h

theorem execQueueEnable_physOk (ctx q : Nat) : (execQueueEnable ctx q s).PhysOk := by
  unfold execQueueEnable
  split
  · exact h
  · exact (State.setAside_physOk ..).mpr h

theorem execQueueDisable_physOk (ctx q : Nat) : (execQueueDisable ctx q s).PhysOk := by
  unfold execQueueDisable
  dsimp only
  split
  · exact h
  · refine State.foldl_physOk (fun t (c : Command) ht => State.completeCmd_physOk ht ctx q c.seq) ?_ _
    exact (State.updCtx_physOk ..).mpr h

theorem execQueueAck_physOk (ctx q : Nat) (v : BitVec 32) : (execQueueAck ctx q v s).PhysOk := by
  unfold execQueueAck
  dsimp only
  split <;> exact h

theorem execSeedWrite_physOk (ctx : Nat) (v : Word) : (execSeedWrite ctx v s).PhysOk := by
  unfold execSeedWrite
  split <;> exact h

end

end Sys2Proof.Machine
end

section
/-! Incomplete instructions keep the canonical form as they go on: loads and stores, element forms, synchronising loads, and the instructions that are
not matrix instructions (spec/05_fetch_and_issue.md R87, R92, R364, spec/10_memory_instructions.md R189 to R195). -/

namespace Sys2Proof.Machine

/-- What a move leads to, where it goes on, has its memories in canonical form. -/
def Moved.PhysOk : Moved → Prop
  | .on s => s.PhysOk
  | _ => True

@[simp] theorem Moved.physOk_on (s : State) : (Moved.on s).PhysOk ↔ s.PhysOk := Iff.rfl

theorem Moved.PhysOk.ite {c : Prop} [Decidable c] {r r' : Moved} (h : r.PhysOk) (h' : r'.PhysOk) : (if c then r else r').PhysOk := by
  split
  · exact h
  · exact h'

@[simp] theorem State.acquireOn_physOk (s : State) (x : StreamId) (sc : Nat) : (s.acquireOn x sc).PhysOk ↔ s.PhysOk := Iff.rfl

section
variable {s : State} (h : s.PhysOk)
include h

theorem State.opPoison_physOk (x : StreamId) (op : LongOp) (at_ : Word) : (s.opPoison x op at_).PhysOk :=
  State.consumePoison_physOk ((State.onStream_physOk ..).mpr h) ..

/-! ### Loads and elements (R189, R192) -/

theorem State.recalled_physOk (x : StreamId) (op : LongOp) (cs : List Chunk) {k : State → Moved} (hk : ∀ t, t.PhysOk → (k t).PhysOk) :
    (s.recalled x op cs k).PhysOk := by
  have h1 := State.recall_physOk h (some s.core.cluster) cs
  exact Moved.PhysOk.ite (hk _ h1) h1

theorem State.accessServed_physOk (x : StreamId) (op : LongOp) (addr : Word) (cs : List Chunk) : (s.accessServed x op addr cs).PhysOk := by
  unfold State.accessServed
  split
  · exact State.logServed_physOk h ..
  · exact h

theorem State.loadMove_physOk (x : StreamId) (op : LongOp) (addr : Word) (n : Nat) {use : State → List Byte → Moved}
    (huse : ∀ t bs, t.PhysOk → (use t bs).PhysOk) : (s.loadMove x op addr n use).PhysOk := by
  refine Moved.PhysOk.ite trivial ?_
  split
  · exact State.opTrap_physOk h ..
  · trivial
  · refine Moved.PhysOk.ite trivial (State.recalled_physOk h _ _ _ fun t ht => ?_)
    split
    · exact State.opPoison_physOk ht ..
    · exact huse _ _ (State.accessServed_physOk ((State.touch_physOk ..).mpr ht) ..)

theorem State.elemMove_physOk (x : StreamId) (op : LongOp) (plan : ElemPlan) (size : Nat) {go : State → Word → Moved}
    (hgo : ∀ t a, t.PhysOk → (go t a).PhysOk) : (s.elemMove x op plan size go).PhysOk := by
  have hchecked : ∀ (t : State) (a : Word), t.PhysOk → Moved.PhysOk (match t.checkAddr (s.core.opWho op) a size size with
      | some (c, v) => .on (t.opTrap x op c v)
      | none => go t a) := fun t a ht => by
    split
    · exact State.opTrap_physOk ht ..
    · exact hgo _ _ ht
  unfold State.elemMove
  dsimp only
  split
  · split
    · exact hchecked _ _ h
    split
    · exact State.opTrap_physOk h ..
    · exact State.loadMove_physOk h _ _ _ _ fun t bs ht => hchecked t _ ht
  · split
    · exact hchecked _ _ h
    · exact State.opTrap_physOk h ..
    · exact State.opTrap_physOk h ..

end

theorem State.readList_physOk {s : State} (h : s.PhysOk) (x : StreamId) (op : LongOp) (base list : Word) (size : Nat) (stores : Bool) (is : List Nat)
    (got : List (Nat × Word)) : (s.readList x op base list size stores is got).1.PhysOk := by
  induction is generalizing s got with
  | nil => exact h
  | cons i is ih =>
    unfold State.readList
    dsimp only
    split
    · exact ih h _
    split
    · exact h
    split
    · exact h
    · exact ih (State.accessServed_physOk ((State.touch_physOk ..).mpr h) ..) _

section
variable {s : State} (h : s.PhysOk)
include h

theorem State.takeList_physOk (x : StreamId) (op : LongOp) : (s.takeList x op).1.PhysOk := by
  have hread : ∀ base list size stores is got, (s.readList x op base list size stores is got).1.PhysOk := fun _ _ _ _ _ _ =>
    State.readList_physOk h ..
  unfold State.takeList
  dsimp only
  split
  · split
    · exact h
    · exact hread ..
  · split
    · exact h
    · exact hread ..
  · exact h

theorem State.ldElem_physOk (x : StreamId) (op : LongOp) (entry : Nat) (plan : ElemPlan) (size : Nat) (acc : BitVec 512) :
    (s.ldElem x op entry plan size acc).PhysOk := by
  refine State.elemMove_physOk h _ _ _ _ fun t a ht => State.loadMove_physOk ht _ _ _ _ fun u bs hu => ?_
  exact Moved.PhysOk.ite hu hu

theorem State.stElem_physOk (x : StreamId) (op : LongOp) (data : QEntry) (plan : ElemPlan) (size : Nat) :
    (s.stElem x op data plan size).PhysOk := by
  refine State.elemMove_physOk h _ _ _ _ fun t a ht => Moved.PhysOk.ite trivial ?_
  split
  · exact State.opTrap_physOk ht ..
  · trivial
  · refine Moved.PhysOk.ite trivial (State.recalled_physOk ht _ _ _ fun u hu => ?_)
    rw [Moved.physOk_on, State.updThis_physOk, State.servedAt_physOk]
    refine State.accessServed_physOk (State.pokeAll_physOk _ _ _ ?_) ..
    exact (State.touch_physOk ..).mpr hu

theorem State.storeMove_physOk (x : StreamId) (op : LongOp) (e : QEntry) (addr : Word) : (s.storeMove x op e addr).PhysOk := by
  unfold State.storeMove
  dsimp only
  split
  · exact Moved.PhysOk.ite trivial (State.pokeAll_physOk _ _ _ h)
  · exact h

theorem State.syncLoad_physOk (x : StreamId) (op : LongOp) (addr : Word) (n : Nat) (use : Core → List Byte → Core) :
    (s.syncLoad x op addr n use).PhysOk := by
  unfold State.syncLoad
  dsimp only
  split
  · exact State.opTrap_physOk h ..
  · trivial
  refine Moved.PhysOk.ite trivial (Moved.PhysOk.ite (Moved.PhysOk.ite ?_ h) ?_)
  · simpa using h
  split
  · exact State.opTrap_physOk h ..
  refine Moved.PhysOk.ite trivial ?_
  split
  · exact State.opPoison_physOk h ..
  · rw [Moved.physOk_on, State.acquireOn_physOk, State.updThis_physOk]
    exact State.logServed_physOk ((State.setBits_physOk ..).mpr h) ..

/-! ### The instructions that are not matrix instructions -/

theorem State.redqMove_physOk (x : StreamId) (op : LongOp) (toF : Bool) (d q n : Nat) : (s.redqMove x op toF d q n).PhysOk := by
  unfold State.redqMove
  split
  · trivial
  refine Moved.PhysOk.ite trivial ?_
  dsimp only
  split
  · exact State.opTrap_physOk h ..
  · exact Moved.PhysOk.ite (State.opPoison_physOk h ..) h

theorem State.elimMove_physOk (x : StreamId) (op : LongOp) (d : Nat) (row : VReg) (factor : FReg) (acc : VReg) (mask : Option (BitVec 512))
    (free : Bool) : (s.elimMove x op d row factor acc mask free).PhysOk := h

theorem State.atomicMove_physOk (op : LongOp) : (s.atomicMove op).PhysOk := by
  unfold State.atomicMove
  split
  · exact State.serve_physOk h ..
  · trivial

theorem State.plainMove_physOk (x : StreamId) (op : LongOp) : (s.plainMove x op).PhysOk := by
  unfold State.plainMove
  split
  · exact h
  · exact h
  · exact h
  · exact State.storeMove_physOk h ..
  · exact State.loadMove_physOk h _ _ _ _ fun _ _ ht => ht
  · exact State.loadMove_physOk h _ _ _ _ fun _ _ ht => ht
  · exact State.ldElem_physOk h ..
  · exact State.stElem_physOk h ..
  · exact State.syncLoad_physOk h ..
  · exact Moved.PhysOk.ite (State.syncLoad_physOk h ..) (Moved.PhysOk.ite trivial h)
  · exact State.atomicMove_physOk h _
  · exact State.redqMove_physOk h ..
  · exact State.elimMove_physOk h ..
  · trivial

end

end Sys2Proof.Machine
end

section
/-! Matrix, accumulator and fast-weight instructions keep the canonical form as they execute, and so do the events of incomplete instructions
(spec/12_matrix_instructions.md R222 to R243, spec/05_fetch_and_issue.md R87, R92, R159, R364). -/

namespace Sys2Proof.Machine

theorem GroupRes.moved_physOk {r : GroupRes} (hr : r.PhysOk) (op : LongOp) {done : State → Word → State}
    (hdone : ∀ t v, t.PhysOk → (done t v).PhysOk) : (r.moved op done).PhysOk := by
  cases r with
  | ok s v => exact hdone s v hr
  | trap s c v => exact State.opTrap_physOk hr ..
  | fault s ctx pid kind l b va => trivial
  | held a n => trivial

@[simp] theorem State.finishOp_physOk (s : State) (op : LongOp) : (s.finishOp op).PhysOk ↔ s.PhysOk := Iff.rfl

theorem State.useTiles_physOk {s : State} (h : s.PhysOk) (ts : List Nat) : (s.useTiles ts).PhysOk := by
  induction ts generalizing s with
  | nil => exact h
  | cons t ts ih =>
    have huse := State.useTile_physOk h t
    unfold State.useTiles
    split
    · next hr => exact ih (huse.of_ok hr)
    · exact huse

theorem State.memberTrap_physOk {s : State} (h : s.PhysOk) (p cause : Nat) (val : Word) : (s.memberTrap p cause val).PhysOk := by
  refine State.onCore_physOk h p fun t ht => ?_
  split
  · exact State.opTrap_physOk ht ..
  · exact ht

theorem State.readyTiles_physOk {s : State} (h : s.PhysOk) (heads : List (Nat × LongOp)) : (s.readyTiles heads).PhysOk := by
  induction heads generalizing s with
  | nil => exact h
  | cons head rest ih =>
    obtain ⟨p, op⟩ := head
    have huse := State.useTiles_physOk ((s.select_physOk p).mpr h) ((s.select p).core.jointTiles op)
    have htrap : ∀ t : State, t.PhysOk → ∀ c v, ((t.select s.core.pid).memberTrap p c v).PhysOk := fun t ht c v =>
      State.memberTrap_physOk ((State.select_physOk ..).mpr ht) ..
    unfold State.readyTiles
    dsimp only
    split
    · next hr => exact htrap _ (huse.of_trap hr) ..
    · trivial
    · trivial
    · next hr =>
      have h2 := huse.of_ok hr
      split
      · exact htrap _ h2 ..
      split
      · exact htrap _ h2 ..
      · exact ih ((State.select_physOk ..).mpr h2)

section
variable {s : State} (h : s.PhysOk)
include h

/-! ### What a gang does (R222, R227, R240 to R242) -/

/-- Each core of a list changed. -/
theorem State.foldl_updCore_physOk {α : Type} (key : α → Nat) (f : α → Core → Core) (xs : List α) :
    (xs.foldl (fun (t : State) x => t.updCore (key x) (f x)) s).PhysOk :=
  State.foldl_physOk (fun _ _ ht => (State.updCore_physOk ..).mpr ht) h xs

theorem State.mmacGang_physOk (heads : List (Nat × LongOp)) : (s.mmacGang heads).PhysOk := by
  unfold State.mmacGang
  split
  · exact h
  split
  · dsimp only
    split
    · exact State.opPoison_physOk h ..
    · exact State.foldl_updCore_physOk h ..
  · exact h

theorem State.fastTrap_physOk (heads : List (Nat × LongOp)) : (s.fastTrap heads).PhysOk :=
  State.foldl_physOk (fun _ _ ht => State.memberTrap_physOk ht ..) h heads

theorem State.deltaGang_physOk (heads : List (Nat × LongOp)) : (s.deltaGang heads).PhysOk := by
  unfold State.deltaGang
  split
  · exact h
  split
  · exact State.foldl_updCore_physOk h ..
  · exact h

theorem State.readGang_physOk (heads : List (Nat × LongOp)) : (s.readGang heads).PhysOk := by
  unfold State.readGang
  split
  · exact h
  split
  · exact State.foldl_updCore_physOk h ..
  · exact h

theorem State.tokenGang_physOk (heads : List (Nat × LongOp)) : (s.tokenGang heads).PhysOk := by
  unfold State.tokenGang
  split
  · exact h
  dsimp only
  split
  · exact State.foldl_physOk (fun _ _ ht => State.memberTrap_physOk ht ..) h _
  split
  · exact State.memberTrap_physOk h ..
  · exact State.foldl_updCore_physOk h ..

theorem State.gangMove_physOk (op : LongOp) : (s.gangMove op).PhysOk := by
  refine Moved.PhysOk.ite (State.opTrap_physOk h ..) ?_
  split
  · trivial
  · next heads _ =>
    refine Moved.PhysOk.ite (State.fastTrap_physOk h _) (Moved.PhysOk.ite trivial ?_)
    have hready := State.readyTiles_physOk h heads
    revert hready
    cases s.readyTiles heads with
    | still => exact id
    | fault ctx pid kind l b va => exact id
    | memberFault p o ctx pid kind l b va => exact id
    | on t =>
      intro ht
      refine Moved.PhysOk.ite ht ?_
      split
      · exact State.mmacGang_physOk ht _
      · exact State.deltaGang_physOk ht _
      · exact State.readGang_physOk ht _
      · exact State.tokenGang_physOk ht _
      · trivial

/-! ### The instructions that are not joint (R230, R231, R236) -/

theorem State.storeTile_physOk (p : Pair) (t : Tile) : (s.storeTile p t).PhysOk :=
  State.foldl_physOk (fun _ _ hu => State.poke_physOk _ _ _ hu) h _

theorem State.drainMove_physOk (op : LongOp) (d : Nat) (dst : DrainDst) : (s.drainMove op d dst).PhysOk := by
  unfold State.drainMove
  split
  · trivial
  · next hput => exact (State.rowLeft_physOk ..).mpr (State.putRow_physOk h hput)

theorem State.onTile_physOk (op : LongOp) (d : Nat) (reads : Bool) {k : State → Moved} (hk : ∀ t, t.PhysOk → (k t).PhysOk) :
    (s.onTile op d reads k).PhysOk := by
  have huse := State.useTile_physOk h d
  unfold State.onTile
  split
  · next hr => exact State.opTrap_physOk (huse.of_trap hr) ..
  · trivial
  · trivial
  · next hr =>
    have h1 := huse.of_ok hr
    split
    · exact State.opPoison_physOk h1 ..
    · exact hk _ h1

theorem State.matrixMove_physOk (op : LongOp) : (s.matrixMove op).PhysOk := by
  refine Moved.PhysOk.ite trivial ?_
  split
  · exact State.onTile_physOk h _ _ _ fun t ht => by simpa using ht
  · refine Moved.PhysOk.ite trivial (State.onTile_physOk h _ _ _ fun t ht => ?_)
    split
    · exact State.opPoison_physOk ht ..
    · simpa using ht
  · refine State.onTile_physOk h _ _ _ fun t ht => ?_
    rw [Moved.physOk_on, State.finishOp_physOk]
    exact State.storeTile_physOk ht ..
  · exact Moved.PhysOk.ite trivial (State.onTile_physOk h _ _ _ fun t ht => State.drainMove_physOk ht ..)
  · exact Moved.PhysOk.ite (GroupRes.moved_physOk (State.spillGroup_physOk h ..) _ fun _ _ ht => ht) h
  · exact Moved.PhysOk.ite (GroupRes.moved_physOk (State.fillHere_physOk h ..) _ fun _ _ ht => ht) h
  · exact GroupRes.moved_physOk (State.ownGroup_physOk h _) _ fun _ _ ht => ht
  · exact State.gangMove_physOk h op

/-! ### One move, and the events -/

theorem State.opMove_physOk (x : StreamId) (op : LongOp) : (s.opMove x op).PhysOk :=
  Moved.PhysOk.ite trivial (Moved.PhysOk.ite (State.opPoison_physOk h ..)
    (Moved.PhysOk.ite (State.matrixMove_physOk h op) (State.plainMove_physOk h x op)))

theorem State.memberFault_physOk (p : Nat) (op : LongOp) (ctx pid kind l b : Nat) (va : Word) :
    (s.onCore p (fun t => t.opFault .c op ctx pid kind l b va)).PhysOk :=
  State.onCore_physOk h p fun _ ht => State.opFault_physOk ht ..

end

theorem State.goOn_physOk {s : State} (h : s.PhysOk) (x : StreamId) (id n : Nat) : (s.goOn x id n).PhysOk := by
  induction n generalizing s with
  | zero => exact h
  | succ n ih =>
    unfold State.goOn
    split
    · exact h
    · next op0 _ =>
      have hlist := State.takeList_physOk h x op0
      revert hlist
      obtain ⟨s0, op⟩ := s.takeList x op0
      intro h0
      have hmove := State.opMove_physOk h0 x op
      revert hmove
      dsimp only
      cases s0.opMove x op with
      | still => exact fun _ => h0
      | on t => exact fun ht => ih ht
      | fault ctx pid kind l b va => exact fun _ => State.opFault_physOk h0 ..
      | memberFault p o ctx pid kind l b va => exact fun _ => State.memberFault_physOk h0 ..

section
variable {s : State} (h : s.PhysOk)
include h

theorem execLongOpComplete_physOk (pid : Nat) (st : StreamId) (idx units : Nat) : (execLongOpComplete pid st idx units s).PhysOk := by
  refine State.onCore_physOk h pid fun t ht => ?_
  split
  · exact State.settleEnd_physOk (State.goOn_physOk ht ..)
  · exact ht

theorem execPageFaultPark_physOk (pid : Nat) (st : StreamId) (idx : Nat) : (execPageFaultPark pid st idx s).PhysOk := by
  refine State.onCore_physOk h pid fun t ht => ?_
  dsimp only
  split
  · next op _ =>
    split
    · split
      · split
        · exact State.PhysOk.ite (State.askFault_physOk ht ..) ht
        · exact ht
      · exact ht
    · have h0 := State.takeList_physOk ht st op
      split
      · exact State.opFault_physOk h0 ..
      · exact State.memberFault_physOk h0 ..
      · exact ht
  · split
    · split
      · exact State.PhysOk.ite (State.settleEnd_physOk (State.askFault_physOk ht ..)) ht
      · exact ht
    · exact ht

theorem execQueueEntryFill_physOk (pid idx : Nat) : (execQueueEntryFill pid idx s).PhysOk := by
  refine State.onCore_physOk h pid fun t ht => ?_
  dsimp only
  split
  · exact State.goOn_physOk ht ..
  · exact ht

theorem State.gangFail_physOk (own : Core) (pids : List Nat) : (s.gangFail own pids).PhysOk := by
  refine State.foldl_physOk (fun t p ht => ?_) h _
  split
  · exact State.onCore_physOk ht _ fun _ hu => State.opTrap_physOk hu ..
  · exact ht

theorem execGangMeet_physOk (pid : Nat) : (execGangMeet pid s).PhysOk := by
  unfold execGangMeet
  dsimp only
  split
  · exact h
  split
  · exact h
  · exact State.gangFail_physOk h ..
  · exact State.foldl_updCore_physOk h id _ _

end

end Sys2Proof.Machine
end

section
/-! Placement, the level units, saves and resumptions keep the canonical form (spec/03_placement.md R41 to R56, spec/04_time_levels.md R61 to R81,
spec/20_interruption.md R315 to R318). -/

namespace Sys2Proof.Machine

/-! ### Tasks start (R18, R41, R234) -/

/-- A placement that is made has its memories in canonical form, and so has the report of one that parks. -/
def Started.PhysOk : Started → Prop
  | .ok s => s.PhysOk
  | .park report => ∀ t, t.PhysOk → (report t).PhysOk
  | .bad => True

theorem Started.PhysOk.of_ok {r : Started} {s : State} (h : r.PhysOk) (hr : r = .ok s) : s.PhysOk := by
  subst hr
  exact h

theorem Started.PhysOk.of_park {r : Started} {report : State → State} (h : r.PhysOk) (hr : r = .park report) {t : State} (ht : t.PhysOk) :
    (report t).PhysOk := by
  subst hr
  exact h t ht

section
variable (s : State)

@[simp] theorem State.placedNow_physOk (ctx q : Nat) : (s.placedNow ctx q).PhysOk ↔ s.PhysOk := Iff.rfl

@[simp] theorem State.parkCmd_physOk (ctx q : Nat) (seq : BitVec 32) : (s.parkCmd ctx q seq).PhysOk ↔ s.PhysOk := Iff.rfl

@[simp] theorem State.putRegion_physOk (pid : Nat) (r : SpRegion) (bs : Option (List Byte)) : (s.putRegion pid r bs).PhysOk ↔ s.PhysOk := by
  simp [State.putRegion]

@[simp] theorem State.preempt_physOk (ctx q : Nat) (seq : BitVec 32) : (s.preempt ctx q seq).PhysOk ↔ s.PhysOk := Iff.rfl

end

section
variable {s : State} (h : s.PhysOk)
include h

theorem State.makeTiles_physOk (pid nm ctx : Nat) : (s.makeTiles pid nm ctx).PhysOk := by
  have hprepare := State.prepareTiles_physOk h pid nm ctx
  unfold State.makeTiles
  split
  · next hr => exact hprepare.of_ok hr
  · exact fun t ht => (State.recordFault_physOk ..).mpr ht
  · trivial

theorem State.initRegion_physOk (pid ctx : Nat) (r : SpRegion) : (s.initRegion pid ctx r).PhysOk := by
  have hread := State.feRead_physOk h ctx (.ofNat 64 r.source) r.length
  unfold State.initRegion
  split
  · exact h
  · exact (State.putRegion_physOk ..).mpr h
  · split
    · next hr =>
      rw [hr] at hread
      exact (State.putRegion_physOk ..).mpr hread
    · trivial
    · exact fun t ht => (State.feFault_physOk ..).mpr ht

theorem State.noteHold_physOk (cls : List Nat) (by_ : HeldBy) : (s.noteHold cls by_).PhysOk := by
  unfold State.noteHold
  dsimp only
  refine State.foldl_physOk (fun _ _ ht => (State.updCluster_physOk ..).mpr ht) ?_ cls
  exact h

theorem State.placeError_physOk (ctx q : Nat) (seq : BitVec 32) (first : Option (Nat × Nat)) : (s.placeError ctx q seq first).PhysOk :=
  State.completeCmd_physOk ((State.updCmd_physOk ..).mpr h) ..

theorem State.withCounts_physOk (ctx q : Nat) (c : Command) (k : Kernel) {go : List (BitVec 64) → State → State}
    (hgo : ∀ ws t, t.PhysOk → (go ws t).PhysOk) : (s.withCounts ctx q c k go).PhysOk := by
  have hreads := KeepsMemory.readCounts ctx k.statArea k.tensors.length
  unfold State.withCounts
  split
  · next hrun => simpa using hreads.of_feRun h hrun
  · next hrun => exact State.placeError_physOk (hreads.of_feRun h hrun) ..
  · next hrun => exact hgo _ _ (hreads.of_feRun h hrun)

end

theorem State.initRegions_physOk {s : State} (h : s.PhysOk) (pid ctx : Nat) (rs : List SpRegion) : (s.initRegions pid ctx rs).PhysOk := by
  induction rs generalizing s with
  | nil => exact h
  | cons r rs ih =>
    have hinit := State.initRegion_physOk h pid ctx r
    unfold State.initRegions
    split
    · next hr => exact ih (hinit.of_ok hr)
    · exact hinit

theorem State.startTask_physOk {s : State} (h : s.PhysOk) (pid : Nat) (x : Start) : (s.startTask pid x).PhysOk := by
  have hmake := State.makeTiles_physOk h pid x.task.kernel.nm x.task.ctx
  unfold State.startTask
  split
  · next hr => exact State.initRegions_physOk (by simpa using hmake.of_ok hr) ..
  · exact hmake

theorem State.startAll_physOk {s : State} (h : s.PhysOk) (xs : List (Nat × Start)) : (s.startAll xs).PhysOk := by
  induction xs generalizing s with
  | nil => exact h
  | cons x xs ih =>
    have hstart := State.startTask_physOk h x.1 x.2
    unfold State.startAll
    split
    · next hr => exact ih (hstart.of_ok hr)
    · exact hstart

/-! ### LAUNCH and FRONT (R32, R33, R43, R61) -/

section
variable {s : State} (h : s.PhysOk)
include h

theorem State.placeTeam_physOk (ctx q : Nat) (c : Command) (r : Rect) : (s.placeTeam ctx q c r).PhysOk := by
  unfold State.placeTeam
  split
  · exact h
  · refine State.withCounts_physOk h _ _ _ _ fun ws t ht => ?_
    have hstarts := fun c1 starts => State.startAll_physOk ((State.updCmd_physOk t ctx q c.seq fun _ => c1).mpr ht) starts
    dsimp only
    split
    · next hr => exact (State.placedNow_physOk ..).mpr (State.noteHold_physOk ((hstarts _ _).of_ok hr) ..)
    · next hr => exact (State.parkCmd_physOk ..).mpr ((hstarts _ _).of_park hr ht)
    · exact State.placeError_physOk ht ..

theorem State.placeFront_physOk (ctx q : Nat) (c : Command) (r : Rect) : (s.placeFront ctx q c r).PhysOk := by
  unfold State.placeFront
  split
  · exact h
  · refine State.withCounts_physOk h _ _ _ _ fun ws t ht => ?_
    dsimp only
    rw [State.frontEnd_physOk, State.placedNow_physOk]
    exact State.noteHold_physOk ((State.updCmd_physOk ..).mpr ht) ..

theorem State.startPreemption_physOk (ctx q : Nat) (c : Command) : (s.startPreemption ctx q c).PhysOk := by
  unfold State.startPreemption
  split
  · exact h
  split
  · rw [State.updCmd_physOk]
    exact State.foldl_physOk (fun _ _ ht => (State.preempt_physOk ..).mpr ht) h _
  · exact h

theorem State.offer_physOk (ctx q : Nat) (op : CmdOp) (r : Rect) {place : State → Command → State}
    (hplace : ∀ t c, t.PhysOk → (place t c).PhysOk) : (s.offer ctx q op r place).PhysOk := by
  unfold State.offer
  split
  · exact h
  · exact State.PhysOk.ite h (State.PhysOk.ite (State.placeError_physOk h ..) (State.PhysOk.ite (hplace _ _ h) (State.startPreemption_physOk h ..)))

theorem execLaunch_physOk (ctx q : Nat) (r : Rect) : (execLaunch ctx q r s).PhysOk :=
  State.offer_physOk h _ _ _ _ fun _ _ ht => State.placeTeam_physOk ht ..

theorem execFront_physOk (ctx q : Nat) (r : Rect) : (execFront ctx q r s).PhysOk :=
  State.offer_physOk h _ _ _ _ fun _ _ ht => State.placeFront_physOk ht ..

/-! ### The level units (R65 to R70, R80) -/

theorem execLevelDispatch_physOk (cluster cidx : Nat) : (execLevelDispatch cluster cidx s).PhysOk := by
  unfold execLevelDispatch
  split
  · exact h
  dsimp only
  split
  · split
    · exact h
    split
    · split
      · exact State.killRect_physOk h ..
      · exact h
    have hstart := fun x => State.startTask_physOk h (cluster * 8 + cidx) x
    split
    · next hr => exact (State.updFront_physOk ..).mpr ((hstart _).of_ok hr)
    · next hr => exact (State.parkCmd_physOk ..).mpr ((hstart _).of_park hr h)
    · exact State.placeError_physOk h ..
  · exact h

theorem execCommitArrival_physOk (cluster block : Nat) : (execCommitArrival cluster block s).PhysOk := by
  unfold execCommitArrival
  split
  · exact h
  · split
    · exact (State.updFront_physOk ..).mpr h
    · exact h

theorem execStall_physOk (ctx q : Nat) (seq : BitVec 32) : (execStall ctx q seq s).PhysOk := by
  unfold execStall
  split
  · exact h
  split
  · split
    · exact h
    split
    · exact h
    dsimp only
    split
    · have hstart := fun pid x => State.startTask_physOk h pid x
      split
      · next hr => exact (State.updFront_physOk ..).mpr ((State.updCore_physOk ..).mpr ((hstart _ _).of_ok hr))
      · next hr => exact (State.parkCmd_physOk ..).mpr ((hstart _ _).of_park hr h)
      · exact State.placeError_physOk h ..
    · exact h
  · exact h

theorem execLvRecordStage_physOk (block : BitVec 16) : (execLvRecordStage block s).PhysOk := State.PhysOk.ite (State.stageRecord_physOk h _) h

theorem execLvRecordApply_physOk : (execLvRecordApply s).PhysOk := State.PhysOk.ite (State.applyRecord_physOk h) h

end

/-! ### Saves (R316, R318) -/

/-- A save that is made has its memories in canonical form, and so has the report of one that parks. -/
def Saved.PhysOk : Saved → Prop
  | .ok s => s.PhysOk
  | .park report => ∀ t, t.PhysOk → (report t).PhysOk
  | .refused => True

theorem Saved.PhysOk.of_ok {r : Saved} {s : State} (h : r.PhysOk) (hr : r = .ok s) : s.PhysOk := by
  subst hr
  exact h

theorem Saved.PhysOk.of_park {r : Saved} {report : State → State} (h : r.PhysOk) (hr : r = .park report) {t : State} (ht : t.PhysOk) :
    (report t).PhysOk := by
  subst hr
  exact h t ht

@[simp] theorem State.parkGroups_physOk (s : State) (pid ctx : Nat) : (s.parkGroups pid ctx).PhysOk ↔ s.PhysOk := Iff.rfl

theorem State.spillAll_physOk {s : State} (h : s.PhysOk) (pid ctx n : Nat) : (s.spillAll pid ctx n).PhysOk := by
  induction n generalizing s with
  | zero => exact h
  | succ n ih =>
    have hspill := State.spillGroup_physOk h pid n false
    unfold State.spillAll
    dsimp only
    split
    · split
      · next hr => exact ih (hspill.of_ok hr)
      · exact fun t ht => (State.recordFault_physOk ..).mpr ht
      · trivial
    · exact ih h

section
variable {s : State} (h : s.PhysOk)
include h

theorem State.killCommand_physOk (ctx q : Nat) (seq : BitVec 32) (cause : Nat) : (s.killCommand ctx q seq cause).PhysOk := by
  refine (State.updCmd_physOk ..).mpr (State.foldl_physOk (fun t pid ht => ?_) h _)
  exact State.onCore_physOk ht pid fun _ hu => State.endTask_physOk hu _

theorem State.putRecord_physOk (ctx : Nat) (addr : Word) (bytes : List Byte) : (s.putRecord ctx addr bytes).PhysOk := by
  unfold State.putRecord
  split
  · exact State.fePut_physOk h ..
  · trivial
  · exact fun t ht => (State.feFault_physOk ..).mpr ht

theorem State.saveTask_physOk (pid : Nat) (t : Task) (c : Command) : (s.saveTask pid t c).PhysOk := by
  have hspill := State.spillAll_physOk h pid t.ctx 32
  unfold State.saveTask
  split
  · next hr =>
    have hput := fun addr bytes => State.putRecord_physOk (hspill.of_ok hr) t.ctx addr bytes
    dsimp only
    split
    · next hr' =>
      refine (State.updCmd_physOk ..).mpr ((State.updCore_physOk ..).mpr ((State.parkGroups_physOk ..).mpr ?_))
      exact (hput _ _).of_ok hr'
    · exact hput _ _
  · exact hspill

theorem State.saveFront_physOk (ctx : Nat) (c : Command) : (s.saveFront ctx c).PhysOk := by
  unfold State.saveFront
  split
  · exact h
  · exact State.putRecord_physOk h ..

end

theorem State.saveTasks_physOk {s : State} (h : s.PhysOk) (c : Command) (pids : List Nat) : (s.saveTasks c pids).PhysOk := by
  induction pids generalizing s with
  | nil => exact h
  | cons pid pids ih =>
    unfold State.saveTasks
    split
    · exact ih h
    · next t _ =>
      have hsave := State.saveTask_physOk h pid t c
      split
      · next hr => exact ih (hsave.of_ok hr)
      · exact hsave

section
variable {s : State} (h : s.PhysOk)
include h

/-- The whole of a save: its tasks, and then a front's records. -/
theorem State.saveWhole_physOk (ctx : Nat) (c : Command) (pids : List Nat) : Saved.PhysOk (match s.saveTasks c pids with
    | .ok t => t.saveFront ctx c
    | r => r) := by
  have hsave := State.saveTasks_physOk h c pids
  split
  · next hr => exact State.saveFront_physOk (hsave.of_ok hr) ..
  · exact hsave

theorem State.saveCmd_physOk (ctx q : Nat) (seq : BitVec 32) : (s.saveCmd ctx q seq).PhysOk := by
  unfold State.saveCmd
  split
  · exact h
  · next c _ =>
    have hwhole := State.saveWhole_physOk h ctx c (s.tasksOf ctx q seq)
    refine State.PhysOk.ite h ?_
    dsimp only
    split
    · next hr => simpa using hwhole.of_ok hr
    · next hr => exact (State.parkCmd_physOk ..).mpr (hwhole.of_park hr h)
    · exact State.killCommand_physOk h ..

theorem execContextSave_physOk (pid : Nat) : (execContextSave pid s).PhysOk := by
  unfold execContextSave
  split
  · exact State.saveCmd_physOk h ..
  · split
    · exact State.saveCmd_physOk h ..
    · exact h

/-! ### Resumptions (R53, R81, R316) -/

theorem State.enterGroup_physOk (pid : Nat) (e : AotEntry) : (s.enterGroup pid e).PhysOk := by
  unfold State.enterGroup
  split
  · exact h
  · extract_lets s0
    have h0 : s0.PhysOk := by
      dsimp only [s0]
      split
      · exact State.PhysOk.ite ((State.updCore_physOk ..).mpr h) h
      · exact h
    have hevict := State.evictRun_physOk h0 pid e.first false false e.count
    split
    · exact fun t ht => (State.recordFault_physOk ..).mpr ht
    · trivial
    · trivial
    · next hr => exact (State.updPin_physOk ..).mpr ((State.updCore_physOk ..).mpr (hevict.of_ok hr))

end

theorem State.enterGroups_physOk {s : State} (h : s.PhysOk) (pid : Nat) (es : List AotEntry) : (s.enterGroups pid es).PhysOk := by
  induction es generalizing s with
  | nil => exact h
  | cons e es ih =>
    have henter := State.enterGroup_physOk h pid e
    unfold State.enterGroups
    split
    · next hr => exact ih (henter.of_ok hr)
    · exact henter

theorem State.resumeTask_physOk {s : State} (h : s.PhysOk) (ctx : Nat) (t : SavedTask) (pid : Nat) (move : BitVec 8 → BitVec 8) :
    (s.resumeTask ctx t pid move).PhysOk := by
  unfold State.resumeTask
  split
  · exact h
  · next tk _ =>
    have hmake := State.makeTiles_physOk h pid tk.kernel.nm ctx
    split
    · next hr => exact State.enterGroups_physOk (by simpa using hmake.of_ok hr) ..
    · exact hmake

theorem State.resumeAll_physOk {s : State} (h : s.PhysOk) (ctx : Nat) (xs : List (SavedTask × Nat × (BitVec 8 → BitVec 8))) :
    (s.resumeAll ctx xs).PhysOk := by
  induction xs generalizing s with
  | nil => exact h
  | cons x xs ih =>
    have hresume := State.resumeTask_physOk h ctx x.1 x.2.1 x.2.2
    unfold State.resumeAll
    split
    · next hr => exact ih (hresume.of_ok hr)
    · exact hresume

theorem KeepsMemory.recordsOk (ctx : Nat) (c : Command) (ts : List SavedTask) : KeepsMemory (Machine.recordsOk ctx c ts) := by
  induction ts with
  | nil => exact KeepsMemory.pure true
  | cons t ts ih =>
    refine KeepsMemory.bind (KeepsMemory.recordOk _ _ _) fun ok => ?_
    cases ok with
    | true => exact ih
    | false => exact KeepsMemory.pure false

section
variable {s : State} (h : s.PhysOk)
include h

theorem State.resumeOn_physOk (ctx q : Nat) (c : Command) (r : Rect) (cidxs : BitVec 8) : (s.resumeOn ctx q c r cidxs).PhysOk := by
  have hresume := fun c1 xs => State.resumeAll_physOk ((State.updCmd_physOk s ctx q c.seq fun _ => c1).mpr h) ctx xs
  unfold State.resumeOn
  dsimp only
  split
  · next hr =>
    rw [State.frontEnd_physOk, State.placedNow_physOk]
    exact State.noteHold_physOk ((hresume _ _).of_ok hr) ..
  · next hr => exact (State.parkCmd_physOk ..).mpr ((hresume _ _).of_park hr h)
  · exact State.placeError_physOk h ..

theorem execTeamResume_physOk (ctx q : Nat) (rect : Rect) (cidxs : BitVec 8) : (execTeamResume ctx q rect cidxs s).PhysOk := by
  unfold execTeamResume
  split
  · exact h
  · next c _ =>
    have hreads := KeepsMemory.recordsOk ctx c c.saved
    split
    · exact h
    split
    · exact State.placeError_physOk h ..
    split
    · exact State.startPreemption_physOk h ..
    split
    · exact h
    split
    · next hrun => exact State.resumeOn_physOk (hreads.of_feRun h hrun) ..
    · next hrun => exact State.placeError_physOk (hreads.of_feRun h hrun) ..
    · next hrun => exact State.placeError_physOk (hreads.of_feRun h hrun) ..
    · next hrun => exact (State.parkCmd_physOk ..).mpr ((State.feFault_physOk ..).mpr (hreads.of_feRun h hrun))

end

end Sys2Proof.Machine
end

section
/-! The events of requests, of the device and of its edges, and the waits that end, keep the canonical form (spec/08_memory.md R158 to R163,
spec/14_ordering.md R266 to R270, spec/24_retirement.md R336 to R346, spec/25_host_and_power_on.md R348 to R362). -/

namespace Sys2Proof.Machine

@[simp] theorem Out.physOk_next (s : State) : Out.PhysOk (.next s) ↔ s.PhysOk := Iff.rfl

theorem Out.PhysOk.ite {c : Prop} [Decidable c] {r r' : Out} (h : Out.PhysOk r) (h' : Out.PhysOk r') : Out.PhysOk (if c then r else r') := by
  split
  · exact h
  · exact h'

theorem Served.PhysOk.of_ok {r : Served} {s : State} {v : Word} (h : r.PhysOk) (hr : r = .ok s v) : s.PhysOk := by
  subst hr
  exact h

/-! ### Requests (R266 to R270, R357) -/

section
variable {s : State} (h : s.PhysOk)
include h

theorem execHomeSliceServe_physOk (pid : Nat) (req : ReqRef) : (execHomeSliceServe pid req s).PhysOk :=
  State.onAsk_physOk h pid req fun _ _ ht => State.serve_physOk ht ..

theorem execClusterAtomicServe_physOk (pid : Nat) (req : ReqRef) : (execClusterAtomicServe pid req s).PhysOk :=
  State.onAsk_physOk h pid req fun _ _ ht => State.serve_physOk ht ..

theorem execAtomicPromote_physOk (pid : Nat) (req : ReqRef) : (execAtomicPromote pid req s).PhysOk := by
  refine State.onAsk_physOk h pid req fun a t ht => ?_
  have hpromote : ∀ c : Prop, ∀ [Decidable c], (if c then t.updThis (fun k => k.promote a false) else t).PhysOk := fun c _ =>
    State.PhysOk.ite ((State.updThis_physOk ..).mpr ht) ht
  split
  · split
    · exact hpromote _
    · exact hpromote _
  · exact ht

theorem execNetPacketPromote_physOk (pid : Nat) (req : ReqRef) : (execNetPacketPromote pid req s).PhysOk :=
  State.onAsk_physOk h pid req fun _ _ ht => State.PhysOk.ite ((State.updThis_physOk ..).mpr ht) ht

theorem execStoreAck_physOk (pid idx : Nat) : (execStoreAck pid idx s).PhysOk :=
  State.onAsk_physOk h pid _ fun _ _ ht => (State.ackId_physOk ..).mpr (State.serve_physOk ht ..)

theorem execStoreRefusal_physOk (pid idx : Nat) : (execStoreRefusal pid idx s).PhysOk := by
  refine State.onAsk_physOk h pid _ fun a t ht => ?_
  split
  · exact State.PhysOk.ite (State.askRefused_physOk ht ..) ht
  · exact ht

/-! ### Faults, invalidation and containment rectangles (R158 to R163, R338, R340) -/

theorem execReplayAll_physOk : (execReplayAll s).PhysOk := (State.replayAll_physOk s).mpr h

theorem execFbHeadWrite_physOk (v : Word) : (execFbHeadWrite v s).PhysOk := (State.writeFbHead_physOk ..).mpr h

theorem execTtInval_physOk (v : Word) : (execTtInval v s).PhysOk := Out.PhysOk.ite h ((State.updDev_physOk ..).mpr h)

theorem execTtInvalDone_physOk : (execTtInvalDone s).PhysOk := by
  unfold execTtInvalDone
  split
  · exact h
  · exact h

theorem execPartReset_physOk (v : Word) : (execPartReset v s).PhysOk := Out.PhysOk.ite (State.killRect_physOk h ..) h

theorem execPurgeComplete_physOk (n : Nat) : (execPurgeComplete n s).PhysOk := Out.PhysOk.ite ((State.setRect_physOk ..).mpr h) h

theorem execRectReturnToService_physOk (n : Nat) : (execRectReturnToService n s).PhysOk := Out.PhysOk.ite ((State.setRect_physOk ..).mpr h) h

theorem State.writeRect_physOk (n : Nat) (v : Word) : (s.writeRect n v).PhysOk := by
  have hset : ∀ r, (s.setRect n r).PhysOk := fun r => (State.setRect_physOk ..).mpr h
  unfold State.writeRect
  dsimp only
  exact State.PhysOk.ite h (State.PhysOk.ite ((State.setRect_physOk ..).mpr (hset _)) (hset _))

/-! ### In-field test and the mailbox (R56, R342, R343, R361) -/

theorem execIftPeriodic_physOk (cluster : Nat) : (execIftPeriodic cluster s).PhysOk := Out.PhysOk.ite ((State.updCluster_physOk ..).mpr h) h

theorem execIftNow_physOk (v : Word) : (execIftNow v s).PhysOk := by
  unfold execIftNow
  dsimp only
  refine Out.PhysOk.ite ?_ (Out.PhysOk.ite ?_ ?_)
  all_goals exact h

theorem State.evacuate_physOk (cluster : Nat) : (s.evacuate cluster).PhysOk := by
  refine State.foldl_physOk (fun t x ht => ?_) h _
  split
  · exact State.killCommand_physOk ht ..
  · exact State.PhysOk.ite ((State.preempt_physOk ..).mpr ht) ht

theorem State.loseCluster_physOk (cluster : Nat) : (s.loseCluster cluster).PhysOk := by
  rw [State.loseCluster, State.settleFailing_physOk, State.updCluster_physOk]
  exact State.evacuate_physOk h cluster

theorem execIftTestComplete_physOk (cluster : Nat) (pass : Bool) : (execIftTestComplete cluster pass s).PhysOk := by
  unfold execIftTestComplete
  dsimp only
  refine Out.PhysOk.ite h (Out.PhysOk.ite h ?_)
  rw [Out.physOk_next, State.raiseMsi_physOk]
  exact State.loseCluster_physOk (by simpa using h) cluster

theorem State.mailbox_physOk (code : Word) : (s.mailbox code).PhysOk := State.PhysOk.ite h h

theorem execMailboxResponse_physOk (r : MailboxReply) : (execMailboxResponse r s).PhysOk := Out.PhysOk.ite ((State.updDev_physOk ..).mpr h) h

/-! ### Power-on and reset (R359, R360) -/

theorem State.enterSafe_physOk : s.enterSafe.PhysOk := State.PhysOk.ite h h

theorem State.boot_physOk (b : BootInput) : (s.boot b).PhysOk := by
  have hdev : ∀ f, (s.updDev f).PhysOk := fun f => (State.updDev_physOk ..).mpr h
  unfold State.boot
  dsimp only
  refine State.PhysOk.ite (State.enterSafe_physOk ((State.updDev_physOk ..).mpr (hdev _))) (State.PhysOk.ite (State.enterSafe_physOk ?_) ?_)
  · exact (State.updDev_physOk ..).mpr (hdev _)
  · rw [State.updDev_physOk]
    refine State.foldl_physOk (fun _ _ ht => (State.updCluster_physOk ..).mpr ht) ?_ _
    exact (State.updDev_physOk ..).mpr (hdev _)

theorem execPowerGood_physOk (b : BootInput) : (execPowerGood b s).PhysOk := Out.PhysOk.ite h (State.boot_physOk h b)

theorem State.cleared_physOk : s.cleared.PhysOk := h

theorem execDeviceReset_physOk (b : BootInput) : (execDeviceReset b s).PhysOk := State.boot_physOk (State.cleared_physOk h) b

/-! ### The edges of the device (R140, R274, R348, R354, R362) -/

theorem execHostLinkDown_physOk (port : Nat) : (execHostLinkDown port s).PhysOk := (State.updDev_physOk ..).mpr h

theorem execNgucyLinkDown_physOk (link : Nat) : (execNgucyLinkDown link s).PhysOk := (State.updDev_physOk ..).mpr h

theorem execPowerThrottle_physOk (watts mhz : Nat) : (execPowerThrottle watts mhz s).PhysOk := Out.PhysOk.ite ((State.updDev_physOk ..).mpr h) h

theorem execThermalTrip_physOk : (execThermalTrip s).PhysOk := by
  have hkill := State.foldl_physOk (fun t n ht => State.killRect_physOk ht n 0 none) h (List.range 16)
  exact State.enterSafe_physOk ((State.updDev_physOk ..).mpr hkill)

theorem execHostCxlMemAccess_physOk (pa : Nat) (data : List Byte) : (execHostCxlMemAccess pa data s).PhysOk :=
  Out.PhysOk.ite (State.poke_physOk _ _ _ (State.recall_physOk h ..)) h

theorem execHostCoherenceRequest_physOk (pa : Nat) (use : HostUse) : (execHostCoherenceRequest pa use s).PhysOk :=
  Out.PhysOk.ite h (State.poke_physOk _ _ _ ((State.updDev_physOk ..).mpr (State.recall_physOk h ..)))

theorem execRemoteDomainAccess_physOk (acc : RemoteAccess) : (execRemoteDomainAccess acc s).PhysOk := by
  unfold execRemoteDomainAccess
  dsimp only
  split
  · exact h
  · refine Out.PhysOk.ite ?_ h
    split
    · exact State.pokeAll_physOk _ _ _ h
    · exact h
  · refine Out.PhysOk.ite ?_ h
    split
    · next hr => exact (State.doAtomic_physOk h ..).of_ok hr
    · exact h

theorem execReplayDiverge_physOk (ctx : Nat) : (execReplayDiverge ctx s).PhysOk := Out.PhysOk.ite ((State.updCtx_physOk ..).mpr h) h

/-! ### Register writes (R5, R351, R352) -/

theorem State.writeQueue_physOk (ctx q reg : Nat) (v : Word) : (s.writeQueue ctx q reg v).PhysOk := by
  have hupd : ∀ f, (s.updQueue ctx q f).PhysOk := fun f => (State.updQueue_physOk ..).mpr h
  unfold State.writeQueue
  dsimp only
  split
  · exact Out.PhysOk.ite h (hupd _)
  · exact Out.PhysOk.ite h (hupd _)
  · exact Out.PhysOk.ite (execQueueEnable_physOk (hupd _) ..) (execQueueDisable_physOk (hupd _) ..)
  · exact execNotifyWrite_physOk h ..
  · exact execQueueAck_physOk h ..
  · exact h

theorem State.writeDevice_physOk (off : Nat) (v : Word) : (s.writeDevice off v).PhysOk := by
  have hdev : ∀ f, (s.updDev f).PhysOk := fun f => (State.updDev_physOk ..).mpr h
  unfold State.writeDevice
  refine Out.PhysOk.ite (State.writeRect_physOk h ..) (Out.PhysOk.ite (hdev _) ?_)
  split
  · exact execReplayAll_physOk h
  · exact execTtInval_physOk h v
  · exact execPartReset_physOk h v
  · exact hdev _
  · exact execFbHeadWrite_physOk h v
  · exact hdev _
  · exact execIftNow_physOk h v
  · exact hdev _
  · exact hdev _
  · exact State.mailbox_physOk h v
  · exact h

theorem execRegisterWrite_physOk (offset size : Nat) (v : Word) : (execRegisterWrite offset size v s).PhysOk := by
  unfold execRegisterWrite
  dsimp only
  generalize offset % 0x10000 - 0x1000 = reg
  refine Out.PhysOk.ite h (Out.PhysOk.ite (State.writeDevice_physOk h _ v) (Out.PhysOk.ite h (Out.PhysOk.ite ?_ ?_)))
  · exact State.writeQueue_physOk h _ (reg / 64) (reg % 64) v
  · exact (State.updCtx_physOk ..).mpr h

/-! ### Waits that end (R93, R149, R195, R280 to R285) -/

theorem State.onTurn_physOk (pid : Nat) (x : StreamId) {f : State → Out} (hf : ∀ t, t.PhysOk → Out.PhysOk (f t)) :
    Out.PhysOk (s.onTurn pid x f) := by
  have hout : Out.PhysOk (f ((s.select pid).onStream x)) := hf _ (by simpa using h)
  unfold State.onTurn
  split
  · next hr =>
    rw [hr] at hout
    exact (State.select_physOk ..).mpr hout
  · exact hout

theorem State.wake_physOk (pid : Nat) (x : StreamId) (here : Wait → Bool) {run : Instr → State → Out}
    (hrun : ∀ i t, t.PhysOk → Out.PhysOk (run i t)) : Out.PhysOk (s.wake pid x here run) := by
  unfold State.wake
  split
  · refine Out.PhysOk.ite (State.onTurn_physOk h pid x fun t ht => ?_) h
    split
    · exact hrun _ _ ht
    · exact ht
  · exact h

theorem execBarrierReturn_physOk (pid : Nat) : (execBarrierReturn pid s).PhysOk := by
  refine State.wake_physOk h _ _ _ fun i t ht => ?_
  split
  · exact barrierArrive_physOk ht ..
  · exact barrierArrive_physOk ht ..
  · exact barrierArrive_physOk ht ..
  · exact execBarw_physOk ht ..
  · exact ht

theorem execFullEmptyWake_physOk (pid : Nat) (op : Option Nat) : (execFullEmptyWake pid op s).PhysOk := by
  unfold execFullEmptyWake
  split
  · refine State.onCore_physOk h pid fun t ht => ?_
    split
    · split
      · exact State.goOn_physOk ht ..
      · exact State.goOn_physOk ht ..
      · exact ht
    · exact ht
  · refine State.wake_physOk h _ _ _ fun i t ht => ?_
    split
    · exact execSts_physOk ht ..
    · exact execStsq_physOk ht ..
    · exact ht

theorem execTileReadyResume_physOk (pid : Nat) (st : StreamId) : (execTileReadyResume pid st s).PhysOk := by
  refine State.wake_physOk h _ _ _ fun i t ht => ?_
  split
  · exact execTdef_physOk ht ..
  · exact tileWait_physOk ht _ _ fun _ _ hu => hu
  · exact tileWait_physOk ht _ _ fun _ _ hu => by simpa using hu
  · exact elemLoad_physOk ht _ _ _ _ _ _ _ fun _ hu => State.planStrided_physOk hu ..
  · exact elemStore_physOk ht _ _ _ _ _ fun _ hu => State.planStrided_physOk hu ..
  · exact mmacOp_physOk ht ..
  · exact mmacOp_physOk ht ..
  · exact mmacOp_physOk ht ..
  · exact mmacOp_physOk ht ..
  · exact tileMove_physOk ht ..
  · exact tileMove_physOk ht ..
  · exact ht

theorem execGsyncComplete_physOk (pid : Nat) : (execGsyncComplete pid s).PhysOk := by
  refine State.wake_physOk h _ _ _ fun i t ht => ?_
  split
  · exact execGsync_physOk ht ..
  · exact ht

theorem execWaitpReturn_physOk (pid : Nat) : (execWaitpReturn pid s).PhysOk := by
  refine State.wake_physOk h _ _ _ fun i t ht => ?_
  split
  · exact execWaitp_physOk ht
  · exact ht

theorem State.dsyncAt_physOk (pid : Nat) : (s.dsyncAt pid).PhysOk := by
  unfold State.dsyncAt
  dsimp only
  split
  · split
    · exact State.dsyncTry_physOk h ..
    · exact h
  · exact h

theorem execDsyncComplete_physOk (pid : Nat) : (execDsyncComplete pid s).PhysOk := by
  refine State.wake_physOk (State.dsyncAt_physOk h pid) _ _ _ fun i t ht => ?_
  split
  · exact execDsync_physOk ht ..
  · exact ht

theorem execRemoteDsyncArrival_physOk (ctx device : Nat) : (execRemoteDsyncArrival ctx device s).PhysOk :=
  Out.PhysOk.ite ((State.updCtx_physOk ..).mpr h) h

theorem execStreamDeadlock_physOk (pid : Nat) : (execStreamDeadlock pid s).PhysOk :=
  State.onCore_physOk h pid fun _ ht => State.PhysOk.ite (State.takeTrap_physOk ((State.onStream_physOk ..).mpr ht) ..) ht

/-! ### What a fetch ends in (R82, R122) -/

theorem State.atFetch_physOk {k : State → State} (hk : ∀ t, t.PhysOk → (k t).PhysOk) : (s.atFetch k).PhysOk := by
  unfold State.atFetch
  refine State.PhysOk.ite h ?_
  split
  · next hdue => exact State.dueTrap_physOk h hdue
  · exact State.PhysOk.ite (hk _ h) (State.standHere_physOk h)

theorem execIllegalInstruction_physOk (word : BitVec 32) : (execIllegalInstruction word s).PhysOk :=
  Out.PhysOk.ite (State.atFetch_physOk h fun _ ht => State.trapAt_physOk ht ..) h

theorem execFetchProtectionFault_physOk (va : Word) : (execFetchProtectionFault va s).PhysOk :=
  Out.PhysOk.ite (State.atFetch_physOk h fun _ ht => State.trapAt_physOk ht ..) h

theorem State.fetchTrap_physOk (cause : Nat) (val : Word) : (s.fetchTrap cause val).PhysOk :=
  State.atFetch_physOk h fun _ ht => State.trapAt_physOk ht ..

theorem State.fetchPark_physOk (level base : Nat) (va : Word) : (s.fetchPark level base va).PhysOk :=
  State.atFetch_physOk h fun _ ht => State.parkAt_physOk ht ..

end

end Sys2Proof.Machine
end

section
/-! The remaining instructions keep the canonical form: branches, queues and addresses (spec/07_scalar_instructions.md R132 to R139), tiles and
copies (spec/10_memory_instructions.md R200 to R202), vectors (spec/11_vector_instructions.md R207 to R219) and floating point
(spec/13_rational_and_solver_instructions.md R244 to R259). -/

namespace Sys2Proof.Machine

section
variable {s : State} (h : s.PhysOk)
include h

/-! ### Branches, queues and addresses -/

theorem execBcc_physOk (a b : BitVec 5) (off : BitVec 12) (c : BitVec 3) : (execBcc a b off c s).PhysOk :=
  issue_physOk h _ fun _ ht => State.PhysOk.ite ((State.setPc_physOk ..).mpr ht) ht

theorem execBr_physOk (off : BitVec 25) : (execBr off s).PhysOk := issue_physOk h _ fun _ ht => (State.setPc_physOk ..).mpr ht

theorem execCall_physOk (off : BitVec 25) : (execCall off s).PhysOk := issue_physOk h _ fun _ ht => by simpa using ht

theorem execJr_physOk (a : BitVec 5) : (execJr a s).PhysOk := issue_physOk h _ fun _ ht => jumpTo_physOk ht _

theorem execCallr_physOk (a : BitVec 5) : (execCallr a s).PhysOk :=
  issue_physOk h _ fun _ ht => jumpTo_physOk ((State.setG_physOk ..).mpr ht) _

theorem execRet_physOk : (execRet s).PhysOk := issue_physOk h _ fun _ ht => jumpTo_physOk ht _

theorem execQput_physOk (q a : BitVec 5) : (execQput q a s).PhysOk := issue_physOk h _ fun _ ht => by simp [ht]

theorem execQget_physOk (q d : BitVec 5) : (execQget q d s).PhysOk := by
  refine issue_physOk h _ fun t ht => ?_
  split
  · trivial
  · next hpop =>
    have hleft := State.popQ_physOk ht hpop
    exact Res.PhysOk.ite ((State.setG_physOk ..).mpr hleft) ((State.launchOp_physOk ..).mpr hleft)

theorem execGtol_physOk (d a : BitVec 5) : (execGtol d a s).PhysOk := issue_physOk h _ fun _ ht => by simp [ht]

theorem execLtog_physOk (d a b : BitVec 5) : (execLtog d a b s).PhysOk := by
  refine issue_physOk h _ fun t ht => ?_
  split
  · exact (State.setG_physOk ..).mpr ht
  · trivial

theorem execInap_physOk (d a : BitVec 5) : (execInap d a s).PhysOk := issue_physOk h _ fun _ ht => (State.setG_physOk ..).mpr ht

theorem execTeama_physOk (d a b : BitVec 5) : (execTeama d a b s).PhysOk := issue_physOk h _ fun _ ht => by simp [ht]

/-! ### System registers, tiles and copies -/

theorem execNop_physOk : (execNop s).PhysOk := issue_physOk h _ fun _ ht => ht

theorem execSysrd_physOk (d : BitVec 5) (imm : BitVec 9) : (execSysrd d imm s).PhysOk :=
  issue_physOk h _ fun _ ht => (State.setG_physOk ..).mpr ht

theorem execTstat_physOk (d a : BitVec 5) : (execTstat d a s).PhysOk := issue_physOk h _ fun _ ht => (State.setG_physOk ..).mpr ht

theorem execTwait_physOk (a : BitVec 5) : (execTwait a s).PhysOk := tileWait_physOk h _ _ fun _ _ ht => ht

theorem execTrel_physOk (a : BitVec 5) : (execTrel a s).PhysOk := tileWait_physOk h _ _ fun _ _ ht => by simpa using ht

theorem execCpset_physOk (a : BitVec 5) (k : BitVec 3) : (execCpset a k s).PhysOk := issue_physOk h _ fun _ ht => by simpa using ht

theorem execCpprobe_physOk (d a : BitVec 5) : (execCpprobe d a s).PhysOk := issue_physOk h _ fun _ ht => (State.setG_physOk ..).mpr ht

/-! ### Vectors -/

theorem vectorAdd_physOk (v : VecForm) (sub : Bool) : (vectorAdd v sub s).PhysOk := execVec_physOk h v _ _

theorem vectorMul_physOk (v : VecForm) : (vectorMul v s).PhysOk := execVec_physOk h v _ _

theorem vectorFma_physOk (v : VecForm) (sub : Bool) : (vectorFma v sub s).PhysOk := execVec_physOk h v _ _

theorem vectorPick_physOk (v : VecForm) (big : Bool) : (vectorPick v big s).PhysOk := execVec_physOk h v _ _

theorem vectorBits_physOk (v : VecForm) (f : Nat → Nat → Nat) : (vectorBits v f s).PhysOk := execVec_physOk h v _ _

theorem vectorShift_physOk (v : VecForm) (kind : Nat) : (vectorShift v kind s).PhysOk := execVec_physOk h v _ _

theorem vectorMove_physOk (v : VecForm) : (vectorMove v s).PhysOk := execVec_physOk h v _ _

theorem vectorSelect_physOk (v : VecForm) (sel : Nat) : (vectorSelect v sel s).PhysOk := execVec_physOk h v _ _

theorem vectorSpecial_physOk (i : Instr) (fn : Nat) (d a : BitVec 5) (k : BitVec 2) (pol me : BitVec 1) (la : BitVec 4) :
    (vectorSpecial i fn d a k pol me la s).PhysOk :=
  execVec_physOk h _ _ _

theorem execVsplat_physOk (d a : BitVec 5) (k : BitVec 2) (pol me : BitVec 1) : (execVsplat d a k pol me s).PhysOk :=
  issue_physOk h _ fun _ ht => by simp [ht]

theorem execVpopm_physOk (d a : BitVec 5) : (execVpopm d a s).PhysOk := by
  refine issue_physOk h _ fun t ht => ?_
  split
  · trivial
  · next htake =>
    have htaken := State.takeV_physOk ht htake
    exact Res.PhysOk.ite ((State.launchLate_physOk ..).mpr htaken) ((State.setG_physOk ..).mpr htaken)

theorem execVswap_physOk (d a : BitVec 5) : (execVswap d a s).PhysOk := issue_physOk h _ fun _ ht => by simpa using ht

theorem execVcvts_physOk (d a : BitVec 5) (k : BitVec 2) (tag : BitVec 4) (pol me : BitVec 1) (la : BitVec 4) :
    (execVcvts d a k tag pol me la s).PhysOk :=
  Out.PhysOk.ite (execVec_physOk h ..) (execVec_physOk h ..)

theorem execVunpack_physOk (d a : BitVec 5) (la : BitVec 4) : (execVunpack d a la s).PhysOk := by
  unfold execVunpack
  dsimp only
  exact issue_physOk h _ fun _ ht => by simp [ht]

theorem execVredq_physOk (d a : BitVec 5) (n : BitVec 4) (f : BitVec 1) (la : BitVec 4) : (execVredq d a n f la s).PhysOk := by
  unfold execVredq
  dsimp only
  exact issue_physOk h _ fun _ ht => Res.PhysOk.ite (Res.physOk_trap ..) (State.partRoom_physOk _ ((State.launchOp_physOk ..).mpr ht))

theorem execVelim_physOk (d a b : BitVec 5) (k : BitVec 2) (pol me : BitVec 1) : (execVelim d a b k pol me s).PhysOk := by
  unfold execVelim
  dsimp only
  exact issue_physOk h _ fun _ ht => Res.PhysOk.ite (Res.physOk_trap ..) (State.partRoom_physOk _ ((State.launchOp_physOk ..).mpr ht))

theorem execVreg_physOk (d a b : BitVec 5) : (execVreg d a b s).PhysOk := by
  unfold execVreg
  dsimp only
  exact issue_physOk h _ fun _ ht => by simp [ht]

/-! ### Floating point -/

theorem execF2g_physOk (d a : BitVec 5) (la : BitVec 4) : (execF2g d a la s).PhysOk := issue_physOk h _ fun _ ht => by simp [ht]

theorem execG2f_physOk (d a : BitVec 5) (tag la : BitVec 4) : (execG2f d a tag la s).PhysOk :=
  issue_physOk h _ fun _ ht => (State.launchOp_physOk ..).mpr ht

theorem execFmvg_physOk (d a : BitVec 5) : (execFmvg d a s).PhysOk := issue_physOk h _ fun _ ht => (State.setG_physOk ..).mpr ht

theorem execGmvf_physOk (d a : BitVec 5) (tag : BitVec 4) : (execGmvf d a tag s).PhysOk :=
  issue_physOk h _ fun _ ht => (State.setF_physOk ..).mpr ht

theorem execFli_physOk (d : BitVec 5) (imm : BitVec 20) : (execFli d imm s).PhysOk := issue_physOk h _ fun _ ht => by simpa using ht

theorem execFmake_physOk (d a b : BitVec 5) (la : BitVec 4) : (execFmake d a b la s).PhysOk :=
  issue_physOk h _ fun _ ht => (State.launchOp_physOk ..).mpr ht

end

end Sys2Proof.Machine
end

section
/-! Every instruction and every event keeps pooled and host memory in canonical form: one case per row of the instruction table, each by the lemma of its
shape or of its event. -/

namespace Sys2Proof.Machine

theorem exec_physOk {s : State} (h : s.PhysOk) (i : Instr) : Out.PhysOk (exec i s) := by
  cases i
  all_goals dsimp only [exec]
  -- Scalar instructions (spec/07_scalar_instructions.md).
  case add | sub | and | or | xor | shl | shr | sar | slt | sltu | min | max | clz | ctz | popc | addi | andi | ori | xori | shli | shri | sari | slti
    | sltiu | lui | adpc => exact shortG_physOk h ..
  case mul | mulh | gcd => exact longG_physOk h ..
  case div | divu | rem | remu => exact longDiv_physOk h ..
  case bcc => exact execBcc_physOk h ..
  case br => exact execBr_physOk h ..
  case call => exact execCall_physOk h ..
  case jr => exact execJr_physOk h ..
  case callr => exact execCallr_physOk h ..
  case ret => exact execRet_physOk h
  case qput => exact execQput_physOk h ..
  case qget => exact execQget_physOk h ..
  case gtol => exact execGtol_physOk h ..
  case ltog => exact execLtog_physOk h ..
  case inap => exact execInap_physOk h ..
  case teama => exact execTeama_physOk h ..
  -- System instructions (spec/21_system_instructions.md).
  case sysrd => exact execSysrd_physOk h ..
  case syswr => exact execSyswr_physOk h ..
  case svc | trap => exact callSup_physOk h ..
  case safept => exact execSafept_physOk h ..
  case tret => exact execTret_physOk h
  case exit => exact execExit_physOk h
  case nop => exact execNop_physOk h
  -- Ordering and synchronisation (spec/14_ordering.md, spec/15_sync_instructions.md).
  case fence | fenceAcq | fenceRel => exact fenceOp_physOk h ..
  case bar | barW | barx => exact barrierArrive_physOk h ..
  case barw => exact execBarw_physOk h ..
  case dsync => exact execDsync_physOk h ..
  case gsync => exact execGsync_physOk h ..
  case waitp => exact execWaitp_physOk h
  case trig => exact execTrig_physOk h
  case lvget => exact execLvget_physOk h ..
  case lvnbr => exact execLvnbr_physOk h ..
  case lvread => exact execLvread_physOk h ..
  case lvtake => exact execLvtake_physOk h
  case lvret => exact execLvret_physOk h
  case lvstep => exact execLvstep_physOk h ..
  case lvcommit => exact execLvcommit_physOk h
  case lvthaw => exact execLvthaw_physOk h ..
  -- Memory instructions (spec/10_memory_instructions.md).
  case ld | ldz => exact scalarLoad_physOk h ..
  case st => exact execSt_physOk h ..
  case ldq => exact execLdq_physOk h ..
  case stq => exact execStq_physOk h ..
  case ldqs => exact elemLoad_physOk h _ _ _ _ _ _ _ fun _ ht => State.planStrided_physOk ht ..
  case stqs => exact elemStore_physOk h _ _ _ _ _ fun _ ht => State.planStrided_physOk ht ..
  case ldqx => exact elemLoad_physOk h _ _ _ _ _ _ _ fun _ ht => State.planIndexed_physOk ht ..
  case stqx => exact elemStore_physOk h _ _ _ _ _ fun _ ht => State.planIndexed_physOk ht ..
  case lds => exact execLds_physOk h ..
  case sts => exact execSts_physOk h ..
  case ldsq => exact execLdsq_physOk h ..
  case stsq => exact execStsq_physOk h ..
  case atomicAdd | atomicAnd | atomicOr | atomicXor | atomicMin | atomicMax | atomicSwp | atomicCas | radd => exact atomicOp_physOk h ..
  case tdef => exact execTdef_physOk h ..
  case tstat => exact execTstat_physOk h ..
  case twait => exact execTwait_physOk h ..
  case trel => exact execTrel_physOk h ..
  case cpset => exact execCpset_physOk h ..
  case cpgo => exact execCpgo_physOk h ..
  case cpwait => exact execCpwait_physOk h ..
  case cpprobe => exact execCpprobe_physOk h ..
  -- Floating point, rationals and the solver (spec/13_rational_and_solver_instructions.md).
  case fadd | fsub | fmul | fdiv | fsqrt | fma | fcvt | fmed => exact longF_physOk h ..
  case fmin | fmax | fabs | fneg => exact shortF_physOk h ..
  case feq | flt | fle => exact fCompare_physOk h ..
  case fnum | fden => exact fPart_physOk h ..
  case frnd | fnbr => exact fRational_physOk h ..
  case f2g => exact execF2g_physOk h ..
  case g2f => exact execG2f_physOk h ..
  case fmvg => exact execFmvg_physOk h ..
  case gmvf => exact execGmvf_physOk h ..
  case fmake => exact execFmake_physOk h ..
  case fli => exact execFli_physOk h ..
  case vpivot | vpivotR => exact vectorPivot_physOk h ..
  case velim => exact execVelim_physOk h ..
  case vreg => exact execVreg_physOk h ..
  -- Vector instructions (spec/11_vector_instructions.md).
  case vadd | vsub | vaddH | vsubH | vrsub => exact vectorAdd_physOk h ..
  case vmul | vmulH => exact vectorMul_physOk h ..
  case vfma | vfms => exact vectorFma_physOk h ..
  case vmin | vmax | vminH | vmaxH => exact vectorPick_physOk h ..
  case vand | vor | vxor | vandH | vorH | vxorH => exact vectorBits_physOk h ..
  case vshl | vshr | vsar => exact vectorShift_physOk h ..
  case vmov | vmovH => exact vectorMove_physOk h ..
  case vsel | vselH => exact vectorSelect_physOk h ..
  case vrcp | vrsq | vsqrt | vexp2 | vlog2 | vtanh | vsigm => exact vectorSpecial_physOk h ..
  case vdiv | vcmp | vperm | vslideUp | vslideDown | vidx | vcompress | vcvt | vpack | vrng | vneg | vabs | vrelu | vzero => exact execVec_physOk h ..
  case vredadd | vredmax | vredmin => exact vectorReduce_physOk h ..
  case vsplat => exact execVsplat_physOk h ..
  case vpopm => exact execVpopm_physOk h ..
  case vswap => exact execVswap_physOk h ..
  case vcvts => exact execVcvts_physOk h ..
  case vunpack => exact execVunpack_physOk h ..
  case vredq => exact execVredq_physOk h ..
  -- Matrix instructions (spec/12_matrix_instructions.md).
  case mmacVv | mmacSv | mmacVs | mmacSs => exact mmacOp_physOk h ..
  case mload | mstore => exact tileMove_physOk h ..
  case mspill | mfill => exact groupMove_physOk h ..
  case mzero => exact execMzero_physOk h ..
  case mdrain => exact execMdrain_physOk h ..
  case hret => exact execHret_physOk h
  case mpin => exact execMpin_physOk h ..
  case mfree => exact execMfree_physOk h ..
  case mown => exact execMown_physOk h ..
  case fwdelta => exact execFwdelta_physOk h ..
  case fwchunk => exact execFwchunk_physOk h ..
  case fwread => exact execFwread_physOk h ..
  -- Queues, commands, placement and levels (spec/02_describing_and_launching.md to spec/04_time_levels.md).
  case notifyWrite => exact execNotifyWrite_physOk h ..
  case slotRead => exact execSlotRead_physOk h ..
  case staleSlotReread => exact execStaleSlotReread_physOk h ..
  case launch => exact execLaunch_physOk h ..
  case front => exact execFront_physOk h ..
  case marker => exact execMarker_physOk h ..
  case queueEnable => exact execQueueEnable_physOk h ..
  case queueDisable => exact execQueueDisable_physOk h ..
  case queueAck => exact execQueueAck_physOk h ..
  case seedWrite => exact execSeedWrite_physOk h ..
  case contextSave => exact execContextSave_physOk h ..
  case teamResume => exact execTeamResume_physOk h ..
  case commandComplete => exact State.completeCmd_physOk h ..
  case levelDispatch => exact execLevelDispatch_physOk h ..
  case commitArrival => exact execCommitArrival_physOk h ..
  case stall => exact execStall_physOk h ..
  case lvRecordStage => exact execLvRecordStage_physOk h ..
  case lvRecordApply => exact execLvRecordApply_physOk h
  -- What has issued goes on, what waits is tried again, and what a fetch ends in (spec/05_fetch_and_issue.md).
  case illegalInstruction => exact execIllegalInstruction_physOk h ..
  case fetchProtectionFault => exact execFetchProtectionFault_physOk h ..
  case streamDeadlock => exact execStreamDeadlock_physOk h ..
  case longOpComplete => exact execLongOpComplete_physOk h ..
  case storeRefusal => exact execStoreRefusal_physOk h ..
  case storeAck => exact execStoreAck_physOk h ..
  case queueEntryFill => exact execQueueEntryFill_physOk h ..
  case pageFaultPark => exact execPageFaultPark_physOk h ..
  case copyJobComplete => exact State.jobOn_physOk h ..
  case copyJobFaultEnd => exact execCopyJobFaultEnd_physOk h ..
  case barrierReturn => exact execBarrierReturn_physOk h ..
  case homeSliceServe => exact execHomeSliceServe_physOk h ..
  case clusterAtomicServe => exact execClusterAtomicServe_physOk h ..
  case atomicPromote => exact execAtomicPromote_physOk h ..
  case netPacketPromote => exact execNetPacketPromote_physOk h ..
  case fullEmptyWake => exact execFullEmptyWake_physOk h ..
  case tileReadyResume => exact execTileReadyResume_physOk h ..
  case gangMeet => exact execGangMeet_physOk h ..
  case dsyncComplete => exact execDsyncComplete_physOk h ..
  case remoteDsyncArrival => exact execRemoteDsyncArrival_physOk h ..
  case gsyncComplete => exact execGsyncComplete_physOk h ..
  case waitpReturn => exact execWaitpReturn_physOk h ..
  -- The device and its edges (spec/08_memory.md, spec/24_retirement.md, spec/25_host_and_power_on.md).
  case fbHeadWrite => exact execFbHeadWrite_physOk h ..
  case replayAll => exact execReplayAll_physOk h
  case ttInval => exact execTtInval_physOk h ..
  case ttInvalDone => exact execTtInvalDone_physOk h
  case partReset => exact execPartReset_physOk h ..
  case purgeComplete => exact execPurgeComplete_physOk h ..
  case rectReturnToService => exact execRectReturnToService_physOk h ..
  case iftPeriodic => exact execIftPeriodic_physOk h ..
  case iftNow => exact execIftNow_physOk h ..
  case iftTestComplete => exact execIftTestComplete_physOk h ..
  case getTest | setConfig | attest | getFailrec | fwUpdate => exact State.mailbox_physOk h _
  case mailboxResponse => exact execMailboxResponse_physOk h ..
  case powerGood => exact execPowerGood_physOk h ..
  case deviceReset => exact execDeviceReset_physOk h ..
  case registerWrite => exact execRegisterWrite_physOk h ..
  case remoteDomainAccess => exact execRemoteDomainAccess_physOk h ..
  case replayDiverge => exact execReplayDiverge_physOk h ..
  case hostLinkDown => exact execHostLinkDown_physOk h ..
  case ngucyLinkDown => exact execNgucyLinkDown_physOk h ..
  case flitCrcFailure => exact h
  case powerThrottle => exact execPowerThrottle_physOk h ..
  case thermalTrip => exact execThermalTrip_physOk h
  case hostCxlMemAccess => exact execHostCxlMemAccess_physOk h ..
  case hostCoherenceRequest => exact execHostCoherenceRequest_physOk h ..

end Sys2Proof.Machine
end

section
/-! A step keeps the canonical form: the turn that it takes leaves pooled and host memory so, and then what the turn asks for does
(spec/08_memory.md R140, log entries 1 and 2). -/

namespace Sys2Proof.Machine

/-- What a turn has left to do starts with the memories in canonical form. -/
def Todo.PhysOk : Todo → Prop
  | .run _ s => s.PhysOk
  | .rest s => s.PhysOk

theorem Todo.go_physOk {t : Todo} (h : t.PhysOk) : Out.PhysOk t.go := by
  cases t with
  | run i s => exact exec_physOk h i
  | rest s => exact h

section
variable {s : State} (h : s.PhysOk)
include h

/-! ### Moves of the environment (R158, R336, R358) -/

theorem State.cacheEntry_physOk (pid : Nat) (va : Word) : (s.cacheEntry pid va).PhysOk := by
  unfold State.cacheEntry
  dsimp only
  refine State.PhysOk.ite h ?_
  split
  · exact (State.updCore_physOk ..).mpr h
  · exact h

theorem State.passPacket_physOk (pid : Nat) (req : ReqRef) : (s.passPacket pid req).PhysOk := by
  refine State.onAsk_physOk h pid req fun a t ht => ?_
  split
  · refine State.PhysOk.ite ?_ ht
    cases req with
    | pending i => exact (State.updThis_physOk ..).mpr ht
    | op i => exact (State.updThis_physOk ..).mpr ht
  · exact ht

theorem State.deliverPacket_physOk (idx : Nat) : (s.deliverPacket idx).PhysOk := by
  unfold State.deliverPacket
  split
  · exact h
  dsimp only
  split
  · next pid r _ _ cs _ =>
    have hgone : (s.updDev fun d => { d with packets := dropAt idx d.packets }).PhysOk := (State.updDev_physOk ..).mpr h
    have hback := State.recall_physOk hgone none cs
    split
    · next hr => exact (State.doRequest_physOk hback (Core.init pid) r).of_ok hr
    · exact (State.tried_physOk _).mpr hback
    · exact hback
  · exact h
  · exact h

/-! ### What a step takes up -/

theorem State.fetchReach_physOk (pc : Word) : (s.fetchReach pc).PhysOk := by
  unfold State.fetchReach
  split
  · exact (State.touch_physOk ..).mpr (State.recall_physOk h ..)
  · exact h

theorem State.toFetch_physOk : s.toFetch.PhysOk := by
  have hreach := State.fetchReach_physOk h s.cur.pc
  unfold State.toFetch
  refine State.PhysOk.ite h ?_
  dsimp only
  split
  · exact State.PhysOk.ite (State.fetchReach_physOk hreach _) hreach
  · exact hreach

theorem State.fetched_physOk : s.fetched.PhysOk := by
  have hfetch := State.toFetch_physOk h
  unfold State.fetched
  dsimp only
  split
  · exact hfetch
  · exact hfetch
  · exact hfetch
  · exact State.fetchTrap_physOk hfetch ..
  · exact State.fetchPark_physOk hfetch ..

theorem State.take_physOk (t : Turn) : (s.take t).PhysOk := by
  have hdev : ∀ f, (s.updDev f).PhysOk := fun f => (State.updDev_physOk ..).mpr h
  cases t with
  | stream pid x => exact State.fetched_physOk (by simpa using h)
  | event e =>
    unfold State.take
    dsimp only
    split
    · exact h
    · exact h
  | tick n => exact hdev _
  | cache pid va => exact State.cacheEntry_physOk h pid va
  | evict pid idx => exact (State.updCore_physOk ..).mpr h
  | corrected => exact hdev _
  | poison u => exact hdev _
  | dropped pa => exact hdev _
  | peer device up => exact hdev _
  | refusal pasid on => exact hdev _
  | passes pid req => exact State.passPacket_physOk h pid req
  | deliver idx => exact State.deliverPacket_physOk h idx

theorem State.turnNow_physOk : s.turnNow.PhysOk := by
  unfold State.turnNow
  split
  · exact State.take_physOk ((State.physOk_mk ..).mpr h) _
  · split
    · exact State.take_physOk h _
    · exact h

theorem step_physOk : Out.PhysOk (step s) := Todo.go_physOk (State.turnNow_physOk h)

end

end Sys2Proof.Machine

namespace Sys2Proof.Proofs

open Sys2Proof.Machine Sys2Proof.Safety

/-- Settles O21: pooled and host memory change only by pokes, which keep the canonical form; so does every operation that is made of them, every
instruction and event, and every turn. -/
theorem memoryStaysCanonical : Obligations.MemoryStaysCanonical := by
  unfold Obligations.MemoryStaysCanonical
  intro s t h hstep
  have hout := step_physOk h
  rw [hstep] at hout
  exact hout

end Sys2Proof.Proofs
end

section
/-! What an access sees of the machine: where it lands and what it reads there depend on memories, registers, translations and tasks alone, none of
which the issue of an instruction touches (spec/08_memory.md R140, R154 to R157, spec/10_memory_instructions.md R186). -/

namespace Sys2Proof.Machine

open Sys2Proof.Safety

/-! ### States that an access cannot tell apart -/

/-- Two cores hold the same task, translations, registers, tiles and scratchpad. -/
structure Core.Alike (k j : Core) : Prop where
  pid : j.pid = k.pid
  task : j.task = k.task
  tlb : j.tlb = k.tlb
  aot : j.aot = k.aot
  f : j.f = k.f
  v : j.v = k.v
  tiles : j.tiles = k.tiles
  spad : j.spad = k.spad
  full : j.full = k.full
  tileTab : j.tileTab = k.tileTab
  level : j.sys.domLevel = k.sys.domLevel
  ga : j.a.g = k.a.g
  gc : j.c.g = k.c.g

/-- From `s` to `t` nothing has changed that an access of the current core's stream sees. -/
structure Undisturbed (s t : State) : Prop where
  core : s.core.Alike t.core
  sel : t.core.sel = s.core.sel
  mode : t.cur.mode = s.cur.mode
  cores : t.cores = s.cores
  clusters : t.clusters = s.clusters
  contexts : t.contexts = s.contexts
  pool : t.pool = s.pool
  host : t.host = s.host
  dev : t.dev = s.dev
  free : t.free = s.free

theorem Core.Alike.refl (k : Core) : k.Alike k := ⟨rfl, rfl, rfl, rfl, rfl, rfl, rfl, rfl, rfl, rfl, rfl, rfl, rfl⟩

theorem Core.Alike.trans {k j l : Core} (h : k.Alike j) (h' : j.Alike l) : k.Alike l where
  pid := h'.pid.trans h.pid
  task := h'.task.trans h.task
  tlb := h'.tlb.trans h.tlb
  aot := h'.aot.trans h.aot
  f := h'.f.trans h.f
  v := h'.v.trans h.v
  tiles := h'.tiles.trans h.tiles
  spad := h'.spad.trans h.spad
  full := h'.full.trans h.full
  tileTab := h'.tileTab.trans h.tileTab
  level := h'.level.trans h.level
  ga := h'.ga.trans h.ga
  gc := h'.gc.trans h.gc

/-- The byte of an on-chip window. -/
theorem Core.Alike.winByte {k j : Core} (h : k.Alike j) (off : Nat) : j.winByte off = k.winByte off := by
  simp only [Core.winByte, Core.tileByte, Core.regSlot, Core.getTile, Core.getF, Core.getV, Core.getEntry, Core.isFull, Stream.getG, h.tiles, h.ga,
    h.gc, h.f, h.v, h.tileTab, h.full] <;> rfl

namespace Undisturbed

variable {s t u : State}

theorem trans (h : Undisturbed s t) (h' : Undisturbed t u) : Undisturbed s u where
  core := h.core.trans h'.core
  sel := h'.sel.trans h.sel
  mode := h'.mode.trans h.mode
  cores := h'.cores.trans h.cores
  clusters := h'.clusters.trans h.clusters
  contexts := h'.contexts.trans h.contexts
  pool := h'.pool.trans h.pool
  host := h'.host.trans h.host
  dev := h'.dev.trans h.dev
  free := h'.free.trans h.free

section
variable (h : Undisturbed s t)
include h

theorem coreAt (pid : Nat) : (s.coreAt pid).Alike (t.coreAt pid) := by
  unfold State.coreAt
  rw [h.core.pid, h.cores]
  split
  · exact h.core
  · exact .refl _

theorem cmdAt (ctx q : Nat) (seq : BitVec 32) : t.cmdAt ctx q seq = s.cmdAt ctx q seq := State.cmdAt_congr h.contexts

theorem clusterAt (id : Nat) : t.clusterAt id = s.clusterAt id := by rw [State.clusterAt, State.clusterAt, h.clusters]

theorem who : t.who = s.who := by simp only [State.who, State.isUpdate, State.isStall, h.core.pid, h.core.task, h.mode]

/-! ### Translation -/

theorem leafFor (w : Who) (va : Nat) : t.leafFor w va = s.leafFor w va := by
  have hword : ∀ ctx hm pa, t.physWord ctx hm pa = s.physWord ctx hm pa := fun ctx hm pa => by
    simp only [State.physWord, State.hostServes, State.hostUp, State.ctxAt_congr h.contexts, h.dev, h.host, h.pool] <;> rfl
  have hwalk : ∀ ctx va level hm table, t.walk ctx va level hm table = s.walk ctx va level hm table := by
    intro ctx va level
    induction level with
    | zero => intro hm table; rw [State.walk, State.walk, hword]
    | succ n ih => intro hm table; rw [State.walk, State.walk, hword]; simp only [ih]
  simp only [State.leafFor, State.tlbHit, (h.coreAt _).tlb, State.ctxAt_congr h.contexts, hwalk]

theorem locatePage (w : Who) (acc : Acc) (va len : Nat) : t.locatePage w acc va len = s.locatePage w acc va len := by
  simp only [State.locatePage, h.leafFor, State.hostServes, State.hostUp, State.ctxAt_congr h.contexts, h.dev] <;> rfl

theorem locateVirtual (w : Who) (acc : Acc) (va n : Nat) : t.locateVirtual w acc va n = s.locateVirtual w acc va n := by
  have hpages : ∀ k va n, t.locatePages w acc k va n = s.locatePages w acc k va n := by
    intro k
    induction k with
    | zero => intro va n; simp only [State.locatePages, h.locatePage]
    | succ k ih => intro va n; simp only [State.locatePages, h.locatePage, ih]
  exact hpages ..

/-! ### Where an access lands, and what it reads there -/

/-- Every access lands where it did (R186). -/
theorem locate (w : Who) (acc : Acc) (addr : Word) (n : Nat) : t.locate w acc addr n = s.locate w acc addr n := by
  have htiles : ∀ pid ctx off n, t.tilesOwned pid ctx off n = s.tilesOwned pid ctx off n := fun pid ctx off n => by
    simp only [State.tilesOwned, Core.getAot, (h.coreAt pid).aot]
  simp only [State.locate, h.locateVirtual, State.runsCtx, State.runsLevel4, (h.coreAt _).task, (h.coreAt _).level, htiles, State.domDevices,
    h.cmdAt, State.ctxAt_congr h.contexts, h.dev, h.free] <;> rfl

theorem apertureOk (w : Who) (addr : Word) (n : Nat) : t.apertureOk w addr n = s.apertureOk w addr n := by
  simp only [State.apertureOk, State.teamSize, h.cmdAt] <;> rfl

theorem checkAddr (w : Who) (addr : Word) (n align : Nat) : t.checkAddr w addr n align = s.checkAddr w addr n align := by
  simp only [State.checkAddr, h.apertureOk]

theorem peekAll (cs : List Chunk) : t.peekAll cs = s.peekAll cs := by
  have hpeek : t.peek = s.peek := by
    funext c
    cases c <;> simp only [State.peek, h.host, h.pool, (h.coreAt _).spad, (h.coreAt _).winByte, h.free]
  rw [State.peekAll, State.peekAll, hpeek]

theorem spans (w : Who) (addr : Word) (n : Nat) : t.spans w addr n = s.spans w addr n := by simp only [State.spans, h.locate]

end
end Undisturbed

/-! ### The issue of an instruction -/

/-- The issue of an instruction disturbs nothing. -/
theorem State.issued_undisturbed (s : State) (i : Instr) : Undisturbed s (s.issued i) := by
  have hcur : (s.issued i).core.str s.core.sel = (s.issued i).cur := by rw [State.cur, State.issued_core_sel]
  have hother := State.issued_other_but_resume (s := s) i
  have hg : ((s.issued i).core.str s.core.sel).g = (s.core.str s.core.sel).g := by rw [hcur]; exact State.issued_cur_g s i
  have hg' : ((s.issued i).core.str s.core.sel.other).g = (s.core.str s.core.sel.other).g := by rw [hother]
  have hgs : (s.issued i).core.a.g = s.core.a.g ∧ (s.issued i).core.c.g = s.core.c.g := by
    cases hsel : s.core.sel with
    | a => rw [hsel] at hg hg'; exact ⟨hg, hg'⟩
    | c => rw [hsel] at hg hg'; exact ⟨hg', hg⟩
  have hlevel : (s.issued i).core.sys.domLevel = s.core.sys.domLevel := by
    obtain ⟨ha, hc⟩ := State.issued_counts (s := s) i
    cases hsel : s.core.sel with
    | a => rw [ha hsel]
    | c => rw [hc hsel]
  constructor
  case core =>
    constructor
    case ga => exact hgs.1
    case gc => exact hgs.2
    case level => exact hlevel
    all_goals simp
  case mode => rw [State.issued_cur]; rfl
  all_goals simp

end Sys2Proof.Machine
end

section
/-! The copy instructions: what each does where nothing holds it back (spec/10_memory_instructions.md R201, R202), and O32. -/

namespace Sys2Proof.Machine

open Sys2Proof.Safety

/-- A job that the running task waits for is found past an instruction as before it. -/
theorem State.issued_xferJob (s : State) (i : Instr) (id : Nat) : (s.issued i).xferJob id = s.xferJob id := by
  simp only [State.xferJob, Core.cluster, Job.ofTask, State.issued_core_pid, State.issued_core_task, (s.issued_undisturbed i).clusterAt]

theorem State.issued_badAddress (s : State) (i : Instr) (c : CopyReq) : c.badAddress (s.issued i) = c.badAddress s := by
  have h := s.issued_undisturbed i
  simp only [CopyReq.badAddress, CopyReq.badRows, h.who, h.apertureOk]

theorem State.issued_badTile (s : State) (i : Instr) (c : CopyReq) : c.badTile (s.issued i).core = c.badTile s.core := by
  simp only [CopyReq.badTile, State.issued_getEntry]

/-! ### A job enters its copy unit (R149, R202) -/

/-- A tile that a job names is busy, and stays so with another job. -/
theorem TileEntry.accept_busy (e : TileEntry) (dest : Bool) : (e.accept dest).busy = true := by
  cases dest
  · by_cases hd : e.dests = 0 <;> simp [TileEntry.accept, TileEntry.busy, hd]
  · rfl

/-- The core once a job of `c` has named its tiles. -/
def Core.nameTiles (k : Core) (c : CopyReq) : Core :=
  let k1 := if c.ste then k.setEntry c.stid ((k.getEntry c.stid).accept false) else k
  if c.kind = 2 then k1.setEntry c.dtid ((k1.getEntry c.dtid).accept true) else k1

theorem CopyReq.stid_lt (c : CopyReq) : c.stid < 64 := bitField_lt c.flags 8 6

theorem CopyReq.dtid_lt (c : CopyReq) : c.dtid < 64 := bitField_lt c.done 8 6

theorem Core.nameTiles_source (k : Core) {c : CopyReq} (hs : c.ste = true) : ((k.nameTiles c).getEntry c.stid).busy = true := by
  have hfirst : (k.setEntry c.stid ((k.getEntry c.stid).accept false)).getEntry c.stid = (k.getEntry c.stid).accept false :=
    k.getEntry_setEntry c.stid_lt _
  rw [Core.nameTiles, if_pos hs]
  split
  · by_cases hsame : c.dtid = c.stid
    · rw [hsame, Core.getEntry_setEntry _ c.stid_lt]
      exact TileEntry.accept_busy _ _
    · rw [Core.getEntry_setEntry_of_ne _ hsame, hfirst]
      exact TileEntry.accept_busy _ _
  · rw [hfirst]
    exact TileEntry.accept_busy _ _

theorem Core.nameTiles_destination (k : Core) {c : CopyReq} (hd : c.kind = 2) : ((k.nameTiles c).getEntry c.dtid).busy = true := by
  rw [Core.nameTiles, if_pos hd, Core.getEntry_setEntry _ c.dtid_lt]
  exact TileEntry.accept_busy _ _

/-- Naming tiles changes the tile table alone. -/
theorem Core.nameTiles_eq (k : Core) (c : CopyReq) : k.nameTiles c = { k with tileTab := (k.nameTiles c).tileTab } := by
  unfold Core.nameTiles
  split <;> split <;> rfl

/-- The job that cpgo makes of the shadows. -/
def State.jobOf (s : State) (c : CopyReq) (id born : Nat) : Job :=
  { id := id, pid := s.core.pid, ctx := s.who.ctx, queue := s.who.queue, seq := s.who.seq, mode := s.cur.mode, noReplay := s.noReplay,
    shadows := s.core.shadows, srcTile := if c.ste then some (s.core.getEntry c.stid) else none,
    dstTile := if c.kind = 2 then some (s.core.getEntry c.dtid) else none, state := .queued, next := 0, moved := s.dev.cycle.toNat, born := born,
    ordinal := s.cur.ordinal, lid := (s.core.task.map (·.lid)).getD 0, wroteHost := false, clean := 0 }

/-- The core past a cpgo: its tiles are named, the id is counted, and so are layouts that differ from a tile's (R147, R149, R202). -/
def Core.accepted (k : Core) (c : CopyReq) (id : Nat) : Core :=
  let layouts := (if c.ste ∧ c.slay ≠ (k.getEntry c.stid).layout then 1 else 0)
    + (if c.kind = 2 ∧ c.dlay ≠ (k.getEntry c.dtid).layout then 1 else 0)
  { k with tileTab := (k.nameTiles c).tileTab, sys := { k.sys with cntLayout := k.sys.cntLayout + .ofNat 64 layouts },
           task := k.task.map (fun t => { t with nextJob := nextXfer id }) }

/-- The job stands last in its cluster's copy unit, and its id is in gd. -/
theorem State.acceptJob_eq (s : State) (c : CopyReq) (d : BitVec 5) (id born : Nat) :
    s.acceptJob c d id born
      = (({ s with core := s.core.accepted c id }).updCluster s.core.cluster
          (fun x => { x with jobs := x.jobs ++ [s.jobOf c id born] })).setG d (.ofNat 64 id) := by
  unfold State.acceptJob Core.accepted Core.nameTiles State.jobOf
  cases c.ste <;> by_cases hd : c.kind = 2 <;> simp only [hd, if_true, if_false]
  all_goals rfl

section
variable {s : State} (h : ReadyA s)
include h

theorem exec_cpset (a : BitVec 5) (k : BitVec 3) :
    exec (.cpset a k) s = .next { (s.issued (.cpset a k)) with core := { (s.issued (.cpset a k)).core with
      shadows := s.core.shadows.setIfInBounds k.toNat (s.g a) } } := by
  change execCpset a k s = _
  exact issue_completes h.2 rfl (readyA_admits h) rfl rfl (by simp only [State.issued_g, State.issued_core_shadows])

theorem exec_cpwait_free {a : BitVec 5} (hfree : s.xferJob ((s.g a).toNat % 65536) = none) :
    exec (.cpwait a) s = .next (s.issued (.cpwait a)) := by
  change execCpwait a s = _
  exact issue_completes h.2 rfl (readyA_admits h) rfl rfl (by simp [State.issued_xferJob, hfree])

theorem exec_cpwait_busy {a : BitVec 5} {j : Job} (hbusy : s.xferJob ((s.g a).toNat % 65536) = some j) :
    exec (.cpwait a) s = .next (s.waitAt .cpwait) := by
  change execCpwait a s = _
  exact issue_waits h.2 rfl (readyA_admits h) rfl rfl (by simp [State.issued_xferJob, hbusy])

/-- cpprobe answers the state of the job, or zero (R202). -/
theorem exec_cpprobe (d a : BitVec 5) :
    exec (.cpprobe d a) s
      = .next ((s.issued (.cpprobe d a)).setG d (((s.xferJob ((s.g a).toNat % 65536)).map Job.status).getD 0)) := by
  change execCpprobe d a s = _
  exact issue_completes h.2 rfl (readyA_admits h) rfl rfl (by simp only [State.issued_g, State.issued_xferJob])

/-- A cpgo whose checks pass looks at its unit, then at its transfer id (R202). -/
theorem exec_cpgo (d : BitVec 5) {c : CopyReq} (hc : c = copyReq s.core.shadows) (hfield : c.badField = none) (haddr : c.badAddress s = none)
    (htile : c.badTile s.core = none)
    (hsrc : c.ste = true → (s.core.getEntry c.stid).state ≠ .empty ∧ (s.core.getEntry c.stid).jobs < 255)
    (hdst : c.kind = 2 → (s.core.getEntry c.dtid).state ≠ .empty ∧ (s.core.getEntry c.dtid).jobs < 255) :
    exec (.cpgo d) s =
      if Config.copyJobs ≤ (s.clusterAt s.core.cluster).jobs.length then .next ((s.issued (.cpgo d)).setG d allOnes64)
      else if (s.xferJob ((s.core.task.map (·.nextJob)).getD 0)).isSome then .next (s.waitAt .xfer)
      else .next ((s.issued (.cpgo d)).acceptJob c d ((s.core.task.map (·.nextJob)).getD 0) s.core.nextId).countAccess := by
  have hsrcEmpty : (c.ste && (s.core.getEntry c.stid).state == .empty) = false := by
    cases hs : c.ste with
    | false => rfl
    | true => simpa using (hsrc hs).1
  have hdstEmpty : (c.kind == 2 && (s.core.getEntry c.dtid).state == .empty) = false := by
    by_cases hd : c.kind = 2
    · simpa [hd] using (hdst hd).1
    · simp [hd]
  have hroom : ((c.ste && decide (255 ≤ (s.core.getEntry c.stid).jobs)) || (c.kind == 2 && decide (255 ≤ (s.core.getEntry c.dtid).jobs))) = false := by
    rw [Bool.or_eq_false_iff]
    constructor
    · cases hs : c.ste with
      | false => rfl
      | true => simpa using (hsrc hs).2
    · by_cases hd : c.kind = 2
      · simpa [hd] using (hdst hd).2
      · simp [hd]
  change execCpgo d s = _
  refine (execCpgo.eq_def d s).trans ((issue_ready _ s _ h.2 rfl (readyA_admits h) rfl Bool.false_ne_true.elim).trans ?_)
  have hcluster : (s.issued (.cpgo d)).core.cluster = s.core.cluster := by rw [Core.cluster, State.issued_core_pid]; rfl
  simp only [State.issued_core_shadows, ← hc, hfield, State.issued_badAddress, haddr, State.issued_getEntry, hsrcEmpty, hdstEmpty, State.issued_badTile,
    htile, hroom, hcluster, (s.issued_undisturbed _).clusterAt, State.issued_core_task, State.issued_xferJob, State.issued_core_nextId,
    Bool.false_eq_true, if_false]
  by_cases hfull : Config.copyJobs ≤ (s.clusterAt s.core.cluster).jobs.length
  · simp only [if_pos hfull]
  · by_cases hbusy : (s.xferJob ((s.core.task.map (·.nextJob)).getD 0)).isSome = true
    · simp only [if_neg hfull, if_pos hbusy]
    · simp only [if_neg hfull, if_neg hbusy]

end

/-- A cpgo that is accepted (R202): its job is the last of its unit, and its id is in gd. -/
theorem State.acceptJob_unit (s : State) (c : CopyReq) (d : BitVec 5) (id born : Nat) :
    ((s.acceptJob c d id born).countAccess.clusterAt s.core.cluster).jobs
      = (s.clusterAt s.core.cluster).jobs ++ [s.jobOf c id born] := by
  have hcluster := State.clusterAt_updCluster { s with core := s.core.accepted c id } s.core.cluster
    (fun x => { x with jobs := x.jobs ++ [s.jobOf c id born] }) (fun _ => rfl)
  rw [State.acceptJob_eq]
  exact congrArg Cluster.jobs hcluster

theorem State.acceptJob_g (s : State) (c : CopyReq) (d : BitVec 5) (id born : Nat) :
    (s.acceptJob c d id born).countAccess.cur.g = (s.cur.setG d.toNat (.ofNat 64 id)).g := by
  rw [State.acceptJob_eq, State.countAccess, State.updCur_cur, State.setG_cur]
  rfl

/-- Of the core it changes the tile table, a counter, the task's next id and the stream alone. -/
theorem State.acceptJob_core (s : State) (c : CopyReq) (d : BitVec 5) (id born : Nat) :
    (s.acceptJob c d id born).countAccess.core.task = s.core.task.map (fun t => { t with nextJob := nextXfer id })
      ∧ (s.acceptJob c d id born).countAccess.core.tileTab = (s.core.nameTiles c).tileTab
      ∧ (s.acceptJob c d id born).countAccess.core.spad = s.core.spad ∧ (s.acceptJob c d id born).countAccess.core.f = s.core.f
      ∧ (s.acceptJob c d id born).countAccess.core.v = s.core.v := by
  rw [State.acceptJob_eq]
  simp [State.countAccess, State.setG, Core.accepted]

end Sys2Proof.Machine

namespace Sys2Proof.Proofs

open Sys2Proof.Machine Sys2Proof.Safety

/-- Settles O32: each copy instruction issues, and what it does is that of its rule; an accepted job enters the cluster's copy unit. -/
theorem copyInstructionsComplete : Obligations.CopyInstructionsComplete := by
  unfold Obligations.CopyInstructionsComplete
  intro s a d k c h hc
  refine ⟨exec_cpset h a k, fun hfield haddr htile hsrc hdst => ⟨fun tk htask hroom hfree => ?accepts, fun tk htask hroom hbusy => ?waits, fun hfull => ?full⟩,
    fun hfree => ⟨exec_cpwait_free h hfree, ?free⟩, fun j hbusy hqueued hnext => ⟨exec_cpwait_busy h hbusy, ?queued⟩⟩
  case accepts =>
    have hgo := exec_cpgo h d hc hfield haddr htile hsrc hdst
    rw [if_neg (Nat.not_le.mpr hroom), htask, Option.map_some, Option.getD_some, hfree] at hgo
    have hcluster : (s.issued (.cpgo d)).core.cluster = s.core.cluster := by rw [Core.cluster, State.issued_core_pid]; rfl
    have hunit := (s.issued (.cpgo d)).acceptJob_unit c d tk.nextJob s.core.nextId
    rw [hcluster, (s.issued_undisturbed _).clusterAt] at hunit
    obtain ⟨htasks, htiles, hspad, hf, hv⟩ := (s.issued (.cpgo d)).acceptJob_core c d tk.nextJob s.core.nextId
    have hentry : ∀ n, ((s.issued (.cpgo d)).acceptJob c d tk.nextJob s.core.nextId).countAccess.core.getEntry n
        = ((s.issued (.cpgo d)).core.nameTiles c).getEntry n := fun n => by rw [Core.getEntry, Core.getEntry, htiles]
    refine ⟨_, _, hgo, ?_, hunit, rfl, State.issued_core_shadows .., rfl, rfl, ?_, fun hs => ?_, fun hd => ?_, ?_, ?_, ?_, ?_, ?_⟩
    · rw [State.acceptJob_g]
      exact Stream.setG_g_congr (s.issued_cur_g _) ..
    · rw [htasks, State.issued_core_task, htask]
      rfl
    · rw [hentry]
      exact Core.nameTiles_source _ hs
    · rw [hentry]
      exact Core.nameTiles_destination _ hd
    · rw [State.acceptJob_eq]
      exact State.issued_pool ..
    · rw [State.acceptJob_eq]
      exact State.issued_host ..
    · rw [hspad, State.issued_core_spad]
    · rw [hf, State.issued_core_f]
    · rw [hv, State.issued_core_v]
  case waits =>
    rw [exec_cpgo h d hc hfield haddr htile hsrc hdst, if_neg (Nat.not_le.mpr hroom), htask]
    exact if_pos (Option.isSome_iff_ne_none.mpr hbusy)
  case full =>
    rw [exec_cpgo h d hc hfield haddr htile hsrc hdst, if_pos hfull]
    rfl
  case free =>
    have hnone : s.xferJob ((s.g a).toNat % 65536) = none := hfree
    rw [exec_cpprobe h, hnone]
    rfl
  case queued =>
    have hsome : s.xferJob ((s.g a).toNat % 65536) = some j := hbusy
    rw [exec_cpprobe h, hsome]
    simp [Job.status, hqueued, hnext]

end Sys2Proof.Proofs
end

section
/-! What a memory instruction of the A-stream leaves at its issue: nothing but notes of the core about its own instructions, queues and
unacknowledged accesses (spec/05_fetch_and_issue.md R84 to R92, spec/10_memory_instructions.md R189 to R191). -/

namespace Sys2Proof.Machine

open Sys2Proof.Safety

/-! ### Notes of the core -/

/-- Nothing but the current core's queues, unacknowledged accesses and names, and the notes of its streams has changed; the C-stream's is what it has
popped. -/
def OnlyNotes (s t : State) : Prop :=
  ∃ fl ws se od tk cs qs ps n, t = { s with core := { s.core with
    a := { s.core.a with flight := fl, wins := ws, seen := se, ordinal := od, taken := tk }, c := { s.core.c with seen := cs },
    queues := qs, pending := ps, nextId := n } }

namespace OnlyNotes

variable {s t u : State}

theorem refl (s : State) : OnlyNotes s s := ⟨_, _, _, _, _, _, _, _, _, rfl⟩

theorem trans (h : OnlyNotes s t) (h' : OnlyNotes t u) : OnlyNotes s u := by
  obtain ⟨_, _, _, _, _, _, _, _, _, rfl⟩ := h
  obtain ⟨_, _, _, _, _, _, _, _, _, rfl⟩ := h'
  exact ⟨_, _, _, _, _, _, _, _, _, rfl⟩

theorem undisturbed (h : OnlyNotes s t) : Undisturbed s t := by
  obtain ⟨_, _, _, _, _, _, _, _, _, rfl⟩ := h
  refine ⟨⟨rfl, rfl, rfl, rfl, rfl, rfl, rfl, rfl, rfl, rfl, rfl, rfl, rfl⟩, rfl, ?_, rfl, rfl, rfl, rfl, rfl, rfl, rfl⟩
  unfold State.cur Core.str
  dsimp only
  cases s.core.sel <;> rfl

theorem core_sys (h : OnlyNotes s t) : t.core.sys = s.core.sys := by obtain ⟨_, _, _, _, _, _, _, _, _, rfl⟩ := h; rfl

theorem core_handler (h : OnlyNotes s t) : t.core.handler = s.core.handler := by obtain ⟨_, _, _, _, _, _, _, _, _, rfl⟩ := h; rfl

theorem core_deferred (h : OnlyNotes s t) : t.core.deferred = s.core.deferred := by obtain ⟨_, _, _, _, _, _, _, _, _, rfl⟩ := h; rfl

theorem a_exited (h : OnlyNotes s t) : t.core.a.exited = s.core.a.exited := by obtain ⟨_, _, _, _, _, _, _, _, _, rfl⟩ := h; rfl

theorem a_pc (h : OnlyNotes s t) : t.core.a.pc = s.core.a.pc := by obtain ⟨_, _, _, _, _, _, _, _, _, rfl⟩ := h; rfl

theorem a_stopped (h : OnlyNotes s t) : t.core.a.stopped = s.core.a.stopped := by obtain ⟨_, _, _, _, _, _, _, _, _, rfl⟩ := h; rfl

theorem a_asking (h : OnlyNotes s t) : t.core.a.asking = s.core.a.asking := by obtain ⟨_, _, _, _, _, _, _, _, _, rfl⟩ := h; rfl

theorem c_flight (h : OnlyNotes s t) : t.core.c.flight = s.core.c.flight := by obtain ⟨_, _, _, _, _, _, _, _, _, rfl⟩ := h; rfl

theorem freezes (h : OnlyNotes s t) (op : LongOp) : t.core.freezes op = s.core.freezes op := by
  obtain ⟨_, _, _, _, _, _, _, _, _, rfl⟩ := h; rfl

theorem of_queues (h : OnlyQueues s t) : OnlyNotes s t := by
  obtain ⟨_, _, _, rfl⟩ := h
  exact ⟨_, _, _, _, _, _, _, _, _, rfl⟩

theorem pushQ (s : State) (q : Nat) (filled : Bool) (bits : BitVec 512) (fmt : BitVec 16) : OnlyNotes s (s.pushQ q filled bits fmt) :=
  ⟨_, _, _, _, _, _, _, _, _, rfl⟩

/-- An access joins the unacknowledged ones. -/
theorem pending (s : State) (ps : List Request) (n : Nat) : OnlyNotes s { s with core := { s.core with pending := ps, nextId := n } } :=
  ⟨_, _, _, _, _, _, _, _, _, rfl⟩

theorem countAccess (h : s.core.sel = .a) : OnlyNotes s s.countAccess := by
  rw [State.countAccess, State.updCur, h]
  exact ⟨_, _, _, _, _, _, _, _, _, rfl⟩

theorem keepTaken (h : s.core.sel = .a) (q : Nat) (e : QEntry) : OnlyNotes s (s.keepTaken q e) := by
  unfold State.keepTaken State.popQ
  cases s.core.a.taken with
  | some _ => exact refl s
  | none =>
    cases s.core.getQueue q with
    | nil => exact refl s
    | cons e rest =>
      rw [h]
      exact ⟨_, _, _, _, _, _, _, _, _, rfl⟩

end OnlyNotes

theorem State.cur_of_a {s : State} (h : s.core.sel = .a) : s.cur = s.core.a := by rw [State.cur, h]; rfl

/-- The accessor that an instruction acts for is its stream's. -/
theorem State.who_eq (s : State) : s.core.who (s.cur.mode == .sup) = s.who := by
  unfold Core.who State.who State.isUpdate State.isStall
  cases s.core.task with
  | none => rfl
  | some t => cases ht : t.kind <;> simp [ht]

/-! ### The frame of an issue (R84) -/

section
variable {s t : State} {i : Instr}

/-- Past an instruction of which only notes are left, the stream stands behind it, and no register, memory or other core has changed. -/
theorem OnlyNotes.frame (h : ReadyA s) (ht : OnlyNotes (s.issued i) t) :
    Spec.Past s t i ∧ Spec.KeepsRegisters s t ∧ Spec.KeepsElsewhere s t ∧ t.core.spad = s.core.spad := by
  have hdist := (s.issued_undisturbed i).trans ht.undisturbed
  have hsel : t.core.sel = .a := hdist.sel.trans h.1
  have hissued : (s.issued i).core.sel = .a := (s.issued_core_sel i).trans h.1
  refine ⟨⟨?_, ht.core_sys⟩, ⟨hdist.sel, ?_, ?_, hdist.core.f, hdist.core.v, hdist.core.tiles, hdist.core.aot⟩,
    ⟨hdist.cores, hdist.clusters, hdist.contexts, hdist.pool, hdist.host, hdist.dev⟩, hdist.core.spad⟩
  · rw [State.cur_of_a hsel, State.cur_of_a hissued, ht.a_pc]
  · rw [State.cur_of_a hsel, State.cur_of_a h.1, hdist.core.ga]
  · rw [h.1]
    exact hdist.core.gc

end

/-! ### Long-latency instructions of the A-stream (R85) -/

/-- Past `i` the A-stream of `t` has one incomplete instruction, which has just begun its work. -/
structure Begun (s : State) (i : Instr) (t : State) (op : LongOp) (work : Work) : Prop where
  notes : OnlyNotes (s.issued i) t
  flight : t.core.a.flight = [op]
  status : op.status = .running
  mode : op.mode = s.cur.mode
  work_eq : op.work = work
  prog : op.prog = 0
  promoted : op.promoted = false
  list : op.list = []
  seen : op.seen = t.core.a.seen

/-- Launching an instruction of the A-stream adds it to the stream's list, opens its window and uses up a name. -/
theorem State.launchOp_a {x : State} (h : x.core.sel = .a) (i : Instr) (pc : Word) (la : Nat) (dests : List Reg) (work : Work) (part : Bool) :
    ∃ op ws, x.launchOp i pc la dests work (part := part)
        = { x with core := { x.core with a := { x.core.a with flight := x.core.a.flight ++ [op], wins := ws }, nextId := x.core.nextId + 1 } }
      ∧ op.id = x.core.nextId ∧ op.status = .running ∧ op.mode = x.cur.mode ∧ op.work = work ∧ op.prog = 0 ∧ op.promoted = false ∧ op.list = []
      ∧ op.seen = x.cur.seen := by
  refine ⟨?op, ?ws, ?launch, ?facts⟩
  case launch =>
    rw [State.launchOp, State.updCur, h]
    rfl
  case facts => exact ⟨rfl, rfl, rfl, rfl, rfl, rfl, rfl, rfl⟩

/-- An instruction launched where only notes have been left. -/
theorem launch_begun {s x : State} (h : ReadyA s) {i : Instr} (hx : OnlyNotes (s.issued i) x) (hflight : x.core.a.flight = []) (pc : Word) (la : Nat)
    (dests : List Reg) (work : Work) (part : Bool) :
    ∃ op, Begun s i (x.launchOp i pc la dests work (part := part)) op work ∧ op.id = x.core.nextId
      ∧ (x.launchOp i pc la dests work (part := part)).core.pending = x.core.pending
      ∧ (x.launchOp i pc la dests work (part := part)).core.queues = x.core.queues
      ∧ (x.launchOp i pc la dests work (part := part)).core.a.seen = x.core.a.seen := by
  have hdist := (s.issued_undisturbed i).trans hx.undisturbed
  have hsel : x.core.sel = .a := hdist.sel.trans h.1
  obtain ⟨op, ws, hlaunch, hid, hstatus, hmode, hwork, hprog, hpromoted, hlist, hseen⟩ := State.launchOp_a hsel i pc la dests work part
  rw [hlaunch]
  refine ⟨op, ⟨hx.trans ⟨_, _, _, _, _, _, _, _, _, rfl⟩, ?_, hstatus, hmode.trans hdist.mode, hwork, hprog, hpromoted, hlist, ?_⟩, hid, rfl, rfl, rfl⟩
  · simp [hflight]
  · rw [hseen, State.cur_of_a hsel]

section
variable {s t : State} {i : Instr} {op : LongOp} {work : Work}

namespace Begun

/-- The instruction acts for the accessor that issued it. -/
theorem opWho (ht : Begun s i t op work) : t.core.opWho op = s.who := by
  have hdist := (s.issued_undisturbed i).trans ht.notes.undisturbed
  rw [Core.opWho, ht.mode, ← s.who_eq]
  simp only [Core.who, hdist.core.task, hdist.core.pid]

/-- Nothing makes it stand still. -/
theorem thawed (ht : Begun s i t op work) (h : ReadyA s) (hstops : work.stopsBetween = false) : t.core.freezes op = false := by
  rw [ht.notes.freezes]
  exact (Continues.issued h.2 i).freezes h.2 ht.mode (by rw [ht.work_eq, hstops])

theorem undisturbed (ht : Begun s i t op work) : Undisturbed s t := (s.issued_undisturbed i).trans ht.notes.undisturbed

theorem not_exited (ht : Begun s i t op work) (h : ReadyA s) : t.core.a.exited = false := by
  have hissued : (s.issued i).core.sel = .a := (s.issued_core_sel i).trans h.1
  rw [ht.notes.a_exited, ← State.cur_of_a hissued]
  exact (Continues.issued h.2 i).exited

theorem clean (ht : Begun s i t op work) (h : ReadyA s) : t.dev.poison = [] := by
  obtain ⟨-, -, -, -, -, -, hclean⟩ := h
  rw [ht.undisturbed.dev, hclean]

end Begun

end

end Sys2Proof.Machine
end

section
/-! The bytes that an incomplete load of the A-stream reads once nothing orders it behind anything else, and how the instruction completes
(spec/10_memory_instructions.md R187, R189, R191). -/

namespace Sys2Proof.Machine

open Sys2Proof.Safety

/-! ### The bytes of an access -/

@[simp] theorem Memory.read_length (m : Memory) (a n : Nat) : (Memory.read m a n).length = n := by
  induction n generalizing a with
  | zero => rfl
  | succ n ih => simp [Memory.read, ih]

@[simp] theorem Chunk.spad_len (pid off n : Nat) : (Chunk.spad pid off n).span.len = n := rfl

@[simp] theorem Chunk.win_len (pid off n : Nat) : (Chunk.win pid off n).span.len = n := rfl

@[simp] theorem Chunk.peer_len (d off n : Nat) : (Chunk.peer d off n).span.len = n := rfl

@[simp] theorem Chunk.phys_len (hm : Bool) (pa n ord cache page level : Nat) : (Chunk.phys hm pa n ord cache page level).span.len = n := rfl

theorem State.peek_length (s : State) (c : Chunk) : (s.peek c).length = c.span.len := by
  cases c with
  | phys hm pa len ord cache page level => cases hm <;> simp [State.peek]
  | spad pid off len => simp [State.peek]
  | win pid off len => simp [State.peek]
  | peer d off len => simp [State.peek]

theorem State.peekAll_length (s : State) (cs : List Chunk) : (s.peekAll cs).length = (cs.map (fun c => c.span.len)).sum := by
  simp only [State.peekAll, List.length_flatMap, State.peek_length]

theorem bytesNat_lt (bs : List Byte) : bytesNat bs < 2 ^ (8 * bs.length) := by
  induction bs with
  | nil => simp [bytesNat]
  | cons b bs ih =>
    have hb := b.isLt
    rw [bytesNat, List.length_cons, Nat.mul_add, Nat.pow_add]
    omega

/-- The chunks of a page's part of an access are as long as the part. -/
theorem State.locatePage_len {s : State} {w : Who} {acc : Acc} {va n : Nat} {cs : List Chunk} (h : s.locatePage w acc va n = .ok cs) :
    (cs.map (fun c => c.span.len)).sum = n := by
  unfold State.locatePage at h
  dsimp only at h
  repeat' split at h
  all_goals cases h
  rfl

theorem Locate.both_ok {x y : Locate} {cs : List Chunk} (h : x.both y = .ok cs) : ∃ xs ys, x = .ok xs ∧ y = .ok ys ∧ cs = xs ++ ys := by
  cases x <;> cases y <;> cases h
  exact ⟨_, _, rfl, rfl, rfl⟩

theorem State.locatePages_len {s : State} {w : Who} {acc : Acc} {k va n : Nat} {cs : List Chunk} (h : s.locatePages w acc k va n = .ok cs) :
    (cs.map (fun c => c.span.len)).sum = n := by
  induction k generalizing va n cs with
  | zero => exact State.locatePage_len h
  | succ k ih =>
    rw [State.locatePages] at h
    split at h
    · exact State.locatePage_len h
    · obtain ⟨xs, ys, hx, hy, rfl⟩ := Locate.both_ok h
      rw [List.map_append, List.sum_append, State.locatePage_len hx, ih hy]
      omega

@[simp] theorem onChip_len (pid off n : Nat) : (onChip pid off n).span.len = n := by
  unfold onChip
  split <;> rfl

/-- The chunks of an access are together as long as the access (R157). -/
theorem State.locate_len {s : State} {w : Who} {acc : Acc} {addr : Word} {n : Nat} {cs : List Chunk} (h : s.locate w acc addr n = .ok cs) :
    (cs.map (fun c => c.span.len)).sum = n := by
  unfold State.locate at h
  dsimp only at h
  generalize (aperture addr).kind = kind at h
  by_cases hvirtual : kind = 1
  · subst hvirtual
    exact State.locatePages_len h
  · repeat' split at h
    any_goals contradiction
    all_goals cases h
    all_goals simp

theorem State.locate_bytes_lt {s : State} {w : Who} {acc : Acc} {addr : Word} {n : Nat} {cs : List Chunk} (h : s.locate w acc addr n = .ok cs) :
    bytesNat (s.peekAll cs) < 2 ^ (8 * n) := by
  have hlt := bytesNat_lt (s.peekAll cs)
  rwa [State.peekAll_length, State.locate_len h] at hlt

/-- The bytes as a number, extended from the width (R189). -/
theorem loadValue_eq (sext : Bool) {n : Nat} {bs : List Byte} (h : bytesNat bs < 2 ^ (8 * n)) : loadValue sext n bs = Spec.loaded sext n (bytesNat bs) := by
  have hmod : (bytesNat bs : Int) % 2 ^ (8 * n) = bytesNat bs := by exact_mod_cast Nat.mod_eq_of_lt h
  unfold loadValue Spec.loaded patInt
  rw [Nat.mod_eq_of_lt h, hmod]
  cases sext with
  | false => simp
  | true =>
    by_cases hneg : 2 ^ (8 * n - 1) ≤ bytesNat bs
    · simp [hneg]
    · simp [hneg]

end Sys2Proof.Machine
end

section
/-! Loads of the A-stream that nothing orders behind anything else, and O28 (spec/10_memory_instructions.md R187, R189, R191). -/

namespace Sys2Proof.Machine

open Sys2Proof.Safety

/-! ### What an access need not wait for -/

/-- No older access of the stream holds it back (R187, R265). -/
theorem State.orderBlocked_of_first (s : State) {k : Core} {x : StreamId} {id : Nat} (hflight : ∀ o ∈ (k.str x).flight, id ≤ o.id)
    (hpending : ∀ r ∈ k.pending, id ≤ r.id) (mode : Mode) (use : AccUse) (here : List Span × Nat) :
    s.orderBlocked k x id mode use here = false := by
  rw [State.orderBlocked, Bool.or_eq_false_iff]
  constructor
  · rw [List.any_eq_false]
    intro o ho
    simp [Nat.not_lt.mpr (hflight o ho)]
  · rw [List.any_eq_false]
    intro r hr
    simp [Nat.not_lt.mpr (hpending r hr)]

/-- Nothing that the C-stream had issued before is left (R223). -/
theorem State.unseen_of_done (s : State) {k : Core} {op : LongOp} (h : ∀ o ∈ k.c.flight, op.seen ≤ o.id) (here : List Span) :
    s.unseen k .a op here = false := by
  have hnone : k.c.flight.filter (fun o => decide (o.id < op.seen)) = [] := by
    rw [List.filter_eq_nil_iff]
    intro o ho
    simp [Nat.not_lt.mpr (h o ho)]
  simp [State.unseen, State.otherWrites, hnone]

theorem State.poisoned_clean {s : State} (h : s.dev.poison = []) (cs : List Chunk) : s.poisoned cs = none := by simp [State.poisoned, h]

/-- Without an order log nothing waits for it (R344), and nothing is entered. -/
theorem State.logLets_off {s : State} {r : Served0} (h : s.logMode r.who = 0) (k : LogKind) (addr : Word) (cs : List Chunk) :
    s.logLets k r addr cs = true := by simp [State.logLets, h]

theorem State.logServed_off {s : State} {r : Served0} (h : s.logMode r.who = 0) (k : LogKind) (addr : Word) (cs : List Chunk) :
    s.logServed k r addr cs = s := by simp [State.logServed, h]

theorem OnlyDevice.logMode {s t : State} (h : OnlyDevice s t) (w : Who) : t.logMode w = s.logMode w := by
  rw [State.logMode, State.logMode, State.cmdAt_congr h.contexts]

section
variable {s : State} {x : StreamId} {op : LongOp}

theorem State.accessLets_off (h : s.logMode (s.core.opWho op) = 0) (addr : Word) (cs : List Chunk) : s.accessLets x op addr cs = true := by
  unfold State.accessLets
  split
  · exact State.logLets_off h ..
  · rfl

theorem State.accessServed_off (h : s.logMode (s.core.opWho op) = 0) (addr : Word) (cs : List Chunk) : s.accessServed x op addr cs = s := by
  unfold State.accessServed
  split
  · exact State.logServed_off h ..
  · rfl

end

/-! ### An instruction of the A-stream that nothing orders -/

/-- `op` is the one incomplete instruction of the A-stream, and its accesses come behind no other access, entry, held line or log. -/
structure Unordered (t : State) (op : LongOp) : Prop where
  flight : t.core.a.flight = [op]
  exited : t.core.a.exited = false
  status : op.status = .running
  thawed : t.core.freezes op = false
  pending : t.core.pending = []
  seen : ∀ o ∈ t.core.c.flight, op.seen ≤ o.id
  clean : t.dev.poison = []
  unheld : Spec.NoLineHeld t
  unlogged : t.logMode (t.core.opWho op) = 0

namespace Unordered

variable {t : State} {op : LongOp}

theorem unblocked (h : Unordered t op) (mode : Mode) (use : AccUse) (here : List Span × Nat) : t.orderBlocked t.core .a op.id mode use here = false := by
  refine State.orderBlocked_of_first t (fun o ho => ?_) (fun r hr => ?_) mode use here
  · rw [Core.str, h.flight, List.mem_singleton] at ho
    rw [ho]
  · rw [h.pending] at hr
    cases hr

/-- Its access is made at once, with the bytes that stand there (R189). -/
theorem loadMove (h : Unordered t op) {addr : Word} {n : Nat} {cs : List Chunk} (hlocate : t.locate (t.core.opWho op) .load addr n = .ok cs)
    (use : State → List Byte → Moved) :
    t.loadMove .a op addr n use = use (t.touch (t.core.opWho op).ctx false cs) (t.peekAll cs) := by
  have htouch := t.touch_onlyDevice (t.core.opWho op).ctx false cs
  have hserved : (t.touch (t.core.opWho op).ctx false cs).accessServed .a op addr cs = t.touch (t.core.opWho op).ctx false cs :=
    State.accessServed_off (by rw [htouch.logMode, htouch.core]; exact h.unlogged) addr cs
  have hthere : (t.core.str .a).flight.any (fun o => o.id == op.id) = true := by simp [Core.str, h.flight]
  simp only [State.loadMove, h.unblocked, t.unseen_of_done h.seen, hlocate, State.accessLets_off h.unlogged, State.recalled,
    State.recall_of_noLineHeld h.unheld, hthere, State.poisoned_clean h.clean, hserved]
  rfl

/-- A load's one move (R92). -/
theorem opMove_load (h : Unordered t op) (hload : (∃ d a n e, op.work = .load d a n e) ∨ ∃ e a, op.work = .loadq e a) :
    t.opMove .a op = t.plainMove .a op := by
  have hpoison : t.popPoisoned op = false := by simp [State.popPoisoned, h.clean]
  have hself : t.core.selfMoves op = true := by
    obtain ⟨d, a, n, e, hwork⟩ | ⟨e, a, hwork⟩ := hload
    all_goals simp [Core.selfMoves, hwork, h.status, h.thawed, Work.popped]
  have hmatrix : op.work.isMatrix = false := by
    obtain ⟨d, a, n, e, hwork⟩ | ⟨e, a, hwork⟩ := hload
    all_goals rw [hwork]; rfl
  simp [State.opMove, hself, hpoison, hmatrix]

end Unordered

/-- A load takes no addresses from a list. -/
theorem State.takeList_load (t : State) {op : LongOp} (hload : (∃ d a n e, op.work = .load d a n e) ∨ ∃ e a, op.work = .loadq e a) :
    t.takeList .a op = (t, op) := by
  obtain ⟨d, a, n, e, hwork⟩ | ⟨e, a, hwork⟩ := hload
  all_goals exact State.takeList_plain t _ op (by simp [hwork]) (by simp [hwork])

/-- Where the stream stands once its one instruction has completed. -/
theorem Core.dropOp_alone {k : Core} {op : LongOp} (h : ∀ o ∈ k.a.flight, o.id = op.id) : (k.dropOp .a op.id).a = { k.a with flight := [] } := by
  have hnone : k.a.flight.filter (fun o => o.id != op.id) = [] := by
    rw [List.filter_eq_nil_iff]
    intro o ho
    simp [h o ho]
  simp [Core.dropOp, Core.updStr, Core.setStr, Core.str, hnone]

section
variable {t : State} {op : LongOp}

/-- A scalar load completes with its register written (R189). -/
theorem Unordered.completes_load (h : Unordered t op) {d n : Nat} {addr : Word} {sext : Bool} {cs : List Chunk} (hwork : op.work = .load d addr n sext)
    (hlocate : t.locate (t.core.opWho op) .load addr n = .ok cs) :
    ∃ u, exec (.longOpComplete t.core.pid .a 0 1) t = .next u
      ∧ u.core = { t.core with a := { t.core.a.setG d (Spec.loaded sext n (bytesNat (t.peekAll cs))) with flight := [] } }
      ∧ u.pool = t.pool ∧ u.host = t.host := by
  have hload : (∃ d a n e, op.work = .load d a n e) ∨ ∃ e a, op.work = .loadq e a := .inl ⟨d, addr, n, sext, hwork⟩
  have htouch := t.touch_onlyDevice (t.core.opWho op).ctx false cs
  have hcore : ∀ v, (t.core.updStr .a (fun st => st.setG d v)).dropOp .a op.id = { t.core with a := { t.core.a.setG d v with flight := [] } } := by
    intro v
    simp [Core.dropOp, Core.updStr, Core.setStr, Core.str, h.flight]
  have hmove : t.opMove .a op = .on ((t.touch (t.core.opWho op).ctx false cs).updThis (fun k =>
      (k.updStr .a (fun st => st.setG d (Spec.loaded sext n (bytesNat (t.peekAll cs))))).dropOp .a op.id)) := by
    rw [h.opMove_load hload, State.plainMove, hwork]
    dsimp only
    rw [h.loadMove hlocate, loadValue_eq _ (State.locate_bytes_lt hlocate)]
  refine ⟨_, exec_longOpComplete_on h.flight (t.takeList_load hload) hmove ?_ ?_, ?_, htouch.pool, htouch.host⟩
  · rw [State.updThis, htouch.core, hcore]
    simpa [Core.str] using h.exited
  · rw [State.updThis, htouch.core, hcore]
  · rw [State.updThis, htouch.core, hcore]

end

end Sys2Proof.Machine
end

section
/-! The scalar and queue loads as they issue, and O28 (spec/10_memory_instructions.md R189, R191, spec/05_fetch_and_issue.md R92). -/

namespace Sys2Proof.Machine

open Sys2Proof.Safety

/-! ### Addresses (R104) -/

/-- A base and an offset counted in units of the access are added as integers. -/
theorem offsetBy_eq (base : Word) (off : Int) (size : Nat) : offsetBy base off size = w64 (base.toInt + off * size) := by
  rw [offsetBy, w64, w64, BitVec.ofInt_add, BitVec.ofInt_toInt]

/-! ### The A-stream past an instruction -/

theorem State.countAccess_core {x : State} (hx : x.core.sel = .a) :
    x.countAccess.core = { x.core with a := { x.core.a with ordinal := x.core.a.ordinal + 1 } } := by
  rw [State.countAccess, State.updCur, hx]
  rfl

section
variable {s : State} (h : ReadyA s) (i : Instr)
include h

theorem issued_sel_a : (s.issued i).core.sel = .a := (s.issued_core_sel i).trans h.1

theorem issued_a_eq : (s.issued i).core.a = { s.core.a with fence := s.core.a.fence.filter (fun f => !s.fenceOpen .user f) }.advance i := by
  rw [← State.cur_of_a (issued_sel_a h i), State.issued_cur, State.cur_of_a h.1]

theorem issued_a_flight : (s.issued i).core.a.flight = [] := by
  have heq := issued_a_eq h i
  obtain ⟨hsel, -, -, -, hflight, -⟩ := h
  rw [State.cur_of_a hsel] at hflight
  rw [heq]
  exact hflight

theorem issued_c_flight : (s.issued i).core.c.flight = s.core.c.flight := by
  have hother := State.issued_other_but_resume (s := s) i
  rw [h.1] at hother
  change ((s.issued i).core.str StreamId.a.other).flight = _
  rw [hother]
  rfl

/-- An instruction launched there, and counted as an access, is the one that the stream has incomplete. -/
theorem launch_access (pc : Word) (la : Nat) (dests : List Reg) (work : Work) (part : Bool) :
    ∃ op, Begun s i ((s.issued i).countAccess.launchOp i pc la dests work (part := part)) op work ∧ op.id = s.core.nextId ∧ op.seen = s.cur.seen
      ∧ ((s.issued i).countAccess.launchOp i pc la dests work (part := part)).core.pending = s.core.pending
      ∧ ((s.issued i).countAccess.launchOp i pc la dests work (part := part)).core.queues = s.core.queues := by
  have hsel := issued_sel_a h i
  have hcount := State.countAccess_core hsel
  obtain ⟨op, hbegun, hid, hpending, hqueues, hseen⟩ := launch_begun h (OnlyNotes.countAccess hsel) (by rw [hcount]; exact issued_a_flight h i) pc la
    dests work part
  refine ⟨op, hbegun, ?_, ?_, ?_, ?_⟩
  · rw [hid, hcount]
    exact s.issued_core_nextId i
  · rw [hbegun.seen, hseen, hcount]
    dsimp only
    rw [issued_a_eq h, State.cur_of_a h.1]
    rfl
  · rw [hpending, hcount]
    exact s.issued_core_pending i
  · rw [hqueues, hcount]
    exact s.issued_core_queues i

end

/-- With nothing before it unacknowledged, unseen, held or logged, nothing orders a launched instruction. -/
theorem Begun.unordered {s t : State} {i : Instr} {op : LongOp} {work : Work} (ht : Begun s i t op work) (h : ReadyA s)
    (hstops : work.stopsBetween = false) (hpending : t.core.pending = []) (hold : op.seen = s.cur.seen) (hheld : Spec.NoLineHeld s)
    (hseen : Spec.Seen s) (hlog : s.logMode s.who = 0) : Unordered t op where
  flight := ht.flight
  exited := ht.not_exited h
  status := ht.status
  thawed := ht.thawed h hstops
  pending := hpending
  seen := by
    rw [ht.notes.c_flight, issued_c_flight h, hold]
    exact hseen
  clean := ht.clean h
  unheld := by
    rw [Spec.NoLineHeld, ht.undisturbed.clusters]
    exact hheld
  unlogged := by
    rw [ht.opWho, State.logMode, State.cmdAt_congr ht.undisturbed.contexts]
    exact hlog

/-! ### Scalar loads (R189) -/

section
variable {s : State} (h : ReadyA s)
include h

/-- Each of the scalar loads issues where its address passes its checks, and has begun its work. -/
theorem exec_load {i : Instr} {sext : Bool} {d : BitVec 5} {addr : Word} {n : Nat} (hi : Spec.loadParts s i = some (sext, d, addr, n))
    (hcheck : s.checkAddr s.who addr n n = none) :
    ∃ la, exec i s = .next ((s.issued i).countAccess.launchOp i s.cur.pc la (gRegs d) (.load d.toNat addr n sext)) := by
  have hscalar : ∀ (j : Instr) (x : Bool) (d a : BitVec 5) (off : BitVec 9) (sz : BitVec 2) (la : BitVec 4), j.wellFormed = true →
      s.checkAddr s.who (w64 ((s.g a).toInt + off.toInt * 2 ^ sz.toNat)) (2 ^ sz.toNat) (2 ^ sz.toNat) = none →
      scalarLoad j x d a off sz la s = .next ((s.issued j).countAccess.launchOp j s.cur.pc la.toNat (gRegs d)
        (.load d.toNat (w64 ((s.g a).toInt + off.toInt * 2 ^ sz.toNat)) (2 ^ sz.toNat) x)) := by
    intro j x d a off sz la hwf hok
    have haddr : offsetBy (s.g a) off.toInt (sizeOf2 sz) = w64 ((s.g a).toInt + off.toInt * 2 ^ sz.toNat) := by
      rw [offsetBy_eq, sizeOf2]
      norm_cast
    refine issue_completes h.2 hwf (readyA_admits h) rfl rfl ?_
    have hdist := s.issued_undisturbed j
    simp only [memForm, State.issued_g, haddr, hdist.who, hdist.checkAddr]
    rw [sizeOf2, hok]
  cases i
  all_goals cases hi
  case ld a off sz la => exact ⟨_, hscalar _ _ _ _ _ _ la rfl hcheck⟩
  case ldz a off sz la => exact ⟨_, hscalar _ _ _ _ _ _ la rfl hcheck⟩

end

end Sys2Proof.Machine
end

section
/-! Queue loads fill the entry that they reserved, and O28 (spec/10_memory_instructions.md R191, spec/05_fetch_and_issue.md R92). -/

namespace Sys2Proof.Machine

open Sys2Proof.Safety

/-! ### A reserved entry -/

/-- The format word of an entry that no other bears the id of. -/
theorem Core.entryFmt_of_unique {k : Core} {q : Nat} {e : QEntry} (hmem : e ∈ k.getQueue q)
    (honly : ∀ p, ∀ y ∈ k.getQueue p, y.id = e.id → y = e) : k.entryFmt e.id = e.fmt := by
  have hall : ∀ y ∈ k.queues.toList.flatMap (fun q => q), ∃ p, y ∈ k.getQueue p := by
    intro y hy
    obtain ⟨es, hes, hyes⟩ := List.mem_flatMap.mp hy
    obtain ⟨p, hp, rfl⟩ := Vector.getElem_of_mem (Vector.mem_toList_iff.mp hes)
    exact ⟨p, by rw [Core.getQueue, Vector.getElem?_eq_getElem hp]; exact hyes⟩
  have hthere : e ∈ k.queues.toList.flatMap (fun q => q) := by
    rw [Core.getQueue] at hmem
    cases hq : k.queues[q]? with
    | none =>
      rw [hq] at hmem
      cases hmem
    | some es =>
      rw [hq] at hmem
      exact List.mem_flatMap.mpr ⟨es, Vector.mem_toList_iff.mpr (Vector.mem_of_getElem? hq), hmem⟩
  have hfind : (k.queues.toList.flatMap (fun q => q)).find? (fun y => y.id == e.id) = some e := by
    cases hy : (k.queues.toList.flatMap (fun q => q)).find? (fun y => y.id == e.id) with
    | none =>
      rw [List.find?_eq_none] at hy
      exact absurd (beq_self_eq_true e.id) (hy e hthere)
    | some y =>
      obtain ⟨p, hp⟩ := hall y (List.mem_of_find?_eq_some hy)
      rw [honly p y hp (by simpa using List.find?_some hy)]
  rw [Core.entryFmt, List.find?_append, List.find?_append, hfind]
  rfl

/-- A reserved entry whose id is new is the only one of its id. -/
theorem reserved_unique {k k1 : Core} {q : Nat} {e : QEntry} (hother : ∀ p, p ≠ q → k1.getQueue p = k.getQueue p)
    (hqueue : k1.getQueue q = k.getQueue q ++ [e]) (hids : ∀ p, ∀ y ∈ k.getQueue p, y.id < e.id) (p : Nat) :
    ∀ y ∈ k1.getQueue p, y.id = e.id → y = e := by
  intro y hy hid
  have hold : y ∉ k.getQueue p := fun hmem => absurd hid (Nat.ne_of_lt (hids p y hmem))
  by_cases hp : p = q
  · subst hp
    rw [hqueue, List.mem_append, List.mem_singleton] at hy
    exact hy.resolve_left hold
  · rw [hother p hp] at hy
    exact absurd hy hold

/-- Filling it changes no other entry of its queue (R92). -/
theorem filled_reserved {k k1 : Core} {q : Nat} {e : QEntry} (hqueue : k1.getQueue q = k.getQueue q ++ [e])
    (hids : ∀ p, ∀ y ∈ k.getQueue p, y.id < e.id) (x : StreamId) (op : LongOp) (bits : BitVec 512) :
    ((k1.fillEntry e.id bits).dropOp x op.id).getQueue q = k.getQueue q ++ [{ e with filled := true, bits := bits }] := by
  have hdrop : ((k1.fillEntry e.id bits).dropOp x op.id).getQueue q = (k1.fillEntry e.id bits).getQueue q := by
    rw [Core.getQueue, Core.getQueue, Core.dropOp, Core.updStr_queues]
  rw [hdrop, Core.getQueue_fillEntry, hqueue, List.map_append, map_filledBy_of_ne fun y hy => Nat.ne_of_lt (hids q y hy)]
  simp [QEntry.filledBy]

/-- An entry that no BE tag pads takes the bits as they are (R191). -/
theorem Core.fillLoad_plain {k : Core} {id : Nat} (h : isBe (tagOf (k.entryFmt id)) = false) (bits : Nat) :
    k.fillLoad id bits = k.fillEntry id (.ofNat 512 bits) := by
  simp [Core.fillLoad, clearPad, h]

/-- Filling an entry leaves the A-stream's list with the same names, and its registers. -/
theorem Core.fillEntry_dropOp {k : Core} {op : LongOp} (h : k.a.flight = [op]) (id : Nat) (bits : BitVec 512) :
    ((k.fillEntry id bits).dropOp .a op.id).a.flight = [] ∧ ((k.fillEntry id bits).dropOp .a op.id).a.g = k.a.g
      ∧ ((k.fillEntry id bits).dropOp .a op.id).a.exited = k.a.exited := by
  have hids : ∀ o ∈ (k.fillEntry id bits).a.flight, o.id = op.id := by simp [Core.fillEntry, h]
  rw [Core.dropOp_alone hids]
  exact ⟨rfl, rfl, rfl⟩

/-- QUEUE_ENTRY_FILL lets the one instruction of the A-stream that has reserved an entry go on (R92). -/
theorem exec_queueEntryFill_on {t u : State} {op : LongOp} (hflight : t.core.a.flight = [op]) (hfills : op.work.fills = true)
    (hlist : t.takeList .a op = (t, op)) (hmove : t.opMove .a op = .on u) (hdone : u.core.a.flight = []) (hpid : u.core.pid = t.core.pid) :
    exec (.queueEntryFill t.core.pid 0) t = .next u := by
  have hfind : (t.core.str .a).flight.find? (fun o => o.id == op.id) = some op := by simp [Core.str, hflight]
  have hend : u.goOn .a op.id 63 = u := by simp [State.goOn, Core.str, hdone]
  have hgoes : t.goOn .a op.id 64 = u := by
    rw [State.goOn, hfind]
    simp only [hlist, hmove, hend]
  change execQueueEntryFill t.core.pid 0 t = _
  simp only [execQueueEntryFill, State.onCore, State.select_self, Core.str, hflight, List.filter_cons, hfills, if_true, List.filter_nil, List.map_cons,
    List.map_nil, List.cons_append, List.getElem?_cons_zero, hgoes]
  rw [← hpid, State.select_self]

section
variable {t : State} {op : LongOp}

/-- A queue load completes with its entry filled, by either event (R191). -/
theorem Unordered.completes_loadq (h : Unordered t op) {id : Nat} {addr : Word} {cs : List Chunk} (hwork : op.work = .loadq id addr)
    (hlocate : t.locate (t.core.opWho op) .load addr 64 = .ok cs) (hbe : isBe (tagOf (t.core.entryFmt id)) = false) {ev : Instr}
    (hev : ev = .longOpComplete t.core.pid .a 0 1 ∨ ev = .queueEntryFill t.core.pid 0) :
    ∃ u, exec ev t = .next u ∧ u.core = (t.core.fillEntry id (.ofNat 512 (bytesNat (t.peekAll cs)))).dropOp .a op.id
      ∧ u.pool = t.pool ∧ u.host = t.host := by
  have hload : (∃ d a n e, op.work = .load d a n e) ∨ ∃ e a, op.work = .loadq e a := .inr ⟨id, addr, hwork⟩
  have htouch := t.touch_onlyDevice (t.core.opWho op).ctx false cs
  have hmove : t.opMove .a op = .on ((t.touch (t.core.opWho op).ctx false cs).updThis (fun k =>
      (k.fillLoad id (bytesNat (t.peekAll cs))).dropOp .a op.id)) := by
    rw [h.opMove_load hload, State.plainMove, hwork]
    dsimp only
    rw [h.loadMove hlocate]
  have hcore : ((t.touch (t.core.opWho op).ctx false cs).updThis (fun k => (k.fillLoad id (bytesNat (t.peekAll cs))).dropOp .a op.id)).core
      = (t.core.fillEntry id (.ofNat 512 (bytesNat (t.peekAll cs)))).dropOp .a op.id := by
    rw [State.updThis, htouch.core, Core.fillLoad_plain hbe]
  obtain ⟨hdone, -, hexited⟩ := Core.fillEntry_dropOp h.flight id (.ofNat 512 (bytesNat (t.peekAll cs)))
  have hpid : ((t.core.fillEntry id (.ofNat 512 (bytesNat (t.peekAll cs)))).dropOp .a op.id).pid = t.core.pid := Core.updStr_pid ..
  refine ⟨_, ?_, hcore, htouch.pool, htouch.host⟩
  obtain rfl | rfl := hev
  · refine exec_longOpComplete_on h.flight (t.takeList_load hload) hmove ?_ (by rw [hcore, hpid])
    rw [hcore]
    exact hexited.trans h.exited
  · exact exec_queueEntryFill_on h.flight (by rw [hwork]; rfl) (t.takeList_load hload) hmove (by rw [hcore, hdone]) (by rw [hcore, hpid])

end

/-! ### Queue loads (R191) -/

/-- The format word of a tag, by the stream's scale, is the same past an instruction. -/
theorem State.issued_loadFmt (s : State) (i : Instr) (tag : BitVec 4) : (s.issued i).loadFmt tag = s.loadFmt tag := by
  obtain ⟨ha, hc⟩ := State.issued_counts (s := s) i
  cases hsel : s.core.sel with
  | a => rw [State.loadFmt, ha hsel]; rfl
  | c => rw [State.loadFmt, hc hsel]; rfl

theorem tagOf_loadFmt (s : State) (tag : BitVec 4) : tagOf (s.loadFmt tag) = tag.toNat := tagOf_mkFmt tag.isLt _

section
variable {s : State} (h : ReadyA s)
include h

/-- What an instruction leaves that counts an access, reserves an entry of a queue and has begun. -/
theorem launch_reserving (i : Instr) {q : Nat} (hq : q < 8) (fmt : BitVec 16) (pc : Word) (la : Nat) (work : Work) (part : Bool) :
    ∃ op, Begun s i (((s.issued i).countAccess.pushQ q false 0 fmt).launchOp i pc la [] work (part := part)) op work
      ∧ op.seen = s.cur.seen ∧ (((s.issued i).countAccess.pushQ q false 0 fmt).launchOp i pc la [] work (part := part)).core.pending = s.core.pending
      ∧ (∀ p, p ≠ q → (((s.issued i).countAccess.pushQ q false 0 fmt).launchOp i pc la [] work (part := part)).core.getQueue p = s.core.getQueue p)
      ∧ (((s.issued i).countAccess.pushQ q false 0 fmt).launchOp i pc la [] work (part := part)).core.getQueue q
          = s.core.getQueue q ++ [⟨s.core.nextId, false, 0, fmt⟩] := by
  have hsel := issued_sel_a h i
  have hcount := State.countAccess_core hsel
  have hnotes : OnlyNotes (s.issued i) ((s.issued i).countAccess.pushQ q false 0 fmt) := (OnlyNotes.countAccess hsel).trans (.pushQ ..)
  have hflight : ((s.issued i).countAccess.pushQ q false 0 fmt).core.a.flight = [] := by
    change (s.issued i).countAccess.core.a.flight = []
    rw [hcount]
    exact issued_a_flight h i
  have hqueue : ∀ p, (s.issued i).countAccess.core.getQueue p = s.core.getQueue p := by
    intro p
    rw [hcount]
    exact s.issued_getQueue i p
  obtain ⟨op, hbegun, hid, hpending, hqueues, hseen⟩ := launch_begun h hnotes hflight pc la [] work part
  refine ⟨op, hbegun, ?_, ?_, fun p hp => ?_, ?_⟩
  · rw [hbegun.seen, hseen]
    change (s.issued i).countAccess.core.a.seen = _
    rw [hcount, State.cur_of_a h.1]
    dsimp only
    rw [issued_a_eq h]
    rfl
  · rw [hpending]
    change (s.issued i).countAccess.core.pending = _
    rw [hcount]
    exact s.issued_core_pending i
  · rw [Core.getQueue, hqueues, ← hqueue p]
    simp [State.pushQ, Core.getQueue, hp.symm]
  · rw [Core.getQueue, hqueues]
    refine (State.pushQ_getQueue _ hq ..).trans ?_
    rw [hqueue, hcount]
    dsimp only
    rw [s.issued_core_nextId]

theorem exec_ldq {q : BitVec 3} {a : BitVec 5} {off : BitVec 9} (tag la : BitVec 4) (hq : q.toNat ≤ 3) (hopen : s.q3Closed q = false)
    (hroom : (s.core.getQueue q.toNat).length < 16)
    (hcheck : s.checkAddr s.who (w64 ((s.g a).toInt + off.toInt * 64)) 64 64 = none) :
    exec (.ldq q a off tag la) s
      = .next (((s.issued (.ldq q a off tag la)).countAccess.pushQ q.toNat false 0 (s.loadFmt tag)).launchOp (.ldq q a off tag la) s.cur.pc la.toNat []
        (.loadq s.core.nextId (w64 ((s.g a).toInt + off.toInt * 64)))) := by
  have hwf : (Instr.ldq q a off tag la).wellFormed = true := by simp [Instr.wellFormed, Instr.illFormed, WF.firstOf, Nat.not_lt.mpr hq]
  have hdist := s.issued_undisturbed (.ldq q a off tag la)
  change execLdq q a off tag la s = _
  refine (execLdq.eq_def q a off tag la s).trans (issue_completes h.2 hwf (readyA_admits h) hopen rfl ?_)
  simp only [memForm, queueNo, State.hasRoom_eq, State.issued_getQueue, hroom, decide_true, Bool.not_true, Bool.false_eq_true, if_false, State.issued_g,
    offsetBy_eq, hdist.who, hdist.checkAddr, State.issued_loadFmt, State.issued_core_nextId]
  rw [show ((64 : Nat) : Int) = 64 from rfl, hcheck]

/-- A queue load has begun, with its entry at the end of its queue. -/
theorem ldq_begins {q : BitVec 3} {a : BitVec 5} {off : BitVec 9} (tag la : BitVec 4) {addr : Word} (haddr : addr = w64 ((s.g a).toInt + off.toInt * 64))
    (hq : q.toNat ≤ 3) (hopen : s.q3Closed q = false) (hroom : (s.core.getQueue q.toNat).length < 16) (hcheck : s.checkAddr s.who addr 64 64 = none) :
    ∃ t op, exec (.ldq q a off tag la) s = .next t ∧ Begun s (.ldq q a off tag la) t op (.loadq s.core.nextId addr) ∧ op.seen = s.cur.seen
      ∧ t.core.pending = s.core.pending ∧ (∀ p, p ≠ q.toNat → t.core.getQueue p = s.core.getQueue p)
      ∧ t.core.getQueue q.toNat = s.core.getQueue q.toNat ++ [⟨s.core.nextId, false, 0, s.loadFmt tag⟩] := by
  subst haddr
  obtain ⟨op, hbegun⟩ := launch_reserving h (.ldq q a off tag la) (q := q.toNat) q.isLt (s.loadFmt tag) s.cur.pc la.toNat
    (.loadq s.core.nextId (w64 ((s.g a).toInt + off.toInt * 64))) false
  exact ⟨_, op, exec_ldq h tag la hq hopen hroom hcheck, hbegun⟩

/-- A scalar load has begun. -/
theorem load_begins {i : Instr} {sext : Bool} {d : BitVec 5} {addr : Word} {n : Nat} (hi : Spec.loadParts s i = some (sext, d, addr, n))
    (hcheck : s.checkAddr s.who addr n n = none) :
    ∃ t op, exec i s = .next t ∧ Begun s i t op (.load d.toNat addr n sext) ∧ op.seen = s.cur.seen ∧ t.core.pending = s.core.pending
      ∧ t.core.queues = s.core.queues := by
  obtain ⟨la, hexec⟩ := exec_load h hi hcheck
  obtain ⟨op, hbegun, -, hleft⟩ := launch_access h i s.cur.pc la (gRegs d) (.load d.toNat addr n sext) false
  exact ⟨_, op, hexec, hbegun, hleft⟩

end

end Sys2Proof.Machine

namespace Sys2Proof.Proofs

open Sys2Proof.Machine Sys2Proof.Safety

/-- Settles O28: a load issues as an instruction in flight; behind nothing that orders it, its completion reads the bytes and writes its register or
fills its entry. -/
theorem loadsComplete : Obligations.LoadsComplete := by
  unfold Obligations.LoadsComplete
  refine ⟨fun i s sext d addr n cs h hi hreach => ?scalar, fun s q a off tag la addr cs h hq hopen haddr hroom hreach => ?queue⟩
  case scalar =>
    obtain ⟨hcheck, hlocate⟩ := hreach
    obtain ⟨t, op, hexec, hbegun, hold, hpending, hqueues⟩ := load_begins h hi hcheck
    obtain ⟨hpast, hregs, helse, hspad⟩ := hbegun.notes.frame h
    have hsel : t.core.sel = .a := hregs.1.trans h.1
    refine ⟨t, hexec, hpast, hregs, helse, hspad, ?_, hqueues, hpending, fun hnone hheld hseen hlog => ?_⟩
    · rw [State.cur_of_a hsel, hbegun.flight]
      exact List.cons_ne_nil op []
    · have hdist := hbegun.undisturbed
      obtain ⟨u, hu, hcore, hpool, hhost⟩ := (hbegun.unordered h rfl (hpending.trans hnone) hold hheld hseen hlog).completes_load hbegun.work_eq
        (by rw [hbegun.opWho, hdist.locate, hlocate])
      have husel : u.core.sel = .a := by rw [hcore]; exact hsel
      rw [hdist.core.pid] at hu
      rw [hdist.peekAll] at hcore
      refine ⟨u, hu, ?_, ?_, ?_, ?_, ?_, ?_, hpool.trans hdist.pool, hhost.trans hdist.host⟩
      · rw [State.cur_of_a husel, hcore]
      · rw [State.cur_of_a husel, State.cur_of_a hsel, hcore]
      · rw [hcore]; exact hdist.core.f
      · rw [hcore]; exact hdist.core.v
      · rw [hcore]; exact hqueues
      · rw [hcore]; exact hspad
  case queue =>
    obtain ⟨hcheck, hlocate⟩ := hreach
    obtain ⟨t, op, hexec, hbegun, hold, hpending, hother, hqueue⟩ := ldq_begins h tag la haddr hq hopen hroom hcheck
    obtain ⟨hpast, hregs, helse, hspad⟩ := hbegun.notes.frame h
    refine ⟨t, ⟨s.core.nextId, false, 0, s.loadFmt tag⟩, hexec, hpast, hregs, helse, hqueue, rfl, rfl, rfl,
      fun hnone hheld hseen hlog hids hbe ev hev => ?_⟩
    have hdist := hbegun.undisturbed
    have hun := hbegun.unordered h rfl (hpending.trans hnone) hold hheld hseen hlog
    have hfmt := Core.entryFmt_of_unique (e := ⟨s.core.nextId, false, 0, s.loadFmt tag⟩) (by rw [hqueue]; simp) (reserved_unique hother hqueue hids)
    obtain ⟨u, hu, hcore, hpool, hhost⟩ := hun.completes_loadq hbegun.work_eq (by rw [hbegun.opWho, hdist.locate, hlocate])
      (by rw [hfmt, tagOf_loadFmt, hbe]) (ev := ev) (by rw [hdist.core.pid]; exact hev)
    obtain ⟨hdone, hg, -⟩ := Core.fillEntry_dropOp hun.flight s.core.nextId (.ofNat 512 (bytesNat (t.peekAll cs)))
    have husel : u.core.sel = .a := by
      rw [hcore]
      exact (Core.updStr_sel ..).trans (hregs.1.trans h.1)
    refine ⟨u, hu, ?_, ?_, ?_, hpool.trans hdist.pool, hhost.trans hdist.host, ?_⟩
    · rw [State.cur_of_a husel, hcore, hdone]
    · rw [State.cur_of_a husel, State.cur_of_a h.1, hcore, hg, hdist.core.ga]
    · rw [hcore, hdist.peekAll]
      exact filled_reserved hqueue hids .a op _
    · rw [hcore]
      exact (Core.updStr_spad ..).trans hspad

end Sys2Proof.Proofs
end

section
/-! What writing the bytes of an access leaves of the machine, beside those bytes (spec/08_memory.md R142, R157). -/

namespace Sys2Proof.Machine

/-! ### A write changes contents alone -/

/-- Of the core nothing but what its registers, tiles, full/empty bits and scratchpad hold has changed. -/
def Core.OnlyContents (k j : Core) : Prop :=
  ∃ ga gc f v ts m ws, j = { k with
    a := { k.a with g := ga }, c := { k.c with g := gc }, f := f, v := v, tiles := ts, spad := m, full := ws }

namespace Core.OnlyContents

variable {k j l : Core}

theorem refl (k : Core) : k.OnlyContents k := ⟨_, _, _, _, _, _, _, rfl⟩

theorem trans (h : k.OnlyContents j) (h' : j.OnlyContents l) : k.OnlyContents l := by
  obtain ⟨_, _, _, _, _, _, _, rfl⟩ := h
  obtain ⟨_, _, _, _, _, _, _, rfl⟩ := h'
  exact ⟨_, _, _, _, _, _, _, rfl⟩

theorem pid (h : k.OnlyContents j) : j.pid = k.pid := by obtain ⟨_, _, _, _, _, _, _, rfl⟩ := h; rfl

theorem sel (h : k.OnlyContents j) : j.sel = k.sel := by obtain ⟨_, _, _, _, _, _, _, rfl⟩ := h; rfl

theorem task (h : k.OnlyContents j) : j.task = k.task := by obtain ⟨_, _, _, _, _, _, _, rfl⟩ := h; rfl

theorem pending (h : k.OnlyContents j) : j.pending = k.pending := by obtain ⟨_, _, _, _, _, _, _, rfl⟩ := h; rfl

theorem a_flight (h : k.OnlyContents j) : j.a.flight = k.a.flight := by obtain ⟨_, _, _, _, _, _, _, rfl⟩ := h; rfl

theorem a_exited (h : k.OnlyContents j) : j.a.exited = k.a.exited := by obtain ⟨_, _, _, _, _, _, _, rfl⟩ := h; rfl

theorem c_exited (h : k.OnlyContents j) : j.c.exited = k.c.exited := by obtain ⟨_, _, _, _, _, _, _, rfl⟩ := h; rfl

theorem ite {p : Prop} [Decidable p] (hj : k.OnlyContents j) (hl : k.OnlyContents l) : k.OnlyContents (if p then j else l) := by
  split
  · exact hj
  · exact hl

theorem foldl {α : Type} {step : Core → α → Core} (hstep : ∀ (k : Core) x, k.OnlyContents (step k x)) (xs : List α) (k : Core) :
    k.OnlyContents (xs.foldl step k) := by
  induction xs generalizing k with
  | nil => exact refl k
  | cons x xs ih => exact (hstep k x).trans (ih _)

end Core.OnlyContents

theorem Stream.setG_eq (st : Stream) (n : Nat) (v : Word) : st.setG n v = { st with g := (st.setG n v).g } := by
  unfold Stream.setG
  split <;> rfl

theorem Core.setG_onlyContents (k : Core) (n : Nat) (v : Word) :
    k.OnlyContents { k with a := k.a.setG n v } ∧ k.OnlyContents { k with c := k.c.setG n v } := by
  rw [Stream.setG_eq, Stream.setG_eq k.c]
  exact ⟨⟨_, _, _, _, _, _, _, rfl⟩, ⟨_, _, _, _, _, _, _, rfl⟩⟩

theorem Core.setRegSlot_onlyContents (k : Core) (off : Nat) (v : Word) : k.OnlyContents (k.setRegSlot off v) := by
  have hf : ∀ n r, k.OnlyContents (k.setF n r) := fun n r => ⟨_, _, _, _, _, _, _, rfl⟩
  have hv : ∀ n r, k.OnlyContents (k.setV n r) := fun n r => ⟨_, _, _, _, _, _, _, rfl⟩
  unfold Core.setRegSlot
  exact .ite (k.setG_onlyContents ..).1 (.ite (k.setG_onlyContents ..).2 (.ite (hf ..) (.ite (hf ..) (.ite (hv ..) (.ite (hv ..) (.refl k))))))

theorem Core.setWinByte_onlyContents (k : Core) (off : Nat) (b : Byte) : k.OnlyContents (k.setWinByte off b) := by
  unfold Core.setWinByte
  exact .ite ⟨_, _, _, _, _, _, _, rfl⟩ (.ite (k.setRegSlot_onlyContents ..) (.ite (.refl k) (.foldl (fun _ _ => ⟨_, _, _, _, _, _, _, rfl⟩) _ _)))

theorem Core.setWin_onlyContents (k : Core) (off : Nat) (bs : List Byte) : k.OnlyContents (k.setWin off bs) := by
  unfold Core.setWin
  exact .ite (k.setRegSlot_onlyContents ..) (.foldl (fun k _ => k.setWinByte_onlyContents ..) _ _)

/-- A write into a core leaves the current core but for contents. -/
theorem State.updCore_onlyContents (s : State) (pid : Nat) {f : Core → Core} (hf : ∀ k : Core, k.OnlyContents (f k)) :
    s.core.OnlyContents (s.updCore pid f).core := by
  have hpid : (f (s.coreAt pid)).pid = pid := (hf _).pid.trans (s.coreAt_pid pid)
  rw [State.updCore, State.setCore, hpid]
  split
  case isTrue h =>
    subst h
    rw [State.coreAt_self]
    exact hf s.core
  case isFalse => exact .refl _

theorem State.poke_onlyContents (s : State) (c : Chunk) (bs : List Byte) : s.core.OnlyContents (s.poke c bs).core := by
  obtain ⟨d, hpoke⟩ := s.poke_eq_put c bs
  rw [hpoke]
  cases c with
  | phys hm pa len ord cache page level => cases hm <;> exact .refl _
  | spad pid off len => exact s.updCore_onlyContents pid fun k => ⟨_, _, _, _, _, _, _, rfl⟩
  | win pid off len => exact s.updCore_onlyContents pid fun k => k.setWin_onlyContents off bs
  | peer dev off len => exact .refl _

theorem State.pokeAll_onlyContents (s : State) (cs : List Chunk) (bs : List Byte) : s.core.OnlyContents (s.pokeAll cs bs).core := by
  induction cs generalizing s bs with
  | nil => exact .refl _
  | cons c cs ih =>
    rw [State.pokeAll_cons]
    exact (s.poke_onlyContents c _).trans (ih _ _)

theorem State.poke_clusters (s : State) (c : Chunk) (bs : List Byte) : (s.poke c bs).clusters = s.clusters := by
  obtain ⟨d, hpoke⟩ := s.poke_eq_put c bs
  rw [hpoke]
  cases c with
  | phys hm pa len ord cache page level => cases hm <;> rfl
  | spad pid off len => exact s.updCore_clusters ..
  | win pid off len => exact s.updCore_clusters ..
  | peer dev off len => rfl

theorem State.pokeAll_clusters (s : State) (cs : List Chunk) (bs : List Byte) : (s.pokeAll cs bs).clusters = s.clusters :=
  State.pokeAll_keeps State.clusters (fun c _ s _ => s.poke_clusters c _) s bs

/-! ### The device's registers have no part in a write -/

theorem OnlyDevice.updCore {s t : State} (h : OnlyDevice s t) (pid : Nat) (f : Core → Core) : OnlyDevice (s.updCore pid f) (t.updCore pid f) := by
  rw [h]
  have hcore : State.coreAt { s with dev := t.dev, free := t.free } pid = s.coreAt pid := rfl
  unfold State.updCore State.setCore
  rw [hcore]
  dsimp only
  split <;> rfl

theorem OnlyDevice.put {s t : State} (h : OnlyDevice s t) (bs : List Byte) (c : Chunk) : OnlyDevice (s.put bs c) (t.put bs c) := by
  cases c with
  | phys hm pa len ord cache page level =>
    rw [h]
    cases hm <;> rfl
  | spad pid off len => exact h.updCore pid (fun k => { k with spad := Memory.write k.spad off bs })
  | win pid off len => exact h.updCore pid (fun k => k.setWin off bs)
  | peer dev off len => exact h

theorem OnlyDevice.pokeAll {s t : State} (h : OnlyDevice s t) (cs : List Chunk) (bs : List Byte) : OnlyDevice (s.pokeAll cs bs) (t.pokeAll cs bs) := by
  induction cs generalizing s t bs with
  | nil => exact h
  | cons c cs ih =>
    rw [State.pokeAll_cons, State.pokeAll_cons]
    refine ih ?_ _
    obtain ⟨_, hs⟩ := s.poke_eq_put c (bs.take c.span.len)
    obtain ⟨_, ht⟩ := t.poke_eq_put c (bs.take c.span.len)
    rw [hs, ht, h.put (bs.take c.span.len) c]
    rfl

theorem OnlyDevice.cores {s t : State} (h : OnlyDevice s t) : t.cores = s.cores := by rw [h]

/-! ### A write of the own scratchpad -/

/-- The current core's scratchpad takes the bytes of one chunk (R190). -/
theorem State.pokeAll_own {s : State} (hclean : s.dev.poison = []) (off : Nat) (bs : List Byte) :
    s.pokeAll [.spad s.core.pid off bs.length] bs = { s with core := { s.core with spad := Memory.write s.core.spad off bs } } := by
  have hupd : s.updCore s.core.pid (fun k => { k with spad := Memory.write k.spad off bs })
      = { s with core := { s.core with spad := Memory.write s.core.spad off bs } } := by
    rw [State.updCore, State.coreAt_self]
    exact if_pos rfl
  rw [State.pokeAll_cons, Chunk.spad_len, List.take_length]
  simp [State.pokeAll, State.poke, hupd, hclean]

end Sys2Proof.Machine
end

section
/-! Stores of the A-stream as they issue (spec/10_memory_instructions.md R187, R190, R191, spec/14_ordering.md R267). -/

namespace Sys2Proof.Machine

open Sys2Proof.Safety

/-! ### Where a store acts -/

theorem Undisturbed.ownSpad {s t : State} (h : Undisturbed s t) (w : Who) (acc : Acc) (addr : Word) (n : Nat) :
    t.ownSpad w acc addr n = s.ownSpad w acc addr n := by simp only [State.ownSpad, h.locate]

theorem State.who_pid (s : State) : s.who.pid = s.core.pid := by
  unfold State.who
  split <;> rfl

theorem State.ownSpad_own {s : State} {addr : Word} {off n : Nat} (h : s.locate s.who .store addr n = .ok [.spad s.core.pid off n]) :
    s.ownSpad s.who .store addr n = some [.spad s.core.pid off n] := by simp [State.ownSpad, h, State.who_pid]

/-- With nothing incomplete in the A-stream the unacknowledged accesses are those of the list (R267). -/
theorem State.unack_quiet (s : State) {k : Core} (h : k.a.flight = []) : s.unack k = k.pending.length := by simp [State.unack, h]

/-- Room for one more store (R267). -/
theorem State.storeRoom_one {s : State} (h : s.core.a.flight = []) : s.storeRoom 1 = decide (s.core.pending.length < 65535) := by
  rw [State.storeRoom, s.unack_quiet h]
  exact decide_eq_decide.mpr Nat.succ_le_iff

/-! ### What the issue of a store leaves -/

/-- Where a store takes effect: past its instruction, with what it popped gone, nothing is incomplete and the stream may store. -/
structure StoreFrom (s : State) (i : Instr) (x : State) (qs : Vector (List QEntry) 8) : Prop where
  notes : OnlyNotes (s.issued i) x
  flight : x.core.a.flight = []
  pending : x.core.pending = s.core.pending
  queues : x.core.queues = qs

section
variable {s x : State} {i : Instr} {qs : Vector (List QEntry) 8} {addr : Word} {bs : List Byte}

namespace StoreFrom

theorem undisturbed (hx : StoreFrom s i x qs) : Undisturbed s x := (s.issued_undisturbed i).trans hx.notes.undisturbed

/-- A store of the own scratchpad writes there at once (R190). -/
theorem own (hx : StoreFrom s i x qs) (h : ReadyA s) {off : Nat} (hlocate : s.locate s.who .store addr bs.length = .ok [.spad s.core.pid off bs.length])
    (hnone : s.core.pending = []) :
    x.issueStore addr (.store bs) 0
      = .done { x.countAccess with core := { x.countAccess.core with spad := Memory.write x.core.spad off bs } } := by
  have hdist := hx.undisturbed
  have hsel : x.core.sel = .a := hdist.sel.trans h.1
  have hcount := State.countAccess_core hsel
  have hown : x.ownSpad x.who .store addr bs.length = some [.spad s.core.pid off bs.length] := by
    rw [hdist.ownSpad, hdist.who, State.ownSpad_own hlocate]
  have hblocked := x.orderBlocked_of_first (k := x.core) (x := .a) (id := x.core.nextId) (by rw [Core.str, hx.flight]; simp)
    (by rw [hx.pending, hnone]; simp) x.cur.mode .writes
  have hclean : x.countAccess.dev.poison = [] := by
    obtain ⟨-, -, -, -, -, -, hclean⟩ := h
    exact (congrArg Device.poison hdist.dev).trans hclean
  have hwrite := State.pokeAll_own hclean off bs
  have hpid : x.countAccess.core.pid = s.core.pid := by rw [hcount]; exact hdist.core.pid
  rw [hpid] at hwrite
  have hspad : x.countAccess.core.spad = x.core.spad := by rw [hcount]
  rw [hspad] at hwrite
  simp only [State.issueStore, hown, hsel, hblocked, Bool.false_eq_true, if_false]
  exact congrArg Res.done hwrite

/-- Any other joins the unacknowledged accesses (R267). -/
theorem later (hx : StoreFrom s i x qs) (hother : s.ownSpad s.who .store addr bs.length = none) (hroom : s.core.pending.length < 65535) :
    x.issueStore addr (.store bs) 0
      = .done { x.countAccess with core := { x.countAccess.core with
          pending := s.core.pending ++ [x.request addr (.store bs) 0], nextId := x.core.nextId + 1 } } := by
  have hdist := hx.undisturbed
  have hown : x.ownSpad x.who .store addr bs.length = none := by rw [hdist.ownSpad, hdist.who, hother]
  have hfree : x.storeRoom 1 = true := by rw [State.storeRoom_one hx.flight, hx.pending]; simpa using hroom
  have hpending : x.countAccess.core.pending = s.core.pending := by
    rw [← hx.pending]
    exact Core.updStr_pending ..
  simp only [State.issueStore, hown, hfree, if_true]
  exact congrArg (fun ps => Res.done { x.countAccess with core := { x.countAccess.core with
    pending := ps ++ [x.request addr (.store bs) 0], nextId := x.core.nextId + 1 } }) hpending

theorem waits (hx : StoreFrom s i x qs) (hother : s.ownSpad s.who .store addr bs.length = none) (hfull : 65535 ≤ s.core.pending.length) :
    x.issueStore addr (.store bs) 0 = .wait .unit := by
  have hdist := hx.undisturbed
  have hown : x.ownSpad x.who .store addr bs.length = none := by rw [hdist.ownSpad, hdist.who, hother]
  have hfree : x.storeRoom 1 = false := by rw [State.storeRoom_one hx.flight, hx.pending]; simpa using hfull
  simp only [State.issueStore, hown, hfree, Bool.false_eq_true, if_false]

end StoreFrom

end

/-! ### The two store instructions -/

/-- Executing `i` in `s` is what the answer `r` of its meaning says, where it completes or waits (R123). -/
def Answers (i : Instr) (s : State) (r : Res) : Prop :=
  (∀ t, r = .done t → exec i s = .next t) ∧ (∀ w, r = .wait w → exec i s = .next (s.waitAt w)) ∧ ∀ t w, r = .hold t w → exec i s = .next (t.waitAt w)

section
variable {s : State} (h : ReadyA s)
include h

theorem issued_a_taken (i : Instr) : (s.issued i).core.a.taken = s.core.a.taken := by
  rw [issued_a_eq h]
  rfl

/-- What a pop takes past an instruction (R90). -/
theorem popQ_storeFrom (i : Instr) {q : Nat} {e : QEntry} {rest : List QEntry} (hqueue : s.core.getQueue q = e :: rest) :
    ∃ x, (s.issued i).popQ q = some (x, e) ∧ StoreFrom s i x (s.core.setQueue q rest).queues := by
  have hget : (s.issued i).core.getQueue q = e :: rest := (s.issued_getQueue i q).trans hqueue
  refine ⟨_, by rw [State.popQ, hget], .of_queues (onlyQueues_pop _ q e rest), ?_, ?_, ?_⟩
  · rw [issued_sel_a h i]
    exact issued_a_flight h i
  · exact (Core.updStr_pending ..).trans (s.issued_core_pending i)
  · refine (Core.updStr_queues ..).trans ?_
    simp [Core.setQueue]

theorem issued_storeFrom (i : Instr) : StoreFrom s i (s.issued i) s.core.queues :=
  ⟨.refl _, issued_a_flight h i, s.issued_core_pending i, s.issued_core_queues i⟩

/-- An instruction that nothing holds back does what its meaning answers. -/
theorem issue_answers {i : Instr} {fm : Form} {k : State → Res} {r : Res} (hexec : exec i s = issue fm s k) (hinstr : fm.instr = i)
    (hw : i.wellFormed = true) (hs : fm.streams.admits s.core.sel = true) (hi : fm.illegal = false) (hp : fm.priv = false)
    (hk : k (s.issued i) = r) : Answers i s r := by
  subst hinstr hk
  have hready := (hexec.trans (issue_ready fm s k h.2 hw hs hi (by simp [hp])))
  refine ⟨fun t ht => ?_, fun w hw => ?_, fun t w ht => ?_⟩
  · rw [hready, ht]
  · rw [hready, hw]
  · rw [hready, ht]

/-- st does what the issue of its store answers (R190). -/
theorem exec_st {a b : BitVec 5} {off : BitVec 13} {sz : BitVec 2} {addr : Word} (haddr : addr = w64 ((s.g a).toInt + off.toInt * 2 ^ sz.toNat))
    (hcheck : s.checkAddr s.who addr (2 ^ sz.toNat) (2 ^ sz.toNat) = none) :
    Answers (.st a b off sz) s ((s.issued (.st a b off sz)).issueStore addr (.store (natBytes (s.g b).toNat (2 ^ sz.toNat))) 0) := by
  have hdist := s.issued_undisturbed (.st a b off sz)
  have hoff : offsetBy (s.g a) off.toInt (sizeOf2 sz) = addr := by
    rw [haddr, offsetBy_eq, sizeOf2]
    norm_cast
  refine issue_answers h (execSt.eq_def a b off sz s) rfl rfl (readyA_admits h) rfl rfl ?_
  simp only [State.issued_g, hoff, hdist.who, hdist.checkAddr]
  rw [sizeOf2, hcheck]

section
variable {q : BitVec 3} {a : BitVec 5} {off : BitVec 9} {addr : Word} {e : QEntry} {x : State}

/-- stq with an entry whose data is there does what the issue of its store answers (R191). -/
theorem exec_stq_filled (hwf : (Instr.stq q a off).wellFormed = true) (haddr : addr = w64 ((s.g a).toInt + off.toInt * 64))
    (hcheck : s.checkAddr s.who addr 64 64 = none) (hpop : (s.issued (.stq q a off)).popQ q.toNat = some (x, e)) (hfilled : e.filled = true) :
    Answers (.stq q a off) s (x.issueStore addr (.store (natBytes e.bits.toNat 64)) 0) := by
  have hdist := s.issued_undisturbed (.stq q a off)
  have hoff : offsetBy (s.g a) off.toInt 64 = addr := by rw [haddr, offsetBy_eq]; rfl
  refine issue_answers h (execStq.eq_def q a off s) rfl hwf (readyA_admits h) rfl rfl ?_
  simp only [queueNo, hpop, State.issued_g, hoff, hdist.who, hdist.checkAddr, hcheck, hfilled, if_true]

/-- With an entry that is still to be filled it has issued, and stands incomplete (R92). -/
theorem exec_stq_unfilled (hwf : (Instr.stq q a off).wellFormed = true) (haddr : addr = w64 ((s.g a).toInt + off.toInt * 64))
    (hcheck : s.checkAddr s.who addr 64 64 = none) (hpop : (s.issued (.stq q a off)).popQ q.toNat = some (x, e)) (hfilled : e.filled = false)
    (hroom : x.storeRoom (x.countAccess.launchOp (.stq q a off) s.cur.pc 0 [] (.storeq e addr)).lastStores = true) :
    exec (.stq q a off) s = .next (x.countAccess.launchOp (.stq q a off) s.cur.pc 0 [] (.storeq e addr)) := by
  have hdist := s.issued_undisturbed (.stq q a off)
  have hoff : offsetBy (s.g a) off.toInt 64 = addr := by rw [haddr, offsetBy_eq]; rfl
  refine (execStq.eq_def q a off s).trans (issue_completes h.2 hwf (readyA_admits h) rfl rfl ?_)
  simp only [memForm, queueNo, hpop, State.issued_g, hoff, hdist.who, hdist.checkAddr, hcheck, hfilled, Bool.false_eq_true, if_false, hroom, if_true]

end

end

end Sys2Proof.Machine
end

section
/-! A stq that has issued before its data was there (spec/05_fetch_and_issue.md R92, spec/10_memory_instructions.md R191). -/

namespace Sys2Proof.Machine

open Sys2Proof.Safety

section
variable {t : State} {op : LongOp}

/-- An incomplete instruction that cannot go on stays as it is (R92). -/
theorem exec_longOpComplete_a_still (hflight : t.core.a.flight = [op]) (hlist : t.takeList .a op = (t, op)) (hmove : t.opMove .a op = .still)
    (hexited : t.core.a.exited = false) : exec (.longOpComplete t.core.pid .a 0 1) t = .next t := by
  have hat : t.opAt .a 0 = some op := by simp [State.opAt, Core.str, hflight]
  have hfind : (t.core.str .a).flight.find? (fun o => o.id == op.id) = some op := by simp [Core.str, hflight]
  have hgoes : t.goOn .a op.id 1 = t := by simp only [State.goOn, hfind, hlist, hmove]
  have hend : t.settleEnd = t := State.settleEnd_of_not_exited (by simp [hexited])
  change execLongOpComplete t.core.pid .a 0 1 t = _
  simp only [execLongOpComplete, State.onCore, State.select_self, hat, hgoes, hend]

/-- A stq whose entry is not yet filled cannot go on. -/
theorem State.opMove_storeq_unfilled {e : QEntry} {addr : Word} (hwork : op.work = .storeq e addr) (hfilled : e.filled = false) :
    t.opMove .a op = .still := by
  have hself : t.core.selfMoves op = false := by simp [Core.selfMoves, hwork, Work.popped, hfilled]
  have hfast : t.fastBad t.core op = false := by simp [State.fastBad, hwork, Work.fastTile]
  simp [State.opMove, hself, hfast, hwork]

/-- It has at most one store to make. -/
theorem State.storesLeft_storeq (s : State) {k : Core} {e : QEntry} {addr : Word} (hwork : op.work = .storeq e addr) : s.storesLeft k op ≤ 1 := by
  have hone : (s.workAccesses k op).length = 1 := by simp [State.workAccesses, State.fixedTouches, hwork]
  have hle := List.length_filter_le (fun (a : Touch) => a.use.writing && !(a.known && (s.ownSpad (k.opWho op) .store a.addr a.len).isSome))
    (s.workAccesses k op)
  simp only [State.storesLeft, hwork]
  omega

end

section
variable {s : State} (h : ReadyA s)
include h

/-- A stq whose entry is not yet filled has begun, with the entry popped. -/
theorem stq_begins {q : BitVec 3} {a : BitVec 5} {off : BitVec 9} {e : QEntry} {rest : List QEntry} {addr : Word}
    (hwf : (Instr.stq q a off).wellFormed = true) (haddr : addr = w64 ((s.g a).toInt + off.toInt * 64))
    (hqueue : s.core.getQueue q.toNat = e :: rest) (hfilled : e.filled = false) (hcheck : s.checkAddr s.who addr 64 64 = none)
    (hroom : s.core.pending.length < 65535) :
    ∃ t op, exec (.stq q a off) s = .next t ∧ Begun s (.stq q a off) t op (.storeq e addr) ∧ t.core.queues = (s.core.setQueue q.toNat rest).queues := by
  obtain ⟨x, hpop, hx⟩ := popQ_storeFrom h (.stq q a off) hqueue
  have hsel : x.core.sel = .a := hx.undisturbed.sel.trans h.1
  have hcount := State.countAccess_core hsel
  obtain ⟨op, hbegun, -, -, hqueues, -⟩ := launch_begun h (hx.notes.trans (.countAccess hsel)) (by rw [hcount]; exact hx.flight) s.cur.pc 0 []
    (.storeq e addr) false
  have htsel : (x.countAccess.launchOp (.stq q a off) s.cur.pc 0 [] (.storeq e addr)).core.sel = .a := hbegun.undisturbed.sel.trans h.1
  have hlast : (x.countAccess.launchOp (.stq q a off) s.cur.pc 0 [] (.storeq e addr)).lastStores ≤ 1 := by
    rw [State.lastStores, State.cur_of_a htsel, hbegun.flight]
    exact State.storesLeft_storeq _ hbegun.work_eq
  have hfree : x.storeRoom (x.countAccess.launchOp (.stq q a off) s.cur.pc 0 [] (.storeq e addr)).lastStores = true := by
    rw [State.storeRoom, x.unack_quiet hx.flight, hx.pending, decide_eq_true_eq]
    change _ ≤ 65535
    omega
  refine ⟨_, op, exec_stq_unfilled h hwf haddr hcheck hpop hfilled hfree, hbegun, ?_⟩
  rw [hqueues, hcount]
  exact hx.queues

end

end Sys2Proof.Machine
end

section
/-! A core's one waiting store or atomic without return as its executor takes it, and O26 (spec/10_memory_instructions.md R190, R198, R363,
spec/14_ordering.md R267 to R269). -/

namespace Sys2Proof.Machine

open Sys2Proof.Safety

/-! ### Events about a request -/

/-- An event about a request of the current core, whose task goes on. -/
theorem State.onAsk_self {s : State} {ref : ReqRef} {a : Ask} {f : Ask → State → State} (hask : s.ask s.core.pid ref = some a)
    (hgoes : ¬ ((f a s).core.a.exited = true ∧ (f a s).core.c.exited = true)) (hpid : (f a s).core.pid = s.core.pid) :
    s.onAsk s.core.pid ref f = f a s := by
  simp only [State.onAsk, State.onCore, State.select_self, hask, State.settleEnd_of_not_exited hgoes]
  rw [← hpid, State.select_self]

/-- An executor takes a request that is ready, located and first, no line being held elsewhere (R199, R269). -/
theorem State.serve_ready {s : State} {a : Ask} {cs : List Chunk} {here : Executor → Bool} (hready : a.ready = true) (hblocked : s.askBlocked a = false)
    (hlocate : s.askAt a = .ok cs) (hhere : here (s.executorNow a.pid a.sc a.kind cs) = true) (hturn : s.turnOf a cs = true)
    (hheld : Spec.NoLineHeld s) (hfind : s.core.asks.find? (fun b => b.id == a.id && b.ready) = some a) : s.serve a here = s.perform a cs := by
  simp [State.serve, hready, hblocked, hlocate, hhere, hturn, State.recall_of_noLineHeld hheld, hfind]

theorem State.serve_denied {s : State} {a : Ask} (here : Executor → Bool) (hready : a.ready = true) (hblocked : s.askBlocked a = false)
    (hlocate : s.askAt a = .deny) : s.serve a here = s.askRefused a 0x07 := by simp [State.serve, hready, hblocked, hlocate]

/-- Where no line is held, an ordinary store goes to its home slice, or as it arrives to the core that holds its target (R199). -/
theorem State.executorNow_store {s : State} (h : Spec.NoLineHeld s) (pid sc : Nat) (bs : List Byte) (cs : List Chunk) (c : Nat) :
    s.executorNow pid sc (.store bs) cs ≠ .engine c := by
  have hhot : ∀ n, (s.clusterAt n).hot = [] := by
    intro n
    unfold State.clusterAt
    cases hf : s.clusters.find? (fun c => c.id == n) with
    | none => rfl
    | some c => exact h c (List.mem_of_find?_eq_some hf)
  have hplain : ∀ c, executor pid sc (.store bs) cs ≠ .engine c := by
    intro c
    cases cs with
    | nil => simp [executor]
    | cons d ds => cases d <;> simp [executor, ReqKind.isAtomic]
  unfold State.executorNow
  split
  · simp [hhot]
  · rename_i e hne
    exact hplain c

/-- The location scope with which a served request is noted (R264). -/
def State.askScope (s : State) (a : Ask) : Nat :=
  match a.ref with
  | .pending i => ((s.core.pending[i]?).map (s.scopeNow s.core)).getD 0
  | .op _ => 0

/-- Performing a store writes its bytes and marks it as served, where no log is kept (R190). -/
theorem State.perform_store {s : State} {a : Ask} {bs : List Byte} (hkind : a.kind = .store bs) (hlog : s.logMode a.who = 0)
    (hheld : Spec.NoLineHeld s) (cs : List Chunk) :
    s.perform a cs = ((s.touch a.who.ctx false cs).pokeAll cs bs).updThis (fun k => k.askDone a 0 (s.askScope a)) := by
  have hunlogged : ((s.touch a.who.ctx false cs).pokeAll cs bs).logMode a.who = 0 := by
    rw [State.logMode, State.cmdAt_congr ((State.pokeAll_contexts ..).trans (s.touch_onlyDevice a.who.ctx false cs).contexts)]
    exact hlog
  have hserved : ∀ k, ((s.touch a.who.ctx false cs).pokeAll cs bs).logServed k (s.core.served0 a.who a.st a.ordinal) a.addr cs
      = (s.touch a.who.ctx false cs).pokeAll cs bs := fun k => State.logServed_off hunlogged k a.addr cs
  unfold State.perform State.askScope
  rw [hkind]
  dsimp only
  cases he : s.executorNow a.pid a.sc (.store bs) cs with
  | home n => simp only [Executor.log, hserved] <;> rfl
  | direct => simp only [Executor.log] <;> rfl
  | engine c => exact absurd he (State.executorNow_store hheld a.pid a.sc bs cs c)

/-! ### The one waiting store of a core -/

/-- `r` is the one access of the core that is not acknowledged, a store of the A-stream's user code that waits; nothing else of the stream is
incomplete, and neither a line nor a log holds it. -/
structure Waits (s : State) (r : Request) (bs : List Byte) : Prop where
  task : s.core.task.isSome = true
  goes : (s.core.a.exited && s.core.c.exited) = false
  pending : s.core.pending = [r]
  mine : r.ofTask s.core = true
  kind : r.kind = .store bs
  served : r.served = false
  parked : r.parked = false
  stream : r.stream = .a
  mode : r.mode = .user
  flight : s.core.a.flight = []
  unlogged : s.logMode (r.who s.core) = 0
  unheld : Spec.NoLineHeld s

namespace Waits

variable {s : State} {r : Request} {bs : List Byte}

theorem asks (h : Waits s r bs) : s.core.asks = [s.core.askOf r 0] := by simp [Core.asks, h.pending, h.flight]

theorem ask (h : Waits s r bs) : s.ask s.core.pid (.pending 0) = some (s.core.askOf r 0) := by
  simp [State.ask, State.coreAt_self, h.asks, Core.askOf]

theorem ready (h : Waits s r bs) : (s.core.askOf r 0).ready = true := by simp [Core.askOf, h.served, h.parked]

theorem unblocked (h : Waits s r bs) : s.askBlocked (s.core.askOf r 0) = false := by
  rw [State.askBlocked, Core.askOf, State.coreAt_self]
  dsimp only
  rw [h.stream]
  refine State.orderBlocked_of_first s (fun o ho => ?_) (fun x hx => ?_) _ _ _
  · rw [Core.str, h.flight] at ho
    cases ho
  · rw [h.pending, List.mem_singleton] at hx
    rw [hx]

theorem askAt (h : Waits s r bs) : s.askAt (s.core.askOf r 0) = s.locate (r.who s.core) .store r.addr bs.length := by
  simp [State.askAt, Core.askOf, Ask.acc, h.kind, ReqKind.isAtomic, ReqKind.len]

/-- Once its turn has come it is performed. -/
theorem serves (h : Waits s r bs) {cs : List Chunk} (hlocate : s.locate (r.who s.core) .store r.addr bs.length = .ok cs)
    (hturn : s.turnOf (s.core.askOf r 0) cs = true) :
    s.serve (s.core.askOf r 0) (fun _ => !(s.core.askOf r 0).kind.isAtomic)
      = ((s.touch (r.who s.core).ctx false cs).pokeAll cs bs).updThis (fun k => k.askDone (s.core.askOf r 0) 0 (s.askScope (s.core.askOf r 0))) := by
  have hfind : s.core.asks.find? (fun b => b.id == (s.core.askOf r 0).id && b.ready) = some (s.core.askOf r 0) := by
    rw [h.asks]
    simp [h.ready]
  rw [State.serve_ready h.ready h.unblocked (h.askAt.trans hlocate) (by simp [Core.askOf, h.kind, ReqKind.isAtomic]) hturn h.unheld hfind]
  exact State.perform_store h.kind h.unlogged h.unheld cs

/-- Served, it leaves the list with its acknowledgement. -/
theorem acknowledged (h : Waits s r bs) {k : Core} (hk : s.core.OnlyContents k) (loc : Nat) :
    { k.askDone (s.core.askOf r 0) 0 loc with
      pending := (k.askDone (s.core.askOf r 0) 0 loc).pending.filter (fun x => !(x.id == (s.core.askOf r 0).id && x.served)) }
      = { k with pending := [] } := by
  have hpending : k.pending = [r] := hk.pending.trans h.pending
  simp [Core.askDone, Core.askOf, hpending, modifyAt]

/-- The acknowledgement of a store whose turn has come writes its bytes (R190, R267). -/
theorem acks (h : Waits s r bs) {cs : List Chunk} (hlocate : s.locate (r.who s.core) .store r.addr bs.length = .ok cs)
    (hturn : s.turnOf (s.core.askOf r 0) cs = true) :
    ∃ t, exec (.storeAck s.core.pid 0) s = .next t ∧ t.core = { (s.pokeAll cs bs).core with pending := [] }
      ∧ t.pool = (s.pokeAll cs bs).pool ∧ t.host = (s.pokeAll cs bs).host ∧ t.cores = (s.pokeAll cs bs).cores := by
  have hdev : OnlyDevice (s.pokeAll cs bs) ((s.touch (r.who s.core).ctx false cs).pokeAll cs bs) :=
    (s.touch_onlyDevice (r.who s.core).ctx false cs).pokeAll cs bs
  have hcontents := s.pokeAll_onlyContents cs bs
  have hcore : (((s.serve (s.core.askOf r 0) (fun _ => !(s.core.askOf r 0).kind.isAtomic)).ackId (s.core.askOf r 0).id)).core
      = { (s.pokeAll cs bs).core with pending := [] } := by
    rw [h.serves hlocate hturn, State.ackId, State.updThis, State.updThis]
    dsimp only
    rw [hdev.core]
    exact h.acknowledged hcontents _
  have hack := State.onAsk_self (f := fun a s1 => (s1.serve a (fun _ => !a.kind.isAtomic)).ackId a.id) h.ask
    (by
      rw [hcore]
      dsimp only
      rw [hcontents.a_exited, hcontents.c_exited]
      simpa using h.goes)
    (by rw [hcore]; exact hcontents.pid)
  refine ⟨_, congrArg Host.Outcome.next hack, hcore, ?_, ?_, ?_⟩
  all_goals rw [h.serves hlocate hturn]
  · exact hdev.pool
  · exact hdev.host
  · exact hdev.cores

/-- A refused one writes nothing, and its trap is kept (R363). -/
theorem refused (h : Waits s r bs) :
    ∃ t, s.askRefused (s.core.askOf r 0) 0x07 = t ∧ t.pool = s.pool ∧ t.host = s.host
      ∧ t.core = { s.core with sel := .a, pending := [], deferred := s.core.deferred ++ [⟨0x07, r.addr⟩] } := by
  refine ⟨_, rfl, ?_⟩
  have hsup : (r.who s.core).sup = false := by simp [Request.who, h.mode]
  simp [State.askRefused, Core.askOf, h.mine, State.refuse, hsup, State.onStream, State.updThis, h.task, h.stream, h.pending, dropAt, State.tried]

theorem refuses (h : Waits s r bs) (hlocate : s.locate (r.who s.core) .store r.addr bs.length = .deny) {e : Instr}
    (he : e = .storeRefusal s.core.pid 0 ∨ e = .storeAck s.core.pid 0) :
    ∃ t, exec e s = .next t ∧ t.pool = s.pool ∧ t.host = s.host ∧ t.core.spad = s.core.spad
      ∧ t.core.deferred = s.core.deferred ++ [⟨0x07, r.addr⟩] := by
  obtain ⟨t, ht, hpool, hhost, hcore⟩ := h.refused
  have hgoes : ¬ (t.core.a.exited = true ∧ t.core.c.exited = true) := by
    rw [hcore]
    simpa using h.goes
  have hpid : t.core.pid = s.core.pid := by rw [hcore]
  obtain rfl | rfl := he
  · have hfun : (match s.askAt (s.core.askOf r 0) with
        | .deny => if (s.core.askOf r 0).ready && !s.askBlocked (s.core.askOf r 0) then s.askRefused (s.core.askOf r 0) 0x07 else s
        | _ => s) = t := by simp [h.askAt, hlocate, h.ready, h.unblocked, ht]
    have hself := State.onAsk_self (f := fun a s1 => match s1.askAt a with
      | .deny => if a.ready && !s1.askBlocked a then s1.askRefused a 0x07 else s1
      | _ => s1) h.ask (by rw [hfun]; exact hgoes) (by rw [hfun]; exact hpid)
    exact ⟨t, congrArg Host.Outcome.next (hself.trans hfun), hpool, hhost, by rw [hcore], by rw [hcore]⟩
  · have hack : (s.serve (s.core.askOf r 0) (fun _ => !(s.core.askOf r 0).kind.isAtomic)).ackId (s.core.askOf r 0).id = t := by
      rw [State.serve_denied _ h.ready h.unblocked (h.askAt.trans hlocate), ht, State.ackId, State.updThis]
      have hnone : t.core.pending = [] := by rw [hcore]
      rw [hnone, List.filter_nil, ← hnone]
    have hself := State.onAsk_self (f := fun a s1 => (s1.serve a (fun _ => !a.kind.isAtomic)).ackId a.id) h.ask (by rw [hack]; exact hgoes)
      (by rw [hack]; exact hpid)
    exact ⟨t, congrArg Host.Outcome.next (hself.trans hack), hpool, hhost, by rw [hcore], by rw [hcore]⟩

end Waits

end Sys2Proof.Machine
end

section
/-! O26: the stores, from their issue to their acknowledgement. -/

namespace Sys2Proof.Machine

open Sys2Proof.Safety

section
variable {s s0 : State} (h : ReadyA s)
include h

/-- st, and stq with an entry whose data is there, do what the issue of their store answers. -/
theorem exec_store {i : Instr} {addr : Word} {bs : List Byte}
    (hi : (∃ a b off sz, i = .st a b off sz ∧ addr = w64 ((s.g a).toInt + off.toInt * 2 ^ sz.toNat) ∧ bs = natBytes (s.g b).toNat (2 ^ sz.toNat)
         ∧ s0 = s)
       ∨ (∃ q a off e rest, i = .stq q a off ∧ i.wellFormed = true ∧ addr = w64 ((s.g a).toInt + off.toInt * 64)
         ∧ s.core.getQueue q.toNat = e :: rest ∧ e.filled = true ∧ bs = natBytes e.bits.toNat 64
         ∧ s0 = { s with core := s.core.setQueue q.toNat rest }))
    (hcheck : s.checkAddr s.who addr bs.length bs.length = none) :
    ∃ x, StoreFrom s i x s0.core.queues ∧ Answers i s (x.issueStore addr (.store bs) 0) := by
  obtain ⟨a, b, off, sz, rfl, haddr, rfl, rfl⟩ | ⟨q, a, off, e, rest, rfl, hwf, haddr, hqueue, hfilled, rfl, rfl⟩ := hi
  · rw [natBytes_length] at hcheck
    exact ⟨_, issued_storeFrom h _, exec_st h haddr hcheck⟩
  · rw [natBytes_length] at hcheck
    obtain ⟨x, hpop, hx⟩ := popQ_storeFrom h (.stq q a off) hqueue
    exact ⟨x, hx, exec_stq_filled h hwf haddr hcheck hpop hfilled⟩

end

/-- What only notes are left of, and a write of the own scratchpad, frame the issue alike. -/
theorem OnlyNotes.frame_spad {s t : State} {i : Instr} (h : ReadyA s) (ht : OnlyNotes (s.issued i) t) (m : Memory) :
    let u : State := { t with core := { t.core with spad := m } }
    Spec.Past s u i ∧ Spec.KeepsRegisters s u ∧ Spec.KeepsElsewhere s u := by
  obtain ⟨hpast, hregs, helse, -⟩ := ht.frame h
  exact ⟨hpast, hregs, helse⟩

end Sys2Proof.Machine

namespace Sys2Proof.Proofs

open Sys2Proof.Machine Sys2Proof.Safety

/-- Settles O26: at its issue a store writes the own scratchpad, or joins the unacknowledged accesses, or waits for room; its executor performs it
when its turn comes, and a refused one leaves its trap. -/
theorem storesComplete : Obligations.StoresComplete := by
  unfold Obligations.StoresComplete
  refine ⟨fun i s s0 addr bs h hi hcheck => ?issue, fun s q a off e rest addr h hwf haddr hqueue hfilled hcheck hroom => ?unfilled,
    fun s r bs cs htask hgoes hpending hmine hkind hserved hparked hstream hmode hflight hclean hlog hheld => ?served⟩
  case issue =>
    obtain ⟨x, hx, hdone, hwait, -⟩ := exec_store h hi hcheck
    have hsel : x.core.sel = .a := hx.undisturbed.sel.trans h.1
    have hcount := State.countAccess_core hsel
    have hnotes : OnlyNotes (s.issued i) x.countAccess := hx.notes.trans (.countAccess hsel)
    refine ⟨fun off hlocate hnone => ?_, fun hother hroom => ?_, fun hother hfull => hwait _ (hx.waits hother hfull)⟩
    · have hexec := hdone _ (hx.own h hlocate hnone)
      obtain ⟨hpast, hregs, helse⟩ := hnotes.frame_spad h (Memory.write x.core.spad off bs)
      have hspad : x.core.spad = s.core.spad := hx.undisturbed.core.spad
      refine ⟨_, hexec, hpast, hregs, helse, ?_, ?_, Memory.read_write _ off bs, fun y hy => ?_⟩
      · rw [hcount]
        exact hx.pending.trans hnone
      · rw [hcount]
        exact hx.queues
      · rw [← hspad]
        exact Memory.get_write_of_not_mem _ off y bs hy
    · have hexec := hdone _ (hx.later hother hroom)
      obtain ⟨hpast, hregs, helse, hspad⟩ := (hnotes.trans (.pending _ _ _)).frame h
      refine ⟨_, x.request addr (.store bs) 0, hexec, hpast, hregs, helse, hspad, ?_, rfl, rfl, rfl, rfl⟩
      rw [hcount]
      exact hx.queues
  case unfilled =>
    obtain ⟨t, op, hexec, hbegun, hqueues⟩ := stq_begins h hwf haddr hqueue hfilled hcheck hroom
    obtain ⟨hpast, hregs, helse, hspad⟩ := hbegun.notes.frame h
    have hlist : t.takeList .a op = (t, op) := State.takeList_plain t _ op (by simp [hbegun.work_eq]) (by simp [hbegun.work_eq])
    have hstill := exec_longOpComplete_a_still hbegun.flight hlist (State.opMove_storeq_unfilled hbegun.work_eq hfilled) (hbegun.not_exited h)
    rw [hbegun.undisturbed.core.pid] at hstill
    refine ⟨t, op, hexec, hpast, hregs, helse, hspad, ?_, ?_, hbegun.work_eq, hstill⟩
    · rw [Core.getQueue, hqueues]
      exact s.core.getQueue_setQueue q.isLt rest
    · rw [State.cur_of_a (hregs.1.trans h.1), hbegun.flight]
  case served =>
    have hwaits : Waits s r bs := ⟨htask, hgoes, hpending, hmine, hkind, hserved, hparked, hstream, hmode, hflight, hlog, hheld⟩
    exact ⟨fun hlocate hturn => hwaits.acks hlocate hturn, fun hlocate e he => hwaits.refuses hlocate he⟩

end Sys2Proof.Proofs
end

section
/-! Words of the own scratchpad: their addresses, and their full/empty bits (spec/07_scalar_instructions.md R138, spec/08_memory.md R150,
spec/10_memory_instructions.md R195). -/

namespace Sys2Proof.Machine

open Sys2Proof.Safety

/-! ### Full/empty bits (R150) -/

theorem mem_insertNat {x a : Nat} {xs : List Nat} : x ∈ insertNat a xs ↔ x = a ∨ x ∈ xs := by
  induction xs with
  | nil => simp [insertNat]
  | cons k rest ih =>
    rw [insertNat]
    split
    · exact List.mem_cons
    · split
      case isTrue heq => subst heq; simp
      case isFalse => rw [List.mem_cons, ih, List.mem_cons, or_left_comm]

theorem Core.isFull_setFull (k : Core) (w : Nat) (b : Bool) (x : Nat) : (k.setFull w b).isFull x = if x = w then b else k.isFull x := by
  cases b with
  | true =>
    by_cases hx : x = w
    · simp [Core.isFull, mem_insertNat, hx]
    · simp [Core.isFull, mem_insertNat, hx]
  | false =>
    by_cases hx : x = w
    · simp [Core.isFull, hx]
    · simp [Core.isFull, hx]

/-- The bits of a run of words set alike. -/
def Core.setFulls (k : Core) (w n : Nat) (b : Bool) : Core := (List.range n).foldl (fun k i => k.setFull (w + i) b) k

theorem Core.setFulls_succ (k : Core) (w n : Nat) (b : Bool) : k.setFulls w (n + 1) b = (k.setFulls w n b).setFull (w + n) b := by
  rw [Core.setFulls, List.range_succ, List.foldl_append]
  rfl

/-- Nothing else of the core changes. -/
theorem Core.setFulls_eq (k : Core) (w n : Nat) (b : Bool) : k.setFulls w n b = { k with full := (k.setFulls w n b).full } := by
  induction n with
  | zero => rfl
  | succ n ih =>
    rw [Core.setFulls_succ, ih]
    rfl

theorem Core.isFull_setFulls (k : Core) (w n : Nat) (b : Bool) (x : Nat) :
    (k.setFulls w n b).isFull x = if w ≤ x ∧ x < w + n then b else k.isFull x := by
  induction n with
  | zero =>
    rw [if_neg (by omega)]
    rfl
  | succ n ih =>
    rw [Core.setFulls_succ, Core.isFull_setFull, ih]
    by_cases hlast : x = w + n
    · rw [if_pos hlast, if_pos (by omega)]
    · rw [if_neg hlast]
      exact if_congr (by omega) rfl rfl

theorem State.setBits_own (s : State) (w n : Nat) (b : Bool) : s.setBits s.core.pid w n b = { s with core := s.core.setFulls w n b } := by
  have hpid : (s.core.setFulls w n b).pid = s.core.pid := by rw [Core.setFulls_eq]
  rw [State.setBits, State.updCore, State.coreAt_self, State.setCore]
  exact if_pos hpid.symm

theorem State.bitsAre_own (s : State) (w n : Nat) (b : Bool) : s.bitsAre s.core.pid w n b = true ↔ ∀ i, i < n → s.core.isFull (w + i) = b := by
  simp [State.bitsAre, State.coreAt_self]

/-! ### Addresses of the own scratchpad (R138, R188) -/

/-- Address `addr` is offset `off` of the own scratchpad, and the `n` bytes there lie in it, aligned. -/
structure OwnWords (addr : Word) (off n : Nat) : Prop where
  addr_eq : addr = .ofNat 64 (0xFFF0000000000000 + off)
  room : off + n ≤ 0x60000
  aligned : off % n = 0
  size : n = 8 ∨ n = 64

namespace OwnWords

variable {addr : Word} {off n : Nat}

theorem toNat_eq (h : OwnWords addr off n) : addr.toNat = 0xFFF0000000000000 + off := by
  have hroom := h.room
  rw [h.addr_eq, BitVec.toNat_ofNat]
  omega

theorem aperture_eq (h : OwnWords addr off n) : aperture addr = ⟨3, 0, off⟩ := by
  have hroom := h.room
  have hsize := h.size
  refine aperture_of_hasKind (hasKind_iff.mpr ⟨?_, ?_, ?_, ?_⟩)
  · unfold IsKind; decide
  · decide
  · change off < 0x60000
    omega
  · rw [h.toNat_eq]
    change _ = 0xFFF0000000000000 + 0 * 2 ^ 19 + off
    omega

/-- A synchronising access passes its checks there (R188). -/
theorem checkSync (h : OwnWords addr off n) (s : State) : s.checkSync addr n = none := by
  have hroom := h.room
  have haligned := h.aligned
  have halign : addr.toNat % n = 0 := by
    rw [h.toNat_eq]
    obtain rfl | rfl := h.size
    · omega
    · omega
  have haperture : s.apertureOk s.who addr n = true := by
    have hlimit : ¬ apLimit 3 < off + n := by
      change ¬ 0x60000 < off + n
      omega
    simp [State.apertureOk, h.aperture_eq, hlimit]
  simp [State.checkSync, State.checkAddr, haperture, scratchTarget, registerWindowOk, h.aperture_eq, halign]

theorem locate (h : OwnWords addr off n) (s : State) (acc : Acc) : s.locate s.who acc addr n = .ok [.spad s.core.pid off n] := by
  simp [State.locate, h.aperture_eq, State.who_pid]

theorem spadWords_eq (pid : Nat) : spadWords [.spad pid off n] = some (pid, off / 8, n / 8) := rfl

end OwnWords

end Sys2Proof.Machine
end

section
/-! Synchronising stores as they issue (spec/10_memory_instructions.md R195, R196). -/

namespace Sys2Proof.Machine

open Sys2Proof.Safety

/-- With nothing of the A-stream incomplete or unacknowledged its release holds at any scope (R266). -/
theorem State.released_quiet {s : State} (hsel : s.core.sel = .a) (hflight : s.core.a.flight = []) (hpending : s.core.pending = []) (scope : Nat) :
    s.released scope = true := by
  simp [State.released, Stream.loadsDone, State.storesDone, State.cur_of_a hsel, hsel, Core.str, hflight, hpending]

theorem Undisturbed.logMode {s t : State} (h : Undisturbed s t) (w : Who) : t.logMode w = s.logMode w := by
  rw [State.logMode, State.logMode, h.cmdAt]

/-- The words of the own scratchpad that a synchronising access uses, all clear or all set. -/
theorem Undisturbed.bitsAre {s t : State} (h : Undisturbed s t) (w n : Nat) (b : Bool) :
    t.bitsAre t.core.pid w n b = true ↔ ∀ i, i < n → s.core.isFull (w + i) = b := by
  have hfull : ∀ x, t.core.isFull x = s.core.isFull x := fun x => by rw [Core.isFull, Core.isFull, h.core.full]
  simp only [State.bitsAre_own, hfull]

/-- What a synchronising store that waits leaves its stream with. -/
structure Holds (s before : State) : Prop where
  notes : OnlyNotes s before
  flight : before.core.a.flight = []
  pending : before.core.pending = []

section
variable {s x before : State} {i : Instr} {qs : Vector (List QEntry) 8} {addr : Word} {bs : List Byte} {off : Nat}

namespace StoreFrom

/-- The store acts in one step with its bits where they are clear, and else waits (R195). -/
theorem sync (hx : StoreFrom s i x qs) (h : ReadyA s) (hnone : s.core.pending = []) (hlog : s.logMode s.who = 0) (hb : Holds s before)
    (hw : OwnWords addr off bs.length) :
    ((∀ k, k < bs.length / 8 → s.core.isFull (off / 8 + k) = false) →
      x.countAccess.syncStore before addr bs = .done { x.countAccess with
        core := { x.countAccess.core with spad := Memory.write x.core.spad off bs }.setFulls (off / 8) (bs.length / 8) true })
    ∧ ((∃ k, k < bs.length / 8 ∧ s.core.isFull (off / 8 + k) = true) → x.countAccess.syncStore before addr bs = .hold before .fullEmpty) := by
  have hsel : x.core.sel = .a := hx.undisturbed.sel.trans h.1
  have hcount := State.countAccess_core hsel
  have hnotes : OnlyNotes x x.countAccess := .countAccess hsel
  have hdist : Undisturbed s x.countAccess := hx.undisturbed.trans hnotes.undisturbed
  have hbsel : before.core.sel = .a := hb.notes.undisturbed.sel.trans h.1
  have hblocked : ∀ here, x.countAccess.orderBlocked x.countAccess.core .a x.countAccess.core.nextId x.countAccess.cur.mode .both here = false :=
    State.orderBlocked_of_first _ (by rw [hcount, Core.str]; dsimp only; rw [hx.flight]; simp) (by rw [hcount]; dsimp only; rw [hx.pending, hnone]; simp)
      _ _
  have hlocate : x.countAccess.locate x.countAccess.who .store addr bs.length = .ok [.spad x.countAccess.core.pid off bs.length] := hw.locate _ _
  have hlets : ∀ cs, x.countAccess.logLets .fullEmpty before.nowServed addr cs = true := fun cs =>
    State.logLets_off (by rw [hdist.logMode, State.nowServed, Core.served0]; dsimp only; rw [hb.notes.undisturbed.who, hlog]) _ _ _
  have hsync : x.countAccess.syncStore before addr bs
      = if !x.countAccess.bitsAre x.countAccess.core.pid (off / 8) (bs.length / 8) false then .hold before .fullEmpty
        else .done ((((x.countAccess.touch x.countAccess.who.ctx false [.spad x.countAccess.core.pid off bs.length]).pokeAll
          [.spad x.countAccess.core.pid off bs.length] bs).setBits x.countAccess.core.pid (off / 8) (bs.length / 8) true).logServed .fullEmpty
          before.nowServed addr [.spad x.countAccess.core.pid off bs.length]) := by
    have hcsel : x.countAccess.core.sel = .a := hdist.sel.trans h.1
    simp only [State.syncStore, hlocate, State.released_quiet hbsel hb.flight hb.pending, hcsel, hblocked, peerChunk, OwnWords.spadWords_eq, hlets]
    simp
  refine ⟨fun hclear => ?_, fun ⟨k, hk, hfull⟩ => ?_⟩
  · have hbits : x.countAccess.bitsAre x.countAccess.core.pid (off / 8) (bs.length / 8) false = true := (hdist.bitsAre ..).mpr hclear
    have hclean : x.countAccess.dev.poison = [] := by
      obtain ⟨-, -, -, -, -, -, hclean⟩ := h
      exact (congrArg Device.poison hdist.dev).trans hclean
    have hspad : x.countAccess.core.spad = x.core.spad := by rw [hcount]
    have hbeforeLog : s.logMode before.nowServed.who = 0 := by
      rw [State.nowServed, Core.served0]
      dsimp only
      rw [hb.notes.undisturbed.who, hlog]
    have hwrite : (x.countAccess.touch x.countAccess.who.ctx false [.spad x.countAccess.core.pid off bs.length]).pokeAll
          [.spad x.countAccess.core.pid off bs.length] bs
        = { x.countAccess with core := { x.countAccess.core with spad := Memory.write x.core.spad off bs } } := by
      rw [← hspad]
      exact State.pokeAll_own hclean off bs
    have hpid : x.countAccess.core.pid = ({ x.countAccess with
        core := { x.countAccess.core with spad := Memory.write x.core.spad off bs } } : State).core.pid := rfl
    rw [hsync, hbits, hwrite, Bool.not_true, if_neg Bool.false_ne_true, hpid, State.setBits_own]
    rw [State.logServed_off]
    exact (hdist.logMode _).trans hbeforeLog
  · have hbits : x.countAccess.bitsAre x.countAccess.core.pid (off / 8) (bs.length / 8) false = false := by
      rw [Bool.eq_false_iff]
      intro hall
      exact absurd hfull (by rw [(hdist.bitsAre ..).mp hall k hk]; decide)
    rw [hsync, hbits]
    rfl

end StoreFrom

end

end Sys2Proof.Machine
end

section
/-! The synchronising stores sts and stsq (spec/10_memory_instructions.md R195, R196). -/

namespace Sys2Proof.Machine

open Sys2Proof.Safety

section
variable {s s0 : State} (h : ReadyA s)
include h

/-- sts does what the store of its words answers (R195). -/
theorem exec_sts {a b : BitVec 5} {o : BitVec 9} {addr : Word} {off : Nat} (haddr : addr = w64 ((s.g a).toInt + o.toInt * 8))
    (hw : OwnWords addr off 8) :
    Answers (.sts a b o) s ((s.issued (.sts a b o)).countAccess.syncStore s addr (natBytes (s.g b).toNat 8)) := by
  have hoff : offsetBy (s.g a) o.toInt 8 = addr := by rw [haddr, offsetBy_eq]; rfl
  refine issue_answers h (execSts.eq_def a b o s) rfl rfl (readyA_admits h) rfl rfl ?_
  simp only [State.issued_g, hoff, hw.checkSync]

section
variable {q : BitVec 3} {a o : BitVec 5} {addr : Word} {off : Nat} {e : QEntry} {rest : List QEntry} {x : State}

/-- stsq with an entry whose data is there does what the store of its words answers. -/
theorem exec_stsq (hq : 4 ≤ q.toNat) (haddr : addr = w64 ((s.g a).toInt + o.toInt * 64)) (hw : OwnWords addr off 64)
    (hpop : (s.issued (.stsq q a o)).popQ q.toNat = some (x, e)) (hfilled : e.filled = true) (htaken : s.core.a.taken = none) :
    Answers (.stsq q a o) s (x.countAccess.syncStore (s.keepTaken q.toNat e) addr (natBytes e.bits.toNat 64)) := by
  have hwf : (Instr.stsq q a o).wellFormed = true := by simp [Instr.wellFormed, Instr.illFormed, WF.firstOf, Nat.not_lt.mpr hq]
  have hoff : offsetBy (s.g a) o.toInt 64 = addr := by rw [haddr, offsetBy_eq]; rfl
  have htake : (s.issued (.stsq q a o)).takeSync q.toNat = some (x, e) := by rw [State.takeSync, issued_a_taken h, htaken, ← hpop]
  have hclean : s.dev.poison = [] := by
    obtain ⟨-, -, -, -, -, -, hclean⟩ := h
    exact hclean
  refine issue_answers h (execStsq.eq_def q a o s) rfl hwf (readyA_admits h) rfl rfl ?_
  simp [queueNo, htake, hoff, hw.checkSync, hclean, hfilled]

/-- What a stsq has popped stands in its stream while it waits (R92). -/
theorem keepTaken_eq (htaken : s.core.a.taken = none) (hqueue : s.core.getQueue q.toNat = e :: rest) :
    (s.keepTaken q.toNat e).core.getQueue q.toNat = rest ∧ (s.keepTaken q.toNat e).core.a.taken = some (q.toNat, e)
      ∧ (s.keepTaken q.toNat e).core.a.flight = s.core.a.flight ∧ (s.keepTaken q.toNat e).core.pending = s.core.pending := by
  have hget : (s.core.setQueue q.toNat rest).getQueue q.toNat = rest := s.core.getQueue_setQueue q.isLt rest
  have hkeep : s.keepTaken q.toNat e = { s with core := { (s.core.setQueue q.toNat rest).saw s.core.sel [e] with
      a := { ((s.core.setQueue q.toNat rest).saw s.core.sel [e]).a with taken := some (q.toNat, e) } } } := by
    simp [State.keepTaken, htaken, State.popQ, hqueue]
  rw [hkeep]
  refine ⟨?_, rfl, ?_, ?_⟩
  · exact (congrArg (fun qs : Vector (List QEntry) 8 => (qs[q.toNat]?).getD []) (Core.updStr_queues ..)).trans hget
  · rw [h.1]
    rfl
  · exact Core.updStr_pending ..

end

/-- With nothing incomplete or unacknowledged, neither is anything once the entry of a stsq is popped. -/
theorem holds_self (hpending : s.core.pending = []) : Holds s s := by
  obtain ⟨hsel, -, -, -, hflight, -⟩ := id h
  rw [State.cur_of_a hsel] at hflight
  exact ⟨.refl s, hflight, hpending⟩

/-- sts, and stsq with an entry whose data is there, do what the store of their words answers. -/
theorem exec_syncStore {i : Instr} {addr : Word} {bs : List Byte} {off : Nat} (haddr : addr = .ofNat 64 (0xFFF0000000000000 + off))
    (hroom : off + bs.length ≤ 0x60000) (haligned : off % bs.length = 0) (hpending : s.core.pending = [])
    (hi : (∃ a b o, i = .sts a b o ∧ addr = w64 ((s.g a).toInt + o.toInt * 8) ∧ bs = natBytes (s.g b).toNat 8)
         ∨ (∃ q a o e rest, i = .stsq q a o ∧ 4 ≤ q.toNat ∧ addr = w64 ((s.g a).toInt + o.toInt * 64)
           ∧ s.core.getQueue q.toNat = e :: rest ∧ e.filled = true ∧ s.core.a.taken = none ∧ bs = natBytes e.bits.toNat 64)) :
    OwnWords addr off bs.length ∧ ∃ x qs before, StoreFrom s i x qs ∧ Holds s before ∧ Answers i s (x.countAccess.syncStore before addr bs)
      ∧ (∀ a b o, i = .sts a b o → before = s)
      ∧ ∀ q a o e rest, i = .stsq q a o → s.core.getQueue q.toNat = e :: rest →
          before = s.keepTaken q.toNat e ∧ s.core.a.taken = none := by
  obtain ⟨a, b, o, rfl, hbase, rfl⟩ | ⟨q, a, o, e, rest, rfl, hq, hbase, hqueue, hfilled, htaken, rfl⟩ := hi
  · rw [natBytes_length] at hroom haligned ⊢
    have hw : OwnWords addr off 8 := ⟨haddr, hroom, haligned, .inl rfl⟩
    exact ⟨hw, _, _, s, issued_storeFrom h _, holds_self h hpending, exec_sts h hbase hw, fun _ _ _ _ => rfl,
      fun _ _ _ _ _ hi' _ => Instr.noConfusion hi'⟩
  · rw [natBytes_length] at hroom haligned ⊢
    have hw : OwnWords addr off 64 := ⟨haddr, hroom, haligned, .inr rfl⟩
    obtain ⟨x, hpop, hx⟩ := popQ_storeFrom h (.stsq q a o) hqueue
    obtain ⟨-, -, hflight, hsame⟩ := keepTaken_eq h htaken hqueue
    refine ⟨hw, x, _, s.keepTaken q.toNat e, hx, ⟨.keepTaken h.1 .., hflight.trans (holds_self h hpending).flight, hsame.trans hpending⟩,
      exec_stsq h hq hbase hw hpop hfilled htaken, fun _ _ _ hi' => Instr.noConfusion hi',
      fun q' a' o' e' rest' hi' hqueue' => ?_⟩
    cases hi'
    rw [hqueue] at hqueue'
    cases hqueue'
    exact ⟨rfl, htaken⟩

end

/-- What only notes are left of, and words of the own scratchpad with their bits, frame the issue alike. -/
theorem OnlyNotes.frame_words {s t : State} {i : Instr} (h : ReadyA s) (ht : OnlyNotes (s.issued i) t) (m : Memory) (w n : Nat) (b : Bool) :
    let u : State := { t with core := { t.core with spad := m }.setFulls w n b }
    Spec.Past s u i ∧ Spec.KeepsRegisters s u ∧ Spec.KeepsElsewhere s u := by
  obtain ⟨hpast, hregs, helse, -⟩ := ht.frame h
  rw [Core.setFulls_eq]
  exact ⟨hpast, hregs, helse⟩

end Sys2Proof.Machine
end

section
/-! The synchronising loads lds and ldsq (spec/10_memory_instructions.md R195, R196). -/

namespace Sys2Proof.Machine

open Sys2Proof.Safety

/-! ### The issue -/

section
variable {s : State} (h : ReadyA s)
include h

theorem lds_begins {d a : BitVec 5} {o : BitVec 9} (la : BitVec 4) {addr : Word} {off : Nat} (haddr : addr = w64 ((s.g a).toInt + o.toInt * 8))
    (hw : OwnWords addr off 8) :
    ∃ t op, exec (.lds d a o la) s = .next t ∧ Begun s (.lds d a o la) t op (.lds d.toNat addr) ∧ op.seen = s.cur.seen
      ∧ t.core.pending = s.core.pending := by
  have hoff : offsetBy (s.g a) o.toInt 8 = addr := by rw [haddr, offsetBy_eq]; rfl
  obtain ⟨op, hbegun, -, hold, hpending, -⟩ := launch_access h (.lds d a o la) s.cur.pc la.toNat (gRegs d) (.lds d.toNat addr) false
  refine ⟨_, op, (execLds.eq_def d a o la s).trans (issue_completes h.2 rfl (readyA_admits h) rfl rfl ?_), hbegun, hold, hpending⟩
  simp only [memForm, State.issued_g, hoff, hw.checkSync]

theorem ldsq_begins {q : BitVec 3} {a o : BitVec 5} (tag la : BitVec 4) {addr : Word} {off : Nat} (haddr : addr = w64 ((s.g a).toInt + o.toInt * 64))
    (hq : q.toNat ≤ 3) (hopen : s.q3Closed q = false) (hroom : (s.core.getQueue q.toNat).length < 16) (hw : OwnWords addr off 64) :
    ∃ t op, exec (.ldsq q a o tag la) s = .next t ∧ Begun s (.ldsq q a o tag la) t op (.ldsq s.core.nextId q.toNat (s.loadFmt tag) addr)
      ∧ op.seen = s.cur.seen ∧ t.core.pending = s.core.pending ∧ (∀ p, p ≠ q.toNat → t.core.getQueue p = s.core.getQueue p)
      ∧ t.core.getQueue q.toNat = s.core.getQueue q.toNat ++ [⟨s.core.nextId, false, 0, s.loadFmt tag⟩] := by
  have hwf : (Instr.ldsq q a o tag la).wellFormed = true := by simp [Instr.wellFormed, Instr.illFormed, WF.firstOf, Nat.not_lt.mpr hq]
  have hoff : offsetBy (s.g a) o.toInt 64 = addr := by rw [haddr, offsetBy_eq]; rfl
  obtain ⟨op, hbegun⟩ := launch_reserving h (.ldsq q a o tag la) (q := q.toNat) q.isLt (s.loadFmt tag) s.cur.pc la.toNat
    (.ldsq s.core.nextId q.toNat (s.loadFmt tag) addr) false
  refine ⟨_, op, (execLdsq.eq_def q a o tag la s).trans (issue_completes h.2 hwf (readyA_admits h) hopen rfl ?_), hbegun⟩
  simp only [memForm, queueNo, State.hasRoom_eq, State.issued_getQueue, hroom, decide_true, Bool.not_true, Bool.false_eq_true, if_false, State.issued_g,
    hoff, hw.checkSync, State.issued_loadFmt, State.issued_core_nextId]

end

/-! ### The move -/

/-- What a synchronising load leaves that has taken its words: nothing incomplete in its stream, and a fence behind it (R271). -/
structure WordsTaken (t : State) (k : Core) (u : State) : Prop where
  core : ∃ f n, u.core = { k with a := { k.a with fence := f }, nextId := n }
  pool : u.pool = t.pool
  host : u.host = t.host

section
variable {s t : State} {i : Instr} {op : LongOp} {work : Work}

namespace Begun

/-- A synchronising load may try for its words as soon as it is issued. -/
theorem mayTry (ht : Begun s i t op work) (h : ReadyA s) (hstops : work.stopsBetween = false) : t.core.mayTry op = true := by
  have hact := ready_canAct h.2
  simp only [State.canAct, Bool.and_eq_true] at hact
  obtain ⟨⟨⟨-, hstopped⟩, -⟩, -⟩ := hact
  have hgoing : t.core.a.stopped = none := by
    rw [ht.notes.a_stopped, issued_a_eq h]
    rw [State.cur_of_a h.1] at hstopped
    exact Option.isNone_iff_eq_none.mp hstopped
  have hhandler : op.mode = .user → t.core.handler = none := by
    intro hmode
    rw [ht.notes.core_handler, s.issued_core_handler]
    exact ready_handler h.2 (ht.mode.symm.trans hmode)
  cases hmode : op.mode with
  | sup => simp [Core.mayTry, ht.status, ht.thawed h hstops, hmode]
  | user => simp [Core.mayTry, ht.status, ht.thawed h hstops, hgoing, hhandler hmode]

/-- With the bits of its words set it takes them, and clears the bits (R195, R271). -/
theorem syncLoad (ht : Begun s i t op work) (h : ReadyA s) (hnone : t.core.pending = []) (hold : op.seen = s.cur.seen) (hseen : Spec.Seen s)
    (hlog : s.logMode s.who = 0) {addr : Word} {off n : Nat} (hw : OwnWords addr off n) (hfull : ∀ k, k < n / 8 → s.core.isFull (off / 8 + k) = true)
    (use : Core → List Byte → Core) :
    ∃ u, t.syncLoad .a op addr n use = .on u
      ∧ WordsTaken t ((use (t.core.setFulls (off / 8) (n / 8) false) (Memory.read s.core.spad off n)).dropOp .a op.id) u := by
  have hdist := ht.undisturbed
  have hlocate : t.locate (t.core.opWho op) .load addr n = .ok [.spad t.core.pid off n] := by
    rw [ht.opWho, ← hdist.who]
    exact hw.locate t .load
  have hblocked : ∀ here, t.orderBlocked t.core .a op.id op.mode .both here = false :=
    State.orderBlocked_of_first t (by simp [Core.str, ht.flight]) (by simp [hnone]) op.mode .both
  have hclear : ∀ here, t.unseen t.core .a op here = false := by
    refine State.unseen_of_done t ?_
    rw [ht.notes.c_flight, issued_c_flight h, hold]
    exact hseen
  have hunlogged : t.logMode (t.core.opWho op) = 0 := by rw [ht.opWho, hdist.logMode, hlog]
  have hlets : t.logLets .fullEmpty (t.core.served0 (t.core.opWho op) .a op.ordinal) addr [.spad t.core.pid off n] = true :=
    State.logLets_off hunlogged ..
  have hbits : t.bitsAre t.core.pid (off / 8) (n / 8) true = true := (hdist.bitsAre ..).mpr hfull
  have hread : t.peekAll [.spad t.core.pid off n] = Memory.read s.core.spad off n := by
    simp [State.peekAll, State.peek, State.coreAt_self, hdist.core.spad]
  have hserved : (t.setBits t.core.pid (off / 8) (n / 8) false).logServed .fullEmpty (t.core.served0 (t.core.opWho op) .a op.ordinal) addr
      [.spad t.core.pid off n] = { t with core := t.core.setFulls (off / 8) (n / 8) false } := by
    rw [State.setBits_own]
    exact State.logServed_off hunlogged ..
  refine ⟨({ t with core := t.core.setFulls (off / 8) (n / 8) false }.updThis
    (fun k => (use k (Memory.read s.core.spad off n)).dropOp .a op.id)).acquireOn .a 5, ?_, ⟨_, _, rfl⟩, rfl, rfl⟩
  simp only [State.syncLoad, hlocate, hblocked, hclear, peerChunk, OwnWords.spadWords_eq, hbits, hlets, State.poisoned_clean (ht.clean h), hserved, hread,
    Bool.or_self, Bool.not_true, Bool.false_eq_true, if_false]

/-- It goes on when its words are there, though no other event would move it. -/
theorem opMove_sync (ht : Begun s i t op work) (h : ReadyA s) (hwork : (∃ d a, work = .lds d a) ∨ ∃ e q f a, work = .ldsq e q f a) :
    t.opMove .a op = t.plainMove .a op := by
  have hpoison : t.popPoisoned op = false := by simp [State.popPoisoned, ht.clean h]
  have hstops : work.stopsBetween = false := by
    obtain ⟨d, a, rfl⟩ | ⟨e, q, f, a, rfl⟩ := hwork
    all_goals rfl
  have hmay := ht.mayTry h hstops
  obtain ⟨d, a, rfl⟩ | ⟨e, q, f, a, rfl⟩ := hwork
  all_goals simp [State.opMove, ht.work_eq, hmay, hpoison, Work.isMatrix]

/-- FULL_EMPTY_WAKE lets it go on (R195). -/
theorem wakes (ht : Begun s i t op work) (h : ReadyA s) (hwork : (∃ d a, work = .lds d a) ∨ ∃ e q f a, work = .ldsq e q f a) {u : State}
    (hmove : t.plainMove .a op = .on u) (hpid : u.core.pid = t.core.pid) : exec (.fullEmptyWake s.core.pid (some 0)) t = .next u := by
  have hat : t.opAt .a 0 = some op := by simp [State.opAt, Core.str, ht.flight]
  have hfind : (t.core.str .a).flight.find? (fun o => o.id == op.id) = some op := by simp [Core.str, ht.flight]
  have hlist : t.takeList .a op = (t, op) := by
    refine State.takeList_plain t _ op ?_ ?_
    all_goals
      obtain ⟨d, a, rfl⟩ | ⟨e, q, f, a, rfl⟩ := hwork
      all_goals simp [ht.work_eq]
  have hgoes : t.goOn .a op.id 1 = u := by simp only [State.goOn, hfind, hlist, ht.opMove_sync h hwork, hmove]
  rw [← ht.undisturbed.core.pid]
  change execFullEmptyWake t.core.pid (some 0) t = _
  have hsel : execFullEmptyWake t.core.pid (some 0) t = .next ((t.goOn .a op.id 1).select t.core.pid) := by
    obtain ⟨d, a, rfl⟩ | ⟨e, q, f, a, rfl⟩ := hwork
    all_goals simp [execFullEmptyWake, State.onCore, State.select_self, hat, ht.work_eq]
  rw [hsel, hgoes, ← hpid, State.select_self]

end Begun

end

end Sys2Proof.Machine
end

section
/-! The synchronising accesses from their issue to their end (spec/10_memory_instructions.md R195, R196). -/

namespace Sys2Proof.Machine

open Sys2Proof.Safety

/-- Bits set or cleared touch no entry. -/
theorem Core.getQueue_setFulls (k : Core) (w n : Nat) (b : Bool) (q : Nat) : (k.setFulls w n b).getQueue q = k.getQueue q := by rw [Core.setFulls_eq]; rfl

theorem Core.hasEntry_of_mem {k : Core} {q : Nat} {e : QEntry} (h : e ∈ k.getQueue q) : k.hasEntry e.id = true := by
  rw [Core.getQueue] at h
  cases hq : k.queues[q]? with
  | none =>
    rw [hq] at h
    cases h
  | some es =>
    rw [hq] at h
    have hany : k.queues.toList.any (fun es => es.any (fun y => y.id == e.id)) = true :=
      List.any_eq_true.mpr ⟨es, Vector.mem_toList_iff.mpr (Vector.mem_of_getElem? hq), List.any_eq_true.mpr ⟨e, h, beq_self_eq_true e.id⟩⟩
    simp [Core.hasEntry, hany]

/-- An entry that is filled, and an instruction that has ended, leave the core's own memory and its bits as they are. -/
theorem Core.fillEntry_dropOp_rest (k : Core) (id : Nat) (bits : BitVec 512) (x : StreamId) (n : Nat) :
    ((k.fillEntry id bits).dropOp x n).pid = k.pid ∧ ((k.fillEntry id bits).dropOp x n).sel = k.sel
      ∧ ((k.fillEntry id bits).dropOp x n).spad = k.spad ∧ ((k.fillEntry id bits).dropOp x n).full = k.full := by
  cases x
  all_goals exact ⟨rfl, rfl, rfl, rfl⟩

/-- Nor do bits that are set or cleared change whose memory it is. -/
theorem Core.setFulls_rest (k : Core) (w n : Nat) (b : Bool) :
    (k.setFulls w n b).pid = k.pid ∧ (k.setFulls w n b).sel = k.sel ∧ (k.setFulls w n b).spad = k.spad ∧ (k.setFulls w n b).a = k.a := by
  rw [Core.setFulls_eq]
  exact ⟨rfl, rfl, rfl, rfl⟩

section
variable {s t : State} {i : Instr} {op : LongOp} {addr : Word} {off : Nat}

namespace Begun

/-- lds with its word full writes its register, and leaves the word empty (R195). -/
theorem completes_lds {d : BitVec 5} (ht : Begun s i t op (.lds d.toNat addr)) (h : ReadyA s) (hnone : t.core.pending = [])
    (hold : op.seen = s.cur.seen) (hseen : Spec.Seen s) (hlog : s.logMode s.who = 0) (hw : OwnWords addr off 8)
    (hfull : s.core.isFull (off / 8) = true) :
    ∃ u, exec (.fullEmptyWake s.core.pid (some 0)) t = .next u ∧ u.cur.flight = []
      ∧ u.cur.g = (t.cur.setG d.toNat (.ofNat 64 (bytesNat (Memory.read s.core.spad off 8)))).g
      ∧ u.core.isFull (off / 8) = false ∧ u.core.spad = s.core.spad ∧ u.pool = s.pool ∧ u.host = s.host := by
  have hdist := ht.undisturbed
  have hsel : t.core.sel = .a := hdist.sel.trans h.1
  obtain ⟨u, hmove, ⟨f, n, hcore⟩, hpool, hhost⟩ := ht.syncLoad h hnone hold hseen hlog hw
    (by
      intro k hk
      obtain rfl : k = 0 := by omega
      exact hfull)
    (fun k bs => k.updStr .a (fun st => st.setG d.toNat (.ofNat 64 (bytesNat bs))))
  have hflight : (t.core.setFulls (off / 8) (8 / 8) false).a.flight = [op] := by rw [Core.setFulls_eq]; exact ht.flight
  have htook : ∀ v, ((t.core.setFulls (off / 8) (8 / 8) false).updStr .a (fun st => st.setG d.toNat v)).dropOp .a op.id
      = { t.core.setFulls (off / 8) (8 / 8) false with a := { (t.core.setFulls (off / 8) (8 / 8) false).a.setG d.toNat v with flight := [] } } := by
    intro v
    simp [Core.dropOp, Core.updStr, Core.setStr, Core.str, hflight]
  rw [htook] at hcore
  have hbit := Core.isFull_setFulls t.core (off / 8) (8 / 8) false (off / 8)
  rw [if_pos (by omega)] at hbit
  have hsame := Core.setFulls_eq t.core (off / 8) (8 / 8) false
  have hwake := ht.wakes h (.inl ⟨_, _, rfl⟩) (by rw [State.plainMove, ht.work_eq]; exact hmove) (by rw [hcore, hsame])
  have husel : u.core.sel = .a := by rw [hcore, hsame]; exact hsel
  refine ⟨u, hwake, ?_, ?_, ?_, ?_, hpool.trans hdist.pool, hhost.trans hdist.host⟩
  · rw [State.cur_of_a husel, hcore]
  · rw [State.cur_of_a husel, State.cur_of_a hsel, hcore, hsame]
  · rw [hcore]
    exact hbit
  · rw [hcore, hsame]
    exact hdist.core.spad

/-- ldsq with its words full fills its entry, and leaves the words empty. -/
theorem completes_ldsq {q id : Nat} {fmt : BitVec 16} (ht : Begun s i t op (.ldsq id q fmt addr)) (h : ReadyA s) (hnone : t.core.pending = [])
    (hold : op.seen = s.cur.seen) (hseen : Spec.Seen s) (hlog : s.logMode s.who = 0) (hw : OwnWords addr off 64)
    (hfull : ∀ k, k < 8 → s.core.isFull (off / 8 + k) = true) {e : QEntry} (hid : e.id = id) (hother : ∀ p, p ≠ q → t.core.getQueue p = s.core.getQueue p)
    (hqueue : t.core.getQueue q = s.core.getQueue q ++ [e]) (hids : ∀ p, ∀ y ∈ s.core.getQueue p, y.id < e.id) (hbe : isBe (tagOf e.fmt) = false) :
    ∃ u, exec (.fullEmptyWake s.core.pid (some 0)) t = .next u ∧ u.cur.flight = [] ∧ u.core.spad = s.core.spad
      ∧ u.core.getQueue q = s.core.getQueue q ++ [{ e with filled := true, bits := .ofNat 512 (bytesNat (Memory.read s.core.spad off 64)) }]
      ∧ ∀ k, k < 8 → u.core.isFull (off / 8 + k) = false := by
  subst hid
  have hdist := ht.undisturbed
  have hsel : t.core.sel = .a := hdist.sel.trans h.1
  obtain ⟨u, hmove, ⟨f, n, hcore⟩, hpool, hhost⟩ := ht.syncLoad h hnone hold hseen hlog hw hfull (fun k bs => k.fillLoad e.id (bytesNat bs))
  have hthere : e ∈ t.core.getQueue q := by rw [hqueue]; simp
  have hunique := reserved_unique hother hqueue hids
  have hqueues := Core.getQueue_setFulls t.core (off / 8) (64 / 8) false
  have hfmt : (t.core.setFulls (off / 8) (64 / 8) false).entryFmt e.id = e.fmt :=
    Core.entryFmt_of_unique (q := q) (by rw [hqueues]; exact hthere) (fun p y hy => by rw [hqueues] at hy; exact hunique p y hy)
  rw [Core.fillLoad_plain (by rw [hfmt, hbe])] at hcore
  obtain ⟨hkpid, hksel, hkspad, hka⟩ := Core.setFulls_rest t.core (off / 8) (64 / 8) false
  obtain ⟨hdone, -, -⟩ := Core.fillEntry_dropOp (k := t.core.setFulls (off / 8) (64 / 8) false) (op := op) (by rw [hka]; exact ht.flight) e.id
    (.ofNat 512 (bytesNat (Memory.read s.core.spad off 64)))
  have hfilled := filled_reserved (k := s.core) (k1 := t.core.setFulls (off / 8) (64 / 8) false) ((hqueues q).trans hqueue) hids .a op
    (.ofNat 512 (bytesNat (Memory.read s.core.spad off 64)))
  obtain ⟨hpid, husel, hspad, hkept⟩ := Core.fillEntry_dropOp_rest (t.core.setFulls (off / 8) (64 / 8) false) e.id
    (.ofNat 512 (bytesNat (Memory.read s.core.spad off 64))) .a op.id
  have hbit := Core.isFull_setFulls t.core (off / 8) (64 / 8) false
  generalize ((t.core.setFulls (off / 8) (64 / 8) false).fillEntry e.id (.ofNat 512 (bytesNat (Memory.read s.core.spad off 64)))).dropOp .a op.id = k1
    at hcore hdone hfilled hpid husel hspad hkept
  have hwake := ht.wakes h (.inr ⟨_, _, _, _, rfl⟩)
    (by rw [State.plainMove, ht.work_eq]; dsimp only; rw [if_pos (Core.hasEntry_of_mem hthere)]; exact hmove)
    (by rw [hcore]; exact hpid.trans hkpid)
  refine ⟨u, hwake, ?_, ?_, ?_, fun k hk => ?_⟩
  · rw [State.cur_of_a (by rw [hcore]; exact husel.trans (hksel.trans hsel)), hcore]
    exact hdone
  · rw [hcore]
    exact hspad.trans (hkspad.trans hdist.core.spad)
  · rw [hcore]
    exact hfilled
  · have hclear := hbit (off / 8 + k)
    rw [if_pos (by omega)] at hclear
    have hsame : u.core.full = (t.core.setFulls (off / 8) (64 / 8) false).full := by
      rw [hcore]
      exact hkept
    rw [← hclear, Core.isFull, hsame, Core.isFull]

end Begun

end

end Sys2Proof.Machine
end

section
/-! The targets of an atomic, and what is left of a core once it has been written (spec/10_memory_instructions.md R188, R198). -/

namespace Sys2Proof.Machine

/-! ### An atomic reaches memory alone (R188) -/

/-- A part of an access that is no part of a register or accumulator window. -/
def Chunk.Plain (c : Chunk) : Prop := ∀ pid off len, c ≠ .win pid off len

theorem State.locatePage_plain {s : State} {w : Who} {acc : Acc} {va n : Nat} {cs : List Chunk} (h : s.locatePage w acc va n = .ok cs) :
    ∀ c ∈ cs, c.Plain := by
  unfold State.locatePage at h
  split at h
  · cases h
  · cases h
  · dsimp only at h
    split at h
    · cases h
    · split at h
      · cases h
      · split at h
        · cases h
        · cases h
          simp [Chunk.Plain]

theorem State.locatePages_plain {s : State} {w : Who} {acc : Acc} {k va n : Nat} {cs : List Chunk} (h : s.locatePages w acc k va n = .ok cs) :
    ∀ c ∈ cs, c.Plain := by
  induction k generalizing va n cs with
  | zero => exact State.locatePage_plain h
  | succ k ih =>
    rw [State.locatePages] at h
    split at h
    · exact State.locatePage_plain h
    · obtain ⟨xs, ys, hx, hy, rfl⟩ := Locate.both_ok h
      intro c hc
      obtain hc | hc := List.mem_append.mp hc
      · exact State.locatePage_plain hx c hc
      · exact ih hy c hc

/-- Of the on-chip maps a synchronising or atomic access reaches the scratchpad alone. -/
theorem onChip_of_scratch {pid off : Nat} (h : off ≤ 0x05FFFF) (n : Nat) : onChip pid off n = .spad pid off n := if_pos h

theorem State.locate_plain {s : State} {w : Who} {acc : Acc} {addr : Word} {n : Nat} {cs : List Chunk} (h : s.locate w acc addr n = .ok cs)
    (hscratch : (aperture addr).kind = 2 ∨ (aperture addr).kind = 6 → scratchTarget addr = true) : ∀ c ∈ cs, c.Plain := by
  have hoff : (aperture addr).kind = 2 ∨ (aperture addr).kind = 6 → (aperture addr).core.2 ≤ 0x05FFFF := by
    intro hkind
    have hs := hscratch hkind
    obtain hk | hk := hkind
    all_goals simpa [scratchTarget, hk] using hs
  unfold State.locate at h
  dsimp only at h
  generalize (aperture addr).kind = kind at h hoff
  by_cases hvirtual : kind = 1
  · subst hvirtual
    exact State.locatePages_plain h
  · repeat' split at h
    any_goals contradiction
    all_goals cases h
    all_goals simp [Chunk.Plain, onChip_of_scratch, hoff]

/-! ### What a write of memory leaves of a core -/

/-- A part of an access, as a write of it leaves the scratchpad of core `pid`. -/
def Chunk.inSpad (pid : Nat) (bs : List Byte) (m : Memory) : Chunk → Memory
  | .spad p off _ => if p = pid then Memory.write m off bs else m
  | _ => m

/-- The scratchpad of core `pid` after a write of an access. -/
def spadAfter (pid : Nat) : List Chunk → List Byte → Memory → Memory
  | [], _, m => m
  | c :: cs, bs, m => spadAfter pid cs (bs.drop c.span.len) (c.inSpad pid (bs.take c.span.len) m)

theorem State.updCore_core (s : State) (pid : Nat) {f : Core → Core} (hf : ∀ k : Core, (f k).pid = k.pid) :
    (s.updCore pid f).core = if pid = s.core.pid then f s.core else s.core := by
  have hpid : (f (s.coreAt pid)).pid = pid := (hf _).trans (s.coreAt_pid pid)
  rw [State.updCore, State.setCore, hpid]
  by_cases h : pid = s.core.pid
  · subst h
    rw [if_pos rfl, if_pos rfl, State.coreAt_self]
  · rw [if_neg (Ne.symm h), if_neg h]

theorem State.poke_core_plain (s : State) {c : Chunk} (hc : c.Plain) (bs : List Byte) :
    (s.poke c bs).core = { s.core with spad := c.inSpad s.core.pid bs s.core.spad } := by
  obtain ⟨d, hpoke⟩ := s.poke_eq_put c bs
  rw [hpoke]
  cases c with
  | phys hm pa len ord cache page level => cases hm <;> rfl
  | spad pid off len =>
    refine (s.updCore_core (f := fun k => { k with spad := Memory.write k.spad off bs }) pid fun _ => rfl).trans ?_
    by_cases h : pid = s.core.pid
    · simp [Chunk.inSpad, h]
    · simp [Chunk.inSpad, h]
  | win pid off len => exact absurd rfl (hc pid off len)
  | peer dev off len => rfl

theorem State.pokeAll_core_plain (s : State) {cs : List Chunk} (hcs : ∀ c ∈ cs, c.Plain) (bs : List Byte) :
    (s.pokeAll cs bs).core = { s.core with spad := spadAfter s.core.pid cs bs s.core.spad } := by
  induction cs generalizing s bs with
  | nil => rfl
  | cons c cs ih =>
    obtain ⟨hc, hrest⟩ := List.forall_mem_cons.mp hcs
    rw [State.pokeAll_cons, ih _ hrest, s.poke_core_plain hc]
    rfl

/-! ### What an atomic writes -/

/-- The value that an atomic leaves at its address, written there (R198). -/
def State.putAtomic (s : State) (cs : List Chunk) (n : Nat) : Option Nat → State
  | some r => s.pokeAll cs (natBytes r n)
  | none => s

theorem atomicResult_eq (op : AtomicOp) (n m v c : Nat) : atomicResult op n m v c = Spec.atomicValue op n m v c := by
  cases op with
  | smax =>
    rw [atomicResult, Spec.atomicValue]
    by_cases hlt : patInt m (8 * n) < patInt v (8 * n)
    · simp [hlt, Int.not_le.mpr hlt]
    · simp [hlt, Int.not_lt.mp hlt]
  | _ => rfl

section
variable {s t : State} {cs : List Chunk} {n : Nat}

/-- Of its core it changes the scratchpad at most. -/
theorem State.putAtomic_core (s : State) (hcs : ∀ c ∈ cs, c.Plain) (n : Nat) (r : Option Nat) :
    (s.putAtomic cs n r).core = { s.core with spad := (s.putAtomic cs n r).core.spad } := by
  cases r with
  | none => rfl
  | some r =>
    change (s.pokeAll cs (natBytes r n)).core = { s.core with spad := (s.pokeAll cs (natBytes r n)).core.spad }
    rw [s.pokeAll_core_plain hcs]

/-- What it writes does not depend on anything but the memories. -/
theorem State.putAtomic_memory (hcs : ∀ c ∈ cs, c.Plain) (hpid : t.core.pid = s.core.pid) (hspad : t.core.spad = s.core.spad) (hpool : t.pool = s.pool)
    (hhost : t.host = s.host) (r : Option Nat) :
    (t.putAtomic cs n r).pool = (s.putAtomic cs n r).pool ∧ (t.putAtomic cs n r).host = (s.putAtomic cs n r).host
      ∧ (t.putAtomic cs n r).core.spad = (s.putAtomic cs n r).core.spad := by
  cases r with
  | none => exact ⟨hpool, hhost, hspad⟩
  | some r =>
    obtain ⟨hp, hh⟩ := State.pokeAll_memory hpool hhost cs (natBytes r n)
    refine ⟨hp, hh, ?_⟩
    change (t.pokeAll cs (natBytes r n)).core.spad = (s.pokeAll cs (natBytes r n)).core.spad
    rw [t.pokeAll_core_plain hcs, s.pokeAll_core_plain hcs, hpid, hspad]

theorem State.putAtomic_contexts (s : State) (cs : List Chunk) (n : Nat) (r : Option Nat) : (s.putAtomic cs n r).contexts = s.contexts := by
  cases r with
  | none => rfl
  | some r => exact State.pokeAll_contexts ..

end

end Sys2Proof.Machine
end

section
/-! A device's one waiting atomic as its executor takes it (spec/10_memory_instructions.md R198, R199, spec/14_ordering.md R269, R270). -/

namespace Sys2Proof.Machine

open Sys2Proof.Safety

/-! ### Executors (R199) -/

/-- The operands of an atomic have no part in where it is executed. -/
theorem executor_operands (pid sc : Nat) (op : AtomicOp) (n : Nat) (v c : Word) (cs : List Chunk) :
    executor pid sc (.atomic op n v c) cs = executor pid sc (.atomic op n 0 0) cs := by
  unfold executor
  split
  · cases op <;> rfl
  · rfl
  · rfl

theorem State.executorNow_atomic (s : State) (pid sc : Nat) (op : AtomicOp) (n : Nat) (v c : Word) (cs : List Chunk) :
    s.executorNow pid sc (.atomic op n v c) cs = executor pid sc (.atomic op n v c) cs := by
  unfold State.executorNow
  cases executor pid sc (.atomic op n v c) cs <;> rfl

/-- An engine that has performed an atomic on a line holds it (R199). -/
theorem Cluster.mem_hold (k : Cluster) {pid sc c : Nat} {op : AtomicOp} {n : Nat} {cs : List Chunk}
    (hexec : executor pid sc (.atomic op n 0 0) cs = .engine c) (hplace : (placeOf cs).1 ≤ 1) : placeOf cs ∈ (k.hold cs).hot := by
  cases cs with
  | nil => cases hexec
  | cons d ds =>
    cases d with
    | phys hm pa len ord cache page level => simp [Cluster.hold, Config.hotLines]
    | spad pid off len => exact absurd hplace (by simp only [placeOf]; omega)
    | win pid off len => cases hexec
    | peer dev off len => cases hexec

theorem Cluster.hold_id (k : Cluster) (cs : List Chunk) : (k.hold cs).id = k.id := by
  unfold Cluster.hold
  split <;> rfl

/-- With no poison at its address an atomic does what its operation says (R198). -/
theorem State.doAtomic_ok {s : State} {w : Who} {op : AtomicOp} {n : Nat} {addr v c : Word} {cs : List Chunk} (hlocate : s.locate w .atomic addr n = .ok cs)
    (hclean : s.dev.poison = []) :
    s.doAtomic w op n addr v c = .ok ((s.touch w.ctx true cs).putAtomic cs n
      (Spec.atomicValue op n (bytesNat (s.peekAll cs)) (v.toNat % 2 ^ (8 * n)) (c.toNat % 2 ^ (8 * n)))) (w64 (patInt (bytesNat (s.peekAll cs)) (8 * n))) := by
  simp only [State.doAtomic, hlocate, State.poisoned_clean hclean, atomicResult_eq]
  cases Spec.atomicValue op n (bytesNat (s.peekAll cs)) (v.toNat % 2 ^ (8 * n)) (c.toNat % 2 ^ (8 * n)) <;> rfl

theorem OnlyDevice.putAtomic {s t : State} (h : OnlyDevice s t) (cs : List Chunk) (n : Nat) (r : Option Nat) :
    OnlyDevice (s.putAtomic cs n r) (t.putAtomic cs n r) := by
  cases r with
  | none => exact h
  | some r => exact h.pokeAll cs _

/-- What an engine notes about a request that it has performed (R199, R269). -/
def State.noted (s : State) (e : Executor) (cs : List Chunk) (pid : Nat) : State :=
  match e with
  | .engine c => (s.servedAt e (placeOf cs) pid).updCluster c (fun x => x.hold cs)
  | _ => s

theorem State.noted_rest (s : State) (e : Executor) (cs : List Chunk) (pid : Nat) :
    (s.noted e cs pid).core = s.core ∧ (s.noted e cs pid).pool = s.pool ∧ (s.noted e cs pid).host = s.host := by
  cases e
  all_goals exact ⟨rfl, rfl, rfl⟩

theorem State.clusterAt_noted (s : State) (c : Nat) (cs : List Chunk) (pid : Nat) :
    (s.noted (.engine c) cs pid).clusterAt c = ((s.servedAt (.engine c) (placeOf cs) pid).clusterAt c).hold cs :=
  State.clusterAt_updCluster _ c (fun x => x.hold cs) fun x => x.hold_id cs

/-- A request that has been performed leaves its stream going. -/
theorem Core.askDone_rest (k : Core) (a : Ask) (old : Word) (loc : Nat) :
    (k.askDone a old loc).a.exited = k.a.exited ∧ (k.askDone a old loc).pid = k.pid := by
  have hset : ∀ d, (k.a.setG d old).exited = k.a.exited := fun d => by rw [Stream.setG_eq]
  unfold Core.askDone
  split
  · exact ⟨rfl, rfl⟩
  · split
    · split
      · exact ⟨hset _, rfl⟩
      · exact ⟨rfl, rfl⟩
    · exact ⟨rfl, rfl⟩

/-! ### The one request of a device -/

/-- `a` is all that the one core of the device has waiting: ready, unpromoted and behind nothing, with no line held and no log kept. -/
structure Sole (s : State) (a : Ask) : Prop where
  asks : s.core.asks = [a]
  pid : a.pid = s.core.pid
  cores : s.cores = []
  asking : s.core.a.asking = none
  ready : a.ready = true
  unblocked : s.askBlocked a = false
  unlogged : s.logMode a.who = 0
  unheld : Spec.NoLineHeld s
  clean : s.dev.poison = []
  goes : s.core.a.exited = false

section
variable {s : State} {a : Ask}

namespace Sole

theorem ask (h : Sole s a) : s.ask s.core.pid a.ref = some a := by simp [State.ask, State.coreAt_self, h.asks]

/-- No other request is before it (R269). -/
theorem turn (h : Sole s a) (cs : List Chunk) : s.turnOf a cs = true := by
  have hheld : s.askHeld a cs = false := by
    unfold State.askHeld
    split
    · rw [State.logLets_off h.unlogged]
      rfl
    · rfl
  have hall : s.allCores = [s.core] := by rw [State.allCores, h.cores]
  have honly : ∀ e place, ∀ b ∈ s.atExecutor e place, b = a := by
    intro e place b hb
    have hmem := List.mem_of_mem_filter hb
    rw [hall, List.flatMap_singleton, h.asks] at hmem
    exact List.mem_singleton.mp hmem
  have hbar : ∀ e place last self, s.barRanks e place last self = [] := by
    intro e place last self
    simp [State.barRanks, hall, h.asking]
  have hturn : ∀ e, s.turnFor e (placeOf cs) a.pid a.born a.promoted = true := by
    intro e
    cases e with
    | engine c =>
      simp only [State.turnFor, hbar, List.all_nil, Bool.and_true]
      refine List.all_eq_true.mpr fun b hb => ?_
      rw [honly _ _ b hb]
      exact decide_eq_true (le_refl _)
    | home n =>
      refine List.all_eq_true.mpr fun b hb => ?_
      rw [honly _ _ b hb]
      simp [Ask.rank]
    | direct => rfl
  simp [State.turnOf, hheld, hturn]

section
variable {op : AtomicOp} {n m : Nat} {v c : Word} {cs : List Chunk}

/-- Its executor takes it. -/
theorem serves (h : Sole s a) (hkind : a.kind = .atomic op n v c) (hlocate : s.locate a.who .atomic a.addr n = .ok cs) {here : Executor → Bool}
    (hhere : here (executor a.pid a.sc (.atomic op n 0 0) cs) = true) : s.serve a here = s.perform a cs := by
  have hat : s.askAt a = .ok cs := by
    rw [State.askAt, Ask.acc, hkind]
    exact hlocate
  have hnow : here (s.executorNow a.pid a.sc a.kind cs) = true := by rw [hkind, State.executorNow_atomic, executor_operands, hhere]
  exact State.serve_ready h.ready h.unblocked hat hnow (h.turn cs) h.unheld (by simp [h.asks, h.ready])

/-- It is performed in one step: the value at its address is read, and the result written there (R198). -/
theorem performs (h : Sole s a) (hkind : a.kind = .atomic op n v c) (hlocate : s.locate a.who .atomic a.addr n = .ok cs)
    (hm : m = bytesNat (s.peekAll cs)) {r : Option Nat} (hr : r = Spec.atomicValue op n m (v.toNat % 2 ^ (8 * n)) (c.toNat % 2 ^ (8 * n))) :
    ∃ p : State, OnlyDevice (s.putAtomic cs n r) p ∧ (s.perform a cs).core = p.core.askDone a (w64 (patInt m (8 * n))) (s.askScope a)
      ∧ (s.perform a cs).pool = p.pool ∧ (s.perform a cs).host = p.host
      ∧ ∀ c, executor a.pid a.sc (.atomic op n 0 0) cs = .engine c → (placeOf cs).1 ≤ 1 → placeOf cs ∈ ((s.perform a cs).clusterAt c).hot := by
  subst hm hr
  have htouch := s.touch_onlyDevice a.who.ctx true cs
  have hdev := htouch.putAtomic cs n
    (Spec.atomicValue op n (bytesNat (s.peekAll cs)) (v.toNat % 2 ^ (8 * n)) (c.toNat % 2 ^ (8 * n)))
  have hperform : ∀ p : State, s.doAtomic a.who op n a.addr v c = .ok p (w64 (patInt (bytesNat (s.peekAll cs)) (8 * n))) → p.logMode a.who = 0 →
      s.perform a cs = (p.noted (executor a.pid a.sc (.atomic op n 0 0) cs) cs a.pid).updThis
        (fun k => k.askDone a (w64 (patInt (bytesNat (s.peekAll cs)) (8 * n))) (s.askScope a)) := by
    intro p hdone hlog
    have hserved : ∀ k, p.logServed k (s.core.served0 a.who a.st a.ordinal) a.addr cs = p := fun k => State.logServed_off hlog k a.addr cs
    unfold State.perform State.askScope
    rw [hkind]
    dsimp only
    rw [hdone, State.executorNow_atomic, executor_operands]
    cases executor a.pid a.sc (.atomic op n 0 0) cs
    all_goals simp only [Executor.log, hserved]
    all_goals rfl
  have heq := hperform _ (State.doAtomic_ok hlocate h.clean) (by
    rw [State.logMode, State.cmdAt_congr ((State.putAtomic_contexts ..).trans htouch.contexts)]
    exact h.unlogged)
  generalize (s.touch a.who.ctx true cs).putAtomic cs n
    (Spec.atomicValue op n (bytesNat (s.peekAll cs)) (v.toNat % 2 ^ (8 * n)) (c.toNat % 2 ^ (8 * n))) = p at hdev heq
  obtain ⟨hcore, hpool, hhost⟩ := p.noted_rest (executor a.pid a.sc (.atomic op n 0 0) cs) cs a.pid
  rw [heq]
  refine ⟨p, hdev, congrArg (fun k : Core => k.askDone a _ _) hcore, hpool, hhost, fun c hexec hplace => ?_⟩
  change placeOf cs ∈ ((p.noted (executor a.pid a.sc (.atomic op n 0 0) cs) cs a.pid).clusterAt c).hot
  rw [hexec, State.clusterAt_noted]
  exact Cluster.mem_hold _ hexec hplace

/-- The event of its executor ends it: beside the memories and what the request leaves, its core stays as it is. -/
theorem ends (h : Sole s a) (hkind : a.kind = .atomic op n v c) (hlocate : s.locate a.who .atomic a.addr n = .ok cs) (hplain : ∀ x ∈ cs, x.Plain)
    (hm : m = bytesNat (s.peekAll cs)) {r : Option Nat} (hr : r = Spec.atomicValue op n m (v.toNat % 2 ^ (8 * n)) (c.toNat % 2 ^ (8 * n))) {e : Instr}
    (he : (e = .homeSliceServe s.core.pid a.ref ∧ ∀ c, executor a.pid a.sc (.atomic op n 0 0) cs ≠ .engine c)
       ∨ (e = .clusterAtomicServe s.core.pid a.ref ∧ ∃ c, executor a.pid a.sc (.atomic op n 0 0) cs = .engine c)) :
    ∃ u, exec e s = .next u ∧ u.pool = (s.putAtomic cs n r).pool ∧ u.host = (s.putAtomic cs n r).host
      ∧ u.core = { s.core with spad := (s.putAtomic cs n r).core.spad }.askDone a (w64 (patInt m (8 * n))) (s.askScope a)
      ∧ ∀ c, executor a.pid a.sc (.atomic op n 0 0) cs = .engine c → (placeOf cs).1 ≤ 1 → placeOf cs ∈ (u.clusterAt c).hot := by
  obtain ⟨p, hdev, hcore, hpool, hhost, hhot⟩ := h.performs hkind hlocate hm hr
  rw [hdev.core, s.putAtomic_core hplain] at hcore
  obtain ⟨hexited, hpid⟩ := Core.askDone_rest { s.core with spad := (s.putAtomic cs n r).core.spad } a (w64 (patInt m (8 * n))) (s.askScope a)
  have hself : ∀ here : Executor → Bool, here (executor a.pid a.sc (.atomic op n 0 0) cs) = true →
      s.onAsk s.core.pid a.ref (fun b s1 => s1.serve b here) = s.perform a cs := by
    intro here hhere
    have hserve := h.serves hkind hlocate hhere
    refine (State.onAsk_self (f := fun b s1 => s1.serve b here) h.ask ?_ ?_).trans hserve
    · rw [hserve, hcore, hexited, h.goes]
      simp
    · rw [hserve, hcore, hpid]
  refine ⟨s.perform a cs, ?_, hpool.trans hdev.pool, hhost.trans hdev.host, hcore, hhot⟩
  obtain ⟨rfl, hhome⟩ | ⟨rfl, k, hengine⟩ := he
  · refine congrArg Host.Outcome.next (hself _ ?_)
    cases hx : executor a.pid a.sc (.atomic op n 0 0) cs with
    | engine k => exact absurd hx (hhome k)
    | home k => rfl
    | direct => rfl
  · refine congrArg Host.Outcome.next (hself _ ?_)
    rw [hengine]

end

end Sole

end

end Sys2Proof.Machine
end

section
/-! Atomics as they issue (spec/10_memory_instructions.md R198). -/

namespace Sys2Proof.Machine

open Sys2Proof.Safety

theorem Undisturbed.checkAtomic {s t : State} (h : Undisturbed s t) (addr : Word) (n : Nat) : t.checkAtomic addr n = s.checkAtomic addr n := by
  simp only [State.checkAtomic, h.who, h.apertureOk, h.checkAddr]

/-- An atomic reaches memory alone (R188). -/
theorem State.plain_of_checkAtomic {s : State} {w : Who} {addr : Word} {n : Nat} {cs : List Chunk} (hcheck : s.checkAtomic addr n = none)
    (hlocate : s.locate w .atomic addr n = .ok cs) : ∀ c ∈ cs, c.Plain := by
  refine State.locate_plain hlocate fun hkind => ?_
  by_contra hout
  rw [Bool.not_eq_true] at hout
  have hbool : ((aperture addr).kind == 2 || (aperture addr).kind == 6) = true := by simpa using hkind
  simp [State.checkAtomic, hbool, hout] at hcheck

/-- The instruction that finds what it needs by itself goes on. -/
theorem Core.moves_of_selfMoves {k : Core} {op : LongOp} (hself : k.selfMoves op = true) (hmatrix : op.work.isMatrix = false) : k.moves op = true := by
  have hfed : k.fed op = true := by
    rw [Core.fed]
    cases k.a.flight.length + k.c.flight.length with
    | zero => exact hself
    | succ n => simp [Core.fedBy, hself]
  simp [Core.moves, hfed, hmatrix]

/-- The accessor of a request is that of the instruction that made it. -/
theorem State.request_who (s : State) {k : Core} (hpid : k.pid = s.core.pid) (htask : k.task = s.core.task) (addr : Word) (kind : ReqKind) (sc : Nat) :
    (s.request addr kind sc).who k = s.who := by
  rw [Request.who, htask, hpid]
  unfold State.request State.who State.isUpdate State.isStall
  cases hk : s.core.task with
  | none => cases hm : s.cur.mode <;> rfl
  | some t => cases hm : s.cur.mode <;> cases hkind : t.kind <;> simp [hkind]

/-- An atomic without return joins the unacknowledged accesses (R198, R267). -/
theorem StoreFrom.laterAtomic {s x : State} {i : Instr} {qs : Vector (List QEntry) 8} (hx : StoreFrom s i x qs) {addr v c : Word} {op : AtomicOp} {n sc : Nat}
    (hroom : s.core.pending.length < 65535) :
    x.issueStore addr (.atomic op n v c) sc
      = .done { x.countAccess with core := { x.countAccess.core with
          pending := s.core.pending ++ [x.request addr (.atomic op n v c) sc], nextId := x.core.nextId + 1 } } := by
  have hfree : x.storeRoom 1 = true := by rw [State.storeRoom_one hx.flight, hx.pending]; simpa using hroom
  have hpending : x.countAccess.core.pending = s.core.pending := by
    rw [← hx.pending]
    exact Core.updStr_pending ..
  simp only [State.issueStore, hfree, if_true]
  exact congrArg (fun ps => Res.done { x.countAccess with core := { x.countAccess.core with
    pending := ps ++ [x.request addr (.atomic op n v c) sc], nextId := x.core.nextId + 1 } }) hpending

section
variable {s : State} (h : ReadyA s)
include h

theorem issued_a_asking (i : Instr) : (s.issued i).core.a.asking = none := by
  rw [issued_a_eq h]
  rfl

section
variable {i : Instr} {op : AtomicOp} {d a b : BitVec 5} {w rt : BitVec 1} {sc : BitVec 3} {n : Nat}
  (hi : Spec.atomicParts i = some (op, d, a, b, w, rt, sc)) (hwf : i.wellFormed = true) (hn : n = if w = 1 then 8 else 4)
  (hcheck : s.checkAtomic (s.g a) n = none)
include hi hwf hn hcheck

/-- Each of the atomics issues where its address passes its checks. -/
theorem exec_atomic : Answers i s (if rt = 1 then
      .done ((s.issued i).countAccess.launchOp i s.cur.pc 0 (gRegs d) (.atomic d.toNat op n sc.toNat (s.g a) (s.g b) (s.g d)))
    else (s.issued i).issueStore (s.g a) (.atomic op n (s.g b) (s.g d)) sc.toNat) := by
  have hexec : exec i s = atomicOp i op d a b w rt sc s := by
    cases i
    all_goals cases hi
    all_goals rfl
  subst hn
  refine issue_answers h (hexec.trans (atomicOp.eq_def i op d a b w rt sc s)) rfl hwf (readyA_admits h) rfl rfl ?_
  simp only [State.issued_g, (s.issued_undisturbed i).checkAtomic, hcheck]

/-- One with return has begun, as an incomplete instruction of its stream. -/
theorem atomic_returns (hrt : rt = 1) :
    ∃ t lop, exec i s = .next t ∧ Begun s i t lop (.atomic d.toNat op n sc.toNat (s.g a) (s.g b) (s.g d)) ∧ t.core.pending = s.core.pending
      ∧ t.core.queues = s.core.queues := by
  obtain ⟨hdone, -, -⟩ := exec_atomic h hi hwf hn hcheck
  obtain ⟨lop, hbegun, -, -, hleft⟩ := launch_access h i s.cur.pc 0 (gRegs d) (.atomic d.toNat op n sc.toNat (s.g a) (s.g b) (s.g d)) false
  exact ⟨_, lop, hdone _ (if_pos hrt), hbegun, hleft⟩

/-- One without return is done, and stands among the accesses that are not acknowledged. -/
theorem atomic_retires (hrt : rt = 0) (hnone : s.core.pending = []) :
    ∃ t r, exec i s = .next t ∧ OnlyNotes (s.issued i) t ∧ t.core.a.flight = [] ∧ t.core.pending = [r] ∧ t.core.queues = s.core.queues
      ∧ (r.served = false ∧ r.parked = false) ∧ r.stream = .a ∧ r.who t.core = s.who ∧ r.kind = .atomic op n (s.g b) (s.g d) ∧ r.addr = s.g a
      ∧ r.sc = sc.toNat := by
  obtain ⟨hdone, -, -⟩ := exec_atomic h hi hwf hn hcheck
  have hsel := issued_sel_a h i
  have hcount := State.countAccess_core hsel
  have hdist := s.issued_undisturbed i
  have hlater := (issued_storeFrom h i).laterAtomic (addr := s.g a) (op := op) (n := n) (v := s.g b) (c := s.g d) (sc := sc.toNat)
    (by rw [hnone]; decide)
  rw [hnone, List.nil_append] at hlater
  refine ⟨_, _, hdone _ ((if_neg (by rw [hrt]; decide)).trans hlater), (OnlyNotes.countAccess hsel).trans (.pending _ _ _), ?_, rfl, ?_, ⟨rfl, rfl⟩,
    hsel, ?_, rfl, rfl, rfl⟩
  · rw [hcount]
    exact issued_a_flight h i
  · rw [hcount]
    exact s.issued_core_queues i
  · rw [hcount]
    exact (State.request_who _ rfl rfl ..).trans hdist.who

end

end

/-! ### What its executor finds -/

section
variable {s t : State} {i : Instr} (h : ReadyA s) (hlog : s.logMode s.who = 0) (hcores : s.cores = []) (hheld : Spec.NoLineHeld s)
include h hlog hcores hheld

/-- An atomic with return waits as the one incomplete instruction of its stream. -/
theorem Begun.sole {lop : LongOp} {d n sc : Nat} {op : AtomicOp} {addr v c : Word} (ht : Begun s i t lop (.atomic d op n sc addr v c))
    (hnone : t.core.pending = []) :
    ∃ a, Sole t a ∧ a.ref = .op 0 ∧ a.kind = .atomic op n v c ∧ a.who = s.who ∧ a.addr = addr ∧ a.sc = sc := by
  have hdist := ht.undisturbed
  have hself : t.core.selfMoves lop = true := by simp [Core.selfMoves, ht.work_eq, ht.status, ht.thawed h rfl, Work.popped]
  have hmoves : t.core.moves lop = true := Core.moves_of_selfMoves hself (by rw [ht.work_eq]; rfl)
  obtain ⟨a, hask, hid, hpid, hst, hready, href, hkind, hwho, haddr, hsc⟩ : ∃ a, t.core.askOfOp lop 0 = some a ∧ a.id = lop.id ∧ a.pid = t.core.pid
      ∧ a.st = .a ∧ a.ready = true ∧ a.ref = .op 0 ∧ a.kind = .atomic op n v c ∧ a.who = s.who ∧ a.addr = addr ∧ a.sc = sc := by
    rw [Core.askOfOp, ht.work_eq, ht.opWho, hmoves]
    exact ⟨_, rfl, rfl, rfl, rfl, rfl, rfl, rfl, rfl, rfl, rfl⟩
  refine ⟨a, ⟨?_, hpid, hdist.cores.trans hcores, ?_, hready, ?_, ?_, ?_, ht.clean h, ht.not_exited h⟩, href, hkind, hwho, haddr, hsc⟩
  · simp [Core.asks, hnone, ht.flight, hask]
  · rw [ht.notes.a_asking, issued_a_asking h]
  · rw [State.askBlocked, hpid, State.coreAt_self]
    exact State.orderBlocked_of_first t (by simp [hst, hid, Core.str, ht.flight]) (by simp [hnone]) _ _ _
  · rw [hwho, hdist.logMode, hlog]
  · rw [Spec.NoLineHeld, hdist.clusters]
    exact hheld

/-- One without return waits as the one access of its core that is not acknowledged. -/
theorem OnlyNotes.sole {r : Request} (ht : OnlyNotes (s.issued i) t) (hflight : t.core.a.flight = []) (hpending : t.core.pending = [r])
    (hready : r.served = false ∧ r.parked = false) (hstream : r.stream = .a) (hwho : r.who t.core = s.who) : Sole t (t.core.askOf r 0) := by
  have hdist := (s.issued_undisturbed i).trans ht.undisturbed
  obtain ⟨hserved, hparked⟩ := hready
  refine ⟨?_, rfl, hdist.cores.trans hcores, ?_, ?_, ?_, ?_, ?_, ?_, ?_⟩
  · simp [Core.asks, hpending, hflight]
  · rw [ht.a_asking, issued_a_asking h]
  · simp [Core.askOf, hserved, hparked]
  · rw [State.askBlocked, Core.askOf, State.coreAt_self]
    exact State.orderBlocked_of_first t (by rw [hstream, Core.str, hflight]; simp) (by simp [hpending]) _ _ _
  · rw [Core.askOf, hwho, hdist.logMode, hlog]
  · rw [Spec.NoLineHeld, hdist.clusters]
    exact hheld
  · obtain ⟨-, -, -, -, -, -, hclean⟩ := h
    exact (congrArg Device.poison hdist.dev).trans hclean
  · rw [ht.a_exited, ← State.cur_of_a (issued_sel_a h i)]
    exact (Continues.issued h.2 i).exited

end

/-! ### What it leaves -/

theorem Core.askDone_op {k : Core} {a : Ask} {lop : LongOp} {d n sc : Nat} {op : AtomicOp} {addr v c : Word} (href : a.ref = .op 0)
    (hflight : k.a.flight = [lop]) (hwork : lop.work = .atomic d op n sc addr v c) (old : Word) (loc : Nat) :
    k.askDone a old loc = { k with a := { k.a.setG d old with flight := [] } } := by
  simp [Core.askDone, href, hflight, hwork, Core.dropOp, Core.updStr, Core.setStr, Core.str]

theorem Core.askDone_pending {k : Core} {a : Ask} {i : Nat} (href : a.ref = .pending i) (old : Word) (loc : Nat) :
    k.askDone a old loc = { k with pending := modifyAt (fun r => { r with served := true, loc := loc }) i k.pending } := by
  rw [Core.askDone, href]

end Sys2Proof.Machine
end

section
/-! O30: synchronising accesses and atomics, from their issue to their end. -/

namespace Sys2Proof.Machine

open Sys2Proof.Safety

/-- Its executor ends the atomic that an instruction left waiting: what the machine held at its issue stands in the memories, but for the result. -/
theorem Sole.ends_issued {s t : State} {a : Ask} {op : AtomicOp} {n m sc : Nat} {addr v c : Word} {cs : List Chunk} {r : Option Nat} {e : Instr} {ref : ReqRef}
    (h : Sole t a) (hdist : Undisturbed s t)
    (ha : a.ref = ref ∧ a.kind = .atomic op n v c ∧ a.who = s.who ∧ a.addr = addr ∧ a.sc = sc) (hcheck : s.checkAtomic addr n = none)
    (hlocate : s.locate s.who .atomic addr n = .ok cs) (hm : m = bytesNat (s.peekAll cs))
    (hr : r = Spec.atomicValue op n m (v.toNat % 2 ^ (8 * n)) (c.toNat % 2 ^ (8 * n)))
    (he : (e = .homeSliceServe s.core.pid ref ∧ ∀ c, executor s.core.pid sc (.atomic op n 0 0) cs ≠ .engine c)
       ∨ (e = .clusterAtomicServe s.core.pid ref ∧ ∃ c, executor s.core.pid sc (.atomic op n 0 0) cs = .engine c)) :
    ∃ u loc, exec e t = .next u ∧ u.pool = (s.putAtomic cs n r).pool ∧ u.host = (s.putAtomic cs n r).host
      ∧ u.core = { t.core with spad := (s.putAtomic cs n r).core.spad }.askDone a (w64 (patInt m (8 * n))) loc
      ∧ ∀ c, executor s.core.pid sc (.atomic op n 0 0) cs = .engine c → (placeOf cs).1 ≤ 1 → placeOf cs ∈ (u.clusterAt c).hot := by
  obtain ⟨rfl, hkind, hwho, rfl, rfl⟩ := ha
  have hplain := State.plain_of_checkAtomic hcheck hlocate
  have hpid : a.pid = s.core.pid := h.pid.trans hdist.core.pid
  obtain ⟨u, hu, hpool, hhost, hcore, hhot⟩ := h.ends hkind (by rw [hwho, hdist.locate, hlocate]) hplain (by rw [hdist.peekAll, hm]) hr
    (by rw [hdist.core.pid, hpid]; exact he)
  obtain ⟨hp, hh, hs⟩ := State.putAtomic_memory (n := n) hplain hdist.core.pid hdist.core.spad hdist.pool hdist.host r
  rw [hs] at hcore
  rw [hpid] at hhot
  exact ⟨u, _, hu, hpool.trans hp, hhost.trans hh, hcore, hhot⟩

end Sys2Proof.Machine

namespace Sys2Proof.Proofs

open Sys2Proof.Machine Sys2Proof.Safety

/-- Settles O30: a synchronising access takes or leaves its words with their bits in one step; an atomic is performed in one step by its executor. -/
theorem atomicAccessesComplete : Obligations.AtomicAccessesComplete := by
  unfold Obligations.AtomicAccessesComplete
  refine ⟨fun s addr off h hnone hlog haddr => ⟨fun i bs hroom haligned hi => ?store, fun d a o la hbase hroom haligned hfull hseen => ?lds,
    fun q a o tag la hbase hq hopen hspace hroom haligned => ?ldsq⟩,
    fun i s op d a b w rt sc n m cs h hi hwf hn hcheck hlocate hm hnone => ?atomic⟩
  case store =>
    obtain ⟨hw, x, qs, before, hx, hb, ⟨hdone, -, hhold⟩, hsts, hstsq⟩ := exec_syncStore h haddr hroom haligned hnone hi
    obtain ⟨hclear, hset⟩ := hx.sync h hnone hlog hb hw
    refine ⟨fun hbits => ?_, fun hbits => ⟨fun a b o hi => ?_, fun q a o e rest hi hqueue => ?_⟩⟩
    · have hsel : x.core.sel = .a := hx.undisturbed.sel.trans h.1
      have hdist := hx.undisturbed.trans (OnlyNotes.countAccess hsel).undisturbed
      obtain ⟨hpast, hregs, helse⟩ := (hx.notes.trans (.countAccess hsel)).frame_words h (Memory.write x.core.spad off bs) (off / 8) (bs.length / 8) true
      obtain ⟨-, -, hspad, -⟩ := Core.setFulls_rest { x.countAccess.core with spad := Memory.write x.core.spad off bs } (off / 8) (bs.length / 8) true
      have hfull := Core.isFull_setFulls { x.countAccess.core with spad := Memory.write x.core.spad off bs } (off / 8) (bs.length / 8) true
      have hold : ∀ w, Core.isFull { x.countAccess.core with spad := Memory.write x.core.spad off bs } w = s.core.isFull w := fun w => by
        rw [Core.isFull, Core.isFull]
        exact congrArg (·.contains w) hdist.core.full
      refine ⟨_, hdone _ (hclear hbits), hpast, hregs, helse, ?_, fun k hk => ?_, fun y hy => ?_, fun y hy => ?_⟩
      · exact (congrArg (fun m => Memory.read m off bs.length) hspad).trans (Memory.read_write _ off bs)
      · exact (hfull _).trans (if_pos ⟨by omega, by omega⟩)
      · refine (congrArg (fun m => Memory.get m y) hspad).trans ?_
        rw [hx.undisturbed.core.spad]
        exact Memory.get_write_of_not_mem _ off y bs hy
      · exact ((hfull y).trans (if_neg (by omega))).trans (hold y)
    · have hexec := hhold _ _ (hset hbits)
      rwa [hsts a b o hi] at hexec
    · obtain ⟨hbefore, htaken⟩ := hstsq q a o e rest hi hqueue
      obtain ⟨hrest, hkept, -⟩ := keepTaken_eq h htaken hqueue
      rw [hbefore] at hhold hset
      exact ⟨hhold _ _ (hset hbits), hrest, hkept⟩
  case lds =>
    have hw : OwnWords addr off 8 := ⟨haddr, hroom, haligned, .inl rfl⟩
    obtain ⟨t, op, hexec, hbegun, hold, hpending⟩ := lds_begins h la hbase hw
    obtain ⟨-, hregs, helse, hspad⟩ := hbegun.notes.frame h
    obtain ⟨u, hu⟩ := hbegun.completes_lds h (hpending.trans hnone) hold hseen hlog hw hfull
    exact ⟨t, u, hexec, hregs, helse, hspad, hu⟩
  case ldsq =>
    have hw : OwnWords addr off 64 := ⟨haddr, hroom, haligned, .inr rfl⟩
    obtain ⟨t, op, hexec, hbegun, hold, hpending, hother, hqueue⟩ := ldsq_begins h tag la hbase hq hopen hspace hw
    obtain ⟨hpast, hregs, helse, hspad⟩ := hbegun.notes.frame h
    refine ⟨t, ⟨s.core.nextId, false, 0, s.loadFmt tag⟩, hexec, hpast, hregs, helse, hspad, hbegun.undisturbed.core.full, hqueue, rfl, rfl, rfl, ?_,
      fun hfull hseen hids hbe => ?_⟩
    · rw [State.cur_of_a (hregs.1.trans h.1), hbegun.flight]
      exact List.cons_ne_nil op []
    · exact hbegun.completes_ldsq h (hpending.trans hnone) hold hseen hlog hw hfull rfl hother hqueue hids (by rw [tagOf_loadFmt, hbe])
  case atomic =>
    obtain hrt | hrt := BitVec.eq_zero_or_eq_one rt
    · obtain ⟨t, r, hexec, hnotes, hflight, hpending, hqueues, hready, hstream, hwho, hkind, hbase, hsc⟩ := atomic_retires h hi hwf hn hcheck hrt hnone
      obtain ⟨hpast, hregs, helse, hspad⟩ := hnotes.frame h
      refine ⟨t, hexec, hpast, hregs, helse, hspad, hqueues, fun e ref p href hlog hcores hheld he hp => ?_⟩
      have hdist := (s.issued_undisturbed i).trans hnotes.undisturbed
      obtain rfl : ref = .pending 0 := by simpa [hrt] using href
      obtain ⟨u, loc, hu, hpool, hhost, hcore, hhot⟩ := (hnotes.sole h hlog hcores hheld hflight hpending hready hstream hwho).ends_issued hdist
        ⟨rfl, hkind, hwho, hbase, hsc⟩ hcheck hlocate hm rfl he
      rw [Core.askDone_pending rfl] at hcore
      replace hp : p = s.putAtomic cs n _ := hp
      rw [hp]
      have husel : u.core.sel = .a := by rw [hcore]; exact hregs.1.trans h.1
      refine ⟨u, hu, hpool, hhost, ?_, ?_, ?_, fun hone => ?_, fun _ => ?_, hhot⟩
      · rw [hcore]
      · rw [hcore]; exact hdist.core.f
      · rw [hcore]; exact hdist.core.v
      · rw [hrt] at hone
        exact absurd hone (by decide)
      · rw [State.cur_of_a husel, hcore, State.cur_of_a h.1]
        exact hdist.core.ga
    · obtain ⟨t, lop, hexec, hbegun, hpending, hqueues⟩ := atomic_returns h hi hwf hn hcheck hrt
      obtain ⟨hpast, hregs, helse, hspad⟩ := hbegun.notes.frame h
      refine ⟨t, hexec, hpast, hregs, helse, hspad, hqueues, fun e ref p href hlog hcores hheld he hp => ?_⟩
      have hdist := hbegun.undisturbed
      have hsel : t.core.sel = .a := hregs.1.trans h.1
      obtain rfl : ref = .op 0 := by simpa [hrt] using href
      obtain ⟨a, hsole, haref, ha⟩ := hbegun.sole h hlog hcores hheld (hpending.trans hnone)
      obtain ⟨u, loc, hu, hpool, hhost, hcore, hhot⟩ := hsole.ends_issued hdist ⟨haref, ha⟩ hcheck hlocate hm rfl he
      rw [Core.askDone_op haref (by exact hbegun.flight) hbegun.work_eq] at hcore
      replace hp : p = s.putAtomic cs n _ := hp
      rw [hp]
      have husel : u.core.sel = .a := by rw [hcore]; exact hsel
      refine ⟨u, hu, hpool, hhost, ?_, ?_, ?_, fun _ => ⟨?_, ?_⟩, fun hzero => ?_, hhot⟩
      · rw [hcore]
      · rw [hcore]; exact hdist.core.f
      · rw [hcore]; exact hdist.core.v
      · rw [State.cur_of_a husel, hcore]
      · rw [State.cur_of_a husel, hcore, State.cur_of_a hsel]
      · rw [hrt] at hzero
        exact absurd hzero (by decide)

end Sys2Proof.Proofs
end

section
/-! The pieces of a copy job (spec/10_memory_instructions.md R203, R204). -/

namespace Sys2Proof.Machine

/-! ### The jobs of a unit -/

/-- What an engine notes about a request leaves the jobs of every unit. -/
theorem State.servedAt_jobs (s : State) (e : Executor) (place : Nat × Nat) (pid cl : Nat) :
    ((s.servedAt e place pid).clusterAt cl).jobs = (s.clusterAt cl).jobs := by
  cases e with
  | home n => rfl
  | direct => rfl
  | engine c =>
    by_cases h : cl = c
    · subst h
      exact (congrArg Cluster.jobs (s.clusterAt_updCluster cl (fun x => x.served place (pid % 8)) fun _ => rfl)).trans rfl
    · exact congrArg Cluster.jobs (s.clusterAt_updCluster_of_ne (fun x => x.served place (pid % 8)) (fun _ => rfl) h)

theorem State.servedAt_rest (s : State) (e : Executor) (place : Nat × Nat) (pid : Nat) :
    (s.servedAt e place pid).core = s.core ∧ (s.servedAt e place pid).cores = s.cores ∧ (s.servedAt e place pid).pool = s.pool
      ∧ (s.servedAt e place pid).host = s.host := by
  cases e
  all_goals exact ⟨rfl, rfl, rfl, rfl⟩

theorem State.updJob_jobs (s : State) (cl idx : Nat) (f : Job → Job) : ((s.updJob cl idx f).clusterAt cl).jobs = modifyAt f idx (s.clusterAt cl).jobs :=
  congrArg Cluster.jobs (s.clusterAt_updCluster cl (fun c => { c with jobs := modifyAt f idx c.jobs }) fun _ => rfl)

/-! ### Writes of an engine -/

/-- Where no word of a scratchpad is written, an engine writes as any access does (R150). -/
theorem State.enginePokeAll_eq (s : State) {cs : List Chunk} (h : ∀ c ∈ cs, ∀ p o l, c ≠ .spad p o l) (bs : List Byte) :
    s.enginePokeAll cs bs = s.pokeAll cs bs := by
  induction cs generalizing s bs with
  | nil => rfl
  | cons c cs ih =>
    obtain ⟨hc, hcs⟩ := List.forall_mem_cons.mp h
    have hone : ∀ bs, s.enginePoke c bs = s.poke c bs := by
      intro bs
      cases c with
      | spad p o l => exact absurd rfl (hc p o l)
      | _ => rfl
    rw [State.pokeAll_cons, State.enginePokeAll, hone]
    exact ih _ hcs _

/-- The current core's scratchpad then stays as it is. -/
theorem State.pokeAll_spad_off (s : State) {cs : List Chunk} (h : ∀ c ∈ cs, ∀ p o l, c ≠ .spad p o l) (bs : List Byte) :
    (s.pokeAll cs bs).core.spad = s.core.spad := by
  refine State.pokeAll_keeps (fun t => t.core.spad) (fun c hc s bs => ?_) s bs
  obtain ⟨d, hpoke⟩ := s.poke_eq_put c (bs.take c.span.len)
  rw [hpoke]
  cases c with
  | phys hm pa len ord cache page level => cases hm <;> rfl
  | spad p o l => exact absurd rfl (h _ hc p o l)
  | win pid off len =>
    refine (congrArg Core.spad (s.updCore_core pid fun k => (k.setWin_sameSpad off _).1)).trans ?_
    split
    · exact (s.core.setWin_sameSpad off _).2
    · rfl
  | peer dev off len => rfl

/-! ### One piece -/

/-- The bytes that a piece writes (R203, R204). -/
def State.pieceBytes (s : State) (j : Job) (src dst : List Chunk) : List Byte :=
  if j.req.red = 0 then s.peekAll src else natBytes (reduceElem j.req.red (bytesNat (s.peekAll dst)) (bytesNat (s.peekAll src))) 4

section
variable {s : State} {cl idx : Nat} {j : Job} {src dst : List Chunk}

/-- Where no log is kept, none holds a job's access, and none is entered. -/
theorem State.jobHeld_off (h : s.logMode j.who = 0) (red : Bool) (addr : Word) (cs : List Chunk) : s.jobHeld j red addr cs = false := by
  unfold State.jobHeld
  split
  · rw [State.logLets_off h]
    rfl
  · rfl

theorem State.jobServed_off (h : s.logMode j.who = 0) (red : Bool) (addr : Word) (cs : List Chunk) : s.jobServed j red addr cs = s := by
  unfold State.jobServed
  split
  · exact State.logServed_off h ..
  · rfl

theorem State.pieceHeld_off (h : s.logMode j.who = 0) (src dst : List Chunk) : s.pieceHeld j src dst = false := by
  simp [State.pieceHeld, State.jobHeld_off h]

/-- A piece from a source without poison writes its bytes, and counts them. -/
theorem State.movePiece_eq (hclean : s.dev.poison = []) (hlog : s.logMode j.who = 0) (hdst : ∀ c ∈ dst, ∀ p o l, c ≠ .spad p o l) (n : Nat) :
    ∃ p g, OnlyDevice (s.pokeAll dst (s.pieceBytes j src dst)) p ∧ (∀ x : Job, (g x).next = x.next + n)
      ∧ s.movePiece cl idx j src dst n = (p.servedAt (s.pieceExecutor j dst) (placeOf dst) j.pid).updJob cl idx g := by
  have htouch := (s.touch_onlyDevice j.ctx false src).trans (State.touch_onlyDevice _ j.ctx (j.req.red != 0) dst)
  have hpoke := htouch.pokeAll dst (s.pieceBytes j src dst)
  have hunlogged : ∀ p, OnlyDevice (s.pokeAll dst (s.pieceBytes j src dst)) p → p.logMode j.who = 0 := by
    intro p hp
    rw [State.logMode, State.cmdAt_congr (hp.contexts.trans (State.pokeAll_contexts ..))]
    exact hlog
  have hreads : ∀ p, OnlyDevice (s.pokeAll dst (s.pieceBytes j src dst)) p → ∀ ys : List (Word × List Chunk),
      ys.foldl (fun x y => x.jobServed j false y.1 y.2) p = p := by
    intro p hp ys
    induction ys with
    | nil => rfl
    | cons y ys ih => rw [List.foldl_cons, State.jobServed_off (hunlogged p hp), ih]
  have hdev : ∀ f, OnlyDevice (s.pokeAll dst (s.pieceBytes j src dst))
      ((((s.touch j.ctx false src).touch j.ctx (j.req.red != 0) dst).pokeAll dst (s.pieceBytes j src dst)).updDev f) := fun f => hpoke.trans rfl
  have hbytes : (if j.req.red = 0 then s.peekAll src
      else natBytes (reduceElem j.req.red (bytesNat (s.peekAll dst)) (bytesNat (s.peekAll src))) 4) = s.pieceBytes j src dst := rfl
  refine ⟨?p, ?g, ?dev, ?next, ?eq⟩
  case eq =>
    unfold State.movePiece
    dsimp only
    rw [State.poisoned_clean hclean, Option.isSome_none, if_neg Bool.false_ne_true, State.enginePokeAll_eq _ hdst, hbytes, hreads _ (hdev _),
      State.jobServed_off (hunlogged _ (hdev _))]
  case dev => exact hdev _
  case next => exact fun x => rfl

/-- COPY_JOB_COMPLETE moves the next piece whose turn has come (R203, R269). -/
theorem exec_copyJobComplete_moves (hj : (s.clusterAt cl).jobs[idx]? = some j) (hgoes : j.state.isParked = false) (hleft : j.next < j.total) {len : Nat}
    (hpiece : s.nextPiece j = .ok (src, dst, len)) (hsrc : s.srcWaits j src = false) (hturn : s.pieceTurn j dst = true) (hclean : s.dev.poison = [])
    (hheld : Spec.NoLineHeld s) (hlog : s.logMode j.who = 0) (hdst : ∀ c ∈ dst, ∀ p o l, c ≠ .spad p o l) :
    ∃ t j1, exec (.copyJobComplete cl idx 1) s = .next t ∧ (t.clusterAt cl).jobs[idx]? = some j1 ∧ j1.next = j.next + len
      ∧ t.pool = (s.pokeAll dst (s.pieceBytes j src dst)).pool ∧ t.host = (s.pokeAll dst (s.pieceBytes j src dst)).host
      ∧ t.core.spad = s.core.spad := by
  obtain ⟨p, g, hdev, hnext, hmove⟩ := State.movePiece_eq (cl := cl) (idx := idx) (src := src) hclean hlog hdst len
  have hat : s.jobAt cl idx = some j := hj
  have hon : s.jobOn cl idx 1 = s.movePiece cl idx j src dst len := by
    simp [State.jobOn, hat, hgoes, Nat.not_le.mpr hleft, hpiece, hsrc, State.pieceHeld_off hlog, hturn, State.recall_of_noLineHeld hheld]
  obtain ⟨hcore, -, hpool, hhost⟩ := p.servedAt_rest (s.pieceExecutor j dst) (placeOf dst) j.pid
  refine ⟨_, g j, congrArg Host.Outcome.next hon, ?_, hnext j, ?_, ?_, ?_⟩
  all_goals rw [hmove]
  · rw [State.updJob_jobs, State.servedAt_jobs, State.clusterAt_congr (hdev.clusters.trans (State.pokeAll_clusters ..)), modifyAt_eq_modify,
      List.getElem?_modify_eq, hj]
    rfl
  · exact hpool.trans hdev.pool
  · exact hhost.trans hdev.host
  · refine (congrArg Core.spad hcore).trans ?_
    rw [hdev.core]
    exact s.pokeAll_spad_off hdst _

/-- A piece of a reducing job is one element (R204). -/
theorem State.nextPiece_reducing {len : Nat} (hpiece : s.nextPiece j = .ok (src, dst, len)) (hred : j.req.red ≠ 0) : len = 4 := by
  have hlen : len = j.piece := by
    unfold State.nextPiece at hpiece
    dsimp only at hpiece
    split at hpiece
    · split at hpiece
      · cases hpiece
        rfl
      · cases hpiece
    · cases hpiece
  rw [hlen]
  exact if_pos hred

end

end Sys2Proof.Machine
end

section
/-! How a copy job ends (spec/10_memory_instructions.md R203, spec/08_memory.md R149, spec/15_sync_instructions.md R279). -/

namespace Sys2Proof.Machine

open Sys2Proof.Safety

/-! ### Barrier words (R278, R279) -/

theorem barGen_barWord (g p b : Nat) : barGen (barWord g p b) = g % 2 ^ 32 := by
  simp only [barGen, bitField, barWord]
  omega

theorem barPend_barWord (g p b : Nat) : barPend (barWord g p b) = p % 2 ^ 16 := by
  simp only [barPend, bitField, barWord]
  omega

theorem barBytes_barWord (g p b : Nat) : barBytes (barWord g p b) = b % 2 ^ 16 := by
  simp only [barBytes, bitField, barWord]
  omega

/-- An engine's arrival takes its units from BYTES, and ends the phase where nothing is left (R279). -/
theorem barEngine_eq (units w : Nat) : barEngine units w = Spec.engineArrive units w := by
  have hgen : barGen w = Spec.gen w := by simp [barGen, bitField, Spec.gen]
  have hpend : barPend w = Spec.pend w := rfl
  have hbytes : barBytes w = Spec.bytes w := rfl
  have hfields : Spec.gen w % 2 ^ 32 = Spec.gen w ∧ Spec.pend w % 2 ^ 16 = Spec.pend w := ⟨Nat.mod_mod .., Nat.mod_mod ..⟩
  obtain ⟨hg, hp⟩ := hfields
  have hsub : Spec.bytes w + 65536 - units % 65536 = Spec.bytes w + 2 ^ 16 - units % 2 ^ 16 := rfl
  simp only [barEngine, barCheck, barGen_barWord, barPend_barWord, barBytes_barWord, hgen, hpend, hbytes, hg, hp, hsub, Spec.engineArrive]
  by_cases hend : Spec.pend w = 0xFFFF ∧ (Spec.bytes w + 2 ^ 16 - units % 2 ^ 16) % 2 ^ 16 = 0
  · rw [if_pos hend, if_pos hend]
    simp [barWord]
  · rw [if_neg hend, if_neg hend]
    simp only [barWord, hg, hp]

/-! ### A core whose task goes on, or that holds none -/

/-- A machine seen again from the core that it was at shows that core. -/
theorem State.select_back_core (s : State) (pid : Nat) : ((s.select pid).select s.core.pid).core = s.core := by
  rw [State.select_core, State.coreAt_select, State.coreAt_self]

/-- Nothing ends on a core without a task. -/
theorem State.settleEnd_idle {s : State} (h : s.core.task = none) : s.settleEnd = s := by simp [State.settleEnd, h]

/-- What an access writes into a core's scratchpad or windows leaves its task. -/
theorem State.coreAt_pokeAll_task (s : State) (cs : List Chunk) (bs : List Byte) (p : Nat) : ((s.pokeAll cs bs).coreAt p).task = (s.coreAt p).task := by
  have hput : ∀ (u : State) (pid : Nat) (f : Core → Core), (∀ k : Core, k.OnlyContents (f k)) → ((u.updCore pid f).coreAt p).task = (u.coreAt p).task := by
    intro u pid f hf
    have hpid : ∀ k, (f k).pid = k.pid := fun k => (hf k).pid
    by_cases hp : p = pid
    · subst hp
      rw [u.coreAt_updCore p f hpid, (hf _).task]
    · rw [u.coreAt_updCore_of_ne f hpid hp]
  refine State.pokeAll_keeps (fun t => (t.coreAt p).task) (fun c _ u bs => ?_) s bs
  obtain ⟨d, hpoke⟩ := u.poke_eq_put c (bs.take c.span.len)
  rw [hpoke]
  have hdev : ∀ v : State, ({ v with dev := d } : State).coreAt p = v.coreAt p := fun v => State.coreAt_congr rfl rfl p
  rw [hdev]
  cases c with
  | phys hm pa len o k q l => cases hm <;> exact congrArg Core.task (State.coreAt_congr rfl rfl p)
  | spad pid off len => exact hput u pid _ fun k => ⟨_, _, _, _, _, _, _, rfl⟩
  | win pid off len => exact hput u pid _ fun k => k.setWin_onlyContents off _
  | peer dev off len => rfl

/-! ### A job leaves its unit -/

section
variable {s : State} {cl idx : Nat} {j : Job}

theorem State.updCluster_dropAt_jobs (s : State) (cl idx : Nat) :
    ((s.updCluster cl (fun c => { c with jobs := dropAt idx c.jobs })).clusterAt cl).jobs = dropAt idx (s.clusterAt cl).jobs :=
  congrArg Cluster.jobs (s.clusterAt_updCluster cl (fun c => { c with jobs := dropAt idx c.jobs }) fun _ => rfl)

/-- Beside the unit that a job of an idle core leaves, the machine stays as it is. -/
structure Leaves (s : State) (cl idx : Nat) (t : State) : Prop where
  core : t.core = s.core
  coreAt : ∀ p, t.coreAt p = s.coreAt p
  jobs : (t.clusterAt cl).jobs = dropAt idx (s.clusterAt cl).jobs
  contexts : t.contexts = s.contexts
  pool : t.pool = s.pool
  host : t.host = s.host

theorem State.dropJob_idle (hidle : (s.coreAt j.pid).task = none) : Leaves s cl idx ((s.dropJob cl idx j).onCore j.pid State.settleEnd) := by
  have hat : (s.updCluster cl (fun c => { c with jobs := dropAt idx c.jobs })).coreAt j.pid = s.coreAt j.pid := rfl
  have hdrop : s.dropJob cl idx j = s.updCluster cl (fun c => { c with jobs := dropAt idx c.jobs }) := by simp [State.dropJob, hat, Job.ofTask, hidle]
  have hsettle : ∀ x : State, (x.coreAt j.pid).task = none → x.onCore j.pid State.settleEnd = (x.select j.pid).select x.core.pid := by
    intro x hx
    rw [State.onCore, State.settleEnd_idle (by rw [State.select_core, hx])]
  rw [hdrop, hsettle _ ((congrArg Core.task hat).trans hidle)]
  constructor
  case core => exact State.select_back_core ..
  case coreAt =>
    intro p
    rw [State.coreAt_select, State.coreAt_select]
    rfl
  case jobs =>
    rw [State.clusterAt_congr ((State.select_clusters ..).trans (State.select_clusters ..))]
    exact s.updCluster_dropAt_jobs cl idx
  case contexts => simp
  case pool => simp
  case host => simp

theorem Core.endTiles_eq (k : Core) (j : Job) : k.endTiles j = { k with tileTab := (k.endTiles j).tileTab } := by
  unfold Core.endTiles
  split <;> split <;> rfl

/-- A job of the current core's own task releases its tiles there (R149). -/
theorem State.dropJob_own (hpid : j.pid = s.core.pid) (htask : j.ofTask s.core = true) :
    s.dropJob cl idx j = { s.updCluster cl (fun c => { c with jobs := dropAt idx c.jobs }) with core := s.core.endTiles j } := by
  have hat : (s.updCluster cl (fun c => { c with jobs := dropAt idx c.jobs })).coreAt j.pid = s.core := by
    rw [hpid]
    exact s.coreAt_self
  have hsame : s.core.pid = (s.core.endTiles j).pid := by rw [Core.endTiles_eq]
  simp only [State.dropJob, hat, htask, if_true, State.updCore, State.setCore]
  exact if_pos hsame

/-- A job that has moved everything ends, where no barrier is its target. -/
theorem exec_copyJobComplete_ends (hj : (s.clusterAt cl).jobs[idx]? = some j) (hgoes : j.state.isParked = false) (hdone : j.total ≤ j.next)
    (hkind : j.req.kind ≠ 1) : exec (.copyJobComplete cl idx 1) s = .next (s.finishJob cl idx j) := by
  have hat : s.jobAt cl idx = some j := hj
  refine congrArg Host.Outcome.next ?_
  simp only [State.jobOn, hat, hgoes, hdone, Bool.false_eq_true, if_false, if_true]
  split
  · next heq _ => exact absurd heq hkind
  · rfl

end

end Sys2Proof.Machine
end

section
/-! The completion targets of a copy job, and its refusal (spec/10_memory_instructions.md R203, R363, spec/02_describing_and_launching.md R36). -/

namespace Sys2Proof.Machine

open Sys2Proof.Safety

section
variable {s : State} {cl idx : Nat} {j : Job}

/-- Without a barrier or a dependence counter for its target a job does nothing but leave its unit. -/
theorem State.finishJob_plain (hkind : j.req.kind = 0 ∨ j.req.kind = 2) :
    s.finishJob cl idx j = (s.dropJob cl idx j).onCore j.pid State.settleEnd := by
  obtain hkind | hkind := hkind
  all_goals simp [State.finishJob, hkind]

/-! ### A dependence counter (R36) -/

/-- The dependence count of a live command goes down by one. -/
theorem State.decrement_live {ctx q : Nat} {seq : BitVec 32} {c : Command} (hcmds : (s.queueAt ctx q).cmds = [c]) (hseq : c.seq = seq)
    (hlive : ∀ st, c.phase ≠ .completed st) (hcount : 0 < c.count) :
    s.decrement ctx q seq = s.updCmd ctx q seq (fun c => { c with count := c.count - 1 }) := by
  have hfind : (s.queueAt ctx q).cmds.find? (fun c => c.seq == seq) = some c := by simp [hcmds, hseq]
  simp only [State.decrement, hfind, if_neg (Nat.ne_of_gt hcount)]

theorem State.queueAt_decrement {ctx q : Nat} {seq : BitVec 32} {c : Command} (hcmds : (s.queueAt ctx q).cmds = [c]) (hseq : c.seq = seq) :
    ((s.updCmd ctx q seq (fun c => { c with count := c.count - 1 })).queueAt ctx q).cmds = [{ c with count := c.count - 1 }] := by
  rw [State.queueAt_updCmd, Queue.mapCmds]
  simp [hcmds, hseq]

/-- A job whose target is a dependence counter takes one from it. -/
theorem State.finishJob_counter (hkind : j.req.kind = 3) : s.finishJob cl idx j
    = ((s.decrement j.ctx (j.req.done / 2 ^ 8 % 64) (.ofNat 32 (j.req.done / 2 ^ 32))).dropJob cl idx j).onCore j.pid State.settleEnd := by
  have hseq : BitVec.ofNat 32 (bitField j.req.done 32 32) = .ofNat 32 (j.req.done / 2 ^ 32) := by
    refine BitVec.eq_of_toNat_eq ?_
    simp [bitField]
  have hqueue : bitField j.req.done 8 6 = j.req.done / 2 ^ 8 % 64 := rfl
  simp only [State.finishJob, hkind, hseq, hqueue]

/-! ### A barrier word (R279) -/

/-- A job whose turn has come at its barrier arrives there as an engine does, and leaves its unit. -/
theorem exec_copyJobComplete_arrives (hj : (s.clusterAt cl).jobs[idx]? = some j) (hgoes : j.state.isParked = false) (hdone : j.total ≤ j.next)
    (hidle : (s.coreAt j.pid).task = none) (hkind : j.req.kind = 1) {cs : List Chunk} (hlocate : s.locate j.who .atomic j.req.barrier 8 = .ok cs)
    (hclean : s.dev.poison = []) (hlog : s.logMode j.who = 0)
    (hturn : s.turnFor (executor j.pid 0 (.atomic .add 8 0 0) cs) (placeOf cs) j.pid s.dev.cycle.toNat false = true) {x : State}
    (hx : x = s.pokeAll cs (natBytes (Spec.engineArrive j.req.units (bytesNat (s.peekAll cs))) 8)) :
    ∃ t, exec (.copyJobComplete cl idx 1) s = .next t ∧ (t.clusterAt cl).jobs = dropAt idx (s.clusterAt cl).jobs ∧ t.pool = x.pool ∧ t.host = x.host
      ∧ ∀ p, (t.coreAt p).spad = (x.coreAt p).spad := by
  have hat : s.jobAt cl idx = some j := hj
  obtain ⟨y, hy, hdev⟩ : ∃ y, y = (if peerChunk cs then s.tried else s).pokeAll cs (natBytes (barEngine j.req.units (bytesNat (s.peekAll cs))) 8)
      ∧ OnlyDevice x y := by
    refine ⟨_, rfl, ?_⟩
    rw [hx, barEngine_eq]
    refine OnlyDevice.pokeAll ?_ cs _
    split
    · exact rfl
    · exact .refl s
  have hcontexts : y.contexts = s.contexts := by rw [hdev.contexts, hx, State.pokeAll_contexts]
  have hclusters : y.clusters = s.clusters := by rw [hdev.clusters, hx, State.pokeAll_clusters]
  have hserved : y.logServed .engine j.served0 j.req.barrier cs = y :=
    State.logServed_off (show y.logMode j.who = 0 by rw [State.logMode, State.cmdAt_congr hcontexts]; exact hlog) ..
  have hfinish : s.finishJob cl idx j
      = (((y.servedAt (barrierEngine j.pid cs) (placeOf cs) j.pid).dropJob cl idx j)).onCore j.pid State.settleEnd := by
    simp only [State.finishJob, hkind, hlocate, State.poisoned_clean hclean, Option.isSome_none, Bool.false_eq_true, if_false, ← hy, hserved]
  have hon : s.jobOn cl idx 1 = s.finishJob cl idx j := by
    have hlets : s.logLets .engine j.served0 j.req.barrier cs = true := State.logLets_off hlog ..
    have hfirst : s.turnFor (barrierEngine j.pid cs) (placeOf cs) j.pid s.dev.cycle.toNat false = true := hturn
    simp [State.jobOn, hat, hgoes, hdone, hkind, hlocate, hlets, hfirst]
  obtain ⟨hcore, hcores, hpool, hhost⟩ := y.servedAt_rest (barrierEngine j.pid cs) (placeOf cs) j.pid
  have hcoreAt : ∀ p, (y.servedAt (barrierEngine j.pid cs) (placeOf cs) j.pid).coreAt p = x.coreAt p := fun p =>
    State.coreAt_congr (hcore.trans hdev.core) (hcores.trans hdev.cores) p
  have hleaves := State.dropJob_idle (s := y.servedAt (barrierEngine j.pid cs) (placeOf cs) j.pid) (cl := cl) (idx := idx) (j := j)
    (by rw [hcoreAt, hx, State.coreAt_pokeAll_task, hidle])
  refine ⟨_, congrArg Host.Outcome.next (hon.trans hfinish), ?_, ?_, ?_, fun p => ?_⟩
  · rw [hleaves.jobs, State.servedAt_jobs, State.clusterAt_congr hclusters]
  · rw [hleaves.pool, hpool, hdev.pool]
  · rw [hleaves.host, hhost, hdev.host]
  · rw [hleaves.coreAt, hcoreAt]

/-! ### A tile (R149) -/

/-- A job of the current core's task whose target is a tile names it no longer. -/
theorem State.finishJob_tile (hpid : j.pid = s.core.pid) (htask : j.ofTask s.core = true) (hgoes : s.core.a.exited = false) (hkind : j.req.kind = 2)
    (hsource : j.req.ste = false) :
    s.finishJob cl idx j = { s.updCluster cl (fun c => { c with jobs := dropAt idx c.jobs }) with
      core := s.core.setEntry j.req.dtid ((s.core.getEntry j.req.dtid).release true) } := by
  have htiles : s.core.endTiles j = s.core.setEntry j.req.dtid ((s.core.getEntry j.req.dtid).release true) := by
    simp [Core.endTiles, hsource, hkind]
  rw [State.finishJob_plain (.inr hkind), State.dropJob_own hpid htask, htiles, State.onCore]
  have hself : ∀ x : State, x.core.pid = s.core.pid → x.core.a.exited = false →
      (x.select j.pid).settleEnd.select x.core.pid = x := by
    intro x hx hexited
    rw [hpid, ← hx, State.select_self, State.settleEnd_of_not_exited (by simp [hexited]), State.select_self]
  exact hself _ rfl hgoes

/-! ### A refusal (R363) -/

/-- The trap of a refused access is kept for its task, where that is no double trap. -/
theorem State.refuse_denied {sup : Bool} (hmode : sup = false ∨ s.core.handler = none) (htask : s.core.task.isSome = true) (a : Word) :
    s.refuse sup 0x07 a = s.tried.updThis (fun k => { k with deferred := k.deferred ++ [⟨0x07, a⟩] }) := by
  have hsingle : (sup && s.core.handler.isSome) = false := by
    obtain hmode | hmode := hmode
    all_goals simp [hmode]
  simp [State.refuse, hsingle, htask]

theorem Job.ofTask_isSome {k : Core} (h : j.ofTask k = true) : k.task.isSome = true := by
  unfold Job.ofTask at h
  split at h
  · next heq =>
    rw [heq]
    rfl
  · cases h

/-- A job that is refused leaves its unit, and its trap is kept for its task. -/
theorem State.failJob_denied (hpid : j.pid = s.core.pid) (htask : j.ofTask s.core = true) (hgoes : s.core.a.exited = false)
    (hmode : j.mode = .user ∨ s.core.handler = none) (a : Word) :
    s.failJob cl idx j 0x07 a = ({ s.updCluster cl (fun c => { c with jobs := dropAt idx c.jobs }) with
      core := { s.core.endTiles j with sel := .a, deferred := s.core.deferred ++ [⟨0x07, a⟩] } } : State).tried := by
  have htiles := Core.endTiles_eq s.core j
  have hkept : j.ofTask (s.core.endTiles j) = true := by
    rw [htiles]
    exact htask
  have hself : ∀ x y : State, x.core.pid = s.core.pid → y.core.pid = s.core.pid → j.ofTask x.core = true →
      ((x.onStream .a).refuse (j.mode == .sup) 0x07 a) = y → y.core.a.exited = false →
      x.onCore j.pid (fun s1 => if j.ofTask s1.core then ((s1.onStream .a).refuse (j.mode == .sup) 0x07 a).settleEnd
        else if (0x07 : Nat) = 0x07 then s1.tried else s1) = y := by
    intro x y hx hy hof hrefuse hexited
    have hend : y.settleEnd = y := State.settleEnd_of_not_exited (by simp [hexited])
    simp only [State.onCore, hpid, ← hx, State.select_self, hof, if_true, hrefuse, hend]
    rw [hx, ← hy, State.select_self]
  rw [State.failJob, State.dropJob_own hpid htask]
  refine hself _ _ ?_ ?_ hkept ((State.refuse_denied ?_ ?_ a).trans ?_) ?_
  · rw [htiles]
  · rw [htiles]; rfl
  · rw [htiles]
    obtain hmode | hmode := hmode
    · exact .inl (by rw [hmode]; rfl)
    · exact .inr hmode
  · rw [htiles]
    exact Job.ofTask_isSome htask
  · rw [htiles]
    rfl
  · rw [htiles]
    exact hgoes

/-- COPY_JOB_FAULT_END ends a job whose next bytes are refused (R203). -/
theorem exec_copyJobFaultEnd_denied (hj : (s.clusterAt cl).jobs[idx]? = some j) (hrun : j.state.isParked = false) (hleft : j.next < j.total) {a : Word}
    (hpiece : s.nextPiece j = .error (.deny a)) : exec (.copyJobFaultEnd cl idx) s = .next (s.failJob cl idx j 0x07 a) := by
  have hat : s.jobAt cl idx = some j := hj
  change execCopyJobFaultEnd cl idx s = _
  simp [execCopyJobFaultEnd, hat, hrun, hleft, hpiece]

end

end Sys2Proof.Machine
end

section
/-! O54: copy jobs, promotions, arrivals of other devices and stream deadlocks. -/

namespace Sys2Proof.Machine

open Sys2Proof.Safety

section
variable {s : State}

/-! ### Promotion (R269, R357) -/

section
variable {r : Request} (hpending : s.core.pending = [r]) (hgoes : s.core.a.exited = false)
include hpending hgoes

/-- An event about the one waiting access of the current core that marks it. -/
theorem State.onAsk_marks {f : Ask → State → State} {r1 : Request}
    (hf : f (s.core.askOf r 0) s = { s with core := { s.core with pending := [r1] } }) :
    s.onAsk s.core.pid (.pending 0) f = { s with core := { s.core with pending := [r1] } } := by
  have hask : s.ask s.core.pid (.pending 0) = some (s.core.askOf r 0) := by simp [State.ask, State.coreAt_self, Core.asks, hpending, Core.askOf]
  refine (State.onAsk_self hask ?_ ?_).trans hf
  · rw [hf]
    simp [hgoes]
  · rw [hf]

section
variable (hserved : r.served = false) (hparked : r.parked = false)
include hserved hparked

theorem exec_netPacketPromote (hage : s.dev.netAge.toNat ≤ s.dev.cycle.toNat - r.born) :
    exec (.netPacketPromote s.core.pid (.pending 0)) s = .next { s with core := { s.core with pending := [{ r with netPromoted := true }] } } := by
  refine congrArg Host.Outcome.next (State.onAsk_marks hpending hgoes (f := fun a s1 =>
    if a.ready && decide (s1.dev.netAge.toNat ≤ s1.age a) then s1.updThis (fun k => k.promote a true) else s1) ?_)
  simp [Core.askOf, hserved, hparked, State.age, hage, State.updThis, Core.promote, hpending, modifyAt]

theorem exec_atomicPromote {cs : List Chunk}
    (hlocate : s.locate (r.who s.core) (if r.kind.isAtomic then .atomic else .store) r.addr r.kind.len = .ok cs)
    (hage : 64 ≤ s.dev.cycle.toNat - r.born) :
    exec (.atomicPromote s.core.pid (.pending 0)) s = .next { s with core := { s.core with pending := [{ r with promoted := true }] } } := by
  have hat : s.askAt (s.core.askOf r 0) = .ok cs := hlocate
  have hold : Config.promoteCycles ≤ s.age (s.core.askOf r 0) := hage
  have hready : (s.core.askOf r 0).ready = true := by simp [Core.askOf, hserved, hparked]
  have hmark : s.updThis (fun k => k.promote (s.core.askOf r 0) false) = { s with core := { s.core with pending := [{ r with promoted := true }] } } := by
    simp [State.updThis, Core.promote, Core.askOf, hpending, modifyAt]
  refine congrArg Host.Outcome.next (State.onAsk_marks hpending hgoes ?_)
  rw [hat]
  dsimp only
  rw [hready, decide_eq_true hold, hmark]
  split
  · rfl
  · rfl

end

end

/-! ### Arrivals of other devices (R283) -/

theorem exec_remoteDsyncArrival {ctx device : Nat} (hset : device ∈ (s.ctxAt ctx).domSet) (hother : device ≠ s.dev.domNum.toNat) (hlinks : s.dev.links ≠ 0) :
    exec (.remoteDsyncArrival ctx device) s = .next (s.updCtx ctx (fun x => { x with remote := x.remote ++ [device] })) := by
  have hset : (s.inDomain ctx device && s.dev.links != 0) = true := by
    rw [Bool.and_eq_true, bne_iff_ne]
    exact ⟨by simp [State.inDomain, hset, hother], hlinks⟩
  exact if_pos hset

/-! ### Stream deadlock (R93) -/

/-- Stream `x` of the core blocks at a queue for good, as `code` says: it has exited (0), waits to pop from queue `code`, or to push to `code - 8`. -/
def Core.BlocksAt (k : Core) (x : StreamId) (code : Nat) : Prop :=
  (k.str x).mode = .user ∧ (k.str x).stopped = none
    ∧ (((k.str x).exited = true ∧ code = 0)
      ∨ (k.str x).exited = false ∧ ((∃ q n, (k.str x).wait = some (.pop q n) ∧ (k.getQueue q).length < n ∧ code = q)
        ∨ ∃ q, (k.str x).wait = some (.push q) ∧ 16 ≤ (k.getQueue q).length ∧ code = q + 8))

theorem Core.BlocksAt.blocked {k : Core} {x : StreamId} {code : Nat} (h : k.BlocksAt x code) :
    k.queueBlocked x = true ∧ blockCode (if (k.str x).exited then none else k.queueBlock x) = code := by
  obtain ⟨hmode, hstopped, ⟨hexited, rfl⟩ | ⟨hexited, ⟨q, n, hwait, hless, rfl⟩ | ⟨q, hwait, hfull, rfl⟩⟩⟩ := h
  · simp [Core.queueBlocked, hexited, blockCode]
  · simp [Core.queueBlocked, Core.queueBlock, hexited, hmode, hstopped, hwait, hless, blockCode]
  · have hnot : ¬ (k.getQueue q).length < Config.queueDepth := Nat.not_lt.mpr hfull
    simp [Core.queueBlocked, Core.queueBlock, hexited, hmode, hstopped, hwait, hnot, blockCode]

/-- A trap of user mode is its core's. -/
theorem State.takeTrap_pid (s : State) (cause : Nat) (val pc ip : Word) (named : Option Nat) (waits : Bool) (hm : s.cur.mode = .user)
    (hc : cause ≠ 0x12) : (s.takeTrap cause val pc ip named waits).core.pid = s.core.pid := by
  obtain ⟨-, -, -, -, -, -, -, -, hpid, -⟩ := s.core.enterHandler_keeps cause val (trapPoint s pc ip named waits)
  obtain ⟨hcore, -⟩ := ({ s with core := s.core.enterHandler cause val (trapPoint s pc ip named waits) } : State).freeze_keeps cause
  rw [State.takeTrap_user s cause val pc ip named waits hm hc, State.stampTrap, State.updTask, hcore]
  exact hpid

/-- Two streams that block each other trap in the A-stream, with their blocks in TRAP.VAL. -/
theorem exec_streamDeadlock {code : StreamId → Nat} (htask : s.core.task.isSome = true) (hhandler : s.core.handler = none)
    (haflight : s.core.a.flight = []) (hcflight : s.core.c.flight = []) (hgoes : s.core.a.exited = false) (hblocks : ∀ x, s.core.BlocksAt x (code x)) :
    exec (.streamDeadlock s.core.pid) s = .next (((s.onStream .a).takeTrap 0x14 (.ofNat 64 (code .a + code .c * 256)) s.core.a.pc s.core.a.pc none
      true).select s.core.pid) := by
  obtain ⟨hablocked, hacode⟩ := (hblocks .a).blocked
  obtain ⟨hcblocked, -⟩ := (hblocks .c).blocked
  have hccode : blockCode (if s.core.c.exited then none else s.core.queueBlock .c) = code .c := (hblocks .c).blocked.2
  have haquiet : s.quietOn s.core .a = true := by simp [State.quietOn, Core.str, haflight]
  have hcquiet : s.quietOn s.core .c = true := by simp [State.quietOn, Core.str, hcflight]
  change execStreamDeadlock s.core.pid s = _
  simp only [Core.str, hgoes, Bool.false_eq_true, if_false] at hacode
  simp [execStreamDeadlock, State.onCore, State.select_self, htask, hhandler, haflight, hcflight, hgoes, hablocked, hcblocked, haquiet, hcquiet, hacode,
    hccode, Core.str]

end

end Sys2Proof.Machine

namespace Sys2Proof.Proofs

open Sys2Proof.Machine Sys2Proof.Safety

/-- Settles O54: a copy job moves a piece, acts on its target when it has moved all, and leaves its unit; the other events change what they name. -/
theorem copyAndDeadlockEventsComplete : Obligations.CopyAndDeadlockEventsComplete := by
  unfold Obligations.CopyAndDeadlockEventsComplete
  refine fun s => ⟨fun cl idx j hj hrun => ⟨?piece, ?none, ?barrier, ?tile, ?counter, ?refused⟩, ?promoted, ?remote, ?deadlock⟩
  case piece =>
    intro src dst len hleft hpiece hsrc hturn hclean hheld hlog hdst bs hbs
    obtain ⟨t, j1, hexec, hjob, hnext, hpool, hhost, hspad⟩ := exec_copyJobComplete_moves hj hrun hleft hpiece hsrc hturn hclean hheld hlog hdst
    have hbytes : s.pieceBytes j src dst = bs := by
      rw [State.pieceBytes]
      obtain ⟨hred, rfl⟩ | ⟨hred, rfl⟩ | ⟨hred, rfl⟩ := hbs
      · rw [if_pos hred]
      · rw [hred]
        rfl
      · rw [hred]
        rfl
    rw [hbytes] at hpool hhost
    exact ⟨t, j1, hexec, hjob, hnext, State.nextPiece_reducing hpiece, hpool, hhost, hspad⟩
  case none =>
    intro hdone _ hidle hkind
    have hleaves := State.dropJob_idle (cl := cl) (idx := idx) hidle
    rw [← State.finishJob_plain (.inl hkind)] at hleaves
    exact ⟨_, exec_copyJobComplete_ends hj hrun hdone (by rw [hkind]; decide), hleaves.jobs, hleaves.core, hleaves.contexts, hleaves.pool, hleaves.host⟩
  case barrier =>
    intro cs w x hdone _ hidle hkind hlocate hclean hlog hturn hw hx
    subst hw
    exact exec_copyJobComplete_arrives hj hrun hdone hidle hkind hlocate hclean hlog hturn hx
  case tile =>
    intro hdone hpid htask hgoes hkind hsource
    have hrelease := Core.getEntry_setEntry s.core (CopyReq.dtid_lt j.req) ((s.core.getEntry j.req.dtid).release true)
    refine ⟨_, exec_copyJobComplete_ends hj hrun hdone (by rw [hkind]; decide), ?_⟩
    rw [State.finishJob_tile hpid htask hgoes hkind hsource]
    refine ⟨s.updCluster_dropAt_jobs cl idx, congrArg TileEntry.jobs hrelease, fun hlast => ?_, fun n hn => Core.getEntry_setEntry_of_ne _ hn.symm _, rfl,
      rfl, rfl⟩
    refine (congrArg TileEntry.state hrelease).trans ?_
    simp [TileEntry.release, hlast]
  case counter =>
    intro q seq c hdone _ hidle hkind hq hseq hcmds hcseq hlive hcount
    have hdec := State.decrement_live hcmds hcseq hlive hcount
    have hleaves := State.dropJob_idle (s := s.decrement j.ctx q seq) (cl := cl) (idx := idx) (j := j) (by rw [hdec]; exact hidle)
    have hfinish : s.finishJob cl idx j = ((s.decrement j.ctx q seq).dropJob cl idx j).onCore j.pid State.settleEnd := by
      rw [hq, hseq]
      exact State.finishJob_counter hkind
    refine ⟨_, exec_copyJobComplete_ends hj hrun hdone (by rw [hkind]; decide), ?_, ?_⟩
    all_goals rw [hfinish]
    · rw [hleaves.jobs, hdec]
      rfl
    · rw [State.queueAt_congr hleaves.contexts, hdec, State.queueAt_decrement hcmds hcseq]
  case refused =>
    intro a hleft hpiece hpid htask hgoes hmode
    refine ⟨_, exec_copyJobFaultEnd_denied hj hrun hleft hpiece, ?_⟩
    rw [State.failJob_denied hpid htask hgoes hmode, Core.endTiles_eq]
    exact ⟨s.updCluster_dropAt_jobs cl idx, rfl, rfl, rfl, rfl⟩
  case promoted =>
    intro r cs hpending hserved hparked hgoes hlocate
    exact ⟨exec_netPacketPromote hpending hgoes hserved hparked, exec_atomicPromote hpending hgoes hserved hparked hlocate⟩
  case remote =>
    intro ctx device hset hother hlinks
    refine ⟨_, exec_remoteDsyncArrival hset hother hlinks, ?_, rfl, rfl⟩
    exact congrArg Context.remote (s.ctxAt_updCtx ctx (fun x => { x with remote := x.remote ++ [device] }) fun _ => rfl)
  case deadlock =>
    intro code htask hhandler haflight hcflight hpending hgoes htaken hblocks
    have hexec := exec_streamDeadlock (code := code) htask hhandler haflight hcflight hgoes hblocks
    have huser : (s.onStream .a).cur.mode = .user := (hblocks .a).1
    have hpid := (s.onStream .a).takeTrap_pid 0x14 (.ofNat 64 (code .a + code .c * 256)) s.core.a.pc s.core.a.pc none true huser (by decide)
    have htrapped := (s.onStream .a).takeTrap_trapped 0x14 (.ofNat 64 (code .a + code .c * 256)) s.core.a.pc none true huser (by decide)
    change Spec.Trapped (s.onStream .a) ((s.onStream .a).takeTrap 0x14 (.ofNat 64 (code .a + code .c * 256)) s.core.a.pc s.core.a.pc none true) 0x14 _
      at htrapped
    generalize (s.onStream .a).takeTrap 0x14 (.ofNat 64 (code .a + code .c * 256)) s.core.a.pc s.core.a.pc none true = t at hexec hpid htrapped
    obtain ⟨hcause, hval, hpc, hsel, hvec, hmode, -, -, -, -, -, hqueues, -⟩ := htrapped
    have hself : t.select s.core.pid = t := if_pos hpid
    rw [hself] at hexec
    rw [State.cur_of_a hsel] at hvec hmode
    have hsync : s.core.a.syncEntries = [] := by rw [Stream.syncEntries, haflight]; rfl
    have hgang : s.core.c.atGang = none := by rw [Stream.atGang, hcflight]; rfl
    exact ⟨t, hexec, hcause, hval, hpc, hmode, hvec, hqueues hsync htaken hgang⟩

end Sys2Proof.Proofs
end
